-- ==== Sys2Proof/Word.lean ====
section
/-! DEFINITION. The word types of the model: the byte and the little-endian register widths the spec names (R8, R15). -/
namespace Sys2Proof

/-- One byte. -/
abbrev Byte := BitVec 8
/-- A 16-bit field. -/
abbrev W16 := BitVec 16
/-- A 32-bit register or field. -/
abbrev W32 := BitVec 32
/-- A 64-bit register or field. -/
abbrev W64 := BitVec 64

/-- The two parts of R3. -/
inductive Part where
  | hyn968
  | hyn964
  deriving DecidableEq, Repr

end Sys2Proof
end

