-- ==== Sys2Proof/Syntax.lean ====
section
/-! DEFINITION. The commands the block takes: one constructor per row of spec/opcode_table.json, with the row's operands.
A hatch command's row names the hatch whose request firmware takes; `data` is what the command's DMA read of host memory
returned. A row for a happening carries the facts of the outside world that the happening brings (a measured power, a
received frame, a pin level), never a value the spec lets the device compute. -/
namespace Sys2Proof

/-- Which half of a 64-bit register an access covers (R16). -/
inductive Half where
  | lower | upper | full
  deriving DecidableEq, Repr

/-- What a DMA read of host memory was for (R535). -/
inductive DmaTarget where
  | command (hatch : Nat)
  | item (ch inst : Nat)
  deriving DecidableEq, Repr

/-- How a start step ended by itself (R506): passed, or found the listed members failing (`mask`), with a reason of R516. -/
structure StepFinding where
  ok : Bool
  reason : Nat
  mask : Nat
  source : Nat
  image : List Byte
  deriving DecidableEq, Repr

/-- The hello a Mirden partner sent in training, and how far training came (R481, R471). `authentic` says that its certificate chain
passed and the exchange ended; `serial` and `point` stand in its certificate, `eph` is its ephemeral point. -/
structure Hello where
  locked : Bool
  part : Part
  stepping : Nat
  fwMajor : Nat
  devid : Nat
  keeperEn : Bool
  mapVersion : Nat
  mapEmpty : Bool
  numerology : Nat
  epoch : Int
  authentic : Bool
  inTime : Bool
  serial : List Byte := []
  point : Nat × Nat := (0, 0)
  eph : Nat × Nat := (0, 0)
  deriving DecidableEq, Repr

/-- A host read of BAR0: its offset and its width in bytes. -/
structure BarRead where
  off : Nat
  width : Nat
  deriving DecidableEq, Repr

/-- What a migration epoch finds: the pages whose copy meets an uncorrectable error, and those still dirty after the second pass (R403). -/
structure EpochFinding where
  damaged : List Nat
  stalled : List Nat
  deriving DecidableEq, Repr

/-- When the phases of one solver iteration ended, in DT ns (R245), and whether a tile or an assembly met a fault (R241). -/
structure IterTiming where
  linEnd : Nat
  factEnd : Nat
  evalEnd : Nat
  nan : Bool
  overflow : Bool
  deriving DecidableEq, Repr

/-- The link-layer errors of R534's table. -/
inductive LinkError where
  | receiver | badTlp | badDllp | replayRollover | replayTimeout
  | dlProtocol | receiverOverflow | flowControl | malformedTlp
  deriving DecidableEq, Repr

/-- What the patrol scrub found in a frame (R406, R407, R408). -/
inductive ScrubFinding where
  | clean | corrected (n : Nat) | uncorrectable
  deriving DecidableEq, Repr

/-- The causes of a late access, R404. -/
inductive LateCause where
  | tierFault | migration | contention
  deriving DecidableEq, Repr

/-- What the fault codes of a read find (R406, R441): a failed counter line of either level, or a failed tag. -/
inductive ReadFinding where
  | clean | corrected (n : Nat) | uncorrectable | badLeafLine | badLevel2Line | badTag
  deriving DecidableEq, Repr

/-- A request at an arbiter: a burst of beats of 64 bytes from a unified address on (R419), or a locked sequence on a granule
(R423, R424). -/
inductive ArbRequest where
  | burst (addr beats : Nat) (write : Bool) (finding : ReadFinding)
  | lock (granule beats : Nat)
  deriving DecidableEq, Repr

/-- What the check bits of the shelf words a step read found (R172): nothing, corrections in the channel's shelf or in the common
shelf, or an uncorrectable error by what the word belongs to. -/
inductive ShelfFinding where
  | clean | corrected (n : Nat) | correctedCommon (n : Nat) | instanceBlock | sharedBlock (block : Nat) | context | firstBlocks
  deriving DecidableEq, Repr

/-- The kinds of map request, R311. -/
inductive MapReqKind where
  | placeSearch | descriptorMatch | verification
  deriving DecidableEq, Repr

/-- The PTP messages a port sends, R363. -/
inductive PtpSend where
  | sync | delayReq | announce | followUp
  deriving DecidableEq, Repr

/-- The commands, in the order of spec/opcode_table.json. -/
inductive Instr where
  -- BAR0 hatch accesses
  | hatchWrite (off width value : Nat)
  | ownSet (hatch value : Nat)
  | vectorWrite (hatch value : Nat)
  | patienceExpiry (hatch : Nat)
  -- 0x01xx
  | capQuery (hatch : Nat)
  | devState (hatch : Nat)
  | powerCap (hatch : Nat)
  | eventRingSet (hatch : Nat)
  | channelRole (hatch : Nat)
  | coreReset (hatch : Nat)
  | coreResetTimer
  | echo (hatch : Nat)
  | bootLoad (hatch : Nat) (data : List Byte)
  | telemetry (hatch : Nat)
  | channelTest (hatch : Nat)
  -- 0x02xx
  | sessionOpen (hatch : Nat)
  | sessionClose (hatch : Nat)
  | sessionCloseDone (hatch : Nat)
  | sessionConfig (hatch : Nat)
  | sessionSensor (hatch : Nat) (data : List Byte)
  | sessionQuery (hatch : Nat)
  | sessionCheckpoint (hatch : Nat)
  | sessionMove (hatch : Nat)
  | sessionMoveDone (hatch : Nat)
  | streamBind (hatch : Nat)
  | streamUnbind (hatch : Nat)
  -- 0x03xx
  | batchSubmit (hatch : Nat) (data : List Byte)
  | batchComplete (hatch : Nat)
  | resultAreaSet (hatch : Nat)
  | rareaRdWrite (area value : Nat)
  | resultIrqTimer (area : Nat)
  | evringRdWrite (value : Nat)
  -- 0x04xx
  | mapLoad (hatch : Nat) (data : List Byte)
  | mapLoadDone (hatch : Nat) (data : List Byte)
  | mapSave (hatch : Nat)
  | mapSaveDone (hatch : Nat)
  | mapInfo (hatch : Nat)
  | mapOriginSet (hatch : Nat)
  | mapOptimise (hatch : Nat)
  | mapOptimiseDone (hatch : Nat)
  -- 0x05xx
  | crateLoad (hatch : Nat)
  | crateLoadDone (hatch : Nat) (data : List Byte)
  | crateUnload (hatch : Nat)
  | crateInfo (hatch : Nat)
  | graphLoad (hatch : Nat)
  | graphLoadDone (hatch : Nat) (data : List Byte)
  | graphUnload (hatch : Nat)
  | graphUnloadDone (hatch : Nat)
  -- 0x06xx
  | timeStatus (hatch : Nat)
  | airEpochSet (hatch : Nat)
  | ptpPortSet (hatch : Nat)
  | eventAdd (hatch : Nat)
  | eventRemove (hatch : Nat)
  | tevSet (hatch : Nat)
  | launchQueue (hatch : Nat) (data : List Byte)
  -- 0x07xx
  | scuChainSet (hatch : Nat)
  | scuCoeffLoad (hatch : Nat) (data : List Byte)
  | scuChainRun (hatch : Nat)
  | chainStopDone (hatch : Nat)
  | soundingBind (hatch : Nat)
  | soundingUnbind (hatch : Nat)
  | antennaSet (hatch : Nat) (data : List Byte)
  -- 0x08xx
  | certRead (hatch : Nat)
  | attest (hatch : Nat)
  | contextCreate (hatch : Nat) (data : List Byte)
  | contextDestroy (hatch : Nat)
  | contextDestroyDone (hatch : Nat)
  | confEnter (hatch : Nat)
  | confExit (hatch : Nat)
  | modeSwitchDone (hatch : Nat)
  | keyRotate (hatch : Nat)
  | keyRotateDone (hatch : Nat)
  -- 0x09xx to 0x0Bxx
  | counterSnapshot (hatch : Nat)
  | traceSet (hatch : Nat)
  | errDetailRead (hatch : Nat)
  | loftRead (hatch : Nat)
  | loftStore (hatch : Nat) (data : List Byte) (readBackOk : Bool)
  | startLogRead (hatch : Nat)
  | systemInfo (hatch : Nat)
  | deltaIntervalSet (hatch : Nat)
  | linkRetrain (hatch : Nat)
  | linkRetrainTimeout (hatch : Nat)
  -- BAR0 register accesses
  | errClear (index value : Nat)
  | timeDtRead (half : Half)
  | measSeqRead
  | linkMeasSeqRead
  | halfReadLatch (read : BarRead)
  | timeIncWrite (half : Half) (value : Nat)
  | timeStepWrite (half : Half) (value : Nat)
  | capturePop (source value : Nat)
  | ppsCtlWrite (value : Nat)
  | registerWrite (off width value : Nat) (poisoned : Bool)
  | bar2Read (addr len : Nat) (finding : ReadFinding)
  | bar2Write (addr : Nat)
  | unsupportedRequest
  | dmaCompletionTimeout (target : DmaTarget) (poisoned : Bool)
  -- resets, start and pins
  | powerOn
  | resetN
  | perstN
  | refclkStop
  | watchdogReset
  | startStepEnd (finding : StepFinding)
  | startStepTimeout (finding : StepFinding)
  | recoveryReset
  | strapChange (devid : Nat) (keeperEn : Bool) (bootSrc : Nat)
  | pwrCapSample (pins : Nat)
  | powerWindow (deciWatts : Nat)
  | powerLimiterWindow (deciWatts : Nat)
  | thermalSample (tjQuarter tStoreQuarter : Int)
  | checkpointTimer (sid : Nat)
  -- the frame-graph sequencer and its engines
  | instanceCreate (ch slot : Nat)
  | stepDispatch (ch engine : Nat) (shelf : ShelfFinding)
  | stepEnded (ch engine : Nat)
  | dmaIn (ch inst : Nat) (data : List Byte)
  | imagingStep (ch : Nat) (shelf : ShelfFinding)
  | hypothesiseAndVerify (ch : Nat)
  | epipolarGather (ch : Nat)
  | tensorStep (ch : Nat) (lateTile : Bool) (shelf : ShelfFinding)
  | weightTileArrival (ch : Nat)
  | tierStallLimit (ch engine : Nat)
  | splitRequest (ch m n k : Nat)
  | splitResult (ch : Nat) (a b : List W32) (lateChunks : Nat)
  | solverStep (ch : Nat) (loadAt : Nat) (timing : List IterTiming) (shelf : ShelfFinding)
  | predict (ch : Nat)
  | grid (ch : Nat)
  | radio (ch : Nat)
  | tracks (ch : Nat)
  | ctxTake (ch inst : Nat) (shelf : ShelfFinding)
  | relocOutcome (ch inst : Nat)
  | relocWaitTimeout (ch inst : Nat)
  | ctxPeek (ch inst : Nat)
  | result (ch inst : Nat)
  | selfTestSlice (ch : Nat) (pass : Bool)
  | channelFailure (ch cause engine : Nat)
  | engineHang (ch engine : Nat)
  -- the map channels
  | mapRequest (ch : Nat) (kind : MapReqKind)
  | insertionBatch (ownerFaults : Bool)
  | loopClosureSearch (kf : Nat)
  | loopClosureCommit (job : Nat)
  | mapJobStart (job : Nat)
  | mapCommit (job : Nat) (ownerFaults : Bool)
  -- the event table, PTP and pins
  | eventFire (index : Nat)
  | tevPulseEnd (pin : Nat)
  | ppsOutEdge
  | captureEdge (source : Nat) (rising : Bool)
  | ptpFrameRx (port : Nat) (frame : List Byte) (stamp : Nat)
  | ptpMessageSend (port : Nat) (kind : PtpSend)
  | ptpAnnounceTimeout (port : Nat)
  | holdoverTimeout
  | clockClassTimer
  -- the radio intake
  | epFrameRx (port : Nat) (frame : List Byte) (bufferError : Bool)
  | symbolIncomplete (symbol : Nat)
  | elementRebuild (symbol : Nat)
  | testInjectionBlock (chain : Nat)
  | refTimeout (binding : Nat)
  | quarantineEnd (sid source : Nat)
  | anchorQuarantineEnd (array : Nat)
  | obsExpire (ctx group : Nat)
  -- the memory tiers and the fabric
  | migrationEpoch (finding : EpochFinding)
  | heatDecay
  | patrolScrubRead (frame : Nat) (finding : ScrubFinding)
  | lateAccess (requester : Nat) (store : Bool) (cause : LateCause)
  | controllerRetrain (store : Bool) (controller : Nat)
  | retrainEnd (store : Bool) (controller : Nat) (ok : Bool)
  | arbiterDecision (arbiter gone : Nat) (requests : List (Nat × ArbRequest))
  | starvation (arbiter requester : Nat)
  -- turns, scrubs and observation
  | turnClose
  | turnDrainLimit
  | scrubBegin
  | scrubEnd
  | counterLatch
  | traceSync
  -- the Mirden links
  | mpSignalPoll (port : Nat) (signal : Bool)
  | mpTrainingEnd (port : Nat) (hello : Hello)
  | mpRetryTimer (port : Nat)
  | mpSignalLost (port : Nat)
  | mpFrameSend (port : Nat)
  | mpFrameRx (port : Nat) (frame : List Byte) (stamp : Nat)
  | deltaBatchTick
  | mapLockGrant
  | catchUp (port : Nat)
  -- supply, resets' ends and late additions of the table
  | powerLoss (loftOld : Bool)
  | resetRelease
  | refclkReturn
  | epLinkDown (port : Nat)
  | epLinkUp (port : Nat)
  | ctxTakeDeadline (ch inst : Nat)
  | failureMoveDone (sid : Nat)
  | generationSweep (ctx : Nat)
  | sharedBlockRestored (ch slot : Nat)
  | unexpectedCompletion
  | linkLayerError (error : LinkError)
  deriving DecidableEq, Repr

end Sys2Proof
end

