-- ==== Sys2Proof/Config.lean ====
section
/-! DEFINITION. What an implementation fixes or the spec leaves open: constants with no body, so nothing in Lean can
evaluate them or prove a value of them. Each is named in a row of notes/assumptions. -/
namespace Sys2Proof.Config

/-- A fresh value of the spec's silences, drawn with the state's counter. -/
opaque freeValue : Nat → BitVec 64
/-- Fresh bytes of the spec's silences: which use, which draw. -/
opaque freeBytes : Nat → Nat → List Byte
/-- The device's secrets of R433: identity key, root memory key, root link key. -/
opaque identityKey : Nat
opaque rootMemoryKey : Nat
opaque rootLinkKey : Nat
/-- The identity key's public point (R433): x and y. -/
opaque identityPoint : Nat × Nat
/-- The certificate chain of R436. -/
opaque certChain : List Byte
/-- The public key of the Walquin firmware key in the boot ROM (R513). -/
opaque firmwareKey : Nat × Nat
/-- The boot ROM's version (R473). -/
opaque romVersion : Nat
/-- The security unit's noise source (R434), by draw. -/
opaque noise : Nat → Nat
/-- Numerical results that the spec bounds or leaves to an engine, from their inputs: which result, its inputs as bytes. -/
opaque numeric : Nat → List Byte → List Byte
/-- Numerical results of one number. -/
opaque numericNat : Nat → List Byte → Nat
/-- FP32 results. -/
opaque numeric32 : Nat → List Byte → BitVec 32
/-- FP64 results. -/
opaque numeric64 : Nat → List Byte → BitVec 64

/-- Whether an object of an area of R397 has data on a page: the areas' inner layouts are the implementation's. Area (use of
a page), object number, page. -/
opaque objectOn : Nat → Nat → Nat → Bool

/-- Conventions of a computation that the spec names and does not settle, by number (a row of notes/assumptions lists them). -/
opaque convention : Nat → Bool

end Sys2Proof.Config
end

