-- ==== Sys2Proof/Machine/Store.lean ====
section
/-! DEFINITION. The stores of the model: a finite map keyed by numbers, and byte memory as a list of (address, byte)
cells in one canonical form (addresses strictly rising, no zero byte listed: an unlisted address reads as zero), with
the little-endian fields of R8 and the check sum of R152. -/
namespace Sys2Proof.Machine

/-- A finite map from numbers: pairs in strictly rising order of the key. -/
abbrev NMap (α : Type) := List (Nat × α)

/-- The value held at a key. -/
def NMap.get? {α : Type} : NMap α → Nat → Option α
  | [], _ => none
  | (j, v) :: t, k => if j = k then some v else if k < j then none else NMap.get? t k

/-- The value held at a key, or a default. -/
def NMap.getD {α : Type} (m : NMap α) (k : Nat) (d : α) : α := (NMap.get? m k).getD d

/-- Whether a key is held. -/
def NMap.has {α : Type} (m : NMap α) (k : Nat) : Bool := (NMap.get? m k).isSome

/-- Sets a key, keeping the order. -/
def NMap.set {α : Type} : NMap α → Nat → α → NMap α
  | [], k, v => [(k, v)]
  | (j, w) :: t, k, v =>
    if k < j then (k, v) :: (j, w) :: t else if k = j then (k, v) :: t else (j, w) :: NMap.set t k v

/-- Removes a key. -/
def NMap.erase {α : Type} (m : NMap α) (k : Nat) : NMap α := m.filter (fun p => p.1 != k)

/-- Changes the value held at a key, if it is held. -/
def NMap.upd {α : Type} (m : NMap α) (k : Nat) (f : α → α) : NMap α :=
  match NMap.get? m k with
  | some v => NMap.set m k (f v)
  | none => m

/-- Adds to a counter map (an unlisted counter reads 0, R536). -/
def NMap.bump (m : NMap Nat) (k n : Nat) : NMap Nat := if n = 0 then m else NMap.set m k (NMap.getD m k 0 + n)

/-- The values, in rising order of the key. -/
def NMap.vals {α : Type} (m : NMap α) : List α := m.map (·.2)

/-- The least number below `bound` that is no key. -/
def NMap.lowestFree {α : Type} (m : NMap α) (bound : Nat) : Option Nat :=
  (List.range bound).find? (fun k => !NMap.has m k)

/-- Keys strictly rising. -/
def risingKeys {α : Type} : List (Nat × α) → Bool
  | [] => true
  | [_] => true
  | (a, _) :: (b, v) :: t => decide (a < b) && risingKeys ((b, v) :: t)

/-- Byte memory: cells in canonical form. -/
abbrev Mem := List Host.Cell

/-- The canonical form: addresses strictly rising, no cell equal to what an unlisted address reads as (zero). -/
def Memory.wf (m : Mem) : Bool := risingKeys m && m.all (fun c => c.2 != 0)

/-- The byte at an address; an unlisted address reads as zero. -/
def Mem.read (m : Mem) (a : Nat) : Byte :=
  match m.find? (fun c => c.1 == a) with
  | some c => c.2
  | none => 0

/-- The cells of bytes laid from an address on, zero bytes left out. -/
def Mem.cells : Nat → List Byte → Mem
  | _, [] => []
  | a, b :: bs => if b = 0 then Mem.cells (a + 1) bs else (a, b) :: Mem.cells (a + 1) bs

/-- Writes bytes from an address on. -/
def Mem.write (m : Mem) (a : Nat) (bs : List Byte) : Mem :=
  m.filter (fun c => decide (c.1 < a)) ++ (Mem.cells a bs ++ m.filter (fun c => decide (a + bs.length ≤ c.1)))

/-- Reads `n` bytes from an address on. -/
def Mem.bytes (m : Mem) (a n : Nat) : List Byte := (List.range n).map (fun i => Mem.read m (a + i))

/-- Clears `n` bytes from an address on. -/
def Mem.clear (m : Mem) (a n : Nat) : Mem :=
  m.filter (fun c => decide (c.1 < a) || decide (a + n ≤ c.1))

/-- The little-endian value of bytes (R8). -/
def leNat : List Byte → Nat
  | [] => 0
  | b :: bs => b.toNat + 256 * leNat bs

/-- `n` little-endian bytes of a number (R8); higher bytes are dropped. -/
def leBytes : Nat → Nat → List Byte
  | 0, _ => []
  | n + 1, v => BitVec.ofNat 8 v :: leBytes n (v / 256)

/-- `n` little-endian bytes of a signed number in two's complement (R8, R10). -/
def leInt (n : Nat) (v : Int) : List Byte := leBytes n (v % (2 ^ (8 * n) : Nat)).toNat

/-- A number read as a signed value of `w` bits. -/
def asSigned (w v : Nat) : Int := if 2 * v < 2 ^ w then (v : Int) else (v : Int) - (2 ^ w : Nat)

/-- `n` bytes of a list from an offset on; bytes past the end read as zero. -/
def bytesAt (bs : List Byte) (off n : Nat) : List Byte :=
  let part := (bs.drop off).take n
  part ++ List.replicate (n - part.length) 0

/-- A little-endian field of `n` bytes at an offset. -/
def fieldAt (bs : List Byte) (off n : Nat) : Nat := leNat (bytesAt bs off n)

/-- A signed little-endian field of `n` bytes at an offset. -/
def intAt (bs : List Byte) (off n : Nat) : Int := asSigned (8 * n) (fieldAt bs off n)

/-- Whether `n` bytes from an offset on are all zero. -/
def zeroAt (bs : List Byte) (off n : Nat) : Bool := (bytesAt bs off n).all (· == 0)

/-- A list cut or padded with zero bytes to a length. -/
def padTo (n : Nat) (bs : List Byte) : List Byte := bytesAt bs 0 n

/-- Bytes laid over a list at an offset. -/
def overlay (bs : List Byte) (off : Nat) (part : List Byte) : List Byte :=
  padTo off bs ++ part ++ bs.drop (off + part.length)

/-- `n` big-endian bytes of a number, for the standards R8 excepts. -/
def beBytes (n v : Nat) : List Byte := (leBytes n v).reverse

/-- A big-endian field of `n` bytes at an offset. -/
def beAt (bs : List Byte) (off n : Nat) : Nat := leNat (bytesAt bs off n).reverse

/-- One bit of the CRC of R152 in its reflected form. -/
def crcBit (c : BitVec 32) : BitVec 32 := if c.getLsbD 0 then (c >>> 1) ^^^ 0xEDB88320#32 else c >>> 1

/-- One byte of the CRC of R152. -/
def crcByte (c : BitVec 32) (b : Byte) : BitVec 32 :=
  crcBit (crcBit (crcBit (crcBit (crcBit (crcBit (crcBit (crcBit (c ^^^ b.setWidth 32))))))))

/-- CRC-32 with polynomial 0x04C1_1DB7 as IEEE 802.3 uses it (R152). -/
def crc32 (bs : List Byte) : BitVec 32 := bs.foldl crcByte 0xFFFFFFFF#32 ^^^ 0xFFFFFFFF#32

/-- Replaces the element at an index. -/
def setAt {α : Type} (l : List α) (i : Nat) (v : α) : List α := l.set i v

/-- Changes the element at an index. -/
def updAt {α : Type} (l : List α) (i : Nat) (f : α → α) : List α := l.modify i f

/-- The parts of a list, `n` elements each. -/
def chunksOf {α : Type} (n : Nat) : Nat → List α → List (List α)
  | 0, _ => []
  | k + 1, l => if l.isEmpty then [] else l.take n :: chunksOf n k (l.drop n)

/-- The pieces of `n` bytes of a byte string. -/
def records (n : Nat) (bs : List Byte) : List (List Byte) := chunksOf n bs.length bs

/-- Bit `n` of a number. -/
def bit (v n : Nat) : Bool := v.testBit n

/-- Bits [hi:lo] of a number (R7). -/
def bits (v hi lo : Nat) : Nat := (v >>> lo) % 2 ^ (hi + 1 - lo)

/-- 1 for true, 0 for false. -/
def b2n (b : Bool) : Nat := if b then 1 else 0

/-- A mask of the positions of a list that are true, from bit 0 up. -/
def maskOf (l : List Bool) : Nat := l.foldr (fun b acc => b2n b + 2 * acc) 0

/-- The set bits of a mask below a width, in ascending order. -/
def bitsSet (m w : Nat) : List Nat := (List.range w).filter (fun i => bit m i)

end Sys2Proof.Machine
end

