-- ==== Sys2Proof/Machine/Crypto.lean ====
section
/-! DEFINITION. The published algorithms of R435 that the device applies to data it is given: SM3, SM4 in GCM, the SM2 curve and
the check of an SM2 signature (GB/T 32905, 32907, 32918). -/
namespace Sys2Proof.Machine

/-- Big-endian 32-bit words of bytes. -/
def beWords (bs : List Byte) : List W32 := (records 4 bs).map (fun r => BitVec.ofNat 32 (leNat r.reverse))

/-- The big-endian bytes of a word. -/
def wordBytes (w : W32) : List Byte := beBytes 4 w.toNat

/-- SM3's message words W0 to W67 from the 16 of a block. -/
def sm3Expand : Nat → List W32 → List W32
  | 0, ws => ws
  | n + 1, ws =>
    let g := fun i => ws.getD (ws.length - i) 0
    let x := g 16 ^^^ g 9 ^^^ (g 3).rotateLeft 15
    let p := x ^^^ x.rotateLeft 15 ^^^ x.rotateLeft 23
    sm3Expand n (ws ++ [p ^^^ (g 13).rotateLeft 7 ^^^ g 6])

/-- One round of SM3 on the eight registers. -/
def sm3Round (ws : List W32) (v : List W32) (j : Nat) : List W32 :=
  let g := fun i => v.getD i 0
  let a := g 0; let b := g 1; let c := g 2; let d := g 3; let e := g 4; let f := g 5; let gg := g 6; let h := g 7
  let t : W32 := if j < 16 then 0x79CC4519 else 0x7A879D8A
  let ss1 := (a.rotateLeft 12 + e + t.rotateLeft (j % 32)).rotateLeft 7
  let ss2 := ss1 ^^^ a.rotateLeft 12
  let ff := if j < 16 then a ^^^ b ^^^ c else (a &&& b) ||| (a &&& c) ||| (b &&& c)
  let gf := if j < 16 then e ^^^ f ^^^ gg else (e &&& f) ||| (~~~e &&& gg)
  let tt1 := ff + d + ss2 + (ws.getD j 0 ^^^ ws.getD (j + 4) 0)
  let tt2 := gf + h + ss1 + ws.getD j 0
  [tt1, a, b.rotateLeft 9, c, tt2 ^^^ tt2.rotateLeft 9 ^^^ tt2.rotateLeft 17, e, f.rotateLeft 19, gg]

/-- SM3's compression of one block. -/
def sm3Block (v : List W32) (blk : List Byte) : List W32 :=
  let ws := sm3Expand 52 (beWords blk)
  List.zipWith (· ^^^ ·) ((List.range 64).foldl (sm3Round ws) v) v

/-- SM3 (GB/T 32905): 32 bytes. -/
def sm3 (msg : List Byte) : List Byte :=
  let n := msg.length
  let padded := msg ++ [0x80#8] ++ List.replicate ((119 - n % 64) % 64) 0 ++ beBytes 8 (8 * n)
  let iv : List W32 := [0x7380166F, 0x4914B2B9, 0x172442D7, 0xDA8A0600, 0xA96F30BC, 0x163138AA, 0xE38DEE4D, 0xB0FB0E4E]
  ((records 64 padded).foldl sm3Block iv).flatMap wordBytes

/-- The key derivation function of GB/T 32918.4: `n` bytes. -/
def sm3Kdf (z : List Byte) (n : Nat) : List Byte :=
  ((List.range ((n + 31) / 32)).flatMap (fun i => sm3 (z ++ beBytes 4 (i + 1)))).take n

/-- SM4's S-box, row by row. -/
def sm4Sbox : List Nat :=
  [0xd6,0x90,0xe9,0xfe,0xcc,0xe1,0x3d,0xb7,0x16,0xb6,0x14,0xc2,0x28,0xfb,0x2c,0x05,
   0x2b,0x67,0x9a,0x76,0x2a,0xbe,0x04,0xc3,0xaa,0x44,0x13,0x26,0x49,0x86,0x06,0x99,
   0x9c,0x42,0x50,0xf4,0x91,0xef,0x98,0x7a,0x33,0x54,0x0b,0x43,0xed,0xcf,0xac,0x62] ++
  [0xe4,0xb3,0x1c,0xa9,0xc9,0x08,0xe8,0x95,0x80,0xdf,0x94,0xfa,0x75,0x8f,0x3f,0xa6,
   0x47,0x07,0xa7,0xfc,0xf3,0x73,0x17,0xba,0x83,0x59,0x3c,0x19,0xe6,0x85,0x4f,0xa8,
   0x68,0x6b,0x81,0xb2,0x71,0x64,0xda,0x8b,0xf8,0xeb,0x0f,0x4b,0x70,0x56,0x9d,0x35] ++
  [0x1e,0x24,0x0e,0x5e,0x63,0x58,0xd1,0xa2,0x25,0x22,0x7c,0x3b,0x01,0x21,0x78,0x87,
   0xd4,0x00,0x46,0x57,0x9f,0xd3,0x27,0x52,0x4c,0x36,0x02,0xe7,0xa0,0xc4,0xc8,0x9e,
   0xea,0xbf,0x8a,0xd2,0x40,0xc7,0x38,0xb5,0xa3,0xf7,0xf2,0xce,0xf9,0x61,0x15,0xa1] ++
  [0xe0,0xae,0x5d,0xa4,0x9b,0x34,0x1a,0x55,0xad,0x93,0x32,0x30,0xf5,0x8c,0xb1,0xe3,
   0x1d,0xf6,0xe2,0x2e,0x82,0x66,0xca,0x60,0xc0,0x29,0x23,0xab,0x0d,0x53,0x4e,0x6f,
   0xd5,0xdb,0x37,0x45,0xde,0xfd,0x8e,0x2f,0x03,0xff,0x6a,0x72,0x6d,0x6c,0x5b,0x51] ++
  [0x8d,0x1b,0xaf,0x92,0xbb,0xdd,0xbc,0x7f,0x11,0xd9,0x5c,0x41,0x1f,0x10,0x5a,0xd8,
   0x0a,0xc1,0x31,0x88,0xa5,0xcd,0x7b,0xbd,0x2d,0x74,0xd0,0x12,0xb8,0xe5,0xb4,0xb0,
   0x89,0x69,0x97,0x4a,0x0c,0x96,0x77,0x7e,0x65,0xb9,0xf1,0x09,0xc5,0x6e,0xc6,0x84] ++
  [0x18,0xf0,0x7d,0xec,0x3a,0xdc,0x4d,0x20,0x79,0xee,0x5f,0x3e,0xd7,0xcb,0x39,0x48]

/-- SM4's S-box on the four bytes of a word. -/
def sm4Tau (w : W32) : W32 :=
  BitVec.ofNat 32 (leNat ((wordBytes w).map (fun b => BitVec.ofNat 8 (sm4Sbox.getD b.toNat 0))).reverse)

/-- SM4's key schedule constant of round i. -/
def sm4Ck (i : Nat) : W32 :=
  BitVec.ofNat 32 (leNat ((List.range 4).map (fun j => BitVec.ofNat 8 (7 * (4 * i + j)))).reverse)

/-- SM4's round keys. -/
def sm4Keys (key : List Byte) : List W32 :=
  let k0 := List.zipWith (· ^^^ ·) (beWords key) [0xA3B1BAC6#32, 0x56AA3350#32, 0x677D9197#32, 0xB27022DC#32]
  ((List.range 32).foldl (fun ks i =>
    let g := fun j => ks.getD (i + j) 0
    let b := sm4Tau (g 1 ^^^ g 2 ^^^ g 3 ^^^ sm4Ck i)
    ks ++ [g 0 ^^^ b ^^^ b.rotateLeft 13 ^^^ b.rotateLeft 23]) k0).drop 4

/-- SM4's encryption of one block (GB/T 32907). -/
def sm4Encrypt (keys : List W32) (blk : List Byte) : List Byte :=
  let xs := keys.foldl (fun x k =>
    let g := fun j => x.getD j 0
    let b := sm4Tau (g 1 ^^^ g 2 ^^^ g 3 ^^^ k)
    [g 1, g 2, g 3, g 0 ^^^ b ^^^ b.rotateLeft 2 ^^^ b.rotateLeft 10 ^^^ b.rotateLeft 18 ^^^ b.rotateLeft 24]) (beWords blk)
  xs.reverse.flatMap wordBytes

/-- GCM's product in GF(2^128), most significant bit first. -/
def gcmMul (x y : BitVec 128) : BitVec 128 :=
  ((List.range 128).foldl (fun (zv : BitVec 128 × BitVec 128) i =>
    let z := if x.getMsbD i then zv.1 ^^^ zv.2 else zv.1
    let v := if zv.2.getLsbD 0 then (zv.2 >>> 1) ^^^ (0xE1#128 <<< 120) else zv.2 >>> 1
    (z, v)) (0#128, y)).1

/-- The 128-bit value of a block. -/
def blockVal (b : List Byte) : BitVec 128 := BitVec.ofNat 128 (leNat (padTo 16 b).reverse)

/-- GHASH over whole blocks. -/
def ghash (h : BitVec 128) (bs : List Byte) : BitVec 128 :=
  (records 16 bs).foldl (fun y b => gcmMul (y ^^^ blockVal b) h) 0

/-- Pads to whole blocks of 16 bytes. -/
def pad16 (bs : List Byte) : List Byte := padTo ((bs.length + 15) / 16 * 16) bs

/-- GCM's key stream applied to data. -/
def gcmCtr (keys : List W32) (nonce data : List Byte) : List Byte :=
  let ks := (List.range ((data.length + 15) / 16)).flatMap (fun i => sm4Encrypt keys (nonce ++ beBytes 4 (i + 2)))
  List.zipWith (· ^^^ ·) data ks

/-- GCM's 16-byte tag. -/
def gcmTag (keys : List W32) (nonce aad ct : List Byte) : List Byte :=
  let h := blockVal (sm4Encrypt keys (List.replicate 16 0))
  let g := ghash h (pad16 aad ++ pad16 ct ++ beBytes 8 (8 * aad.length) ++ beBytes 8 (8 * ct.length))
  List.zipWith (· ^^^ ·) (beBytes 16 g.toNat) (sm4Encrypt keys (nonce ++ beBytes 4 1))

/-- SM4-GCM sealing: ciphertext, then the tag (R97, R435). -/
def gcmSeal (key nonce aad plain : List Byte) : List Byte :=
  let keys := sm4Keys key
  let ct := gcmCtr keys nonce plain
  ct ++ gcmTag keys nonce aad ct

/-- SM4-GCM opening of ciphertext and tag: none where the tag fails. -/
def gcmOpen (key nonce aad sealed : List Byte) : Option (List Byte) :=
  let keys := sm4Keys key
  if sealed.length < 16 then none
  else
    let ct := sealed.take (sealed.length - 16)
    if gcmTag keys nonce aad ct = sealed.drop (sealed.length - 16) then some (gcmCtr keys nonce ct) else none

/-- The field and order of the recommended SM2 curve (GB/T 32918.5). -/
def sm2P : Nat := 0xFFFFFFFEFFFFFFFFFFFFFFFFFFFFFFFFFFFFFFFF00000000FFFFFFFFFFFFFFFF
def sm2B : Nat := 0x28E9FA9E9D9F5E344D5A9E4BCF6509A7F39789F515AB8F92DDBCBD414D940E93
def sm2N : Nat := 0xFFFFFFFEFFFFFFFFFFFFFFFFFFFFFFFF7203DF6B21C6052B53BBF40939D54123
def sm2G : Nat × Nat :=
  (0x32C4AE2C1F1981195F9904466A39C9948FE30BBFF2660BE1715A4589334C74C7,
   0xBC3736A2F4F6779C59BDCEE36B692153D0A9877CC62A474002DF32E52139F0A0)

/-- a to the power e modulo p, over the bits of e. -/
def powMod (p a e : Nat) : Nat :=
  (List.range 256).foldl (fun (rb : Nat × Nat) i =>
    (if e.testBit i then rb.1 * rb.2 % p else rb.1, rb.2 * rb.2 % p)) (1, a % p) |>.1

/-- Whether a point lies on the curve (R454). -/
def sm2OnCurve (q : Nat × Nat) : Bool :=
  decide (q.1 < sm2P) && decide (q.2 < sm2P) &&
    q.2 * q.2 % sm2P == (q.1 * q.1 * q.1 + (sm2P - 3) * q.1 + sm2B) % sm2P

/-- The sum of two points; none is the point at infinity. -/
def sm2Add : Option (Nat × Nat) → Option (Nat × Nat) → Option (Nat × Nat)
  | none, q => q
  | p, none => p
  | some (x1, y1), some (x2, y2) =>
    if x1 = x2 && (y1 + y2) % sm2P = 0 then none
    else
      let l := if x1 = x2 then (3 * x1 * x1 + (sm2P - 3)) * powMod sm2P (2 * y1) (sm2P - 2) % sm2P
        else (y2 + sm2P - y1) * powMod sm2P (x2 + sm2P - x1) (sm2P - 2) % sm2P
      let x3 := (l * l + 2 * sm2P - x1 - x2) % sm2P
      some (x3, (l * (x1 + sm2P - x3) + sm2P - y1) % sm2P)

/-- A multiple of a point. -/
def sm2Mul (k : Nat) (p : Option (Nat × Nat)) : Option (Nat × Nat) :=
  (List.range 256).foldl (fun (rb : Option (Nat × Nat) × Option (Nat × Nat)) i =>
    (if k.testBit i then sm2Add rb.1 rb.2 else rb.1, sm2Add rb.2 rb.2)) (none, p) |>.1

/-- The hash Z of a signer's ID and key (GB/T 32918.2). -/
def sm2Z (id : List Byte) (key : Nat × Nat) : List Byte :=
  sm3 (beBytes 2 (8 * id.length) ++ id ++ beBytes 32 (sm2P - 3) ++ beBytes 32 sm2B ++ beBytes 32 sm2G.1 ++
    beBytes 32 sm2G.2 ++ beBytes 32 key.1 ++ beBytes 32 key.2)

/-- The check of an SM2 signature, r then s (R435). -/
def sm2Verify (key : Nat × Nat) (id msg sig : List Byte) : Bool :=
  let r := beAt sig 0 32
  let s := beAt sig 32 32
  let e := beAt (sm3 (sm2Z id key ++ msg)) 0 32
  let t := (r + s) % sm2N
  sm2OnCurve key && decide (0 < r) && decide (r < sm2N) && decide (0 < s) && decide (s < sm2N) && t != 0 &&
    (match sm2Add (sm2Mul s (some sm2G)) (sm2Mul t (some key)) with
     | some q => (e + q.1) % sm2N == r
     | none => false)

/-- An SM2 signature by the identity key, with the device serial as signer ID (R476); k from the noise source. -/
def sm2Sign (id msg : List Byte) (draw : Nat) : List Byte :=
  let e := beAt (sm3 (sm2Z id Config.identityPoint ++ msg)) 0 32
  let k := Config.noise draw % (sm2N - 1) + 1
  match sm2Mul k (some sm2G) with
  | some q =>
    let r := (e + q.1) % sm2N
    let d := Config.identityKey
    let s := powMod sm2N (1 + d) (sm2N - 2) * (k + sm2N * sm2N - r * d) % sm2N
    beBytes 32 r ++ beBytes 32 s
  | none => beBytes 64 0

/-- The bytes of a point: x, then y, each big-endian as the standards of R435 have them. -/
def pointBytes (p : Nat × Nat) : List Byte := beBytes 32 p.1 ++ beBytes 32 p.2

/-- x̄ of GB/T 32918.3 with w = 127. -/
def xBar (x : Nat) : Nat := 2 ^ 127 + x % 2 ^ 127

/-- SM2 key exchange (GB/T 32918.3): from a side's private and ephemeral keys and the partner's two points, the side's ephemeral point
and the common point. None where a point is the one at infinity. -/
def sm2Shared (d r : Nat) (pa ra : Nat × Nat) : Option ((Nat × Nat) × (Nat × Nat)) :=
  match sm2Mul r (some sm2G) with
  | none => none
  | some p =>
    match sm2Mul ((d + xBar p.1 * r) % sm2N) (sm2Add (some pa) (sm2Mul (xBar ra.1) (some ra))) with
    | none => none
    | some v => some (p, v)

/-- SM2 decryption of C1 ‖ C3 ‖ C2 with a private key (GB/T 32918.4, R435): none where C1 is no point or C3 fails. -/
def sm2Decrypt (d : Nat) (c : List Byte) : Option (List Byte) :=
  let p := (beAt c 1 32, beAt c 33 32)
  let c3 := bytesAt c 65 32
  let c2 := c.drop 97
  if fieldAt c 0 1 == 4 && sm2OnCurve p then
    match sm2Mul d (some p) with
    | some q =>
      let x := beBytes 32 q.1
      let y := beBytes 32 q.2
      let m := (c2.zip (sm3Kdf (x ++ y) c2.length)).map (fun e => e.1 ^^^ e.2)
      if sm3 (x ++ m ++ y) == c3 then some m else none
    | none => none
  else none

end Sys2Proof.Machine
end

