-- ==== Sys2Proof/Machine/Num.lean ====
section
/-! DEFINITION. Numbers of the spec's formats: the rounding of R12, FP32 and FP64 (R10, R181) read as exact rationals, and the
square-root and trigonometry steps that rules compare against. -/
namespace Sys2Proof.Machine

/-- A binary32 value, as its bits (R10). -/
abbrev F32 := BitVec 32
/-- A binary64 value, as its bits. -/
abbrev F64 := BitVec 64

/-- Rounds to nearest with ties away from zero (R12). -/
def roundAway (q : Rat) : Int := if 0 ≤ q then (q + 1 / 2).floor else -((-q + 1 / 2).floor)

/-- Clamps a number to a range. -/
def clampInt (lo hi v : Int) : Int := if v < lo then lo else if hi < v then hi else v

/-- R12's conversion to a signed field of `w` bits: the value, and whether it saturated. -/
def toSigned (w : Nat) (q : Rat) : Int × Bool :=
  let r := roundAway q
  let lo : Int := -(2 ^ (w - 1) : Nat)
  let hi : Int := (2 ^ (w - 1) : Nat) - 1
  (clampInt lo hi r, decide (r < lo) || decide (hi < r))

/-- R12's conversion to an unsigned field with a greatest value: the value, and whether it saturated. -/
def toUnsigned (hi : Nat) (q : Rat) : Nat × Bool :=
  let r := roundAway q
  ((clampInt 0 hi r).toNat, decide (r < 0) || decide ((hi : Int) < r))

/-- Whether binary32 bits are a NaN. -/
def f32IsNan (b : F32) : Bool := bits b.toNat 30 23 == 255 && bits b.toNat 22 0 != 0
/-- Whether binary32 bits are finite. -/
def f32IsFinite (b : F32) : Bool := bits b.toNat 30 23 != 255
/-- Two to an integer power. -/
def pow2 (e : Int) : Rat := if 0 ≤ e then (2 ^ e.toNat : Nat) else 1 / (2 ^ (-e).toNat : Nat)
/-- The exact value of finite binary32 bits (an infinity reads as 2^128 of its sign, a NaN as 0). -/
def f32Val (b : F32) : Rat :=
  let s : Rat := if bit b.toNat 31 then -1 else 1
  let e := bits b.toNat 30 23
  let m := bits b.toNat 22 0
  if e == 255 then (if m == 0 then s * pow2 128 else 0)
  else if e == 0 then s * m * pow2 (-149)
  else s * (m + 2 ^ 23 : Nat) * pow2 ((e : Int) - 150)
/-- Whether binary64 bits are finite. -/
def f64IsFinite (b : F64) : Bool := bits b.toNat 62 52 != 2047
/-- The exact value of finite binary64 bits (an infinity reads as 2^1024 of its sign, a NaN as 0). -/
def f64Val (b : F64) : Rat :=
  let s : Rat := if bit b.toNat 63 then -1 else 1
  let e := bits b.toNat 62 52
  let m := bits b.toNat 51 0
  if e == 2047 then (if m == 0 then s * pow2 1024 else 0)
  else if e == 0 then s * m * pow2 (-1074)
  else s * (m + 2 ^ 52 : Nat) * pow2 ((e : Int) - 1075)

/-- Rounds to nearest, ties to even. -/
def roundEven (q : Rat) : Int :=
  let f := q.floor
  let r := q - f
  if r < 1 / 2 then f else if 1 / 2 < r then f + 1 else if f % 2 = 0 then f else f + 1

/-- The greatest exponent e with 2^e ≤ q, for q > 0, searched within a bound. -/
def ilog2 (q : Rat) : Int :=
  let n : Int := (Nat.log2 q.num.natAbs : Int) - (Nat.log2 q.den : Int)
  if pow2 n ≤ q then (if pow2 (n + 1) ≤ q then n + 1 else n) else n - 1

/-- The binary32 bits nearest to a rational, ties to even; beyond the largest finite value it saturates to that value
(R181, R241). -/
def f32Of (q : Rat) : F32 :=
  if q = 0 then 0
  else
    let s := if q < 0 then 2 ^ 31 else 0
    let a := if q < 0 then -q else q
    let e := max (ilog2 a) (-126)
    let m := (roundEven (a * pow2 (23 - e))).toNat
    let (m, e) := if m == 2 ^ 24 then (2 ^ 23, e + 1) else (m, e)
    if 127 < e then BitVec.ofNat 32 (s + 0x7F7FFFFF)
    else if m < 2 ^ 23 then BitVec.ofNat 32 (s + m)
    else BitVec.ofNat 32 (s + (e + 127).toNat * 2 ^ 23 + (m - 2 ^ 23))

/-- The binary64 bits nearest to a rational, ties to even; beyond the largest finite value it saturates. -/
def f64Of (q : Rat) : F64 :=
  if q = 0 then 0
  else
    let s := if q < 0 then 2 ^ 63 else 0
    let a := if q < 0 then -q else q
    let e := max (ilog2 a) (-1022)
    let m := (roundEven (a * pow2 (52 - e))).toNat
    let (m, e) := if m == 2 ^ 53 then (2 ^ 52, e + 1) else (m, e)
    if 1023 < e then BitVec.ofNat 64 (s + 0x7FEFFFFFFFFFFFFF)
    else if m < 2 ^ 52 then BitVec.ofNat 64 (s + m)
    else BitVec.ofNat 64 (s + (e + 1023).toNat * 2 ^ 52 + (m - 2 ^ 52))

/-- An FP32 field of a byte string. -/
def f32At (bs : List Byte) (off : Nat) : F32 := BitVec.ofNat 32 (fieldAt bs off 4)
/-- An FP64 field of a byte string. -/
def f64At (bs : List Byte) (off : Nat) : F64 := BitVec.ofNat 64 (fieldAt bs off 8)
/-- `n` FP32 fields in a row. -/
def f32sAt (bs : List Byte) (off n : Nat) : List F32 := (List.range n).map (fun i => f32At bs (off + 4 * i))
/-- `n` FP64 fields in a row. -/
def f64sAt (bs : List Byte) (off n : Nat) : List F64 := (List.range n).map (fun i => f64At bs (off + 8 * i))
/-- The bytes of FP32 values. -/
def f32Bytes (l : List F32) : List Byte := l.flatMap (fun b => leBytes 4 b.toNat)
/-- The bytes of FP64 values. -/
def f64Bytes (l : List F64) : List Byte := l.flatMap (fun b => leBytes 8 b.toNat)
/-- An FP32 field that is finite and lies in a range. -/
def f32In (b : F32) (lo hi : Rat) : Bool := f32IsFinite b && decide (lo ≤ f32Val b) && decide (f32Val b ≤ hi)

/-- The value of component `i` of a vector of FP64 values. -/
def vec64 (l : List F64) (i : Nat) : Rat := f64Val (l.getD i 0)
/-- The value of component `i` of a vector of FP32 values. -/
def vec32 (l : List F32) (i : Nat) : Rat := f32Val (l.getD i 0)

/-- The integer square root, bit by bit from the highest. -/
def isqrtGo : Nat → Nat → Nat → Nat
  | 0, _, r => r
  | k + 1, n, r => if (r + 2 ^ k) * (r + 2 ^ k) ≤ n then isqrtGo k n (r + 2 ^ k) else isqrtGo k n r
def isqrt (n : Nat) : Nat := isqrtGo (Nat.log2 n / 2 + 1) n 0
/-- A square root to 60 fraction bits, rounded down. -/
def sqrtQ (q : Rat) : Rat := if q ≤ 0 then 0 else (isqrt (q * (4 ^ 60 : Nat)).floor.toNat : Rat) / (2 ^ 60 : Nat)

/-- The squared distance of two points. -/
def dist2 (a b : List F64) : Rat :=
  (vec64 a 0 - vec64 b 0) ^ 2 + (vec64 a 1 - vec64 b 1) ^ 2 + (vec64 a 2 - vec64 b 2) ^ 2

end Sys2Proof.Machine
end

