-- ==== Sys2Proof/Machine/State.lean ====
section
/-! DEFINITION. The state of the block as plain data, subsystem by subsystem: what a core reset rebuilds stands in `Core`; what
survives it (pins, endpoint, loft, sticky errors) stands beside it. Each field's docstring names its rule. -/
namespace Sys2Proof.Machine

/-- Why a step stops with a fault. No command of this block stops: the spec gives each of them an effect. -/
inductive Fault where
  /-- Never raised: kept so that the outcome type has a fault to name (safe). -/
  | none
  deriving DecidableEq, Repr

/-- Why a step is refused. -/
inductive Refusal where
  /-- Raised by an arm of `exec` whose command has no meaning yet (safe). -/
  | notModelled (mnemonic : String)
  deriving DecidableEq, Repr

/-- What the block sends out, newest last: DMA writes, interrupt messages, frames, pin edges, bus read data. -/
inductive Out where
  | dmaWrite (addr : Nat) (data : List Byte)
  | dmaRead (addr len : Nat)
  | msi (vector addr data : Nat)
  | trace (rec : List Byte)
  | readData (data : List Byte) (ep : Bool)
  | ethFrame (port : Nat) (dt : Nat) (frame : List Byte)
  | mirden (port : Nat) (frame : List Byte)
  | ppsEdge (dt : Nat) (high : Bool)
  | tevEdge (pin : Nat) (quarterNs : Nat) (high : Bool)
  | unsupported
  deriving DecidableEq, Repr

/-! ### Pins, endpoint, loft, errors -/

/-- The outside levels and the fixed facts of the part (R3, R433, R543, R546). -/
structure Hw where
  /-- The part (R3). -/
  part : Part := .hyn968
  /-- Device serial, 128 bits (R433). -/
  serial : BitVec 128 := 0
  /-- Cellar fitted on the board, GiB: 0, 64, 128 or 256 (R543). -/
  cellarFit : Nat := 256
  /-- Rails up (R552). -/
  rails : Bool := true
  /-- REFCLK_IN running (R548). -/
  refclk : Bool := true
  /-- RESET_N level (R504). -/
  resetN : Bool := true
  /-- PERST_N level (R504). -/
  perstN : Bool := true
  /-- DEVID[2:0] strap pins (R546). -/
  devidPins : Nat := 0
  /-- KEEPER_EN strap pin (R546). -/
  keeperPin : Bool := false
  /-- BOOT_SRC[1:0] strap pins (R511). -/
  bootPins : Nat := 0
  /-- PWR_CAP[1:0] pins as last sampled (R36). -/
  capPins : Nat := 0
  /-- Link up at EP0 and EP1 (R385): down while the lanes are idle (R550), up again by EP_LINK_UP. -/
  epUp : List Bool := [false, false]
  deriving DecidableEq, Repr

/-- One MSI-X table entry (R98, PCI Express Base Specification). -/
structure MsixEntry where
  addr : W64 := 0
  data : W32 := 0
  ctrl : W32 := 1
  deriving DecidableEq, Repr

/-- What belongs to the PCIe endpoint (R98, R502, R534). -/
structure Pcie where
  /-- MSI-X table, 64 entries (R98). -/
  table : List MsixEntry := List.replicate 64 {}
  /-- MSI-X pending bit array (R98). -/
  pba : W64 := 0
  /-- AER uncorrectable status (R534). -/
  aerUncorr : W32 := 0
  /-- AER correctable status (R534). -/
  aerCorr : W32 := 0
  deriving DecidableEq, Repr

/-- One start record (R516). -/
structure StartRec where
  startNo : Nat := 0
  cause : Nat := 0
  bootSrc : Nat := 0
  source : Nat := 255
  final : Nat := 255
  fwVersion : Nat := 0
  chExcluded : Nat := 0
  mpHeld : Nat := 0
  epDisabled : Nat := 0
  flags : Nat := 0
  outcome : List Nat := List.replicate 10 255
  reason : List Nat := List.replicate 10 0
  chFailed : Nat := 0
  stepUs : List Nat := List.replicate 10 0
  dtReady : Nat := 0
  deriving DecidableEq, Repr

/-- The remedies that hold until a power-on start (R508). -/
structure Remedies where
  flashSwap : Bool := false
  storeConservative : Bool := false
  cellarSkip : Bool := false
  mpHold : Bool := false
  epSkip : Nat := 0
  chSkip : Nat := 0
  deriving DecidableEq, Repr

/-- The loft (R515, R518, R519): pages 0 to 31 as bytes, the start log as records, the firmware state. -/
structure Loft where
  /-- Page p's byte o at address 4096·p + o (R518). -/
  pages : Mem := []
  /-- Writes of each page (R519). -/
  writes : NMap Nat := []
  /-- Start records, newest first, at most 512 (R515). -/
  log : List StartRec := []
  /-- Starts since manufacture (R516). -/
  nextStart : Nat := 0
  /-- R508. -/
  remedies : Remedies := {}
  /-- The image a LOFT_STORE is replacing, with the instant (R519, and the first row of the decision table of 15). -/
  lastStore : Option (Nat × List Byte × Nat) := none
  deriving DecidableEq, Repr

/-- One sticky error record (R526). -/
structure ErrReg where
  bits : W32 := 0
  firstDt : W64 := 0
  firstInfo : W64 := 0
  deriving DecidableEq, Repr

/-- One entry of the error history (R532, R533). -/
structure ErrEntry where
  dt : Nat
  index : Nat
  bitNo : Nat
  bits : Nat
  info : Nat
  deriving DecidableEq, Repr

/-- The sticky error registers and the history (R525, R532). -/
structure Err where
  regs : List ErrReg := List.replicate 16 {}
  history : List ErrEntry := []
  deriving DecidableEq, Repr

/-! ### Start and device status -/

/-- Where the device stands between resets (R502, R505, R506, R510). -/
inductive Phase where
  | unpowered | st0 | inReset | starting | ready | safe
  deriving DecidableEq, Repr

/-- Start, status and firmware (R95, R502 to R516, R540). -/
structure Sys where
  phase : Phase := .st0
  /-- DEV_STATUS.STEP (R95). -/
  step : Nat := 0
  /-- DT ns at which the present start step began (R516). -/
  stepBegan : Nat := 0
  /-- The reset cause the coming start records (R502). -/
  cause : Nat := 0
  /-- The boot ROM serves safe mode (R510). -/
  romSafe : Bool := false
  /-- The host is the active boot source, and since when (R511, R514). -/
  hostSource : Bool := false
  hostBegan : Nat := 0
  /-- DEV_STATUS.EVT_LOST (R95). -/
  evtLost : Bool := false
  /-- DEV_STATUS.HATCH_PROTO (R95). -/
  hatchProto : Bool := false
  /-- DEV_STATUS.CONF (R95, R463). -/
  conf : Bool := false
  /-- DEV_STATUS.SCRUB (R95, R468). -/
  scrub : Bool := false
  /-- Latched DEVID (R546). -/
  devid : Nat := 0
  /-- Latched KEEPER_EN (R546). -/
  keeperEn : Bool := false
  /-- Latched BOOT_SRC (R511). -/
  bootSrc : Nat := 0
  /-- FW_VERSION of R104. -/
  fwVersion : Nat := 0
  /-- FW_MEAS of R473. -/
  fwMeas : List Byte := List.replicate 32 0
  /-- DT at which CORE_RESET takes effect (R106). -/
  coreResetAt : Option Nat := none
  /-- DT at which a recovery reset takes effect (R509, R409). -/
  recoveryAt : Option Nat := none
  /-- The start record of this start (R516). -/
  record : StartRec := {}
  deriving DecidableEq, Repr

/-! ### Hatches and rings -/

/-- The work of an ACCEPTED command, or of one whose response waits (R88). -/
inductive Job where
  | sessionClose (sid : Nat)
  | sessionMove (sid chan : Nat)
  | batch (id : Nat)
  | mapLoad (addr len version : Nat)
  | mapSave (addr maxLen version : Nat)
  | mapOptimise (job : Nat)
  | mapOrigin (payload : List Byte)
  | crateLoad (slot addr len : Nat)
  | graphLoad (graph mask addr len : Nat)
  | graphUnload (graph mask : Nat)
  | contextDestroy (ctx : Nat)
  | confEnter
  | confExit
  | keyRotate (ctx : Nat)
  | linkRetrain (port due : Nat)
  | chainStop (chain : Nat)
  deriving DecidableEq, Repr

/-- One hatch's control state (R84, R88, R92, R456). -/
structure HatchCtl where
  /-- HATCH_CTL.OWN. -/
  own : Bool := false
  /-- HATCH_CTL.PENDING. -/
  pend : Bool := false
  /-- HATCH_CTL.VECTOR. -/
  vector : Nat := 0
  /-- Tenant context the hatch is assigned to, 0 for none (R92). -/
  assigned : Nat := 0
  /-- IRQ of the request in hand (R98). -/
  irq : Bool := false
  /-- SEALED of the request in hand, with its counter (R97, R456). -/
  sealCtr : Option Nat := none
  /-- Last accepted request counter of the context (R456). -/
  lastCtr : Nat := 0
  /-- Work of the accepted command (R88). -/
  job : Option Job := none
  deriving DecidableEq, Repr

/-- The hatches (R82 to R96). -/
structure Hatches where
  /-- The 16 KiB of hatch bytes (R80). -/
  mem : Mem := []
  ctl : List HatchCtl := (List.range 64).map (fun n => { vector := n })
  /-- HATCH_DONE (R96). -/
  done : W64 := 0
  /-- Owned and not yet taken, H00 to H07, by arrival (R90). -/
  queueM : List Nat := []
  /-- Owned and not yet taken, H08 to H63, by arrival (R90). -/
  queueG : List Nat := []
  /-- DT of each hatch's OWN_SET, for ties of one cycle (R90). -/
  ownAt : NMap Nat := []
  deriving DecidableEq, Repr

/-- A result area (R59, R60, R111). -/
structure Area where
  base : Nat := 0
  /-- Records; 0 while the area is not set. -/
  size : Nat := 0
  vector : Nat := 255
  coalN : Nat := 1
  coalUs : Nat := 1
  wr : W32 := 0
  rd : W32 := 0
  reserved : Nat := 0
  /-- Records written since the last interrupt, with the DT of the first (R111). -/
  since : Nat := 0
  firstAt : Nat := 0
  deriving DecidableEq, Repr

/-- Register halves, rings and areas of BAR0 (R16, R59, R100 to R103). -/
structure Rings where
  /-- Latched upper halves, by register offset (R16). -/
  latch : NMap W32 := []
  /-- Held lower halves, by register offset (R16). -/
  held : NMap W32 := []
  areas : List Area := List.replicate 16 {}
  evBase : Nat := 0
  /-- Entries of the event ring; 0 before EVENT_RING_SET (R100). -/
  evSize : Nat := 0
  evVector : Nat := 0
  evWr : W32 := 0
  /-- EVRING_RD (R101). -/
  evRd : W32 := 0
  /-- Entries held, oldest first, at most 4096 (R103). -/
  evHeld : List (List Byte) := []
  deriving DecidableEq, Repr

/-! ### Sessions, streams, batches -/

/-- The states of R45 other than FREE. -/
inductive SessState where
  | provisional | normal | moving | closing
  deriving DecidableEq, Repr

/-- One sensor slot (R109), with what firmware computes when SESSION_SENSOR completes (R119, R120). -/
structure Sensor where
  type : Nat := 0
  width : Nat := 0
  height : Nat := 0
  /-- FX, FY, CX, CY. -/
  cam : List F32 := [0, 0, 0, 0]
  /-- K1 to K4. -/
  dist : List F32 := [0, 0, 0, 0]
  t : List F32 := [0, 0, 0]
  q : List F32 := [0, 0, 0, 0]
  depthScale : F32 := 0
  noise : List F32 := [0, 0, 0, 0]
  /-- Copied mesh table (R121). -/
  mesh : List Byte := []
  /-- Fold radius (R120). -/
  fold : F32 := 0
  deriving DecidableEq, Repr

/-- The client clock model (R65). -/
structure Clock where
  /-- Offset o, ns. -/
  o : Int := 0
  /-- Drift d. -/
  d : F32 := 0
  /-- Client time of the first sample; none before the first item (R66). -/
  tRef : Option Nat := none
  deriving DecidableEq, Repr

/-- The solved state of a session: the solution header of R250 and the fusion block of R270, and the map version pinned. -/
structure Solved where
  header : List Byte := []
  fusion : List Byte := []
  mapVersion : Nat := 0
  /-- Earliest sample instant in the solved window (R73). -/
  earliest : Int := 0
  deriving DecidableEq, Repr

/-- The state of one pair of R266. -/
structure PairSt where
  /-- 0 CLEAR, 1 CONFLICTED, 2 HELD. -/
  st : Nat := 0
  n : Nat := 0
  last : Bool := false
  deriving DecidableEq, Repr

/-- The ties of a keypoint (R255, R258, R259): the POINT variable of its landmark, its map point, the frames its track has lasted, its
first pixel and that frame's instant. -/
structure Tie where
  landmark : Option Nat := none
  point : Option (List F64) := none
  frames : Nat := 1
  firstX : Int := 0
  firstY : Int := 0
  firstAt : Option Int := none
  deriving DecidableEq, Repr

/-- Configuration of a session (R108). -/
structure SessCfg where
  cls : Nat := 0
  group : Nat := 0
  area : Nat := 0
  horizonMs : Nat := 2000
  latencyMs : Nat := 100
  exitPos : Nat := 100
  exitHead : Nat := 20
  exitSigma : Nat := 500
  deriving DecidableEq, Repr

/-- A dense prior (R47, R222): the instant and the values it is linearised at, of a motion state, when it has one, and of the clock; the rows of its
square-root information, FP32, over the motion's scalars and then the clock's two; its residual there. -/
structure DensePrior where
  at_ : Int := 0
  motion : List Byte := []
  clock : List Byte := []
  info : List (List F32) := []
  rhs : List F32 := []
  deriving DecidableEq, Repr

/-- The session context of "The context" in 02: what a checkpoint holds and a move carries. -/
structure SessCtx where
  cfg : SessCfg := {}
  clock : Clock := {}
  sensors : List Sensor := List.replicate 4 {}
  /-- Last accepted state (R75, R79). -/
  solved : Option Solved := none
  /-- Gyroscope and accelerometer biases, with the covariance the solver keeps (The context). -/
  bias : List F32 := []
  /-- The marginal on the latest pose, velocity, biases and clock that a checkpoint holds (R47). -/
  marginal : Option DensePrior := none
  /-- Keypoint list carried over (R129, R164): each keypoint's number within the session and its record of R127. -/
  keypoints : List (Nat × List Byte) := []
  nextKp : Nat := 0
  /-- The reference view: the keypoints of the session's previous keyframe, likewise (R256). -/
  reference : List (Nat × List Byte) := []
  /-- What each keypoint of the two lists is tied to (R255, R258, R259). -/
  ties : NMap Tie := []
  late : W32 := 0
  discarded : W32 := 0
  thinned : W32 := 0
  /-- LATE_DISCARD (R68, R71). -/
  lateDiscard : Bool := false
  /-- WINDOW (R263). -/
  window : W32 := 0
  /-- CAMERA–ODOMETRY, CAMERA–RADIO, ODOMETRY–RADIO (R266). -/
  pairs : List PairSt := [{}, {}, {}]
  /-- Histories of CAMERA, ODOMETRY, RADIO (R265). -/
  history : List F32 := [0x3F800000, 0x3F800000, 0x3F800000]
  /-- Quarantine ends of CAMERA and ODOMETRY, DT ns (R268). -/
  quarCamera : Option Nat := none
  quarOdometry : Option Nat := none
  /-- Windows since the last with a CAMERA source; none without a map fix (Relocalisation). -/
  mapFix : Option Nat := none
  deriving DecidableEq, Repr

/-- An entry of a session's radio queue (R260, R261): its instant, its array, whether it came late, its mean position 3 × FP64 with the upper
triangle of that position's covariance 6 × FP32, and its two factor records. -/
structure RadioEntry where
  ts : Nat
  array : Nat
  late : Bool
  pos : List F64
  cov : List F32
  records : List Byte
  deriving DecidableEq, Repr

/-- A knot of a session's graph (R219): its instant, DT ns, and its MOTION block. -/
structure Knot where
  at_ : Int
  block : Nat
  deriving DecidableEq, Repr

/-- A delta that the intake has formed (R228, R257 to R260): POINT variables it adds, block and value, and factor records. -/
structure Delta where
  points : List (Nat × List Byte) := []
  records : List (List Byte) := []
  deriving DecidableEq, Repr

/-- A clique (R231 to R233): its pivots and its border in the order of elimination; the values that its factors are linearised at; the rows of its
triangular factor over both, the right-hand side, the pivot scalars fixed by a gauge (R240), and the update of its parent's front, in FP32. -/
structure Clique where
  pivots : List Nat
  border : List Nat
  points : NMap (List Byte) := []
  rows : List (List F32) := []
  rhs : List F32 := []
  fixed : List Nat := []
  update : List (List F32) := []
  updRhs : List F32 := []
  /-- Cleared where a clique is to be factorised afresh (R247). -/
  valid : Bool := true
  deriving DecidableEq, Repr

/-- The structure area of a session (R214, R219, R231). -/
structure SeStruct where
  /-- KNOT_MS of the session (R219). -/
  knotMs : Option Nat := none
  /-- Instant of the session's first sample (R219). -/
  first : Option Int := none
  /-- Knots, oldest first (R219). -/
  knots : List Knot := []
  /-- Factor records by FACTOR_ID, their variables named by block (R225). -/
  factors : NMap (List Byte) := []
  /-- Variable blocks by index: type code and value bytes (R216). -/
  vars : NMap (Nat × List Byte) := []
  /-- Next FACTOR_ID that the intake gives. -/
  nextFactor : Nat := 0x40000000
  /-- Linearisation points (R218, R232). -/
  lin : NMap (List Byte) := []
  /-- The cliques in the order of elimination: the elimination order is that of their pivots (R231). -/
  cliques : List Clique := []
  /-- The fill at the last full reorder (R231). -/
  fill : Nat := 0
  /-- Variables whose cliques the next job finds affected (R232, R241, R325). -/
  marks : List Nat := []
  /-- The SWITCH of a switchable odometry factor, by the block of the knot its interval begins at (R221, R266). -/
  odoSwitch : NMap Nat := []
  /-- The dense prior on the oldest knot and the clock (R66, R215, R222). -/
  prior : Option DensePrior := none
  /-- Delta held by a refused job (R244). -/
  heldDelta : Option Delta := none
  /-- Arrival terms of R224, oldest first: arrival DT and newest client stamp. -/
  arrivals : List (Nat × Nat) := []
  /-- Instants of the samples the next job takes, each with its kind (1 frame, 4 inertial, 5 odometry) and record (R73, R221). -/
  samples : List (Int × List Byte) := []
  /-- Samples of the window that jobs have taken, likewise; 6 stands for a radio estimate. -/
  past : List (Int × List Byte) := []
  /-- Slots s that STEREO items have named, with s + 1 beside each (R227, R253). -/
  stereo : List Nat := []
  deriving DecidableEq, Repr

/-- A checkpoint (R47). -/
structure Ckpt where
  dt : Nat
  ctx : SessCtx
  /-- Map version whose corrections the context stands in (R325). -/
  pinned : Nat := 0
  deriving DecidableEq, Repr

/-- A session that is not FREE (R43, R45). -/
structure Session where
  /-- Context that opened it (R43). -/
  owner : Nat := 0
  chan : Nat := 0
  state : SessState := .provisional
  /-- State to restore after a move that SESSION_MOVE asked for (R48). -/
  before : SessState := .provisional
  /-- The move in progress: its target, and whether it is a failure move (R48, R523). -/
  moveTo : Option (Nat × Bool) := none
  ctx : SessCtx := {}
  /-- The two checkpoint slots, the slot to write next, and the DT of the last checkpoint (R47). -/
  ckpts : List (Option Ckpt) := [none, none]
  nextSlot : Nat := 0
  lastCkpt : Nat := 0
  /-- t_out (R68): none before the first record. -/
  tOut : Option Nat := none
  /-- Consecutive solves that pass R74. -/
  exitCount : Nat := 0
  /-- DT of the last admitted camera frame (R63). -/
  lastFrame : Option Nat := none
  /-- Flags owed to the next record: MOVED, MODE_CHANGED, LATE_APPLIED, SOURCES bit 6 (R77, R69, R325). -/
  oweMoved : Bool := false
  oweMode : Bool := false
  oweLate : Bool := false
  /-- Instants of the late samples that no solve has applied yet (R69). -/
  latePending : List Int := []
  oweMap : Bool := false
  /-- Map version whose corrections the context stands in (R325). -/
  pinned : Nat := 0
  se : SeStruct := {}
  /-- Radio queue, oldest first, at most 32 (R261). -/
  radioQ : List RadioEntry := []
  /-- A relocalisation in flight (R319). -/
  reloc : Bool := false
  /-- Keyframes whose landmarks the session has observed since its last correction (R325). -/
  observed : List Nat := []
  /-- A close waits for the move to end (R91). -/
  closeAfter : Bool := false
  /-- The working image of the session's previous camera item, which the flow tracker tracks from (R115, R130). -/
  lastImage : List Byte := []
  deriving DecidableEq, Repr

/-- A bound stream (R50). -/
structure Stream where
  kind : Nat
  graph : Nat
  deadlineMs : Nat
  deriving DecidableEq, Repr

/-- What has become of an item (R56, R110). -/
structure Item where
  /-- The 32 bytes of R55. -/
  bytes : List Byte
  /-- Status once it has ended. -/
  status : Option Nat := none
  /-- In an instance. -/
  started : Bool := false
  /-- Its record, if wanted, is written and it counts as ended (R57). -/
  written : Bool := false
  /-- What its instance gives the record: FLAGS of the solution header, SATURATED, the version pinned. -/
  hflags : Nat := 0
  saturated : Bool := false
  version : Nat := 0
  deriving DecidableEq, Repr

/-- A batch in progress (R54, R56). -/
structure Batch where
  hatch : Nat
  ctx : Nat
  area : Nat
  flags : Nat
  cookie : Nat
  deadline : Nat
  /-- Counter of the sealed request, for the binding of its chunks (R458). -/
  reqCtr : Nat := 0
  items : List Item := []
  deriving DecidableEq, Repr

/-! ### Antenna arrays -/

/-- One element of an antenna array (R352). -/
structure Element where
  eaxc : Nat
  enabled : Bool
  offset : List Int
  delay : Int
  phase : Int
  gain : Int
  deriving DecidableEq, Repr

/-- An antenna array (R351), with its votes and quarantine (R269). -/
structure Antenna where
  pos : List Int := [0, 0, 0]
  quat : List Int := [0x4000, 0, 0, 0]
  mask : Nat := 0
  elements : List Element := []
  deriving DecidableEq, Repr

/-! ### Graphs, instances, channels -/

/-- A range of R153. -/
structure Range where
  first : Nat
  count : Nat
  shared : Bool := false
  deriving DecidableEq, Repr

/-- A step table entry (R153) with its parameter block. -/
structure GStep where
  engine : Nat
  streaming : Bool
  itemsMax : Nat
  countBlk : Nat
  countOff : Nat
  param : List Byte
  crate : Nat
  progOff : Nat
  ins : List Range
  outs : List Range
  deriving DecidableEq, Repr

/-- A checked graph image (R152). -/
structure Graph where
  kind : Nat
  instances : Nat
  blocks : Nat
  shared : Nat
  crateMask : Nat
  steps : List GStep
  image : List Byte
  /-- Contents of the shared blocks, address 4096·block + byte. -/
  sharedMem : Mem := []
  deriving DecidableEq, Repr

/-- A graph in a slot of one channel (R157, R158). -/
structure Slot where
  graph : Graph
  mask : Nat
  /-- No longer resident once an unload is accepted (R158). -/
  resident : Bool := true
  /-- Shared blocks being restored (R172). -/
  restoring : List Nat := []
  /-- The graph's image copy is lost (R409). -/
  copyLost : Bool := false
  deriving DecidableEq, Repr

/-- What an instance runs for (R159). -/
inductive Origin where
  | item (batch idx : Nat)
  | symbol (sym : Nat)
  | cycleSolve (group : Nat)
  | cycleTrack (group : Nat)
  | mapJob (job : Nat)
  deriving DecidableEq, Repr

/-- The course of a step in its instance (R161, R163, R165). -/
inductive StepSt where
  | waiting
  | ready (since : Nat)
  | running
  | ended
  | skipped
  deriving DecidableEq, Repr

/-- Work waiting for an instance (R159). -/
structure Waiting where
  slot : Nat
  origin : Origin
  ctx : Nat
  sid : Option Nat
  arrival : Nat
  deadline : Nat
  /-- Taken past admission and policy (R62, R451). -/
  admitted : Bool := false
  /-- Order of entry (R164). -/
  seq : Nat := 0
  deriving DecidableEq, Repr

/-- A correction of R325: its version, keyframe, camera position and ΔT = T′·T⁻¹ as 3 × FP64 and a unit quaternion of 4 × FP64. -/
structure Corr where
  version : Nat
  kf : Nat
  pos : List F64
  delta : List F64
  deriving DecidableEq, Repr

/-- What an item's DMA_IN brought into its session, for the refusal that a corrupt frame brings later (R19, R117): the samples kept, the instants of
those that came late, whether it set the clock (R66), its arrival term (R224), the stereo slot it was the first to name. -/
structure Took where
  samples : List (Int × List Byte) := []
  late : List Int := []
  first : Bool := false
  arrival : Option (Nat × Nat) := none
  stereo : Option Nat := none
  deriving DecidableEq, Repr

/-- A graph instance (R159 to R166). -/
structure Inst where
  slot : Nat
  origin : Origin
  ctx : Nat
  sid : Option Nat
  arrival : Nat
  deadline : Nat
  /-- Map version pinned (R303). -/
  mapVersion : Nat
  mem : Mem := []
  /-- Blocks whose tag is READY (R161). -/
  tags : List Nat := []
  steps : List StepSt := []
  /-- Status forced on the item: DEADLINE, POISONED, BAD_ARGUMENT, INTEGRITY (R165, R172, R117, R459). -/
  status : Option Nat := none
  /-- ITEMS_CLAMPED (R166). -/
  clamped : Bool := false
  saturated : Bool := false
  /-- Holds the session's context (R169). -/
  holds : Bool := false
  /-- Waits in CTX_TAKE for a relocalisation since, until (R319); outcome records once it came. -/
  relocWait : Option (Nat × Nat) := none
  relocOut : Option (List Byte) := none
  /-- Order of entry into the channel's queues (R164). -/
  seq : Nat := 0
  /-- Sensor slots as the item's classification found them (R109). -/
  calib : List Sensor := []
  /-- FLAGS of the solution header of the instance's solve (R250). -/
  hflags : Nat := 0
  /-- Base-level pixels of the item's vision work (R62, R149). -/
  cost : Nat := 0
  /-- DT instant of the item's frame (R65, R68): none without a frame, or when it was discarded. -/
  frameAt : Option Int := none
  /-- The working copy of the context, from CTX_TAKE to RESULT (R154, R169). -/
  work : Option SessCtx := none
  /-- The snapshot that its CTX_PEEK took (R154, R254). -/
  peek : Option SessCtx := none
  /-- Its CTX_TAKE waits for a slot of the common shelf, counted already (R170). -/
  ctxWaited : Bool := false
  /-- What its DMA_IN brought into the session (R117). -/
  took : Took := {}
  /-- The DT at which its item was admitted, and the admission before it (R63), for a refusal (R19). -/
  admitted : Option (Nat × Option Nat) := none
  /-- The correction that its CTX_TAKE applied (R325). -/
  corr : Option Corr := none
  /-- Numbers of the keypoints of its frame, in the order of its list. -/
  kpIds : List Nat := []
  /-- The antenna arrays of its symbol (R353). -/
  arrays : List Antenna := []
  /-- The solve of this instance was accepted (R320, R248). -/
  accepted : Bool := false
  deriving DecidableEq, Repr

/-- A weight tile (R190): its layer, where it begins in the crate's body, its length. -/
structure WTile where
  layer : Nat
  off : Nat
  len : Nat
  deriving DecidableEq, Repr

/-- What the layers of a tensor program have left so far in the activation buffers and the tensor scratch (R173, R185): tensors by index; NaNs,
saturation, bad groups and bad reference rows found on the way. -/
structure TaRun where
  env : NMap (List Byte) := []
  nans : Nat := 0
  sat : Bool := false
  sparse : Nat := 0
  rows : Nat := 0
  deriving DecidableEq, Repr

/-- The buffers of a channel's tensor arrays (R173, R190, R452). -/
structure TaBuf where
  /-- The step has begun: its program's tiles are listed. -/
  begun : Bool := false
  /-- Serial number of the step, in the tweak of its scratch (R452). -/
  serial : Nat := 0
  /-- The tiles that the two halves of the weight buffers hold; the passes run on the last. -/
  halves : List WTile := []
  /-- The tiles to come: the first is the one fetch in flight (R190). -/
  todo : List WTile := []
  /-- Layers done. -/
  layers : Nat := 0
  act : TaRun := {}
  deriving DecidableEq, Repr

/-- An engine of a channel (R114, R163): the step it runs, since when it stalls on a late tier, when it last did anything. -/
structure Engine where
  run : Option (Nat × Nat) := none
  stall : Option Nat := none
  /-- The work of the step it runs has been done; the step ends with STEP_ENDED. -/
  worked : Bool := false
  lastMove : Nat := 0
  /-- Crate of the previous tensor step (R452). -/
  lastCrate : Option Nat := none
  /-- The tensor arrays' buffers (of the engine TA). -/
  ta : TaBuf := {}
  deriving DecidableEq, Repr

/-- A split-precision request in the exchange area (R195). -/
structure Split where
  m : Nat
  n : Nat
  k : Nat
  /-- Taken while a tensor step ran (R198). -/
  yielded : Bool
  deriving DecidableEq, Repr

/-- The exchange area of a channel, blocks 192 to 255 of its shelf (R195): the two operand halves and their tags, the result area and its tag, the
descriptor block. -/
structure Exchange where
  halves : List (List W32) := [[], []]
  full : List Bool := [false, false]
  result : List W32 := []
  resultReady : Bool := false
  desc : Option Split := none
  deriving DecidableEq, Repr

/-- A request of a relocalisation or of a closure search to a map channel (R311, R319, R322): the session and instance that ask, the query of ROLE 4 with the
imaging header, keypoints and descriptors, the position prior (east, north, standard deviation), the candidates left. -/
structure MapReq where
  kind : MapReqKind
  sid : Nat
  ch : Nat
  inst : Nat
  place : List Byte
  query : List Byte
  prior : Option (Rat × Rat × Rat)
  cands : List Nat := []
  /-- The matches of the first candidate: query index, landmark. -/
  matched : List (Nat × Nat) := []
  /-- The inserted keyframe whose closure is searched (R322); none in a relocalisation. -/
  closure : Option Nat := none
  deriving DecidableEq, Repr

/-- A spatial channel (R21, R22, R107, R159). -/
structure Chan where
  present : Bool := true
  inService : Bool := false
  mapRole : Bool := false
  /-- 0 off, 1 self-test, 2 fixed seed (R107). -/
  testMode : Nat := 0
  /-- DT of the last self-test slice, or of the start of test mode 1 (R107). -/
  lastSlice : Nat := 0
  /-- VE, gather unit, TA, SE, FU, FGS (ENGINE codes of ERR_CHANn). -/
  engines : List Engine := List.replicate 6 {}
  insts : NMap Inst := []
  nextInst : Nat := 0
  /-- Work waiting, in order of entry (R159). -/
  queue : List Waiting := []
  nextSeq : Nat := 0
  split : Option Split := none
  /-- Requests tagged while another runs, in the order of their tags (R198). -/
  splitWaits : List Split := []
  exch : Exchange := {}
  /-- Requests waiting on this map channel (R311). -/
  requests : List MapReq := []
  deriving DecidableEq, Repr

/-- A crate slot that is not empty (R447, R448, CRATE_INFO). -/
structure Crate where
  /-- Header bytes 0x000 to 0x0B7. -/
  header : List Byte
  measurement : List Byte
  body : List Byte
  /-- 1 ready, 2 reload wanted. -/
  state : Nat
  /-- Pages it occupies (R191). -/
  pages : List Nat
  deriving DecidableEq, Repr

/-! ### The map -/

/-- A keyframe (R293, R299). -/
structure Kf where
  dt : Nat
  width : Nat
  height : Nat
  pos : List F64
  quat : List F32
  cam : List F32
  prev : Nat
  relT : List F32
  relQ : List F32
  place : List Byte
  /-- 288 bytes per keypoint (R299). -/
  kps : List (List Byte)
  lost : Bool := false
  deriving DecidableEq, Repr

/-- A landmark (R293, R297). -/
structure Lm where
  anchor : Nat
  pos : List F64
  sigma : List F32
  obs : Nat
  lost : Bool := false
  deriving DecidableEq, Repr

/-- An insertion parcel (R320). -/
structure Parcel where
  kf : Kf
  version : Nat
  sid : Nat
  /-- The device it comes from (R487). -/
  dev : Nat
  deriving DecidableEq, Repr

/-- A map job (R308, R309, R323, R326). -/
structure MapJob where
  /-- 1 MAP_OPTIMISE, 2 loop closure. -/
  kind : Nat
  hatch : Option Nat := none
  chan : Nat
  deadline : Nat
  cap : Nat
  tiles : List Nat
  kfs : List Nat
  /-- Loop ends of a closure and the verified pose (R323). -/
  loop : Option (Nat × Nat × List Byte) := none
  /-- 0 waiting for its lock, 1 running, 2 solved, 3 sent up to the keeper (R491), 4 ended. -/
  phase : Nat := 0
  /-- Status word of R308. -/
  word : Nat := 0
  iters : Nat := 0
  norm : F64 := 0
  /-- Landmarks that are POINTs of a MAP_OPTIMISE (R326). -/
  pts : List Nat := []
  /-- Solved poses by keyframe and positions by landmark (R324, R326). -/
  poses : NMap (List Byte) := []
  points : NMap (List Byte) := []
  /-- SWITCH of the loop factor (R324). -/
  switch : F64 := 0x3FF0000000000000
  moved : Nat := 0
  /-- Final status. -/
  status : Nat := 0
  waited : Bool := false
  deriving DecidableEq, Repr

/-- The map's contents (R290 to R299). -/
structure MapData where
  lat : Int := 0
  lon : Int := 0
  height : Int := 0
  /-- X₀ and M of R290. -/
  frame : List F64 := []
  kfs : NMap Kf := []
  lms : NMap Lm := []
  nextKf : Nat := 0
  nextLm : Nat := 0
  deriving DecidableEq, Repr

/-- A copy of the map root (R293, R302): the pin it stands for, and the page directory of the mutable parts: for each page the pin of the commit that
wrote it. -/
structure RootCopy where
  pin : Nat := 0
  dir : NMap Nat := []
  deriving DecidableEq, Repr

/-- A superseded page in shadow space (R304): the pins of the commits that wrote it and that superseded it. -/
structure ShadowPage where
  page : Nat
  wrote : Nat
  gone : Nat
  deriving DecidableEq, Repr

/-- The map and its work (R293 to R326). -/
structure MapSt where
  data : MapData := {}
  /-- What readers pin: the version in the low 32 bits, and above them the wraps and loads passed, so that no two contents share a pin (R301, R303). -/
  pin : Nat := 0
  /-- The two copies of the map root, and which of them is current (R293, R302). -/
  roots : List RootCopy := [{}, {}]
  current : Nat := 0
  inService : Bool := true
  /-- Bytes of the map region, 0 when released (R295, R410). -/
  region : Nat := 0
  /-- Superseded pages that some reader may still need (R304). -/
  shadow : List ShadowPage := []
  /-- Torn current root copy (R306). -/
  rootTorn : Bool := false
  /-- The contents of superseded versions that a reader still pins, by pin (R303). -/
  old : NMap MapData := []
  /-- Insertion queue, oldest first, at most 256 (R320). -/
  parcels : List Parcel := []
  /-- The batch at hand waits for shadow space, counted already (R304). -/
  insertWaits : Bool := false
  /-- The last keyframe inserted of each session, key 16384·DEVID + SID (R299, PREV). -/
  lastOf : NMap Nat := []
  lastInsert : Nat := 0
  jobs : NMap MapJob := []
  nextJob : Nat := 0
  /-- Inserted keyframes whose closure search waits (R322). -/
  search : List Nat := []
  corrections : List Corr := []
  /-- Insertions per tile since its last optimisation (R326). -/
  inserts : NMap Nat := []
  /-- Pages changed since the last delta batch, by number (R492). -/
  dirty : List Nat := []
  /-- The version a commit changed that the next batch starts from (R492). -/
  batchFrom : Nat := 0
  deriving DecidableEq, Repr

/-- The map version (R301). -/
def MapSt.version (m : MapSt) : W32 := BitVec.ofNat 32 m.pin

/-! ### Time -/

/-- CLOCK_Q (R78). -/
inductive ClockQ where
  | locked | holdover | freeRun
  deriving DecidableEq, Repr

/-- PTP port states (R367). -/
inductive PtpState where
  | disabled | listening | uncalibrated | slave | master | passive | faulty
  deriving DecidableEq, Repr

/-- A PTP port (R363 to R369). -/
structure PtpPort where
  role : Nat := 0
  domain : Nat := 24
  stepMode : Nat := 1
  asym : Int := 0
  state : PtpState := .disabled
  /-- Egress stamps waiting, at most 64 (R369): kind, sequence, stamp in 2⁻¹⁶ ns. -/
  egress : List (Nat × Nat × Nat) := []
  seq : Nat := 0
  /-- Last Announce: DT, its bytes (R363). -/
  announce : Option (Nat × List Byte) := none
  /-- Sync in hand: sequence, t1, t2, c_sync, complete (R366). -/
  sync : Option (Nat × Int × Int × Int × Bool) := none
  /-- Delay_Req in hand: sequence and t3 (R366). -/
  delayReq : Option (Nat × Int) := none
  /-- Latest (t3, t4, c_delay) (R366). -/
  delay : Option (Int × Int × Int) := none
  /-- A stamp of the Delay_Req in hand was lost (R369). -/
  lost : Bool := false
  /-- DT at which the port entered LISTENING or last heard an Announce (R363). -/
  heard : Nat := 0
  deriving DecidableEq, Repr

/-- An event-table entry (R376 to R379). -/
structure EvEntry where
  /-- Next instant, in quarter ns of DT (R376). -/
  next : Nat
  /-- Period in radio frames, 0 once. -/
  period : Nat
  sfn : Nat
  action : Nat
  arg : Nat
  deriving DecidableEq, Repr

/-- A TEV pin (R387). -/
structure Tev where
  /-- 0 off, 1 capture rising, 2 capture falling, 3 event output. -/
  mode : Nat := 0
  level : Bool := false
  /-- End of a pulse in progress, quarter ns. -/
  pulseEnd : Option Nat := none
  deriving DecidableEq, Repr

/-- A capture source (R388): stamps in quarter ns, oldest first. -/
structure Cap where
  q : List Nat := []
  ovf : Bool := false
  last : Option Nat := none
  deriving DecidableEq, Repr

/-- The DT counter, the measurements and the clock (R357 to R373). -/
structure Time where
  /-- 64 bits of ns and 32 bits of fraction (R357). -/
  acc : BitVec 96 := 0
  /-- TIME_INC (R359). -/
  inc : W64 := 0x000000019999999A
  /-- A step to apply at the next tick (R361). -/
  stepNs : Option Int := none
  stepped : Bool := false
  clockQ : ClockQ := .freeRun
  /-- Runs towards the 16 and the 8 of R371. -/
  run16 : Nat := 0
  run8 : Nat := 0
  srcPort : Nat := 0
  lastMeas : Option Nat := none
  /-- DT at which HOLDOVER began, and whether class 165 is announced (R370). -/
  holdSince : Option Nat := none
  hold165 : Bool := false
  measSeq : W32 := 0
  measOffset : W64 := 0
  measPath : W64 := 0
  measT2 : W64 := 0
  /-- Latched TIME_FRAC and AIR_NOW (R358). -/
  fracLatch : W32 := 0
  airLatch : W64 := 0
  /-- Latched MEAS_OFFSET, MEAS_PATH, MEAS_T2 (R367). -/
  measLatch : List W64 := [0, 0, 0]
  deriving DecidableEq, Repr

/-- Air time, PTP, events, launches and pins (R363 to R389). -/
structure Air where
  /-- μ (R373). -/
  mu : Nat := 1
  /-- E, ns (R373). -/
  epoch : Int := 0
  ports : List PtpPort := [{}, {}]
  events : NMap EvEntry := []
  /-- Frames in launch slots, key 64·port + slot (R383). -/
  launch : NMap (List Byte) := []
  /-- End of the last launch on each port, quarter ns (R385). -/
  launchBusy : List Nat := [0, 0]
  tev : List Tev := List.replicate 4 {}
  /-- Sources 0 to 4 (R388). -/
  caps : List Cap := List.replicate 5 {}
  /-- PPS_CTL (R389). -/
  ppsCtl : W32 := 0x00640000
  ppsHigh : Option Nat := none
  /-- DT of the last PPS_OUT rising edge, or of the last PPS_CTL write. -/
  ppsLast : Option Nat := none
  /-- Latest close-window instants, key 256·context + group, quarter ns (R263). -/
  closes : NMap Nat := []
  /-- EP0_SPEED and EP1_SPEED as applied at ST6: 0 100 Gb/s, 1 25 Gb/s (R520). -/
  speed : List Nat := [0, 0]
  deriving DecidableEq, Repr

/-! ### Radio intake and fusion -/

/-- An SCU chain (R345, R348). -/
structure Chain where
  run : Bool := false
  /-- 0 intake, 1 test injection. -/
  owner : Nat := 0
  port : Nat := 0
  dcFreeze : Nat := 0
  shifts : List Nat := [0, 0, 0]
  /-- Coefficients of D1 to D3, empty when bypassed. -/
  dec : List (List Int) := [[], [], []]
  fir : List Int := [0x7FFF]
  /-- DC estimates of I and Q, 16 fraction bits (R346). -/
  dcI : Int := 0
  dcQ : Int := 0
  /-- Capture windows, newest first: opened, closed; quarter ns (R335). -/
  windows : List (Nat × Option Nat) := []
  /-- A stop waits for the element-symbol in progress (R348). -/
  stopping : Bool := false
  deriving DecidableEq, Repr

/-- A range reference (R354 to R356). -/
structure Ref where
  rho : Rat
  tauLast : Rat
  lastValid : Nat
  array : Nat
  deriving DecidableEq, Repr

/-- A sounding binding (R331). -/
structure Binding where
  sid : Nat
  port : Nat
  eaxc : Nat
  prb : Nat
  nprb : Nat
  comb : Nat
  combOff : Nat
  period : Nat
  slotOff : Nat
  chainMask : Nat
  sym : Nat
  nsym : Nat
  ref : Option Ref := none
  deriving DecidableEq, Repr

/-- An element of a symbol in assembly (R336, R337): array, element, chain, and the stored PRBs with their width and bytes. -/
structure SymEl where
  array : Nat
  element : Nat
  chain : Nat
  /-- PRB number to its compressed bytes, with udIqWidth (R329). -/
  prbs : NMap (Nat × List Byte) := []
  /-- The element's definition found when assembly started (R353). -/
  def_ : Element
  deriving DecidableEq, Repr

/-- A sounding symbol (R332, R337). -/
structure Sym where
  binding : Nat
  /-- The binding as assembly found it. -/
  bound : Binding
  sid : Nat
  port : Nat
  sfn : Nat
  subframe : Nat
  slot : Nat
  symbol : Nat
  /-- Air start in quarter ns of DT. -/
  air : Nat
  /-- T_AIR of R347, ns, exact, and the numerology at assembly. -/
  tAir : Rat
  mu : Nat
  first : Nat
  els : List SymEl
  /-- The arrays as assembly found them (R353). -/
  arrays : List Antenna := []
  /-- 0 assembling, 1 complete and in an instance, 2 without expected elements. -/
  phase : Nat := 0
  /-- DT of its first section (R337). -/
  began : Nat
  /-- RECORD_LEN of its block (R350). -/
  recLen : Nat := 0
  /-- Element records delivered so far, and a saturation met (R350). -/
  delivered : Nat := 0
  saturated : Bool := false
  inst : Option (Nat × Nat) := none
  /-- Elements rebuilt so far, and its place in the order of completion (R343). -/
  built : Nat := 0
  done : Nat := 0
  deriving DecidableEq, Repr

/-- The sample conditioning unit (R327 to R356). -/
structure Scu where
  chains : List Chain := List.replicate 32 {}
  bindings : NMap Binding := []
  arrays : List Antenna := List.replicate 8 {}
  /-- Quarantine end of each array, DT ns (R269). -/
  quarEnd : List (Option Nat) := List.replicate 8 none
  /-- Votes of each array: SID and DT (R269). -/
  votes : List (List (Nat × Nat)) := List.replicate 8 []
  syms : NMap Sym := []
  nextSym : Nat := 0
  /-- Symbols completed so far. -/
  nextDone : Nat := 0
  /-- Symbols completed or dropped: binding, air start (R337). -/
  gone : List (Nat × Nat) := []
  /-- Unbound (port, eAxC, air start) counted already (R335), and stale symbols (R330) with 65,536 for the eAxC. -/
  unbound : List (Nat × Nat × Nat) := []
  /-- Bytes held in each port's intake buffer (R339). -/
  held : List Nat := [0, 0]
  /-- Each port's ingress FIFO (R340): the bytes it held when a section last entered, and the DT then. -/
  fifo : List (Nat × Nat) := [(0, 0), (0, 0)]
  /-- DT of the last test-injection block of each chain (R349). -/
  lastTest : NMap Nat := []
  deriving DecidableEq, Repr

/-- A track of R280. -/
structure Track where
  x : List F32
  p : List F32
  client : Option Nat := none
  radius : F32 := 0
  confirmed : Bool := false
  hits : Nat := 1
  updated : Nat := 0
  born : Nat := 0
  deriving DecidableEq, Repr

/-- An object observation (R277). -/
structure Obs where
  z : List F32
  r : List F32
  radius : F32
  deriving DecidableEq, Repr

/-- A batch of observations of one window (R278). -/
structure ObsBatch where
  chan : Nat
  sid : Nat
  t : Nat
  obs : List Obs
  deriving DecidableEq, Repr

/-- A grid patch slot in use (R272 to R274): cells by index 512·row + column: features, W in 1/256, STAMP. -/
structure Patch where
  sid : Nat
  /-- South-west corner in units of 12.8 m less 25.6 m (R272). -/
  east : Int
  north : Int
  touched : Nat
  /-- WINDOW at the last sweep (R276). -/
  swept : Nat := 0
  cells : NMap (List Byte × Nat × Nat) := []
  deriving DecidableEq, Repr

/-- Fusion's device-wide data (R274, R278, R279). Keys of groups are 256·context + group. -/
structure Fus where
  patches : NMap Patch := []
  patchSlots : Nat := 0
  tracks : NMap (List Track) := []
  obsQ : NMap (List ObsBatch) := []
  /-- Home channel of a group while a cycle instance exists (R279). -/
  home : NMap Nat := []
  deriving DecidableEq, Repr

/-! ### Memory, arbiter, security, links, power, observation -/

/-- A page of the unified range (R395): store room or cellar, frame, hint (0 AUTO, 1 PIN_NEAR, 2 PIN_FAR), and its marks. -/
structure Page where
  near : Bool
  frame : Nat
  hint : Nat
  heat : Nat := 0
  poison : Bool := false
  /-- SEALED class (R395). -/
  secret : Bool := true
  ctx : Nat := 0
  /-- Key generation (R443). -/
  gen : Nat := 1
  /-- DT of the last move by heat (R402). -/
  moved : Option Nat := none
  /-- What it holds (R409): 0 nothing, 1 crate, 2 session contexts, 3 checkpoints, 4 map, 5 map roots, 6 grid patches, 7 track
  tables, 8 radio queues, 9 graph copies, 10 tensor scratch, 11 firmware, 12 structure areas; and a crate's slot. -/
  use : Nat := 0
  obj : Nat := 0
  /-- Written since it was allocated (R446). -/
  written : Bool := false
  deriving DecidableEq, Repr

/-- An area of R397 as allocated at ST9: consecutive pages, in consecutive frames of one tier. -/
structure PageRange where
  first : Nat
  count : Nat
  near : Bool
  frame : Nat
  hint : Nat
  secret : Bool
  use : Nat
  /-- Every page of it that stands for itself no more is poisoned: the cellar left service (R410). -/
  poison : Bool := false
  deriving DecidableEq, Repr

/-- The tiers (R390 to R410). -/
structure Tiers where
  /-- Cellar in service, GiB (R394). -/
  cellar : Nat := 0
  /-- Pages of the unified range, fixed at ST9 (R394). -/
  range : Nat := 0
  conservative : Bool := false
  /-- The areas of ST9 (R397). -/
  ranges : List PageRange := []
  /-- Pages allocated one by one, and pages of the areas that differ from their area's. -/
  pages : NMap Page := []
  /-- The next page and the next frames never used, and those freed. -/
  nextPage : Nat := 0
  freePages : List Nat := []
  /-- Freed pages as they were last, with their generation (R446). -/
  freed : NMap Page := []
  nextNear : Nat := 0
  freeNear : List Nat := []
  nextFar : Nat := 0
  freeFar : List Nat := []
  /-- Corrected errors of a frame: DT of each within 24 h (R407). Key 2·frame + (1 for the cellar). -/
  ce : NMap (List Nat) := []
  /-- Retired frames, by the same key (R407, R408). -/
  retired : List Nat := []
  /-- Controllers in retraining, key 2·number + (1 for the cellar), with the DT (R410). -/
  retrain : NMap Nat := []
  /-- Torn granules by number: the requester whose release tore it, and whether it was reached (R427). -/
  torn : NMap (Nat × Bool) := []
  /-- Minor and major counters of cellar blocks and of their lines, by frame (R440). -/
  minors : NMap Nat := []
  majors : NMap Nat := []
  /-- Minor counters of leaf lines, and major counters of level-2 lines (R440). -/
  lineMinors : NMap Nat := []
  lineMajors : NMap Nat := []
  /-- The root's counters, one per level-2 line (R440). -/
  roots : NMap W64 := []
  /-- Draws made of the open write-backs of counter lines. -/
  lineDraws : Nat := 0
  /-- DT of the last migration epoch and of the last heat decay (R401, R402). -/
  lastEpoch : Nat := 0
  lastDecay : Nat := 0
  deriving DecidableEq, Repr

/-- A request waiting at an arbiter, with the DT ns of its issue (R417, R418). -/
structure ArbWait where
  req : Nat
  since : Nat
  what : ArbRequest
  deriving DecidableEq, Repr

/-- One arbiter (R411, R417 to R425). -/
structure Arb where
  /-- The slot of the next decision. -/
  ptr : Nat := 0
  waiting : List ArbWait := []
  /-- Holder, granule, beats written, beats of the whole sequence (R424). -/
  lock : Option (Nat × Nat × Nat × Nat) := none
  /-- Locked beats of each of the last 256 decisions, newest first (R424). -/
  turn : List Nat := []
  /-- The background burst granted by the last decision, which a break point may cut: its requester, address, beats, and the
  rest (R419). -/
  burst : Option ArbWait := none
  deriving DecidableEq, Repr

/-- Registers of one requester (R429). -/
structure ReqStat where
  beats : Nat := 0
  slotGrants : Nat := 0
  background : Nat := 0
  lateC : Nat := 0
  lateM : Nat := 0
  lateF : Nat := 0
  waitMax : Nat := 0
  taken : Nat := 0
  torn : Nat := 0
  refused : Nat := 0
  deferred : Nat := 0
  starving : Bool := false
  starved : Bool := false
  masked : Bool := false
  lockHeld : Bool := false
  deriving DecidableEq, Repr

/-- The slot table in use and the arbiters (R411 to R429). -/
structure Fabric where
  owners : List Nat := []
  bg : List Nat := []
  starveUs : Nat := 50
  migPages : Nat := 256
  promoteHeat : Nat := 24
  image : List Byte := []
  arbs : List Arb := List.replicate 24 {}
  stats : List ReqStat := List.replicate 56 {}
  deriving DecidableEq, Repr

/-- A context that exists (R92, R443, R455). -/
structure Tenant where
  gen : Nat := 1
  prevLive : Bool := false
  /-- SM3(P_T), zero for context 0. -/
  digest : List Byte := List.replicate 32 0
  kIn : List Byte := []
  kOut : List Byte := []
  created : Nat := 0
  /-- A sweep's next page (R444). -/
  sweep : Option Nat := none
  lastSweep : Nat := 0
  /-- Record counter, next to use (R456). -/
  recCtr : Nat := 1
  /-- Being destroyed (R457, R442), and scrubbed since. -/
  dying : Bool := false
  scrubbed : Bool := false
  deriving DecidableEq, Repr

/-- Why a scrub runs (R457, R463, R466). -/
inductive ScrubFor where
  | turn | destroy (ctx : Nat) | mode
  deriving DecidableEq, Repr

/-- Security (R434, R443, R463 to R467). -/
structure Sec where
  contexts : NMap Tenant := [(0, {})]
  /-- Turn holder, the DT it began, and the DT it closed (R465, R466). -/
  holder : Nat := 0
  turnBegan : Nat := 0
  turnClosed : Option Nat := none
  /-- A scrub that waits or runs, with the DT it began (R467). -/
  scrubFor : Option ScrubFor := none
  scrubBegan : Nat := 0
  /-- Boot nonce drawn at ST1 (R434). -/
  bootNonce : Nat := 0
  /-- The memory key sets in the security unit (R437): data, tweak and tag key, by 256·domain + generation. -/
  keys : NMap (List Byte) := []
  /-- A security-unit self-test failed at ST1 (R510). -/
  selfTestBad : Bool := false
  deriving DecidableEq, Repr

/-- Mirden port states (R480). -/
inductive MpState where
  | absent | training | up | failed | held
  deriving DecidableEq, Repr

/-- A frame waiting to be sent: TYPE, FIRST, LAST, object, index and payload (R478). -/
structure TxFrame where
  type : Nat
  first : Bool
  last : Bool
  object : Nat
  index : Nat
  payload : List Byte
  deriving DecidableEq, Repr

/-- A Mirden port (R478 to R482). -/
structure MpPort where
  state : MpState := .absent
  /-- DT of the state's beginning: of the failure for FAILED, of ACCEPTED for a retrain. -/
  since : Nat := 0
  /-- The partner's hello, once training has passed (R481). -/
  hello : Option Hello := none
  /-- Trained before the end of ST5, and UP from then on (R484). -/
  trained : Bool := false
  /-- Link keys of this training, inwards and outwards (R471). -/
  kIn : List Byte := []
  kOut : List Byte := []
  /-- Partner's DIST and CLOCK_Q as last received (R485, R500). -/
  dist : Nat := 8
  clockQ : Nat := 2
  /-- Next counters (R472). -/
  txCtr : Nat := 0
  rxCtr : Nat := 0
  /-- DT of rejected frames within 1 ms (R472). -/
  rejects : List Nat := []
  txq : List TxFrame := []
  /-- Objects being received, by number: TYPE and bytes so far (R478). -/
  rx : NMap (Nat × List Byte) := []
  /-- Next object number of this direction (R478). -/
  txObject : Nat := 0
  /-- TIME stamps in 2⁻¹⁶ ns: the last departure, the last receipt (R499). -/
  txStamp : Option Int := none
  rxStamp : Option Int := none
  deriving DecidableEq, Repr

/-- A tile lock, or a request for one (R489): the device, its job, the tiles. -/
structure TileLock where
  devid : Nat
  job : Nat
  tiles : List Nat
  deriving DecidableEq, Repr

/-- A device that joins or rejoins the map through a port (R494): the device, the version it stands at where it may be served from
the batch log, whether its catch-up has begun, and the DOWN objects held back for it since. -/
structure Joiner where
  port : Nat
  dev : Nat
  since : Option Nat
  started : Bool := false
  held : List (List Byte) := []
  deriving DecidableEq, Repr

/-- Several devices (R477 to R501). -/
structure Link where
  ports : List MpPort := List.replicate 4 {}
  /-- ST5 has ended (R484). -/
  decided : Bool := false
  dist : Nat := 8
  parent : Option Nat := none
  /-- Devices beyond the neighbours that CONTROL objects told of: DEVID and KEEPER_EN (R484). -/
  devices : List (Nat × Bool) := []
  /-- Locks held and requests waiting, in order of arrival; used on the keeper (R489). -/
  locks : List TileLock := []
  requests : List TileLock := []
  deltaMs : Nat := 50
  /-- Number of the last tick of R492 taken. -/
  lastTick : Nat := 0
  /-- Batches in the log, oldest first: from, to, the object (R494). -/
  log : List (Nat × Nat × List Byte) := []
  /-- Devices that join through this one (R494). -/
  catchUp : List Joiner := []
  /-- Whole UP and DOWN objects that wait for shadow space, oldest first: TYPE, port, bytes (R304, R493). -/
  waitObj : List (Nat × Nat × List Byte) := []
  /-- This device's own catch-up: the port it comes from (R494, R495). -/
  joining : Option Nat := none
  /-- Trainings so far (R471). -/
  trainings : Nat := 0
  /-- LINK_MEAS_SEQ, OFFSET, PATH, and the latched pair (R501). -/
  seq : W32 := 0
  offset : W64 := 0
  path : W64 := 0
  latch : List W64 := [0, 0]
  /-- Pages asked of the keeper again; on the keeper, the pages it adds to its next batch (R496). -/
  resend : List Nat := []
  deriving DecidableEq, Repr

/-- What telemetry holds of the latest whole second of DT (R554, R470). -/
structure PowSec where
  power : Nat := 0
  tj : Int := 0
  tStore : Int := 0
  mhz : Nat := 1600
  dt : Nat := 0
  windows : Nat := 0
  deriving DecidableEq, Repr

/-- Power and thermal state (R36 to R41, R554, R557). Clocks in MHz, power in 0.1 W, temperatures in 0.25 °C. -/
structure Pow where
  hatchCap : Nat := 140
  pinCap : Nat := 140
  /-- Last sample of the pins, and the cap they select from the next step of the loop on (R38). -/
  pinSample : Nat := 0
  pinNext : Nat := 140
  ctlMhz : Nat := 1600
  ctlAdm : Nat := 8
  /-- Consecutive windows at least 5 W below the cap (R39). -/
  calm : Nat := 0
  /-- The limiter holds (R41). -/
  limiter : Bool := false
  thMhz : Nat := 1600
  thAdm : Nat := 8
  /-- Windows since the thermal rule last stepped, and windows at or below 97 °C (R557). -/
  thSince : Nat := 100
  thCool : Nat := 0
  throttle : Bool := false
  alert : Bool := false
  hot : Bool := false
  power : Nat := 0
  tj : Int := 0
  tStore : Int := 0
  /-- DT of the latest sample. -/
  sampleDt : Nat := 0
  /-- Power of the windows of the running second, and the means of the latest whole second (R554). -/
  sum : Nat := 0
  sec : PowSec := {}
  deriving DecidableEq, Repr

/-- Counters and trace (R536 to R542). -/
structure Watch where
  /-- Counters of R537 by BAR0 address; an unlisted counter reads 0. -/
  counters : NMap Nat := []
  /-- Values latched for confidential reads, with their instant (R539). -/
  latch : NMap Nat := []
  latchDt : Nat := 0
  /-- LATE, DISCARDED and KF_THINNED of each session as latched (R470). -/
  latchSess : NMap (List Nat) := []
  /-- Arbiter registers latched for confidential reads (R470). -/
  arbLatch : List ReqStat := []
  trace : Bool := false
  mask : Nat := 0
  seq : Nat := 0
  sent : Nat := 0
  lost : Nat := 0
  /-- Trace records waiting, oldest first, at most 4096 (R542). -/
  buf : List (List Byte) := []
  lastSync : Nat := 0
  deriving DecidableEq, Repr

/-- Sessions, streams and batches (R43 to R57). -/
structure Work where
  /-- Sessions that are not FREE, by SID (R43). -/
  sess : NMap Session := []
  streams : NMap Stream := []
  batches : NMap Batch := []
  nextBatch : Nat := 0
  /-- Contexts in the common shelf, least recently used first (R168). -/
  shelf : List Nat := []
  /-- Crate slots that are not empty (R447). -/
  crates : NMap Crate := []
  /-- Graph slots by 64·channel + slot (R157). -/
  graphs : NMap Slot := []
  deriving DecidableEq, Repr

/-- Everything a core reset rebuilds (R502). -/
structure Core where
  sys : Sys := {}
  hat : Hatches := {}
  ring : Rings := {}
  work : Work := {}
  chans : List Chan := List.replicate 8 {}
  map : MapSt := {}
  time : Time := {}
  air : Air := {}
  scu : Scu := {}
  fus : Fus := {}
  tiers : Tiers := {}
  fab : Fabric := {}
  sec : Sec := {}
  link : Link := {}
  pow : Pow := {}
  obs : Watch := {}
  deriving DecidableEq, Repr

/-- The state of the block. -/
structure State where
  hw : Hw := {}
  pcie : Pcie := {}
  loft : Loft := {}
  err : Err := {}
  core : Core := {}
  /-- What the block has sent out, newest last (the model's own log of its outputs). -/
  out : List Out := []
  /-- Counter of free values drawn (the model's own). -/
  free : Nat := 0
  /-- Commands waiting, first in first out. -/
  pending : List Instr := []
  deriving DecidableEq, Repr

/-- The machine right after reset: powered, waiting at ST0, every register at its reset value, nothing pending. -/
def State.reset : State := {}

end Sys2Proof.Machine
end

