-- ==== Sys2Proof/Machine/Ops.lean ====
section
/-! DEFINITION. The operations every family shares: device time, counters, sticky errors with their history and events, the
event ring, interrupts, trace records, host DMA, result areas and the placing of a hatch response. -/
namespace Sys2Proof.Machine

/-! ### Limits of the part (R3) -/

def Hw.is968 (h : Hw) : Bool := h.part == .hyn968
/-- Channels of the part. -/
def nChans (s : State) : Nat := if s.hw.is968 then 8 else 4
def maxSessions (s : State) : Nat := if s.hw.is968 then 16384 else 8192
def maxStreams (s : State) : Nat := if s.hw.is968 then 256 else 128
def nMirden (s : State) : Nat := if s.hw.is968 then 4 else 2
def mapChMax (s : State) : Nat := if s.hw.is968 then 2 else 1
/-- The package power limit, W (R34). -/
def packageW (p : Part) : Nat := if p == .hyn968 then 140 else 80
def nControllers (s : State) (near : Bool) : Nat :=
  if near then (if s.hw.is968 then 16 else 8) else (if s.hw.is968 then 8 else 4)

/-! ### Device time -/

/-- DT in whole ns (R357). -/
def dtOf (s : State) : Nat := (s.core.time.acc >>> 32).toNat
/-- DT's fraction, 2⁻³² ns. -/
def dtFrac (s : State) : Nat := (s.core.time.acc.setWidth 32).toNat
/-- DT in quarters of a ns. -/
def dtQuarter (s : State) : Nat := (s.core.time.acc >>> 30).toNat
/-- The 16-bit fraction of a time stamp (R11). -/
def dtFrac16 (s : State) : Nat := dtFrac s / 65536
/-- The code of CLOCK_Q (R78). -/
def clockCode : ClockQ → Nat
  | .locked => 0 | .holdover => 1 | .freeRun => 2

/-- Whether the core is out of reset and its clocks run: a boot ROM or Daltia is at work (R502, R505, R550). -/
def running (s : State) : Bool :=
  s.hw.refclk && (match s.core.sys.phase with
    | .starting => true | .ready => true | .safe => true
    | .unpowered => false | .st0 => false | .inReset => false)

/-! ### Updates of the groups -/

def State.modSys (s : State) (f : Sys → Sys) : State := { s with core := { s.core with sys := f s.core.sys } }
def State.modHat (s : State) (f : Hatches → Hatches) : State := { s with core := { s.core with hat := f s.core.hat } }
def State.modRing (s : State) (f : Rings → Rings) : State := { s with core := { s.core with ring := f s.core.ring } }
def State.modWork (s : State) (f : Work → Work) : State := { s with core := { s.core with work := f s.core.work } }
def State.modChans (s : State) (f : List Chan → List Chan) : State :=
  { s with core := { s.core with chans := f s.core.chans } }
def State.modMap (s : State) (f : MapSt → MapSt) : State := { s with core := { s.core with map := f s.core.map } }
def State.modTime (s : State) (f : Time → Time) : State := { s with core := { s.core with time := f s.core.time } }
def State.modAir (s : State) (f : Air → Air) : State := { s with core := { s.core with air := f s.core.air } }
def State.modScu (s : State) (f : Scu → Scu) : State := { s with core := { s.core with scu := f s.core.scu } }
def State.modFus (s : State) (f : Fus → Fus) : State := { s with core := { s.core with fus := f s.core.fus } }
def State.modTiers (s : State) (f : Tiers → Tiers) : State := { s with core := { s.core with tiers := f s.core.tiers } }
def State.modFab (s : State) (f : Fabric → Fabric) : State := { s with core := { s.core with fab := f s.core.fab } }
def State.modSec (s : State) (f : Sec → Sec) : State := { s with core := { s.core with sec := f s.core.sec } }

/-- The memory key set of a domain and generation (R437): data key, tweak key and tag key, 16 bytes each, from the root memory key and the boot nonce. -/
def keySet (nonce domain gen : Nat) : List Byte := sm3Kdf (beBytes 32 Config.rootMemoryKey ++ beBytes 32 nonce ++ leBytes 1 domain ++ leBytes 1 gen) 48
/-- The security unit derives a key set, or erases one (R437, R444). -/
def State.addKeys (s : State) (domain gen : Nat) : State :=
  s.modSec (fun c => { c with keys := NMap.set c.keys (256 * domain + gen) (keySet c.bootNonce domain gen) })
def State.dropKeys (s : State) (f : Nat → Nat → Bool) : State := s.modSec (fun c => { c with keys := c.keys.filter (fun e => !f (e.1 / 256) (e.1 % 256)) })
def State.modLink (s : State) (f : Link → Link) : State := { s with core := { s.core with link := f s.core.link } }
def State.modPow (s : State) (f : Pow → Pow) : State := { s with core := { s.core with pow := f s.core.pow } }
def State.modObs (s : State) (f : Watch → Watch) : State := { s with core := { s.core with obs := f s.core.obs } }
def State.modLoft (s : State) (f : Loft → Loft) : State := { s with loft := f s.loft }
def State.modHw (s : State) (f : Hw → Hw) : State := { s with hw := f s.hw }
/-- Inserts by an order, after equals. -/
def insertBy {α : Type} (le : α → α → Bool) (a : α) : List α → List α
  | [] => [a]
  | b :: l => if le b a then b :: insertBy le a l else a :: b :: l
/-- Sorts by an order, equals in their order. -/
def sortBy {α : Type} (le : α → α → Bool) (l : List α) : List α := l.foldl (fun acc a => insertBy le a acc) []

/-- Adds an output. -/
def State.emit (s : State) (o : Out) : State := { s with out := s.out ++ [o] }
/-- Draws a free value: its number, and the state that has drawn it. -/
def State.draw (s : State) : Nat × State := (s.free, { s with free := s.free + 1 })

def chanAt (s : State) (ch : Nat) : Chan := s.core.chans.getD ch { present := false }
def State.modChan (s : State) (ch : Nat) (f : Chan → Chan) : State := s.modChans (fun l => updAt l ch f)
def instAt (s : State) (ch i : Nat) : Option Inst := NMap.get? (chanAt s ch).insts i
def State.modInst (s : State) (ch i : Nat) (f : Inst → Inst) : State :=
  s.modChan ch (fun c => { c with insts := NMap.upd c.insts i f })
def sessAt (s : State) (sid : Nat) : Option Session := NMap.get? s.core.work.sess sid
def State.modSess (s : State) (sid : Nat) (f : Session → Session) : State :=
  s.modWork (fun w => { w with sess := NMap.upd w.sess sid f })
def ctlAt (s : State) (h : Nat) : HatchCtl := s.core.hat.ctl.getD h {}
def State.modCtl (s : State) (h : Nat) (f : HatchCtl → HatchCtl) : State :=
  s.modHat (fun a => { a with ctl := updAt a.ctl h f })
def areaAt (s : State) (a : Nat) : Area := s.core.ring.areas.getD a {}
def State.modArea (s : State) (a : Nat) (f : Area → Area) : State :=
  s.modRing (fun r => { r with areas := updAt r.areas a f })
def slotKey (ch g : Nat) : Nat := 64 * ch + g
def graphAt (s : State) (ch g : Nat) : Option Slot := NMap.get? s.core.work.graphs (slotKey ch g)
/-- A graph that is resident in a slot of a channel (R158). -/
def residentAt (s : State) (ch g : Nat) : Option Slot := (graphAt s ch g).filter (·.resident)

/-! ### Channels -/

/-- Channels present and in service. -/
def serviceChans (s : State) : List Nat :=
  (List.range (nChans s)).filter (fun c => (chanAt s c).present && (chanAt s c).inService)
/-- Ordinary channels in service. -/
def ordinaryChans (s : State) : List Nat := (serviceChans s).filter (fun c => !(chanAt s c).mapRole)
/-- Map channels in service. -/
def mapChans (s : State) : List Nat := (serviceChans s).filter (fun c => (chanAt s c).mapRole)
/-- The mask of a list of numbers. -/
def toMask (l : List Nat) : Nat := l.foldl (fun m c => m ||| 2 ^ c) 0
/-- Open sessions on a channel. -/
def sessionsOn (s : State) (ch : Nat) : List (Nat × Session) := s.core.work.sess.filter (fun p => p.2.chan == ch)
/-- The element of least value, the first on a tie. -/
def minBy (f : Nat → Nat) : List Nat → Option Nat
  | [] => none
  | a :: l =>
    match minBy f l with
    | none => some a
    | some b => if f a ≤ f b then some a else some b
/-- The channel of a list that holds the fewest open sessions, the lowest number on a tie (R46, R523). -/
def fewestSessions (s : State) (chs : List Nat) : Option Nat := minBy (fun c => (sessionsOn s c).length) chs

/-! ### Counters (R537) -/

def State.bump (s : State) (addr n : Nat) : State := s.modObs (fun o => { o with counters := NMap.bump o.counters addr n })
/-- Device block: PWR_LIMIT_HITS, CRATE_NEAR_SHORT, CYCLE_NO_GRAPH, GRID_CLEARED, TRK_LOST, CE_COMMON, RAREA_FULL0 to 15. -/
def devCtr (i : Nat) : Nat := 0x100000 + 8 * i
def chanCtr (ch i : Nat) : Nat := 0x101000 + 0x1000 * ch + 8 * i
def mapCtr (i : Nat) : Nat := 0x110000 + 8 * i
def scuCtr (i : Nat) : Nat := 0x111000 + 8 * i
def scuPortCtr (p i : Nat) : Nat := 0x111100 + 0x100 * p + 8 * i
def scuChainCtr (i : Nat) : Nat := 0x111400 + 8 * i
def timeCtr (p i : Nat) : Nat := 0x112000 + 0x100 * p + 8 * i
def secCtr (i : Nat) : Nat := 0x113000 + 8 * i
def linkCtr (i : Nat) : Nat := 0x114000 + 8 * i
def linkPortCtr (p i : Nat) : Nat := 0x114100 + 0x100 * p + 8 * i
/-- Tier block of R430, by register. -/
def tierCtr (i : Nat) : Nat := 0x181000 + 4 * i
/-- Sets a value that a counter register shows (R349). -/
def State.setCtr (s : State) (addr v : Nat) : State := s.modObs (fun o => { o with counters := NMap.set o.counters addr v })

/-! ### Trace (R540 to R542) -/

/-- The mask bit of a record type, none for the types always sent. -/
def traceBit (type src : Nat) : Option Nat :=
  if type == 0x10 || type == 0x11 then some (src % 8)
  else if type == 0x20 then some 8 else if type == 0x30 then some 9 else if type == 0x40 then some 10
  else if type == 0x50 then some 11 else if type == 0x60 then some 12 else if type == 0x70 then some 13
  else if type == 0x80 then some 14 else none

/-- A record goes before one already in the buffer: of the same DT, in ascending TYPE, then SOURCE; nothing goes before a LOST record or
the SYNC that begins a trace (R542). -/
def traceBefore (a b : List Byte) : Bool :=
  let first := fieldAt b 0 1 == 0xF1 || (fieldAt b 0 1 == 0xF0 && fieldAt b 12 4 == 0)
  let key (r : List Byte) : Nat := 256 * fieldAt r 0 1 + fieldAt r 1 1
  bytesAt a 4 8 == bytesAt b 4 8 && !first && decide (key a < key b)

/-- Puts a record, numbered as the last, into the buffer in its order; those that leave after it are numbered one on. -/
def putTrace (buf : List (List Byte)) (r : List Byte) : List (List Byte) :=
  let renum (d : Nat) (x : List Byte) : List Byte := bytesAt x 0 2 ++ leBytes 2 ((fieldAt x 2 2 + d) % 65536) ++ x.drop 4
  let k := (buf.reverse.takeWhile (traceBefore r)).length
  let n := buf.length - k
  buf.take n ++ renum (65536 - k) r :: (buf.drop n).map (renum 1)

/-- Adds a trace record (R541) when trace is on and its mask bit is set; a record that finds the buffer full is dropped. -/
def State.traceRec (s : State) (type src : Nat) (payload : List Byte) (maskSrc : Nat := src) : State :=
  let o := s.core.obs
  let wanted := match traceBit type maskSrc with
    | some b => bit o.mask b
    | none => true
  if o.trace && !s.core.sys.conf && wanted then
    if o.buf.length < 4096 then
      let rec_ := leBytes 1 type ++ leBytes 1 src ++ leBytes 2 o.seq ++ leBytes 8 (dtOf s) ++ padTo 4 payload
      s.modObs (fun o => { o with buf := putTrace o.buf rec_, seq := (o.seq + 1) % 65536, sent := o.sent + 1 })
    else s.modObs (fun o => { o with lost := o.lost + 1 })
  else s

/-! ### Interrupts (R98) -/

/-- Raises an MSI-X vector: a message, or the pending bit while the entry is masked. -/
def State.msi (s : State) (v : Nat) : State :=
  let e := s.pcie.table.getD v {}
  if e.ctrl.getLsbD 0 then { s with pcie := { s.pcie with pba := s.pcie.pba ||| (1#64 <<< v) } }
  else s.emit (.msi v e.addr.toNat e.data.toNat)

/-! ### The event ring (R100 to R103) -/

/-- Free entries of the event ring. -/
def evFree (r : Rings) : Nat := r.evSize - (r.evWr - r.evRd).toNat

/-- Writes one entry into the ring, then EV_WR_COUNT, then raises the vector after an event's last entry (R99, R100). -/
def State.putEntry (s : State) (e : List Byte) : State :=
  let r := s.core.ring
  let s := s.emit (.dmaWrite (r.evBase + 64 + 64 * (r.evWr.toNat % r.evSize)) e)
  let s := s.modRing (fun r => { r with evWr := r.evWr + 1 })
  let s := s.emit (.dmaWrite r.evBase (leBytes 4 s.core.ring.evWr.toNat))
  if fieldAt e 2 2 + 1 == fieldAt e 4 2 then s.msi r.evVector else s

/-- Moves held entries into the ring while it has room (R103). -/
def State.drainEvents : Nat → State → State
  | 0, s => s
  | n + 1, s =>
    match s.core.ring.evHeld with
    | [] => s
    | e :: rest =>
      if evFree s.core.ring = 0 then s
      else State.drainEvents n ((s.modRing (fun r => { r with evHeld := rest })).putEntry e)

/-- Writes the entries of one event, holding what the ring has no room for; from the first dropped entry on, none of the
event's later entries is written (R103). -/
def State.putEvent : List (List Byte) → State → State
  | [], s => s
  | e :: rest, s =>
    if s.core.ring.evHeld.isEmpty && evFree s.core.ring != 0 then State.putEvent rest (s.putEntry e)
    else if s.core.ring.evHeld.length < 4096 then
      State.putEvent rest (s.modRing (fun r => { r with evHeld := r.evHeld ++ [e] }))
    else s.modSys (fun y => { y with evtLost := true })

/-- One event of a type, one entry per part: the parts are what stands from byte 0x10 on (R102). -/
def State.event (s : State) (type : Nat) (parts : List (List Byte)) : State :=
  let dt := dtOf s
  let es := (parts.zipIdx).map (fun (d, i) =>
    padTo 64 (leBytes 2 type ++ leBytes 2 i ++ leBytes 2 parts.length ++ leBytes 2 0 ++ leBytes 8 dt ++ d))
  State.putEvent es s

/-! ### Sticky errors (R525 to R532) -/

/-- FIRST_INFO's layout (R526); 255, 0xFFFF and 0xFFFF_FFFF stand for none. -/
def errInfo (bitNo source sid page : Nat) : Nat := bitNo % 32 + 2 ^ 8 * (source % 256) + 2 ^ 16 * (sid % 65536) + 2 ^ 32 * page

/-! ### Pages and who has content on them (R395, R397) -/

/-- The area of R397 that holds a page. -/
def areaOf (s : State) (p : Nat) : Option PageRange :=
  s.core.tiers.ranges.find? (fun r => decide (r.first ≤ p) && decide (p < r.first + r.count))

/-- A page as its area gives it. -/
def PageRange.page (r : PageRange) (p : Nat) : Page :=
  { near := r.near, frame := r.frame + (p - r.first), hint := r.hint, secret := r.secret, use := r.use, poison := r.poison }

/-- The page of a number, where one is allocated. -/
def pageAt (s : State) (p : Nat) : Option Page :=
  match NMap.get? s.core.tiers.pages p with
  | some x => some x
  | none => (areaOf s p).map (fun r => r.page p)

/-- Sessions with data on a page of a session area. -/
def sessionsOnPage (s : State) (use p : Nat) : List Nat :=
  (s.core.work.sess.filter (fun e =>
    if use == 3 then Config.objectOn 3 (2 * e.1) p || Config.objectOn 3 (2 * e.1 + 1) p else Config.objectOn use e.1 p)).map (·.1)

/-- The tenant contexts with content on a page. -/
def pageTenants (s : State) (p : Nat) : List Nat :=
  match pageAt s p with
  | none => []
  | some x =>
    let own := if x.ctx == 0 then [] else [x.ctx]
    (own ++ (sessionsOnPage s x.use p).filterMap (fun sid => match sessAt s sid with
      | some y => if y.owner == 0 then none else some y.owner
      | none => none)).eraseDups

/-! ### What an occurrence says -/

/-- R529's masking of a session or page of a tenant context while confidential mode is on. -/
def maskInfo (s : State) (info : Nat) : Nat :=
  if s.core.sys.conf then
    let sid := bits info 31 16
    let page := info >>> 32
    let tenantSid := match sessAt s sid with
      | some x => x.owner != 0
      | none => sid != 0xFFFF
    let tenantPage := !(pageTenants s page).isEmpty
    bits info 15 0 + 2 ^ 16 * (if tenantSid then 0xFFFF else sid) + 2 ^ 32 * (if tenantPage then 0xFFFFFFFF else page)
  else info

/-- Whether each occurrence of a bit is reported even while it is set (R530). -/
def alwaysReported (idx bitNo : Nat) : Bool :=
  (idx == 0 && bitNo == 0) || (idx == 5 && bitNo == 4) || (idx == 4 && bitNo == 2) || (decide (8 ≤ idx) && bitNo == 7)

/-- Whether the register of an index exists on the part (R525). -/
def errPresent (s : State) (idx : Nat) : Bool :=
  decide (idx < 16) && idx != 6 && idx != 7 && (s.hw.is968 || (idx != 4 && decide (idx < 12)))

/-- An occurrence: sets `flags` of a register (its owner bit is the lowest of `owner`), captures the first, keeps the
history, and raises ERROR_SET (R526, R528, R530, R531, R532). -/
def State.setErr (s : State) (idx bitNo : Nat) (flags : Nat) (source : Nat := 255) (sid : Nat := 0xFFFF)
    (page : Nat := 0xFFFFFFFF) : State :=
  if !errPresent s idx then s
  else
    let r := s.err.regs.getD idx {}
    -- CAUSE and ENGINE of ERR_CHANn belong to the setting of bit 7: a later occurrence leaves them (R530; DEDUCED).
    let f : W32 := BitVec.ofNat 32 (if decide (8 ≤ idx) && r.bits.getLsbD 7 then flags % 256 else flags)
    let newly := f &&& ~~~r.bits
    if newly == 0 && !alwaysReported idx bitNo then s
    else
      let info := errInfo bitNo source sid page
      let dt := dtOf s
      let r' : ErrReg :=
        { bits := r.bits ||| f
          firstDt := if r.bits == 0 then BitVec.ofNat 64 dt else r.firstDt
          firstInfo := if r.bits == 0 then BitVec.ofNat 64 info else r.firstInfo }
      let entry : ErrEntry := { dt := dt, index := idx, bitNo := bitNo, bits := flags, info := info }
      let s := { s with err := { regs := setAt s.err.regs idx r', history := (entry :: s.err.history).take 1024 } }
      let shown := maskInfo s info
      let s := s.event 0x0003 [leBytes 1 idx ++ leBytes 3 0 ++ leBytes 4 newly.toNat ++ leBytes 4 flags ++ leBytes 4 0 ++ leBytes 8 shown]
      s.traceRec 0x80 idx (leBytes 4 flags)

/-- An occurrence that sets one flag. -/
def State.err1 (s : State) (idx bitNo : Nat) (source : Nat := 255) (sid : Nat := 0xFFFF) (page : Nat := 0xFFFFFFFF) : State :=
  s.setErr idx bitNo (2 ^ bitNo) source sid page

/-! ### Hatches: taking and placing (R82 to R99) -/

/-- Classes of R92. -/
inductive HClass where
  | m | zero | a
  deriving DecidableEq, Repr

/-- The opcodes known on B0, their class and the length their layout defines (Opcodes). -/
def opTable : List (Nat × HClass × Nat) :=
  [(0x0101, .a, 0), (0x0102, .a, 0), (0x0103, .m, 2), (0x0104, .m, 13), (0x0105, .m, 2), (0x0106, .m, 0), (0x0107, .a, 0),
   (0x0108, .m, 12), (0x0109, .a, 0), (0x010A, .m, 2), (0x0201, .a, 6), (0x0202, .a, 2), (0x0203, .a, 18), (0x0204, .a, 96),
   (0x0205, .a, 2), (0x0206, .a, 2), (0x0207, .a, 3), (0x0208, .zero, 6), (0x0209, .zero, 1), (0x0301, .a, 24),
   (0x0302, .zero, 20)] ++
  [(0x0401, .m, 20), (0x0402, .m, 16), (0x0403, .a, 0), (0x0404, .m, 20), (0x0405, .m, 16), (0x0501, .m, 24), (0x0502, .m, 1),
   (0x0503, .a, 1), (0x0504, .m, 20), (0x0505, .m, 2), (0x0601, .a, 0), (0x0602, .m, 16), (0x0603, .m, 8), (0x0604, .m, 16),
   (0x0605, .m, 2), (0x0606, .m, 2), (0x0607, .zero, 16), (0x0701, .m, 8), (0x0702, .m, 16), (0x0703, .m, 3),
   (0x0704, .m, 22), (0x0705, .m, 2), (0x0706, .m, 40)] ++
  [(0x0801, .a, 12), (0x0802, .a, 32), (0x0803, .m, 16), (0x0804, .m, 1), (0x0805, .m, 0), (0x0806, .m, 0), (0x0807, .a, 1),
   (0x0901, .a, 12), (0x0902, .m, 5), (0x0903, .zero, 12), (0x0A01, .m, 16), (0x0A03, .m, 16), (0x0A04, .m, 12),
   (0x0B01, .a, 0), (0x0B02, .m, 2), (0x0B03, .m, 1)]

/-- A request as it stands in its hatch (R82). -/
structure Req where
  h : Nat
  op : Nat
  seq : Nat
  ctx : Nat
  flags : Nat
  len : Nat
  patience : Nat
  payload : List Byte
  deriving DecidableEq, Repr

/-- The request in hatch h. -/
def reqOf (s : State) (h : Nat) : Req :=
  let b := Mem.bytes s.core.hat.mem (256 * h) 256
  let len := fieldAt b 6 2
  { h := h, op := fieldAt b 0 2, seq := fieldAt b 2 2, ctx := fieldAt b 4 1, flags := fieldAt b 5 1, len := len,
    patience := fieldAt b 8 8, payload := bytesAt b 16 (min len 240) }

/-- Whether the boot ROM serves BOOT_LOAD (R93, R514). -/
def bootServed (s : State) : Bool :=
  let y := s.core.sys
  (y.phase == .starting && y.step == 2 && y.hostSource) || (y.phase == .safe && y.romSafe)

/-- The class and length of an opcode known on B0 (check 1 of R83). -/
def opInfo (s : State) (op : Nat) : Option (HClass × Nat) :=
  if op == 0x0108 && !bootServed s then none else (opTable.find? (fun e => e.1 == op)).map (·.2)

/-- The group queue of a hatch (R90). -/
def hatQueue (s : State) (h : Nat) : List Nat := if h < 8 then s.core.hat.queueM else s.core.hat.queueG

/-- Firmware takes a hatch it owns that heads its group (R90), once a boot ROM or Daltia runs. -/
def canTake (s : State) (h : Nat) : Bool :=
  decide (h < 64) && (ctlAt s h).own && (hatQueue s h).head? == some h && running s

/-- Check 2 of R83 on the context. -/
def ctxExists (s : State) (c : Nat) : Bool := c != 255 && NMap.has s.core.sec.contexts c

/-- Check 3 of R83: class, assignment (R92) and sealing (R97). -/
def ctxPermitted (s : State) (r : Req) (k : HClass) : Bool :=
  let a := (ctlAt s r.h).assigned
  (match k with
   | .m => decide (r.h < 8) && r.ctx == 0 && (r.op != 0x0108 || r.h == 0)
   | .zero => r.ctx == 0
   | .a => r.ctx == 0 || r.ctx == a) &&
  (a == 0 || r.ctx == a) &&
  (r.ctx == 0 || !s.core.sys.conf || bit r.flags 1)

/-- Check 4 of R83: the table of R93, with R510's list for the boot ROM. -/
def stateAnswers (s : State) (op : Nat) : Bool :=
  let base := [0x0101, 0x0102, 0x0107, 0x0A01, 0x0A04]
  match s.core.sys.phase with
  | .starting => base.contains op || op == 0x0108
  | .safe =>
    if s.core.sys.romSafe then (base ++ [0x0106, 0x0108, 0x0801, 0x0802, 0x0903]).contains op
    else (base ++ [0x0106, 0x0801, 0x0802, 0x0901, 0x0903, 0x0A03]).contains op
  | .ready => !s.core.sys.scrub
  | _ => false

/-- The failure of checks 1 to 4 of R83, in order. -/
def requestFailure (s : State) (r : Req) : Option Nat :=
  match opInfo s r.op with
  | none => some 0x10
  | some (k, len) =>
    let need := if bit r.flags 1 then len + 28 else len
    if decide (240 < r.len) || decide (r.len < need) || !ctxExists s r.ctx || (bit r.flags 1 && r.ctx == 0) then some 0x11
    else if !ctxPermitted s r k then some 0x15
    else if !stateAnswers s r.op then some 0x14
    else none

/-- Check 5 of R83: the plaintext of a sealed payload, or the payload itself (R97, R456). -/
def openPayload (s : State) (r : Req) : Option (List Byte) :=
  if bit r.flags 1 then
    let t := NMap.getD s.core.sec.contexts r.ctx {}
    let nonce := bytesAt r.payload 0 12
    let header := Mem.bytes s.core.hat.mem (256 * r.h) 16
    if fieldAt nonce 9 1 == 0 && fieldAt nonce 8 1 == r.h && decide ((ctlAt s r.h).lastCtr < fieldAt nonce 0 8) then
      gcmOpen t.kIn nonce header (r.payload.drop 12)
    else none
  else some r.payload

/-- Firmware takes a hatch: it leaves its queue, and the IRQ and sealing of the request are kept (R89, R90, R97). -/
def State.takeOff (s : State) (r : Req) : State :=
  let sealed := if bit r.flags 1 && r.ctx != 0 && ctxExists s r.ctx then some (fieldAt r.payload 0 8) else none
  let s := s.modHat (fun a =>
    { a with queueM := a.queueM.filter (· != r.h), queueG := a.queueG.filter (· != r.h), ownAt := NMap.erase a.ownAt r.h })
  let s := s.modCtl r.h (fun c => { c with irq := bit r.flags 0, sealCtr := sealed, job := none })
  s.traceRec 0x40 r.h (leBytes 2 r.op ++ [0, 0])

/-- Places a response in hatch h (R82, R87, R88, R96, R98): status, payload, whether it is the ACCEPTED one, whether the
vector is raised. -/
def State.placeWith (s : State) (h status : Nat) (payload : List Byte) (accepted raise : Bool) : State :=
  let c := ctlAt s h
  let head := Mem.bytes s.core.hat.mem (256 * h) 5
  let ctx := fieldAt head 4 1
  let dt := dtOf s
  let body := match c.sealCtr with
    | some n =>
      let nonce := leBytes 8 n ++ leBytes 1 h ++ [1, 0, 0]
      let hdr := head ++ leBytes 1 status ++ leBytes 2 (payload.length + 28) ++ leBytes 8 dt
      nonce ++ gcmSeal (NMap.getD s.core.sec.contexts ctx {}).kOut nonce hdr payload
    | none => payload
  let hdr := head ++ leBytes 1 status ++ leBytes 2 body.length ++ leBytes 8 dt
  let s := s.modHat (fun a =>
    { a with mem := Mem.write a.mem (256 * h) (hdr ++ padTo 240 body), done := a.done ||| (1#64 <<< h) })
  let s := s.modCtl h (fun c => { c with own := false, pend := accepted, job := if accepted then c.job else none })
  let s := s.traceRec 0x40 h (leBytes 2 (fieldAt head 0 2) ++ leBytes 1 status ++ [0])
  if raise then s.msi (ctlAt s h).vector else s

/-- Places a final response; the vector is raised when the request set IRQ. -/
def State.place (s : State) (h status : Nat) (payload : List Byte := []) : State :=
  s.placeWith h status payload false (ctlAt s h).irq

/-- Places ACCEPTED for a job that goes on (R88). -/
def State.accept (s : State) (h : Nat) (j : Job) : State :=
  (s.modCtl h (fun c => { c with job := some j })).placeWith h 0x01 [] true (ctlAt s h).irq

/-- Takes the request of hatch h for opcode `op` and runs its own part: the whole of R83 with R89. A request for another known
opcode is another command's, and stays. -/
def serve (op h : Nat) (body : Req → State → State) (s : State) : State :=
  if !canTake s h then s
  else
    let r := reqOf s h
    if r.op != op && (opInfo s r.op).isSome then s
    else
      let t := s.takeOff r
      if r.patience != 0 && decide (r.patience < dtOf s) then t.place h 0x16
      else match requestFailure s r with
        | some st => t.place h st
        | none =>
          match openPayload s r with
          | none => (t.err1 3 3 h).place h 0x30
          | some p =>
            let t := if bit r.flags 1 then t.modCtl h (fun c => { c with lastCtr := fieldAt r.payload 0 8 }) else t
            body { r with payload := p } t

/-! ### Objects held by accepted commands (R91) -/

/-- The objects of R91. -/
inductive Obj where
  | sid (n : Nat) | graph (n : Nat) | crate (n : Nat) | chain (n : Nat) | ctx (n : Nat)
  deriving DecidableEq, Repr

/-- The objects an accepted command holds until its final response. -/
def jobHolds : Job → List Obj
  | .sessionClose sid => [.sid sid]
  | .sessionMove sid _ => [.sid sid]
  | .crateLoad slot _ _ => [.crate slot]
  | .graphLoad g _ _ _ => [.graph g]
  | .graphUnload g _ => [.graph g]
  | .contextDestroy c => [.ctx c]
  | .keyRotate c => [.ctx c]
  | .chainStop c => [.chain c]
  | .batch _ => []
  | .mapLoad _ _ _ => []
  | .mapSave _ _ _ => []
  | .mapOptimise _ => []
  | .mapOrigin _ => []
  | .confEnter => []
  | .confExit => []
  | .linkRetrain _ _ => []

/-- Whether an accepted command without a final response holds an object. -/
def held (s : State) (o : Obj) : Bool :=
  s.core.hat.ctl.any (fun c => match c.job with
    | some j => (jobHolds j).contains o
    | none => false)

/-- The job of a hatch that waits for its end. -/
def jobAt (s : State) (h : Nat) : Option Job := (ctlAt s h).job

/-- The hatches whose job satisfies a test. -/
def hatchesWith (s : State) (p : Job → Bool) : List Nat :=
  (List.range 64).filter (fun h => match jobAt s h with
    | some j => p j
    | none => false)

/-! ### Result areas (R59, R60, R111) -/

/-- Free slots of an area (R60). -/
def areaFree (a : Area) : Nat := a.size - ((a.wr - a.rd).toNat + a.reserved)

/-- Raises an area's vector when its coalescing count is reached (R111). -/
def State.areaIrq (s : State) (n : Nat) : State :=
  let a := areaAt s n
  if a.vector ≤ 63 && decide (a.coalN ≤ a.since) then (s.modArea n (fun a => { a with since := 0 })).msi a.vector else s

/-- Writes a record into an area, then WR_COUNT, then counts towards its interrupt (R59, R99, R111). -/
def State.putRecord (s : State) (n : Nat) (rec_ : List Byte) : State :=
  let a := areaAt s n
  let s := s.emit (.dmaWrite (a.base + 64 + 256 * (a.wr.toNat % a.size)) rec_)
  let s := s.modArea n (fun a =>
    { a with wr := a.wr + 1, firstAt := if a.since = 0 then dtOf s else a.firstAt, since := a.since + 1 })
  let s := s.emit (.dmaWrite a.base (leBytes 4 (areaAt s n).wr.toNat))
  s.areaIrq n

end Sys2Proof.Machine
end

