-- ==== Sys2Proof/Machine/Clock.lean ====
section
/-! DEFINITION. The DT tick (R357, R361), air time (R373, R374) and the instants of the event table. -/
namespace Sys2Proof.Machine

/-- One tick of 625 MHz: DT takes the increment and a step that waits (R357, R361). The clocks stand while the core is in
reset, unpowered or without REFCLK_IN. -/
def tick (s : State) : State :=
  if running s then
    let s' := if s.core.time.stepNs.isSome then s.modHat (fun h => { h with ownAt := [] }) else s
    s'.modTime (fun t =>
      let acc := t.acc + (t.inc.setWidth 40).setWidth 96
      match t.stepNs with
      | some d => { t with acc := acc + (BitVec.ofInt 64 d).setWidth 96 <<< 32, stepNs := none }
      | none => { t with acc := acc })
  else s

/-- The lengths of the long and the other symbols in Tc (R374). -/
def symL0 (mu : Nat) : Nat := 1024 + 140288 / 2 ^ mu
def symL (mu : Nat) : Nat := 140288 / 2 ^ mu
/-- The other symbols' cyclic prefix in Tc (R374): 9216 at μ = 0, halved at each step. -/
def symCp (mu : Nat) : Nat := 9216 / 2 ^ mu

/-- Air time of an instant (R373). -/
structure AirTime where
  sfn : Nat
  subframe : Nat
  slot : Nat
  symbol : Nat
  /-- Offset since the symbol's air start, ns, exact. -/
  offset : Rat
  deriving DecidableEq, Repr

/-- Tc per ns (R374). -/
def tcPerNs : Rat := 196608 / 100000

/-- R373's derivation of AT from an instant of DT given exactly in ns. -/
def airOf (mu : Nat) (epoch : Int) (dt : Rat) : AirTime :=
  let t : Rat := dt - epoch
  let r : Rat := t - 10240000000 * (t / 10240000000).floor
  let sfn := (r / 10000000).floor.toNat
  let r := r - (sfn * 10000000 : Nat)
  let sub := (r / 1000000).floor.toNat
  let r := r - (sub * 1000000 : Nat)
  let half := (r / 500000).floor.toNat
  let r := r - (half * 500000 : Nat)
  let q := r * tcPerNs
  let l0 : Rat := symL0 mu
  let l : Rat := symL mu
  let k : Nat := if q < l0 then 0 else 1 + ((q - l0) / l).floor.toNat
  let off := if q < l0 then q else q - l0 - (k - 1 : Nat) * l
  let n := half * 7 * 2 ^ mu + k
  { sfn := sfn, subframe := sub, slot := n / 14, symbol := n % 14, offset := off / tcPerNs }

/-- The present DT, exact (R357). -/
def dtExact (s : State) : Rat := (s.core.time.acc.toNat : Rat) / (2 ^ 32 : Nat)

/-- AT now. -/
def airNow (s : State) : AirTime := airOf s.core.air.mu s.core.air.epoch (dtExact s)

/-- The air start of a symbol within its 10.24 s cycle, ns, exact: the inverse of R373 (R374). -/
def symStart (mu sfn sub slot sym : Nat) : Rat :=
  let n := slot * 14 + sym
  let per := 7 * 2 ^ mu
  let half := n / per
  let k := n % per
  let tc : Nat := if k = 0 then 0 else symL0 mu + (k - 1) * symL mu
  (sfn * 10000000 + sub * 1000000 + half * 500000 : Nat) + (tc : Rat) / tcPerNs

/-- Rounds to the nearest quarter of a ns, ties later (R376). -/
def toQuarter (ns : Rat) : Int := (ns * 4 + 1 / 2).floor

/-- The earliest instant of a series that lies after a bound (R378): base and period in quarters of a ns. -/
def nextAfter (base period bound : Int) : Int :=
  if bound < base then base - (base - bound - 1) / period * period else base + ((bound - base) / period + 1) * period

/-- Bytes on the wire in quarters of a ns, rounded up, at a port's speed. -/
def wireQ (s : State) (p n : Nat) : Nat :=
  let per := if s.core.air.speed.getD p 0 == 0 then 32 else 128
  (n * per + 99) / 100

/-- The cyclic prefix of a symbol (R374): the long one at the start of each half-subframe. -/
def cpNs (mu slot sym : Nat) : Rat :=
  let k := (slot * 14 + sym) % (7 * 2 ^ mu)
  ((if k = 0 then symCp mu + 1024 else symCp mu : Nat) : Rat) / tcPerNs

end Sys2Proof.Machine
end

