-- ==== Sys2Proof/Machine/Flags.lean ====
section
/-! DEFINITION. The status words and flag fields that registers and responses show, each computed from the state: DEV_STATUS,
HATCH_CTL, the sticky summary, TIME_STAT, the link words, the clock and the cap in force. -/
namespace Sys2Proof.Machine

/-- A number from its fields: value and lowest bit (R7). -/
def packBits (l : List (Nat × Nat)) : Nat := l.foldl (fun acc p => acc + p.1 * 2 ^ p.2) 0

/-- DEV_STATUS (R95). -/
def devStatus (s : State) : Nat :=
  let y := s.core.sys
  packBits [(y.step, 0), (b2n (y.phase == .ready && !y.scrub), 4), (b2n (y.phase == .safe), 5), (b2n y.scrub, 6),
    (b2n y.conf, 7), (b2n y.evtLost, 8), (b2n y.hatchProto, 9)]

/-- HATCH_CTLn (R84): OWN, PENDING and VECTOR; OWN_SET reads zero. -/
def hatchCtl (s : State) (n : Nat) : Nat :=
  let c := ctlAt s n
  packBits [(b2n c.own, 0), (b2n c.pend, 1), (c.vector, 8)]

/-- ERR_SUMMARY (R527). -/
def errSummary (s : State) : Nat := maskOf (s.err.regs.map (fun r => r.bits != 0))

/-- The code of a PTP port state (R367). -/
def ptpCode : PtpState → Nat
  | .disabled => 0 | .listening => 1 | .uncalibrated => 2 | .slave => 3 | .master => 4 | .passive => 5 | .faulty => 6

def ptpPortAt (s : State) (p : Nat) : PtpPort := s.core.air.ports.getD p {}

/-- TIME_STAT (R367). -/
def timeStat (s : State) : Nat :=
  let t := s.core.time
  packBits [(clockCode t.clockQ, 0), (b2n t.stepped, 2), (t.srcPort, 3), (ptpCode (ptpPortAt s 0).state, 4),
    (ptpCode (ptpPortAt s 1).state, 8), (s.core.air.mu, 12)]

/-- AIR_NOW's layout (R358). -/
def airWord (a : AirTime) : Nat :=
  packBits [(a.sfn, 0), (a.subframe, 10), (a.slot, 14), (a.symbol, 19), (a.offset.floor.toNat % 2 ^ 32, 32)]

def mpAt (s : State) (p : Nat) : MpPort := s.core.link.ports.getD p {}

/-- LAUNCH_PENDp (R386). -/
def launchPend (s : State) (p : Nat) : Nat := maskOf ((List.range 64).map (fun n => NMap.has s.core.air.launch (64 * p + n)))

/-- The tensor clock in force, MHz (R557): the lowest of the two requests and of any hold. -/
def tensorMhz (s : State) : Nat :=
  let p := s.core.pow
  let m := min p.ctlMhz p.thMhz
  let m := if p.limiter then min m 800 else m
  if p.hot then min m 400 else m

/-- The admission factor in force, in eighths (R62, R557). -/
def admEighths (s : State) : Nat := min s.core.pow.ctlAdm s.core.pow.thAdm

/-- The effective cap, W (R37). -/
def effectiveCap (s : State) : Nat := min s.core.pow.pinCap s.core.pow.hatchCap

/-- The caps the PWR_CAP pins select and POWER_CAP may set (R36). -/
def pinCapOf (p : Part) (pins : Nat) : Nat :=
  if p == .hyn968 then (if pins == 0 then 140 else if pins == 1 then 90 else 60)
  else if pins == 0 then 80 else if pins == 1 then 60 else 45

/-- The flags of TELEMETRY (R554). -/
def thermFlags (s : State) : Nat :=
  packBits [(b2n s.core.pow.throttle, 0), (b2n s.core.pow.alert, 1), (b2n s.core.pow.hot, 2)]

/-- Masks of channels (R104). -/
def chPresent (s : State) : Nat := toMask ((List.range (nChans s)).filter (fun c => (chanAt s c).present))
def chService (s : State) : Nat := toMask (serviceChans s)
def chMap (s : State) : Nat := toMask (mapChans s)
/-- Mirden ports trained (R104). -/
def mpUp (s : State) : Nat := toMask ((List.range (nMirden s)).filter (fun p => (mpAt s p).state == .up))

/-- FLAGS of a result record (R77). -/
structure RecFlags where
  conflict : Bool := false
  pivot : Bool := false
  unobs : Bool := false
  lateApplied : Bool := false
  lateDiscard : Bool := false
  moved : Bool := false
  modeChanged : Bool := false
  saturated : Bool := false
  deriving DecidableEq, Repr

def RecFlags.word (f : RecFlags) : Nat :=
  maskOf [f.conflict, f.pivot, f.unobs, f.lateApplied, f.lateDiscard, f.moved, f.modeChanged, f.saturated]

/-- Rounds a counter down in confidential mode (R470, R539). -/
def coarse (v : Nat) : Nat := v / 4096 * 4096

/-- Whether a new counter value is shown as latched. -/
def counterValue (s : State) (addr : Nat) : Nat :=
  if s.core.sys.conf then NMap.getD s.core.obs.latch addr 0 else NMap.getD s.core.obs.counters addr 0

/-- The state of a session as SESSION_QUERY reports it (R45). -/
def stateCode : SessState → Nat
  | .provisional => 1 | .normal => 2 | .moving => 3 | .closing => 4

/-! ### The system (R484) -/

/-- Devices at the ends of UP links, by their hellos (R481, R484). -/
def neighbours (s : State) : List (Nat × Bool) :=
  s.core.link.ports.filterMap (fun m => match m.hello with
    | some h => if m.state == .up then some (h.devid, h.keeperEn) else none
    | none => none)

/-- The devices of the system this device knows of, itself first: DEVID and KEEPER_EN. -/
def systemDevs (s : State) : List (Nat × Bool) :=
  let own := s.core.sys.devid
  let near := (neighbours s).filter (fun d => d.1 != own)
  let far := if near.isEmpty then [] else
    s.core.link.devices.filter (fun d => d.1 != own && !near.any (fun e => e.1 == d.1))
  ((own, s.core.sys.keeperEn) :: near ++ far).eraseDups

/-- The acting keeper's DEVID (R484), decided from the end of ST5. -/
def keeperDevid (s : State) : Option Nat :=
  if s.core.link.decided then
    let ds := systemDevs s
    match minBy id ((ds.filter (·.2)).map (·.1)) with
    | some d => some d
    | none => minBy id (ds.map (·.1))
  else none

/-- This device acts as the keeper. -/
def isKeeper (s : State) : Bool := keeperDevid s == some s.core.sys.devid

/-- Time is taken from the parent's link (R499). -/
def linkTimed (s : State) : Bool :=
  s.core.link.decided && !isKeeper s && s.core.link.parent.isSome && s.core.air.ports.all (fun x => x.role == 0)

/-- LINK_TSTAT (R501). -/
def linkTstat (s : State) : Nat :=
  let l := s.core.link
  let par := l.parent.getD 0
  let m := mpAt s par
  let devid := match l.parent, m.hello with
    | some _, some h => h.devid
    | _, _ => 0
  packBits [(par, 0), (b2n (linkTimed s), 2), (devid, 4), (l.dist, 8), (if l.parent.isSome then m.clockQ else 2, 12)]

/-! ### Sessions whose state changes -/

/-- A session enters PROVISIONAL: its exit count starts again, and its next record carries MODE_CHANGED when it was NORMAL
(R45, R74). A moving one takes the state when its move ends. -/
def Session.toProvisional (x : Session) : Session :=
  match x.state with
  | .normal => { x with state := .provisional, exitCount := 0, oweMode := true }
  | .provisional => { x with exitCount := 0 }
  | .moving => { x with before := .provisional, exitCount := 0, oweMode := x.oweMode || x.before == .normal }
  | .closing => x

/-- Makes every session of a test enter PROVISIONAL. -/
def State.provisionalAll (s : State) (f : Nat → Session → Bool) : State :=
  s.modWork (fun w => { w with sess := w.sess.map (fun p => (p.1, if f p.1 p.2 then p.2.toProvisional else p.2)) })

end Sys2Proof.Machine
end

