-- ==== Sys2Proof/Machine/Operands.lean ====
section
/-! DEFINITION. Operand forms of hatch commands: the readers of payload fields, the checks of R105 on numbered units, and the
objects a command names (R91). -/
namespace Sys2Proof.Machine

/-- Payload fields by offset. -/
def Req.u8 (r : Req) (o : Nat) : Nat := fieldAt r.payload o 1
def Req.u16 (r : Req) (o : Nat) : Nat := fieldAt r.payload o 2
def Req.u32 (r : Req) (o : Nat) : Nat := fieldAt r.payload o 4
def Req.u64 (r : Req) (o : Nat) : Nat := fieldAt r.payload o 8

/-- R105 on a channel number: above 7 BAD_ARGUMENT, absent or out of service UNIT_ABSENT. -/
def channelCheck (s : State) (c : Nat) : Option Nat :=
  if 7 < c then some 0x11 else if (serviceChans s).contains c then none else some 0x12

/-- R105 on a Mirden port: above 3 BAD_ARGUMENT, absent UNIT_ABSENT. -/
def mirdenCheck (s : State) (p : Nat) : Option Nat :=
  if 3 < p then some 0x11 else if p < nMirden s then none else some 0x12

/-- R105 for a 0x07xx command: the SCU is absent. -/
def scuCheck (s : State) : Option Nat := if s.hw.is968 then none else some 0x12

/-- The first failure of a list of checks, made in order. -/
def firstOf (l : List (Option Nat)) : Option Nat := l.findSome? id

/-- A check that fails with a status unless its condition holds. -/
def need (c : Bool) (st : Nat) : Option Nat := if c then none else some st

/-- Runs a command's own part when none of its checks fails; otherwise its status is placed and nothing changes. -/
def State.guarded (s : State) (h : Nat) (checks : List (Option Nat)) (act : State → State) : State :=
  match firstOf checks with
  | some st => s.place h st
  | none => act s

/-- R43, R45 and R91 on a session a command names: it is not FREE (BAD_ARGUMENT), it belongs to the context (DENIED), no earlier
command holds it (RESOURCE_BUSY). -/
def sessionChecks (s : State) (r : Req) (sid : Nat) : List (Option Nat) :=
  [need (sessAt s sid).isSome 0x11,
   need (match sessAt s sid with | some x => x.owner == r.ctx | none => true) 0x15,
   need (!held s (.sid sid)) 0x13]

/-- The DMA of a device write to host memory. -/
def State.dma (s : State) (addr : Nat) (data : List Byte) : State := s.emit (.dmaWrite addr data)

/-! ### DMA reads of host memory (R535) and sealed bulk objects (R458, R459) -/

/-- What a DMA read of host memory gave: the bytes, or no bytes, by a poisoned completion or a completion timeout. -/
inductive Dma where
  | ok (data : List Byte)
  | failed (poisoned : Bool)
  deriving DecidableEq, Repr

/-- A failed DMA read: its bit of ERR_MEM, and its AER status bit (R534, R535). -/
def State.dmaFault (s : State) (poisoned : Bool) (sid : Nat := 0xFFFF) : State :=
  let n := if poisoned then 12 else 14
  ({ s with pcie := { s.pcie with aerUncorr := s.pcie.aerUncorr ||| (1#32 <<< n) } } : State).err1 0 (if poisoned then 7 else 8) 255 sid

/-- Reads `n` bytes for a command and goes on with them, or ends the command with INTEGRITY (R535). -/
def State.withDma (s : State) (h addr n : Nat) (d : Dma) (sid : Nat := 0xFFFF) (k : List Byte → State → State) : State :=
  let s := s.emit (.dmaRead addr n)
  match d with
  | .ok data => k (padTo n data) s
  | .failed p => (s.dmaFault p sid).place h 0x30

/-- Objects of a context are sealed on the host bus (R459). -/
def bulkSealed (s : State) (ctx : Nat) : Bool := s.core.sys.conf && ctx != 0
/-- The host length of an object of `n` plaintext bytes (R458). -/
def hostLen (sealed : Bool) (n : Nat) : Nat := if sealed then n + 32 * ((n + 4095) / 4096) else n
/-- The 16 bytes that bind a chunk to its command (R458). -/
def bulkBinding (ctr h item : Nat) : List Byte := leBytes 8 ctr ++ leBytes 1 h ++ [0] ++ leBytes 2 item ++ leBytes 4 0

/-- One chunk opened: its tag, its index, its kind, and LAST where the object ends (R458, R459). -/
def openChunk (key binding : List Byte) (i : Nat) (last : Bool) (c : List Byte) : Option (List Byte) :=
  let head := bytesAt c 0 16
  if fieldAt head 9 1 == 2 && fieldAt head 0xC 2 == i && (!last || bit (fieldAt head 0xE 2) 0) then
    gcmOpen key (bytesAt c 0 12) (head ++ binding) (c.drop 16)
  else none

/-- The chunks of an object of `n` plaintext bytes, each opened or failed. -/
def openBulk (key binding : List Byte) (n : Nat) (data : List Byte) : List (Option (List Byte)) :=
  let m := (n + 4095) / 4096
  (List.range m).map (fun i =>
    let len := if i + 1 = m then n - 4096 * i else 4096
    openChunk key binding i (i + 1 == m) (bytesAt data (4128 * i) (len + 32)))

/-- The plaintext of an object of a context; none where a sealed chunk fails. -/
def bulkData (s : State) (ctx ctr h item n : Nat) (data : List Byte) : Option (List Byte) :=
  if bulkSealed s ctx then
    let cs := openBulk (NMap.getD s.core.sec.contexts ctx {}).kIn (bulkBinding ctr h item) n data
    if cs.all (·.isSome) then some (cs.flatMap (fun c => c.getD [])) else none
  else some (padTo n data)

/-- The counter of the sealed request in hand on a hatch. -/
def reqCounter (s : State) (h : Nat) : Nat := (ctlAt s h).sealCtr.getD 0

end Sys2Proof.Machine
end

