-- ==== Sys2Proof/Machine/Pages.lean ====
section
/-! DEFINITION. The unified range (R394 to R400): pages, frames, allocation, and the areas that firmware reserves at ST9. -/
namespace Sys2Proof.Machine

/-! ### Sizes -/

/-- Pages of 64 KiB in a GiB. -/
def gibPages : Nat := 16384
/-- Store-room frames for data (R390). -/
def nearFrames (s : State) : Nat := gibPages * (if s.hw.is968 then 48 else 24)
/-- Cellar frames for data: 15/16 of the cellar in service (R390, R393). -/
def farFrames (s : State) : Nat := gibPages * s.core.tiers.cellar * 15 / 16
/-- Pages of the unified range, as ST9 fixed it (R394). -/
def rangePages (s : State) : Nat := s.core.tiers.range
/-- The migration reserve (R400). -/
def migReserve (s : State) : Nat := gibPages * (if s.hw.is968 then 2 else 1)
/-- Free store-room frames (R430). -/
def freeNearCount (s : State) : Nat := s.core.tiers.freeNear.length + (nearFrames s - s.core.tiers.nextNear)
/-- The key of a frame in the lists of R407. -/
def frameKey (near : Bool) (f : Nat) : Nat := 2 * f + b2n (!near)

/-! ### Pages -/

def State.setPage (s : State) (p : Nat) (x : Page) : State := s.modTiers (fun t => { t with pages := NMap.set t.pages p x })
/-- Changes an allocated page. -/
def State.modPage (s : State) (p : Nat) (f : Page → Page) : State :=
  match pageAt s p with
  | some x => s.setPage p (f x)
  | none => s

/-- A page as it was last: where it is allocated, else as it was freed (R446). -/
def lastPage (s : State) (p : Nat) : Option Page :=
  match pageAt s p with
  | some x => some x
  | none => NMap.get? s.core.tiers.freed p

/-- The class of a page (R395): SEALED for firmware's own, crates, and pages whose content belongs to a tenant context. -/
def pageSealed (s : State) (p : Nat) : Bool :=
  match lastPage s p with
  | none => false
  | some x =>
    x.secret || x.ctx != 0 ||
      (sessionsOnPage s x.use p).any (fun sid => match sessAt s sid with
        | some y => y.owner != 0 && (x.use == 2 || x.use == 3 || x.use == 6 || x.use == 8 || x.use == 12)
        | none => false)

/-! ### Frames and allocation (R396, R399, R400) -/

/-- A free frame of a tier; none when there is none. -/
def takeFrame (s : State) (near : Bool) : Option (Nat × State) :=
  let t := s.core.tiers
  if near then
    match t.freeNear with
    | f :: l => some (f, s.modTiers (fun t => { t with freeNear := l }))
    | [] => if t.nextNear < nearFrames s then some (t.nextNear, s.modTiers (fun t => { t with nextNear := t.nextNear + 1 })) else none
  else
    match t.freeFar with
    | f :: l => some (f, s.modTiers (fun t => { t with freeFar := l }))
    | [] => if t.nextFar < farFrames s then some (t.nextFar, s.modTiers (fun t => { t with nextFar := t.nextFar + 1 })) else none

/-- Gives a frame back, unless it is retired (R407). -/
def State.freeFrame (s : State) (near : Bool) (f : Nat) : State :=
  if s.core.tiers.retired.contains (frameKey near f) then s
  else if near then s.modTiers (fun t => { t with freeNear := t.freeNear ++ [f] })
  else s.modTiers (fun t => { t with freeFar := t.freeFar ++ [f] })

/-- The hint an allocation gets and the tier it starts in: PIN_NEAR beyond the reserve becomes AUTO (R399, R400). -/
def placement (s : State) (hint : Nat) : Nat × Bool :=
  if s.core.tiers.cellar == 0 then (hint, true)
  else if hint == 1 then (if migReserve s < freeNearCount s then (1, true) else (0, false))
  else (hint, false)

/-- Allocates one page; none when no page is free (R396). -/
def allocPage (s : State) (x : Page) : Option (Nat × State) :=
  let (hint, near) := placement s x.hint
  let frame := match takeFrame s near with
    | some (f, s) => some (f, near, s)
    | none => (takeFrame s (!near)).map (fun (f, s) => (f, !near, s))
  match frame with
  | none => none
  | some (f, near, s) =>
    let s := if hint != x.hint then s.bump (tierCtr 3) 1 else s
    let put (p : Nat) (s : State) : Option (Nat × State) :=
      some (p, (s.modTiers (fun t => { t with freed := NMap.erase t.freed p })).setPage p { x with near := near, frame := f, hint := hint })
    match s.core.tiers.freePages with
    | p :: l => put p (s.modTiers (fun t => { t with freePages := l }))
    | [] =>
      let p := s.core.tiers.nextPage
      if p < rangePages s then put p (s.modTiers (fun t => { t with nextPage := p + 1 })) else none

/-- Allocates pages; none, with nothing taken, when the pages are too few (R396). -/
def allocPages : Nat → Page → State → Option (List Nat × State)
  | 0, _, s => some ([], s)
  | n + 1, x, s =>
    match allocPage s x with
    | none => none
    | some (p, s) =>
      match allocPages n x s with
      | none => none
      | some (l, s) => some (p :: l, s)

/-- Frees a page that was allocated by itself, and its frame; the page keeps its generation (R446). -/
def State.freePage (s : State) (p : Nat) : State :=
  match NMap.get? s.core.tiers.pages p with
  | none => s
  | some x =>
    (s.modTiers (fun t => { t with pages := NMap.erase t.pages p, freePages := t.freePages ++ [p], freed := NMap.set t.freed p x })).freeFrame x.near x.frame

/-- Retires a frame (R407, R408). -/
def State.retireFrame (s : State) (near : Bool) (f : Nat) : State :=
  let k := frameKey near f
  if s.core.tiers.retired.contains k then s
  else
    ((s.modTiers (fun t =>
      { t with
        retired := t.retired ++ [k]
        freeNear := if near then t.freeNear.filter (· != f) else t.freeNear
        freeFar := if near then t.freeFar else t.freeFar.filter (· != f) })).bump (tierCtr 7) 1).err1 0 4

/-! ### The areas of ST9 (R274, R295, R397) -/

/-- Grid patch slots (R274). -/
def patchSlotsOf (s : State) : Nat :=
  match s.hw.is968, decide (0 < s.core.tiers.cellar) with
  | true, true => 1024
  | true, false => 256
  | false, true => 512
  | false, false => 128

/-- Bytes of the map region (R295). -/
def mapRegionOf (s : State) : Nat :=
  2 ^ 30 * (match s.core.tiers.cellar with
    | 256 => 192
    | 128 => 80
    | 64 => 32
    | _ => if s.hw.is968 then 12 else 4)

/-- The areas in the order of R397: pages, hint, class, use. The sizes that go with sessions and channels are halved on the
HYN-964; the tables' and the map's near parts are the model's choice, and so is the place of R494's batch log, after R397's areas. -/
def areaPlan (s : State) : List (Nat × Nat × Bool × Nat) :=
  let h := if s.hw.is968 then 2 else 1
  let map := mapRegionOf s / 65536
  [(4096, 1, true, 11), (512 * h, 1, false, 2), (2048 * h, 1, false, 3), (131072 * h, 1, false, 12), (8192 * h, 1, true, 10),
   (16384, 2, true, 9), (576 * h, 1, false, 8), (256, 1, false, 7), (272 * patchSlotsOf s, 0, false, 6), (2, 1, false, 5),
   (map / 64 - 2, 1, false, 4), (map - map / 64, 0, false, 4), (32768, 0, false, 13)]

/-- Lays one area after those before it. -/
def layArea (cellar : Bool) (t : Tiers) (a : Nat × Nat × Bool × Nat) : Tiers :=
  let (n, hint, secret, use) := a
  let near := !cellar || hint == 1
  { t with
    ranges := t.ranges ++
      [{ first := t.nextPage, count := n, near := near, frame := if near then t.nextNear else t.nextFar, hint := hint, secret := secret, use := use }]
    nextPage := t.nextPage + n
    nextNear := if near then t.nextNear + n else t.nextNear
    nextFar := if near then t.nextFar else t.nextFar + n }

/-- Reserves the areas (R397). -/
def State.layAreas (s : State) : State :=
  let plan := areaPlan s
  s.modTiers (fun t => plan.foldl (layArea (decide (0 < t.cellar))) { t with range := nearFrames s + farFrames s, ranges := [], pages := [], freed := [], nextPage := 0, nextNear := 0, nextFar := 0 })

end Sys2Proof.Machine
end

