-- ==== Sys2Proof/Machine/Crates.lean ====
section
/-! DEFINITION. Crates (R447 to R453, R112, R191) and the 0x0501 to 0x0503 commands. -/
namespace Sys2Proof.Machine

def crateAt (s : State) (n : Nat) : Option Crate := NMap.get? s.core.work.crates n
/-- BODY_LEN of a crate header. -/
def crateBodyLen (h : List Byte) : Nat := fieldAt h 0x10 8
/-- The measurement (R448). -/
def crateMeasure (h : List Byte) : List Byte := sm3 (bytesAt h 0 0xB8)

/-- Crate slots that a resident graph names (R191, CRATE_UNLOAD). -/
def namedCrates (s : State) : List Nat :=
  (s.core.work.graphs.filter (fun p => p.2.resident)).flatMap (fun p =>
    bitsSet p.2.graph.crateMask 32 ++ (p.2.graph.steps.filter (fun t => t.engine == 5)).map (·.crate))
def crateUsed (s : State) (n : Nat) : Bool := (namedCrates s).contains n

/-- Pages of weights that firmware pins at most (R191). -/
def pinLimit (s : State) : Nat := if s.hw.is968 then 131072 else 65536

/-- The pages of named crates that R191 pins, in ascending slot order, and the number left AUTO beyond the limit. -/
def pinPlan (s : State) : List Nat × Nat :=
  let named := namedCrates s
  let pages := (s.core.work.crates.filter (fun p => named.contains p.1)).flatMap (fun p => p.2.pages)
  (pages.take (pinLimit s), pages.length - pinLimit s)

/-- Sets the hints of weight pages after a change of crates or graphs (R191): `before` is the number beyond the limit until then. -/
def State.pinCrates (s : State) (before : Nat) : State :=
  let (pins, short) := pinPlan s
  let all := s.core.work.crates.flatMap (fun p => p.2.pages)
  let s := all.foldl (fun s p => s.modPage p (fun x => { x with hint := if pins.contains p then 1 else 0 })) s
  s.bump (devCtr 1) (short - before)

def crateLoadBody (r : Req) (s : State) : State :=
  let n := r.u8 0
  s.guarded r.h
    [need (decide (n ≤ 31)) 0x11, need (!held s (.crate n)) 0x13,
     need (match crateAt s n with | some c => c.state == 2 | none => true) 0x13]
    (fun s => s.accept r.h (.crateLoad n (r.u64 8) (r.u64 16)))
def execCrateLoad (hatch : Nat) (s : State) : Host.Outcome State Fault Refusal :=
  .next (serve 0x0501 hatch crateLoadBody s)

/-- Check 4 of R449: the content key and the nonce. -/
def crateKey (h : List Byte) : Option (List Byte) := sm2Decrypt Config.identityKey (bytesAt h 0xB8 125)

/-- Checks 1 to 4 of R449 on the header: the status of the first that fails. -/
def crateHeadStatus (s : State) (h : List Byte) (len : Nat) : Option Nat :=
  firstOf
    [need (len == 528 + crateBodyLen h && decide (1 ≤ crateBodyLen h) && decide (crateBodyLen h ≤ 2 ^ 34) && fieldAt h 0 4 == 0x48594301 &&
       fieldAt h 4 2 == 1 && zeroAt h 6 2 && zeroAt h 0xC 4 && zeroAt h 0x135 11 && zeroAt h 0x180 128) 0x11,
     need (fieldAt h 0xA8 16 == s.hw.serial.toNat) 0x15,
     need (sm2Verify (beAt h 0x28 32, beAt h 0x48 32) (bytesAt h 0x18 16) (bytesAt h 0 0x140) (bytesAt h 0x140 64)) 0x30,
     need (crateKey h).isSome 0x30]

/-- Check 6 of R449: the plaintext body. -/
def crateBody (h body : List Byte) : Option (List Byte) :=
  match crateKey h with
  | none => none
  | some k =>
    match gcmOpen (bytesAt k 0 16) (bytesAt k 16 12) (bytesAt h 0 0xB8) body with
    | none => none
    | some p => if sm3 p == bytesAt h 0x88 32 then some p else none

/-- The pages of a crate are given back. -/
def State.dropPages (s : State) (ps : List Nat) : State := ps.foldl (fun s p => s.freePage p) s

/-- A load's final response, with the error record of a failed one (R449, R528). -/
def State.crateFails (s : State) (hatch n st : Nat) : State :=
  (if st == 0x30 then s.err1 3 2 n else s).place hatch st

/-- The end of CRATE_LOAD with what its DMA read gave (R449, R450, R112). -/
def State.crateLoadEnds (s : State) (hatch : Nat) (d : Dma) : State :=
  match jobAt s hatch with
  | some (.crateLoad n addr len) =>
    let s := s.emit (.dmaRead addr len)
    (match d with
     | .failed p => (s.dmaFault p).crateFails hatch n 0x30
     | .ok data =>
       let img := padTo len data
       let h := bytesAt img 0 512
       match crateHeadStatus s h len with
       | some st => s.crateFails hatch n st
       | none =>
         let old := crateAt s n
         let same := match old with | some c => c.measurement == crateMeasure h | none => true
         if !same then s.place hatch 0x13
         else
           let before := (pinPlan s).2
           let t := s.dropPages ((old.map (·.pages)).getD [])
           let hint := if crateUsed s n then 1 else 0
           match allocPages ((crateBodyLen h + 65535) / 65536) { near := true, frame := 0, hint := hint, use := 1, obj := n } t with
           | none => s.place hatch 0x11
           | some (ps, t) =>
             match crateBody h (img.drop 512) with
             | none => s.crateFails hatch n 0x30
             | some p =>
               let c : Crate := { header := bytesAt h 0 0xB8, measurement := crateMeasure h, body := p, state := 1, pages := ps }
               ((t.modWork (fun w => { w with crates := NMap.set w.crates n c })).pinCrates before).place hatch 0x00 (c.measurement.take 16))
  | _ => s
def execCrateLoadDone (hatch : Nat) (data : List Byte) (s : State) : Host.Outcome State Fault Refusal :=
  .next (if running s then s.crateLoadEnds hatch (.ok data) else s)

def crateUnloadBody (r : Req) (s : State) : State :=
  let n := r.u8 0
  s.guarded r.h [need (decide (n ≤ 31)) 0x11, need (!held s (.crate n) && !crateUsed s n) 0x13] (fun s =>
    let ps := ((crateAt s n).map (·.pages)).getD []
    let before := (pinPlan s).2
    let s := (s.dropPages ps).modWork (fun w => { w with crates := NMap.erase w.crates n })
    (s.pinCrates before).place r.h 0x00)
def execCrateUnload (hatch : Nat) (s : State) : Host.Outcome State Fault Refusal :=
  .next (serve 0x0502 hatch crateUnloadBody s)

/-- CRATE_INFO's response. -/
def crateInfoBlock (c : Option Crate) : List Byte :=
  match c with
  | none => List.replicate 32 0
  | some c =>
    leBytes 1 c.state ++ leBytes 3 0 ++ leBytes 4 (fieldAt c.header 8 4) ++ leBytes 8 (crateBodyLen c.header) ++ c.measurement.take 16
def crateInfoBody (r : Req) (s : State) : State :=
  s.guarded r.h [need (decide (r.u8 0 ≤ 31)) 0x11] (fun s => s.place r.h 0x00 (crateInfoBlock (crateAt s (r.u8 0))))
def execCrateInfo (hatch : Nat) (s : State) : Host.Outcome State Fault Refusal :=
  .next (serve 0x0503 hatch crateInfoBody s)

/-- A poisoned page of a crate (R193): its slot wants a reload, and CRATE_RELOAD names it. -/
def State.cratePoisoned (s : State) (n page : Nat) : State :=
  let s := s.modWork (fun w => { w with crates := NMap.upd w.crates n (fun c => { c with state := 2 }) })
  s.event 0x0002 [leBytes 1 n ++ leBytes 7 0 ++ leBytes 8 (65536 * page)]

/-- The weight tiles of a program at an offset of a crate's body: each layer's weights in pieces of at most 512 KiB (R190). -/
def programTiles (progOff : Nat) (p : List Byte) : List WTile :=
  (List.range (fieldAt p 6 2)).flatMap (fun l =>
    let e := bytesAt p (fieldAt p 0xC 4 + 64 * l) 64
    let n := fieldAt e 0x14 4
    (List.range ((n + 524287) / 524288)).map (fun i =>
      { layer := l, off := progOff + fieldAt p 0x14 4 + fieldAt e 0x10 4 + 524288 * i, len := min 524288 (n - 524288 * i) }))
/-- A tile has bytes on a page of its crate. -/
def WTile.onPage (t : WTile) (i : Nat) : Bool := decide (65536 * i < t.off + t.len) && decide (t.off < 65536 * (i + 1))
/-- A page that a tile lies on is poisoned (R193). -/
def WTile.poisoned (s : State) (c : Crate) (t : WTile) : Bool :=
  c.pages.zipIdx.any (fun e => t.onPage e.2 && (match pageAt s e.1 with
    | some y => y.poison
    | none => false))

/-- Whether a crate's policy admits a context (R451). -/
def policyAdmits (s : State) (n ctx : Nat) : Bool :=
  match crateAt s n with
  | none => true
  | some c =>
    let p := bytesAt c.header 0x68 32
    p.all (· == 0) || (ctx != 0 && (NMap.getD s.core.sec.contexts ctx {}).digest == p)

/-- Whether the crates of a graph admit a context (R451). -/
def graphAdmits (s : State) (g : Graph) (ctx : Nat) : Bool := (bitsSet g.crateMask 32).all (fun n => policyAdmits s n ctx)

end Sys2Proof.Machine
end

