-- ==== Sys2Proof/Machine/Fabric.lean ====
section
/-! DEFINITION. The slot table image (R413 to R415), the reset sidebands of requesters (R426) and torn granules. -/
namespace Sys2Proof.Machine

/-! ### Slot tables -/

/-- The owner of a slot of the default image (R415). -/
def defaultOwner (i : Nat) : Nat :=
  let even := i / 64 % 2 == 0
  let j := i % 64
  let n := j / 8
  if j % 8 == 0 then 6 * n
  else if j % 8 == 2 then 6 * n + 3
  else if j % 8 == 4 then (if even then 6 * n + 1 else 6 * n + 2)
  else if j % 8 == 6 then (if even then 6 * n + 4 else 6 * n + 5)
  else if j % 8 == 1 then 50
  else if j % 16 == 5 then 51
  else if j == 3 then 48 else if j == 11 then 49 else if j == 19 then 52 else if j == 27 then 53
  else if j == 35 then 54 else if j == 43 then 55 else 0xFF

/-- The background class of a requester in the default image (R415). -/
def defaultBg (id : Nat) : Nat :=
  if id < 48 then (if id % 6 == 3 || id % 6 == 5 then 0 else if id % 6 == 1 then 2 else 1)
  else if id == 48 || id == 49 then 0
  else if id == 50 then 2
  else if id == 51 then 3 else 1

/-- The default image as bytes (R413, R415), its CHECK included. -/
def defaultImage : List Byte :=
  let head := leBytes 4 0x48594101 ++ leBytes 2 1 ++ leBytes 2 50
  let tail := leBytes 4 0 ++ ((List.range 256).map (fun i => BitVec.ofNat 8 (defaultOwner i))) ++
    ((List.range 56).map (fun i => BitVec.ofNat 8 (defaultBg i))) ++ leBytes 2 256 ++ leBytes 1 24
  let body := padTo 4096 (head ++ leBytes 4 0 ++ tail)
  overlay body 8 (leBytes 4 (crc32 body).toNat)

/-- The table in use from an image (R413). -/
def fabricOf (img : List Byte) : Fabric :=
  { owners := (List.range 256).map (fun i => fieldAt img (0x10 + i) 1)
    bg := (List.range 56).map (fun i => fieldAt img (0x110 + i) 1)
    starveUs := fieldAt img 6 2
    migPages := fieldAt img 0x148 2
    promoteHeat := fieldAt img 0x14A 1
    image := img }

/-- CHECK of an image of a loft page: CRC-32 with the field taken as zero (R414, R520). -/
def checkOk (img : List Byte) : Bool := (crc32 (overlay img 8 (leBytes 4 0))).toNat == fieldAt img 8 4

/-- Whether a requester has a slot in every cyclic run of ⌈512/s⌉ slots (R414). -/
def spreadOk (owners : List Nat) (id : Nat) : Bool :=
  let s := (owners.filter (· == id)).length
  let w := (512 + s - 1) / s
  decide (256 ≤ w) || (List.range 256).all (fun i => (List.range w).any (fun k => owners.getD ((i + k) % 256) 0xFF == id))

/-- The checks of R414. -/
def slotImageOk (s : State) (img : List Byte) : Bool :=
  let f := fabricOf img
  fieldAt img 0 4 == 0x48594101 && fieldAt img 4 2 == 1 && checkOk img && decide (10 ≤ f.starveUs) && decide (f.starveUs ≤ 10000) &&
  zeroAt img 0xC 4 && zeroAt img 0x14B 0xEB5 && f.owners.all (fun o => decide (o ≤ 55) || o == 0xFF) && f.bg.all (fun b => decide (b ≤ 3)) &&
  decide (f.migPages ≤ 1024) && decide (1 ≤ f.promoteHeat) &&
  (f.owners.eraseDups.filter (· != 0xFF)).all (spreadOk f.owners) &&
  ([49, 51] ++ (List.range (nChans s)).map (fun n => 6 * n + 5)).all (fun id => f.owners.contains id)

/-- Puts a table in use; statistics and arbiters stay. -/
def State.useTable (s : State) (img : List Byte) : State :=
  s.modFab (fun f => { fabricOf img with arbs := f.arbs, stats := f.stats })

/-! ### Requesters -/

def statAt (s : State) (id : Nat) : ReqStat := s.core.fab.stats.getD id {}
def State.modStat (s : State) (id : Nat) (f : ReqStat → ReqStat) : State :=
  s.modFab (fun b => { b with stats := updAt b.stats id f })
def arbAt (s : State) (a : Nat) : Arb := s.core.fab.arbs.getD a {}
def State.modArb (s : State) (a : Nat) (f : Arb → Arb) : State := s.modFab (fun b => { b with arbs := updAt b.arbs a f })

/-- A requester's locked sequence of some beats, taken and ended (R423, R424). -/
def State.lockFor (s : State) (id beats : Nat) : State := s.modStat id (fun r => { r with taken := r.taken + 1, beats := r.beats + beats })

/-- Marks a granule torn by a requester's release (R426, R427). -/
def State.tear (s : State) (granule id : Nat) : State :=
  s.modTiers (fun t => { t with torn := NMap.set t.torn granule (id, false) })

/-- Clears a tear: a repair write (R427). -/
def State.repair (s : State) (granule : Nat) : State := s.modTiers (fun t => { t with torn := NMap.erase t.torn granule })

/-- The first access to a torn granule sets its bit; each counts against the requester whose access it is (R427, R429). -/
def State.reachTorn (s : State) (granule req : Nat) : State :=
  match NMap.get? s.core.tiers.torn granule with
  | none => s
  | some (owner, reached) =>
    let s := s.modStat req (fun r => { r with torn := r.torn + 1 })
    if reached then s
    else (s.modTiers (fun t => { t with torn := NMap.set t.torn granule (owner, true) })).err1 5 4 owner 0xFFFF (granule / 16)

/-- The sidebands of requesters are asserted (R426): masked at every arbiter, their requests dropped, their bursts ended, their
locks released, a lock with a beat written leaving its granule torn. -/
def State.sideband (s : State) (ids : List Nat) : State :=
  let torn := s.core.fab.arbs.filterMap (fun a => match a.lock with
    | some (id, g, n, _) => if ids.contains id && decide (0 < n) then some (g, id) else none
    | none => none)
  let s := s.modFab (fun b =>
    { b with
      arbs := b.arbs.map (fun a =>
        { a with
          waiting := a.waiting.filter (fun w => !ids.contains w.req)
          burst := a.burst.filter (fun w => !ids.contains w.req)
          lock := a.lock.filter (fun l => !ids.contains l.1) })
      stats := b.stats.zipIdx.map (fun p =>
        if ids.contains p.2 then { p.1 with masked := true, lockHeld := false, starving := false } else p.1) })
  torn.foldl (fun s p => s.tear p.1 p.2) s

/-- A requester is re-enabled after its reset (R426). -/
def State.unmask (s : State) (id : Nat) : State := s.modStat id (fun r => { r with masked := false })

/-- The six requesters of a channel (R412). -/
def chanIds (ch : Nat) : List Nat := (List.range 6).map (fun k => 6 * ch + k)

end Sys2Proof.Machine
end

