-- ==== Sys2Proof/Machine/Geom.lean ====
section
/-! DEFINITION. The geometry and linear algebra behind the spec's formulas, over exact rationals: roots, exponentials and angles to
60 bits and more, vectors, unit quaternions, poses (R216, R217), matrices (R233, R264, R280), the camera models of R118 and R119. A result
is rounded once, to the format that the spec names for it. -/
namespace Sys2Proof.Machine

/-- The magnitude of a number. -/
def absQ (q : Rat) : Rat := if q < 0 then -q else q
/-- The sum of a list. -/
def sumQ (l : List Rat) : Rat := l.foldl (· + ·) 0
/-- A square root to 60 bits of its own size. -/
def rootQ (q : Rat) : Rat :=
  if q ≤ 0 then 0
  else
    let e := ilog2 q / 2
    sqrtQ (q * pow2 (-2 * e)) * pow2 e

/-- A number kept to 120 bits of its own size, far beyond any format of the spec. -/
def trim (q : Rat) : Rat :=
  if q = 0 then 0
  else
    let e := 120 - ilog2 (absQ q)
    roundAway (q * pow2 e) * pow2 (-e)

/-! ### Series -/

/-- π to 50 digits. -/
def piQ : Rat := 314159265358979323846264338327950288419716939937511 / 10 ^ 50
/-- ln 2 to 50 digits. -/
def ln2Q : Rat := 69314718055994530941723212145817656807550013436026 / 10 ^ 50

/-- Σ t_k from a first term, each term the last one times a ratio that depends on its number. -/
def series (ratio : Nat → Rat) : Nat → Nat → Rat → Rat
  | 0, _, _ => 0
  | n + 1, k, t => t + series ratio n (k + 1) (trim (t * ratio k))

/-- An angle less whole turns. -/
def turnless (a : Rat) : Rat := trim (a - 2 * piQ * roundAway (a / (2 * piQ)))
/-- The sine of an angle. -/
def sinQ (a : Rat) : Rat :=
  let x := turnless a
  series (fun k => -(x * x) / ((2 * k + 2) * (2 * k + 3) : Nat)) 24 0 x
/-- The cosine of an angle. -/
def cosQ (a : Rat) : Rat :=
  let x := turnless a
  series (fun k => -(x * x) / ((2 * k + 1) * (2 * k + 2) : Nat)) 24 0 1
/-- e^q; below e^−500 it is 0, above e^500 it is e^500. -/
def expQ (q : Rat) : Rat :=
  if q < -500 then 0
  else
    let q := min q 500
    let n := roundAway (q / ln2Q)
    let r := trim (q - n * ln2Q)
    pow2 n * series (fun k => r / (k + 1 : Nat)) 30 0 1
/-- The natural logarithm of a positive number. -/
def lnQ (q : Rat) : Rat :=
  if q ≤ 0 then 0
  else
    let e := ilog2 q
    let m := q * pow2 (-e)
    let y := trim ((m - 1) / (m + 1))
    e * ln2Q + 2 * series (fun k => y * y * (2 * k + 1 : Nat) / (2 * k + 3 : Nat)) 40 0 y

/-- The arc tangent of a small number, by its series. -/
def atanSmall (x : Rat) : Rat := series (fun k => -(x * x) * (2 * k + 1 : Nat) / (2 * k + 3 : Nat)) 24 0 x
/-- Halves an arc tangent's angle. -/
def atanHalf (x : Rat) : Rat := trim (x / (1 + rootQ (1 + x * x)))
def atanQ (x : Rat) : Rat :=
  if absQ x ≤ 1 then 8 * atanSmall (atanHalf (atanHalf (atanHalf x)))
  else (if x < 0 then -piQ / 2 else piQ / 2) - 8 * atanSmall (atanHalf (atanHalf (atanHalf (1 / x))))
/-- The angle of a point from +x towards +y, in (−π, π]; 0 at the origin. -/
def atan2Q (y x : Rat) : Rat :=
  if 0 < x then atanQ (y / x)
  else if x < 0 then (if 0 ≤ y then atanQ (y / x) + piQ else atanQ (y / x) - piQ)
  else if 0 < y then piQ / 2 else if y < 0 then -piQ / 2 else 0
/-- The angle whose cosine is a number of [−1, 1]. -/
def acosQ (c : Rat) : Rat := atan2Q (rootQ (1 - c * c)) c

/-! ### Vectors -/

structure V3 where
  x : Rat := 0
  y : Rat := 0
  z : Rat := 0
  deriving DecidableEq, Repr

def V3.add (a b : V3) : V3 := ⟨a.x + b.x, a.y + b.y, a.z + b.z⟩
def V3.sub (a b : V3) : V3 := ⟨a.x - b.x, a.y - b.y, a.z - b.z⟩
def V3.scale (k : Rat) (a : V3) : V3 := ⟨k * a.x, k * a.y, k * a.z⟩
def V3.dot (a b : V3) : Rat := a.x * b.x + a.y * b.y + a.z * b.z
def V3.cross (a b : V3) : V3 := ⟨a.y * b.z - a.z * b.y, a.z * b.x - a.x * b.z, a.x * b.y - a.y * b.x⟩
def V3.norm (a : V3) : Rat := rootQ (a.dot a)
def V3.trim (a : V3) : V3 := ⟨Machine.trim a.x, Machine.trim a.y, Machine.trim a.z⟩
/-- The vector of length one along a vector; 0 for 0. -/
def V3.unit (a : V3) : V3 := (V3.scale (1 / a.norm) a).trim
def V3.list (a : V3) : List Rat := [a.x, a.y, a.z]
def v3Of (l : List Rat) : V3 := ⟨l.getD 0 0, l.getD 1 0, l.getD 2 0⟩
/-- Three FP64 or FP32 fields as a vector. -/
def v3At64 (b : List Byte) (o : Nat) : V3 := v3Of ((f64sAt b o 3).map f64Val)
def v3At32 (b : List Byte) (o : Nat) : V3 := v3Of ((f32sAt b o 3).map f32Val)
def V3.f64s (a : V3) : List F64 := a.list.map f64Of
def V3.f32s (a : V3) : List F32 := a.list.map f32Of
/-- A position held in FP64, a direction held in FP32 (R253). -/
def V3.as64 (a : V3) : V3 := v3Of (a.f64s.map f64Val)
def V3.as32 (a : V3) : V3 := v3Of (a.f32s.map f32Val)

/-! ### Rotations -/

structure Quat where
  w : Rat := 1
  x : Rat := 0
  y : Rat := 0
  z : Rat := 0
  deriving DecidableEq, Repr

def Quat.vec (q : Quat) : V3 := ⟨q.x, q.y, q.z⟩
def Quat.mul (a b : Quat) : Quat :=
  ⟨a.w * b.w - a.x * b.x - a.y * b.y - a.z * b.z, a.w * b.x + a.x * b.w + a.y * b.z - a.z * b.y,
   a.w * b.y - a.x * b.z + a.y * b.w + a.z * b.x, a.w * b.z + a.x * b.y - a.y * b.x + a.z * b.w⟩
def Quat.conj (q : Quat) : Quat := ⟨q.w, -q.x, -q.y, -q.z⟩
def Quat.norm2 (q : Quat) : Rat := q.w * q.w + q.x * q.x + q.y * q.y + q.z * q.z
/-- The unit quaternion along a quaternion (R217). -/
def Quat.unit (q : Quat) : Quat :=
  let n := rootQ q.norm2
  if n = 0 then {} else ⟨trim (q.w / n), trim (q.x / n), trim (q.y / n), trim (q.z / n)⟩
/-- The vector a unit quaternion turns a vector into. -/
def Quat.turn (q : Quat) (v : V3) : V3 :=
  let u := q.vec
  let c := V3.scale 2 (u.cross v)
  (v.add (V3.scale q.w c)).add (u.cross c)
def Quat.list (q : Quat) : List Rat := [q.w, q.x, q.y, q.z]
def quatOf (l : List Rat) : Quat := ⟨l.getD 0 0, l.getD 1 0, l.getD 2 0, l.getD 3 0⟩
/-- Four fields as a rotation. -/
def quatAt32 (b : List Byte) (o : Nat) : Quat := (quatOf ((f32sAt b o 4).map f32Val)).unit
def quatAt64 (b : List Byte) (o : Nat) : Quat := (quatOf ((f64sAt b o 4).map f64Val)).unit
def quat32 (l : List F32) : Quat := (quatOf (l.map f32Val)).unit
def Quat.f32s (q : Quat) : List F32 := q.list.map f32Of
def Quat.f64s (q : Quat) : List F64 := q.list.map f64Of
/-- The columns of a rotation's matrix. -/
def Quat.col (q : Quat) (j : Nat) : V3 := q.turn (if j == 0 then ⟨1, 0, 0⟩ else if j == 1 then ⟨0, 1, 0⟩ else ⟨0, 0, 1⟩)
/-- The rotation of an angle about up. -/
def yawQuat (a : Rat) : Quat := ⟨cosQ (a / 2), 0, 0, sinQ (a / 2)⟩
/-- The rotation about up of a rotation (R322, R325): the twist of its quaternion about the map frame's z axis, in (−π, π]. -/
def Quat.yaw (q : Quat) : Rat :=
  let a := 2 * atan2Q q.z q.w
  if piQ < a then a - 2 * piQ else if a ≤ -piQ then a + 2 * piQ else a

/-- Exp of a rotation vector (R217). -/
def expRot (p : V3) : Quat :=
  let t := p.norm
  if t = 0 then {} else ⟨cosQ (t / 2), (V3.scale (sinQ (t / 2) / t) p).x, (V3.scale (sinQ (t / 2) / t) p).y, (V3.scale (sinQ (t / 2) / t) p).z⟩

/-- V(φ)·ρ (R217). -/
def applyV (p r : V3) : V3 :=
  let t := p.norm
  let small : Bool := decide (t < 1 / 10 ^ 4)
  let b := if small then 1 / 2 - t * t / 24 else (1 - cosQ t) / (t * t)
  let c := if small then 1 / 6 - t * t / 120 else (t - sinQ t) / (t * t * t)
  let k := p.cross r
  V3.trim <| (r.add (V3.scale b k)).add (V3.scale c (p.cross k))

/-- The rotation vector of a rotation (R217): the angle from the trace; near π the axis from the largest diagonal element of R + I. -/
def logRot (q : Quat) : V3 :=
  let c0 := q.col 0
  let c1 := q.col 1
  let c2 := q.col 2
  let cosT := max (-1) (min 1 ((c0.x + c1.y + c2.z - 1) / 2))
  let t := acosQ cosT
  let axis2 : V3 := ⟨c1.z - c2.y, c2.x - c0.z, c0.y - c1.x⟩
  if t < 1 / 10 ^ 4 then V3.scale (1 / 2 + t * t / 12) axis2
  else if piQ - 1 / 10 ^ 4 < t then
    let d0 := c0.x + 1
    let d1 := c1.y + 1
    let d2 := c2.z + 1
    let col : V3 := if d1 ≤ d0 && d2 ≤ d0 then ⟨d0, c0.y, c0.z⟩ else if d2 ≤ d1 then ⟨c1.x, d1, c1.z⟩ else ⟨c2.x, c2.y, d2⟩
    let u := col.unit
    V3.scale (if axis2.dot u < 0 then -t else t) u
  else V3.scale (t / (2 * sinQ t)) axis2

/-! ### Poses -/

/-- A pose: a point p of its frame stands at R·p + t. -/
structure Pose where
  r : Quat := {}
  t : V3 := {}
  deriving DecidableEq, Repr

def Pose.app (p : Pose) (v : V3) : V3 := ((p.r.turn v).add p.t).trim
def Pose.mul (a b : Pose) : Pose := { r := (a.r.mul b.r).unit, t := a.app b.t }
def Pose.inv (p : Pose) : Pose := { r := p.r.conj, t := (p.r.conj.turn (V3.scale (-1) p.t)).trim }
/-- T · Exp(ξ) (R217). -/
def Pose.retract (p : Pose) (rho phi : V3) : Pose := { r := (p.r.mul (expRot phi)).unit, t := p.app (applyV phi rho) }
/-- A pose held as 3 × FP64 and 4 × FP32, or as 7 × FP64. -/
def poseAt32 (b : List Byte) (o : Nat) : Pose := { t := v3At64 b o, r := quatAt32 b (o + 24) }
def poseAt64 (b : List Byte) (o : Nat) : Pose := { t := v3At64 b o, r := quatAt64 b (o + 24) }
def poseOf (pos : List F64) (quat : List F32) : Pose := { t := v3Of (pos.map f64Val), r := quat32 quat }
def Pose.bytes32 (p : Pose) : List Byte := f64Bytes p.t.f64s ++ f32Bytes p.r.f32s
def Pose.bytes64 (p : Pose) : List Byte := f64Bytes p.t.f64s ++ f64Bytes p.r.f64s

/-! ### Matrices, as lists of rows -/

abbrev Mat := List (List Rat)
def matAt (m : Mat) (i j : Nat) : Rat := (m.getD i []).getD j 0
def matOf (n m : Nat) (f : Nat → Nat → Rat) : Mat := (List.range n).map (fun i => (List.range m).map (f i))
def matId (n : Nat) : Mat := matOf n n (fun i j => if i = j then 1 else 0)
def Mat.tr (m : Mat) : Mat := matOf (m.headD []).length m.length (fun i j => matAt m j i)
def dotL (a b : List Rat) : Rat := sumQ (a.zipWith (· * ·) b)
def Mat.times (a b : Mat) : Mat := let t := Mat.tr b; a.map (fun r => t.map (dotL r))
def Mat.app (a : Mat) (v : List Rat) : List Rat := a.map (fun r => dotL r v)
def Mat.plus (a b : Mat) : Mat := a.zipWith (fun r s => r.zipWith (· + ·) s) b
def Mat.by (k : Rat) (a : Mat) : Mat := a.map (fun r => r.map (k * ·))
/-- The block-diagonal matrix of two. -/
def Mat.diag2 (a b : Mat) : Mat :=
  let n := (a.headD []).length
  let m := (b.headD []).length
  a.map (fun r => r ++ List.replicate m 0) ++ b.map (fun r => List.replicate n 0 ++ r)
/-- A symmetric matrix from its upper triangle, row by row. -/
def symMat (n : Nat) (l : List Rat) : Mat :=
  matOf n n (fun i j => let a := min i j; let b := max i j; l.getD (a * n - a * (a + 1) / 2 + b) 0)
/-- The upper triangle of a square matrix, row by row. -/
def Mat.upper (m : Mat) : List Rat := (List.range m.length).flatMap (fun i => (m.getD i []).drop i)
/-- An upper triangular matrix from its entries, row by row. -/
def upperOf (n : Nat) (l : List Rat) : Mat := matOf n n (fun i j => if j < i then 0 else l.getD (i * n - i * (i + 1) / 2 + j) 0)

/-- Gauss–Jordan elimination of the columns from `j` on, over rows not yet used and rows done; none where a pivot is missing. -/
def eliminate : Nat → Nat → Mat → Mat → Option Mat
  | 0, _, done, _ => some done
  | n + 1, j, done, rest =>
    match rest.find? (fun r => r.getD j 0 ≠ 0) with
    | none => none
    | some p =>
      let p := p.map (· / p.getD j 1)
      let clear (r : List Rat) : List Rat := r.zipWith (fun a b => a - r.getD j 0 * b) p
      let i := (rest.findIdx? (fun r => r.getD j 0 ≠ 0)).getD 0
      eliminate n (j + 1) (done.map clear ++ [p]) ((rest.eraseIdx i).map clear)
/-- The inverse of a square matrix; none where it is singular. -/
def Mat.inv (m : Mat) : Option Mat :=
  let n := m.length
  (eliminate n 0 [] ((m.zip (matId n)).map (fun e => e.1 ++ e.2))).map (fun l => l.map (·.drop n))
/-- vᵀ·M⁻¹·v; none where M is singular. -/
def mahalanobis (m : Mat) (v : List Rat) : Option Rat := m.inv.map (fun k => dotL v (k.app v))

/-- The upper triangular R with Rᵀ·R = M of a positive definite matrix, by rows; none where M is not. -/
def cholRows : Nat → Mat → Option (List (List Rat))
  | 0, _ => some []
  | n + 1, m =>
    let a := m.headD []
    let d := rootQ (a.headD 0)
    if a.headD 0 ≤ 0 then none
    else
      let r := a.map (fun x => trim (x / d))
      let rest := (m.tail.zip r.tail).map (fun e => (e.1.tail.zip r.tail).map (fun f => f.1 - e.2 * f.2))
      (cholRows n rest).map (fun l => r :: l)
/-- Its entries row by row, as sqrt-information records hold them (R227). -/
def cholUpper (m : Mat) : Option (List Rat) := (cholRows m.length m).map (·.flatten)
/-- The matrix of a rotation. -/
def Quat.mat (q : Quat) : Mat := Mat.tr [(q.col 0).list, (q.col 1).list, (q.col 2).list]
/-- A 3 × 3 matrix turned by a rotation: Q·M·Qᵀ. -/
def Mat.turned (q : Quat) (m : Mat) : Mat := (q.mat.times m).times (Mat.tr q.mat)
/-- A matrix whose columns are given. -/
def ofCols (l : List V3) : Mat := Mat.tr (l.map V3.list)

/-! ### Cameras (R118, R119) -/

/-- A mesh node's source position, px. -/
def meshNode (mesh : List Byte) (i j : Nat) : Rat × Rat :=
  let o := 8 * (16 * i + j)
  ((intAt mesh o 4 : Rat) / 32, (intAt mesh (o + 4) 4 : Rat) / 32)
/-- The source position that a mesh gives a position of a working image of w × h pixels, and its derivative there (R121). Outside the image its outermost cells go on. -/
def meshAt (mesh : List Byte) (w h : Nat) (x y : Rat) : (Rat × Rat) × Mat :=
  let sx : Rat := 15 / ((w - 1 : Nat) : Rat)
  let sy : Rat := 15 / ((h - 1 : Nat) : Rat)
  let j := min 14 (sx * x).floor.toNat
  let i := min 14 (sy * y).floor.toNat
  let u := sx * x - j
  let v := sy * y - i
  let n (a b : Nat) : Rat × Rat := meshNode mesh (i + a) (j + b)
  let mix (f : Rat × Rat → Rat) : Rat := (1 - v) * ((1 - u) * f (n 0 0) + u * f (n 0 1)) + v * ((1 - u) * f (n 1 0) + u * f (n 1 1))
  let row (f : Rat × Rat → Rat) : List Rat :=
    [sx * ((1 - v) * (f (n 0 1) - f (n 0 0)) + v * (f (n 1 1) - f (n 1 0))), sy * ((1 - u) * (f (n 1 0) - f (n 0 0)) + u * (f (n 1 1) - f (n 0 1)))]
  ((mix (·.1), mix (·.2)), [row (·.1), row (·.2)])

/-- A camera model: TYPE 1 or TYPE 2 of R118 with FX, FY, CX, CY and K1 to K4; an ideal camera is one whose K1 to K4 are zero; a mesh with the size of its image
is TYPE 3, over the ideal pinhole of FX, FY, CX, CY. -/
structure Cam where
  fish : Bool
  f : List Rat
  k : List Rat := [0, 0, 0, 0]
  mesh : Option (List Byte × Nat × Nat) := none
  deriving DecidableEq, Repr

def Cam.fx (c : Cam) : Rat := c.f.getD 0 0
def Cam.fy (c : Cam) : Rat := c.f.getD 1 0
def Cam.cx (c : Cam) : Rat := c.f.getD 2 0
def Cam.cy (c : Cam) : Rat := c.f.getD 3 0
def Cam.kk (c : Cam) (i : Nat) : Rat := c.k.getD i 0

/-- θ_d of an angle, and its derivative (R118). -/
def Cam.bend (c : Cam) (t : Rat) : Rat × Rat :=
  let a := t * t
  (t * (1 + c.kk 0 * a + c.kk 1 * a ^ 2 + c.kk 2 * a ^ 3 + c.kk 3 * a ^ 4),
   1 + 3 * c.kk 0 * a + 5 * c.kk 1 * a ^ 2 + 7 * c.kk 2 * a ^ 3 + 9 * c.kk 3 * a ^ 4)

/-- The source pixel of a normalised direction (R118). -/
def Cam.pixel (c : Cam) (x y : Rat) : Rat × Rat :=
  let r2 := x * x + y * y
  match c.mesh with
  | some (m, w, h) => (meshAt m w h (c.fx * x + c.cx) (c.fy * y + c.cy)).1
  | none =>
  if c.fish then
    let r := rootQ r2
    let s := if r = 0 then 1 else (c.bend (atanQ r)).1 / r
    (c.fx * x * s + c.cx, c.fy * y * s + c.cy)
  else
    let g := 1 + c.kk 0 * r2 + c.kk 1 * r2 ^ 2
    let xd := x * g + 2 * c.kk 2 * x * y + c.kk 3 * (r2 + 2 * x * x)
    let yd := y * g + c.kk 2 * (r2 + 2 * y * y) + 2 * c.kk 3 * x * y
    (c.fx * xd + c.cx, c.fy * yd + c.cy)

/-- The derivative of the source pixel in the normalised direction, by rows u and v. -/
def Cam.slope (c : Cam) (x y : Rat) : Mat :=
  let r2 := x * x + y * y
  match c.mesh with
  | some (m, w, h) => (meshAt m w h (c.fx * x + c.cx) (c.fy * y + c.cy)).2.map (fun r => r.zipWith (· * ·) [c.fx, c.fy])
  | none =>
  if c.fish then
    let r := rootQ r2
    if r = 0 then [[c.fx, 0], [0, c.fy]]
    else
      let d := c.bend (atanQ r)
      let s := d.1 / r
      let e := (d.2 / (1 + r2) - s) / r2
      [[c.fx * (s + x * x * e), c.fx * (x * y * e)], [c.fy * (x * y * e), c.fy * (s + y * y * e)]]
  else
    let g := 1 + c.kk 0 * r2 + c.kk 1 * r2 ^ 2
    let h := 2 * c.kk 0 + 4 * c.kk 1 * r2
    let m := x * y * h + 2 * c.kk 2 * x + 2 * c.kk 3 * y
    [[c.fx * (g + x * x * h + 2 * c.kk 2 * y + 6 * c.kk 3 * x), c.fx * m],
     [c.fy * m, c.fy * (g + y * y * h + 6 * c.kk 2 * y + 2 * c.kk 3 * x)]]

/-- The pixel of a point of the camera frame; none where it does not lie before the camera. -/
def Cam.project (c : Cam) (p : V3) : Option (Rat × Rat) := if p.z ≤ 0 then none else some (c.pixel (p.x / p.z) (p.y / p.z))
/-- Its derivative in the point, 2 × 3. -/
def Cam.jac (c : Cam) (p : V3) : Mat :=
  let x := p.x / p.z
  let y := p.y / p.z
  (c.slope x y).times [[1 / p.z, 0, -x / p.z], [0, 1 / p.z, -y / p.z]]
/-- The normalised direction (X/Z, Y/Z) of a pixel of an ideal camera. -/
def Cam.normal (c : Cam) (u v : Rat) : Rat × Rat :=
  let x := (u - c.cx) / c.fx
  let y := (v - c.cy) / c.fy
  let t := rootQ (x * x + y * y)
  let k := if c.fish && decide (t ≠ 0) then trim (sinQ t / (cosQ t * t)) else 1
  (x * k, y * k)
/-- The ray of a pixel of an ideal camera. -/
def Cam.ray (c : Cam) (u v : Rat) : V3 := let n := c.normal u v; ⟨n.1, n.2, 1⟩
/-- The ideal pinhole of four FP32 values. -/
def pinhole (f : List F32) : Cam := { fish := false, f := f.map f32Val }

/-! ### The fold radius (R120) -/

/-- A polynomial's value, its coefficients from the constant on. -/
def polyAt (p : List Rat) (x : Rat) : Rat := p.foldr (fun a acc => a + x * acc) 0
def polyDiff (p : List Rat) : List Rat := (p.zipIdx.map (fun e => (e.2 : Rat) * e.1)).tail
/-- A polynomial less its zero leading coefficients. -/
def polyTrim (p : List Rat) : List Rat := (p.reverse.dropWhile (fun a => decide (a = 0))).reverse
/-- The remainder of a division of polynomials. -/
def polyMod : Nat → List Rat → List Rat → List Rat
  | 0, a, _ => a
  | n + 1, a, b =>
    if a.length < b.length || b.isEmpty then a
    else
      let k := a.getLastD 0 / b.getLastD 1
      let sh := List.replicate (a.length - b.length) 0 ++ b.map (k * ·)
      polyMod n (polyTrim ((a.zipWith (· - ·) sh).dropLast)) b
/-- The Sturm chain of two polynomials. -/
def sturm : Nat → List Rat → List Rat → List (List Rat)
  | 0, a, _ => [a]
  | n + 1, a, b => if b.isEmpty then [a] else a :: sturm n b ((polyMod a.length a b).map (-1 * ·))
/-- Sign changes of a chain at a number. -/
def signChanges (c : List (List Rat)) (x : Rat) : Nat :=
  let v := (c.map (polyAt · x)).filter (fun a => decide (a ≠ 0))
  ((v.zip v.tail).filter (fun e => decide (e.1 * e.2 < 0))).length
/-- Halves an interval that holds the least positive root in its upper part or below it. -/
def leastRoot (c : List (List Rat)) (at0 : Nat) : Nat → Rat → Rat → Rat
  | 0, _, hi => hi
  | n + 1, lo, hi =>
    let m := (lo + hi) / 2
    if signChanges c m < at0 then leastRoot c at0 n lo m else leastRoot c at0 n m hi
/-- The least positive root of a polynomial that is positive at 0, to 60 bits and more; none where there is none. -/
def firstRoot (p : List Rat) : Option Rat :=
  let p := polyTrim p
  let c := sturm p.length p (polyTrim (polyDiff p))
  let bound := 1 + (p.map (fun a => absQ (a / p.getLastD 1))).foldl max 0
  let at0 := signChanges c 0
  if p.length ≤ 1 || at0 ≤ signChanges c bound then none else some (leastRoot c at0 120 0 bound)

/-- The fold radius: the largest r (TYPE 1) or θ (TYPE 2) up to which the distorted radius still increases; none where it always does. -/
def foldRadius (type : Nat) (k : List Rat) : Option Rat :=
  let d (i : Nat) : Rat := k.getD i 0
  (firstRoot (if type == 2 then [1, 3 * d 0, 5 * d 1, 7 * d 2, 9 * d 3] else [1, 3 * d 0, 5 * d 1])).map rootQ
/-- It as FP32, an infinity for none. -/
def foldOf (type : Nat) (k : List F32) : F32 :=
  match foldRadius type (k.map f32Val) with
  | some r => f32Of r
  | none => 0x7F800000
/-- The pixel nearest a camera's centre within an image, as a normalised direction of the ideal pinhole. -/
def nearestAxis (f : List F32) (w h : Nat) : Rat × Rat :=
  let near (c : Rat) (n : Nat) : Rat := clampInt 0 ((n : Int) - 1) (roundAway c)
  let v (i : Nat) : Rat := f32Val (f.getD i 0)
  ((near (v 2) w - v 2) / v 0, (near (v 3) h - v 3) / v 1)
/-- The fold radius leaves a valid pixel (R122): the working image's pixel nearest the centre, under the slot's own camera, lies within it. -/
def foldLeaves (type : Nat) (cam dist : List F32) (w h : Nat) : Bool :=
  match foldRadius type (dist.map f32Val) with
  | none => true
  | some r =>
    let p := nearestAxis cam w h
    let n := rootQ (p.1 ^ 2 + p.2 ^ 2)
    decide ((if type == 2 then atanQ n else n) ≤ r)

/-! ### Poses from pixels (R139, R264, R316) -/

/-- The weight w and the cost ρ of a robust kernel at a squared norm (R230): none, Huber, Cauchy; a switchable factor's are its SWITCH's. -/
def kernelWeight (kern : Nat) (k u2 : Rat) : Rat :=
  if kern == 1 then (if u2 ≤ k * k then 1 else k / rootQ u2) else if kern == 2 then 1 / (1 + u2 / (k * k)) else 1
def kernelCost (kern : Nat) (k u2 : Rat) : Rat :=
  if kern == 1 then (if u2 ≤ k * k then u2 else 2 * k * rootQ u2 - k * k) else if kern == 2 then k * k * lnQ (1 + u2 / (k * k)) else u2

/-- A pixel measurement of a point from a body: the camera and its mounting (camera to body), the point, the pixel, the square-root information
(2 × 2, upper triangular), the kernel. -/
structure Sight where
  cam : Cam
  mount : Pose := {}
  p : V3
  u : Rat
  v : Rat
  info : Mat
  kern : Nat := 0
  k : Rat := 0
  deriving DecidableEq, Repr

/-- The residual of a sight from a body pose, whitened; none where the point is not before the camera. -/
def Sight.residual (t : Pose) (s : Sight) : Option (List Rat) :=
  (s.cam.project ((t.mul s.mount).inv.app s.p)).map (fun q => s.info.app [q.1 - s.u, q.2 - s.v])
/-- Its derivative in a step (ρ, φ) of the pose from the right. -/
def Sight.jac (t : Pose) (s : Sight) : Mat :=
  let b := t.inv.app s.p
  let c := s.cam.jac (s.mount.inv.app b)
  s.info.times ((c.times (Mat.tr s.mount.r.mat)).times [[-1, 0, 0, 0, -b.z, b.y], [0, -1, 0, b.z, 0, -b.x], [0, 0, -1, -b.y, b.x, 0]])

/-- The normal matrix and gradient of weighted residuals with their derivatives. -/
def normalOf (n : Nat) (l : List (Rat × List Rat × Mat)) : Mat × List Rat :=
  l.foldl (fun acc e =>
    let jt := Mat.tr e.2.2
    (acc.1.plus (Mat.by e.1 (jt.times e.2.2)), acc.2.zipWith (· + ·) ((jt.app e.2.1).map (e.1 * ·))))
    (matOf n n (fun _ _ => 0), List.replicate n 0)

/-- The normal matrix and gradient of sights at a body pose, each with its kernel's weight. -/
def sightNormal (t : Pose) (l : List Sight) : Mat × List Rat :=
  normalOf 6 (l.filterMap (fun s => (s.residual t).map (fun r => (kernelWeight s.kern s.k (dotL r r), r, s.jac t))))

/-- Gauss–Newton iterations of a pose over sights; a singular iteration changes nothing. -/
def pnpRefine (l : List Sight) : Nat → Pose → Pose
  | 0, t => t
  | n + 1, t =>
    let h := sightNormal t l
    match h.1.inv with
    | none => t
    | some k =>
      let d := (k.app h.2).map (fun a => trim (-a))
      pnpRefine l n (t.retract (v3Of d) (v3Of (d.drop 3)))
/-- The covariance of three Gauss–Newton iterations (R264, R316): the inverse of the third one's normal matrix; none where that is singular. -/
def pnpCov (l : List Sight) (t : Pose) : Option Mat := (sightNormal (pnpRefine l 2 t) l).1.inv

/-- A result that the spec bounds: an open number of steps, at most `n` of them either way. -/
def openSteps (n : Nat) (draw : Nat) : Int :=
  let k : Int := (draw % (2 * n + 1) : Nat)
  if k ≤ n then k else k - (2 * n + 1)

end Sys2Proof.Machine
end

