-- ==== Sys2Proof/Machine/Motion.lean ====
section
/-! DEFINITION. The motion of a body between instants (R53, R72, R216, R221, R254, R264): the integration of inertial records with its noise, the
extrapolation at constant velocity, and the covariance that either carries. Integration is exact over the held records; which record stands for the time
between two, and gravity's magnitude, the spec leaves open. -/
namespace Sys2Proof.Machine

/-- A slot's extrinsics: sensor to body. -/
def Sensor.pose (a : Sensor) : Pose := poseOf (a.t.map (fun b => f64Of (f32Val b))) a.q

/-- The session's inertial slot. -/
def inertialSensor (c : SessCtx) : Option Sensor := c.sensors.find? (fun a => a.type == 5)
/-- Gravity in the map frame, whose up is the ellipsoid's normal (R290); its magnitude the spec does not state. -/
def gravity : V3 := ⟨0, 0, -absQ (f64Val (Config.numeric64 150 []))⟩

/-! ### Matrices -/

def Mat.trim (m : Mat) : Mat := m.map (fun r => r.map Machine.trim)
/-- The leading block of a matrix. -/
def Mat.top (n : Nat) (m : Mat) : Mat := (m.take n).map (fun r => r.take n)
/-- [a]× of R217. -/
def skew (a : V3) : Mat := [[0, -a.z, a.y], [a.z, 0, -a.x], [-a.y, a.x, 0]]
/-- A matrix of 3 × 3 blocks. -/
def blocks (n m : Nat) (f : Nat → Nat → Mat) : Mat := matOf (3 * n) (3 * m) (fun i j => matAt (f (i / 3) (j / 3)) (i % 3) (j % 3))
def zero3 : Mat := matOf 3 3 (fun _ _ => 0)
/-- A·M·Aᵀ. -/
def Mat.carried (a m : Mat) : Mat := ((a.times m).times (Mat.tr a)).trim

/-! ### Integration (R221) -/

/-- A sensor's acceleration and angular rate, held over a time in seconds. -/
structure Seg where
  dt : Rat
  a : V3
  w : V3
  deriving DecidableEq, Repr

/-- An inertial record at its instant, in ns. -/
structure Imu where
  at_ : Rat
  a : V3
  w : V3
  deriving DecidableEq, Repr
def imuOf (t : Rat) (r : List Byte) : Imu := { at_ := t, a := v3At32 r 8, w := v3At32 r 0x14 }

/-- The record that stands for the time from one instant to another: the last before it or, by the engine's own convention, the next after it. -/
def imuFor (l : List Imu) (a b : Rat) : Option Imu :=
  if Config.convention 17 then ((l.filter (fun r => decide (r.at_ ≤ a))).getLast?).or l.head?
  else (l.find? (fun r => decide (b ≤ r.at_))).or l.getLast?
/-- The held values from one instant to another, cut at the records between. -/
def segsOf (l : List Imu) (a b : Rat) : List Seg :=
  let ts := [a] ++ (l.map (·.at_)).filter (fun t => decide (a < t) && decide (t < b)) ++ [b]
  (ts.zip ts.tail).filterMap (fun e => (imuFor l e.1 e.2).map (fun r => { dt := (e.2 - e.1) / 10 ^ 9, a := r.a, w := r.w }))

/-- What records integrate to in the frame of their start: rotation, velocity and displacement without gravity. -/
structure Preint where
  r : Quat := {}
  v : V3 := {}
  p : V3 := {}
  t : Rat := 0
  deriving DecidableEq, Repr

/-- One held value, `q` the sensor's axes in the body, the biases in the sensor's own. -/
def Preint.add (q : Quat) (bg ba : V3) (d : Preint) (s : Seg) : Preint :=
  let a := d.r.turn (q.turn (s.a.sub ba))
  let w := q.turn (s.w.sub bg)
  { r := (d.r.mul (expRot (V3.scale s.dt w))).unit
    v := (d.v.add (V3.scale s.dt a)).trim
    p := ((d.p.add (V3.scale s.dt d.v)).add (V3.scale (s.dt * s.dt / 2) a)).trim
    t := d.t + s.dt }
def preint (q : Quat) (bg ba : V3) (l : List Seg) : Preint := l.foldl (Preint.add q bg ba) {}

/-- The change of an integration's covariance (displacement, rotation, velocity) over one held value: white noise of the densities given. -/
def Preint.spread (q : Quat) (bg ba : V3) (na nw : Rat) (e : Preint × Mat) (s : Seg) : Preint × Mat :=
  let a := q.turn (s.a.sub ba)
  let w := q.turn (s.w.sub bg)
  let ra := (e.1.r.mat.times (skew a))
  let f := blocks 3 3 (fun i j =>
    match i, j with
    | 0, 0 => matId 3
    | 0, 1 => Mat.by (-(s.dt * s.dt) / 2) ra
    | 0, 2 => Mat.by s.dt (matId 3)
    | 1, 1 => (expRot (V3.scale (-s.dt) w)).mat
    | 2, 1 => Mat.by (-s.dt) ra
    | 2, 2 => matId 3
    | _, _ => zero3)
  let n := na * na
  let g := blocks 3 3 (fun i j =>
    match i, j with
    | 0, 0 => Mat.by (n * s.dt ^ 3 / 3) (matId 3)
    | 0, 2 => Mat.by (n * s.dt ^ 2 / 2) (matId 3)
    | 2, 0 => Mat.by (n * s.dt ^ 2 / 2) (matId 3)
    | 2, 2 => Mat.by (n * s.dt) (matId 3)
    | 1, 1 => Mat.by (nw * nw * s.dt) (matId 3)
    | _, _ => zero3)
  (e.1.add q bg ba s, (f.carried e.2).plus g)
def preintCov (q : Quat) (bg ba : V3) (na nw : Rat) (l : List Seg) : Mat :=
  (l.foldl (Preint.spread q bg ba na nw) ({}, blocks 3 3 (fun _ _ => zero3))).2

/-! ### Derivatives -/

/-- The step of a central difference: its error lies far below FP32's. -/
def diffStep : Rat := 1 / 2 ^ 20
/-- A vector of a list of scalars nudged in one place. -/
def nudge (n i : Nat) (h : Rat) : List Rat := (List.range n).map (fun k => if k = i then h else 0)
/-- The derivative of a list-valued function of `n` scalars at 0, by columns. -/
def derivative (n : Nat) (f : List Rat → List Rat) : List (List Rat) :=
  (List.range n).map (fun i => ((f (nudge n i diffStep)).zip (f (nudge n i (-diffStep)))).map (fun e => trim ((e.1 - e.2) / (2 * diffStep))))

/-- The first-order bias derivatives of an integration, gyroscope then accelerometer: displacement, rotation vector, velocity, by columns. -/
def preintBias (q : Quat) (bg ba : V3) (l : List Seg) : List (List Rat) :=
  let d := preint q bg ba l
  derivative 6 (fun b =>
    let e := preint q (bg.add (v3Of b)) (ba.add (v3Of (b.drop 3))) l
    e.p.list ++ (logRot (d.r.conj.mul e.r)).list ++ e.v.list)
/-- A sum of columns, each by its factor. -/
def colSum (n : Nat) (cols : List (List Rat)) (k : List Rat) : List Rat :=
  (cols.zip k).foldl (fun acc e => acc.zipWith (fun a b => a + e.2 * b) e.1) (List.replicate n 0)

/-! ### Motion states -/

/-- A motion state (R216): pose, velocity, biases. -/
structure Motion where
  pose : Pose := {}
  v : V3 := {}
  bg : V3 := {}
  ba : V3 := {}
  deriving DecidableEq, Repr

/-- A state carried at constant velocity, seconds (R220, R221). -/
def Motion.coast (m : Motion) (dt : Rat) : Motion := { m with pose := { m.pose with t := (m.pose.t.add (V3.scale dt m.v)).trim } }
/-- A state carried over what its records integrate to, with gravity. -/
def Motion.ride (m : Motion) (d : Preint) : Motion :=
  { m with
    pose := { r := (m.pose.r.mul d.r).unit
              t := (((m.pose.t.add (V3.scale d.t m.v)).add (V3.scale (d.t * d.t / 2) gravity)).add (m.pose.r.turn d.p)).trim }
    v := ((m.v.add (V3.scale d.t gravity)).add (m.pose.r.turn d.v)).trim }
/-- A state carried to an instant: over the records between, else at constant velocity (R220). -/
def Motion.carry (q : Quat) (l : List Imu) (m : Motion) (a b : Rat) : Motion :=
  if l.isEmpty then m.coast ((b - a) / 10 ^ 9) else m.ride (preint q m.bg m.ba (segsOf l a b))

/-! ### Covariances -/

/-- Scalars of the motion part of a dense prior, and all of them. -/
def DensePrior.motionDim (p : DensePrior) : Nat := if p.motion.isEmpty then 0 else p.motion.length / 8 - 1
def DensePrior.dim (p : DensePrior) : Nat := p.motionDim + 2
/-- Its square-root information. -/
def DensePrior.root (p : DensePrior) : Mat := p.info.map (fun r => r.map f32Val)
/-- The covariance of its motion part in the tangent of R216; none where it is singular. -/
def DensePrior.cov (p : DensePrior) : Option Mat :=
  let r := p.root
  ((Mat.tr r).times r).trim.inv.map (fun m => (m.top p.motionDim).trim)
/-- A covariance of the tangent, pose first, turned to the map frame: position and rotation vector (R76, R233). -/
def toMap (q : Quat) (m : Mat) : Mat :=
  (blocks (m.length / 3) (m.length / 3) (fun i j => if i = j then (if i < 2 then q.mat else matId 3) else zero3)).carried m

/-- The covariance (position, rotation, velocity, in the map frame) that a state's own becomes: carried over records with their noise, or extrapolated with
the white acceleration of R221 and, for the rotation, the gyroscope's noise; without a gyroscope that is open. -/
def carriedCov (c : SessCtx) (m : Motion) (cov : Mat) (l : List Imu) (a b : Rat) : Mat :=
  let dt := absQ (b - a) / 10 ^ 9
  let n := cov.length / 3
  match inertialSensor c with
  | some s =>
    if l.isEmpty then
      let f := blocks 3 n (fun i j => if i = j then matId 3 else if i = 0 && j = 2 then Mat.by ((b - a) / 10 ^ 9) (matId 3) else zero3)
      (f.carried cov).plus (coastNoise dt ((vec32 s.noise 1) ^ 2 * dt))
    else
      let g := segsOf l a b
      let q := s.pose.r
      let d := preint q m.bg m.ba g
      let r := m.pose.r.mat
      let k := preintBias q m.bg m.ba g
      let bias (row j : Nat) : Mat := Mat.tr ((List.range 3).map (fun i => ((k.getD (3 * j + i) []).drop (3 * row)).take 3))
      let f := blocks 3 n (fun i j =>
        match i, j with
        | 0, 0 => matId 3
        | 0, 1 => Mat.by (-1) (skew (m.pose.r.turn d.p))
        | 0, 2 => Mat.by d.t (matId 3)
        | 0, _ => r.times (bias 0 (j - 3))
        | 1, 1 => matId 3
        | 1, 3 => (m.pose.r.mul d.r).mat.times (bias 1 0)
        | 2, 1 => Mat.by (-1) (skew (m.pose.r.turn d.v))
        | 2, 2 => matId 3
        | 2, _ => if j < 3 then zero3 else r.times (bias 2 (j - 3))
        | _, _ => zero3)
      let w := blocks 3 3 (fun i j => if i = j then (if i = 1 then (m.pose.r.mul d.r).mat else r) else zero3)
      (f.carried cov).plus (w.carried (preintCov q m.bg m.ba (vec32 s.noise 0) (vec32 s.noise 1) g))
  | none =>
    let f := blocks 3 n (fun i j => if i = j then matId 3 else if i = 0 && j = 2 then Mat.by ((b - a) / 10 ^ 9) (matId 3) else zero3)
    (f.carried cov).plus (coastNoise dt (absQ (f64Val (Config.numeric64 151 [])) * dt))
where
  /-- White acceleration of 1 m/s²/√Hz, and a variance of the rotation. -/
  coastNoise (dt rot : Rat) : Mat :=
    blocks 3 3 (fun i j =>
      match i, j with
      | 0, 0 => Mat.by (dt ^ 3 / 3) (matId 3)
      | 0, 2 => Mat.by (dt ^ 2 / 2) (matId 3)
      | 2, 0 => Mat.by (dt ^ 2 / 2) (matId 3)
      | 2, 2 => Mat.by dt (matId 3)
      | 1, 1 => Mat.by rot (matId 3)
      | _, _ => zero3)

/-! ### A session's last accepted state -/

/-- The state of a solution header with the biases of the context. -/
def Solved.motion (v : Solved) (bias : List F32) : Motion :=
  { pose := poseAt32 v.header 0x18, v := v3At32 v.header 0x40, bg := v3Of (bias.map f32Val), ba := v3Of ((bias.drop 3).map f32Val) }

/-- A session's inertial records in the order of their instants. -/
def imuOfSamples (l : List (Int × List Byte)) : List Imu :=
  (l.filter (fun p => fieldAt p.2 0 1 == 4)).map (fun p => imuOf p.1 (p.2.drop 1))

/-- The latest inertial record of a session. -/
def lastInertial (y : Session) : List Byte :=
  (((y.se.past ++ y.se.samples).filter (fun p => fieldAt p.2 0 1 == 4)).getLast?).elim [] (·.2)

/-- The angular rate of an inertial record in the body frame; whether the gyroscope bias is taken off is the unit's convention. -/
def bodyRate (c : SessCtx) (rec_ : List Byte) : V3 :=
  if rec_.isEmpty then {}
  else
    let q : Quat := match inertialSensor c with
      | some a => a.pose.r
      | none => {}
    let bias : V3 := if Config.convention 7 then v3Of (c.bias.map f32Val) else {}
    q.turn ((v3At32 rec_ 0x15).sub bias)

/-- The instant of an accepted state. -/
def Solved.at_ (v : Solved) : Int := (fieldAt v.header 0x10 8 : Nat)
/-- A session's inertial records from its last accepted state to an instant. -/
def imusSince (c : SessCtx) (se : SeStruct) (at_ : Int) : List Imu :=
  let a := (c.solved.map Solved.at_).getD at_
  (imuOfSamples (se.past ++ se.samples)).filter (fun r => decide ((a : Rat) ≤ r.at_) && decide (r.at_ < (at_ : Rat)))
/-- An accepted state propagated to an instant over records, or extrapolated where there are none; `rate` turns an extrapolated orientation. -/
def Solved.carried (v : Solved) (c : SessCtx) (l : List Imu) (rate : V3) (at_ : Int) : Motion :=
  let q := ((inertialSensor c).map (fun s => s.pose.r)).getD {}
  let n := (v.motion c.bias).carry q l v.at_ at_
  if l.isEmpty then { n with pose := { n.pose with r := (n.pose.r.mul (expRot (V3.scale (((at_ - v.at_ : Int) : Rat) / 10 ^ 9) rate))).unit } } else n
/-- The last accepted state propagated to an instant with its covariance (position, rotation, velocity); none without a state or its marginal. -/
def propagate (c : SessCtx) (l : List Imu) (rate : V3) (at_ : Int) : Option (Motion × Mat) :=
  match c.solved, c.marginal.bind (fun p => p.cov) with
  | some v, some k => some (v.carried c l rate at_, carriedCov c (v.motion c.bias) (toMap (v.motion c.bias).pose.r k) l v.at_ at_)
  | _, _ => none
/-- The pose block of such a covariance, as 21 × FP32. -/
def poseCov (m : Mat) : List Byte := f32Bytes ((m.top 6).upper.map f32Of)
/-- The predicted pose at an instant: position 3 × FP64, orientation 4 × FP32, covariance 21 × FP32 (R254). A prediction without an accepted state is open, and its
covariance without a marginal. -/
def predictedPose (c : SessCtx) (l : List Imu) (rate : V3) (at_ : Int) : List Byte :=
  let open_ := padTo 124 (Config.numeric 100 (((c.solved.map (·.header)).getD []) ++ f32Bytes c.bias ++ leInt 8 at_))
  match c.solved with
  | some v => (v.carried c l rate at_).pose.bytes32 ++ (match propagate c l rate at_ with
    | some k => poseCov k.2
    | none => open_.drop 40)
  | none => open_

end Sys2Proof.Machine
end

