-- ==== Sys2Proof/Machine/Records.lean ====
section
/-! DEFINITION. The result record (R72 to R79, R271): its fields from a session's last accepted state, its conversions under R12,
and its place in a result area. -/
namespace Sys2Proof.Machine

/-- A binary64 value times a scale in a signed field (R12): a NaN becomes 0 and counts as a saturation. -/
def cvt64 (b : F64) (scale : Rat) (w : Nat) : Int × Bool :=
  if bits b.toNat 62 52 == 2047 && bits b.toNat 51 0 != 0 then (0, true) else toSigned w (f64Val b * scale)
/-- The same for a binary32 value. -/
def cvt32 (b : F32) (scale : Rat) (w : Nat) : Int × Bool :=
  if f32IsNan b then (0, true) else toSigned w (f32Val b * scale)
/-- A product in FP32; beyond the largest finite value it saturates (R241, R271). -/
def mulF32 (a b : F32) : F32 × Bool :=
  let p := f32Val a * f32Val b
  (f32Of p, decide (pow2 128 - pow2 103 ≤ p) || decide (p ≤ -(pow2 128 - pow2 103)) || !f32IsFinite a || !f32IsFinite b)

/-- What a record says beside the session: its kind, the status, and the item's fields. -/
structure RecIn where
  kind : Nat
  status : Nat
  sid : Nat
  stream : Nat := 255
  cookie : Nat := 0
  bcookie : Nat := 0
  /-- FLAGS of the solution header of the instance's own solve (R250). -/
  hflags : Nat := 0
  saturated : Bool := false
  /-- The version the instance pinned, for a record with no state. -/
  version : Nat := 0
  /-- The context lies in a torn granule: its state cannot be read (R427). -/
  torn : Bool := false
  deriving DecidableEq, Repr

/-- Whether a session's records are normal (R72): in MOVING and CLOSING as before. -/
def Session.isNormal (x : Session) : Bool :=
  match x.state with
  | .normal => true
  | .provisional => false
  | .moving => x.before == .normal
  | .closing => x.before == .normal

def antennaAt (s : State) (a : Nat) : Antenna := s.core.scu.arrays.getD a {}

/-- Enabled elements of all arrays whose eAxC ID matches a binding's, in ascending order of array, then element. -/
def matchingElements (s : State) (b : Binding) : List (Nat × Nat × Element) :=
  (List.range 8).flatMap (fun a =>
    let x := antennaAt s a
    ((x.elements.zipIdx.filter (fun e => e.1.enabled && e.1.eaxc &&& x.mask == b.eaxc &&& x.mask))).map (fun e => (a, e.2, e.1)))

/-- Arrays bound to a session: those with an element that a binding of it matches (R270, R336). -/
def boundArrays (s : State) (sid : Nat) : List Nat :=
  ((s.core.scu.bindings.filter (fun b => b.2.sid == sid)).flatMap (fun b => (matchingElements s b.2).map (·.1))).eraseDups

/-- An array is quarantined (R269). -/
def arrayQuarantined (s : State) (a : Nat) : Bool := (s.core.scu.quarEnd.getD a none).isSome

/-- Bits of SOURCES for the sources of a session quarantined now, by its context (R270). -/
def quarantineWord (s : State) (sid : Nat) (c : SessCtx) : Nat :=
  let radio := (boundArrays s sid).any (arrayQuarantined s)
  packBits [(b2n c.quarCamera.isSome, 0), (b2n c.quarOdometry.isSome, 3), (b2n radio, 4), (b2n radio, 5), (b2n c.quarCamera.isSome, 6)]
def quarantineBits (s : State) (sid : Nat) : Nat := quarantineWord s sid ((sessAt s sid).getD {}).ctx

/-- The pose part of a record, bytes 0x18 to 0x8B: position, orientation, velocity and covariance of a solution header, the
covariance times INFLATE (R76, R271). -/
def posePart (header fusion : List Byte) : List Byte × Bool :=
  let ps := (f64sAt header 0x18 3).map (fun b => cvt64 b 10000 32)
  let q := f32sAt header 0x30 4
  let neg := bit (q.getD 0 0).toNat 31
  let qs := q.map (fun b => cvt32 (if neg then b ^^^ 0x80000000#32 else b) 16384 16)
  let vs := (f32sAt header 0x40 3).map (fun b => cvt32 b 10000 32)
  let infl := f32At fusion 0x0C
  let cs := (f32sAt header 0x58 21).map (fun c => if infl == 0x3F800000#32 then (c, false) else mulF32 c infl)
  (ps.flatMap (fun p => leInt 4 p.1) ++ qs.flatMap (fun p => leInt 2 p.1) ++ vs.flatMap (fun p => leInt 4 p.1) ++
    f32Bytes (cs.map (·.1)),
   ps.any (·.2) || qs.any (·.2) || vs.any (·.2) || cs.any (·.2))

/-- A header propagated to the instant of output (R72): over the session's inertial records since the state as R221 integrates them, else at its velocity;
its covariance with the noise of R221. Without the marginal of a solve the covariance is open. -/
def propagated (header : List Byte) (x : Session) (v : Solved) (now : Nat) : List Byte :=
  let l := imusSince x.ctx x.se now
  let m := v.carried x.ctx l {} now
  let cov := match propagate x.ctx l {} now with
    | some k => poseCov k.2
    | none => padTo 84 (Config.numeric 2 (header ++ leBytes 8 now))
  overlay (overlay header 0x18 (m.pose.bytes32 ++ f32Bytes (m.v.list.map f32Of))) 0x58 cov

/-- Statuses whose records hold the pose of the last accepted state (R79, and DONE). -/
def poseKept (status : Nat) : Bool := status == 0x00 || status == 0x20 || status == 0x21 || status == 0x22 || status == 0x24

/-- The record of a session, and the state that has drawn what the spec leaves open in it. -/
def State.record (s : State) (i : RecIn) : List Byte × State :=
  let x := (sessAt s i.sid).getD {}
  let normal := x.isNormal
  let now := dtOf s
  let solved := if poseKept i.status && !i.torn then x.ctx.solved else none
  let header := (solved.map (·.header)).getD (List.replicate 256 0)
  let fusion := (solved.map (·.fusion)).getD (List.replicate 64 0)
  let shown := match solved with
    | some v => if normal then propagated header x v now else header
    | none => header
  let (pose, sat1) := if solved.isSome then posePart shown fusion else (List.replicate 116 0, false)
  -- R79 names no pose fields for the statuses outside its list: they are open.
  let (pose, s) := if poseKept i.status then (pose, s) else
    let (n, t) := s.draw
    (padTo 116 (Config.freeBytes 1 n), t)
  let (drift, sat2) := cvt32 x.ctx.clock.d 1000000000 32
  let (off, sat3) := toSigned 64 x.ctx.clock.o
  let valid := fieldAt header 0x10 8
  let age := match solved with
    | some v => if normal then 0 else (roundAway ((((now : Int) - v.earliest : Int) : Rat) / 1000)).toNat
    | none => 0
  let conf := s.core.sys.conf
  let ctr (v : W32) : Nat := if conf then coarse v.toNat else v.toNat
  let counters := if conf then (NMap.getD s.core.obs.latchSess i.sid [0, 0, 0]).map coarse
    else [ctr x.ctx.late, ctr x.ctx.discarded, ctr x.ctx.thinned]
  let flags : RecFlags :=
    { conflict := bit (fieldAt fusion 8 1) 0, pivot := bit i.hflags 0, unobs := bit i.hflags 1, lateApplied := x.oweLate,
      lateDiscard := x.ctx.lateDiscard, moved := x.oweMoved, modeChanged := x.oweMode,
      saturated := sat1 || sat2 || sat3 || i.saturated || bit i.hflags 2 }
  let sources := fieldAt fusion 0 4 ||| (if x.oweMap then 64 else 0)
  let quar := if solved.isSome then fieldAt fusion 4 4 else quarantineBits s i.sid
  (padTo 256 (leBytes 1 i.kind ++ leBytes 1 i.status ++ leBytes 2 i.sid ++ leBytes 4 flags.word ++
    leBytes 1 (clockCode s.core.time.clockQ) ++ leBytes 1 (if normal then 0 else 1) ++ leBytes 1 i.stream ++ leBytes 1 x.chan ++
    leBytes 4 i.cookie ++ leBytes 4 i.bcookie ++ leBytes 4 ((solved.map (·.mapVersion)).getD i.version) ++ pose ++
    leBytes 4 sources ++ leBytes 8 (if normal || solved.isNone then now else valid) ++
    leBytes 2 (if normal || solved.isNone then dtFrac16 s else 0) ++ leBytes 2 0 ++ leBytes 4 (min age 0xFFFFFFFF) ++
    leInt 8 off ++ leInt 4 drift ++ counters.flatMap (leBytes 4) ++ leBytes 4 quar),
   if sat1 || sat2 || sat3 then s.err1 (8 + x.chan) 4 255 i.sid else s)

/-- A record of a session has been delivered: the flags it owed are paid, and t_out is the validity of its state (R68, R69, R74,
R77). -/
def State.recordDelivered (s : State) (sid : Nat) : State :=
  s.modSess sid (fun x =>
    { x with
      oweMoved := false
      oweMode := false
      oweLate := false
      oweMap := false
      tOut := match x.ctx.solved with
        | some v => some (fieldAt v.header 0x10 8)
        | none => x.tOut })

/-- A slot of an area is used up: the reserved count falls by one (R56, R60). -/
def State.releaseSlot (s : State) (area : Nat) : State := s.modArea area (fun a => { a with reserved := a.reserved - 1 })

/-- The form of a record in its slot: sealed for a tenant's session in confidential mode (R460). -/
def State.sealRecord (s : State) (area sid : Nat) (rec_ : List Byte) : List Byte × State :=
  let ctx := ((sessAt s sid).getD {}).owner
  if s.core.sys.conf && ctx != 0 then
    let t := NMap.getD s.core.sec.contexts ctx {}
    let nonce := leBytes 8 t.recCtr ++ leBytes 1 area ++ [3, 0, 0]
    let aad := leBytes 1 area ++ leBytes 4 (areaAt s area).wr.toNat
    (nonce ++ leBytes 4 0 ++ gcmSeal t.kOut nonce aad (rec_.take 0xE0),
     s.modSec (fun c => { c with contexts := NMap.upd c.contexts ctx (fun t => { t with recCtr := t.recCtr + 1 }) }))
  else (rec_, s)

/-- Writes a session's record into a reserved slot of an area. -/
def State.deliver (s : State) (area : Nat) (i : RecIn) : State :=
  let (rec_, s) := s.record i
  let (rec_, s) := s.sealRecord area i.sid rec_
  ((s.releaseSlot area).putRecord area rec_).recordDelivered i.sid

/-- Writes a session's record into an area without a reserved slot, or skips and counts it when the area is full (R61). -/
def State.deliverFree (s : State) (area : Nat) (i : RecIn) : State :=
  if areaFree (areaAt s area) = 0 then s.bump (devCtr (6 + area)) 1
  else
    let (rec_, s) := s.record i
    let (rec_, s) := s.sealRecord area i.sid rec_
    (s.putRecord area rec_).recordDelivered i.sid

end Sys2Proof.Machine
end

