-- ==== Sys2Proof/Machine/Work.lean ====
section
/-! DEFINITION. Work in the device: batch items and their ends (R56, R57, R110), the channels' queues (R159), the common shelf
(R168, R169), checkpoints (R47), and the release of a session. -/
namespace Sys2Proof.Machine

/-! ### Instances and holds -/

/-- The instances of a session, on whatever channel. -/
def sessInsts (s : State) (sid : Nat) : List (Nat × Nat) :=
  (List.range 8).flatMap (fun c => ((chanAt s c).insts.filter (fun p => p.2.sid == some sid)).map (fun p => (c, p.1)))

/-- A context is held by an instance or by a move (R169). -/
def ctxHeld (s : State) (sid : Nat) : Bool :=
  s.core.chans.any (fun c => c.insts.any (fun p => p.2.holds && p.2.sid == some sid)) ||
    (match sessAt s sid with | some x => x.moveTo.isSome | none => false)

/-- Brings a context into the common shelf as the most recently used one, evicting the least recently used that is not held
(R168); none when every slot is held (R170). -/
def touchShelf (s : State) (sid : Nat) : Option State :=
  let l := s.core.work.shelf
  let rest := l.filter (· != sid)
  if l.contains sid || decide (l.length < 8192) then some (s.modWork (fun w => { w with shelf := rest ++ [sid] }))
  else match rest.find? (fun n => !ctxHeld s n) with
    | some v => some (s.modWork (fun w => { w with shelf := rest.filter (· != v) ++ [sid] }))
    | none => none

/-- A session's context is one granule of a page of its area (R168); which of the page's sixteen the spec leaves to firmware. -/
def contextGranule (sid : Nat) : Nat := Config.numericNat 152 (leBytes 2 sid) % 16
/-- The torn granule that holds a session's context in the store room, if one does (R427). -/
def tornContext (s : State) (sid : Nat) : Option Nat :=
  (s.core.tiers.torn.find? (fun e => match pageAt s (e.1 / 16) with
    | some x => x.use == 2 && Config.objectOn 2 sid (e.1 / 16) && e.1 % 16 == contextGranule sid
    | none => false)).map (·.1)
/-- The torn granule that a read of a context reaches: a context in the common shelf is read there (R168, R427). -/
def tornRead (s : State) (sid : Nat) : Option Nat := if s.core.work.shelf.contains sid then none else tornContext s sid

/-- Writes a checkpoint into the slot whose turn it is (R47). -/
def State.checkpoint (s : State) (sid : Nat) : State :=
  s.modSess sid (fun x =>
    { x with ckpts := setAt x.ckpts x.nextSlot (some { dt := dtOf s, ctx := x.ctx, pinned := x.pinned }), nextSlot := 1 - x.nextSlot, lastCkpt := dtOf s })

/-- The latest valid checkpoint (R47). -/
def latestCkpt (x : Session) : Option Ckpt :=
  match x.ckpts.getD 0 none, x.ckpts.getD 1 none with
  | some a, some b => if b.dt < a.dt then some a else if a.dt < b.dt then some b else if x.nextSlot == 0 then some b else some a
  | some a, none => some a
  | none, b => b

/-- Restores a session from its latest checkpoint: PROVISIONAL, MOVED owed, its structure built afresh (R48, R172, R215). Its counters and its sticky
bit are kept (R409). -/
def Session.restored (x : Session) : Session :=
  { x with
    ctx := { (match latestCkpt x with | some c => c.ctx | none => { cfg := x.ctx.cfg, sensors := x.ctx.sensors }) with
      late := x.ctx.late, discarded := x.ctx.discarded, thinned := x.ctx.thinned, lateDiscard := x.ctx.lateDiscard }
    pinned := ((latestCkpt x).map (·.pinned)).getD x.pinned
    latePending := []
    oweMoved := true
    oweMode := x.oweMode || x.isNormal
    exitCount := 0
    se := { knotMs := x.se.knotMs } }

/-- An instance is released: its blocks and its hold go, and an engine that ran a step of it is free (R159, R162). -/
def State.dropInst (s : State) (ch i : Nat) : State :=
  let free (e : Engine) : Engine := match e.run with
    | some (j, _) => if j == i then { e with run := none, stall := none } else e
    | none => e
  s.modChans (fun l => l.zipIdx.map (fun p =>
    if p.2 == ch then { p.1 with insts := NMap.erase p.1.insts i, engines := p.1.engines.map free } else p.1))

/-- The arrays take work of another kind at the end of a tile pass: inside a tensor step TA_YIELD counts it (R198, R311). -/
def State.yieldArrays (s : State) (ch : Nat) : State :=
  if ((chanAt s ch).engines.getD 2 {}).run.isSome then s.bump (chanCtr ch 8) 1 else s

/-- A session's relocalisation is over: it may try again (R319). -/
def State.relocFree (s : State) (sid : Nat) : State := s.modSess sid (fun y => { y with reloc := false })

/-- The map requests of channels are lost (R22, R298): the sessions whose relocalisations they were may try again. -/
def State.loseRequests (s : State) (f : Nat → Bool) : State :=
  let gone := (s.core.chans.zipIdx.filter (fun p => f p.2)).flatMap (fun p => (p.1.requests.filter (fun r => r.closure.isNone)).map (·.sid))
  let s := s.modChans (fun l => l.zipIdx.map (fun p => if f p.2 then { p.1 with requests := [] } else p.1))
  gone.foldl State.relocFree s

/-- The instances of all channels that satisfy a test. -/
def instsWith (s : State) (f : Inst → Bool) : List (Nat × Nat) :=
  (List.range 8).flatMap (fun c => ((chanAt s c).insts.filter (fun p => f p.2)).map (fun p => (c, p.1)))

/-! ### Items -/

def batchAt (s : State) (b : Nat) : Option Batch := NMap.get? s.core.work.batches b
def State.modBatch (s : State) (b : Nat) (f : Batch → Batch) : State :=
  s.modWork (fun w => { w with batches := NMap.upd w.batches b f })
def itemAt (s : State) (b i : Nat) : Option Item := (batchAt s b).bind (fun x => x.items[i]?)

/-- Fields of an item (R55). -/
def Item.addr (i : Item) : Nat := fieldAt i.bytes 0 8
def Item.len (i : Item) : Nat := fieldAt i.bytes 8 4
def Item.sid (i : Item) : Nat := fieldAt i.bytes 0x0C 2 % 16384
def Item.stream (i : Item) : Nat := fieldAt i.bytes 0x0E 1
def Item.flags (i : Item) : Nat := fieldAt i.bytes 0x0F 1
def Item.wanted (i : Item) : Bool := bit i.flags 0
def Item.keyframe (i : Item) : Bool := bit i.flags 1
def Item.slot (i : Item) : Nat := bits i.flags 3 2
def Item.clientTime (i : Item) : Nat := fieldAt i.bytes 0x10 8
def Item.cookie (i : Item) : Nat := fieldAt i.bytes 0x18 4

/-- Writes the records of a batch's ended items, an item's only after those of the earlier items of its session and stream
(R57). `done` holds the items before. -/
def State.flushItems (b : Nat) : List (Nat × Item) → List Item → State → State
  | [], _, s => s
  | (i, it) :: rest, before, s =>
    let clear := before.all (fun e => e.written || e.sid != it.sid || e.stream != it.stream)
    match it.status with
    | some st =>
      if it.written || !clear then State.flushItems b rest (before ++ [it]) s
      else
        let x := (batchAt s b).getD { hatch := 0, ctx := 0, area := 0, flags := 0, cookie := 0, deadline := 0 }
        let rin : RecIn :=
          { kind := 1, status := st, sid := it.sid, stream := it.stream, cookie := it.cookie, bcookie := x.cookie,
            hflags := it.hflags, saturated := it.saturated, version := it.version }
        let s := if it.wanted then s.deliver x.area rin else s
        let s := s.modBatch b (fun y => { y with items := updAt y.items i (fun e => { e with written := true }) })
        State.flushItems b rest (before ++ [{ it with written := true }]) s
    | none => State.flushItems b rest (before ++ [it]) s

/-- An item ends with a status (R56). -/
def State.endItem (s : State) (b i st : Nat) (hflags : Nat := 0) (saturated : Bool := false) (version : Nat := 0) : State :=
  let s := s.modBatch b (fun y => { y with items := updAt y.items i (fun e =>
    if e.status.isSome then e else { e with status := some st, hflags := hflags, saturated := saturated, version := version }) })
  match batchAt s b with
  | some y => State.flushItems b (y.items.zipIdx.map (fun p => (p.2, p.1))) [] s
  | none => s

/-- Ends the work of one origin with a status: only items have one (R110). -/
def State.endOrigin (s : State) (o : Origin) (st : Nat) : State :=
  match o with
  | .item b i => s.endItem b i st
  | .symbol _ => s
  | .cycleSolve _ => s
  | .cycleTrack _ => s
  | .mapJob _ => s

/-- Work joins a channel's queue in the order of entry (R159). -/
def State.enqueue (s : State) (ch : Nat) (w : Waiting) : State :=
  s.modChan ch (fun c => { c with queue := c.queue ++ [{ w with seq := c.nextSeq }], nextSeq := c.nextSeq + 1 })

/-- Removes waiting work that satisfies a test from every queue, and ends its items with a status. -/
def State.dropQueued (s : State) (f : Waiting → Bool) (st : Nat) : State :=
  let gone := s.core.chans.flatMap (fun c => c.queue.filter f)
  let s := s.modChans (fun l => l.map (fun c => { c with queue := c.queue.filter (fun w => !f w) }))
  gone.foldl (fun s w => s.endOrigin w.origin st) s

/-- Waiting work of a session goes to another channel's queue, in its order (R48). -/
def State.moveQueued (s : State) (sid ch : Nat) : State :=
  let mine := s.core.chans.flatMap (fun c => c.queue.filter (fun w => w.sid == some sid))
  let s := s.modChans (fun l => l.map (fun c => { c with queue := c.queue.filter (fun w => w.sid != some sid) }))
  mine.foldl (fun s w => s.enqueue ch w) s

/-- The session begins to close: CLOSING at once, its queued items complete with BAD_ARGUMENT (R49). -/
def State.beginClose (s : State) (sid : Nat) : State :=
  let s := s.modSess sid (fun x => { x with before := if x.isNormal then .normal else .provisional, state := .closing, closeAfter := false })
  s.dropQueued (fun w => w.sid == some sid) 0x11

/-! ### Symbols in assembly -/

/-- Drops a symbol whole with a reason (R28, R341, R342): its counters, its trace record, the bytes it held. -/
def State.dropSym (s : State) (k reason : Nat) : State :=
  match NMap.get? s.core.scu.syms k with
  | none => s
  | some y =>
    let bytes := ((y.els.flatMap (fun e => e.prbs)).map (fun p => p.2.2.length)).foldl (· + ·) 0
    let s := s.modScu (fun u => { u with
      syms := NMap.erase u.syms k
      gone := u.gone ++ [(y.binding, y.air)]
      held := updAt u.held y.port (fun n => n - bytes) })
    let s := (s.bump (scuPortCtr y.port 7) 1).bump (scuPortCtr y.port (7 + reason)) 1
    s.traceRec 0x20 y.port (leBytes 2 y.binding ++ leBytes 1 reason)

/-- The symbols in assembly of a binding are dropped with reason SESSION. -/
def State.dropAssembling (s : State) (f : Nat → Bool) : State :=
  ((s.core.scu.syms.filter (fun p => p.2.phase == 0 && f p.2.binding)).map (·.1)).foldl (fun s k => s.dropSym k 5) s

/-- A session returns to FREE: its context, checkpoints, grid patch, bindings and CLIENT tracks go (R49, R274, R285, R334). -/
def State.freeSession (s : State) (sid : Nat) : State :=
  let s := s.modWork (fun w => { w with sess := NMap.erase w.sess sid, shelf := w.shelf.filter (· != sid) })
  let s := s.modFus (fun f =>
    { f with
      patches := f.patches.filter (fun p => p.2.sid != sid)
      tracks := f.tracks.map (fun p => (p.1, p.2.filter (fun t => t.client != some sid))) })
  let s := s.modMap (fun m => { m with lastOf := NMap.erase m.lastOf (16384 * s.core.sys.devid + sid) })
  let gone := (s.core.scu.bindings.filter (fun b => b.2.sid == sid)).map (·.1)
  let s := s.dropAssembling (gone.contains ·)
  s.modScu (fun u => { u with bindings := u.bindings.filter (fun b => b.2.sid != sid) })

end Sys2Proof.Machine
end

