-- ==== Sys2Proof/Machine/Insts.lean ====
section
/-! DEFINITION. Graph instances: their ranges and tags (R153, R161, R162), the readiness of steps (R161, R164), the ends of steps and
the skip of what remains (R165). -/
namespace Sys2Proof.Machine

/-! ### Ranges -/

/-- The slot whose graph an instance runs. -/
def instSlot (s : State) (ch : Nat) (x : Inst) : Option Slot := graphAt s ch x.slot

/-- The contents of a range. -/
def rangeBytes (g : Slot) (x : Inst) (r : Range) : List Byte :=
  Mem.bytes (if r.shared then g.graph.sharedMem else x.mem) (4096 * r.first) (4096 * r.count)

/-- Writes bytes into an output range from an offset on, more to follow. -/
def Inst.fill (x : Inst) (r : Range) (off : Nat) (b : List Byte) : Inst :=
  { x with mem := Mem.write x.mem (4096 * r.first + off) (b.take (4096 * r.count - off)) }
/-- The last writes to some blocks are committed: their tags are READY (R161). -/
def Inst.ready (x : Inst) (blocks : List Nat) : Inst := { x with tags := (x.tags ++ blocks).eraseDups }
/-- Writes bytes into an output range from an offset on, the step's last to their blocks. -/
def Inst.put (x : Inst) (r : Range) (off : Nat) (b : List Byte) : Inst :=
  let n := min b.length (4096 * r.count - off)
  (x.fill r off b).ready (if n = 0 then [] else (List.range ((off + n - 1) / 4096 + 1 - off / 4096)).map (fun k => r.first + off / 4096 + k))

/-- The blocks of a range. -/
def rangeBlocks (r : Range) : List Nat := (List.range r.count).map (· + r.first)

/-- A range of a step by its index, or an empty one. -/
def GStep.inR (t : GStep) (i : Nat) : Range := t.ins.getD i { first := 0, count := 0 }
def GStep.outR (t : GStep) (i : Nat) : Range := t.outs.getD i { first := 0, count := 0 }

/-- The items a step runs: ITEMS_MAX, or the count its block holds; and whether it was clamped (R166). -/
def stepItems (x : Inst) (t : GStep) : Nat × Bool :=
  if t.countBlk == 0xFFFF then (t.itemsMax, false)
  else
    let n := leNat (Mem.bytes x.mem (4096 * t.countBlk + t.countOff) 4)
    (min n t.itemsMax, decide (t.itemsMax < n))

/-! ### Readiness -/

/-- A step that no longer runs. -/
def StepSt.isOver : StepSt → Bool
  | .ended => true
  | .skipped => true
  | .waiting => false
  | .ready _ => false
  | .running => false

/-- Index of the step of an engine code in a graph. -/
def stepIdx (g : Graph) (engine : Nat) : Option Nat := g.steps.findIdx? (fun t => t.engine == engine)
/-- Whether the step of an index of an instance is over. -/
def stepOver (x : Inst) (k : Nat) : Bool := (x.steps.getD k .skipped).isOver

/-- The inputs of a step are READY (R161): every block, or the first of each range of a streaming step. -/
def inputsReady (x : Inst) (t : GStep) : Bool :=
  t.ins.all (fun r => r.shared || (if t.streaming then r.count == 0 || x.tags.contains r.first else (rangeBlocks r).all (x.tags.contains ·)))

/-- Every block that a step reads is READY: a STREAMING step, which begins on the first of each range, waits at any other (R161). -/
def streamReady (x : Inst) (t : GStep) : Bool := t.ins.all (fun r => r.shared || (rangeBlocks r).all (x.tags.contains ·))

/-- Whether an imaging step runs the tracker. -/
def tracks? (t : GStep) : Bool := t.engine == 2 && bit (fieldAt t.param 0 1) 4

/-- Earlier instances of the same session on a channel. -/
def earlier (s : State) (ch : Nat) (x : Inst) : List Inst :=
  ((chanAt s ch).insts.map (·.2)).filter (fun y => y.sid.isSome && y.sid == x.sid && decide (y.seq < x.seq))

/-- An earlier item of the instance's session still waits in the channel's queues, for a graph with a step of an engine code. -/
def queuedBefore (s : State) (ch : Nat) (x : Inst) (engine : Nat) : Bool :=
  (chanAt s ch).queue.any (fun w => w.sid.isSome && w.sid == x.sid && decide (w.seq < x.seq) && (match graphAt s ch w.slot with
    | some g => g.graph.steps.any (fun t => t.engine == engine)
    | none => false))

/-- R164: earlier items of the session have their imaging steps over, or have reached their context. -/
def sessionOrder (s : State) (ch : Nat) (x : Inst) (t : GStep) : Bool :=
  let done (engine : Nat) (y : Inst) : Bool := match instSlot s ch y with
    | some g => (g.graph.steps.zipIdx).all (fun p => p.1.engine != engine || stepOver y p.2)
    | none => true
  if tracks? t then (earlier s ch x).all (done 2) && !queuedBefore s ch x 2
  else if t.engine == 8 then (earlier s ch x).all (done 8) && !queuedBefore s ch x 8
  else true

/-- Every other step of the instance has ended or been skipped: RESULT's own condition (R161). -/
def othersOver (x : Inst) (k : Nat) : Bool := (x.steps.zipIdx).all (fun p => p.2 == k || p.1.isOver)

/-- A waiting step becomes ready. -/
def refreshStep (s : State) (ch : Nat) (x : Inst) (p : GStep × Nat) (st : StepSt) : StepSt :=
  match st with
  | .waiting =>
    if inputsReady x p.1 && sessionOrder s ch x p.1 && (p.1.engine != 9 || othersOver x p.2) then .ready (dtOf s) else .waiting
  | st => st

/-- Brings the readiness of a channel's steps up to date. -/
def State.refresh (s : State) (ch : Nat) : State :=
  s.modChan ch (fun c => { c with insts := c.insts.map (fun p =>
    let x := p.2
    match instSlot s ch x with
    | none => p
    | some g => (p.1, { x with steps := (g.graph.steps.zip x.steps).zipIdx.map (fun e => refreshStep s ch x (e.1.1, e.2) e.1.2) })) })

/-! ### Ends of steps -/

/-- A step of an instance ends: its output blocks are READY, written or not (R161). -/
def Inst.endStep (x : Inst) (t : GStep) (k : Nat) : Inst :=
  { x with steps := setAt x.steps k .ended, tags := (x.tags ++ t.outs.flatMap rangeBlocks).eraseDups }

/-- The engine that runs a step's code: VE, gather unit, TA, SE, FU, FGS. -/
def engineOf (code : Nat) : Nat :=
  match code with
  | 2 => 0 | 3 => 0 | 4 => 1 | 5 => 2 | 6 => 3 | 7 => 4 | _ => 5

/-- The step an engine runs: its instance, the instance, the slot, the step's index, the step. -/
def runningStep (s : State) (ch e : Nat) : Option (Nat × Inst × Slot × Nat × GStep) :=
  match ((chanAt s ch).engines.getD e {}).run with
  | none => none
  | some (i, k) =>
    match instAt s ch i with
    | none => none
    | some x => match instSlot s ch x with
      | none => none
      | some g => (g.graph.steps[k]?).map (fun t => (i, x, g, k, t))

def State.modEngine (s : State) (ch e : Nat) (f : Engine → Engine) : State :=
  s.modChan ch (fun c => { c with engines := updAt c.engines e f })

/-- Ends a step, frees its engine, and looks for steps it made ready. -/
def State.finishStep (s : State) (ch i k : Nat) (t : GStep) : State :=
  let s := s.modInst ch i (fun x => x.endStep t k)
  let s := s.modEngine ch (engineOf t.engine) (fun e =>
    if e.run == some (i, k) then { e with run := none, stall := none, worked := false, lastMove := dtOf s } else e)
  s.refresh ch

/-- The instance is past its deadline, or ends early: what remains is skipped, RESULT apart (R165); a step that runs goes on. -/
def State.skipRest (s : State) (ch i : Nat) (status : Option Nat) : State :=
  match instAt s ch i with
  | none => s
  | some x =>
    match instSlot s ch x with
    | none => s
    | some g =>
      let st (p : GStep × StepSt) : StepSt :=
        if p.1.engine == 9 then p.2
        else match p.2 with
          | .waiting => .skipped
          | .ready _ => .skipped
          | st => st
      let steps := (g.graph.steps.zip x.steps).map st
      (s.modInst ch i (fun y => { y with
        steps := steps
        status := if y.status.isSome then y.status else status })).refresh ch

/-- The step an engine runs ends at once and the rest of its instance is skipped with a status (R165, R172, R192, R193). -/
def State.breakStep (s : State) (ch e status : Nat) : State :=
  match ((chanAt s ch).engines.getD e {}).run with
  | none => s
  | some (i, k) =>
    let s := s.modInst ch i (fun x => { x with steps := setAt x.steps k .skipped })
    let s := s.modEngine ch e (fun y => { y with run := none, stall := none, worked := false })
    s.skipRest ch i (some status)

/-- A CTX_TAKE of an instance that waits for a relocalisation ends without its outcome. -/
def State.breakTake (s : State) (ch i : Nat) : State :=
  s.modInst ch i (fun x => if x.relocWait.isSome then { x with relocWait := none, steps := x.steps.map (fun st => if st == .running then .skipped else st) } else x)

/-- An instance ends early with a status: its steps in the engines and its CTX_TAKE are broken off, and what remains is skipped. -/
def State.endEarly (s : State) (ch i status : Nat) : State :=
  let es := (List.range 6).filter (fun e => match ((chanAt s ch).engines.getD e {}).run with
    | some (j, _) => j == i
    | none => false)
  ((es.foldl (fun s e => s.breakStep ch e status) s).breakTake ch i).skipRest ch i (some status)

/-- The item count of a step as it begins, clamped, counted and noted where it is above ITEMS_MAX (R166). -/
def State.noteClamp (s : State) (ch i : Nat) (x : Inst) (t : GStep) : State :=
  if (stepItems x t).2 then (s.modInst ch i (fun y => { y with clamped := true })).bump (chanCtr ch 3) 1 else s

/-! ### Creation (R159) -/

/-- A free instance of a graph on a channel: its number. -/
def freeInst (s : State) (ch slot : Nat) : Option Nat :=
  match graphAt s ch slot with
  | none => none
  | some g =>
    let used := ((chanAt s ch).insts.filter (fun p => p.2.slot == slot)).length
    if used < g.graph.instances then NMap.lowestFree (chanAt s ch).insts 4096 else none

/-- Creates an instance: every block clear, every tag EMPTY, the current map version pinned (R159, R161, R303). -/
def State.createInst (s : State) (ch i : Nat) (w : Waiting) : State :=
  match graphAt s ch w.slot with
  | none => s
  | some g =>
    let x := w.sid.bind (sessAt s)
    let inst : Inst :=
      { slot := w.slot, origin := w.origin, ctx := w.ctx, sid := w.sid, arrival := w.arrival,
        deadline := w.deadline, mapVersion := s.core.map.pin, steps := g.graph.steps.map (fun _ => .waiting), seq := w.seq,
        calib := (x.map (·.ctx.sensors)).getD [] }
    (s.modChan ch (fun c => { c with insts := NMap.set c.insts i inst })).refresh ch

end Sys2Proof.Machine
end

