-- ==== Sys2Proof/Machine/Ports.lean ====
section
/-! DEFINITION. Mirden ports (R480 to R486): states, training and its end, the distance to the keeper and the parent. -/
namespace Sys2Proof.Machine

/-- The code of a port state, in the order of R480's table. -/
def mpCode : MpState → Nat
  | .absent => 0 | .training => 1 | .up => 2 | .failed => 3 | .held => 4

def State.modMp (s : State) (p : Nat) (f : MpPort → MpPort) : State :=
  s.modLink (fun l => { l with ports := updAt l.ports p f })

/-- The serial as the device writes it. -/
def serialBytes (s : State) : List Byte := leBytes 16 s.hw.serial.toNat

/-- LINK_STATE (R102, R480). -/
def State.linkState (s : State) (p : Nat) (up : Bool) : State := s.event 0x0006 [leBytes 1 p ++ leBytes 1 (b2n up)]

/-- The UP ports on which a DIST has come, with it and the partner's DEVID. -/
def upPorts (s : State) : List (Nat × Nat × Nat) :=
  (List.range (nMirden s)).filterMap (fun p =>
    let m := mpAt s p
    if m.state == .up && m.rxCtr != 0 then some (p, m.dist, (m.hello.map (·.devid)).getD 0) else none)

/-- The UP neighbour with the least DIST, the lower DEVID on a tie (R485). -/
def bestParent (s : State) : Option (Nat × Nat × Nat) :=
  (upPorts s).foldl (fun b c => match b with
    | none => some c
    | some d => if decide (c.2.1 < d.2.1) || (c.2.1 == d.2.1 && decide (c.2.2 < d.2.2)) then some c else b) none

/-- The distance and the parent after a change (R485, R486); DIST becoming 8 from less sets ORPHANED. Until a DIST comes on an
UP port, the distance stands as it is (DEDUCED). -/
def State.updateDist (s : State) : State :=
  if !s.core.link.decided then s
  else
    let old := s.core.link.dist
    let (d, par) :=
      if isKeeper s then (0, none)
      else match bestParent s with
        | some (p, n, _) => (min 8 (n + 1), some p)
        | none => (old, none)
    let s := s.modLink (fun l => { l with dist := d, parent := if d == 8 then none else par })
    if d == 8 && decide (old < 8) then s.err1 2 6 else s

/-- Sets KEEPER_STRAP when no device of the system has the strap (R484). -/
def State.judgeStrap (s : State) : State :=
  if s.core.link.decided && !(systemDevs s).any (·.2) then s.err1 2 4 else s

/-- A port comes UP: frames begin with counters at 0 (R481). -/
def State.portUp (s : State) (p : Nat) : State :=
  let s := s.modMp p (fun m =>
    { m with state := .up, since := dtOf s, trained := false, txCtr := 0, rxCtr := 0, rejects := [], rx := [], txq := [],
             dist := 8, clockQ := 2, txStamp := none, rxStamp := none })
  (s.unmask (52 + p)).linkState p true

/-- A port leaves UP, or goes down from any state (R480, R426): its requester is masked, and LINK_STATE tells of a change. -/
def State.portDown (s : State) (p : Nat) (st : MpState) : State :=
  let was := (mpAt s p).state == .up
  let s := s.modMp p (fun m => { m with state := st, since := dtOf s, hello := none, trained := false, rx := [], txq := [] })
  let s := s.modLink (fun l => { l with catchUp := l.catchUp.filter (·.port != p), joining := l.joining.filter (· != p) })
  if was then ((s.sideband [52 + p]).linkState p false).updateDist.judgeStrap else s

/-- Training begins (R480). -/
def State.trainBegin (s : State) (p : Nat) : State := s.modMp p (fun m => { m with state := .training, since := dtOf s })

/-- An attempt at training fails (R481). -/
def State.trainFail (s : State) (p : Nat) : State :=
  let s := s.modMp p (fun m => { m with state := .failed, since := dtOf s, hello := none, trained := false })
  (s.bump (linkPortCtr p 0) 1).err1 2 5 p

/-- The end of ST5 (R483, R484): trained ports come UP, `mask` are those with a signal that failed, and the keeper is decided. -/
def State.decideLinks (s : State) (mask : Nat) : State :=
  let s := (List.range (nMirden s)).foldl (fun s p =>
    if bit mask p && (mpAt s p).state != .held then s.trainFail p else s) s
  let s := s.modLink (fun l => { l with decided := true })
  let s := (List.range (nMirden s)).foldl (fun s p => if (mpAt s p).trained then s.portUp p else s) s
  s.updateDist.judgeStrap

end Sys2Proof.Machine
end

