-- ==== Sys2Proof/Machine/LinkObj.lean ====
section
/-! DEFINITION. Objects on the Mirden links (R478, R485): cut into frames and queued at a port. What stands inside a CONTROL or UP
object is not laid down by the spec: its writing and its reading are open functions of Config. -/
namespace Sys2Proof.Machine

/-- The pieces of an object, 2,048 bytes each, at least one. -/
def objectPieces (payload : List Byte) : List (List Byte) := if payload.isEmpty then [[]] else records 2048 payload

/-- Queues an object at a port: TYPE, the next object number of the direction, its frames in order (R478). -/
def State.sendObject (s : State) (p type : Nat) (payload : List Byte) : State :=
  let ps := objectPieces payload
  let n := (mpAt s p).txObject
  let frames := ps.zipIdx.map (fun e =>
    ({ type := type, first := e.2 == 0, last := e.2 + 1 == ps.length, object := n, index := e.2, payload := e.1 } : TxFrame))
  s.modMp p (fun m => { m with txq := m.txq ++ frames, txObject := (n + 1) % 2 ^ 32 })

/-- The UP ports other than the parent's: those a DOWN object goes to (R485). -/
def childPorts (s : State) : List Nat :=
  (List.range (nMirden s)).filter (fun p => (mpAt s p).state == .up && s.core.link.parent != some p)

/-- Sends an object towards the keeper; nothing goes where there is no parent. -/
def State.sendUp (s : State) (type : Nat) (payload : List Byte) : State :=
  match s.core.link.parent with
  | some p => s.sendObject p type payload
  | none => s

/-- Sends an object to every child. -/
def State.sendDown (s : State) (type : Nat) (payload : List Byte) : State :=
  (childPorts s).foldl (fun s p => s.sendObject p type payload) s

/-- The kinds of CONTROL object that the rules name (R484, R488 to R491, R493, R496). -/
inductive Ctl where
  | lockRequest | lockGrant | lockRelease | commitAck | originRequest | originStatus | pageRequest | batchRequest | devices | other
  deriving DecidableEq, Repr

def Ctl.code : Ctl → Nat
  | .lockRequest => 1 | .lockGrant => 2 | .lockRelease => 3 | .commitAck => 4 | .originRequest => 5 | .originStatus => 6
  | .pageRequest => 7 | .batchRequest => 8 | .devices => 9 | .other => 0

/-- A CONTROL object as this device writes it: kind, numbers, tiles and bytes. -/
def ctlObject (k : Ctl) (nums tiles : List Nat) (data : List Byte := []) : List Byte :=
  Config.numeric 33 (leBytes 1 k.code ++ nums.flatMap (leBytes 4) ++ tiles.flatMap (leBytes 2) ++ data)

/-- The kind this device reads from a CONTROL object. -/
def ctlKind (b : List Byte) : Ctl :=
  let n := Config.numericNat 30 b
  ([.lockRequest, .lockGrant, .lockRelease, .commitAck, .originRequest, .originStatus, .pageRequest, .batchRequest, .devices] : List Ctl).getD
    (n - 1) .other

/-- Number i of a CONTROL object. -/
def ctlNum (b : List Byte) (i : Nat) : Nat := Config.numericNat 31 (leBytes 1 i ++ b)
/-- The tiles of a CONTROL object. -/
def ctlTiles (b : List Byte) : List Nat := (records 2 (Config.numeric 32 b)).map leNat
/-- The bytes a CONTROL object carries. -/
def ctlData (b : List Byte) : List Byte := Config.numeric 37 b

end Sys2Proof.Machine
end

