-- ==== Sys2Proof/Machine/Accum.lean ====
section
/-! DEFINITION. The number formats of the tensor arrays and their accumulators (R175, R177, R179, R181 to R183, R196): FP8, BF16, FP32, INT32. -/
namespace Sys2Proof.Machine

/-! ### Formats (R181, R182, R196) -/

/-- The canonical NaN. -/
def nan32 : F32 := 0x7FC00000
/-- A subnormal becomes zero of its sign, an infinity the largest finite value of its sign. -/
def tameF32 (b : F32) : F32 :=
  if bits b.toNat 30 23 == 0 then b &&& 0x80000000
  else if bits b.toNat 30 23 == 255 && bits b.toNat 22 0 == 0 then (b &&& 0x80000000) ||| 0x7F7FFFFF else b
/-- A value rounded to FP32, tamed; whether it saturated. -/
def roundF32 (q : Rat) : F32 × Bool := (tameF32 (f32Of q), decide (pow2 128 - pow2 103 ≤ absQ q))
/-- BF16 of an FP32 value, to nearest even, as the FP32 value it stands for; whether it saturated. -/
def bf16Of (b : F32) : F32 × Bool :=
  let n := b.toNat % 2 ^ 31
  let r := (n + 0x7FFF + n / 65536 % 2) / 65536 * 65536
  let s := b &&& 0x80000000
  if 0x7F800000 ≤ r then (s ||| 0x7F7F0000, true) else (tameF32 (s ||| BitVec.ofNat 32 r), false)

/-- The two parts of an operand (R196): hi = BF16(x), lo = BF16(x − hi). -/
def splitOf (x : F32) : (F32 × F32) × Bool :=
  let x := tameF32 x
  let h := bf16Of x
  let l := bf16Of (roundF32 (f32Val x - f32Val h.1)).1
  ((h.1, l.1), h.2 || l.2)

/-- The sign bit. -/
def f32Neg (b : F32) : Bool := bit b.toNat 31
/-- One product added to an accumulator; a sum of two zeros of one sign keeps it. -/
def macF32 (acc : F32 × Bool) (a b : F32) : F32 × Bool :=
  let q := f32Val acc.1 + f32Val a * f32Val b
  let r := roundF32 q
  (if q = 0 && f32Neg acc.1 && f32Neg a != f32Neg b then 0x80000000 else r.1, acc.2 || r.2)
/-- Two sums added. -/
def addF32 (acc b : F32 × Bool) : F32 × Bool :=
  let q := f32Val acc.1 + f32Val b.1
  let r := roundF32 q
  (if q = 0 && f32Neg acc.1 && f32Neg b.1 then 0x80000000 else r.1, acc.2 || b.2 || r.2)

/-- One pass over columns in ascending order: hi·hi′, hi·lo′, lo·hi′ of each. -/
def splitPass (cols : List (F32 × F32)) : F32 × Bool :=
  cols.foldl (fun acc c =>
    let a := splitOf c.1
    let b := splitOf c.2
    let acc := (acc.1, acc.2 || a.2 || b.2)
    macF32 (macF32 (macF32 acc a.1.1 b.1.1) a.1.1 b.1.2) a.1.2 b.1.1) (0, false)

/-- An element of the product A·Bᵀ from a row of each operand: passes of at most 2,048 columns are added in their order (R174, R177).
It, whether a NaN reached it, and whether it saturated. -/
def splitElement (a b : List F32) : F32 × Bool × Bool :=
  if (a ++ b).any f32IsNan then (nan32, true, false)
  else
    let passes := (chunksOf 2048 a.length (a.zip b)).map splitPass
    let r := passes.tail.foldl addF32 (passes.headD (0, false))
    (r.1, false, r.2)

/-- The rows of an operand. -/
def rowsOf (k : Nat) (l : List F32) : List (List F32) := chunksOf k l.length l

/-! ### FP8 and integers (R175, R181, R182) -/

def e4m3Nan (b : Byte) : Bool := b.toNat % 128 == 127
/-- The value of an FP8 E4M3. -/
def e4m3Val (b : Byte) : Rat :=
  let e := bits b.toNat 6 3
  let m := bits b.toNat 2 0
  let a : Rat := if e == 0 then m * pow2 (-9) else (8 + m : Nat) * pow2 ((e : Int) - 10)
  if bit b.toNat 7 then -a else a
/-- Rounds to FP8 E4M3, to nearest with ties to even, saturating to 448 (R182); whether it saturated. -/
def e4m3Of (q : Rat) : Byte × Bool :=
  let s := if q < 0 then 128 else 0
  let a := absQ q
  let e := max (if a = 0 then -6 else ilog2 a) (-6)
  let m := (roundEven (a * pow2 (3 - e))).toNat
  let (m, e) := if m == 16 then (8, e + 1) else (m, e)
  if (448 : Rat) < m * pow2 (e - 3) then (BitVec.ofNat 8 (s + 0x7E), true)
  else (BitVec.ofNat 8 (s + (if m < 8 then m else (e + 7).toNat * 8 + (m - 8))), false)

def e5m2Nan (b : Byte) : Bool := decide (124 < b.toNat % 128)
/-- The value of an FP8 E5M2; an infinity is the largest finite value of its sign. -/
def e5m2Val (b : Byte) : Rat :=
  let e := bits b.toNat 6 2
  let m := bits b.toNat 1 0
  let a : Rat := if e == 31 then 57344 else if e == 0 then m * pow2 (-16) else (4 + m : Nat) * pow2 ((e : Int) - 17)
  if bit b.toNat 7 then -a else a
/-- Rounds to FP8 E5M2, to nearest with ties to even, saturating to 57,344; whether it saturated. -/
def e5m2Of (q : Rat) : Byte × Bool :=
  let s := if q < 0 then 128 else 0
  let a := absQ q
  let e := max (if a = 0 then -14 else ilog2 a) (-14)
  let m := (roundEven (a * pow2 (2 - e))).toNat
  let (m, e) := if m == 8 then (4, e + 1) else (m, e)
  if (57344 : Rat) < m * pow2 (e - 2) then (BitVec.ofNat 8 (s + 0x7B), true)
  else (BitVec.ofNat 8 (s + (if m < 4 then m else (e + 15).toNat * 4 + (m - 4))), false)

/-- An INT32 sum that saturates (R177). -/
def addI32 (acc : Int × Bool) (v : Int) : Int × Bool :=
  let r := acc.1 + v
  (clampInt (-2147483648) 2147483647 r, acc.2 || decide (r < -2147483648) || decide (2147483647 < r))
/-- An FP32 value some units in the last place from the correctly rounded one, at most `n` either way (R183). -/
def ulpsF32 (n draw : Nat) (q : Rat) : F32 :=
  let b : Nat := (f32Of q).toNat
  let m : Nat := b % 2 ^ 31
  let k : Nat := (clampInt 0 0x7F7FFFFF ((m : Int) + openSteps n draw)).toNat
  tameF32 (BitVec.ofNat 32 (b - m + k))

end Sys2Proof.Machine
end

