-- ==== Sys2Proof/Machine/Verify.lean ====
section
/-! DEFINITION. The hypothesise-and-verify block (R138 to R141): its generator, its samples and its loop, the errors of a model, the
minimal solvers, the refinement of a model and the decomposition of an essential matrix. -/
namespace Sys2Proof.Machine

/-- The xorshift generator of R128 and R139. -/
def xorshift (x : W32) : W32 :=
  let x := x ^^^ (x <<< 13)
  let x := x ^^^ (x >>> 17)
  x ^^^ (x <<< 5)

/-- The parameters of a step (R138, R561). -/
structure HvParam where
  /-- 0 PnP, 1 essential matrix. -/
  mode : Nat
  hMax : Nat
  hMin : Nat
  minInliers : Nat
  thr : F32
  p : F32
  seed : W32
  /-- FX, FY, CX, CY of the working pinhole that the pixels belong to. -/
  cam : List F32
  deriving DecidableEq, Repr

/-- What a step reports (R140). -/
structure HvResult where
  model : Bool := false
  hypotheses : Nat := 0
  inliers : List Nat := []
  /-- The pose, or the essential matrix with its decomposition. -/
  bytes : List Byte := []
  deriving DecidableEq, Repr

/-- Correspondences of a minimal sample, and the models it yields at most. -/
def hvSample (mode : Nat) : Nat := if mode == 0 then 3 else 5
def hvModels (mode : Nat) : Nat := if mode == 0 then 4 else 10
/-- Bytes of a correspondence (R561). -/
def hvRecord (mode : Nat) : Nat := if mode == 0 then 32 else 16

/-- Draws distinct indices, each the generator's value times n over 2^32, again on a repeat. -/
def hvDraw (n : Nat) : Nat → Nat → W32 → List Nat → List Nat × W32
  | 0, _, x, l => (l, x)
  | k + 1, s, x, l =>
    if s ≤ l.length then (l, x)
    else
      let y := xorshift x
      let i := y.toNat * n / 2 ^ 32
      hvDraw n k s y (if l.contains i then l else l ++ [i])

/-- The square of the area of a triangle of map points times four, and the square of a side. -/
def cross2 (a b c : List F64) : Rat :=
  let u (i : Nat) : Rat := vec64 b i - vec64 a i
  let v (i : Nat) : Rat := vec64 c i - vec64 a i
  (u 1 * v 2 - u 2 * v 1) ^ 2 + (u 2 * v 0 - u 0 * v 2) ^ 2 + (u 0 * v 1 - u 1 * v 0) ^ 2

/-- Two pixels lie within 1 px of each other. -/
def nearPixels (a b : List F32) : Bool := decide ((vec32 a 0 - vec32 b 0) ^ 2 + (vec32 a 1 - vec32 b 1) ^ 2 ≤ 1)

/-- Every pair of a list satisfies a relation. -/
def anyPair {α : Type} (r : α → α → Bool) : List α → Bool
  | [] => false
  | a :: l => l.any (r a) || anyPair r l

/-- A degenerate sample (R139). -/
def hvDegenerate (mode : Nat) (sample : List (List Byte)) : Bool :=
  if mode == 0 then
    let p (i : Nat) : List F64 := f64sAt (sample.getD i []) 8 3
    let side := max (dist2 (p 0) (p 1)) (max (dist2 (p 1) (p 2)) (dist2 (p 0) (p 2)))
    decide (cross2 (p 0) (p 1) (p 2) / 4 < side ^ 2 / 10 ^ 8) || decide (side = 0)
  else anyPair (fun a b => nearPixels (f32sAt a 0 2) (f32sAt b 0 2) || nearPixels (f32sAt a 8 2) (f32sAt b 8 2)) sample

/-- A model's camera pose. -/
def hvPose (m : List Byte) : Pose := { r := quatAt32 m 0, t := v3At32 m 16 }
def hvPoseBytes (t : Pose) : List Byte := f32Bytes t.r.f32s ++ f32Bytes t.t.f32s
/-- A PnP correspondence: its map point and its pixel (R561). -/
def hvSight (cam : List F32) (r : List Byte) : Sight := { cam := pinhole cam, p := v3At64 r 8, u := f32Val (f32At r 0), v := f32Val (f32At r 4), info := matId 2 }
/-- A model's essential matrix. -/
def hvEssential (m : List Byte) : Mat := matOf 3 3 (fun i j => f32Val (f32At m (4 * (3 * i + j))))
/-- The directions of an essential-matrix correspondence in its two views. -/
def hvRays (c : Cam) (r : List Byte) : V3 × V3 :=
  (c.ray (f32Val (f32At r 0)) (f32Val (f32At r 4)), c.ray (f32Val (f32At r 8)) (f32Val (f32At r 12)))

/-- The squared Sampson distance of a correspondence, px²; none where it has no value. -/
def sampson2 (c : Cam) (e : Mat) (r : List Byte) : Option Rat :=
  let ki : Mat := [[1 / c.fx, 0, -c.cx / c.fx], [0, 1 / c.fy, -c.cy / c.fy], [0, 0, 1]]
  let f := ((Mat.tr ki).times e).times ki
  let a : List Rat := [f32Val (f32At r 0), f32Val (f32At r 4), 1]
  let b : List Rat := [f32Val (f32At r 8), f32Val (f32At r 12), 1]
  let fa := f.app a
  let fb := (Mat.tr f).app b
  let den := fa.getD 0 0 ^ 2 + fa.getD 1 0 ^ 2 + fb.getD 0 0 ^ 2 + fb.getD 1 0 ^ 2
  if den = 0 then none else some (dotL b fa ^ 2 / den)

/-- The squared error of a correspondence under a model (R138): the reprojection distance, or the Sampson distance. A map point that is not
before the camera has none. -/
def hvError2 (mode : Nat) (cam : List F32) (model rec_ : List Byte) : Option Rat :=
  if mode == 0 then ((hvSight cam rec_).residual (hvPose model)).map (fun r => dotL r r)
  else sampson2 (pinhole cam) (hvEssential model) rec_

/-- A correspondence within THR of a model. -/
def hvInlier (mode : Nat) (thr : F32) (cam : List F32) (model rec_ : List Byte) : Bool :=
  match hvError2 mode cam model rec_ with
  | some e => decide (e ≤ f32Val thr * f32Val thr)
  | none => false
def hvCount (mode : Nat) (thr : F32) (cam : List F32) (recs : List (List Byte)) (model : List Byte) : List Nat :=
  (recs.zipIdx.filter (fun r => hvInlier mode thr cam model r.1)).map (·.2)

/-! ### The decomposition of an essential matrix (R140) -/

/-- The matrix of v ×. -/
def crossMat (v : V3) : Mat := [[0, -v.z, v.y], [v.z, 0, -v.x], [-v.y, v.x, 0]]
/-- The cofactors of a 3 × 3 matrix. -/
def cofactors (m : Mat) : Mat :=
  let r (i : Nat) : V3 := v3Of (m.getD i [])
  [((r 1).cross (r 2)).list, ((r 2).cross (r 0)).list, ((r 0).cross (r 1)).list]
/-- The unit quaternion of a rotation matrix, from the largest of its four squares. -/
def quatOfMat (m : Mat) : Quat :=
  let d (i j : Nat) : Rat := matAt m i j
  let w := 1 + d 0 0 + d 1 1 + d 2 2
  let x := 1 + d 0 0 - d 1 1 - d 2 2
  let y := 1 - d 0 0 + d 1 1 - d 2 2
  let z := 1 - d 0 0 - d 1 1 + d 2 2
  let big := max (max w x) (max y z)
  Quat.unit (if big = w then ⟨w, d 2 1 - d 1 2, d 0 2 - d 2 0, d 1 0 - d 0 1⟩
    else if big = x then ⟨d 2 1 - d 1 2, x, d 0 1 + d 1 0, d 0 2 + d 2 0⟩
    else if big = y then ⟨d 0 2 - d 2 0, d 0 1 + d 1 0, y, d 1 2 + d 2 1⟩
    else ⟨d 1 0 - d 0 1, d 0 2 + d 2 0, d 1 2 + d 2 1, z⟩)

/-- The four motions that an essential matrix E = [t]× R allows: a rotation and a unit translation each. -/
def motionsOf (e : Mat) : List (Quat × V3) :=
  let ee := e.times (Mat.tr e)
  let h := (matAt ee 0 0 + matAt ee 1 1 + matAt ee 2 2) / 2
  let b := (Mat.by h (matId 3)).plus (Mat.by (-1) ee)
  let k := if matAt b 1 1 ≤ matAt b 0 0 && matAt b 2 2 ≤ matAt b 0 0 then 0 else if matAt b 2 2 ≤ matAt b 1 1 then 1 else 2
  let t := V3.scale (1 / rootQ (matAt b k k)) (v3Of (b.getD k []))
  let n := t.dot t
  let rot (t : V3) : Quat := quatOfMat (Mat.by (1 / n) ((cofactors e).plus (Mat.by (-1) ((crossMat t).times e))))
  if n = 0 then []
  else [(rot t, t.unit), (rot t, (V3.scale (-1) t).unit), (rot (V3.scale (-1) t), t.unit), (rot (V3.scale (-1) t), (V3.scale (-1) t).unit)]

/-- A correspondence's point lies before both cameras of a motion: the depths of the rays' nearest points are positive. -/
def beforeBoth (c : Cam) (m : Quat × V3) (r : List Byte) : Bool :=
  let d := hvRays c r
  let a := m.1.turn d.1
  let b := d.2
  let aa := a.dot a
  let ab := a.dot b
  let bb := b.dot b
  let at_ := a.dot m.2
  let bt := b.dot m.2
  let den := aa * bb - ab * ab
  decide (0 < (ab * bt - bb * at_) / den) && decide (0 < (aa * bt - ab * at_) / den)

/-- The motion with the most points before both cameras, the first of equals. -/
def hvMotion (c : Cam) (e : Mat) (recs : List (List Byte)) : Option (Quat × V3) :=
  ((motionsOf e).foldl (fun (b : Option ((Quat × V3) × Nat)) m =>
    let n := (recs.filter (beforeBoth c m)).length
    match b with
    | some p => if p.2 < n then some (m, n) else b
    | none => some (m, n)) none).map (·.1)

/-- The model as R140 has it: a pose; or E with its decomposition, chosen over the inliers. -/
def hvOutput (mode : Nat) (cam : List F32) (model : List Byte) (inliers : List (List Byte)) : List Byte :=
  if mode == 0 then model
  else model ++ (match hvMotion (pinhole cam) (hvEssential model) inliers with
    | some m => f32Bytes m.1.f32s ++ f32Bytes m.2.f32s
    | none => padTo 28 (Config.numeric 82 model))

/-! ### The minimal solvers (R138, R139) -/

/-- The roots of a polynomial in an interval, each to 60 bits and more, ascending: each is the least one above the last. -/
def rootsBetween (c : List (List Rat)) : Nat → Rat → Rat → List Rat
  | 0, _, _ => []
  | n + 1, lo, hi =>
    if signChanges c lo ≤ signChanges c hi then []
    else
      let r := leastRoot c (signChanges c lo) 160 lo hi
      r :: rootsBetween c n r hi
/-- The real roots of a polynomial, ascending, equal ones once. -/
def realRoots (p : List Rat) : List Rat :=
  let p := polyTrim (p.map trim)
  let c := sturm p.length p (polyTrim (polyDiff p))
  let bound := 1 + (p.map (fun a => absQ (a / p.getLastD 1))).foldl max 0
  if p.length ≤ 1 then [] else rootsBetween c p.length (-bound) bound

/-- The rows of the frame that three points span: along the first side, in their plane, across it. -/
def triad (a b c : V3) : Mat :=
  let e := (b.sub a).unit
  let n := (e.cross (c.sub a)).unit
  [e.list, (n.cross e).list, n.list]

/-- The quartic in s₃/s₁ of the distances s of three points, from their squared sides a², b², c² (opposite points 1, 2, 3) and the cosines of the angles
between their rays. -/
def p3pQuartic (aa bb cc ca cb cg : Rat) : List Rat :=
  let k := (aa - cc) / bb
  let m := (aa + cc) / bb
  [(1 + k) ^ 2 - 4 * aa / bb * cg ^ 2,
   4 * (-k * (1 + k) * cb + 2 * aa / bb * cg ^ 2 * cb - (1 - m) * ca * cg),
   2 * (k ^ 2 - 1 + 2 * k ^ 2 * cb ^ 2 + 2 * (bb - cc) / bb * ca ^ 2 - 4 * m * ca * cb * cg + 2 * (bb - aa) / bb * cg ^ 2),
   4 * (k * (1 - k) * cb - (1 - m) * ca * cg + 2 * cc / bb * ca ^ 2 * cb),
   (k - 1) ^ 2 - 4 * cc / bb * ca ^ 2]

/-- The poses, camera to map, that put three map points on the rays of their pixels: at most four (R138). -/
def p3p (cam : List F32) (sample : List (List Byte)) : List Pose :=
  let r (i : Nat) : List Byte := sample.getD i []
  let f (i : Nat) : V3 := ((pinhole cam).ray (f32Val (f32At (r i) 0)) (f32Val (f32At (r i) 4))).unit
  let p (i : Nat) : V3 := v3At64 (r i) 8
  let side (i j : Nat) : Rat := let d := (p i).sub (p j); d.dot d
  let bb := side 0 2
  let k := (side 1 2 - side 0 1) / bb
  let ca := (f 1).dot (f 2)
  let cb := (f 0).dot (f 2)
  let cg := (f 0).dot (f 1)
  (realRoots (p3pQuartic (side 1 2) bb (side 0 1) ca cb cg)).filterMap (fun v =>
    let den := 2 * (cg - v * ca)
    let u := trim (((k - 1) * v ^ 2 - 2 * k * cb * v + 1 + k) / den)
    if v ≤ 0 || den = 0 || u ≤ 0 then none
    else
      let s := rootQ (bb / (1 + v ^ 2 - 2 * v * cb))
      let q0 := V3.scale s (f 0)
      let rot := quatOfMat ((Mat.tr (triad (p 0) (p 1) (p 2))).times (triad q0 (V3.scale (u * s) (f 1)) (V3.scale (v * s) (f 2))))
      some { r := rot, t := ((p 0).sub (rot.turn q0)).trim })

/-- Row reduction of the columns from `j` on: the pivots' columns and their rows, over rows not yet used. -/
def rowReduce : Nat → Nat → List Nat → Mat → Mat → List Nat × Mat
  | 0, _, piv, done, _ => (piv, done)
  | n + 1, j, piv, done, rest =>
    match rest.findIdx? (fun r => r.getD j 0 ≠ 0) with
    | none => rowReduce n (j + 1) piv done rest
    | some i =>
      let p := rest.getD i []
      let p := p.map (· / p.getD j 1)
      let clear (r : List Rat) : List Rat := r.zipWith (fun a b => a - r.getD j 0 * b) p
      rowReduce n (j + 1) (piv ++ [j]) (done.map clear ++ [p]) ((rest.eraseIdx i).map clear)
/-- A basis of the vectors of n entries that a matrix carries to zero. -/
def nullSpace (n : Nat) (m : Mat) : Mat :=
  let (piv, rows) := rowReduce n 0 [] [] m
  ((List.range n).filter (fun j => !piv.contains j)).map (fun j =>
    (List.range n).map (fun i => if i = j then 1 else match piv.findIdx? (· == i) with
      | some k => -(matAt rows k j)
      | none => 0))

/-- The monomials of degree at most 3 in x, y, z, by their exponents: those to be eliminated first. -/
def cubics : List (Nat × Nat × Nat) :=
  [(3, 0, 0), (0, 3, 0), (2, 1, 0), (1, 2, 0), (2, 0, 1), (2, 0, 0), (0, 2, 1), (0, 2, 0), (1, 1, 1), (1, 1, 0),
   (1, 0, 2), (1, 0, 1), (1, 0, 0), (0, 1, 2), (0, 1, 1), (0, 1, 0), (0, 0, 3), (0, 0, 2), (0, 0, 1), (0, 0, 0)]
/-- The product of three forms a·x + b·y + c·z + d over them. -/
def cubicOf (a b c : List Rat) : List Rat :=
  let e (k n : Nat) : Nat := b2n (k == n)
  let terms := (List.range 64).map (fun i =>
    ((e (i / 16) 0 + e (i / 4 % 4) 0 + e (i % 4) 0, e (i / 16) 1 + e (i / 4 % 4) 1 + e (i % 4) 1, e (i / 16) 2 + e (i / 4 % 4) 2 + e (i % 4) 2),
     a.getD (i / 16) 0 * b.getD (i / 4 % 4) 0 * c.getD (i % 4) 0))
  cubics.map (fun m => sumQ ((terms.filter (fun t => t.1 == m)).map (·.2)))
def addAll (l : Mat) : List Rat := l.foldl (fun a b => a.zipWith (· + ·) b) (List.replicate 20 0)

/-- The constraints on E = x·X + y·Y + z·Z + W: its determinant is zero, and 2·E·Eᵀ·E = tr(E·Eᵀ)·E. -/
def essentialCubics (basis : Mat) : Mat :=
  let e (i j : Nat) : List Rat := basis.map (·.getD (3 * i + j) 0)
  let three := List.range 3
  let det := addAll (three.flatMap (fun j => [cubicOf (e 0 j) (e 1 ((j + 1) % 3)) (e 2 ((j + 2) % 3)),
    (cubicOf (e 0 j) (e 1 ((j + 2) % 3)) (e 2 ((j + 1) % 3))).map (-1 * ·)]))
  det :: three.flatMap (fun i => three.map (fun l => addAll (three.flatMap (fun j => three.flatMap (fun k =>
    [(cubicOf (e i j) (e k j) (e k l)).map (2 * ·), (cubicOf (e j k) (e j k) (e i l)).map (-1 * ·)])))))

def polyAdd (a b : List Rat) : List Rat := (List.range (max a.length b.length)).map (fun i => a.getD i 0 + b.getD i 0)
def polyMul (a b : List Rat) : List Rat :=
  (List.range (a.length + b.length)).map (fun n => sumQ ((List.range (n + 1)).map (fun i => a.getD i 0 * b.getD (n - i) 0)))

/-- The essential matrices of five correspondences, at most ten, each as nine entries of norm √2, those of a rotation and a unit translation: the
constraints' rows of x²z, x², y²z, y², xyz, xy give three equations in x, y and 1 whose coefficients are polynomials in z. Which sign of E the block
reports is its own. -/
def fivePoint (cam : List F32) (sample : List (List Byte)) : List (List Rat) :=
  let rows := sample.map (fun r => let d := hvRays (pinhole cam) r; d.2.list.flatMap (fun b => d.1.list.map (b * ·)))
  let basis := nullSpace 9 rows
  let (piv, red) := rowReduce 10 0 [] [] (essentialCubics basis)
  if basis.length != 4 || piv.length != 10 then []
  else
    let eq (k : Nat) : Mat :=
      let a (i : Nat) : Rat := matAt red k (10 + i)
      let b (i : Nat) : Rat := matAt red (k + 1) (10 + i)
      [[a 2, a 1 - b 2, a 0 - b 1, -b 0], [a 5, a 4 - b 5, a 3 - b 4, -b 3], [a 9, a 8 - b 9, a 7 - b 8, a 6 - b 7, -b 6]]
    let p (i j : Nat) : List Rat := (eq (4 + 2 * i)).getD j []
    let minor (i j : Nat) : List Rat := polyAdd (polyMul (p 0 i) (p 1 j)) ((polyMul (p 0 j) (p 1 i)).map (-1 * ·))
    let det := polyAdd (polyMul (minor 1 2) (p 2 0)) (polyAdd (polyMul (minor 2 0) (p 2 1)) (polyMul (minor 0 1) (p 2 2)))
    (realRoots det).filterMap (fun z =>
      let d := polyAt (minor 0 1) z
      if d = 0 then none
      else
        let x := polyAt (minor 1 2) z / d
        let y := polyAt (minor 2 0) z / d
        let e := (List.range 9).map (fun i => x * matAt basis 0 i + y * matAt basis 1 i + z * matAt basis 2 i + matAt basis 3 i)
        let n := rootQ (dotL e e / 2)
        some (e.map (fun v => if Config.convention 12 then v / n else -v / n)))

/-- The models of a sample (R139): every solution, in an order that the spec leaves open: a pose as 4 × FP32 of rotation, camera to map, and 3 × FP32 of
translation; or E as 9 × FP32. -/
def hvSolve (mode : Nat) (cam : List F32) (sample : List (List Byte)) : List (List Byte) :=
  let l := if mode == 0 then (p3p cam sample).map hvPoseBytes else (fivePoint cam sample).map (fun e => f32Bytes (e.map f32Of))
  (if Config.convention 13 then l else l.reverse).take (hvModels mode)

/-! ### The refinement (R139) -/

/-- The signed Sampson distance of a correspondence and its derivative over changes of E; none where it has no value. -/
def sampsonRow (c : Cam) (e : Mat) (changes : List Mat) (r : List Byte) : Option (List Rat × Mat) :=
  let ki : Mat := [[1 / c.fx, 0, -c.cx / c.fx], [0, 1 / c.fy, -c.cy / c.fy], [0, 0, 1]]
  let img (m : Mat) : Mat := ((Mat.tr ki).times m).times ki
  let a : List Rat := [f32Val (f32At r 0), f32Val (f32At r 4), 1]
  let b : List Rat := [f32Val (f32At r 8), f32Val (f32At r 12), 1]
  let f := img e
  let fa := f.app a
  let fb := (Mat.tr f).app b
  let four (x y : List Rat) (u v : List Rat) : Rat := x.getD 0 0 * u.getD 0 0 + x.getD 1 0 * u.getD 1 0 + y.getD 0 0 * v.getD 0 0 + y.getD 1 0 * v.getD 1 0
  let den := four fa fb fa fb
  if den ≤ 0 then none
  else
    let s := rootQ den
    let n := dotL b fa
    some ([trim (n / s)], [changes.map (fun m =>
      let g := img m
      let ga := g.app a
      trim ((dotL b ga - n / den * four fa fb ga ((Mat.tr g).app b)) / s))])

/-- Gauss–Newton iterations of an essential matrix over Sampson distances: of its rotation, stepped from the right, and of its unit translation across
itself. A singular iteration changes nothing. -/
def essentialRefine (c : Cam) (recs : List (List Byte)) : Nat → Quat × V3 → Quat × V3
  | 0, m => m
  | n + 1, m =>
    let rot := m.1.mat
    let axis := if absQ m.2.x ≤ absQ m.2.y && absQ m.2.x ≤ absQ m.2.z then ⟨1, 0, 0⟩ else if absQ m.2.y ≤ absQ m.2.z then ⟨0, 1, 0⟩ else (⟨0, 0, 1⟩ : V3)
    let u := (m.2.cross axis).unit
    let v := m.2.cross u
    let turn (w : V3) : Mat := ((crossMat m.2).times rot).times (crossMat w)
    let changes := [turn ⟨1, 0, 0⟩, turn ⟨0, 1, 0⟩, turn ⟨0, 0, 1⟩, (crossMat u).times rot, (crossMat v).times rot]
    let h := normalOf 5 (recs.filterMap (fun r => (sampsonRow c ((crossMat m.2).times rot) changes r).map (fun e => (1, e))))
    match h.1.inv with
    | none => m
    | some k =>
      let d := (k.app h.2).map (fun a => trim (-a))
      essentialRefine c recs n ((m.1.mul (expRot (v3Of d))).unit,
        ((m.2.add (V3.scale (d.getD 3 0) u)).add (V3.scale (d.getD 4 0) v)).unit)

/-- Three Gauss–Newton iterations of a model over its inliers: a pose by its reprojection distances, an essential matrix by its Sampson distances. -/
def hvRefine (mode : Nat) (cam : List F32) (model : List Byte) (inliers : List (List Byte)) : List Byte :=
  if mode == 0 then hvPoseBytes (pnpRefine (inliers.map (hvSight cam)) 3 (hvPose model))
  else match motionsOf (hvEssential model) with
    | [] => model
    | m :: _ =>
      let r := essentialRefine (pinhole cam) inliers 3 m
      let e := ((crossMat r.2).times r.1.mat).flatten
      f32Bytes (e.map (fun v => f32Of (if 0 ≤ dotL e (hvEssential model).flatten then v else -v)))

/-! ### The loop (R139) -/


/-- The hypotheses needed for a count: the least k with (1 − w^s)^k ≤ 1 − P, within H_MIN and H_MAX. -/
def hvNeeded (p : HvParam) (n count : Nat) : Nat :=
  let q : Rat := 1 - ((count : Rat) / n) ^ hvSample p.mode
  let k := ((List.range (p.hMax + 1)).find? (fun k => decide (q ^ k ≤ 1 - f32Val p.p))).getD p.hMax
  min p.hMax (max p.hMin k)

/-- The best model so far with its inliers, and the hypotheses needed. -/
structure HvBest where
  model : Option (List Byte) := none
  inliers : List Nat := []
  needed : Nat
  deriving DecidableEq, Repr

/-- Scores one model: where the count is equal, the earlier model is kept. -/
def hvScore (p : HvParam) (recs : List (List Byte)) (b : HvBest) (m : List Byte) : HvBest :=
  let l := hvCount p.mode p.thr p.cam recs m
  if b.inliers.length < l.length then { model := some m, inliers := l, needed := hvNeeded p recs.length l.length } else b

/-- The loop of R139. -/
def hvLoop (p : HvParam) (recs : List (List Byte)) : Nat → Nat → W32 → HvBest → Nat × HvBest
  | 0, h, _, b => (h, b)
  | k + 1, h, x, b =>
    if b.needed ≤ h then (h, b)
    else
      let s := hvSample p.mode
      let (idx, x) := hvDraw recs.length 65536 s x []
      let sample := idx.map (fun i => recs.getD i [])
      if idx.length < s || hvDegenerate p.mode sample then hvLoop p recs k (h + 1) x b
      else hvLoop p recs k (h + 1) x ((hvSolve p.mode p.cam sample).foldl (hvScore p recs) b)

/-- A hypothesise-and-verify step (R139). -/
def hvRun (p : HvParam) (recs : List (List Byte)) : HvResult :=
  if recs.length < hvSample p.mode then {}
  else
    let (h, b) := hvLoop p recs p.hMax 0 p.seed { needed := p.hMax }
    match b.model with
    | none => { hypotheses := h }
    | some m =>
      if b.inliers.length < p.minInliers then { hypotheses := h }
      else
        let pick (l : List Nat) : List (List Byte) := l.map (fun i => recs.getD i [])
        let r := hvRefine p.mode p.cam m (pick b.inliers)
        let l := hvCount p.mode p.thr p.cam recs r
        let (m, l) := if b.inliers.length ≤ l.length then (r, l) else (m, b.inliers)
        { model := true, hypotheses := h, inliers := l, bytes := hvOutput p.mode p.cam m (pick l) }

/-- The parameters of a block of R561, over the pixels of a camera. -/
def hvParamOf (cam : List F32) (b : List Byte) : HvParam :=
  { mode := fieldAt b 0 1, hMax := fieldAt b 2 2, hMin := fieldAt b 4 2, minInliers := fieldAt b 6 2, thr := f32At b 8, p := f32At b 0xC,
    seed := BitVec.ofNat 32 (fieldAt b 0x10 4), cam := cam }

end Sys2Proof.Machine
end

