-- ==== Sys2Proof/Machine/Cameras.lean ====
section
/-! DEFINITION. The cameras of sensor slots (R109, R119, R146, R253): the working camera, the extrinsics, the common rectified frame of two slots. -/
namespace Sys2Proof.Machine

/-! ### Parameters (R146) -/

def veStage (p : List Byte) (n : Nat) : Bool := bit (fieldAt p 0 1) n
/-- Cell size in pixels. -/
def veCell (p : List Byte) : Nat := 16 * 2 ^ fieldAt p 3 1
/-- Disparities searched. -/
def veDisps (p : List Byte) : Nat := 32 * 2 ^ fieldAt p 0x12 1
/-- The camera that a working field of zero takes: the slot's, or for STEREO the common camera of two slots (R119): the mean of the four focal
lengths and the centre of slot s. -/
def commonCam (kind : Nat) (a b : Sensor) : List F32 :=
  if kind == 2 then
    let m := f32Of ((vec32 a.cam 0 + vec32 a.cam 1 + vec32 b.cam 0 + vec32 b.cam 1) / 4)
    [m, m, a.cam.getD 2 0, a.cam.getD 3 0]
  else a.cam
/-- The working camera's FX, FY, CX, CY (R119, R257). -/
def workCam (p : List Byte) (kind : Nat) (a b : Sensor) : List F32 :=
  let c := commonCam kind a b
  (List.range 4).map (fun i => if f32Val (f32At p (0x18 + 4 * i)) = 0 then c.getD i 0 else f32At p (0x18 + 4 * i))
/-- The working model in force: equidistant only for a TYPE 2 slot (R119). -/
def workModel (p : List Byte) (a : Sensor) : Nat := if fieldAt p 7 1 == 1 && a.type == 2 then 1 else 0
/-- The working camera with its model. -/
def workingCam (p : List Byte) (kind : Nat) (a b : Sensor) : Cam := { fish := workModel p a == 1, f := (workCam p kind a b).map f32Val }
/-- A sensor slot as bytes. -/
def sensorBytes (a : Sensor) : List Byte :=
  leBytes 1 a.type ++ leBytes 2 a.width ++ leBytes 2 a.height ++ f32Bytes (a.cam ++ a.dist ++ a.t ++ a.q ++ [a.depthScale, a.fold]) ++ a.mesh

/-! ### Sensor frames (R119, R253) -/

/-- The common rectified frame of two slots, rectified to body: its x axis runs along the baseline, so that epipolar lines are rows; its turn about the
baseline is firmware's own. -/
def rectFrame (a b : Sensor) : Quat :=
  let x := (b.pose.t.sub a.pose.t).unit
  let z0 := (a.pose.r.col 2).add (b.pose.r.col 2)
  let z := (z0.sub (V3.scale (z0.dot x) x)).unit
  let y := z.cross x
  let q := quatOfMat (Mat.tr [x.list, y.list, z.list])
  let turn := f64Val (Config.numeric64 68 (sensorBytes a ++ sensorBytes b))
  ((expRot (V3.scale turn x)).mul q).unit
/-- The frame of a working image in the body (R253): the slot's, for STEREO with its rectifying rotation. -/
def workPose (kind : Nat) (a b : Sensor) : Pose := if kind == 2 then { a.pose with r := rectFrame a b } else a.pose

/-- The frame of a slot's camera in the body, with the rectifying rotation where STEREO items have named it (R227, R253); `bases` are the slots s of
those pairs. -/
def mountOf (sensors : List Sensor) (bases : List Nat) (slot : Nat) : Pose :=
  let a := sensors.getD slot {}
  if bases.contains slot then { a.pose with r := rectFrame a (sensors.getD (slot + 1) {}) }
  else if slot != 0 && bases.contains (slot - 1) then { a.pose with r := rectFrame (sensors.getD (slot - 1) {}) a }
  else a.pose
/-- The camera of a REPROJECTION record (R227): its working camera, or its slot's model; a mesh takes the ideal pinhole of the slot's own figures as its working
image. None for a slot without a camera. -/
def recordCam (sensors : List Sensor) (r : List Byte) : Option Cam :=
  let m := fieldAt r 0x20 1
  if m ≤ 1 then some { fish := m == 1, f := (f32sAt r 0x38 4).map f32Val }
  else
    let a := sensors.getD (fieldAt r 0x21 1) {}
    if a.type == 1 || a.type == 2 then some { fish := a.type == 2, f := a.cam.map f32Val, k := a.dist.map f32Val }
    else if a.type == 3 then some { fish := false, f := a.cam.map f32Val, mesh := some (a.mesh, a.width, a.height) } else none
/-- A REPROJECTION record as a sight of a point. -/
def sightOf (sensors : List Sensor) (bases : List Nat) (r : List Byte) (p : V3) : Option Sight :=
  (recordCam sensors r).map (fun c =>
    { cam := c, mount := mountOf sensors bases (fieldAt r 0x21 1), p := p, u := f32Val (f32At r 0x24), v := f32Val (f32At r 0x28)
      info := upperOf 2 ((f32sAt r 0x2C 3).map f32Val), kern := fieldAt r 1 1, k := f32Val (f32At r 0xC) })

/-- The 4-DoF part of a motion (R325): its translation and its rotation about up. -/
def Pose.fourDof (p : Pose) : Pose := { t := p.t, r := yawQuat p.r.yaw }
/-- The heading of a camera: the azimuth of its optical axis, from east towards north. -/
def headingOf (q : Quat) : Rat := let a := q.col 2; atan2Q a.y a.x
/-- The difference of two angles, in [−π, π]. -/
def angleDiff (a b : Rat) : Rat := turnless (a - b)

end Sys2Proof.Machine
end

