-- ==== Sys2Proof/Machine/MapData.lean ====
section
/-! DEFINITION. The map's contents: tiles (R292), the map image with its records and checks (R296 to R300), the map frame (R290),
the covisibility graph (R322), and the place search (R312 to R314). -/
namespace Sys2Proof.Machine

/-! ### Tiles -/

/-- The tile of a position; none outside the square the map covers (R292). -/
def tileOf (p : List F64) : Option Nat :=
  let a := (vec64 p 0 * 5 / 128).floor + 128
  let b := (vec64 p 1 * 5 / 128).floor + 128
  if p.all f64IsFinite && decide (0 ≤ a) && decide (a < 256) && decide (0 ≤ b) && decide (b < 256) then some (256 * b + a).toNat else none

/-- A tile and its eight neighbours. -/
def tilesAround (t : Nat) (ring : Nat) : List Nat :=
  (List.range 65536).filter (fun u =>
    decide (u % 256 ≤ t % 256 + ring) && decide (t % 256 ≤ u % 256 + ring) && decide (u / 256 ≤ t / 256 + ring) &&
    decide (t / 256 ≤ u / 256 + ring))

/-- Keyframes and landmarks of the map that are not lost (R409). -/
def liveKfs (d : MapData) : NMap Kf := d.kfs.filter (fun p => !p.2.lost)
def liveLms (d : MapData) : NMap Lm := d.lms.filter (fun p => !p.2.lost)

/-- The tiles that hold a keyframe or a landmark. -/
def mapTiles (d : MapData) : List Nat :=
  ((liveKfs d).filterMap (fun p => tileOf p.2.pos) ++ (liveLms d).filterMap (fun p => tileOf p.2.pos)).eraseDups

/-! ### Records of the image -/

/-- A keyframe record (R299). -/
def kfBytes (id : Nat) (k : Kf) : List Byte :=
  leBytes 4 id ++ leBytes 2 k.kps.length ++ leBytes 1 k.width ++ leBytes 1 k.height ++ leBytes 8 k.dt ++ f64Bytes k.pos ++
  f32Bytes k.quat ++ f32Bytes k.cam ++ leBytes 4 k.prev ++ f32Bytes k.relT ++ f32Bytes k.relQ ++ List.replicate 24 0 ++
  padTo 512 k.place ++ k.kps.flatMap (padTo 288)

/-- Reads a keyframe record. -/
def kfOf (b : List Byte) : Kf :=
  { dt := fieldAt b 8 8, width := fieldAt b 6 1, height := fieldAt b 7 1, pos := f64sAt b 0x10 3, quat := f32sAt b 0x28 4,
    cam := f32sAt b 0x38 4, prev := fieldAt b 0x48 4, relT := f32sAt b 0x4C 3, relQ := f32sAt b 0x58 4, place := bytesAt b 0x80 512,
    kps := records 288 (bytesAt b 640 (288 * fieldAt b 4 2)) }

/-- A landmark record (R297). -/
def lmBytes (id : Nat) (l : Lm) : List Byte :=
  leBytes 4 id ++ leBytes 4 l.anchor ++ f64Bytes l.pos ++ f32Bytes l.sigma ++ leBytes 2 l.obs ++ List.replicate 18 0

def lmOf (b : List Byte) : Lm :=
  { anchor := fieldAt b 4 4, pos := f64sAt b 8 3, sigma := f32sAt b 0x20 3, obs := fieldAt b 0x2C 2 }

/-- A keypoint entry's landmark (R299). -/
def kpLandmark (e : List Byte) : Nat := fieldAt e 276 4
/-- Its reliability. -/
def kpReliability (e : List Byte) : Nat := fieldAt e 272 1
/-- Its descriptor of ROLE 1. -/
def kpDescriptor (e : List Byte) : List Byte := bytesAt e 16 256

/-- The keyframe section read as records: none where it does not end with its last record. -/
def parseKfs : Nat → List Byte → Option (List (Nat × Kf))
  | 0, b => if b.isEmpty then some [] else none
  | n + 1, b =>
    let len := 640 + 288 * fieldAt b 4 2
    if b.length < len then none
    else (parseKfs n (b.drop len)).map (fun l => (fieldAt b 0 4, kfOf (b.take len)) :: l)

/-! ### The image (R296) -/

/-- Bytes of a keyframe's record, and of the map in its region (the model's measure of R295's fill). -/
def kfSize (k : Kf) : Nat := 640 + 288 * k.kps.length
def kfSection (d : MapData) : Nat := ((liveKfs d).map (fun p => kfSize p.2)).foldl (· + ·) 0
def mapBytes (kfSec kfs lms : Nat) : Nat := kfSec + 64 * kfs + 32 * lms
def mapSize (d : MapData) : Nat := mapBytes (kfSection d) d.kfs.length d.lms.length
/-- Bytes of the region that hold the map: the shadow space's eighth apart (R295). -/
def mapRoom (s : State) : Nat := s.core.map.region - s.core.map.region / 8

/-- Bytes that MAP_SAVE writes (R300). -/
def imageLen (d : MapData) : Nat := 256 + kfSection d + 64 * (liveLms d).length

/-- The image MAP_SAVE writes: the keyframe section after the header, then the landmark section. -/
def mapImage (d : MapData) (version : Nat) : List Byte :=
  let ks := liveKfs d
  let ls := liveLms d
  let kl := kfSection d
  let head (digest : List Byte) : List Byte :=
    leBytes 4 0x48594D01 ++ leBytes 2 1 ++ leBytes 2 0 ++ leBytes 4 version ++ leBytes 4 ks.length ++ leBytes 8 ls.length ++
    leInt 8 d.lat ++ leInt 8 d.lon ++ leInt 4 d.height ++ leBytes 4 0 ++ leBytes 8 256 ++ leBytes 8 kl ++ leBytes 8 (256 + kl) ++
    leBytes 8 (64 * ls.length) ++ leBytes 4 d.nextKf ++ leBytes 4 d.nextLm ++ leBytes 8 0 ++ digest ++ List.replicate 128 0
  let body := ks.flatMap (fun p => kfBytes p.1 p.2) ++ ls.flatMap (fun p => lmBytes p.1 p.2)
  head (sm3 (head (List.replicate 32 0) ++ body)) ++ body

/-- Check 1 of R298, on the header. -/
def mapHeaderOk (h : List Byte) (len : Nat) : Bool :=
  let kfs := fieldAt h 0xC 4
  let lms := fieldAt h 0x10 8
  let ko := fieldAt h 0x30 8
  let kl := fieldAt h 0x38 8
  let lo := fieldAt h 0x40 8
  let ll := fieldAt h 0x48 8
  fieldAt h 0 4 == 0x48594D01 && fieldAt h 4 2 == 1 && decide (256 ≤ len) && decide (ko + kl ≤ len) && decide (lo + ll ≤ len) &&
  (kl == 0 || ll == 0 || decide (ko + kl ≤ lo) || decide (lo + ll ≤ ko)) &&
  decide (kfs ≤ 1048576) && decide (lms ≤ 4294967294) && ll == 64 * lms &&
  decide (928 * kfs ≤ kl) && decide (kl ≤ (640 + 288 * 2048) * kfs) && (kl - 640 * kfs) % 288 == 0

/-- Check 4 of R298. -/
def mapFits (s : State) (h : List Byte) : Bool :=
  decide (mapBytes (fieldAt h 0x38 8) (fieldAt h 0xC 4) (fieldAt h 0x10 8) ≤ mapRoom s)

/-- DIGEST (check 2). -/
def mapDigestOk (img : List Byte) : Bool := sm3 (overlay img 0x60 (List.replicate 32 0)) == bytesAt img 0x60 32

/-- Latitude and longitude of R291. -/
def originOk (lat lon : Int) : Bool :=
  decide (-90000000000 ≤ lat) && decide (lat ≤ 90000000000) && decide (-180000000000 ≤ lon) && decide (lon ≤ 180000000000)

/-- X₀ and M of an origin on the WGS 84 ellipsoid, FP64 (R290). -/
def mapFrame (lat lon height : Int) : List F64 :=
  let rad (v : Int) : Rat := trim ((v : Rat) / 10 ^ 9 * piQ / 180)
  let sp := sinQ (rad lat)
  let cp := cosQ (rad lat)
  let sl := sinQ (rad lon)
  let cl := cosQ (rad lon)
  let f : Rat := 1000000000 / 298257223563
  let e2 := f * (2 - f)
  let n := trim (6378137 / rootQ (1 - e2 * sp * sp))
  let h : Rat := (height : Rat) / 1000
  ([(n + h) * cp * cl, (n + h) * cp * sl, (n * (1 - e2) + h) * sp, -sl, cl, 0, -sp * cl, -sp * sl, cp, cp * cl, cp * sl, sp].map (fun q => f64Of (trim q)))

/-- The contents of an image whose header passed, where check 3 of R298 passes. -/
def mapOfImage (img : List Byte) : Option MapData :=
  let kb := bytesAt img (fieldAt img 0x30 8) (fieldAt img 0x38 8)
  let lb := bytesAt img (fieldAt img 0x40 8) (fieldAt img 0x48 8)
  let nk := fieldAt img 0x50 4
  let nl := fieldAt img 0x54 4
  let lms := (records 64 lb).map (fun b => (fieldAt b 0 4, lmOf b))
  match parseKfs (fieldAt img 0xC 4) kb with
  | none => none
  | some kfs =>
    let ok := originOk (intAt img 0x18 8) (intAt img 0x20 8) && risingKeys kfs && risingKeys lms &&
      kfs.all (fun p =>
        decide (p.1 < nk) && (p.2.prev == 0xFFFFFFFF || decide (p.2.prev < nk)) && (tileOf p.2.pos).isSome &&
        decide (1 ≤ p.2.kps.length) && decide (p.2.kps.length ≤ 2048) &&
        p.2.kps.all (fun e => kpLandmark e == 0xFFFFFFFF || NMap.has lms (kpLandmark e))) &&
      lms.all (fun p => decide (p.1 < nl) && NMap.has kfs p.2.anchor && (tileOf p.2.pos).isSome)
    if ok then
      let lat := intAt img 0x18 8
      let lon := intAt img 0x20 8
      let height := intAt img 0x28 4
      some { lat := lat, lon := lon, height := height, frame := mapFrame lat lon height, kfs := kfs, lms := lms, nextKf := nk, nextLm := nl }
    else none

/-! ### Map parameters (R310) -/

/-- The slot of the map-job graph: the lowest whose graph of kind 0x82 is resident on every map channel. -/
def mapGraphSlot (s : State) : Option Nat :=
  if (mapChans s).isEmpty then none
  else (List.range 64).find? (fun g => (mapChans s).all (fun c => match residentAt s c g with
    | some x => x.graph.kind == 0x82
    | none => false))

/-- The default block of R310. -/
def defaultMapParams : List Byte :=
  padTo 64 (leBytes 2 9000 ++ leBytes 1 8 ++ leBytes 1 4 ++ leBytes 2 40 ++ leBytes 1 230 ++ leBytes 1 10 ++ leBytes 2 100 ++
    leBytes 2 150 ++ leBytes 2 500 ++ leBytes 2 100 ++ leBytes 2 500 ++ leBytes 2 50 ++ leBytes 2 2000 ++ leBytes 1 128 ++ leBytes 1 15)

/-- The step of an engine code in a graph. -/
def stepOf (g : Graph) (engine : Nat) : Option GStep := g.steps.find? (fun x => x.engine == engine)

/-- The map parameters in force; none without a map-job graph. -/
def mapParams (s : State) : Option (List Byte) :=
  match mapGraphSlot s with
  | none => none
  | some g =>
    match (mapChans s).head?.bind (fun c => residentAt s c g) with
    | none => none
    | some x => match stepOf x.graph 9 with
      | some r => some (if r.param.isEmpty then defaultMapParams else r.param)
      | none => none

/-! ### Covisibility (R322) -/

/-- Landmarks a keyframe observes. -/
def kfLandmarks (k : Kf) : List Nat := ((k.kps.map kpLandmark).filter (· != 0xFFFFFFFF)).eraseDups
/-- Landmarks two keyframes share. -/
def shared (a b : Kf) : Nat := ((kfLandmarks a).filter ((kfLandmarks b).contains ·)).length

/-- The neighbours of a keyframe on the covisibility graph. -/
def covisible (d : MapData) (covisMin : Nat) (id : Nat) : List Nat :=
  match NMap.get? d.kfs id with
  | none => []
  | some k =>
    ((liveKfs d).filter (fun p => p.1 != id && (decide (covisMin ≤ shared k p.2) || k.prev == p.1 || p.2.prev == id))).map (·.1)

/-- The keyframes left out of a job that are joined to it, each with the least keyframe of the job that it is joined to (R323). -/
def boundaryOf (d : MapData) (covis : Nat) (kfs : List Nat) : List (Nat × Nat) :=
  kfs.foldl (fun l k => ((covisible d covis k).filter (fun b => !kfs.contains b && !l.any (fun e => e.1 == b))).map (fun b => (b, k)) |> (l ++ ·)) []

/-- Factors of a closure's job over some keyframes: covisibility, succession, the loop, the boundary, the gauge (R323). -/
def closureFactors (d : MapData) (covis : Nat) (kfs : List Nat) : Nat :=
  let l := d.kfs.filter (fun p => kfs.contains p.1)
  (l.map (fun a => (l.filter (fun b => decide (a.1 < b.1) && decide (covis ≤ shared a.2 b.2))).length + b2n (kfs.contains a.2.prev))).foldl (· + ·) 0 +
    (boundaryOf d covis kfs).length + 2

/-- A breadth-first search: so many steps from a frontier, at most `cap` keyframes. -/
def spread (nbr : Nat → List Nat) (cap : Nat) : Nat → List Nat → List Nat → List Nat
  | 0, _, seen => seen
  | n + 1, frontier, seen =>
    let next := ((frontier.flatMap nbr).eraseDups.filter (fun k => !seen.contains k)).take (cap - seen.length)
    if next.isEmpty then seen else spread nbr cap n next (seen ++ next)

/-! ### Place search (R312 to R314) -/

/-- The exact score of two place descriptors. -/
def placeScore (q d : List Byte) : Int := ((List.range 512).map (fun k => intAt q k 1 * intAt d k 1)).foldl (· + ·) 0

/-- Inserts a candidate in descending order of score, the lower KF_ID first on a tie. -/
def insertCand (c : Nat × Int) : List (Nat × Int) → List (Nat × Int)
  | [] => [c]
  | e :: l => if e.2 < c.2 || (e.2 == c.2 && decide (c.1 < e.1)) then c :: e :: l else e :: insertCand c l

/-- The candidates of a search set (R313). -/
def placeCands (thr k : Nat) (q : List Byte) (set : NMap Kf) (excl : List Nat) : List Nat :=
  let scored := (set.filter (fun p => !excl.contains p.1)).map (fun p => (p.1, placeScore q p.2.place))
  (((scored.filter (fun c => decide ((thr : Int) ≤ c.2))).foldl (fun l c => insertCand c l) []).take k).map (·.1)

/-- Whether a tile meets a disc (R314). -/
def tileMeets (t : Nat) (e n r : Rat) : Bool :=
  let lo (i : Nat) : Rat := ((i : Int) - 128) * (128 / 5)
  let gap (x l : Rat) : Rat := if x < l then l - x else if l + 128 / 5 < x then x - (l + 128 / 5) else 0
  decide (gap e (lo (t % 256)) ^ 2 + gap n (lo (t / 256)) ^ 2 ≤ r ^ 2)

/-- The search set of a query with an optional prior (R314). -/
def searchSet (d : MapData) (prior : Option (Rat × Rat × Rat)) : NMap Kf :=
  match prior with
  | none => liveKfs d
  | some (e, n, sig) =>
    if 200 < sig then liveKfs d
    else (liveKfs d).filter (fun p => match tileOf p.2.pos with
      | some t => tileMeets t e n (3 * sig + 128 / 5)
      | none => false)

/-! ### Descriptor match (R315) -/

/-- The squared distance 2 − 2s of two descriptors of FP8 E4M3, s their FP32 inner product in ascending order (R175, R177, R315); with a NaN among
them it is open. -/
def descDist2 (a b : List Byte) : Rat :=
  if (a ++ b).any e4m3Nan then f32Val (Config.numeric32 11 (a ++ b))
  else
    let s := (a.zip b).foldl (fun acc e => macF32 acc (f32Of (e4m3Val e.1)) (f32Of (e4m3Val e.2))) ((0 : F32), false)
    max 0 (2 - 2 * f32Val s.1)

/-- The nearest and second-nearest of a list by a distance, the lower index on a tie: index, distance, second distance. -/
def nearestTwo (f : Nat → Rat) : List Nat → Option (Nat × Rat × Option Rat)
  | [] => none
  | i :: l =>
    match nearestTwo f l with
    | none => some (i, f i, none)
    | some (j, dj, d2) =>
      if f i ≤ dj then some (i, f i, some dj)
      else some (j, dj, some (match d2 with | none => f i | some x => if f i < x then f i else x))

/-- The matches of queries and references with their descriptors: pairs of indices. Distances are compared by their squares. -/
def descMatch (ratio : Nat) (qs rs : List (Nat × List Byte)) : List (Nat × Nat) :=
  let q (i : Nat) : List Byte := ((qs.find? (fun e => e.1 == i)).map (·.2)).getD []
  let r (i : Nat) : List Byte := ((rs.find? (fun e => e.1 == i)).map (·.2)).getD []
  let qi := qs.map (·.1)
  let ri := rs.map (·.1)
  qi.filterMap (fun i =>
    match nearestTwo (fun j => descDist2 (q i) (r j)) ri with
    | none => none
    | some (j, d1, d2) =>
      let both := match nearestTwo (fun k => descDist2 (q k) (r j)) qi with
        | some (k, _, _) => k == i
        | none => false
      let passes := match d2 with | some x => decide (d1 < ((ratio : Rat) / 256) ^ 2 * x) | none => true
      if both && passes then some (i, j) else none)

/-- The keypoints of a keyframe that take part as references: reliability and a landmark (R315). -/
def references (k : Kf) : List (Nat × List Byte) :=
  (k.kps.zipIdx.filter (fun e => kpReliability e.1 != 0 && kpLandmark e.1 != 0xFFFFFFFF)).map (fun e => (e.2, kpDescriptor e.1))

/-! ### Verification (R316) -/

/-- What the hypothesise-and-verify block gives in PnP mode over matches: whether it reports MODEL, the inliers by index, and the camera
pose (3 × FP64, 4 × FP32) with its covariance (21 × FP32). -/
structure Verdict where
  model : Bool
  inliers : List Nat
  pose : List Byte
  cov : List Byte
  deriving DecidableEq, Repr

/-- The parameters of a verification: THR 3.0 px, P 0.999, H_MIN 64, H_MAX 512. -/
def verifyParam (cam : List F32) (seed minInliers : Nat) : HvParam :=
  { mode := 0, hMax := 512, hMin := 64, minInliers := minInliers, thr := 0x40400000, p := f32Of (999 / 1000), seed := BitVec.ofNat 32 seed, cam := cam }

/-- The block over correspondences of R561, with the pixels of a working pinhole. -/
def verifyPnp (cam : List F32) (recs : List (List Byte)) (seed minInliers : Nat) : Verdict :=
  let r := hvRun (verifyParam cam seed minInliers) recs
  let l := (r.inliers.map (fun i => recs.getD i [])).map (hvSight cam)
  { model := r.model, inliers := r.inliers, pose := (hvPose r.bytes).bytes32
    cov := match (if r.model then pnpCov l (hvPose r.bytes) else none) with
      | some m => f32Bytes (m.upper.map f32Of)
      | none => padTo 84 (Config.numeric 13 r.bytes) }

/-- A candidate verifies: MODEL, and inliers of at least a quarter of the matches (R316). -/
def Verdict.ok (v : Verdict) (matched minInliers : Nat) : Bool :=
  v.model && decide (minInliers ≤ v.inliers.length) && decide (matched ≤ 4 * v.inliers.length)

end Sys2Proof.Machine
end

