-- ==== Sys2Proof/Machine/MapCmds.lean ====
section
/-! DEFINITION. The map's versions and commits (R301 to R308), its jobs and locks (R307, R309, R489), and the 0x04xx commands with
the ends of their work. -/
namespace Sys2Proof.Machine

/-! ### Versions, readers and shadow space (R303, R304) -/

/-- The pins of readers: every instance, and every MAP_SAVE in progress. -/
def mapReaders (s : State) : List Nat :=
  s.core.chans.flatMap (fun c => c.insts.map (fun p => p.2.mapVersion)) ++
  s.core.hat.ctl.filterMap (fun c => match c.job with
    | some (.mapSave _ _ v) => some v
    | _ => none)

/-- A version lies before another, in u32 wrapping. -/
def versionBefore (v w : Nat) : Bool :=
  let d := (w + 2 ^ 32 - v % 2 ^ 32) % 2 ^ 32
  d != 0 && decide (d < 2 ^ 31)

/-- The contents that a reader with a pin sees. -/
def mapAt (s : State) (v : Nat) : MapData :=
  if v == s.core.map.pin then s.core.map.data else NMap.getD s.core.map.old v s.core.map.data

/-- Some reader pins a version in which a page was current (R304). -/
def ShadowPage.read (rs : List Nat) (e : ShadowPage) : Bool := rs.any (fun v => decide (e.wrote ≤ v) && decide (v < e.gone))
/-- Superseded pages that readers still need, of the shadow space. -/
def shadowUsed (s : State) : Nat := (s.core.map.shadow.filter (ShadowPage.read (mapReaders s))).length
/-- Pages of shadow space: one eighth of the region (R295). -/
def shadowPages (s : State) : Nat := s.core.map.region / 8 / 65536

/-- Page numbers of the map's parts as the model counts them: 1,024 poses and 2,048 landmarks to a page, payload pages of their
own for each keyframe. -/
def posePage (kf : Nat) : Nat := 4 * (kf / 1024)
def lmPage (lm : Nat) : Nat := 4 * (lm / 2048) + 1
def payloadPages (kf : Nat) (k : Kf) : List Nat := (List.range ((kfSize k + 65535) / 65536)).map (fun i => 4 * (16 * kf + i) + 2)
/-- A page of the mutable parts: a commit writes it afresh. -/
def pageMutable (p : Nat) : Bool := decide (p % 4 < 2)
/-- The pages of the mutable parts among changed pages. -/
def mutablePages (l : List Nat) : Nat := (l.filter pageMutable).length
/-- The pages that hold the mutable parts of contents. -/
def mutableOf (d : MapData) : List Nat := (d.kfs.map (fun p => posePage p.1) ++ d.lms.map (fun p => lmPage p.1)).eraseDups

/-- KIND of the status word (R308). -/
def wordKind (k : Nat) : Nat := k * 2 ^ 16

/-- MAP_VERSION (R102, R308). -/
def State.mapEvent (s : State) (word moved : Nat) : State :=
  s.event 0x0008 [leBytes 4 s.core.map.version.toNat ++ leBytes 4 word ++ leBytes 4 moved]

/-- The directory of the current root copy. -/
def MapSt.dir (m : MapSt) : NMap Nat := (m.roots.getD m.current {}).dir

/-- The directory of contents whose changed pages a commit writes afresh. -/
def MapSt.dirAfter (m : MapSt) (pin : Nat) (d : MapData) (changed : List Nat) : NMap Nat :=
  (mutableOf d).foldl (fun n p => NMap.set n p (if changed.contains p then pin else NMap.getD m.dir p pin)) []

/-- What a commit changes at its instant (R302 to R304): contents and pin; the contents that pinned readers keep; the new directory in the copy that
was not current, which becomes the current one; the pages superseded, with those before them that a reader still needs. -/
def MapSt.become (m : MapSt) (rs : List Nat) (pin : Nat) (d : MapData) (changed : List Nat) : MapSt :=
  let next := m.dirAfter pin d changed
  let gone := (m.dir.filter (fun e => NMap.get? next e.1 != some e.2)).map (fun e => ({ page := e.1, wrote := e.2, gone := pin } : ShadowPage))
  { m with
    data := d
    pin := pin
    roots := setAt m.roots (1 - m.current) { pin := pin, dir := next }
    current := 1 - m.current
    rootTorn := false
    old := (if rs.contains m.pin then NMap.set m.old m.pin m.data else m.old).filter (fun p => rs.contains p.1)
    shadow := (m.shadow ++ gone).filter (ShadowPage.read rs) }

/-- The granule of the current root copy: each copy has a page of the area of R397. -/
def rootGranule (s : State) : Option Nat :=
  (s.core.tiers.ranges.find? (fun r => r.use == 5)).map (fun r => 16 * (r.first + s.core.map.current))
/-- The locked sequence of three beats in which the current-copy selector is swapped, the CPC's own (R302, R423). -/
def State.lockRoot (s : State) : State := s.lockFor 49 3
/-- The next commit reads a torn root copy, finds TORN, and the root is restored from the other copy (R306, R427). -/
def State.restoreRoot (s : State) : State :=
  if s.core.map.rootTorn then
    match rootGranule s with
    | some g => (s.reachTorn g 49).repair g
    | none => s
  else s

/-- A commit (R302): a torn root copy is restored first, then the root is swapped under its lock. -/
def State.commitMap (s : State) (pin : Nat) (d : MapData) (changed : List Nat) : State :=
  let s := s.restoreRoot.lockRoot
  s.modMap (fun m => m.become (mapReaders s) pin d changed)

/-- A commit's effect at its instant, with the pages changed for the next delta batch, and one MAP_VERSION event. -/
def State.swapRootTo (s : State) (pin : Nat) (d : MapData) (changed : List Nat) (word moved : Nat) : State :=
  let v := s.core.map.version.toNat
  let s := (s.commitMap pin d changed).modMap (fun m =>
    { m with
      batchFrom := if m.dirty.isEmpty then v else m.batchFrom
      dirty := (m.dirty ++ changed).eraseDups })
  (s.traceRec 0x70 (bits word 19 16) (leBytes 4 s.core.map.version.toNat)).mapEvent word moved

/-- A commit of this device's own: the version advances by one (R302). -/
def State.swapRoot (s : State) (d : MapData) (changed : List Nat) (word moved : Nat) : State :=
  s.swapRootTo (s.core.map.pin + 1) d changed word moved

/-- The pin of the contents that a load or a catch-up brings, at a version. -/
def loadPin (m : MapSt) (version : Nat) : Nat := 2 ^ 32 * (m.pin / 2 ^ 32 + 1) + version % 2 ^ 32

/-- A commit whose owner faults inside the locked sequence is lost: the current root copy is torn, MAP_COMMIT_LOST counts it, and the
version does not advance (R306). -/
def State.loseCommit (s : State) : State :=
  let s := match rootGranule s with
    | some g => s.lockRoot.tear g 49
    | none => s.lockRoot
  (s.modMap (fun m => { m with rootTorn := true })).bump (mapCtr 5) 1

/-- The map's contents change as a whole (R298, R494): no session's keypoint stands for a map point any longer, nor has it observed a keyframe. -/
def State.forgetMap (s : State) : State :=
  s.modWork (fun w => { w with sess := w.sess.map (fun e =>
    (e.1, { e.2 with observed := [], ctx := { e.2.ctx with ties := e.2.ctx.ties.map (fun t => (t.1, { t.2 with point := none })) } })) })

/-! ### Jobs and locks -/

def jobOf (s : State) (j : Nat) : Option MapJob := NMap.get? s.core.map.jobs j
def State.modJob (s : State) (j : Nat) (f : MapJob → MapJob) : State := s.modMap (fun m => { m with jobs := NMap.upd m.jobs j f })

def disjoint (a b : List Nat) : Bool := a.all (fun t => !b.contains t)

/-- This device's own lock or request for a job (R489). -/
def ownLock (s : State) (j : Nat) (l : TileLock) : Bool := l.devid == s.core.sys.devid && l.job == j
def hasLock (s : State) (j : Nat) : Bool := s.core.link.locks.any (ownLock s j)

/-- The UP neighbours that reported a map that is not empty: port, version, DEVID (R495). -/
def mapHolders (s : State) : List (Nat × Nat × Nat) :=
  (List.range (nMirden s)).filterMap (fun p =>
    match (mpAt s p).hello with
    | some h => if (mpAt s p).state == .up && !h.mapEmpty then some (p, h.mapVersion, h.devid) else none
    | none => none)

/-- A keeper whose map is empty takes the map from a neighbour before it grants a lock or forms a batch (R495). -/
def mapOwed (s : State) : Bool :=
  isKeeper s && s.core.map.inService && s.core.map.data.kfs.isEmpty && s.core.map.data.lms.isEmpty && !(mapHolders s).isEmpty

/-- A request can stand beside locks: its tiles meet none of theirs, and its device holds no more locks than it has map channels; the reach of other
devices' map channels is the part's most (R489). -/
def grantable (s : State) (locks : List TileLock) (r : TileLock) : Bool :=
  locks.all (fun k => disjoint k.tiles r.tiles) &&
  decide ((locks.filter (fun k => k.devid == r.devid)).length <
    (if r.devid == s.core.sys.devid then max 1 (mapChans s).length else mapChMax s))
/-- The requests that the keeper grants now, in order of arrival (R307, R489). -/
def grantsNow (s : State) : List TileLock :=
  (s.core.link.requests.foldl (fun (b : List TileLock × List TileLock) r =>
    if grantable s (b.1 ++ b.2) r then (b.1, b.2 ++ [r]) else b) (s.core.link.locks, [])).2
/-- The first of them. -/
def nextGrant (s : State) : Option TileLock := (grantsNow s).head?

/-- The keeper grants a request: it becomes a lock. -/
def State.grant (s : State) (r : TileLock) : State :=
  s.modLink (fun l => { l with requests := l.requests.erase r, locks := l.locks ++ [r] })

/-- Releases a job's lock and withdraws its request; a device that is not the keeper tells the keeper. -/
def State.releaseLock (s : State) (j : Nat) : State :=
  let t := s.modLink (fun l => { l with requests := l.requests.filter (fun r => !ownLock s j r), locks := l.locks.filter (fun r => !ownLock s j r) })
  if isKeeper s then t else t.sendUp 3 (ctlObject .lockRelease [s.core.sys.devid, j] [])

/-- Forms a map job: it enters its channel's queue and asks for its lock (R307, R309, R489). -/
def State.formJob (s : State) (g : Nat) (x : MapJob) : State × Nat :=
  let j := s.core.map.nextJob
  let s := s.modMap (fun m => { m with jobs := NMap.set m.jobs j x, nextJob := j + 1 })
  let s := s.enqueue x.chan { slot := g, origin := .mapJob j, ctx := 0, sid := none, arrival := dtOf s, deadline := x.deadline }
  let l : TileLock := { devid := s.core.sys.devid, job := j, tiles := x.tiles }
  let s :=
    if isKeeper s then s.modLink (fun k => { k with requests := k.requests ++ [l] })
    else s.sendUp 3 (ctlObject .lockRequest [l.devid, j] l.tiles)
  (s, j)

/-- Jobs of a kind queued or running on a channel. -/
def jobsOn (s : State) (ch kind : Nat) : Nat :=
  (s.core.map.jobs.filter (fun p => p.2.chan == ch && p.2.kind == kind && decide (p.2.phase < 2))).length

/-- A job leaves the channel: its waiting work and its instances go. -/
def State.stopJob (s : State) (j : Nat) : State :=
  let s := s.modChans (fun l => l.map (fun c => { c with queue := c.queue.filter (fun w => w.origin != .mapJob j) }))
  (instsWith s (fun i => i.origin == .mapJob j)).foldl (fun s p => s.dropInst p.1 p.2) s

/-- A job ends: a MAP_OPTIMISE keeps its figures for the final response, a closure is forgotten; the lock goes. -/
def State.endJob (s : State) (j : Nat) (f : MapJob → MapJob) : State :=
  let s := (s.stopJob j).releaseLock j
  match jobOf s j with
  | none => s
  | some x =>
    if x.hatch.isSome then s.modJob j (fun x => { f x with phase := 4 })
    else s.modMap (fun m => { m with jobs := NMap.erase m.jobs j })

/-- Sets a bit of a job's status word (R308). -/
def MapJob.mark (x : MapJob) (b : Nat) : MapJob := { x with word := x.word ||| 2 ^ b }

/-- A job ended by MAP_LOAD or by its channel's failure (R308, ABANDONED). -/
def State.abandonJob (s : State) (j : Nat) : State := s.endJob j (fun x => { x.mark 8 with status := 0 })

/-- The final response of MAP_OPTIMISE (R238, R308). -/
def optimiseResponse (x : MapJob) : List Byte :=
  leBytes 2 x.iters ++ leBytes 2 0 ++ leBytes 4 (x.word ||| wordKind x.kind) ++ leBytes 8 x.norm.toNat

/-- An ended MAP_OPTIMISE places its final response. -/
def State.answerJob (s : State) (j : Nat) : State :=
  match jobOf s j with
  | some x => match x.hatch with
    | some h => (s.modMap (fun m => { m with jobs := NMap.erase m.jobs j })).place h x.status (optimiseResponse x)
    | none => s
  | none => s

/-- What a solved job changes (R324, R326): new poses; the landmarks that are its POINTs at their solved positions, those anchored
to a moved keyframe with their anchor; the tiles follow the positions. -/
def jobMoved (d : MapData) (x : MapJob) : NMap Kf :=
  (liveKfs d).filter (fun p => match NMap.get? x.poses p.1 with
    | some b => b != f64Bytes p.2.pos ++ f32Bytes p.2.quat
    | none => false)

def applyJob (d : MapData) (x : MapJob) : MapData :=
  let moved := jobMoved d x
  { d with
    kfs := d.kfs.map (fun p => match NMap.get? x.poses p.1 with
      | some b => (p.1, { p.2 with pos := f64sAt b 0 3, quat := f32sAt b 24 4 })
      | none => p)
    lms := d.lms.map (fun p =>
      match NMap.get? x.points p.1 with
      | some b => (p.1, { p.2 with pos := f64sAt b 0 3 })
      | none => match NMap.get? moved p.2.anchor with
        | some k =>
          let t := ((poseAt32 (NMap.getD x.poses p.2.anchor []) 0).mul (poseOf k.pos k.quat).inv).app (v3Of (p.2.pos.map f64Val))
          (p.1, { p.2 with pos := t.f64s })
        | none => p) }

/-- The landmarks whose position differs between two contents. -/
def movedLms (d e : MapData) : List Nat := (d.lms.filter (fun p => match NMap.get? e.lms p.1 with
  | some l => l.pos != p.2.pos
  | none => true)).map (·.1)

/-- The corrections a commit gives its moved keyframes: ΔT = T′·T⁻¹ (R325). -/
def corrections (version : Nat) (moved : NMap Kf) (x : MapJob) : List Corr :=
  moved.map (fun p =>
    let b := NMap.getD x.poses p.1 []
    { version := version, kf := p.1, pos := f64sAt b 0 3,
      delta := f64sAt ((poseAt32 b 0).mul (poseOf p.2.pos p.2.quat).inv).bytes64 0 7 })

/-- The pages a job's commit writes. -/
def jobPages (d : MapData) (x : MapJob) : List Nat :=
  ((jobMoved d x).map (fun p => posePage p.1) ++ (movedLms d (applyJob d x)).map lmPage).eraseDups

/-- Commits a solved job, unless it moves nothing, or waits for shadow space (R304), or loses the commit (R306). On a device that is
not the keeper the records go up and the job waits for the acknowledgement (R491). -/
def State.commitJob (s : State) (j : Nat) (ownerFaults : Bool) : State :=
  match jobOf s j with
  | none => s
  | some x =>
    let d := s.core.map.data
    let moved := jobMoved d x
    let pages := jobPages d x
    if x.poses.isEmpty then s.endJob j id
    else if !isKeeper s then
      (s.modJob j (fun x => { x with phase := 3, moved := moved.length })).sendUp 2
        (Config.numeric 35 (leBytes 1 s.core.sys.devid ++ leBytes 4 j ++ leBytes 4 x.word ++ x.poses.flatMap (fun p => leBytes 4 p.1 ++ p.2) ++
          x.points.flatMap (fun p => leBytes 4 p.1 ++ p.2)))
    else if shadowPages s < shadowUsed s + mutablePages pages then
      if x.waited then s else (s.modJob j (fun x => { x with waited := true })).bump (mapCtr 4) 1
    else if ownerFaults then s.loseCommit.endJob j (fun x => x.mark 9)
    else
      let cs := corrections (s.core.map.version + 1).toNat moved x
      let word := x.word ||| 2 ^ 6 ||| wordKind x.kind
      let s := s.swapRoot (applyJob d x) pages word moved.length
      let s := s.modMap (fun m => { m with
        corrections := m.corrections ++ cs
        inserts := if x.kind == 1 then m.inserts.filter (fun p => !x.tiles.contains p.1) else m.inserts })
      let s := if x.kind == 2 then s.bump (mapCtr 11) 1 else s
      s.endJob j (fun x => { x.mark 6 with moved := moved.length })

/-! ### MAP_LOAD (R298) -/

/-- The map goes out of service: jobs are abandoned, parcels, searches, relocalisations and uploads in flight are discarded. -/
def State.beginLoad (s : State) : State :=
  let jobs := s.core.map.jobs.map (·.1)
  let far := (s.core.link.locks ++ s.core.link.requests).filter (fun l => l.devid != s.core.sys.devid)
  let s := if isKeeper s then far.foldl (fun s l => s.sendDown 3 (ctlObject .lockRelease [l.devid, l.job] [])) s else s
  let s := jobs.foldl (fun s j => if (match jobOf s j with | some x => x.phase != 4 | none => false) then (s.abandonJob j).answerJob j else s) s
  let s := (s.modMap (fun m => { m with inService := false, parcels := [], search := [] })).forgetMap
  let s := s.loseRequests (fun _ => true)
  s.modLink (fun l =>
    { l with
      locks := [], requests := [], joining := none
      ports := l.ports.map (fun m => { m with rx := m.rx.filter (fun o => o.2.1 != 2) }) })

def mapLoadBody (d : Dma) (r : Req) (s : State) : State :=
  s.guarded r.h [need (isKeeper s) 0x15] (fun s =>
    s.withDma r.h (r.u64 0) 256 d 0xFFFF (fun head s =>
      if mapHeaderOk head (r.u64 8) && mapFits s head then
        s.beginLoad.accept r.h (.mapLoad (r.u64 0) (r.u64 8) (r.u32 16))
      else s.place r.h 0x11))
def execMapLoad (hatch : Nat) (data : List Byte) (s : State) : Host.Outcome State Fault Refusal :=
  .next (serve 0x0401 hatch (mapLoadBody (.ok data)) s)

/-- The map a neighbour reported in its hello is no longer the one to take (R495). -/
def MpPort.spend (m : MpPort) : MpPort := { m with hello := m.hello.map (fun h => { h with mapEmpty := true }) }

/-- Every child takes part in a catch-up. -/
def childJoiners (s : State) : List Joiner :=
  (childPorts s).map (fun p => { port := p, dev := ((mpAt s p).hello.map (·.devid)).getD 0, since := none })

/-- The end of a load (R298, R301): the loaded or the emptied map with the request's version, one event; after a load every open
session becomes PROVISIONAL. -/
def State.endLoad (s : State) (hatch version : Nat) (d : Option MapData) : State :=
  let e := d.getD {}
  let s := (s.commitMap (loadPin s.core.map version) e (mutableOf e)).forgetMap
  let s := s.modMap (fun m => { m with corrections := [], inserts := [], dirty := [], lastOf := [], batchFrom := version % 2 ^ 32 })
  let s := s.modLink (fun l => { l with log := [], waitObj := [], catchUp := childJoiners s, ports := l.ports.map MpPort.spend })
  let s := if d.isSome then s.provisionalAll (fun _ _ => true) else s
  let s := s.place hatch (if d.isSome then 0x00 else 0x30)
  let busy := !(hatchesWith s (fun j => match j with | .mapLoad _ _ _ => true | _ => false)).isEmpty
  (s.modMap (fun m => { m with inService := !busy })).mapEvent (2 ^ 6 ||| wordKind 4) 0

/-- The work of MAP_LOAD ends with what the DMA read gave. -/
def State.mapLoadEnds (s : State) (hatch : Nat) (d : Dma) : State :=
  match jobAt s hatch with
  | some (.mapLoad addr len version) =>
    let s := s.emit (.dmaRead addr len)
    (match d with
     | .failed p => (s.dmaFault p).endLoad hatch version none
     | .ok data =>
       let img := padTo len data
       s.endLoad hatch version (if mapDigestOk img then mapOfImage img else none))
  | _ => s
def execMapLoadDone (hatch : Nat) (data : List Byte) (s : State) : Host.Outcome State Fault Refusal :=
  .next (if running s then s.mapLoadEnds hatch (.ok data) else s)

/-! ### MAP_SAVE, MAP_INFO, MAP_ORIGIN_SET -/

def mapSaveBody (r : Req) (s : State) : State :=
  s.guarded r.h [need (decide (imageLen s.core.map.data ≤ r.u64 8)) 0x11] (fun s =>
    s.accept r.h (.mapSave (r.u64 0) (r.u64 8) s.core.map.pin))
def execMapSave (hatch : Nat) (s : State) : Host.Outcome State Fault Refusal :=
  .next (serve 0x0402 hatch mapSaveBody s)

def execMapSaveDone (hatch : Nat) (s : State) : Host.Outcome State Fault Refusal :=
  .next (match jobAt s hatch with
    | some (.mapSave addr _ v) =>
      let img := mapImage (mapAt s v) v
      (s.dma addr img).place hatch 0x00 (leBytes 8 img.length ++ leBytes 4 v)
    | _ => s)

def mapInfoBody (r : Req) (s : State) : State :=
  let d := s.core.map.data
  s.place r.h 0x00 (leBytes 4 s.core.map.version.toNat ++ leBytes 4 (mapTiles d).length ++ leBytes 4 (liveKfs d).length ++
    leBytes 4 0 ++ leBytes 8 (liveLms d).length ++ leBytes 8 (imageLen d))
def execMapInfo (hatch : Nat) (s : State) : Host.Outcome State Fault Refusal :=
  .next (serve 0x0403 hatch mapInfoBody s)

/-- The checks of R291 on an origin. -/
def originStatus (s : State) (lat lon : Int) : Nat :=
  if originOk lat lon && (liveKfs s.core.map.data).isEmpty then 0x00 else 0x11

/-- The origin takes effect on the keeper (R290, R291). -/
def State.setOrigin (s : State) (lat lon height : Int) : State :=
  let s := s.modMap (fun m => { m with data := { m.data with lat := lat, lon := lon, height := height, frame := mapFrame lat lon height } })
  s.modLink (fun l => { l with resend := (l.resend ++ [3]).eraseDups })

/-- MAP_ORIGIN_SET; a device that is not the keeper sends it to the keeper, and its response waits for the status (R488). -/
def mapOriginSetBody (r : Req) (s : State) : State :=
  let lat := intAt r.payload 0 8
  let lon := intAt r.payload 8 8
  let height := intAt r.payload 16 4
  s.guarded r.h [need s.core.work.sess.isEmpty 0x13] (fun s =>
    if isKeeper s then
      let st := originStatus s lat lon
      (if st == 0 then s.setOrigin lat lon height else s).place r.h st
    else
      (s.modCtl r.h (fun c => { c with job := some (.mapOrigin (r.payload.take 20)) })).sendUp 3
        (ctlObject .originRequest [s.core.sys.devid, r.h] [] (r.payload.take 20)))
def execMapOriginSet (hatch : Nat) (s : State) : Host.Outcome State Fault Refusal :=
  .next (serve 0x0404 hatch mapOriginSetBody s)

/-! ### MAP_OPTIMISE (R326) -/

/-- Landmarks of a set of tiles observed by two or more keyframes: the POINTs. -/
def regionPoints (d : MapData) (tiles : List Nat) : List Nat :=
  ((liveLms d).filter (fun p => decide (2 ≤ p.2.obs) && (match tileOf p.2.pos with
    | some t => tiles.contains t
    | none => false))).map (·.1)
def regionKfs (d : MapData) (tiles : List Nat) : List Nat :=
  ((liveKfs d).filter (fun p => match tileOf p.2.pos with
    | some t => tiles.contains t
    | none => false)).map (·.1)

/-- Factors of the job of a region: observations, successions and the prior. -/
def regionFactors (d : MapData) (kfs pts : List Nat) : Nat :=
  ((kfs.map (fun k => match NMap.get? d.kfs k with
    | some x => ((kfLandmarks x).filter (pts.contains ·)).length + b2n (kfs.contains x.prev)
    | none => 0)).foldl (· + ·) 0) + 1

/-- Rings of tiles around the seed, stopping before one that would bring the job above R326's bounds. -/
def growRegion (d : MapData) (seed : Nat) : Nat → Nat → List Nat → List Nat
  | 0, _, tiles => tiles
  | n + 1, ring, tiles =>
    let next := tilesAround seed ring
    let kfs := regionKfs d next
    let pts := regionPoints d next
    if decide (kfs.length ≤ 4096) && decide (kfs.length + pts.length ≤ 65536) && decide (regionFactors d kfs pts ≤ 1048576) then
      growRegion d seed n (ring + 1) next
    else tiles

/-- The seed tile: most insertions since its last optimisation, the lower index on a tie. -/
def seedTile (s : State) : Nat :=
  (s.core.map.inserts.foldl (fun b p => match b with
    | none => some p
    | some q => if q.2 < p.2 then some p else some q) (none : Option (Nat × Nat))).elim 0 (·.1)

/-- The tiles that hold a keyframe or landmark the job may change (R307). -/
def jobTiles (d : MapData) (kfs pts : List Nat) : List Nat :=
  (kfs.filterMap (fun k => (NMap.get? d.kfs k).bind (fun x => tileOf x.pos)) ++
   pts.filterMap (fun l => (NMap.get? d.lms l).bind (fun x => tileOf x.pos)) ++
   (liveLms d).filterMap (fun p => if kfs.contains p.2.anchor then tileOf p.2.pos else none)).eraseDups

/-- The job of MAP_OPTIMISE on a channel. -/
def optimiseJob (s : State) (h ch cap deadline : Nat) : MapJob :=
  let d := s.core.map.data
  let tiles := growRegion d (seedTile s) 256 0 []
  let kfs := regionKfs d tiles
  let pts := regionPoints d tiles
  { kind := 1, hatch := some h, chan := ch, deadline := deadline, cap := cap, tiles := jobTiles d kfs pts, kfs := kfs, pts := pts }

/-- MAP_OPTIMISE; one that is taken while MAP_LOAD holds the map out of service ends as that load ends the jobs it finds, ABANDONED (DESIGN CHOICE, log
row 145). -/
def mapOptimiseBody (r : Req) (s : State) : State :=
  let c := r.u8 0
  let pick := if c == 255 then minBy (fun n => ((chanAt s n).queue).length) (mapChans s) else some c
  let ch := pick.getD 0
  s.guarded r.h
    [if c == 255 then none else channelCheck s c,
     need ((mapChans s).contains ch && (mapGraphSlot s).isSome) 0x11,
     need (decide (jobsOn s ch 1 < 8)) 0x13]
    (fun s =>
      let j := s.core.map.nextJob
      let x := optimiseJob s r.h ch (r.u16 2) (r.u64 8)
      let s := ((s.accept r.h (.mapOptimise j)).formJob ((mapGraphSlot s).getD 0) x).1
      if s.core.map.inService then s else s.abandonJob j)
def execMapOptimise (hatch : Nat) (s : State) : Host.Outcome State Fault Refusal :=
  .next (serve 0x0405 hatch mapOptimiseBody s)

/-- The job has ended, or its deadline passed before its lock came (R490): the final response. -/
def execMapOptimiseDone (hatch : Nat) (s : State) : Host.Outcome State Fault Refusal :=
  .next (match jobAt s hatch with
    | some (.mapOptimise j) =>
      (match jobOf s j with
       | some x =>
         if x.phase == 4 then s.answerJob j
         else if x.phase == 0 && decide (x.deadline < dtOf s) && !hasLock s j then
           (s.endJob j (fun x => { x.mark 4 with status := 0x20, iters := 0 })).answerJob j
         else s
       | none => s)
    | _ => s)

end Sys2Proof.Machine
end

