-- ==== Sys2Proof/Machine/Recover.lean ====
section
/-! DEFINITION. What an error in memory does (R406 to R410, R427, R441, R442): corrected and uncorrectable errors, poisoned pages and
what their owners do, integrity events, and the checks of a read. -/
namespace Sys2Proof.Machine

/-! ### Frames and pages -/

/-- The page that lies in a frame. -/
def pageOfFrame (s : State) (near : Bool) (f : Nat) : Option Nat :=
  match s.core.tiers.pages.find? (fun e => e.2.near == near && e.2.frame == f) with
  | some e => some e.1
  | none => s.core.tiers.ranges.findSome? (fun r =>
      let p := r.first + (f - r.frame)
      if r.near == near && decide (r.frame ≤ f) && decide (f < r.frame + r.count) && !NMap.has s.core.tiers.pages p then some p else none)

/-- Gives a page a fresh frame of a tier and frees the old one, the entry swapped under the migration engine's lock (R403, R423);
unchanged when the tier has none. -/
def State.moveFrame (s : State) (p : Nat) (near : Bool) : State :=
  match pageAt s p with
  | none => s
  | some x => match takeFrame s near with
    | none => s
    | some (f, s) => ((s.setPage p { x with near := near, frame := f }).freeFrame x.near x.frame).lockFor 51 1

/-- The owner rewrites a whole page: the mark clears and the page stands in a fresh frame (R408). -/
def State.rewritePage (s : State) (p : Nat) : State :=
  match pageAt s p with
  | none => s
  | some x =>
    let near := x.near || s.core.tiers.cellar == 0
    match takeFrame s near with
    | none => s
    | some (f, s) => (s.setPage p { x with near := near, frame := f, poison := false }).freeFrame x.near x.frame

/-! ### Owners (R409, R193, R172) -/

/-- An object has data on one of the pages. -/
def onPages (use obj : Nat) (ps : List Nat) : Bool := ps.any (Config.objectOn use obj)

/-- A session is restored from its latest checkpoint: its items in flight end with POISONED (R172, R409). -/
def State.restoreSession (s : State) (sid : Nat) : State :=
  let s := (sessInsts s sid).foldl (fun s p => (s.endEarly p.1 p.2 0x22).modInst p.1 p.2 (fun y => { y with work := none, corr := none })) s
  s.modSess sid (fun x => x.restored.toProvisional)

/-- A weight page of a crate is poisoned: the stalled steps that need a tile of it end with POISONED, the slot wants a reload; a step that runs finds
the page when it needs it (R193). -/
def State.poisonCrate (s : State) (n page : Nat) : State :=
  let i := ((crateAt s n).map (fun c => c.pages.idxOf page)).getD 0
  let stalled := (List.range 8).filter (fun ch =>
    let e := (chanAt s ch).engines.getD 2 {}
    e.stall.isSome && e.ta.todo.any (fun t => t.onPage i) && (match runningStep s ch 2 with
      | some (_, _, _, _, t) => t.crate == n
      | none => false))
  (stalled.foldl (fun s ch => s.breakStep ch 2 0x22) s).cratePoisoned n page

/-- Checkpoint slots on the pages are invalid. -/
def State.loseCkpts (s : State) (ps : List Nat) : State :=
  s.modWork (fun w => { w with sess := w.sess.map (fun e =>
    (e.1, { e.2 with ckpts := e.2.ckpts.zipIdx.map (fun c => if onPages 3 (2 * e.1 + c.2) ps then none else c.1) })) })

/-- Keyframes and landmarks on the pages are lost: a commit records it on the keeper; elsewhere the keeper is asked for the
page (R409, R496). -/
def State.loseMapPages (s : State) (ps : List Nat) : State :=
  let d := s.core.map.data
  let kfs := (d.kfs.filter (fun e => !e.2.lost && onPages 4 (2 * e.1) ps)).map (·.1)
  let lms := (d.lms.filter (fun e => !e.2.lost && onPages 4 (2 * e.1 + 1) ps)).map (·.1)
  let d' := { d with
    kfs := d.kfs.map (fun e => (e.1, if kfs.contains e.1 then { e.2 with lost := true } else e.2))
    lms := d.lms.map (fun e => (e.1, if lms.contains e.1 then { e.2 with lost := true } else e.2)) }
  let s := if isKeeper s then s else
    (s.modLink (fun l => { l with resend := (l.resend ++ ps).eraseDups })).sendUp 3 (ctlObject .pageRequest [s.core.sys.devid] [] (ps.flatMap (leBytes 8)))
  if kfs.isEmpty && lms.isEmpty then s
  else
    let s := s.bump (mapCtr 14) kfs.length
    if isKeeper s then s.swapRoot d' ((kfs.map posePage ++ lms.map lmPage).eraseDups) 64 0
    else s.modMap (fun m => { m with data := d' })

/-- Grid patches on the pages are emptied. -/
def State.losePatches (s : State) (ps : List Nat) : State :=
  let hit := (s.core.fus.patches.filter (fun e => onPages 6 e.1 ps)).map (·.1)
  (s.modFus (fun f => { f with patches := f.patches.map (fun e => (e.1, if hit.contains e.1 then { e.2 with cells := [] } else e.2)) })).bump
    (devCtr 3) hit.length

/-- Track tables on the pages are emptied. -/
def State.loseTracks (s : State) (ps : List Nat) : State :=
  let hit := (s.core.fus.tracks.filter (fun e => onPages 7 e.1 ps)).map (·.1)
  (s.modFus (fun f => { f with tracks := f.tracks.filter (fun e => !hit.contains e.1) })).bump (devCtr 4) hit.length

/-- Radio queues on the pages lose their entries. -/
def State.loseRadio (s : State) (ps : List Nat) : State :=
  (s.core.work.sess.filter (fun e => onPages 8 e.1 ps)).foldl (fun s e =>
    (s.modSess e.1 (fun x => { x with radioQ := [] })).bump (chanCtr e.2.chan 27) e.2.radioQ.length) s

/-- Copies of graph images on the pages are lost: the graphs' instances end with POISONED. -/
def State.loseCopies (s : State) (ps : List Nat) : State :=
  let hit := (s.core.work.graphs.filter (fun e => onPages 9 (e.1 % 64) ps)).map (·.1)
  let s := s.modWork (fun w => { w with graphs := w.graphs.map (fun e => (e.1, if hit.contains e.1 then { e.2 with copyLost := true } else e.2)) })
  hit.foldl (fun s k => ((chanAt s (k / 64)).insts.filter (fun e => e.2.slot == k % 64)).foldl (fun s e => s.endEarly (k / 64) e.1 0x22) s) s

/-- Tensor scratch on the pages: the instance that reads it ends. -/
def State.loseScratch (s : State) (ps : List Nat) : State :=
  (List.range 8).foldl (fun s ch => if onPages 10 ch ps then s.breakStep ch 2 0x22 else s) s

/-- Firmware's own state is damaged: the fault stands in the start log, the commands in hand end with FIRMWARE_FAULT, and a core
reset follows. -/
def State.firmwareFault (s : State) : State :=
  let s := (hatchesWith s (fun _ => true)).foldl (fun s h => s.place h 0x3F) s
  let s := s.modSys (fun y => { y with recoveryAt := some (dtOf s), record := { y.record with final := 2 } })
  s.modLoft (fun l => { l with log := setAt l.log 0 s.core.sys.record })

/-- What the owners of poisoned pages do, by what they hold (R409). -/
def State.ownersAct (s : State) (use obj : Nat) (ps : List Nat) : State :=
  if use == 1 then s.poisonCrate obj (ps.headD 0)
  else if use == 2 || use == 12 then
    ((s.core.work.sess.filter (fun e => onPages use e.1 ps)).map (·.1)).foldl State.restoreSession s
  else if use == 3 then s.loseCkpts ps
  else if use == 4 then s.loseMapPages ps
  else if use == 6 then s.losePatches ps
  else if use == 7 then s.loseTracks ps
  else if use == 8 then s.loseRadio ps
  else if use == 9 then s.loseCopies ps
  else if use == 10 then s.loseScratch ps
  else if use == 11 then s.firmwareFault
  else s

/-- Whether the owner rewrites a poisoned page at once: all but crates, map pages that the keeper resends, and lost copies. -/
def rewrites (s : State) (use : Nat) : Bool :=
  use == 2 || use == 3 || use == 5 || use == 6 || use == 7 || use == 8 || use == 10 || use == 12 || (use == 4 && isKeeper s)

/-- A page is poisoned, counted once, and its owner acts. -/
def State.poisonPage (s : State) (p : Nat) : State :=
  match pageAt s p with
  | none => s
  | some x =>
    let s := if x.poison then s else (s.setPage p { x with poison := true }).bump (tierCtr 6) 1
    let s := s.ownersAct x.use x.obj [p]
    if rewrites s x.use then s.rewritePage p else s

/-! ### ECC (R406 to R408) -/

/-- Corrections in a frame (R406, R407): counted; at 16 within 24 hours the frame's page moves and the frame is retired. -/
def State.corrected (s : State) (near : Bool) (f n : Nat) : State :=
  let now := dtOf s
  let k := frameKey near f
  let s := s.bump (tierCtr (if near then 4 else 5)) n
  let times := (NMap.getD s.core.tiers.ce k []).filter (fun t => decide (now < t + 86400000000000)) ++ List.replicate n now
  let s := s.modTiers (fun t => { t with ce := NMap.set t.ce k times })
  if decide (16 ≤ times.length) && !s.core.tiers.retired.contains k then
    let s := s.retireFrame near f
    match pageOfFrame s near f with
    | some p => s.moveFrame p near
    | none => s
  else s

/-- An uncorrectable error in a frame, found by a requester (R408): the bit of ERR_MEM, the frame retired, the page poisoned. -/
def State.uncorrectable (s : State) (near : Bool) (f req : Nat) : State :=
  match pageOfFrame s near f with
  | some p => ((s.err1 0 0 req 0xFFFF p).retireFrame near f).poisonPage p
  | none => (s.err1 0 0 req).retireFrame near f

/-! ### Integrity (R441, R442) -/

/-- A context begins to end, as CONTEXT_DESTROY ends it (R457): its sessions close. -/
def State.beginDestroy (s : State) (ctx : Nat) : State :=
  let s := s.modSec (fun c => { c with contexts := NMap.upd c.contexts ctx (fun t => { t with dying := true, scrubbed := false }) })
  ((s.core.work.sess.filter (fun e => e.2.owner == ctx && e.2.state != .closing)).map (·.1)).foldl State.beginClose s

/-- An integrity event on pages (R442): counted, its bit of ERR_SEC, the pages poisoned; in confidential mode the tenant contexts on
them end. -/
def State.integrityEvent (s : State) (stale : Bool) (ps : List Nat) : State :=
  let tenants := (ps.flatMap (pageTenants s)).eraseDups
  let s := (s.bump (secCtr 0) 1).err1 3 (if stale then 1 else 0) 255 0xFFFF (ps.headD 0xFFFFFFFF)
  let s := ps.foldl State.poisonPage s
  if s.core.sys.conf then tenants.foldl State.beginDestroy s else s

/-- How a read ends (R441, R427). -/
inductive ReadEnd where
  | data | poisoned | stale | integrity | torn
  deriving DecidableEq, Repr

/-- The pages of cellar frames under one level-2 counter line (R439, R442). -/
def level2Pages (s : State) (f : Nat) : List Nat := (List.range 32).filterMap (fun i => pageOfFrame s false (f / 32 * 32 + i))

/-- Whether a page's generation is live (R443, R445). An area's pages are written under a live generation whenever their content
changes owner. -/
def genLive (s : State) (p : Nat) (x : Page) : Bool :=
  x.secret || (areaOf s p).isSome || (match NMap.get? s.core.sec.contexts x.ctx with
    | some t => x.gen == t.gen || (t.prevLive && x.gen % 255 + 1 == t.gen)
    | none => false)

/-- A read of a unified address by a requester, with what the fault codes find (R441): the checks in order. -/
def State.readUnified (s : State) (req addr : Nat) (finding : ReadFinding) : ReadEnd × State :=
  let p := addr / 65536
  let granule := addr / 4096
  match pageAt s p with
  | none => match NMap.get? s.core.tiers.freed p with
    | some x => if genLive s p x then (.data, s) else (.stale, s.integrityEvent true [p])
    | none => (.data, s)
  | some x =>
    let bad (s : State) : ReadEnd × State :=
      if x.poison then (.poisoned, s)
      else if !genLive s p x then (.stale, s.integrityEvent true [p])
      else match finding with
        | .badLeafLine => if x.near then (.data, s) else (.integrity, s.integrityEvent false [p])
        | .badLevel2Line => if x.near then (.data, s) else (.integrity, s.integrityEvent false (level2Pages s x.frame))
        | .badTag => if x.use == 10 then (.data, s) else (.integrity, s.integrityEvent false [p])
        | _ => (.data, s)
    if NMap.has s.core.tiers.torn granule then (.torn, s.reachTorn granule req)
    else match finding with
      | .uncorrectable => (.poisoned, s.uncorrectable x.near x.frame req)
      | .corrected n => bad (s.corrected x.near x.frame n)
      | _ => bad s

/-- A channel's engine whose read did not bring its data: the step it runs ends with the status of that end (R18, R427, R441). -/
def State.readEnds (s : State) (id : Nat) (e : ReadEnd) : State :=
  let st := match e with
    | .data => 0x00
    | .torn => 0x21
    | .poisoned => 0x22
    | .stale => 0x23
    | .integrity => 0x30
  let ch := id / 6
  let eng (n : Nat) : Bool := ((chanAt s ch).engines.getD n {}).run.isSome
  let n := if id % 6 ≤ 1 then 2 else if id % 6 == 2 then (if eng 0 then 0 else 1) else if id % 6 == 3 then 3 else 4
  if e == .data || decide (48 ≤ id) || id % 6 == 5 then s else s.breakStep ch n st

/-! ### Tears (R427) -/

/-- Firmware repairs a torn granule by what it holds. A page-table entry is repaired by the migration engine's journal: the page
stays in its old frame. -/
def State.repairTorn (s : State) (granule : Nat) : State :=
  let p := granule / 16
  let s := s.repair granule
  match pageAt s p with
  | none => s
  | some x =>
    if x.use == 2 || x.use == 12 then
      ((s.core.work.sess.filter (fun e => Config.objectOn x.use e.1 p && (x.use == 12 || granule % 16 == contextGranule e.1))).map (·.1)).foldl
        State.restoreSession s
    else if x.use == 5 then s.modMap (fun m => { m with rootTorn := false })
    else if x.use == 11 then s
    else s.poisonPage p

/-! ### The cellar leaves service (R410) -/

/-- Pages that lie in the cellar, by area and one by one. -/
def farPages (s : State) : List Nat :=
  (s.core.tiers.ranges.filter (fun r => !r.near)).flatMap (fun r =>
    ((List.range r.count).map (· + r.first)).filter (fun p => !NMap.has s.core.tiers.pages p)) ++
  (s.core.tiers.pages.filter (fun e => !e.2.near)).map (·.1)

/-- The accesses at the cellar's arbiters end (R410): what waits completes with POISONED, what is granted or locked there ends. -/
def State.dropFarAccesses (s : State) : State :=
  let far := s.core.fab.arbs.drop (nControllers s true)
  let reads := (far.flatMap (fun a => a.waiting)).filter (fun w => match w.what with
    | .burst _ _ write _ => !write
    | .lock _ _ => false)
  let lockers := far.filterMap (fun a => a.lock.map (·.1))
  let s := s.modFab (fun b => { b with
    arbs := b.arbs.zipIdx.map (fun p => if p.2 < nControllers s true then p.1 else { p.1 with waiting := [], burst := none, lock := none }) })
  let s := lockers.foldl (fun s id => s.modStat id (fun r => { r with lockHeld := false })) s
  let s := s.modTiers (fun t => { t with retrain := t.retrain.filter (fun e => e.1 % 2 == 0) })
  reads.foldl (fun s w => s.readEnds w.req .poisoned) s

/-- The cellar fails: every page in it is poisoned and its owner acts; the map region is released; the failure stays in the log. -/
def State.cellarFails (s : State) : State :=
  let ps := farPages s
  let uses := (ps.filterMap (fun p => (pageAt s p).map (fun x => (x.use, x.obj)))).eraseDups
  let fresh := ps.filter (fun p => match pageAt s p with | some x => !x.poison | none => false)
  let s := (s.err1 0 1).dropFarAccesses
  let s := s.modTiers (fun t =>
    { t with
      cellar := 0
      ranges := t.ranges.map (fun r => if r.near then r else { r with poison := true })
      pages := t.pages.map (fun e => (e.1, if e.2.near then e.2 else { e.2 with poison := true })) })
  let s := s.bump (tierCtr 6) fresh.length
  let s := uses.foldl (fun s u =>
    s.ownersAct u.1 u.2 (ps.filter (fun p => match pageAt s p with | some x => x.use == u.1 && x.obj == u.2 | none => false))) s
  let s := s.modMap (fun m => { m with region := 0 })
  let s := s.modSys (fun y => { y with record := { y.record with outcome := setAt y.record.outcome 4 1, reason := setAt y.record.reason 4 3 } })
  s.modLoft (fun l => { l with log := setAt l.log 0 s.core.sys.record, remedies := { l.remedies with cellarSkip := true } })

/-- The store room fails: a core reset follows, and the next start retrains it with conservative timing (R410). -/
def State.storeFails (s : State) : State :=
  (s.modLoft (fun l => { l with remedies := { l.remedies with storeConservative := true } })).firmwareFault

end Sys2Proof.Machine
end

