-- ==== Sys2Proof/Machine/TierEvents.lean ====
section
/-! DEFINITION. BAR2 (R398), the migration engine (R399 to R403), heat (R401), the patrol scrub (R407), late accesses (R404) and the
retraining of a controller (R410). -/
namespace Sys2Proof.Machine

/-! ### BAR2 (R398) -/

/-- An object of a page's use has data on it: the areas' inner layouts are open. -/
def pageHolds (s : State) (p : Nat) (x : Page) : Bool :=
  match x.use with
  | 4 => s.core.map.data.kfs.any (fun e => Config.objectOn 4 (2 * e.1) p) || s.core.map.data.lms.any (fun e => Config.objectOn 4 (2 * e.1 + 1) p)
  | 6 => s.core.fus.patches.any (fun e => Config.objectOn 6 e.1 p)
  | 7 => s.core.fus.tracks.any (fun e => Config.objectOn 7 e.1 p)
  | 9 => s.core.work.graphs.any (fun e => Config.objectOn 9 (e.1 % 64) p)
  | 2 => !(sessionsOnPage s 2 p).isEmpty
  | 3 => !(sessionsOnPage s 3 p).isEmpty
  | 8 => !(sessionsOnPage s 8 p).isEmpty
  | 12 => !(sessionsOnPage s 12 p).isEmpty
  | 13 => !s.core.link.log.isEmpty
  | n => n != 0

/-- A page that its owner has not written since it was allocated reads as zero (R446). -/
def pageBlank (s : State) (p : Nat) : Bool :=
  match pageAt s p with
  | some x => !x.written && !pageHolds s p x
  | none => false

/-- The answer to a BAR2 read: its bytes, and whether the completion carries EP. -/
def State.bar2 (s : State) (addr len : Nat) (finding : ReadFinding) : State :=
  let deny := (s.bump (tierCtr 9) 1).emit (.readData (List.replicate len 0) false)
  if s.core.sys.conf || s.core.tiers.ranges.isEmpty || decide (65536 * rangePages s < addr + len) || pageSealed s (addr / 65536) then deny
  else
    let (e, s) := s.readUnified 50 addr finding
    match e with
    | .data =>
      let (n, s) := s.draw
      s.emit (.readData (if pageBlank s (addr / 65536) then List.replicate len 0 else padTo len (Config.freeBytes 2 n)) false)
    | _ => (s.err1 0 6 50 0xFFFF (addr / 65536)).emit (.readData (List.replicate len 0) true)

def execBar2Read (addr len : Nat) (finding : ReadFinding) (s : State) : Host.Outcome State Fault Refusal :=
  .next (if running s then s.bar2 addr len finding else s)

def execBar2Write (_addr : Nat) (s : State) : Host.Outcome State Fault Refusal :=
  .next (if running s then s.bump (tierCtr 9) 1 else s)

/-! ### Heat (R401) -/

def execHeatDecay (s : State) : Host.Outcome State Fault Refusal :=
  .next (
    if running s && decide (s.core.tiers.lastDecay + 8000000 ≤ dtOf s) then
      s.modTiers (fun t => { t with lastDecay := dtOf s, pages := t.pages.map (fun e => (e.1, { e.2 with heat := e.2.heat / 2 })) })
    else s)

/-! ### Migration (R402, R403) -/

/-- One move of a page to the other tier, counted; a page whose copy finds an uncorrectable error stays, poisoned. A page still dirty after the second
pass needs the stall of step 3; the entry is swapped under a lock of one beat (R403). -/
def State.migrate (damaged stalled : List Nat) (heated : Bool) (s : State) (p : Nat) : State :=
  match pageAt s p with
  | none => s
  | some x =>
    if damaged.contains p then s.uncorrectable x.near x.frame 51
    else match takeFrame s (!x.near) with
      | none => s
      | some (f, s) =>
        let y := { x with near := !x.near, frame := f, moved := if heated then some (dtOf s) else x.moved }
        let s := ((s.setPage p y).freeFrame x.near x.frame).bump (tierCtr (if x.near then 1 else 0)) 1
        let s := (s.bump (tierCtr 2) (b2n (stalled.contains p))).lockFor 51 1
        s.traceRec 0x50 (b2n x.near) (leBytes 4 p)

/-- Pages that stand for themselves and satisfy a test; poisoned ones stay. -/
def movable (s : State) (f : Page → Bool) : List Nat := (s.core.tiers.pages.filter (fun e => !e.2.poison && f e.2)).map (·.1)

/-- An AUTO page that heat may move now. -/
def rested (s : State) (x : Page) : Bool := x.hint == 0 && (match x.moved with
  | some t => decide (t + 64000000 ≤ dtOf s)
  | none => true)

def heatOf (s : State) (p : Nat) : Nat := ((pageAt s p).map (·.heat)).getD 0
/-- The coldest AUTO page of the store room that heat may move, the lowest number on a tie. -/
def coldest (s : State) : Option Nat := minBy (heatOf s) (movable s (fun x => x.near && rested s x))
/-- The hottest AUTO page of the cellar that may be promoted, the lowest number on a tie. -/
def hottest (s : State) : Option Nat :=
  minBy (fun p => 255 - heatOf s p) (movable s (fun x => !x.near && rested s x && decide (s.core.fab.promoteHeat ≤ x.heat)))

/-- Demotes the coldest pages until the reserve is free (order 3). -/
def State.refillReserve (damaged stalled : List Nat) : Nat → State → Nat × State
  | 0, s => (0, s)
  | n + 1, s =>
    if migReserve s ≤ freeNearCount s then (n + 1, s)
    else match coldest s with
      | some p => State.refillReserve damaged stalled n (s.migrate damaged stalled true p)
      | none => (n + 1, s)

/-- Promotes the hottest pages, displacing colder ones (order 4). -/
def State.promote (damaged stalled : List Nat) : Nat → State → State
  | 0, s => s
  | n + 1, s =>
    match hottest s with
    | none => s
    | some p =>
      if migReserve s < freeNearCount s then State.promote damaged stalled n (s.migrate damaged stalled true p)
      else match coldest s with
        | some q =>
          if n == 0 || decide (heatOf s p ≤ 2 * heatOf s q) then s
          else State.promote damaged stalled (n - 1) ((s.migrate damaged stalled true q).migrate damaged stalled true p)
        | none => s

def execMigrationEpoch (finding : EpochFinding) (s : State) : Host.Outcome State Fault Refusal :=
  .next (
    if !running s || decide (dtOf s < s.core.tiers.lastEpoch + 1000000) then s
    else
      let s := s.modTiers (fun t => { t with lastEpoch := dtOf s })
      if s.core.tiers.cellar == 0 || (statAt s 51).masked then s
      else
        let budget := s.core.fab.migPages
        let up := (movable s (fun x => x.hint == 1 && !x.near)).take budget
        let s := up.foldl (State.migrate finding.damaged finding.stalled false) s
        let left := budget - up.length
        let down := (movable s (fun x => x.hint == 2 && x.near)).take left
        let s := down.foldl (State.migrate finding.damaged finding.stalled false) s
        let (left, s) := State.refillReserve finding.damaged finding.stalled (left - down.length) s
        State.promote finding.damaged finding.stalled left s)

/-! ### Patrol scrub (R407) -/

/-- A frame is named by twice its number, plus one in the cellar. -/
def execPatrolScrubRead (frame : Nat) (finding : ScrubFinding) (s : State) : Host.Outcome State Fault Refusal :=
  .next (
    let near := frame % 2 == 0
    let f := frame / 2
    let inService := decide (f < if near then nearFrames s else farFrames s) && !s.core.tiers.retired.contains frame
    if !running s || s.core.tiers.ranges.isEmpty || !inService then s
    else match finding with
      | .clean => s
      | .corrected n => s.corrected near f n
      | .uncorrectable => s.uncorrectable near f 51)

/-! ### Late accesses (R404) -/

def execLateAccess (requester : Nat) (store : Bool) (cause : LateCause) (s : State) : Host.Outcome State Fault Refusal :=
  .next (
    if !running s || decide (56 ≤ requester) || (!store && s.core.tiers.cellar == 0) then s
    else
      let s := s.modStat requester (fun r => match cause with
        | .tierFault => { r with lateF := r.lateF + 1 }
        | .migration => { r with lateM := r.lateM + 1 }
        | .contention => { r with lateC := r.lateC + 1 })
      -- R247: a late clique stalls the solver engine of the channel.
      let ch := requester / 6
      let e := (chanAt s ch).engines.getD 3 {}
      if decide (requester < 48) && requester % 6 == 3 && e.run.isSome && !e.worked && e.stall.isNone then
        (s.modEngine ch 3 (fun y => { y with stall := some (dtOf s) })).bump (chanCtr ch 7) 1
      else s)

/-! ### Controllers (R410) -/

/-- The key of a controller: twice its number, plus one in the cellar. -/
def controllerKey (store : Bool) (c : Nat) : Nat := 2 * c + b2n (!store)

def execControllerRetrain (store : Bool) (controller : Nat) (s : State) : Host.Outcome State Fault Refusal :=
  .next (
    let k := controllerKey store controller
    if !running s || decide (nControllers s store ≤ controller) || (!store && s.core.tiers.cellar == 0) || NMap.has s.core.tiers.retrain k then s
    else
      let s := s.modTiers (fun t => { t with retrain := NMap.set t.retrain k (dtOf s) })
      if store then s.err1 0 2 controller else s.err1 0 3)

def execRetrainEnd (store : Bool) (controller : Nat) (ok : Bool) (s : State) : Host.Outcome State Fault Refusal :=
  .next (
    let k := controllerKey store controller
    if !running s || !NMap.has s.core.tiers.retrain k then s
    else
      let s := s.modTiers (fun t => { t with retrain := NMap.erase t.retrain k })
      if ok then s else if store then s.storeFails else s.cellarFails)

end Sys2Proof.Machine
end

