-- ==== Sys2Proof/Machine/Arbiter.lean ====
section
/-! DEFINITION. The fabric arbiters (R411 to R427): decisions, slot and background grants, break points, locked sequences, starvation;
and the writes of cellar blocks (R440). An arbiter's number is its controller's: the store room's first, then the cellar's. -/
namespace Sys2Proof.Machine

/-- The controller of a unified address (R392); none where no page lies. -/
def controllerOf (s : State) (addr : Nat) : Option Nat :=
  (pageAt s (addr / 65536)).map (fun x =>
    let g := addr / 4096 % 16
    if x.near then (g + x.frame) % nControllers s true else nControllers s true + (g + x.frame) % nControllers s false)

/-- An arbiter whose controller is in service and not in retraining. -/
def arbServes (s : State) (a : Nat) : Bool :=
  let near := nControllers s true
  let store := decide (a < near)
  let c := if store then a else a - near
  decide (c < nControllers s store) && (store || s.core.tiers.cellar != 0) && !NMap.has s.core.tiers.retrain (controllerKey store c)

/-- A requester that exists on the part and is in service (R412, R416). -/
def requesterLive (s : State) (id : Nat) : Bool :=
  decide (id < 56) && !(statAt s id).masked &&
  (if id < 48 then (serviceChans s).contains (id / 6) else if id == 48 then s.hw.is968 else if 52 ≤ id then decide (id - 52 < nMirden s) else true)

/-- Requesters that issue locked sequences (R423). -/
def mayLock (id : Nat) : Bool := (decide (id < 48) && id % 6 == 5) || id == 49 || id == 51

/-- The address a request starts at. -/
def arbAddr : ArbRequest → Nat
  | .burst a _ _ _ => a
  | .lock g _ => 4096 * g
/-- A burst's beats within its granule, 1 to 16 (R419); a lock's beats. -/
def arbBeats : ArbRequest → Nat
  | .burst a n _ _ => max 1 (min (min n 16) (64 - a % 4096 / 64))
  | .lock _ n => n
def arbIsLock : ArbRequest → Bool
  | .burst _ _ _ _ => false
  | .lock _ _ => true

/-- A requester holds a lock on some arbiter. -/
def holdsLock (s : State) (id : Nat) : Bool := s.core.fab.arbs.any (fun a => match a.lock with
  | some l => l.1 == id
  | none => false)

/-- A requester breaks the lock protocol: its bit, and its sideband (R425). -/
def State.lockFault (s : State) (id : Nat) : State := (s.err1 5 2 id).sideband [id]

/-- A request reaches an arbiter. -/
def State.arrive (a : Nat) (s : State) (r : Nat × ArbRequest) : State :=
  let (id, q) := r
  if !requesterLive s id || controllerOf s (arbAddr q) != some a || (arbIsLock q && !mayLock id) then s
  else if arbIsLock q && holdsLock s id then (s.modStat id (fun r => { r with refused := r.refused + 1 })).err1 5 3 id
  else match (arbAt s a).lock with
    | some (o, g, _, _) =>
      if o == id && arbAddr q / 4096 != g then s.lockFault id
      else s.modArb a (fun b => { b with waiting := b.waiting ++ [{ req := id, since := dtOf s, what := q }] })
    | none => s.modArb a (fun b => { b with waiting := b.waiting ++ [{ req := id, since := dtOf s, what := q }] })

/-! ### Accesses -/

/-- Adds to the heat of an address's page (R401). -/
def State.warm (s : State) (addr : Nat) : State := s.modPage (addr / 65536) (fun x => { x with heat := min 255 (x.heat + 1) })

/-- Writes a leaf line: its minor counter rises in the level-2 line above, and past 63 that line rolls over (R440). -/
def State.writeLeaf (s : State) (l : Nat) : State :=
  let m := NMap.getD s.core.tiers.lineMinors l 0
  if m < 63 then s.modTiers (fun t => { t with lineMinors := NMap.set t.lineMinors l (m + 1) })
  else
    (s.modTiers (fun t =>
      { t with lineMinors := t.lineMinors.filter (fun e => e.1 / 64 != l / 64), lineMajors := NMap.bump t.lineMajors (l / 64) 1 })).bump (secCtr 1) 1
/-- Writes a level-2 line: its counter of the root rises (R440). -/
def State.writeLevel2 (s : State) (n : Nat) : State := s.modTiers (fun t => { t with roots := NMap.set t.roots n (NMap.getD t.roots n 0 + 1) })
/-- The counter lines of a block that leave the counter cache after a write: which and when the spec leaves to the cache. -/
def State.writeLines (s : State) (k : Nat) : State :=
  let d := Config.numericNat 72 (leBytes 8 s.core.tiers.lineDraws)
  let s := s.modTiers (fun t => { t with lineDraws := t.lineDraws + 1 })
  let s := if d % 2 == 1 then s.writeLeaf (k / 64) else s
  if d / 2 % 2 == 1 then s.writeLevel2 (k / 4096) else s

/-- A 512-byte block of the cellar written: its minor counter rises, and past 63 its line rolls over (R440). -/
def State.countBlock (s : State) (k : Nat) : State :=
  let m := NMap.getD s.core.tiers.minors k 0
  if m < 63 then s.modTiers (fun t => { t with minors := NMap.set t.minors k (m + 1) })
  else
    (s.modTiers (fun t =>
      { t with minors := t.minors.filter (fun e => e.1 / 64 != k / 64), majors := NMap.bump t.majors (k / 64) 1 })).bump (secCtr 1) 1
/-- Writes one 512-byte block of the cellar, and the counter lines above it. -/
def State.writeBlock (s : State) (k : Nat) : State := (s.countBlock k).writeLines k

/-- The blocks a burst writes in the cellar, by frame and block. -/
def State.writeCellar (s : State) (addr beats : Nat) : State :=
  match pageAt s (addr / 65536) with
  | none => s
  | some x =>
    if x.near then s
    else
      let first := addr % 65536 / 512
      let last := (addr % 65536 + 64 * beats - 1) / 512
      (List.range (last + 1 - first)).foldl (fun s i => s.writeBlock (128 * x.frame + first + i)) s

/-- What a granted burst does: a read passes the checks of R441; a write reaches its blocks. A CPC write of a torn granule is the
repair of R427. -/
def State.access (s : State) (id addr beats : Nat) (write : Bool) (finding : ReadFinding) : State :=
  let granule := addr / 4096
  let s := if id == 51 then s else s.warm addr
  if !write then (s.readUnified id addr finding).2.readEnds id (s.readUnified id addr finding).1
  else if NMap.has s.core.tiers.torn granule then (if id == 49 then s.repairTorn granule else s.reachTorn granule id)
  else (s.modPage (addr / 65536) (fun x => { x with written := true })).writeCellar addr beats

/-! ### Grants -/

/-- A requester has an older request waiting at some arbiter. -/
def olderWaits (s : State) (w : ArbWait) : Bool := s.core.fab.arbs.any (fun a => a.waiting.any (fun v => v.req == w.req && decide (v.since < w.since)))
/-- Notes a grant's wait; a starving requester starves no longer when its oldest request is granted (R422, R429). -/
def State.noteGrant (s : State) (w : ArbWait) (beats : Nat) (slot : Bool) : State :=
  s.modStat w.req (fun r =>
    { r with
      beats := r.beats + beats
      slotGrants := if slot then r.slotGrants + 1 else r.slotGrants
      background := if slot then r.background else r.background + 1
      waitMax := max r.waitMax (min (dtOf s - w.since) 0xFFFFFFFF)
      starving := r.starving && olderWaits s w })

/-- Removes a waiting request. -/
def State.unwait (s : State) (a : Nat) (w : ArbWait) : State := s.modArb a (fun b => { b with waiting := b.waiting.erase w })

/-- Grants a burst. -/
def State.grantBurst (s : State) (a : Nat) (w : ArbWait) (slot : Bool) : State :=
  match w.what with
  | .lock _ _ => s
  | .burst addr _ write finding =>
    let n := arbBeats w.what
    let s := (s.unwait a w).noteGrant w n slot
    let s := s.modArb a (fun b => { b with burst := if slot then none else some w })
    s.access w.req addr n write finding

/-- The oldest of a requester's waiting requests of a test. -/
def oldestOf (a : Arb) (id : Nat) (f : ArbWait → Bool) : Option ArbWait :=
  (a.waiting.filter (fun w => w.req == id && f w)).foldl (fun b w => match b with
    | some x => if w.since < x.since then some w else b
    | none => some w) none

/-- Whether a waiting request ranks before another in background (R418). -/
def ranksBefore (s : State) (x y : ArbWait) : Bool :=
  let st (w : ArbWait) : Nat := b2n (!(statAt s w.req).starving)
  let bg (w : ArbWait) : Nat := s.core.fab.bg.getD w.req 3
  decide (st x < st y) || (st x == st y && (decide (bg x < bg y) || (bg x == bg y &&
    (decide (x.since < y.since) || (x.since == y.since && decide (x.req < y.req))))))

/-- The request that background grants: the best-ranked burst. -/
def backgroundPick (s : State) (a : Nat) : Option ArbWait :=
  ((arbAt s a).waiting.filter (fun w => !arbIsLock w.what)).foldl (fun b w => match b with
    | some x => if ranksBefore s w x then some w else b
    | none => some w) none

def State.background (s : State) (a : Nat) : State :=
  match backgroundPick s a with
  | some w => s.grantBurst a w false
  | none => s.modArb a (fun b => { b with burst := none })

/-- Locked beats of the current turn (R424). -/
def turnBeats (a : Arb) : Nat := a.turn.foldl (· + ·) 0

/-- The next beats of a held lock: its end, or its fault past 256 beats (R424, R425). -/
def State.lockBeats (s : State) (a : Nat) : State :=
  match (arbAt s a).lock with
  | none => s
  | some (id, g, n, total) =>
    let k := min 16 (total - n)
    let k' := min k (256 - n)
    let s := if id == 51 then s else s.warm (4096 * g)
    let s := s.modStat id (fun r => { r with beats := r.beats + k' })
    let s := s.modArb a (fun b => { b with turn := updAt b.turn 0 (· + k'), lock := some (id, g, n + k', total) })
    if k' < k then s.lockFault id
    else if total ≤ n + k then (s.modArb a (fun b => { b with lock := none })).modStat id (fun r => { r with lockHeld := false })
    else s

/-- A lock begins at its owner's slot (R424). -/
def State.beginLock (s : State) (a : Nat) (w : ArbWait) (g total : Nat) : State :=
  let s := (s.unwait a w).noteGrant w 0 true
  let s := s.modStat w.req (fun r => { r with taken := r.taken + 1, lockHeld := true })
  (s.modArb a (fun b => { b with burst := none, lock := some (w.req, g, 0, total) })).lockBeats a

/-- One decision outside a lock: the pointer advances by one slot (R417). -/
def State.decide1 (s : State) (a : Nat) : State :=
  let b := arbAt s a
  let owner := s.core.fab.owners.getD b.ptr 0xFF
  let s := s.modArb a (fun b => { b with ptr := (b.ptr + 1) % 256, turn := (0 :: b.turn).take 256 })
  match (if requesterLive s owner then oldestOf b owner (fun _ => true) else none) with
  | none => s.background a
  | some w =>
    match w.what with
    | .burst _ _ _ _ => s.grantBurst a w true
    | .lock g total =>
      if turnBeats b ≤ 256 then s.beginLock a w g total
      else (s.modStat owner (fun r => { r with deferred := r.deferred + 1 })).background a

/-- A background burst is broken off after `gone` beats: the rest waits with the age of the whole (R419). -/
def State.breakBurst (s : State) (a gone : Nat) (w : ArbWait) : State :=
  match w.what with
  | .lock _ _ => s
  | .burst addr _ write _ =>
    let rest := arbBeats w.what - gone
    let s := s.modStat w.req (fun r => { r with beats := r.beats - rest })
    s.modArb a (fun b =>
      { b with burst := none, waiting := b.waiting ++ [{ w with what := .burst (addr + 64 * gone) rest write .clean }] })

/-- The owner of the next slot has a request waiting. -/
def nextWaits (s : State) (a : Nat) : Bool :=
  let b := arbAt s a
  let owner := s.core.fab.owners.getD b.ptr 0xFF
  requesterLive s owner && (oldestOf b owner (fun _ => true)).isSome

/-- A decision of an arbiter, `gone` beats after its last grant began, with the requests that have come since: the end of the
burst, or a break point of a background burst that is taken (R417, R419); within a lock, the lock's next beats. -/
def execArbiterDecision (arbiter gone : Nat) (requests : List (Nat × ArbRequest)) (s : State) : Host.Outcome State Fault Refusal :=
  .next (
    if !running s || s.core.tiers.ranges.isEmpty then s
    else
      let s := requests.foldl (State.arrive arbiter) s
      if !arbServes s arbiter then s
      else if (arbAt s arbiter).lock.isSome then s.lockBeats arbiter
      else match (arbAt s arbiter).burst with
        | none => s.decide1 arbiter
        | some w =>
          if arbBeats w.what ≤ gone then s.decide1 arbiter
          else if (gone == 4 || gone == 8 || gone == 12) && nextWaits s arbiter then (s.breakBurst arbiter gone w).decide1 arbiter
          else s)

/-- R422: the oldest request of a requester has waited longer than STARVE_US. -/
def execStarvation (arbiter requester : Nat) (s : State) : Host.Outcome State Fault Refusal :=
  .next (
    let due := match oldestOf (arbAt s arbiter) requester (fun _ => true) with
      | some w => decide (w.since + 1000 * s.core.fab.starveUs < dtOf s)
      | none => false
    let r := statAt s requester
    if !running s || !due || r.starving then s
    else
      let s := s.modStat requester (fun r => { r with starving := true, starved := true })
      if r.starved then s else s.err1 5 1 requester)

end Sys2Proof.Machine
end

