-- ==== Sys2Proof/Machine/Device.lean ====
section
/-! DEFINITION. The 0x01xx commands: capability block, device state, power cap, event ring, channel roles and tests, core reset,
echo and telemetry. -/
namespace Sys2Proof.Machine

/-- The capability block (R104). -/
def capBlock (s : State) : List Byte :=
  let b := s.hw.is968
  let y := s.core.sys
  let ep (n : Nat) : Bool := b && !bit y.record.epDisabled n
  let units := maskOf [b, ep 0, ep 1, decide (0 < s.core.tiers.cellar), true]
  let mode := if y.phase == .safe then 2 else if y.conf then 1 else 0
  leBytes 2 (if b then 0x0968 else 0x0964) ++ leBytes 1 0xB0 ++ leBytes 1 1 ++ leBytes 1 (chPresent s) ++
  leBytes 1 (chService s) ++ leBytes 1 (chMap s) ++ leBytes 1 (mapChMax s) ++ leBytes 1 4 ++ leBytes 1 units ++
  leBytes 1 (2 ^ nMirden s - 1) ++ leBytes 1 (mpUp s) ++ leBytes 2 (if b then 48 else 24) ++ leBytes 2 s.core.tiers.cellar ++
  leBytes 2 (maxSessions s) ++ leBytes 2 (maxStreams s) ++ leBytes 1 (if b then 32 else 0) ++ leBytes 1 64 ++ leBytes 1 64 ++
  leBytes 1 (packageW s.hw.part) ++ leBytes 4 y.fwVersion ++ leBytes 1 y.devid ++
  leBytes 1 (packBits [(b2n y.keeperEn, 0), (b2n (isKeeper s), 1)]) ++ leBytes 1 (systemDevs s).length ++ leBytes 1 mode ++
  leBytes 4 24576 ++ leBytes 4 32768 ++ leBytes 2 64 ++ leBytes 2 1024 ++ leBytes 4 0

def capQueryBody (r : Req) (s : State) : State := s.place r.h 0x00 (capBlock s)
def execCapQuery (hatch : Nat) (s : State) : Host.Outcome State Fault Refusal :=
  .next (serve 0x0101 hatch capQueryBody s)

/-- The response of DEV_STATE; in confidential mode the clock is that of the latest whole second (R470). -/
def devStateBlock (s : State) : List Byte :=
  let mhz := if s.core.sys.conf then s.core.pow.sec.mhz else tensorMhz s
  leBytes 4 (devStatus s) ++ leBytes 1 (chService s) ++ leBytes 1 (chMap s) ++ leBytes 2 s.core.work.sess.length ++
  leBytes 2 (effectiveCap s) ++ leBytes 2 mhz ++ leBytes 1 (clockCode s.core.time.clockQ)
def devStateBody (r : Req) (s : State) : State := s.place r.h 0x00 (devStateBlock s)
def execDevState (hatch : Nat) (s : State) : Host.Outcome State Fault Refusal :=
  .next (serve 0x0102 hatch devStateBody s)

/-- R37: a cap of the part's column is stored; 0 only reads. -/
def powerCapBody (r : Req) (s : State) : State :=
  let w := r.u16 0
  let ok := w == 0 || (List.range 4).any (fun i => pinCapOf s.hw.part i == w)
  s.guarded r.h [need ok 0x11] (fun s =>
    let s := if w == 0 then s else s.modPow (fun p => { p with hatchCap := w })
    s.place r.h 0x00 (leBytes 2 (effectiveCap s) ++ leBytes 2 s.core.pow.pinCap ++ leBytes 2 s.core.pow.hatchCap))
def execPowerCap (hatch : Nat) (s : State) : Host.Outcome State Fault Refusal :=
  .next (serve 0x0103 hatch powerCapBody s)

/-- Whether a ring size is a power of two in a range. -/
def ringSize (lo hi v : Nat) : Bool := decide (lo ≤ v) && decide (v ≤ hi) && 2 ^ Nat.log2 v == v

/-- R106: the ring is set, its counts start at 0, and held entries stay to be written (R103). -/
def eventRingSetBody (r : Req) (s : State) : State :=
  s.guarded r.h [need (decide (r.u8 12 ≤ 63) && r.u64 0 % 4096 == 0 && ringSize 1024 65536 (r.u32 8)) 0x11] (fun s =>
    let s := s.modRing (fun g => { g with evBase := r.u64 0, evSize := r.u32 8, evVector := r.u8 12, evWr := 0, evRd := 0 })
    State.drainEvents 4096 ((s.emit (.dmaWrite (r.u64 0) (leBytes 4 0))).place r.h 0x00))
def execEventRingSet (hatch : Nat) (s : State) : Host.Outcome State Fault Refusal :=
  .next (serve 0x0104 hatch eventRingSetBody s)

/-- Whether a channel has a map job (CHANNEL_ROLE's status). -/
def hasMapJob (s : State) (c : Nat) : Bool := s.core.map.jobs.any (fun j => j.2.chan == c)

/-- R106, R107: the role applies at once. A session that a failure move brings to the channel counts as held by it. -/
def channelRoleBody (r : Req) (s : State) : State :=
  let c := r.u8 0
  let others := (mapChans s).filter (· != c)
  s.guarded r.h
    [channelCheck s c, need (decide (r.u8 1 ≤ 1)) 0x11,
     need (r.u8 1 == 0 || decide (others.length < mapChMax s)) 0x11,
     need ((sessionsOn s c).isEmpty && (s.core.work.sess.all (fun p => p.2.moveTo != some (c, true))) && !hasMapJob s c) 0x13,
     need (r.u8 1 == 0 || (chanAt s c).testMode == 0) 0x13]
    (fun s => (s.modChan c (fun x => { x with mapRole := r.u8 1 == 1 })).place r.h 0x00)
def execChannelRole (hatch : Nat) (s : State) : Host.Outcome State Fault Refusal :=
  .next (serve 0x0105 hatch channelRoleBody s)

/-- CORE_RESET: DONE, then the reset 1 ms later (R502). -/
def coreResetBody (r : Req) (s : State) : State :=
  (s.place r.h 0x00).modSys (fun y => { y with coreResetAt := some (y.coreResetAt.getD (dtOf s + 1000000)) })
def execCoreReset (hatch : Nat) (s : State) : Host.Outcome State Fault Refusal :=
  .next (serve 0x0106 hatch coreResetBody s)

/-- ECHO: the request payload, unchanged. -/
def echoBody (r : Req) (s : State) : State := s.place r.h 0x00 r.payload
def execEcho (hatch : Nat) (s : State) : Host.Outcome State Fault Refusal :=
  .next (serve 0x0107 hatch echoBody s)

/-- The response of TELEMETRY (R554); confidential values are those of the latest whole second, rounded down. -/
def telemetryBlock (s : State) : List Byte :=
  let p := s.core.pow
  let down (m : Int) (v : Int) : Int := v / m * m
  if s.core.sys.conf then
    leBytes 2 (p.sec.power / 50 * 50) ++ leBytes 2 (p.sec.power / 50 * 50) ++ leInt 2 (down 16 p.sec.tj) ++
    leInt 2 (down 16 p.sec.tStore) ++ leBytes 1 (thermFlags s) ++ leBytes 7 0 ++ leBytes 8 p.sec.dt
  else
    leBytes 2 p.power ++ leBytes 2 p.sec.power ++ leInt 2 p.tj ++ leInt 2 p.tStore ++ leBytes 1 (thermFlags s) ++
    leBytes 7 0 ++ leBytes 8 p.sampleDt
def telemetryBody (r : Req) (s : State) : State := s.place r.h 0x00 (telemetryBlock s)
def execTelemetry (hatch : Nat) (s : State) : Host.Outcome State Fault Refusal :=
  .next (serve 0x0109 hatch telemetryBody s)

/-- R107: a test mode begins or ends; its sessions become PROVISIONAL, and their exit count is zero when it ends. -/
def channelTestBody (r : Req) (s : State) : State :=
  let c := r.u8 0
  let m := r.u8 1
  let old := (chanAt s c).testMode
  s.guarded r.h [channelCheck s c, need (!(chanAt s c).mapRole && decide (m ≤ 2)) 0x11] (fun s =>
    let s := s.modChan c (fun x => { x with testMode := m, lastSlice := if m == 1 && old != 1 then dtOf s else x.lastSlice })
    let s :=
      if m != 0 && m != old then s.provisionalAll (fun _ x => x.chan == c)
      else if m == 0 && old != 0 then
        s.modWork (fun w => { w with sess := w.sess.map (fun p => (p.1, if p.2.chan == c then { p.2 with exitCount := 0 } else p.2)) })
      else s
    s.place r.h 0x00 (leBytes 1 old))
def execChannelTest (hatch : Nat) (s : State) : Host.Outcome State Fault Refusal :=
  .next (serve 0x010A hatch channelTestBody s)

end Sys2Proof.Machine
end

