-- ==== Sys2Proof/Machine/Sessions.lean ====
section
/-! DEFINITION. The 0x02xx commands and the ends of their work: sessions, streams, moves and checkpoints. -/
namespace Sys2Proof.Machine

/-- The channel that SESSION_OPEN with 0xFF picks (R46, R107). -/
def pickChannel (s : State) : Option Nat :=
  let plain := (ordinaryChans s).filter (fun c => (chanAt s c).testMode == 0)
  fewestSessions s (if plain.isEmpty then ordinaryChans s else plain)

/-- Whether a result area is set (R111). -/
def areaSet (s : State) (a : Nat) : Bool := decide (a < 16) && (areaAt s a).size != 0

/-- The SID that SESSION_OPEN takes: the named one, or the lowest free one (R46). -/
def pickSid (s : State) (sid : Nat) : Option Nat :=
  if sid == 0xFFFF then NMap.lowestFree s.core.work.sess (maxSessions s)
  else if (sessAt s sid).isSome then none else some sid

def sessionOpenBody (r : Req) (s : State) : State :=
  let ch := r.u8 3
  let chan := if ch == 255 then pickChannel s else some ch
  let sid := pickSid s (r.u16 0)
  s.guarded r.h
    [if ch == 255 then none else channelCheck s ch,
     need ((r.u16 0 == 0xFFFF || decide (r.u16 0 < maxSessions s)) && decide (r.u8 2 ≤ 3)) 0x11,
     need (ch == 255 || !(chanAt s ch).mapRole) 0x11,
     need (areaSet s (r.u8 5)) 0x11,
     need (sid.isSome && chan.isSome) 0x13]
    (fun s =>
      let n := sid.getD 0
      let c := chan.getD 0
      let x : Session :=
        { owner := r.ctx, chan := c, lastCkpt := dtOf s, ctx := { cfg := { cls := r.u8 2, group := r.u8 4, area := r.u8 5 } } }
      (s.modWork (fun w => { w with sess := NMap.set w.sess n x })).place r.h 0x00 (leBytes 2 n ++ leBytes 1 c))
def execSessionOpen (hatch : Nat) (s : State) : Host.Outcome State Fault Refusal :=
  .next (serve 0x0201 hatch sessionOpenBody s)

/-- R49, with R91's exception for a close taken during a move. -/
def sessionCloseBody (r : Req) (s : State) : State :=
  let sid := r.u16 0
  let x := (sessAt s sid).getD {}
  let moving := x.state == .moving && !x.closeAfter
  s.guarded r.h
    [need (sessAt s sid).isSome 0x11, need (x.owner == r.ctx) 0x15,
     need (moving || (x.state != .moving && x.state != .closing && !held s (.sid sid))) 0x13]
    (fun s =>
      let s := if moving then s.modSess sid (fun y => { y with closeAfter := true }) else s.beginClose sid
      s.accept r.h (.sessionClose sid))
def execSessionClose (hatch : Nat) (s : State) : Host.Outcome State Fault Refusal :=
  .next (serve 0x0202 hatch sessionCloseBody s)

/-- The session's items have all ended, so the close completes (R49). -/
def closeReady (s : State) (sid : Nat) : Bool :=
  (match sessAt s sid with | some x => x.state == .closing | none => true) && (sessInsts s sid).isEmpty

def execSessionCloseDone (hatch : Nat) (s : State) : Host.Outcome State Fault Refusal :=
  .next (match jobAt s hatch with
    | some (.sessionClose sid) => if closeReady s sid then (s.freeSession sid).place hatch 0x00 else s
    | _ => s)

/-- The current fields of SESSION_CONFIG's layout (R108). -/
def configLayout (sid : Nat) (c : SessCfg) : List Byte :=
  leBytes 2 sid ++ leBytes 2 0x007F ++ leBytes 1 c.cls ++ leBytes 1 c.group ++ leBytes 1 c.area ++ leBytes 1 0 ++
  leBytes 2 c.horizonMs ++ leBytes 2 c.latencyMs ++ leBytes 2 c.exitPos ++ leBytes 2 c.exitHead ++ leBytes 2 c.exitSigma

def sessionConfigBody (r : Req) (s : State) : State :=
  let sid := r.u16 0
  let v (n : Nat) : Bool := bit (r.u16 2) n
  let rng (n o lo hi : Nat) : Bool := !v n || (decide (lo ≤ r.u16 o) && decide (r.u16 o ≤ hi))
  s.guarded r.h
    (sessionChecks s r sid ++
     [need ((!v 0 || decide (r.u8 4 ≤ 3)) && (!v 2 || areaSet s (r.u8 6)) && rng 3 8 100 10000 && rng 4 0xA 1 10000 &&
       rng 5 0xC 1 10000 && rng 5 0xE 1 18000 && rng 5 0x10 1 10000) 0x11])
    (fun s =>
      let s := ((touchShelf s sid).getD s).modSess sid (fun x =>
        let c := x.ctx.cfg
        let c := if v 0 then { c with cls := r.u8 4 } else c
        let c := if v 1 then { c with group := r.u8 5 } else c
        let c := if v 2 then { c with area := r.u8 6 } else c
        let c := if v 3 then { c with horizonMs := r.u16 8 } else c
        let c := if v 4 then { c with latencyMs := r.u16 0xA } else c
        let c := if v 5 then { c with exitPos := r.u16 0xC, exitHead := r.u16 0xE, exitSigma := r.u16 0x10 } else c
        { x with ctx := { x.ctx with cfg := c, lateDiscard := x.ctx.lateDiscard && !(v 6 && bit (r.u8 7) 0) } })
      s.place r.h 0x00 (configLayout sid ((sessAt s sid).getD {}).ctx.cfg))
def execSessionConfig (hatch : Nat) (s : State) : Host.Outcome State Fault Refusal :=
  .next (serve 0x0203 hatch sessionConfigBody s)

/-- Whether a sensor TYPE is a camera (R109). -/
def isCamera (t : Nat) : Bool := t == 1 || t == 2 || t == 3

/-- The calibration a SESSION_SENSOR payload and its mesh table give (R109, R120, R121). -/
def sensorOf (r : Req) (mesh : List Byte) : Sensor :=
  { type := r.u8 3, width := r.u16 4, height := r.u16 6, cam := f32sAt r.payload 8 4, dist := f32sAt r.payload 0x18 4,
    t := f32sAt r.payload 0x28 3, q := f32sAt r.payload 0x34 4, depthScale := f32At r.payload 0x44,
    noise := f32sAt r.payload 0x48 4, mesh := mesh, fold := foldOf (r.u8 3) (f32sAt r.payload 0x18 4) }

/-- R122's mesh check: every node within the bounds, in 1/32 px. -/
def meshOk (w h : Nat) (mesh : List Byte) : Bool :=
  (List.range 256).all (fun i =>
    let x := intAt mesh (8 * i) 4
    let y := intAt mesh (8 * i + 4) 4
    decide (-(16 * w : Nat) ≤ x) && decide (x ≤ (48 * w : Nat)) && decide (-(16 * h : Nat) ≤ y) && decide (y ≤ (48 * h : Nat)))

/-- R122: what makes a calibration unusable. -/
def sensorOk (x : Sensor) : Bool :=
  let pos (b : F32) : Bool := f32IsFinite b && decide (0 < f32Val b)
  !isCamera x.type ||
    (pos (x.cam.getD 0 0) && pos (x.cam.getD 1 0) && f32IsFinite (x.cam.getD 2 0) && f32IsFinite (x.cam.getD 3 0) &&
     x.dist.all f32IsFinite && (x.type != 3 || meshOk x.width x.height x.mesh) &&
     (x.type == 3 || foldLeaves x.type x.cam x.dist x.width x.height))

def sessionSensorBody (d : Dma) (r : Req) (s : State) : State :=
  let sid := r.u16 0
  let set (mesh : List Byte) (s : State) : State :=
    let x := sensorOf r mesh
    if sensorOk x then
      (((touchShelf s sid).getD s).modSess sid (fun y => { y with ctx := { y.ctx with sensors := setAt y.ctx.sensors (r.u8 2) x } })).place r.h 0x00
    else s.place r.h 0x11
  s.guarded r.h (sessionChecks s r sid ++ [need (decide (r.u8 2 ≤ 3) && decide (r.u8 3 ≤ 6)) 0x11]) (fun s =>
    if r.u8 3 == 3 then
      s.withDma r.h (r.u64 0x58) (hostLen (bulkSealed s r.ctx) 2048) d sid (fun b s =>
        match bulkData s r.ctx (reqCounter s r.h) r.h 0xFFFE 2048 b with
        | some mesh => set mesh s
        | none => (s.err1 3 4 255 sid).place r.h 0x30)
    else set [] s)
def execSessionSensor (hatch : Nat) (data : List Byte) (s : State) : Host.Outcome State Fault Refusal :=
  .next (serve 0x0204 hatch (sessionSensorBody (.ok data)) s)

/-- R75: a record of the last accepted state, into a slot reserved at the command; of a context in a torn granule the record says TORN (R427). -/
def sessionQueryBody (r : Req) (s : State) : State :=
  let sid := r.u16 0
  let x := (sessAt s sid).getD {}
  let a := x.ctx.cfg.area
  s.guarded r.h (sessionChecks s r sid ++ [need (areaFree (areaAt s a) != 0) 0x13]) (fun s =>
    let s := s.modArea a (fun y => { y with reserved := y.reserved + 1 })
    let k := (areaAt s a).wr.toNat
    let torn := tornRead s sid
    let s := match torn with
      | some g => s.reachTorn g 49
      | none => (touchShelf s sid).getD s
    let s := s.deliver a
      { kind := 2, status := if torn.isSome then 0x21 else 0, sid := sid, version := s.core.map.version.toNat, torn := torn.isSome }
    s.place r.h 0x00 (leBytes 4 k ++ leBytes 1 (stateCode x.state)))
def execSessionQuery (hatch : Nat) (s : State) : Host.Outcome State Fault Refusal :=
  .next (serve 0x0205 hatch sessionQueryBody s)

def sessionCheckpointBody (r : Req) (s : State) : State :=
  let sid := r.u16 0
  s.guarded r.h (sessionChecks s r sid) (fun s =>
    match tornRead s sid with
    | some g => (s.reachTorn g 49).place r.h 0x21
    | none => (((touchShelf s sid).getD s).checkpoint sid).place r.h 0x00 (leBytes 8 (dtOf s)))
def execSessionCheckpoint (hatch : Nat) (s : State) : Host.Outcome State Fault Refusal :=
  .next (serve 0x0206 hatch sessionCheckpointBody s)

/-- R48, and SESSION_MOVE's row of the opcode table. -/
def sessionMoveBody (r : Req) (s : State) : State :=
  let sid := r.u16 0
  let c := r.u8 2
  let x := (sessAt s sid).getD {}
  s.guarded r.h
    ([channelCheck s c] ++ sessionChecks s r sid ++
     [need (!(chanAt s c).mapRole) 0x11, need (x.state != .moving && x.state != .closing) 0x13])
    (fun s =>
      if x.chan == c then s.place r.h 0x00
      else
        (s.modSess sid (fun y => { y with before := y.state, state := .moving, moveTo := some (c, false) })).accept r.h
          (.sessionMove sid c))
def execSessionMove (hatch : Nat) (s : State) : Host.Outcome State Fault Refusal :=
  .next (serve 0x0207 hatch sessionMoveBody s)

/-- A session resumes on a channel after a move: its queued items follow, and a close that waited proceeds (R48, R91, R107). -/
def State.resume (s : State) (sid ch : Nat) (st : SessState) : State :=
  let test := (chanAt s ch).testMode != 0
  let s := s.modSess sid (fun x =>
    let x := { x with chan := ch, state := st, moveTo := none }
    if test then x.toProvisional else x)
  let s := s.moveQueued sid ch
  match sessAt s sid with
  | some x => if x.closeAfter then s.beginClose sid else s
  | none => s

/-- R48: the in-flight items have ended, the live context is copied, and the session resumes in the state it had. -/
def execSessionMoveDone (hatch : Nat) (s : State) : Host.Outcome State Fault Refusal :=
  .next (match jobAt s hatch with
    | some (.sessionMove sid c) =>
      (match sessAt s sid with
       | some x =>
         if x.moveTo == some (c, false) && (sessInsts s sid).isEmpty then
           if (ordinaryChans s).contains c then
             ((s.modSess sid (fun y => { y with oweMoved := true })).resume sid c x.before).place hatch 0x00
           else (s.resume sid x.chan x.before).place hatch 0x3F
         else s
       | none => s)
    | _ => s)

/-- Whether a graph of a kind is resident in a slot on every ordinary channel in service (R50). -/
def residentAll (s : State) (g kind : Nat) : Bool :=
  (ordinaryChans s).all (fun c => match residentAt s c g with
    | some x => x.graph.kind == kind
    | none => false)

def streamBindBody (r : Req) (s : State) : State :=
  let id := r.u8 0
  let ms := r.u16 4
  s.guarded r.h
    [need (decide (id < maxStreams s) && decide (1 ≤ r.u8 1) && decide (r.u8 1 ≤ 6) && decide (r.u8 2 ≤ 63) && decide (ms ≤ 1000)) 0x11,
     need (!NMap.has s.core.work.streams id) 0x13,
     need (!held s (.graph (r.u8 2))) 0x13,
     need (residentAll s (r.u8 2) (r.u8 1)) 0x11]
    (fun s =>
      let b : Stream := { kind := r.u8 1, graph := r.u8 2, deadlineMs := if ms == 0 then 50 else ms }
      (s.modWork (fun w => { w with streams := NMap.set w.streams id b })).place r.h 0x00)
def execStreamBind (hatch : Nat) (s : State) : Host.Outcome State Fault Refusal :=
  .next (serve 0x0208 hatch streamBindBody s)

def streamUnbindBody (r : Req) (s : State) : State :=
  let id := r.u8 0
  let busy := s.core.work.batches.any (fun b => b.2.items.any (fun i => i.stream == id && i.status.isNone))
  s.guarded r.h [need (decide (id < maxStreams s)) 0x11, need (!NMap.has s.core.work.streams id || !busy) 0x13] (fun s =>
    (s.modWork (fun w => { w with streams := NMap.erase w.streams id })).place r.h 0x00)
def execStreamUnbind (hatch : Nat) (s : State) : Host.Outcome State Fault Refusal :=
  .next (serve 0x0209 hatch streamUnbindBody s)

/-- R47: a live session's checkpoint at most 100 ms after the last. -/
def execCheckpointTimer (sid : Nat) (s : State) : Host.Outcome State Fault Refusal :=
  .next (match sessAt s sid with
    | some x =>
      if x.state == .provisional || x.state == .normal then
        (match tornRead s sid with
         | some g => s.reachTorn g 49
         | none => ((touchShelf s sid).getD s).checkpoint sid)
      else s
    | none => s)

/-- A session of a failed channel goes on from its latest checkpoint on an ordinary channel (R523 step 5). -/
def State.failureMoved (s : State) (sid d : Nat) : State :=
  let c := if (ordinaryChans s).contains d then d else (fewestSessions s (ordinaryChans s)).getD d
  let s := s.modSess sid (fun y => { y.restored with radioQ := [], reloc := false, lastImage := [] })
  let s := match tornContext s sid with
    | some g => s.repair g
    | none => s
  let s := s.modFus (fun f => { f with patches := f.patches.filter (fun p => p.2.sid != sid) })
  let s := s.resume sid c .provisional
  (hatchesWith s (fun j => match j with | .sessionMove n _ => n == sid | _ => false)).foldl (fun s h => s.place h 0x3F) s

/-- A session that firmware moves for the map role goes on, or turns to another channel where its target is one no longer (R22, R48). -/
def State.roleMoved (s : State) (sid c : Nat) (before : SessState) : State :=
  let asked := !(hatchesWith s (fun j => match j with | .sessionMove n _ => n == sid | _ => false)).isEmpty
  if asked || !(sessInsts s sid).isEmpty then s
  else if (ordinaryChans s).contains c then (s.modSess sid (fun y => { y with oweMoved := true })).resume sid c before
  else match fewestSessions s (ordinaryChans s) with
    | some d => s.modSess sid (fun y => { y with moveTo := some (d, false) })
    | none => s

/-- R523 step 5: the session is restored from its latest checkpoint on its new channel and enters PROVISIONAL. A move that firmware makes
to free a channel for the map role ends here as well, as SESSION_MOVE's own does (R22, R48). -/
def execFailureMoveDone (sid : Nat) (s : State) : Host.Outcome State Fault Refusal :=
  .next (match sessAt s sid with
    | some x =>
      (match x.moveTo with
       | some (d, true) => s.failureMoved sid d
       | some (c, false) => s.roleMoved sid c x.before
       | none => s)
    | none => s)

end Sys2Proof.Machine
end

