-- ==== Sys2Proof/Machine/Batches.lean ====
section
/-! DEFINITION. The 0x03xx commands: batches and result areas, with the ends of their work (R54 to R60, R110, R111). -/
namespace Sys2Proof.Machine

/-- An item's own checks when its batch is accepted (R43, R45, R51, R55, R56): the status it fails with. -/
def itemCheck (s : State) (ctx : Nat) (i : Item) : Option Nat :=
  match sessAt s i.sid with
  | none => some 0x11
  | some x =>
    if x.owner != ctx then some 0x15
    else if x.state == .closing || x.closeAfter then some 0x11
    else if i.len == 0 || decide (16777216 < i.len) then some 0x11
    else match NMap.get? s.core.work.streams i.stream with
      | none => some 0x11
      | some t => if (t.kind == 4 || t.kind == 5) && i.len % 32 != 0 then some 0x11
        else if (t.kind == 4 || t.kind == 5) && decide (32 * 1024 < i.len) then some 0x11 else none

/-- Enters the items of a batch: those that fail their checks end, the others join the queue of their session's channel. -/
def State.enterItems (b dl : Nat) : List (Nat × Item) → State → State
  | [], s => s
  | (i, it) :: rest, s =>
    match batchAt s b with
    | none => s
    | some y =>
      let failure := match it.status with
        | some st => some st
        | none => itemCheck s y.ctx it
      let s := match failure with
        | some st => s.endItem b i st
        | none =>
          -- R466: an item of the holder taken after its turn has closed ends without running.
          if s.core.sys.conf && s.core.sec.turnClosed.isSome && y.ctx == s.core.sec.holder then (s.bump (secCtr 3) 1).endItem b i 0x24 else
          let x := (sessAt s it.sid).getD {}
          let t := NMap.getD s.core.work.streams it.stream { kind := 1, graph := 0, deadlineMs := 50 }
          let d := if dl == 0 then dtOf s + 1000000 * t.deadlineMs else dl
          s.enqueue x.chan { slot := t.graph, origin := .item b i, ctx := y.ctx, sid := some it.sid, arrival := dtOf s, deadline := d }
      State.enterItems b dl rest s

/-- The items of a list as they stand in host memory: those that a failed chunk describes end with INTEGRITY (R459). -/
def itemsOf (s : State) (r : Req) (n : Nat) (b : List Byte) : List Item :=
  if bulkSealed s r.ctx then
    (openBulk (NMap.getD s.core.sec.contexts r.ctx {}).kIn (bulkBinding (reqCounter s r.h) r.h 0xFFFF) (32 * n) b).zipIdx.flatMap
      (fun c => match c.1 with
        | some p => (records 32 p).map (fun b => ({ bytes := b } : Item))
        | none => List.replicate (min 128 (n - 128 * c.2)) { bytes := List.replicate 32 0, status := some 0x30 })
  else (records 32 (padTo (32 * n) b)).map (fun b => ({ bytes := b } : Item))

def batchSubmitBody (d : Dma) (r : Req) (s : State) : State :=
  let n := r.u16 8
  let a := r.u8 10
  s.guarded r.h [need (r.u64 0 % 32 == 0 && decide (1 ≤ n) && decide (n ≤ 1024) && areaSet s a) 0x11] (fun s =>
    s.withDma r.h (r.u64 0) (hostLen (bulkSealed s r.ctx) (32 * n)) d 0xFFFF (fun data s =>
      let items := itemsOf s r n data
      let wanted := (items.filter (·.wanted)).length
      s.guarded r.h [need (decide (wanted ≤ areaFree (areaAt s a))) 0x13] (fun s =>
        let s := if items.any (fun i => i.status.isSome) then s.err1 3 4 else s
        let b := s.core.work.nextBatch
        let y : Batch :=
          { hatch := r.h, ctx := r.ctx, area := a, flags := r.u8 11, cookie := r.u32 12, deadline := r.u64 16,
            reqCtr := reqCounter s r.h, items := items }
        let s := s.modArea a (fun x => { x with reserved := x.reserved + wanted })
        let s := s.modWork (fun w => { w with batches := NMap.set w.batches b y, nextBatch := b + 1 })
        State.enterItems b (r.u64 16) (items.zipIdx.map (fun p => (p.2, p.1))) (s.accept r.h (.batch b)))))
def execBatchSubmit (hatch : Nat) (data : List Byte) (s : State) : Host.Outcome State Fault Refusal :=
  .next (serve 0x0301 hatch (batchSubmitBody (.ok data)) s)

/-- The statuses of a batch's items. -/
def batchStatuses (y : Batch) : List Nat := y.items.filterMap (·.status)

/-- R110: DONE without a code of 0x20 or above, else the highest such code. -/
def batchStatus (y : Batch) : Nat := ((batchStatuses y).filter (fun c => decide (0x20 ≤ c))).foldl max 0

/-- The counts of the final response. -/
def batchCounts (y : Batch) : List Byte :=
  let l := batchStatuses y
  let n (f : Nat → Bool) : List Byte := leBytes 2 (l.filter f).length
  n (· == 0x00) ++ n (· == 0x20) ++ n (· == 0x24) ++ n (fun c => decide (0x10 ≤ c) && decide (c ≤ 0x1F)) ++
  n (fun c => decide (0x20 ≤ c) && c != 0x20 && c != 0x24) ++ leBytes 2 0 ++ leBytes 4 y.cookie

def execBatchComplete (hatch : Nat) (s : State) : Host.Outcome State Fault Refusal :=
  .next (match jobAt s hatch with
    | some (.batch b) =>
      (match batchAt s b with
       | some y =>
         if y.items.all (·.written) then
           (s.modWork (fun w => { w with batches := NMap.erase w.batches b })).placeWith hatch (batchStatus y) (batchCounts y) false
             (bit y.flags 0)
         else s
       | none => s)
    | _ => s)

/-- R111, R60: sets, moves or closes an area. -/
def resultAreaSetBody (r : Req) (s : State) : State :=
  let a := r.u8 0
  let v := r.u8 1
  let size := r.u32 4
  let inUse := s.core.work.sess.any (fun p => p.2.ctx.cfg.area == a)
  s.guarded r.h
    [need (decide (a < 16) && (decide (v ≤ 63) || v == 255)) 0x11,
     need (size == 0 || (decide (1 ≤ r.u16 2) && decide (r.u16 2 ≤ 1024) && ringSize 256 1048576 size && r.u64 8 % 4096 == 0 &&
       decide (1 ≤ r.u32 16) && decide (r.u32 16 ≤ 10000))) 0x11,
     need ((areaAt s a).reserved == 0 && !(size == 0 && inUse)) 0x13]
    (fun s =>
      let new : Area :=
        if size == 0 then {}
        else { base := r.u64 8, size := size, vector := v, coalN := r.u16 2, coalUs := r.u32 16 }
      let s := s.modArea a (fun _ => new)
      (if size == 0 then s else s.emit (.dmaWrite new.base (leBytes 4 0))).place r.h 0x00)
def execResultAreaSet (hatch : Nat) (s : State) : Host.Outcome State Fault Refusal :=
  .next (serve 0x0302 hatch resultAreaSetBody s)

/-- R111: COALESCE_US has passed since the first record without an interrupt. -/
def execResultIrqTimer (area : Nat) (s : State) : Host.Outcome State Fault Refusal :=
  .next (
    let a := areaAt s area
    if decide (area < 16) && decide (0 < a.since) && decide (a.vector ≤ 63) && decide (a.firstAt + 1000 * a.coalUs ≤ dtOf s) then
      (s.modArea area (fun x => { x with since := 0 })).msi a.vector
    else s)

end Sys2Proof.Machine
end

