-- ==== Sys2Proof/Machine/Graphs.lean ====
section
/-! DEFINITION. Graph images (R151 to R158, R563, R564) with the range checks of every engine's parameter block (R146, R249, R287,
R310, R318, R561, R562) and of tensor programs (R184 to R189), and the 0x0504 and 0x0505 commands. -/
namespace Sys2Proof.Machine

/-! ### Parameter blocks -/

def between (lo hi v : Nat) : Bool := decide (lo ≤ v) && decide (v ≤ hi)

/-- R146. -/
def veParamOk (p : List Byte) : Bool :=
  let f (n : Nat) : Nat := fieldAt p n 1
  let h (n : Nat) : Nat := fieldAt p n 2
  let zero (o : Nat) : Bool := (f32At p o).toNat % 2 ^ 31 == 0
  let fin (o : Nat) : Bool := zero o || f32IsFinite (f32At p o)
  let pos (o : Nat) : Bool := zero o || (f32IsFinite (f32At p o) && decide (0 < f32Val (f32At p o)))
  decide (f 0 < 64) && between 1 6 (f 1) && decide (f 2 ≤ 1) && decide (f 3 ≤ 2) && between 1 16 (f 6) && decide (f 7 ≤ 1) &&
  between 1 8192 (h 8) && between 1 16 (f 0xA) && between 1 (f 1) (f 0xB) && between 1 255 (f 0xE) && decide (h 0x10 ≤ 1791) &&
  decide (f 0x12 ≤ 3) && between 1 255 (f 0x13) && decide (f 0x16 ≤ 1) && f 0x17 == 0 && pos 0x18 && pos 0x1C && fin 0x20 && fin 0x24 &&
  zeroAt p 0x28 24

/-- R561. -/
def hvParamOk (p : List Byte) : Bool :=
  let h (n : Nat) : Nat := fieldAt p n 2
  decide (fieldAt p 0 1 ≤ 1) && zeroAt p 1 1 && between 16 2048 (h 2) && between 1 (h 2) (h 4) && decide (h 6 ≤ 8192) &&
  f32In (f32At p 8) (1 / 100) 100 && f32In (f32At p 0xC) (1 / 2) (9999 / 10000) && zeroAt p 0x14 44

/-- R562. -/
def guParamOk (p : List Byte) : Bool :=
  decide (fieldAt p 0 1 ≤ 1) && between 1 16 (fieldAt p 1 1) && between 1 256 (fieldAt p 2 2) && zeroAt p 4 60

/-- R249. -/
def seParamOk (p : List Byte) : Bool :=
  let f (n : Nat) : Nat := fieldAt p n 1
  decide (f 0 ≤ 1) && decide (f 1 ≤ 1) && between 1 8 (f 2) && decide (f 3 ≤ 1) && decide (1 ≤ fieldAt p 4 2) && decide (fieldAt p 6 2 ≤ 1000) &&
  f32In (f32At p 8) (1 / 10 ^ 12) (1 / 100) && f32In (f32At p 0xC) (1 / 10 ^ 6) 1 && f32In (f32At p 0x10) (1 / 10 ^ 12) (10 ^ 6) &&
  f32In (f32At p 0x14) (1 / 1000) (10 ^ 6) && decide (fieldAt p 0x18 4 ≤ 100000) && decide (f 0x1C ≤ 3) && f 0x1D == 0 &&
  decide (fieldAt p 0x1E 2 ≤ 512) && zeroAt p 0x20 32

/-- R287. -/
def fuParamOk (kind : Nat) (p : List Byte) : Bool :=
  let f (n : Nat) : Nat := fieldAt p n 1
  let h (n : Nat) : Nat := fieldAt p n 2
  between 1 4 (f 0) && decide (f 1 ≤ 1) && decide (f 2 ≤ 3) && decide (1 ≤ f 3) && between 1 64 (h 4) && between 1 256 (h 6) &&
  f32In (f32At p 8) (-10) 0 && f32In (f32At p 0xC) 0 10 && f32In (f32At p 0x10) (1 / 100) 100 && between 100 10000 (h 0x14) &&
  between 100 5000 (h 0x16) && between 2 10 (f 0x18) && decide (f 0x19 ≤ 1) && zeroAt p 0x1A 38 && (f 0 != 4 || kind == 0x81) &&
  (f 0 != 3 || kind == 0x80)

/-- R310. -/
def mapParamOk (p : List Byte) : Bool :=
  let f (n : Nat) : Nat := fieldAt p n 1
  let h (n : Nat) : Nat := fieldAt p n 2
  decide (h 0 ≤ 16129) && between 1 32 (f 2) && between 1 8 (f 3) && between 12 1024 (h 4) && between 128 255 (f 6) && between 1 64 (f 7) &&
  between 10 10000 (h 8) && between 10 1800 (h 0xA) && between 10 10000 (h 0xC) && between 10 10000 (h 0xE) && between 10 10000 (h 0x10) &&
  between 1 1800 (h 0x12) && between 100 60000 (h 0x14) && decide (1 ≤ f 0x16) && between 5 255 (f 0x17) && zeroAt p 0x18 40

/-- R318. -/
def ctxParamOk (p : List Byte) : Bool :=
  p.isEmpty || (decide (fieldAt p 0 1 ≤ 1) && decide (1 ≤ fieldAt p 1 1) && decide (fieldAt p 2 2 ≤ 20000) && zeroAt p 4 12)

/-- The parameter block of a step: its length under R563 and its ranges. -/
def paramOk (kind : Nat) (t : GStep) : Bool :=
  let n := t.param.length
  match t.engine with
  | 2 => n == 64 && veParamOk t.param
  | 3 => n == 64 && hvParamOk t.param
  | 4 => n == 64 && guParamOk t.param
  | 6 => n == 64 && seParamOk t.param
  | 7 => n == 64 && fuParamOk kind t.param
  | 8 => (n == 0 || n == 16) && ctxParamOk t.param
  | 9 => n == 0 || (n == 64 && (if kind == 0x82 then mapParamOk t.param else t.param.all (· == 0)))
  | _ => n == 0

/-! ### The image (R152, R153) -/

/-- One step entry with its parameter block from the constant area. -/
def stepOfEntry (e const : List Byte) : GStep :=
  let rng (o : Nat) (fl : Bool) : Range :=
    { first := fieldAt e o 2, count := fieldAt e (o + 2) 2, shared := fl && bit (fieldAt e (o + 4) 1) 0 }
  { engine := fieldAt e 0 1, streaming := bit (fieldAt e 1 1) 0, itemsMax := fieldAt e 4 4, countBlk := fieldAt e 8 2,
    countOff := fieldAt e 0xA 2, param := (const.drop (fieldAt e 0xC 4)).take (fieldAt e 0x10 2), crate := fieldAt e 0x12 1,
    progOff := fieldAt e 0x14 4, ins := (List.range (min 8 (fieldAt e 2 1))).map (fun i => rng (0x20 + 8 * i) true),
    outs := (List.range (min 4 (fieldAt e 3 1))).map (fun i => rng (0x60 + 8 * i) false) }

/-- Fields and reserved bytes of a step entry (check 2). -/
def entryOk (e : List Byte) : Bool :=
  let ni := fieldAt e 2 1
  let no := fieldAt e 3 1
  between 1 10 (fieldAt e 0 1) && decide (fieldAt e 1 1 ≤ 1) && decide (ni ≤ 8) && decide (no ≤ 4) && between 1 4194304 (fieldAt e 4 4) &&
  (if fieldAt e 8 2 == 0xFFFF then fieldAt e 0xA 2 == 0 else fieldAt e 0xA 2 % 4 == 0 && decide (fieldAt e 0xA 2 ≤ 4092)) &&
  (if fieldAt e 0 1 == 5 then decide (fieldAt e 0x12 1 ≤ 31) else fieldAt e 0x12 1 == 0xFF) && zeroAt e 0x13 1 && zeroAt e 0x18 8 &&
  (List.range 8).all (fun i => if i < ni then decide (fieldAt e (0x24 + 8 * i) 1 ≤ 1) && zeroAt e (0x25 + 8 * i) 3 else zeroAt e (0x20 + 8 * i) 8) &&
  (List.range 4).all (fun i => if i < no then zeroAt e (0x64 + 8 * i) 4 else zeroAt e (0x60 + 8 * i) 8)

def entriesOf (img : List Byte) : List (List Byte) :=
  (List.range (fieldAt img 8 2)).map (fun i => bytesAt img (fieldAt img 0x14 4 + 128 * i) 128)

/-- The graph of an image. -/
def graphOf (img : List Byte) : Graph :=
  let const := bytesAt img (fieldAt img 0x18 4) (fieldAt img 0x1C 4)
  { kind := fieldAt img 6 1, instances := fieldAt img 7 1, blocks := fieldAt img 0xA 2, shared := fieldAt img 0xC 2,
    crateMask := fieldAt img 0x10 4, steps := (entriesOf img).map (fun e => stepOfEntry e const), image := img,
    sharedMem := Mem.write [] 0 (bytesAt const (fieldAt img 0x20 4) (4096 * fieldAt img 0xC 2)) }

/-- Check 1 of R155. -/
def imageForm (img : List Byte) : Bool :=
  let cl := fieldAt img 0x1C 4
  fieldAt img 0 4 == 0x48594701 && fieldAt img 4 2 == 1 && (crc32 (overlay img 0x24 (leBytes 4 0))).toNat == fieldAt img 0x24 4 &&
  decide (fieldAt img 0x14 4 + 128 * fieldAt img 8 2 ≤ img.length) && decide (fieldAt img 0x18 4 + cl ≤ img.length) &&
  decide (fieldAt img 0x20 4 + 4096 * fieldAt img 0xC 2 ≤ cl) &&
  (entriesOf img).all (fun e => decide (fieldAt e 0xC 4 + fieldAt e 0x10 2 ≤ cl))

/-- Check 2. -/
def fieldsOk (img : List Byte) (g : Graph) : Bool :=
  (between 1 6 g.kind || between 0x80 0x82 g.kind) && between 1 32 g.instances && between 1 256 g.steps.length && between 1 5888 g.blocks &&
  decide (g.shared ≤ 5888) && zeroAt img 0xE 2 && zeroAt img 0x28 24 && (entriesOf img).all entryOk && g.steps.all (paramOk g.kind) &&
  g.steps.all (fun t => (t.engine != 3 && t.engine != 4) || decide (t.itemsMax ≤ 8192))

/-- Check 3. -/
def rangesOk (g : Graph) : Bool :=
  g.steps.all (fun t =>
    t.ins.all (fun r => decide (r.first + r.count ≤ (if r.shared then g.shared else g.blocks))) &&
    t.outs.all (fun r => decide (r.first + r.count ≤ g.blocks)) &&
    (t.countBlk == 0xFFFF || t.ins.any (fun r => !r.shared && decide (r.first ≤ t.countBlk) && decide (t.countBlk < r.first + r.count))))

def blocksOfRange (r : Range) : List Nat := (List.range r.count).map (· + r.first)
/-- Instance blocks a step reads and writes. -/
def stepReads (t : GStep) : List Nat := (t.ins.filter (fun r => !r.shared)).flatMap blocksOfRange
def stepWrites (t : GStep) : List Nat := t.outs.flatMap blocksOfRange

/-- Check 4. -/
def writersOk (g : Graph) : Bool :=
  let w := g.steps.flatMap stepWrites
  (List.range g.blocks).all (fun b => (g.steps.filter (fun t => (stepWrites t).contains b)).length == 1) && g.steps.all (fun t => (stepReads t).all (w.contains ·)) &&
  g.steps.all (fun t => (stepReads t).all (fun b => !(stepWrites t).contains b))

/-- Whether a step depends only on blocks that placed steps write. -/
def placeable (done : List Nat) (t : GStep) : Bool := (stepReads t).all (done.contains ·)

/-- One pass of R156 in table order: the blocks written by placed steps, and the steps not yet placed. -/
def placePass : List GStep → List Nat → List Nat × List GStep
  | [], done => (done, [])
  | t :: l, done =>
    if placeable done t then placePass l (done ++ stepWrites t)
    else
      let (d, rest) := placePass l done
      (d, t :: rest)

/-- R156: passes until every step is placed, or one places none. -/
def acyclic : Nat → List GStep → List Nat → Bool
  | 0, l, _ => l.isEmpty
  | n + 1, l, done =>
    let (d, rest) := placePass l done
    if rest.isEmpty then true else if rest.length == l.length then false else acyclic n rest d

/-- Occurrences of R154 and R564. -/
def occursOk (g : Graph) : Bool :=
  let n (e : Nat) : Nat := (g.steps.filter (fun t => t.engine == e)).length
  let op (o : Nat) : Nat := (g.steps.filter (fun t => t.engine == 7 && fieldAt t.param 0 1 == o)).length
  let job (j : Nat) : Bool := g.steps.all (fun t => t.engine != 6 || fieldAt t.param 3 1 == j)
  let pull := n 1 == 1 && g.steps.all (fun t => t.engine != 1 || t.ins.isEmpty)
  if g.kind == 0x80 then pull && job 0 && op 3 == 1 && n 8 == 0 && n 9 == 1
  else if g.kind == 0x81 then n 1 == 0 && job 0 && decide (op 4 ≤ 1) && decide (n 8 ≤ 1) && n 9 == 1
  else if g.kind == 0x82 then n 1 == 0 && n 6 == 1 && job 1 && op 3 == 0 && op 4 == 0 && n 8 == 0 && n 9 == 1 && n 10 == 0
  else pull && job 0 && n 8 == 1 && n 9 == 1

/-! ### Tensor programs (R184 to R189) -/

/-- Bits of an element of a tensor format. -/
def formatBits (f : Nat) : Nat :=
  match f with
  | 4 => 16 | 5 => 32 | 6 => 32 | 7 => 4 | 9 => 32 | _ => 8

/-- The sides of the images among a program's inputs (R209): unsigned pixels, in planes or with their channels innermost. -/
def inputImages (table : List Byte) (tensors : Nat) : List (Nat × Nat) :=
  (List.range tensors).flatMap (fun i =>
    let e := bytesAt table (32 * i) 32
    let dim (k : Nat) : Nat := fieldAt e (4 + 4 * k) 4
    if fieldAt e 0 1 == 8 && fieldAt e 2 1 == 0 && 2 ≤ fieldAt e 1 1 then
      (if fieldAt e 1 1 == 2 then [(dim 0, dim 1)] else [(dim 0, dim 1), (dim 1, dim 2)])
    else [])

/-- One tensor table entry against its step and the images of its program (R185, R188, R189). -/
def tensorOk (t : GStep) (images : List (Nat × Nat)) (e : List Byte) : Bool :=
  let fmt := fieldAt e 0 1
  let rank := fieldAt e 1 1
  let place := fieldAt e 2 1
  let role := fieldAt e 0x18 1
  let dim (i : Nat) : Nat := fieldAt e (4 + 4 * i) 4
  let dims := (List.range (min 4 rank)).map dim
  let bytes := ((dims.foldl (· * ·) 1) * formatBits fmt + 7) / 8
  let rs := if place == 0 then t.ins else t.outs
  let inRange := place == 2 || (match rs[fieldAt e 3 1]? with
    | some r => decide (fieldAt e 0x14 4 + bytes ≤ 4096 * r.count)
    | none => false)
  let room (n : Nat) : Bool := match rs[fieldAt e 3 1]? with
    | some r => decide (fieldAt e 0x14 4 + bytes + n ≤ 4096 * r.count)
    | none => false
  let roleOk := match role with
    | 0 => true
    | 1 => fmt == 2 && rank == 2 && dim 0 == 256 && room (dim 1)
    | 2 => rank == 2 && dim 0 * formatBits fmt == 64
    | 3 => fmt == 2 && rank == 3 && dim 0 == 80 && images.any (fun w => dim 1 == w.1 / 8 && dim 2 == w.2 / 8)
    | 4 => fmt == 1 && dims.foldl (· * ·) 1 == 512
    | 5 => rank == 2 && dim 0 * formatBits fmt == 256
    | _ => false
  between 1 9 fmt && (fmt != 7 || place == 2) && between 1 4 rank && decide (place ≤ 2) && ((fmt != 8 && fmt != 9) || place == 0) && inRange &&
  (role == 0 || place == 1) && roleOk && zeroAt e 0x19 7

/-- Integer and FP32 fields of a layer's PARAM, by number (R187): where they stand in it the spec does not say. -/
def layerNat (layer : List Byte) (i : Nat) : Nat := Config.numericNat 91 (leBytes 1 (fieldAt layer 0 1) ++ leBytes 1 i ++ bytesAt layer 0x20 32)
def layer32 (layer : List Byte) (i : Nat) : Rat := f32Val (Config.numeric32 91 (leBytes 1 (fieldAt layer 0 1) ++ leBytes 1 i ++ bytesAt layer 0x20 32))

/-- A dimension of a tensor table entry; 1 beyond its rank. -/
def entryDim (t : List Byte) (i : Nat) : Nat := if i < fieldAt t 1 1 then fieldAt t (4 + 4 * i) 4 else 1
/-- The side of a convolution's or a pool's output: window taps `dil` apart, `stride` between outputs, padding on both ends; none where no window fits. -/
def convSide (n k stride dil pad : Nat) : Option Nat :=
  if 0 < stride && decide (dil * (k - 1) + 1 ≤ n + 2 * pad) then some ((n + 2 * pad - dil * (k - 1) - 1) / stride + 1) else none

/-- The operand formats of R175 that may stand as an activation, and the pairs that two activations may form. -/
def arrayFormat (f : Nat) : Bool := [1, 2, 3, 4, 8, 9].contains f
def formatClass (f : Nat) : Nat := if f == 1 || f == 8 then 1 else if f == 2 || f == 3 then 2 else if f == 4 || f == 9 then 4 else f

/-- The limits of R187 and R200 on a layer's PARAM and tensors, and the shapes that its operation fixes: dimensions are channels, columns, rows, batch. -/
def layerLimits (table e : List Byte) : Bool :=
  let t (o : Nat) : List Byte := bytesAt table (32 * fieldAt e o 2) 32
  let a := t 4
  let b := t 6
  let out := t 0xC
  let dim := entryDim
  let below (n : Nat) (l : List Nat) : Bool := l.all (fun v => decide (v ≤ n))
  let fmt (x : List Byte) : Nat := fieldAt x 0 1
  let int4 := ([4, 6, 8, 0xA].filter (fun o => fieldAt e o 2 != 0xFFFF)).any (fun o => fmt (t o) == 7)
  let groups (k : Nat) : Bool := !int4 || (k % 32 == 0 && formatClass (fmt a) == 1)
  let same (l : List Nat) : Bool := l.all (fun i => dim a i == dim out i)
  let p := layerNat e
  match fieldAt e 0 1 with
  | 0x01 => arrayFormat (fmt a) && below 65536 [dim a 0, dim a 1 * dim a 2 * dim a 3, dim out 0] && same [1, 2, 3] && groups (dim a 0)
  | 0x02 => arrayFormat (fmt a) && between 1 7 (p 0) && between 1 2 (p 1) && between 1 4 (p 2) && same [3] &&
      convSide (dim a 1) (p 0) (p 1) (p 2) (p 3) == some (dim out 1) && convSide (dim a 2) (p 0) (p 1) (p 2) (p 3) == some (dim out 2) &&
      groups (p 0 * p 0 * dim a 0)
  | 0x03 => arrayFormat (fmt a) && between 1 7 (p 0) && between 1 2 (p 1) && between 1 4 (p 2) && same [0, 3] &&
      convSide (dim a 1) (p 0) (p 1) (p 2) (p 3) == some (dim out 1) && convSide (dim a 2) (p 0) (p 1) (p 2) (p 3) == some (dim out 2) &&
      groups (p 0 * p 0)
  | 0x04 => between 2 4 (p 1) && same [0, 3] && convSide (dim a 1) (p 1) (p 2) 1 0 == some (dim out 1) &&
      convSide (dim a 2) (p 1) (p 2) 1 0 == some (dim out 2)
  | 0x05 => same [0, 1, 2, 3] && decide (((List.range 4).filter (fun i => dim a i != dim b i)).length ≤ 1) &&
      (List.range 4).all (fun i => dim b i == dim a i || dim b i == 1)
  | 0x06 => below 4096 [dim a 0] && same [0, 1, 2, 3]
  | 0x07 => below 4096 [dim a 0] && same [0, 1, 2, 3]
  | 0x08 =>
      let f := layer32 e 1
      decide (1 / 8 ≤ f) && decide (f ≤ 8) && same [0, 3] &&
      [1, 2].all (fun i => decide ((dim out i : Rat) < dim a i * f + 1) && decide (dim a i * f < (dim out i : Rat) + 1))
  | 0x09 => dim a 0 == dim out 0 && decide (0 < p 0)
  | 0x0A => below 4096 [dim a 0] && same [0, 1, 2, 3]
  | 0x0B => arrayFormat (fmt a) && formatClass (fmt a) == formatClass (fmt b) && between 32 512 (dim a 0) && dim a 0 % 32 == 0 &&
      dim b 0 == dim a 0 && between 1 8192 (dim a 1) && between 1 8192 (dim b 1) && between 1 8 (p 0) && dim a 0 % p 0 == 0 && same [0, 1] && groups (dim a 0)
  | 0x0C => arrayFormat (fmt a) && formatClass (fmt a) == formatClass (fmt b) && dim b 0 == dim a 0 && dim out 0 * formatBits (fmt out) == 64 &&
      dim out 1 == dim a 1
  | _ => true

/-- One layer table entry (R186, R187). -/
def layerOk (tensors wlen : Nat) (table e : List Byte) : Bool :=
  let idx (o : Nat) (opt : Bool) : Bool := decide (fieldAt e o 2 < tensors) || (opt && fieldAt e o 2 == 0xFFFF)
  between 1 12 (fieldAt e 0 1) && decide (fieldAt e 1 1 ≤ 5) && decide (fieldAt e 2 1 ≤ 3) && zeroAt e 3 1 && idx 4 true && idx 6 true && idx 8 true &&
  idx 0xA true && idx 0xC false && zeroAt e 0xE 2 && decide (fieldAt e 0x10 4 + fieldAt e 0x14 4 ≤ wlen) && layerLimits table e

/-- A tensor program at an offset of a crate's body passes R188 for a step. -/
def programOk (body : List Byte) (t : GStep) : Bool :=
  let p := body.drop t.progOff
  let n := p.length
  let layers := fieldAt p 6 2
  let tensors := fieldAt p 8 2
  let table := bytesAt p (fieldAt p 0x10 4) (32 * tensors)
  decide (64 ≤ n) && fieldAt p 0 4 == 0x48595401 && fieldAt p 4 2 == 1 && between 1 1024 layers && between 1 4096 tensors && zeroAt p 0xA 2 &&
  decide (fieldAt p 0x1C 4 ≤ 131072) && zeroAt p 0x20 32 && decide (fieldAt p 0xC 4 + 64 * layers ≤ n) &&
  decide (fieldAt p 0x10 4 + 32 * tensors ≤ n) && decide (fieldAt p 0x14 4 + fieldAt p 0x18 4 ≤ n) &&
  (List.range tensors).all (fun i => tensorOk t (inputImages table tensors) (bytesAt table (32 * i) 32)) &&
  (List.range layers).all (fun i => layerOk tensors (fieldAt p 0x18 4) table (bytesAt p (fieldAt p 0xC 4 + 64 * i) 64))

/-- Checks 7 of R155 and R188: crates ready, programs good; a step's crate stands in CRATE_MASK or is tested by itself. -/
def cratesOk (s : State) (g : Graph) : Bool :=
  let ready (n : Nat) : Bool := match crateAt s n with | some c => c.state == 1 | none => false
  (bitsSet g.crateMask 32).all ready &&
  g.steps.all (fun t => t.engine != 5 || (ready t.crate && (match crateAt s t.crate with
    | some c => programOk c.body t
    | none => false)))

/-- The checks 1 to 7 of R155, all of one status. -/
def graphOk (s : State) (img : List Byte) : Bool :=
  let g := graphOf img
  imageForm img && fieldsOk img g && rangesOk g && writersOk g && acyclic 257 g.steps [] && occursOk g &&
  decide ((g.steps.map (·.itemsMax)).foldl (· + ·) 0 ≤ 4194304) && cratesOk s g

/-! ### Loading (R155, R157, R158) -/

/-- Blocks a graph takes on a channel. -/
def graphBlocks (g : Graph) : Nat := g.shared + g.instances * g.blocks
/-- Blocks a graph in a slot of a channel holds: all while it is resident; once it is being unloaded, those of instances that run or wait, and the
shared ones with the last of them (R151, R158). -/
def heldBlocks (s : State) (ch g : Nat) (x : Slot) : Nat :=
  let n := ((chanAt s ch).insts.filter (fun p => p.2.slot == g)).length + ((chanAt s ch).queue.filter (fun w => w.slot == g)).length
  if x.resident then graphBlocks x.graph else if n = 0 then 0 else x.graph.shared + min n x.graph.instances * x.graph.blocks
/-- Free blocks of a channel's shelf (R150, R151). -/
def freeBlocks (s : State) (ch : Nat) : Nat :=
  5888 - ((s.core.work.graphs.filter (fun p => p.1 / 64 == ch)).map (fun p => heldBlocks s ch (p.1 % 64) p.2)).foldl (· + ·) 0

/-- Whether a slot holds a graph on a channel of a mask. -/
def slotTaken (s : State) (g mask : Nat) : Bool := (List.range 8).any (fun c => bit mask c && (graphAt s c g).isSome)

def graphLoadBody (r : Req) (s : State) : State :=
  let g := r.u8 0
  let mask := r.u8 1
  let len := r.u32 16
  s.guarded r.h
    [need (decide (g ≤ 63) && mask != 0 && between 64 16777216 len) 0x11, need (!held s (.graph g)) 0x13, need (!slotTaken s g mask) 0x13]
    (fun s => s.accept r.h (.graphLoad g mask (r.u64 8) len))
def execGraphLoad (hatch : Nat) (s : State) : Host.Outcome State Fault Refusal :=
  .next (serve 0x0504 hatch graphLoadBody s)

/-- The end of GRAPH_LOAD with what its DMA read gave (R155, R157). -/
def State.graphLoadEnds (s : State) (hatch : Nat) (d : Dma) : State :=
  match jobAt s hatch with
  | some (.graphLoad n mask addr len) =>
    let s := s.emit (.dmaRead addr len)
    (match d with
     | .failed p => (s.dmaFault p).place hatch 0x30
     | .ok data =>
       let img := padTo len data
       let g := graphOf img
       let chs := bitsSet mask 8
       if !graphOk s img then s.place hatch 0x11
       else if chs.any (fun c => !(serviceChans s).contains c) then s.place hatch 0x12
       else if chs.any (fun c => decide (freeBlocks s c < graphBlocks g)) then s.place hatch 0x13
       else
         let before := (pinPlan s).2
         let s := s.modWork (fun w => { w with graphs := chs.foldl (fun m c => NMap.set m (slotKey c n) { graph := g, mask := mask }) w.graphs })
         (s.pinCrates before).place hatch 0x00)
  | _ => s
def execGraphLoadDone (hatch : Nat) (data : List Byte) (s : State) : Host.Outcome State Fault Refusal :=
  .next (if running s then s.graphLoadEnds hatch (.ok data) else s)

/-- The channels GRAPH_UNLOAD acts on (R158). -/
def unloadChans (s : State) (g mask : Nat) : List Nat :=
  (serviceChans s).filter (fun c => bit mask c && (graphAt s c g).isSome)

def graphUnloadBody (r : Req) (s : State) : State :=
  let g := r.u8 0
  let mask := r.u8 1
  s.guarded r.h
    [need (decide (g ≤ 63) && mask != 0) 0x11, need (!held s (.graph g)) 0x13, need (!s.core.work.streams.any (fun t => t.2.graph == g)) 0x13]
    (fun s =>
      let chs := unloadChans s g mask
      let before := (pinPlan s).2
      let s := s.modWork (fun w =>
        { w with graphs := chs.foldl (fun m c => NMap.upd m (slotKey c g) (fun x => { x with resident := false })) w.graphs })
      (s.pinCrates before).accept r.h (.graphUnload g mask))
def execGraphUnload (hatch : Nat) (s : State) : Host.Outcome State Fault Refusal :=
  .next (serve 0x0505 hatch graphUnloadBody s)

/-- Whether anything of a graph still runs or waits on a channel. -/
def graphBusy (s : State) (ch g : Nat) : Bool :=
  (chanAt s ch).insts.any (fun p => p.2.slot == g) || (chanAt s ch).queue.any (fun w => w.slot == g)

/-- The last instance has ended: the blocks are cleared and freed, and DONE is placed (R158). -/
def execGraphUnloadDone (hatch : Nat) (s : State) : Host.Outcome State Fault Refusal :=
  .next (match jobAt s hatch with
    | some (.graphUnload g mask) =>
      let chs := (List.range 8).filter (fun c => bit mask c && (match graphAt s c g with
        | some x => !x.resident
        | none => false))
      if chs.all (fun c => !graphBusy s c g) then
        (s.modWork (fun w => { w with graphs := chs.foldl (fun m c => NMap.erase m (slotKey c g)) w.graphs })).place hatch 0x00
      else s
    | _ => s)

end Sys2Proof.Machine
end

