-- ==== Sys2Proof/Machine/Power.lean ====
section
/-! DEFINITION. Power and heat (R36 to R42, R555, R557): the pin cap, the control loop, the limiter, the thermal rule. Powers are
in 0.1 W, temperatures in 0.25 °C. -/
namespace Sys2Proof.Machine

/-- R38: the pins are sampled each millisecond from ST9 on; a value that two successive samples show is the next pin cap. -/
def execPwrCapSample (pins : Nat) (s : State) : Host.Outcome State Fault Refusal :=
  .next (
    let s := s.modHw (fun h => { h with capPins := pins % 4 })
    if s.core.sys.phase == .ready && running s then
      s.modPow (fun p =>
        { p with pinSample := pins % 4, pinNext := if p.pinSample == pins % 4 then pinCapOf s.hw.part (pins % 4) else p.pinNext })
    else s)

/-- One step of the control loop (R39) on its own requests, for a window's power and a cap, in 0.1 W. -/
def Pow.loop (p : Pow) (dw cap : Nat) : Pow :=
  if cap < dw then
    if 400 < p.ctlMhz then { p with ctlMhz := p.ctlMhz - 100, calm := 0 } else { p with ctlAdm := max 1 (p.ctlAdm - 1), calm := 0 }
  else if dw + 50 ≤ cap then
    let p := { p with calm := p.calm + 1 }
    if p.calm < 100 then p
    else if p.ctlAdm < 8 then { p with ctlAdm := p.ctlAdm + 1 }
    else if p.ctlMhz < 1600 then { p with ctlMhz := p.ctlMhz + 100 } else p
  else { p with calm := 0 }

/-- The measurement of a window (R39, R554): the whole second's values when one ends. -/
def Pow.measure (p : Pow) (dw mhz now : Nat) : Pow :=
  let p := { p with power := dw, sampleDt := now, sum := p.sum + dw, sec := { p.sec with windows := p.sec.windows + 1 } }
  let whole := now / 1000000000 * 1000000000
  if p.sec.dt < whole then
    { p with sec := { power := p.sum / p.sec.windows, tj := p.tj, tStore := p.tStore, mhz := mhz, dt := whole, windows := 0 }, sum := 0 }
  else p

def execPowerWindow (deciWatts : Nat) (s : State) : Host.Outcome State Fault Refusal :=
  .next (
    if s.core.sys.phase == .ready && running s then
      let s := s.modPow (fun p => { p with pinCap := p.pinNext })
      let s := s.modPow (fun p => (p.measure deciWatts (tensorMhz s) (dtOf s)).loop deciWatts (10 * effectiveCap s))
      let s := s.modPow (fun p => { p with limiter := false })
      s.traceRec 0x60 (tensorMhz s / 100) (leBytes 2 (deciWatts / 10) ++ leBytes 1 (admEighths s) ++ [0])
    else s)

/-- R41: a 100 µs window above the package limit. -/
def execPowerLimiterWindow (deciWatts : Nat) (s : State) : Host.Outcome State Fault Refusal :=
  .next (
    if running s && decide (10 * packageW s.hw.part < deciWatts) && !s.core.pow.limiter then
      (s.modPow (fun p => { p with limiter := true })).bump (devCtr 0) 1
    else s)

/-- The firmware side of R557 for one window: lowering at 100 °C, restoring after 1 s at or below 97 °C. -/
def Pow.thermal (p : Pow) (tj : Int) : Pow :=
  let p := { p with thSince := min 100 (p.thSince + 1), thCool := if tj ≤ 388 then p.thCool + 1 else 0 }
  if 400 ≤ tj then
    if 100 ≤ p.thSince then
      let p := { p with thSince := 0, throttle := true }
      if 400 < p.thMhz then { p with thMhz := p.thMhz - 100 } else { p with thAdm := max 1 (p.thAdm - 1) }
    else p
  else if decide (1000 ≤ p.thCool) && (p.thCool - 1000) % 100 == 0 then
    let p := if p.thAdm < 8 then { p with thAdm := p.thAdm + 1 }
      else if p.thMhz < 1600 then { p with thMhz := p.thMhz + 100 } else p
    { p with throttle := p.throttle && !(p.thAdm == 8 && p.thMhz == 1600) }
  else p

def execThermalSample (tjQuarter tStoreQuarter : Int) (s : State) : Host.Outcome State Fault Refusal :=
  .next (
    if !running s then s
    else s.modPow (fun p =>
      let p := { p with
        tj := tjQuarter
        tStore := tStoreQuarter
        alert := if 412 ≤ tjQuarter then true else if tjQuarter < 392 then false else p.alert
        hot := if 440 ≤ tjQuarter then true else if tjQuarter < 420 then false else p.hot }
      if s.core.sys.phase == .ready then p.thermal tjQuarter else p))

end Sys2Proof.Machine
end

