-- ==== Sys2Proof/Machine/EventTable.lean ====
section
/-! DEFINITION. The event table, timed launches and the timed pins (R376 to R389): what entries do when they fire, the pins'
edges and captures. Instants are in quarters of a ns of DT. -/
namespace Sys2Proof.Machine

/-- A radio frame and an SFN cycle in quarters of a ns. -/
def frameQ : Nat := 40000000
def cycleQ : Nat := 40960000000

/-- The SFN value in which an instant falls (R373, R377). -/
def sfnOf (s : State) (q : Nat) : Nat := (((q : Int) - 4 * s.core.air.epoch) % (cycleQ : Int)).toNat / frameQ

/-- Whether an entry of a period, first falling in frame `f`, occupies the SFN value `x` (R377). -/
def occupies (f period x : Nat) : Bool := if period == 0 then f == x else f % period == x % period

/-- Removes an entry, discarding the frame of a full launch slot it names (R378, R385). -/
def State.removeEvent (s : State) (idx : Nat) : State :=
  match NMap.get? s.core.air.events idx with
  | none => s
  | some e =>
    let s := s.modAir (fun a => { a with events := NMap.erase a.events idx })
    let key := 64 * bits e.arg 8 8 + bits e.arg 5 0
    if e.action == 5 && NMap.has s.core.air.launch key then
      (s.modAir (fun a => { a with launch := NMap.erase a.launch key })).bump (timeCtr (bits e.arg 8 8) 5) 1
    else s

/-- Removes every entry that satisfies a test. -/
def State.removeEvents (s : State) (f : EvEntry → Bool) : State :=
  ((s.core.air.events.filter (fun p => f p.2)).map (·.1)).foldl State.removeEvent s

/-! ### Launches (R384, R385) -/

/-- A launch of a slot at an instant. -/
def State.launch (s : State) (p slot q : Nat) : State :=
  let key := 64 * p + slot
  match NMap.get? s.core.air.launch key with
  | none => s.bump (timeCtr p 2) 1
  | some f =>
    let s := s.modAir (fun a => { a with launch := NMap.erase a.launch key })
    if !s.hw.epUp.getD p false then (s.bump (timeCtr p 3) 1).err1 1 3 p
    else
      let free := s.core.air.launchBusy.getD p 0 + wireQ s p 8
      let late := decide (q < free)
      let t := if late then free else q
      let s := if late then s.bump (timeCtr p 4) 1 else s
      let s := s.modAir (fun a => { a with launchBusy := setAt a.launchBusy p (t + wireQ s p (f.length + 16)) })
      s.emit (.ethFrame p t (f ++ leBytes 4 (crc32 f).toNat))

/-! ### Capture windows (R381, R335) -/

/-- Opens a chain's window at an instant, unless it is open. -/
def Chain.openWindow (c : Chain) (q : Nat) : Chain :=
  match c.windows with
  | (_, none) :: _ => c
  | l => { c with windows := ((q, none) :: l).take 8 }
/-- Closes a chain's open window at an instant. -/
def Chain.closeWindow (c : Chain) (q : Nat) : Chain :=
  match c.windows with
  | (a, none) :: l => { c with windows := (a, some q) :: l }
  | _ => c

/-! ### Pins (R387) -/

/-- A pin event at an instant: 0 low, 1 high, 2 toggle, 3 pulse of `w` units of 8 ns. -/
def State.pinAction (s : State) (pin level w q : Nat) : State :=
  let t := s.core.air.tev.getD pin {}
  let t' : Tev :=
    if level == 3 then { t with level := true, pulseEnd := some (max (q + 32 * w) (t.pulseEnd.getD 0)) }
    else { t with level := if level == 0 then false else if level == 1 then true else !t.level, pulseEnd := none }
  let s := s.modAir (fun a => { a with tev := setAt a.tev pin t' })
  if t'.level == t.level then s else s.emit (.tevEdge pin q t'.level)

/-! ### Cycles (R382, R160, R279) -/

/-- Sessions of a group and context. -/
def groupSessions (s : State) (ctx group : Nat) : List (Nat × Session) :=
  s.core.work.sess.filter (fun p => p.2.owner == ctx && p.2.ctx.cfg.group == group)

/-- Whether a cycle instance of a group exists, waiting or running (R279). -/
def cycleExists (s : State) (key : Nat) : Bool :=
  s.core.chans.any (fun c => c.insts.any (fun p => p.2.origin == .cycleTrack key) || c.queue.any (fun w => w.origin == .cycleTrack key))

/-- The home channel of a group: the one it has while a cycle instance exists, else the ordinary channel with the most open
sessions of the group (R279). -/
def homeOf (s : State) (key : Nat) : Option Nat :=
  let now := NMap.get? s.core.fus.home key
  if cycleExists s key && now.isSome then now
  else
    let g := groupSessions s (key / 256) (key % 256)
    let n (c : Nat) : Nat := (g.filter (fun p => p.2.chan == c)).length
    minBy (fun c => 16384 - n c) (ordinaryChans s)

/-- The crates of the graph in a slot of a channel admit a context (R451). -/
def slotAdmits (s : State) (ch slot ctx : Nat) : Bool := match graphAt s ch slot with
  | some g => graphAdmits s g.graph ctx
  | none => true

/-- One cycle solve for a session, merged with one that still waits (R160, R382). -/
def State.cycleSession (s : State) (slot key dl : Nat) (p : Nat × Session) : State :=
  let (sid, x) := p
  if x.state == .closing then s
  else if !slotAdmits s x.chan slot (key / 256) then s.bump (secCtr 2) 1
  else
    let waiting := (chanAt s x.chan).queue.any (fun w => w.origin == .cycleSolve key && w.sid == some sid)
    if waiting then s.bump (chanCtr x.chan 1) 1
    else s.enqueue x.chan
      { slot := slot, origin := .cycleSolve key, ctx := key / 256, sid := some sid, arrival := dtOf s, deadline := dl }

/-- A CYCLE at an instant (R382): solve instances for the group's sessions, then the track instance on its home channel. -/
def State.cycle (s : State) (arg q : Nat) : State :=
  let key := 256 * bits arg 15 8 + bits arg 7 0
  let solve := bits arg 22 16
  let track := bits arg 30 24
  let dl := q / 4 + 10000000
  let s :=
    if solve == 0x7F then s
    else if !residentAny s solve then s.bump (devCtr 2) 1
    else (groupSessions s (key / 256) (key % 256)).foldl (fun s p => s.cycleSession solve key dl p) s
  if track == 0x7F then s
  else match homeOf s key with
    | none => s
    | some home =>
      if (residentAt s home track).isNone then s.bump (devCtr 2) 1
      else if !slotAdmits s home track (key / 256) then s.bump (secCtr 2) 1
      else if (chanAt s home).queue.any (fun w => w.origin == .cycleTrack key) then s.bump (chanCtr home 1) 1
      else
        (s.modFus (fun f => { f with home := NMap.set f.home key home })).enqueue home
          { slot := track, origin := .cycleTrack key, ctx := key / 256, sid := none, arrival := dtOf s, deadline := dl }
where
  /-- A graph is resident in a slot on some ordinary channel. -/
  residentAny (s : State) (g : Nat) : Bool := (ordinaryChans s).any (fun c => (residentAt s c g).isSome)

/-! ### Firing (R380) -/

/-- What an action does at its instant (R379). -/
def State.act (s : State) (e : EvEntry) : State :=
  let a := e.arg
  let chains (f : Chain → Chain) : State :=
    s.modScu (fun u => { u with chains := (u.chains.zipIdx).map (fun p => if bit a p.2 then f p.1 else p.1) })
  if e.action == 1 then s.modAir (fun t => { t with closes := NMap.set t.closes (256 * bits a 15 8 + bits a 7 0) e.next })
  else if e.action == 2 then s.cycle a e.next
  else if e.action == 3 then chains (fun c => c.closeWindow e.next)
  else if e.action == 4 then chains (fun c => c.openWindow e.next)
  else if e.action == 5 then s.launch (bits a 8 8) (bits a 5 0) e.next
  else s.pinAction (bits a 1 0) (bits a 5 4) (bits a 31 16) e.next

/-- What orders entries that share an instant and an ACTION: INDEX (R380), but the slot first for two launches on one port (R385). -/
def tieRank (i : Nat) (e d : EvEntry) : Nat :=
  if e.action == 5 && d.action == 5 && bits e.arg 8 8 == bits d.arg 8 8 then bits e.arg 5 0 else i
/-- Whether an entry comes before another of the table: by instant, then ACTION, then INDEX (R380, R385). -/
def before (i : Nat) (e : EvEntry) (j : Nat) (d : EvEntry) : Bool :=
  decide (e.next < d.next) ||
    (e.next == d.next && (decide (e.action < d.action) || (e.action == d.action && decide (tieRank i e d < tieRank j d e))))

def execEventFire (index : Nat) (s : State) : Host.Outcome State Fault Refusal :=
  .next (match NMap.get? s.core.air.events index with
    | none => s
    | some e =>
      if running s && decide (e.next ≤ dtQuarter s) && !s.core.air.events.any (fun p => before p.1 p.2 index e) then
        let s := s.act e
        let s := s.modAir (fun a =>
          { a with events := if e.period == 0 then NMap.erase a.events index
                             else NMap.set a.events index { e with next := e.next + frameQ * e.period } })
        s.traceRec 0x30 e.action (leBytes 2 index)
      else s)

/-- R387: a pulse's width has elapsed, and the pin falls. -/
def execTevPulseEnd (pin : Nat) (s : State) : Host.Outcome State Fault Refusal :=
  .next (match (s.core.air.tev.getD pin {}).pulseEnd with
    | some q =>
      if decide (q ≤ dtQuarter s) then
        (s.modAir (fun a => { a with tev := updAt a.tev pin (fun t => { t with level := false, pulseEnd := none }) })).emit
          (.tevEdge pin q false)
      else s
    | none => s)

/-- The last whole second, or radio frame start, at or before now (R389). -/
def ppsBoundary (s : State) (mode : Nat) : Nat :=
  if mode == 1 then dtOf s / 1000000000 * 1000000000
  else ((dtOf s : Int) - ((dtOf s : Int) - s.core.air.epoch) % 10000000).toNat

/-- R389: PPS_OUT rises at a whole second or a radio frame start, and falls after its width. -/
def execPpsOutEdge (s : State) : Host.Outcome State Fault Refusal :=
  .next (
    let c := s.core.air.ppsCtl.toNat
    let mode := bits c 1 0
    let width := if bits c 28 16 == 0 then 1 else min (bits c 28 16) 5000
    match s.core.air.ppsHigh with
    | some e =>
      if decide (e ≤ dtOf s) then (s.modAir (fun a => { a with ppsHigh := none })).emit (.ppsEdge e false) else s
    | none =>
      let b := ppsBoundary s mode
      if running s && (mode == 1 || mode == 2) && decide (s.core.air.ppsLast.getD 0 < b) then
        (s.modAir (fun a => { a with ppsHigh := some (b + 1000 * width), ppsLast := some b })).emit (.ppsEdge b true)
      else s)

/-- Whether a capture source takes an edge (R388): PPS_IN rising, a TEV pin by its mode. -/
def captures (s : State) (source : Nat) (rising : Bool) : Bool :=
  if source == 0 then rising
  else match (s.core.air.tev.getD (source - 1) {}).mode with
    | 1 => rising
    | 2 => !rising
    | _ => false

def execCaptureEdge (source : Nat) (rising : Bool) (s : State) : Host.Outcome State Fault Refusal :=
  .next (
    if !running s || decide (4 < source) || !captures s source rising then s
    else
      let c := s.core.air.caps.getD source {}
      let q := dtQuarter s
      let s := s.modAir (fun a => { a with caps := updAt a.caps source (fun c => { c with last := some q }) })
      if c.last.any (fun l => decide (q < l + 40)) then s
      else if 16 ≤ c.q.length then
        (s.modAir (fun a => { a with caps := updAt a.caps source (fun c => { c with ovf := true }) })).err1 1 4 source
      else s.modAir (fun a => { a with caps := updAt a.caps source (fun c => { c with q := c.q ++ [q] }) }))

end Sys2Proof.Machine
end

