-- ==== Sys2Proof/Machine/Registers.lean ====
section
/-! DEFINITION. BAR0: the value of every register (R80, R81), the halves of 64-bit registers (R16), and a host write by its
access code (R13, R14, R17), with the rows of register accesses. -/
namespace Sys2Proof.Machine

/-! ### Values -/

/-- FREE_NEAR (R430): 0 until firmware has laid out the store room. -/
def freeNear (s : State) : Nat := if s.core.tiers.ranges.isEmpty then 0 else freeNearCount s

/-- The statistics of a requester that reads show: latched and coarsened in confidential mode (R470). -/
def statShown (s : State) (n : Nat) : ReqStat :=
  let now := s.core.fab.stats.getD n {}
  if s.core.sys.conf then
    let l := s.core.obs.arbLatch.getD n {}
    { l with starving := now.starving, starved := now.starved, masked := now.masked, lockHeld := now.lockHeld }
  else now

/-- One register word of requester n (R429). -/
def arbWord (s : State) (n o : Nat) : Nat :=
  let r := statShown s n
  if o == 0x00 then r.beats % 2 ^ 32
  else if o == 0x04 then r.beats / 2 ^ 32
  else if o == 0x08 then r.slotGrants
  else if o == 0x0C then r.background
  else if o == 0x10 then r.lateC
  else if o == 0x14 then r.lateM
  else if o == 0x18 then r.lateF
  else if o == 0x1C then min r.waitMax 0xFFFFFFFF
  else if o == 0x20 then r.taken
  else if o == 0x24 then r.refused % 65536 + 65536 * (r.deferred % 65536)
  else if o == 0x28 then r.torn
  else if o == 0x2C then packBits [(b2n r.starving, 0), (b2n r.starved, 1), (b2n r.masked, 2), (b2n r.lockHeld, 3)]
  else 0

/-- A register word of a tier block register (R430). -/
def tierWord (s : State) (i : Nat) : Nat :=
  if i == 8 then (if s.core.sys.conf then NMap.getD s.core.obs.latch (tierCtr 8) 0 else freeNear s)
  else if i < 10 then counterValue s (tierCtr i) else 0

/-- A word of the sticky error records (R525 to R527, R529). -/
def errWord (s : State) (o : Nat) : Nat :=
  if o == 0x400 then errSummary s
  else if o < 0x400 then
    let i := o / 64
    let r := s.err.regs.getD i {}
    if !errPresent s i then 0
    else if o % 64 == 0 then r.bits.toNat
    else if o % 64 == 8 then r.firstDt.toNat % 2 ^ 32
    else if o % 64 == 0xC then r.firstDt.toNat / 2 ^ 32
    else if o % 64 == 0x10 then maskInfo s r.firstInfo.toNat % 2 ^ 32
    else if o % 64 == 0x14 then maskInfo s r.firstInfo.toNat / 2 ^ 32
    else 0
  else 0

/-- The registers of capture source n (R388): CAP_NS, CAP_FRAC, CAP_STAT. -/
def capWord (s : State) (n o : Nat) : Nat :=
  let c := s.core.air.caps.getD n {}
  let st := c.q.headD 0
  if o == 0 then st / 4 % 2 ^ 32
  else if o == 4 then st / 4 / 2 ^ 32
  else if o == 8 then st % 4 * 2 ^ 30
  else if o == 0xC then packBits [(c.q.length, 0), (b2n c.ovf, 8)]
  else 0

/-- One 32-bit half of a 64-bit value. -/
def halfOf (v : Nat) (upper : Bool) : Nat := if upper then v / 2 ^ 32 % 2 ^ 32 else v % 2 ^ 32

/-- A word of the time mirror (R358 to R389, R501). -/
def timeWord (s : State) (o : Nat) : Nat :=
  let t := s.core.time
  let l := s.core.link
  let up := o % 8 == 4
  let b := o / 8 * 8
  if b == 0x00 then halfOf (dtOf s) up
  else if o == 0x08 then t.fracLatch.toNat
  else if b == 0x10 then halfOf t.airLatch.toNat up
  else if b == 0x18 then halfOf t.inc.toNat up
  else if o == 0x28 then timeStat s
  else if o == 0x40 then t.measSeq.toNat
  else if b == 0x48 then halfOf (t.measLatch.getD 0 0).toNat up
  else if b == 0x50 then halfOf (t.measLatch.getD 1 0).toNat up
  else if b == 0x58 then halfOf (t.measLatch.getD 2 0).toNat up
  else if o == 0x100 then s.core.air.ppsCtl.toNat
  else if b == 0x108 then halfOf (launchPend s 0) up
  else if b == 0x110 then halfOf (launchPend s 1) up
  else if o == 0x200 then linkTstat s
  else if o == 0x208 then l.seq.toNat
  else if b == 0x210 then halfOf (l.latch.getD 0 0).toNat up
  else if b == 0x218 then halfOf (l.latch.getD 1 0).toNat up
  else if 0x400 ≤ o && o < 0x4A0 then capWord s ((o - 0x400) / 0x20) ((o - 0x400) % 0x20)
  else 0

/-- A word of the MSI-X table (R80, R98). -/
def msixWord (s : State) (o : Nat) : Nat :=
  let e := s.pcie.table.getD (o / 16) {}
  if o % 16 == 0 then e.addr.toNat % 2 ^ 32
  else if o % 16 == 4 then e.addr.toNat / 2 ^ 32
  else if o % 16 == 8 then e.data.toNat
  else e.ctrl.toNat

/-- The word that a BAR0 offset, aligned to 4, holds now; unused addresses read zero (R80, R81). -/
def bar0Word (s : State) (a : Nat) : W32 :=
  BitVec.ofNat 32 (
    if a < 0x4000 then leNat (Mem.bytes s.core.hat.mem a 4)
    else if a < 0x4040 then (areaAt s ((a - 0x4000) / 4)).rd.toNat
    else if a == 0x4040 then s.core.ring.evRd.toNat
    else if 0x4100 ≤ a && a < 0x4200 then hatchCtl s ((a - 0x4100) / 4)
    else if a == 0x4200 then halfOf s.core.hat.done.toNat false
    else if a == 0x4204 then halfOf s.core.hat.done.toNat true
    else if a == 0x4208 then devStatus s
    else if 0x8000 ≤ a && a < 0x8400 then msixWord s (a - 0x8000)
    else if a == 0x9000 then halfOf s.pcie.pba.toNat false
    else if a == 0x9004 then halfOf s.pcie.pba.toNat true
    else if 0x10000 ≤ a && a < 0x20000 then errWord s (a - 0x10000)
    else if 0x20000 ≤ a && a < 0x30000 then timeWord s (a - 0x20000)
    else if 0x180000 ≤ a && a < 0x180E00 then arbWord s ((a - 0x180000) / 0x40) ((a - 0x180000) % 0x40)
    else if 0x181000 ≤ a && a < 0x181028 then tierWord s ((a - 0x181000) / 4)
    else if 0x100000 ≤ a && a < 0x118000 then halfOf (counterValue s (a / 8 * 8)) (a % 8 == 4)
    else 0)

/-- Whether the 8 bytes at an offset are one 64-bit register (R16). -/
def is64 (a : Nat) : Bool :=
  a == 0x4200 || a == 0x9000
    || (0x10000 ≤ a && a < 0x10400 && (a % 64 == 8 || a % 64 == 0x10))
    || [0x20000, 0x20010, 0x20018, 0x20020, 0x20048, 0x20050, 0x20058, 0x20108, 0x20110, 0x20210, 0x20218].contains a
    || (0x20400 ≤ a && a < 0x204A0 && a % 0x20 == 0)
    || (0x100000 ≤ a && a < 0x118000 && a % 8 == 0)
    || (0x180000 ≤ a && a < 0x180E00 && (a % 64 == 0 || a % 64 == 8))

/-! ### Reads with a side effect -/

/-- Latches TIME_FRAC and AIR_NOW at this tick (R358). -/
def State.latchTime (s : State) : State :=
  s.modTime (fun t =>
    { t with fracLatch := BitVec.ofNat 32 (dtFrac s), airLatch := BitVec.ofNat 64 (airWord (airNow s)) })

/-- A 32-bit read of the lower half of a 64-bit register: the upper half waits in the latch (R16), with R358's companions. -/
def State.readLower (s : State) (a : Nat) : State :=
  let s := if a == 0x20000 then s.latchTime else s
  let v := bar0Word s a
  let u := bar0Word s (a + 4)
  (s.modRing (fun r => { r with latch := NMap.set r.latch a u })).emit (.readData (leBytes 4 v.toNat) false)

/-- A 32-bit read of the upper half: the latched value, consumed, or the current one (R16). -/
def State.readUpper (s : State) (a : Nat) : State :=
  let v := NMap.getD s.core.ring.latch a (bar0Word s (a + 4))
  (s.modRing (fun r => { r with latch := NMap.erase r.latch a })).emit (.readData (leBytes 4 v.toNat) false)

/-- The endpoint answers accesses: its supply is up and it is out of its own reset (R502). -/
def endpointUp (s : State) : Bool := s.hw.rails && s.hw.perstN && s.core.sys.phase != .unpowered

/-- Bytes of BAR0 as the registers they fall in hold them (R17). -/
def barBytes (s : State) (off n : Nat) : List Byte :=
  bytesAt ((List.range ((off % 4 + n + 3) / 4)).flatMap (fun k => leBytes 4 (bar0Word s (off / 4 * 4 + 4 * k)).toNat)) (off % 4) n

/-- The state after an aligned 32-bit read of a register of 32 bits, or of a half of one of 64: MEAS_SEQ and LINK_MEAS_SEQ latch the values of their
measurement (R367, R501). -/
def State.read32 (s : State) (a : Nat) : State :=
  if a % 8 == 0 && is64 a then s.readLower a
  else if a % 8 == 4 && is64 (a - 4) then s.readUpper (a - 4)
  else
    let t := s.emit (.readData (barBytes s a 4) false)
    if a == 0x20040 then t.modTime (fun t => { t with measLatch := [t.measOffset, t.measPath, t.measT2] })
    else if a == 0x20208 then t.modLink (fun l => { l with latch := [l.offset, l.path] })
    else t

/-- A host read of BAR0 (R15 to R17): by its register's width, or by halves; an aligned one of 64 bits over two registers of 32 is two reads, the lower
address first; a narrow or misaligned one returns the bytes and has no side effect. A core in reset shows its registers and takes no side effect. -/
def State.barRead (s : State) (off width : Nat) : State :=
  if !endpointUp s then s
  else if !running s || off % width != 0 || width < 4 then s.emit (.readData (barBytes s off width) false)
  else if width == 4 then s.read32 off
  else if is64 off then (if off == 0x20000 then s.latchTime else s).emit (.readData (barBytes s off 8) false)
  else
    let t := (s.read32 off).read32 (off + 4)
    { t with out := s.out ++ [.readData (barBytes s off 4 ++ barBytes ({ t with out := s.out }) (off + 4) 4) false] }

/-! ### Writes -/

/-- Merges a write of one 32-bit half into a 64-bit register (R16): a lower half is held, an upper half completes it. `cur` is
the value that a missing lower half is taken from; the answer is the value to write, if any. For HATCH_DONE and TIME_STEP, whose writes are no
values of the register, a missing lower half counts as 0 (DESIGN CHOICE, row 144 of the log). -/
def State.halfWrite (s : State) (a : Nat) (upper : Bool) (v cur : Nat) : Option Nat × State :=
  if upper then
    let lo := (NMap.get? s.core.ring.held a).map (·.toNat)
    (some (lo.getD (cur % 2 ^ 32) + 2 ^ 32 * (v % 2 ^ 32)), s.modRing (fun r => { r with held := NMap.erase r.held a }))
  else (none, s.modRing (fun r => { r with held := NMap.set r.held a (BitVec.ofNat 32 v) }))

/-- The limits of R359 in units of 2⁻³² ns: 1.5992 ns and 1.6008 ns, rounded into the range. -/
def incMin : Nat := 6868511700
def incMax : Nat := 6875383647

/-- TIME_INC takes a value, clamped, from the next tick (R359). -/
def State.setInc (s : State) (v : Nat) : State :=
  let v := v % 2 ^ 40
  let c := if v < incMin then incMin else if incMax < v then incMax else v
  let s := s.modTime (fun t => { t with inc := BitVec.ofNat 64 c })
  if c == v then s else s.err1 1 0

/-- Changes CLOCK_Q and raises CLOCK_QUALITY (R371); leaving LOCKED sets ERR_TIME bit 5. -/
def State.setClockQ (s : State) (q : ClockQ) : State :=
  let old := s.core.time.clockQ
  if old == q then s
  else
    let s := s.modTime (fun t =>
      { t with clockQ := q, holdSince := if q == .holdover then some (dtOf s) else none, hold165 := false })
    let s := if old == .locked then s.err1 1 5 else s
    s.event 0x0007 [leBytes 1 (clockCode q)]

/-- A step of DT (R361, R371): taken at the next tick; STEPPED, FREE_RUN, and both runs of R371 start again. -/
def State.setStep (s : State) (v : Int) : State :=
  if s.core.work.sess.isEmpty && s.core.air.events.isEmpty && s.core.air.launch.isEmpty then
    let s := s.modTime (fun t => { t with stepNs := some v, stepped := true, run16 := 0, run8 := 0 })
    s.setClockQ .freeRun
  else s.err1 1 1

/-- A W1C write to a sticky error register (R526, R528): an owner bit takes its owned fields with it, and a register that then
reads zero drops its first-error details. -/
def State.clearErr (s : State) (i v : Nat) : State :=
  if !errPresent s i then s
  else
    let mask := if i == 4 then bits v 2 0 + bits v 15 8 * 256 else if 8 ≤ i then bits v 7 0 else v
    let mask := if 8 ≤ i && bit v 7 then mask ||| 0x7700 else mask
    let mask := if i == 4 && bit v 2 then mask ||| 0xFF00 else mask
    let r := s.err.regs.getD i {}
    let b := r.bits &&& ~~~(BitVec.ofNat 32 mask)
    let r' : ErrReg := if b == 0 then {} else { r with bits := b }
    { s with err := { s.err with regs := setAt s.err.regs i r' } }

/-- RD_COUNT of a result area (R60). -/
def State.setAreaRd (s : State) (n v : Nat) : State := s.modArea n (fun a => { a with rd := BitVec.ofNat 32 v })

/-- EVRING_RD: frees entries, and held ones are written in order (R101, R103). -/
def State.setEvRd (s : State) (v : Nat) : State :=
  State.drainEvents 4096 (s.modRing (fun r => { r with evRd := BitVec.ofNat 32 v }))

/-- PPS_CTL (R389): reserved bits are ignored; edges of a mode count from its write, and without a mode the pin is released. -/
def State.setPps (s : State) (v : Nat) : State :=
  let m := bits v 1 0
  s.modAir (fun a =>
    { a with
      ppsCtl := BitVec.ofNat 32 (packBits [(m, 0), (bits v 28 16, 16)])
      ppsLast := some (dtOf s)
      ppsHigh := if m == 1 || m == 2 then a.ppsHigh else none })

/-- CAP_STATn (R388): OVF is W1C, POP removes the oldest stamp. -/
def State.writeCap (s : State) (n v : Nat) : State :=
  s.modAir (fun a => { a with caps := updAt a.caps n (fun c =>
    { c with ovf := c.ovf && !bit v 8, q := if bit v 16 then c.q.drop 1 else c.q }) })

/-- A 32-bit word of the MSI-X table; an unmasked entry whose pending bit is set sends its message (R98). -/
def State.writeMsix (s : State) (o v : Nat) : State :=
  let k := o / 16
  let f (e : MsixEntry) : MsixEntry :=
    if o % 16 == 0 then { e with addr := BitVec.ofNat 64 (e.addr.toNat / 2 ^ 32 * 2 ^ 32 + v / 4 * 4) }
    else if o % 16 == 4 then { e with addr := BitVec.ofNat 64 (e.addr.toNat % 2 ^ 32 + v * 2 ^ 32) }
    else if o % 16 == 8 then { e with data := BitVec.ofNat 32 v }
    else { e with ctrl := BitVec.ofNat 32 (v % 2) }
  let s := { s with pcie := { s.pcie with table := updAt s.pcie.table k f } }
  if s.pcie.pba.getLsbD k && !(s.pcie.table.getD k {}).ctrl.getLsbD 0 then
    { s with pcie := { s.pcie with pba := s.pcie.pba &&& ~~~(1#64 <<< k) } }.msi k
  else s

/-- A hatch whose OWN or PENDING is 1: the device discards host writes to its bytes (R86). -/
def hatchShut (s : State) (n : Nat) : Bool := decide (n < 64) && ((ctlAt s n).own || (ctlAt s n).pend)
/-- A host write to hatch bytes (R86): stored, or discarded with HATCH_PROTO while OWN or PENDING is 1. -/
def State.writeHatch (s : State) (a : Nat) (bs : List Byte) : State :=
  if hatchShut s (a / 256) then s.modSys (fun y => { y with hatchProto := true })
  else s.modHat (fun h => { h with mem := Mem.write h.mem a bs })

/-- A write of HATCH_CTLn with OWN_SET = 0 (R84, R86). -/
def State.setVector (s : State) (n v : Nat) : State := s.modCtl n (fun c => { c with vector := bits v 13 8 })

/-- A write of HATCH_CTLn with OWN_SET = 1 (R85, R86): the hatch joins its group in the order of arrival, and by ascending
number among arrivals of one DT (R90). -/
def State.setOwn (s : State) (n v : Nat) : State :=
  let c := ctlAt s n
  if c.own || c.pend then s.modSys (fun y => { y with hatchProto := true })
  else
    let s := s.modCtl n (fun c => { c with own := true, vector := bits v 13 8 })
    let now := (s.core.time.acc).toNat
    let ins (ownAt : NMap Nat) (l : List Nat) : List Nat :=
      let later := l.reverse.takeWhile (fun m => NMap.get? ownAt m == some now && decide (n < m))
      l.take (l.length - later.length) ++ n :: later.reverse
    s.modHat (fun h =>
      { h with
        queueM := if n < 8 then ins h.ownAt h.queueM else h.queueM
        queueG := if n < 8 then h.queueG else ins h.ownAt h.queueG
        ownAt := NMap.set h.ownAt n now })

/-- A write of HATCH_CTLn (R84 to R86). -/
def State.writeCtl (s : State) (n v : Nat) : State := if bit v 2 then s.setOwn n v else s.setVector n v

/-- DEV_STATUS: EVT_LOST and HATCH_PROTO are W1C (R95). -/
def State.writeStatus (s : State) (v : Nat) : State :=
  s.modSys (fun y => { y with evtLost := y.evtLost && !bit v 8, hatchProto := y.hatchProto && !bit v 9 })

/-- HATCH_DONE is W1C (R96). -/
def State.clearDone (s : State) (v : Nat) : State := s.modHat (fun h => { h with done := h.done &&& ~~~(BitVec.ofNat 64 v) })

/-- ARB_STATn: STARVED is W1C (R429). -/
def State.writeArbStat (s : State) (n v : Nat) : State :=
  s.modFab (fun f => { f with stats := updAt f.stats n (fun r => { r with starved := r.starved && !bit v 1 }) })

/-- An aligned 32-bit write to BAR0, by the register's access code (R13, R14, R81). -/
def State.write32 (s : State) (a v : Nat) : State :=
  if a < 0x4000 then s.writeHatch a (leBytes 4 v)
  else if a < 0x4040 then s.setAreaRd ((a - 0x4000) / 4) v
  else if a == 0x4040 then s.setEvRd v
  else if 0x4100 ≤ a && a < 0x4200 then s.writeCtl ((a - 0x4100) / 4) v
  else if a == 0x4200 || a == 0x4204 then
    match s.halfWrite 0x4200 (a == 0x4204) v 0 with
    | (some w, s) => s.clearDone w
    | (none, s) => s
  else if a == 0x4208 then s.writeStatus v
  else if 0x8000 ≤ a && a < 0x8400 then s.writeMsix (a - 0x8000) v
  else if 0x10000 ≤ a && a < 0x10400 && a % 64 == 0 then s.clearErr ((a - 0x10000) / 64) v
  else if a == 0x20018 || a == 0x2001C then
    match s.halfWrite 0x20018 (a == 0x2001C) v s.core.time.inc.toNat with
    | (some w, s) => s.setInc w
    | (none, s) => s
  else if a == 0x20020 || a == 0x20024 then
    match s.halfWrite 0x20020 (a == 0x20024) v 0 with
    | (some w, s) => s.setStep (asSigned 64 w)
    | (none, s) => s
  else if a == 0x20100 then s.setPps v
  else if 0x20400 ≤ a && a < 0x204A0 && a % 0x20 == 0xC then s.writeCap ((a - 0x20400) / 0x20) v
  else if 0x180000 ≤ a && a < 0x180E00 && a % 64 == 0x2C then s.writeArbStat ((a - 0x180000) / 64) v
  else s

/-- A single 64-bit write of a 64-bit register (R16): neither uses nor disturbs a held half. -/
def State.write64 (s : State) (a v : Nat) : State :=
  if a == 0x4200 then s.clearDone v
  else if a == 0x20018 then s.setInc v
  else if a == 0x20020 then s.setStep (asSigned 64 (v % 2 ^ 64))
  else s

/-- A host write of `width` bytes at a BAR0 offset (R15, R17, R86): narrow or misaligned ones are discarded, with HATCH_PROTO where they meet a hatch
that takes no writes; an aligned 64-bit one
over two 32-bit registers is two, the lower address first. While the core is in reset only the endpoint's MSI-X table takes
writes (R502; DEDUCED, row 8 of the log). -/
def State.barWrite (s : State) (a width v : Nat) : State :=
  if !running s && !(decide (0x8000 ≤ a) && decide (a < 0x8400) && s.core.sys.phase == .inReset && s.hw.perstN) then s
  else if decide (a < 0x4000) && (hatchShut s (a / 256) || hatchShut s ((a + width - 1) / 256)) then s.modSys (fun y => { y with hatchProto := true })
  else if width == 4 then (if a % 4 == 0 then s.write32 a (v % 2 ^ 32) else s)
  else if width == 8 then
    if a % 8 != 0 then s
    else if is64 a then s.write64 a v
    else (s.write32 a (v % 2 ^ 32)).write32 (a + 4) (v / 2 ^ 32)
  else s

/-! ### The commands -/

def execHatchWrite (off width value : Nat) (s : State) : Host.Outcome State Fault Refusal :=
  .next (if off < 0x4000 then s.barWrite off width value else s)

def execOwnSet (hatch value : Nat) (s : State) : Host.Outcome State Fault Refusal :=
  .next (if running s && decide (hatch < 64) then s.setOwn hatch value else s)

def execVectorWrite (hatch value : Nat) (s : State) : Host.Outcome State Fault Refusal :=
  .next (if running s && decide (hatch < 64) then s.setVector hatch value else s)

/-- R89: the command's patience has passed before it was taken. -/
def execPatienceExpiry (hatch : Nat) (s : State) : Host.Outcome State Fault Refusal :=
  .next (
    let r := reqOf s hatch
    let queued := s.core.hat.queueM.contains hatch || s.core.hat.queueG.contains hatch
    if decide (hatch < 64) && (ctlAt s hatch).own && queued && r.patience != 0 && decide (r.patience < dtOf s) && running s then
      (s.takeOff r).place hatch 0x16
    else s)

def execRareaRdWrite (area value : Nat) (s : State) : Host.Outcome State Fault Refusal :=
  .next (if running s then s.setAreaRd area value else s)

def execEvringRdWrite (value : Nat) (s : State) : Host.Outcome State Fault Refusal :=
  .next (if running s then s.setEvRd value else s)

def execErrClear (index value : Nat) (s : State) : Host.Outcome State Fault Refusal :=
  .next (if running s then s.clearErr index value else s)

/-- R358: a read of TIME_DT, whole or by a half. -/
def execTimeDtRead (half : Half) (s : State) : Host.Outcome State Fault Refusal :=
  .next (if running s then
      (match half with
       | .lower => s.readLower 0x20000
       | .upper => s.readUpper 0x20000
       | .full => s.latchTime.emit (.readData (leBytes 8 (dtOf s)) false))
    else s)

/-- R367: MEAS_SEQ latches the three values of the same measurement. -/
def execMeasSeqRead (s : State) : Host.Outcome State Fault Refusal :=
  .next (if running s then s.read32 0x20040 else s)

/-- R501: LINK_MEAS_SEQ latches the two values of the same measurement. -/
def execLinkMeasSeqRead (s : State) : Host.Outcome State Fault Refusal :=
  .next (if running s then s.read32 0x20208 else s)

/-- R16, R17: a host read of BAR0 of some width. -/
def execHalfReadLatch (r : BarRead) (s : State) : Host.Outcome State Fault Refusal := .next (s.barRead r.off r.width)

/-- R359, by half or whole (R16). -/
def execTimeIncWrite (half : Half) (value : Nat) (s : State) : Host.Outcome State Fault Refusal :=
  .next (match half with
    | .lower => s.barWrite 0x20018 4 value
    | .upper => s.barWrite 0x2001C 4 value
    | .full => s.barWrite 0x20018 8 value)

/-- R361, by half or whole (R16). -/
def execTimeStepWrite (half : Half) (value : Nat) (s : State) : Host.Outcome State Fault Refusal :=
  .next (match half with
    | .lower => s.barWrite 0x20020 4 value
    | .upper => s.barWrite 0x20024 4 value
    | .full => s.barWrite 0x20020 8 value)

def execCapturePop (source value : Nat) (s : State) : Host.Outcome State Fault Refusal :=
  .next (if running s then s.writeCap source value else s)

def execPpsCtlWrite (value : Nat) (s : State) : Host.Outcome State Fault Refusal :=
  .next (if running s then s.setPps value else s)

/-- Any other BAR0 write (R13, R14, R17, R81); a poisoned one is discarded and logged (R534, R535). -/
def execRegisterWrite (off width value : Nat) (poisoned : Bool) (s : State) : Host.Outcome State Fault Refusal :=
  .next (
    if poisoned then { s with pcie := { s.pcie with aerUncorr := s.pcie.aerUncorr ||| (1#32 <<< 12) } }
    else s.barWrite off width value)

end Sys2Proof.Machine
end

