-- ==== Sys2Proof/Machine/Ptp.lean ====
section
/-! DEFINITION. PTP on EP0 and EP1 (R363 to R371): received messages and the offset measurement, sent messages and their stamps,
the ports' states, CLOCK_Q. Stamps and corrections are in 2⁻¹⁶ ns; PTP fields keep their standard's byte order (R8). -/
namespace Sys2Proof.Machine

def State.modPtp (s : State) (p : Nat) (f : PtpPort → PtpPort) : State := s.modAir (fun a => { a with ports := updAt a.ports p f })

/-- DT in 2⁻¹⁶ ns. -/
def dt16 (s : State) : Nat := (s.core.time.acc >>> 16).toNat

/-- A port changes state; LOCKED becomes HOLDOVER when the slave port leaves SLAVE (R371). -/
def State.setPtpState (s : State) (p : Nat) (st : PtpState) : State :=
  let old := (ptpPortAt s p).state
  let s := s.modPtp p (fun x => { x with state := st, heard := if st == .listening && old != .listening then dtOf s else x.heard })
  if old == .slave && st != .slave && s.core.time.clockQ == .locked then s.setClockQ .holdover else s

/-- A port's protocol starts again in LISTENING (R364). -/
def State.restartPtp (s : State) (p : Nat) : State :=
  (s.modPtp p (fun x =>
    { x with egress := [], seq := 0, announce := none, sync := none, delayReq := none, delay := none, lost := false })).setPtpState p
    .listening

/-! ### Messages -/

/-- The PTP part of an Ethernet frame. -/
def ptpBody (f : List Byte) : List Byte := f.drop 14
def ptpType (f : List Byte) : Nat := beAt (ptpBody f) 0 1 % 16
def ptpSeq (f : List Byte) : Nat := beAt (ptpBody f) 30 2
def ptpCorr (f : List Byte) : Int := asSigned 64 (beAt (ptpBody f) 8 8)
def ptpTwoStep (f : List Byte) : Bool := bit (beAt (ptpBody f) 6 1) 1
/-- A time stamp field of 48-bit seconds and 32-bit ns, in 2⁻¹⁶ ns. -/
def ptpStamp (f : List Byte) (o : Nat) : Int := ((beAt (ptpBody f) o 6 * 1000000000 + beAt (ptpBody f) (o + 6) 4) * 65536 : Nat)

/-- The subset of R363 that a received frame must lie in. -/
def ptpGood (s : State) (p : Nat) (f : List Byte) : Bool :=
  let dst := beAt f 0 6
  let t := ptpType f
  beAt f 12 2 == 0x88F7 && (dst == 0x011B19000000 || dst == 0x0180C200000E) && decide (48 ≤ f.length) &&
    beAt (ptpBody f) 1 1 % 16 == 2 && beAt (ptpBody f) 4 1 == (ptpPortAt s p).domain &&
    (t == 0 || t == 1 || t == 8 || t == 9 || t == 11) &&
    decide ((if t == 11 then 64 else if t == 9 then 54 else 44) ≤ (ptpBody f).length)

/-- The order of the alternate best-master comparison over Announce messages: clockClass, accuracy, variance, priority2,
grandmaster identity, steps removed (R363; the standard's data set comparison with equal localPriority). -/
def masterRank (f : List Byte) : Nat :=
  leNat ((bytesAt (ptpBody f) 47 1 ++ bytesAt (ptpBody f) 48 5 ++ bytesAt (ptpBody f) 53 10).drop 1).reverse

/-- The state decision of the ports from the Announce each holds (R363): the best one's port goes towards SLAVE, a
boundary-clock port otherwise to PASSIVE when it hears the same grandmaster, else to MASTER. -/
def State.decidePorts (s : State) : State :=
  let heard := (List.range 2).filterMap (fun p => match (ptpPortAt s p).announce with
    | some a => if (ptpPortAt s p).role == 0 then none else some (p, a.2)
    | none => none)
  match heard with
  | [] => s
  | h :: t =>
    let best := t.foldl (fun b c => if masterRank c.2 < masterRank b.2 then c else b) h
    (List.range 2).foldl (fun s p =>
      let x := ptpPortAt s p
      if x.role == 0 then s
      else if p == best.1 then
        (match x.state with
         | .slave => s
         | .uncalibrated => s
         | _ => s.setPtpState p .uncalibrated)
      else match x.announce with
        | some a => s.setPtpState p (if x.role == 2 && bytesAt (ptpBody a.2) 53 8 == bytesAt (ptpBody best.2) 53 8 then .passive
            else if x.role == 2 then .master else .listening)
        | none => if x.role == 2 && x.state != .listening then s.setPtpState p .master else s) s

/-- CLOCK_Q after a measurement (R371); `up` says that the source is a port in SLAVE state, or for a link-timed device that the
time link is UP with a LOCKED parent (R500). -/
def State.judgeClock (s : State) (off : Int) (up : Bool) : State :=
  let near := decide (off.natAbs ≤ 100 * 65536)
  let far := decide (1000 * 65536 < off.natAbs)
  let s := s.modTime (fun t =>
    { t with run16 := if near then t.run16 + 1 else 0, run8 := if far then t.run8 + 1 else 0, lastMeas := some (dtOf s) })
  let t := s.core.time
  if t.clockQ == .locked then (if 8 ≤ t.run8 then s.setClockQ .holdover else s)
  else if decide (16 ≤ t.run16) && up then s.setClockQ .locked else s

/-- Forms and publishes a measurement (R366, R367), when the port may make one. -/
def State.measure (s : State) (p : Nat) (t1 t2 cs : Int) : State :=
  let x := ptpPortAt s p
  match x.delay with
  | none => s
  | some (t3, t4, cd) =>
    if x.state != .uncalibrated && x.state != .slave then s
    else
      let path : Rat := ((t2 - t1 - cs) + (t4 - t3 - cd) : Int) / (2 : Rat)
      let off := (toSigned 64 (((t2 - t1 - cs - x.asym : Int) : Rat) - path)).1
      let s := s.setPtpState p .slave
      let s := s.modTime (fun t =>
        let fresh := t.lastMeas.isSome && t.srcPort != p
        { t with
          measSeq := t.measSeq + 1
          measOffset := BitVec.ofInt 64 off
          measPath := BitVec.ofInt 64 (toSigned 64 path).1
          measT2 := BitVec.ofNat 64 (t2.toNat / 65536)
          srcPort := p
          run16 := if fresh then 0 else t.run16
          run8 := if fresh then 0 else t.run8 })
      s.judgeClock off true

/-! ### Sending -/

/-- The port's clock identity and its source address: the spec gives neither. -/
def clockIdentity : Nat := Config.numericNat 3 []
def sourceMac (p : Nat) : List Byte := padTo 6 (Config.freeBytes 3 p)

/-- Where a port sends to (R363). -/
def ptpDest (x : PtpPort) : List Byte :=
  match x.announce with
  | some a => bytesAt a.2 0 6
  | none => beBytes 6 0x0180C200000E

/-- A PTP frame: type, flags, sequence, log interval and body. -/
def ptpFrame (p : Nat) (x : PtpPort) (type flags seq logInt : Nat) (corr : Int) (body : List Byte) : List Byte :=
  let control := if type == 0 then 0 else if type == 1 then 1 else if type == 8 then 2 else if type == 9 then 3 else 5
  ptpDest x ++ sourceMac p ++ beBytes 2 0x88F7 ++ beBytes 1 type ++ beBytes 1 2 ++ beBytes 2 (34 + body.length) ++
  beBytes 1 x.domain ++ [0] ++ beBytes 2 flags ++ beBytes 8 (corr % (2 ^ 64 : Nat)).toNat ++ beBytes 4 0 ++
  beBytes 8 clockIdentity ++ beBytes 2 (p + 1) ++ beBytes 2 seq ++ beBytes 1 control ++ beBytes 1 logInt ++ body

/-- A time stamp field from 2⁻¹⁶ ns, and what of it the correction field carries. -/
def stampField (t : Nat) : List Byte := beBytes 6 (t / 65536 / 1000000000) ++ beBytes 4 (t / 65536 % 1000000000)

/-- The frames of the port's full launch slots whose entries wait in the event table: instant and length, earliest first. -/
def launchesDue (s : State) (p : Nat) : List (Nat × Nat) :=
  let l := s.core.air.events.filterMap (fun e =>
    if e.2.action == 5 && bits e.2.arg 8 8 == p then (NMap.get? s.core.air.launch (64 * p + bits e.2.arg 5 0)).map (fun f => (e.2.next, f.length)) else none)
  sortBy (fun a b => decide (a.1 ≤ b.1)) l
/-- The instant, in quarters of a ns, until which a PTP frame of n bytes is held back: it leaves after a launch that is on the wire, and after one whose
preamble would begin before the frame had left (R384); 0 where it is not held. -/
def heldUntil (s : State) (p n : Nat) : Nat :=
  let pre := wireQ s p 8
  let busy := s.core.air.launchBusy.getD p 0
  let now := dtQuarter s
  let start := if now < busy then busy + pre else now
  let t := (launchesDue s p).foldl (fun t e =>
    if t + wireQ s p (max 64 (n + 4)) ≤ e.1 - pre then t else max t (e.1 + wireQ s p (e.2 + 16) + pre)) start
  if t == now then 0 else t
/-- When a PTP frame of n bytes leaves: the end of its start-of-frame delimiter, in quarters of a ns and in 2⁻¹⁶ ns. -/
def leaveQ (s : State) (p n : Nat) : Nat := if heldUntil s p n = 0 then dtQuarter s else heldUntil s p n
def leave16 (s : State) (p n : Nat) : Nat := if heldUntil s p n = 0 then dt16 s else heldUntil s p n * 2 ^ 14

/-- Puts an egress stamp into the port's queue of 64, or loses it (R369). -/
def State.pushStamp (s : State) (p kind seq t : Nat) : State :=
  if (ptpPortAt s p).egress.length < 64 then s.modPtp p (fun x => { x with egress := x.egress ++ [(kind, seq, t)] })
  else
    let s := if kind == 1 then s.modPtp p (fun x => { x with lost := true }) else s
    (s.bump (timeCtr p 1) 1).err1 1 2 p

/-- clockClass announced (R370). -/
def clockClassOf (s : State) : Nat :=
  let t := s.core.time
  match t.clockQ with
  | .locked => (match (ptpPortAt s t.srcPort).announce with
    | some a => beAt (ptpBody a.2) 48 1
    | none => 248)
  | .holdover => if t.hold165 then 165 else 135
  | .freeRun => 248

/-- The body of an Announce: the parent's grandmaster data when there is one, with the class of R370. -/
def announceBody (s : State) : List Byte :=
  let par := (ptpPortAt s s.core.time.srcPort).announce
  let own := beBytes 1 128 ++ beBytes 1 (clockClassOf s) ++ beBytes 1 0xFE ++ beBytes 2 0xFFFF ++ beBytes 1 128 ++
    beBytes 8 clockIdentity ++ beBytes 2 0
  let tail := match par with
    | some a => bytesAt (ptpBody a.2) 47 1 ++ beBytes 1 (clockClassOf s) ++ bytesAt (ptpBody a.2) 49 12 ++
        beBytes 2 (beAt (ptpBody a.2) 61 2 + 1)
    | none => own
  stampField (dt16 s) ++ beBytes 2 37 ++ [0] ++ tail ++ beBytes 1 0xA0

def State.sendEth (s : State) (p : Nat) (f : List Byte) : State :=
  if s.hw.epUp.getD p false then s.emit (.ethFrame p (leaveQ s p f.length) f) else s

def execPtpMessageSend (port : Nat) (kind : PtpSend) (s : State) : Host.Outcome State Fault Refusal :=
  .next (
    let x := ptpPortAt s port
    let up := running s && decide (port < 2) && s.hw.epUp.getD port false
    match kind with
    | .sync =>
      if up && x.state == .master then
        let seq := x.seq
        let s := s.modPtp port (fun y => { y with seq := (y.seq + 1) % 65536 })
        let two := x.stepMode == 2
        let t := leave16 s port 58
        let s := s.sendEth port (ptpFrame port x 0 (if two then 0x0200 else 0) seq 0xFC (if two then 0 else t % 65536) (stampField (if two then 0 else t)))
        if two then s.pushStamp port 0 seq t else s
      else s
    | .followUp =>
      (match x.egress.find? (fun e => e.1 == 0) with
       | some (k, seq, t) =>
         if up && x.state == .master && x.stepMode == 2 then
           (s.modPtp port (fun y => { y with egress := y.egress.erase (k, seq, t) })).sendEth port
             (ptpFrame port x 8 0 seq 0xFC (t % 65536) (stampField t))
         else s
       | none => s)
    | .delayReq =>
      if up && (x.state == .uncalibrated || x.state == .slave) then
        let seq := x.seq
        let t := leave16 s port 58
        let s := s.modPtp port (fun y => { y with seq := (y.seq + 1) % 65536, delayReq := some (seq, t), lost := false })
        let s := s.sendEth port (ptpFrame port x 1 0 seq 0x7F 0 (stampField 0))
        s.pushStamp port 1 seq t
      else s
    | .announce =>
      if up && x.state == .master then
        (s.modPtp port (fun y => { y with seq := (y.seq + 1) % 65536 })).sendEth port
          (ptpFrame port x 11 0x0008 x.seq 0xFD 0 (announceBody s))
      else s)

/-! ### Receiving -/

def execPtpFrameRx (port : Nat) (frame : List Byte) (stamp : Nat) (s : State) : Host.Outcome State Fault Refusal :=
  .next (
    let x := ptpPortAt s port
    if !running s || decide (2 ≤ port) || !s.hw.epUp.getD port false || x.role == 0 then s
    else if !ptpGood s port frame then s.bump (timeCtr port 0) 1
    else
      let t := ptpType frame
      let follows := x.state == .uncalibrated || x.state == .slave
      if t == 11 then
        (s.modPtp port (fun y => { y with announce := some (dtOf s, frame), heard := dtOf s })).decidePorts
      else if t == 1 then
        if x.state == .master then
          s.sendEth port (ptpFrame port x 9 0 (ptpSeq frame) 0xFC (ptpCorr frame - stamp % 65536)
            (stampField stamp ++ bytesAt (ptpBody frame) 20 10))
        else s
      else if !follows then s
      else if t == 0 then
        if ptpTwoStep frame then
          s.modPtp port (fun y => { y with sync := some (ptpSeq frame, 0, stamp, ptpCorr frame, false) })
        else
          (s.modPtp port (fun y => { y with sync := some (ptpSeq frame, ptpStamp frame 34, stamp, ptpCorr frame, true) })).measure
            port (ptpStamp frame 34) stamp (ptpCorr frame)
      else if t == 8 then
        match x.sync with
        | some (q, _, t2, c, false) =>
          if q == ptpSeq frame then
            (s.modPtp port (fun y => { y with sync := some (q, ptpStamp frame 34, t2, c + ptpCorr frame, true) })).measure port
              (ptpStamp frame 34) t2 (c + ptpCorr frame)
          else s
        | _ => s
      else
        match x.delayReq with
        | some (q, t3) =>
          let mine := beAt (ptpBody frame) 44 8 == clockIdentity % 2 ^ 64 && beAt (ptpBody frame) 52 2 == port + 1
          if q == ptpSeq frame && mine then
            s.modPtp port (fun y =>
              { y with
                egress := y.egress.filter (fun e => e.1 != 1)
                delayReq := none
                delay := if y.lost then y.delay else some (t3, ptpStamp frame 34, ptpCorr frame) })
          else s
        | none => s)

/-- R363: three Announce intervals of 125 ms without one. -/
def execPtpAnnounceTimeout (port : Nat) (s : State) : Host.Outcome State Fault Refusal :=
  .next (
    let x := ptpPortAt s port
    if running s && decide (port < 2) && x.role != 0 && decide (x.heard + 375000000 < dtOf s) &&
        (x.state == .listening || x.state == .uncalibrated || x.state == .slave || x.state == .passive) then
      let s := s.modPtp port (fun y => { y with announce := none, sync := none, delay := none, delayReq := none, heard := dtOf s })
      (s.setPtpState port (if x.role == 2 then .master else .listening)).decidePorts
    else s)

/-- R371: 1 s without a measurement. -/
def execHoldoverTimeout (s : State) : Host.Outcome State Fault Refusal :=
  .next (
    let t := s.core.time
    if running s && t.clockQ == .locked && decide (t.lastMeas.getD 0 + 1000000000 < dtOf s) then s.setClockQ .holdover else s)

/-- R370: 1,000 s of holdover. -/
def execClockClassTimer (s : State) : Host.Outcome State Fault Refusal :=
  .next (
    let t := s.core.time
    match t.holdSince with
    | some h =>
      if t.clockQ == .holdover && decide (h + 1000000000000 ≤ dtOf s) then s.modTime (fun t => { t with hold165 := true }) else s
    | none => s)

end Sys2Proof.Machine
end

