-- ==== Sys2Proof/Machine/TimeCmds.lean ====
section
/-! DEFINITION. The 0x06xx commands: time status, the air epoch, PTP ports, the event table, TEV pins and launch slots. -/
namespace Sys2Proof.Machine

/-- TIME_STATUS's response. -/
def timeStatusBlock (s : State) : List Byte :=
  let a := airNow s
  leBytes 8 (dtOf s) ++ leBytes 4 (dtFrac s) ++ leBytes 1 (clockCode s.core.time.clockQ) ++ leBytes 1 s.core.air.mu ++
  leBytes 2 a.sfn ++ leBytes 1 a.subframe ++ leBytes 1 a.slot ++ leBytes 1 a.symbol ++ leBytes 1 0 ++
  leBytes 4 a.offset.floor.toNat ++ leBytes 8 s.core.time.measOffset.toNat
def timeStatusBody (r : Req) (s : State) : State := s.place r.h 0x00 (timeStatusBlock s)
def execTimeStatus (hatch : Nat) (s : State) : Host.Outcome State Fault Refusal :=
  .next (serve 0x0601 hatch timeStatusBody s)

/-- Drops every binding's range reference, counted in REF_LOST (R356, R375). -/
def State.loseRefs (s : State) (f : Ref → Bool) : State :=
  let n := (s.core.scu.bindings.filter (fun b => b.2.ref.any f)).length
  (s.modScu (fun u =>
    { u with bindings := u.bindings.map (fun b => (b.1, if b.2.ref.any f then { b.2 with ref := none } else b.2)) })).bump (scuCtr 1) n

/-- R373, R375: the numerology and epoch; the event table and the range references go. -/
def State.setEpoch (s : State) (mu : Nat) (e : Int) : State :=
  ((s.removeEvents (fun _ => true)).loseRefs (fun _ => true)).modAir (fun a => { a with mu := mu, epoch := e })

/-- R373: the epoch adjustment's range. -/
def epochOk (e : Int) : Bool := decide (-10239999999 ≤ e) && decide (e ≤ 10239999999)

def airEpochSetBody (r : Req) (s : State) : State :=
  let e := intAt r.payload 8 8
  s.guarded r.h [need (decide (r.u8 0 ≤ 3) && epochOk e) 0x11] (fun s => (s.setEpoch (r.u8 0) e).place r.h 0x00)
def execAirEpochSet (hatch : Nat) (s : State) : Host.Outcome State Fault Refusal :=
  .next (serve 0x0602 hatch airEpochSetBody s)

/-- The fields of PTP_PORT_SET's layout that R364 checks: role, domain, step. -/
def ptpFieldOk (b : List Byte) : Bool :=
  let role := fieldAt b 1 1
  decide (role ≤ 2) &&
    (role == 0 || (decide (24 ≤ fieldAt b 2 1) && decide (fieldAt b 2 1 ≤ 43) && (fieldAt b 3 1 == 1 || fieldAt b 3 1 == 2)))

/-- Roles that R364 lets stand together. -/
def rolesOk (a b : Nat) : Bool := !((a == 1 && b != 0) || (b == 1 && a != 0))

/-- Applies a PTP_PORT_SET layout to a port (R364). -/
def State.setPtpPort (s : State) (p : Nat) (b : List Byte) : State :=
  let x := ptpPortAt s p
  let role := fieldAt b 1 1
  if role == 0 then
    (s.restartPtp p).modPtp p (fun y => { y with role := 0 }) |>.setPtpState p .disabled
  else
    let s := s.modPtp p (fun y =>
      { y with role := role, domain := fieldAt b 2 1, stepMode := fieldAt b 3 1, asym := intAt b 4 4 })
    if x.role == role && x.domain == fieldAt b 2 1 && x.stepMode == fieldAt b 3 1 then s else s.restartPtp p

def ptpPortSetBody (r : Req) (s : State) : State :=
  let p := r.u8 0
  s.guarded r.h
    [need (decide (p ≤ 1) && ptpFieldOk r.payload) 0x11, need (rolesOk (r.u8 1) (ptpPortAt s (1 - p)).role) 0x11]
    (fun s => (s.setPtpPort p r.payload).place r.h 0x00)
def execPtpPortSet (hatch : Nat) (s : State) : Host.Outcome State Fault Refusal :=
  .next (serve 0x0603 hatch ptpPortSetBody s)

/-! ### EVENT_ADD -/

/-- ARG's encoding for an ACTION (R379). -/
def argOk (action arg : Nat) : Bool :=
  let slotOk (v : Nat) : Bool := decide (v ≤ 63) || v == 0x7F
  if action == 1 then decide (arg < 65536)
  else if action == 2 then !bit arg 23 && !bit arg 31 && slotOk (bits arg 22 16) && slotOk (bits arg 30 24)
  else if action == 3 || action == 4 then arg != 0
  else if action == 5 then bits arg 7 6 == 0 && bits arg 31 9 == 0
  else bits arg 3 2 == 0 && bits arg 15 6 == 0 && (if bits arg 5 4 == 3 then bits arg 31 16 != 0 else bits arg 31 16 == 0)

/-- A tracking-cycle graph in a slot on every ordinary channel, with a test of its steps. -/
def cycleGraph (s : State) (g : Nat) (f : List GStep → Bool) : Bool :=
  residentAll s g 0x81 && (ordinaryChans s).all (fun c => match residentAt s c g with
    | some x => f x.graph.steps
    | none => false)

/-- OP of an FU step (R287). -/
def fuOp (g : GStep) : Nat := if g.engine == 7 then fieldAt g.param 0 1 else 0

/-- The further checks of R379. -/
def actionChecks (s : State) (action arg : Nat) : List (Option Nat) :=
  let ctx := bits arg 15 8
  if action == 1 then [need (ctxExists s ctx) 0x11]
  else if action == 2 then
    let sv := bits arg 22 16
    let tr := bits arg 30 24
    [need (ctxExists s ctx && !(sv == 0x7F && tr == 0x7F)) 0x11,
     need (sv == 0x7F || cycleGraph s sv (fun l => !l.any (fun g => fuOp g == 4) && l.any (fun g => g.engine == 8))) 0x11,
     need (tr == 0x7F || cycleGraph s tr (fun l => !l.any (fun g => g.engine == 8))) 0x11]
  else if action == 3 || action == 4 then [scuCheck s]
  else if action == 5 then [need (!s.core.air.events.any (fun p => p.2.action == 5 && p.2.arg == arg)) 0x13]
  else
    let m := (s.core.air.tev.getD (bits arg 1 0) {}).mode
    [need (m != 0) 0x11, need (m == 3) 0x13]

/-- The first instant of an entry, quarter ns: the earliest of its series more than 10 µs after the response (R376, R378). -/
def firstInstant (s : State) (sfn sub slot sym period off : Nat) : Nat :=
  let base := 4 * s.core.air.epoch + toQuarter (symStart s.core.air.mu sfn sub slot sym) + off
  (nextAfter base (frameQ * (if period == 0 then 1024 else period) : Nat) (4 * dtOf s + 40000 : Nat)).toNat

def eventAddBody (r : Req) (s : State) : State :=
  let sfn := r.u16 0
  let period := r.u16 6
  let off := r.u32 8
  let ranges := decide (sfn ≤ 1023) && decide (r.u8 2 ≤ 9) && decide (r.u8 3 < 2 ^ s.core.air.mu) && decide (r.u8 4 ≤ 13) &&
    decide (1 ≤ r.u8 5) && decide (r.u8 5 ≤ 6) && (period == 0 || ringSize' period) && decide (off < 40000000)
  let e : EvEntry :=
    { next := firstInstant s sfn (r.u8 2) (r.u8 3) (r.u8 4) period off, period := period, sfn := 0, action := r.u8 5, arg := r.u32 12 }
  let e := { e with sfn := sfnOf s e.next }
  let crowded := (List.range 1024).any (fun x =>
    occupies e.sfn period x &&
      decide (1024 ≤ (s.core.air.events.filter (fun p => occupies p.2.sfn p.2.period x)).length))
  let idx := NMap.lowestFree s.core.air.events 65536
  s.guarded r.h
    ([need (ranges && argOk (r.u8 5) (r.u32 12)) 0x11] ++ actionChecks s (r.u8 5) (r.u32 12) ++
     [need (!crowded) 0x13, need idx.isSome 0x13])
    (fun s =>
      (s.modAir (fun a => { a with events := NMap.set a.events (idx.getD 0) e })).place r.h 0x00 (leBytes 2 (idx.getD 0)))
where
  /-- A power of two up to 1,024. -/
  ringSize' (v : Nat) : Bool := decide (v ≤ 1024) && 2 ^ Nat.log2 v == v
def execEventAdd (hatch : Nat) (s : State) : Host.Outcome State Fault Refusal :=
  .next (serve 0x0604 hatch eventAddBody s)

def eventRemoveBody (r : Req) (s : State) : State :=
  s.guarded r.h [need (NMap.has s.core.air.events (r.u16 0)) 0x11] (fun s => (s.removeEvent (r.u16 0)).place r.h 0x00)
def execEventRemove (hatch : Nat) (s : State) : Host.Outcome State Fault Refusal :=
  .next (serve 0x0605 hatch eventRemoveBody s)

/-- R387: a pin's mode; its present mode again changes nothing. -/
def tevSetBody (r : Req) (s : State) : State :=
  let pin := r.u8 0
  let m := r.u8 1
  let old := (s.core.air.tev.getD pin {}).mode
  let named := s.core.air.events.any (fun p => p.2.action == 6 && bits p.2.arg 1 0 == pin)
  s.guarded r.h [need (decide (pin ≤ 3)) 0x11, need (decide (m ≤ 3)) 0x11, need (!(old == 3 && m != 3 && named)) 0x13] (fun s =>
    if m == old then s.place r.h 0x00
    else
      let s := s.modAir (fun a => { a with tev := setAt a.tev pin { mode := m } })
      let s := if m == 3 then s.emit (.tevEdge pin (dtQuarter s) false) else s
      s.place r.h 0x00)
def execTevSet (hatch : Nat) (s : State) : Host.Outcome State Fault Refusal :=
  .next (serve 0x0606 hatch tevSetBody s)

/-- R383: the frame is fetched before DONE; the slot holds LEN − 4 bytes. -/
def launchQueueBody (d : Dma) (r : Req) (s : State) : State :=
  let key := 64 * r.u8 0 + r.u8 1
  let n := r.u16 2
  s.guarded r.h
    [need (decide (r.u8 0 ≤ 1) && decide (r.u8 1 ≤ 63) && decide (64 ≤ n) && decide (n ≤ 1518)) 0x11,
     need (!NMap.has s.core.air.launch key) 0x13]
    (fun s => s.withDma r.h (r.u64 8) (n - 4) d 0xFFFF (fun f s =>
      (s.modAir (fun a => { a with launch := NMap.set a.launch key f })).place r.h 0x00))
def execLaunchQueue (hatch : Nat) (data : List Byte) (s : State) : Host.Outcome State Fault Refusal :=
  .next (serve 0x0607 hatch (launchQueueBody (.ok data)) s)

end Sys2Proof.Machine
end

