-- ==== Sys2Proof/Machine/Startup.lean ====
section
/-! DEFINITION. Resets and the start (R502 to R524, R546, R550, R553): the reset kinds, the start steps with their remedies,
safe mode, the settings of loft page 0, BOOT_LOAD. -/
namespace Sys2Proof.Machine

/-! ### Resets -/

/-- A core reset (R502): everything of the core at its reset value; the loft, the sticky errors and the endpoint stay. -/
def State.coreReset (s : State) (cause : Nat) : State :=
  let w := packageW s.hw.part
  { s with
    hw := { s.hw with epUp := [false, false] }
    loft := { s.loft with lastStore := none }
    core := { sys := { phase := .inReset, cause := cause }, pow := { hatchCap := w, pinCap := w, pinNext := w } } }

/-- A step that began without an outcome counts as failed, unless this start is a power-on (R507): the earlier record, and the
step. -/
def closePrior (r : StartRec) : StartRec × Option Nat :=
  if r.final == 0xFF then
    match (List.range 10).find? (fun i => r.outcome.getD i 0 == 0xFF) with
    | some i => ({ r with outcome := setAt r.outcome i 1, reason := setAt r.reason i 7 }, some i)
    | none => (r, none)
  else (r, none)

/-- The remedy of a whole step for later starts (R506, R508). -/
def Remedies.ofStep (m : Remedies) (step : Nat) : Remedies :=
  if step == 2 then { m with flashSwap := true }
  else if step == 3 then { m with storeConservative := true }
  else if step == 4 then { m with cellarSkip := true }
  else if step == 5 then { m with mpHold := true } else m

/-- The start begins at ST1 (R505, R507, R508, R515, R546): straps read, the record opened with ST0's outcome. -/
def State.startBegin (s : State) (cause : Nat) : State :=
  let (log, rem) :=
    if cause == 0 then (s.loft.log, ({} : Remedies))
    else match s.loft.log with
      | [] => ([], s.loft.remedies)
      | r :: l =>
        let (r', i) := closePrior r
        (r' :: l, match i with | some i => s.loft.remedies.ofStep i | none => s.loft.remedies)
  let n := s.loft.nextStart
  let record : StartRec := { startNo := n, cause := cause, outcome := (if cause == 0 then 0 else 2) :: List.replicate 9 0xFF }
  let s := s.modLoft (fun l => { l with log := (record :: log).take 512, nextStart := (n + 1) % 2 ^ 32, remedies := rem })
  let s := s.modSys (fun y =>
    { y with phase := .starting, step := 1, stepBegan := dtOf s, cause := cause, devid := s.hw.devidPins, keeperEn := s.hw.keeperPin,
             record := record })
  let present := nChans s
  let s := s.modChans (fun l => l.zipIdx.map (fun p => { p.1 with present := decide (p.2 < present) }))
  s.useTable defaultImage

/-- RESET_N or PERST_N falls, REFCLK_IN stops: the core is held in reset, once it was out of it; a lower pin's earlier cause of
2 stays (When things fall together). -/
def State.holdReset (s : State) (cause : Nat) : State :=
  match s.core.sys.phase with
  | .unpowered => s
  | .st0 => s
  | .inReset => s.coreReset (max cause s.core.sys.cause)
  | _ => s.coreReset cause

def execPowerOn (s : State) : Host.Outcome State Fault Refusal :=
  .next (
    let up := s.hw.refclk && s.hw.resetN && s.hw.perstN
    let fresh (s : State) : State :=
      let s := ({ s with pcie := {}, err := {} } : State).coreReset 0
      let s := s.modHw (fun h => { h with rails := true })
      if up then s.startBegin 0 else s.modSys (fun y => { y with phase := .st0 })
    match s.core.sys.phase with
    | .unpowered => fresh s
    | .st0 => fresh s
    | _ => s)

def execResetN (s : State) : Host.Outcome State Fault Refusal :=
  .next ((s.modHw (fun h => { h with resetN := false })).holdReset 1)

/-- PERST_N resets the endpoint as well: its MSI-X table, pending bits and error logs (R502). -/
def execPerstN (s : State) : Host.Outcome State Fault Refusal :=
  .next (({ s.modHw (fun h => { h with perstN := false }) with pcie := {} } : State).holdReset 2)

def execResetRelease (s : State) : Host.Outcome State Fault Refusal :=
  .next (
    let s := s.modHw (fun h => { h with resetN := true, perstN := true })
    if s.core.sys.phase == .inReset && s.hw.refclk then s.startBegin s.core.sys.cause else s)

def execRefclkStop (s : State) : Host.Outcome State Fault Refusal :=
  .next ((s.modHw (fun h => { h with refclk := false })).holdReset 1)

def execRefclkReturn (s : State) : Host.Outcome State Fault Refusal :=
  .next (
    let s := s.modHw (fun h => { h with refclk := true })
    if s.core.sys.phase == .inReset && s.hw.resetN && s.hw.perstN then s.startBegin s.core.sys.cause else s)

/-- R553, R519: the rails fall; a page being written keeps its old or its new image. -/
def execPowerLoss (loftOld : Bool) (s : State) : Host.Outcome State Fault Refusal :=
  .next (
    let s := match s.loft.lastStore with
      | some (p, old, dt) =>
        if loftOld && dt == dtOf s then s.modLoft (fun l => { l with pages := Mem.write l.pages (4096 * p) old }) else s
      | none => s
    let s := (s.coreReset 0).modHw (fun h => { h with rails := false })
    s.modSys (fun y => { y with phase := .unpowered }))

/-- A reset that begins by itself and whose start follows at once (R502). -/
def State.selfReset (s : State) (cause : Nat) : State := (s.coreReset cause).startBegin cause

def execCoreResetTimer (s : State) : Host.Outcome State Fault Refusal :=
  .next (match s.core.sys.coreResetAt with
    | some d => if running s && decide (d ≤ dtOf s) then s.selfReset 3 else s
    | none => s)

def execWatchdogReset (s : State) : Host.Outcome State Fault Refusal :=
  .next (if running s then s.selfReset 5 else s)

/-- R509, R409, R410: a recovery reset that is due. -/
def execRecoveryReset (s : State) : Host.Outcome State Fault Refusal :=
  .next (match s.core.sys.recoveryAt with
    | some d => if running s && decide (d ≤ dtOf s) then s.selfReset 4 else s
    | none => s)

/-- R546: a strap that changes is read at the next start. -/
def execStrapChange (devid : Nat) (keeperEn : Bool) (bootSrc : Nat) (s : State) : Host.Outcome State Fault Refusal :=
  .next (s.modHw (fun h => { h with devidPins := devid % 8, keeperPin := keeperEn, bootPins := bootSrc % 4 }))

/-! ### The start record -/

/-- Writes the record of this start into the log (R515). -/
def State.writeRecord (s : State) : State := s.modLoft (fun l => { l with log := setAt l.log 0 s.core.sys.record })

/-- A change of the record of this start, written into the log. -/
def State.modRecord (s : State) (f : StartRec → StartRec) : State :=
  (s.modSys (fun y => { y with record := f y.record })).writeRecord

/-- A step's outcome, reason and duration (R516). -/
def State.noteStep (s : State) (n outcome reason : Nat) : State :=
  let us := min ((dtOf s - s.core.sys.stepBegan) / 1000) 0xFFFFFFFF
  s.modRecord (fun r =>
    { r with outcome := setAt r.outcome n outcome, reason := setAt r.reason n reason, stepUs := setAt r.stepUs n us })

/-- Adds a remedy for the starts to come (R508). -/
def State.remedy (s : State) (f : Remedies → Remedies) : State := s.modLoft (fun l => { l with remedies := f l.remedies })

/-- Safe mode (R510): no channel, port or tier runs. -/
def State.enterSafe (s : State) (step : Nat) : State :=
  let rom := step ≤ 2
  let s := (List.range (nMirden s)).foldl (fun s p => s.portDown p .absent) s
  let s := s.modChans (fun l => l.map (fun c => { c with inService := false, insts := [], queue := [], requests := [] }))
  let s := s.modAir (fun a => { a with ports := a.ports.map (fun x => { x with state := .disabled }) })
  let s := s.modTiers (fun t => { t with cellar := 0 })
  let s := s.modHw (fun h => { h with epUp := [false, false] })
  let s := s.modSys (fun y => { y with phase := .safe, step := step, romSafe := rom, fwVersion := if rom then 0 else y.fwVersion,
                                       fwMeas := if rom then List.replicate 32 0 else y.fwMeas })
  s.modRecord (fun r => { r with final := 1 })

/-- A required step fails (R509): a recovery reset 10 ms later, or safe mode when it failed in the start before too. -/
def State.requiredFails (s : State) (n reason : Nat) : State :=
  let again := s.core.sys.cause != 0 && (match s.loft.log[1]? with
    | some r => r.outcome.getD n 0 == 1
    | none => false)
  let s := (s.noteStep n 1 reason).remedy (fun m => m.ofStep n)
  if again then s.enterSafe n
  else (s.modRecord (fun r => { r with final := 2 })).modSys (fun y => { y with recoveryAt := some (dtOf s + 10000000) })

/-! ### Settings of loft page 0 (R520) -/

structure Settings where
  chMap : Nat := 0
  mu : Nat := 1
  epoch : Int := 0
  ptp : List (List Byte) := [[], []]
  pps : Nat := 0x00640000
  deltaMs : Nat := 50
  speed : List Nat := [0, 0]
  /-- A field of a page that is not blank took its default. -/
  changed : Bool := false
  /-- MAGIC, FORMAT or CHECK failed. -/
  defaulted : Bool := false
  deriving DecidableEq, Repr

/-- A page of the loft (R518). -/
def loftPage (s : State) (p : Nat) : List Byte := Mem.bytes s.loft.pages (4096 * p) 4096

/-- The settings a page gives. -/
def settingsOf (b : List Byte) : Settings :=
  if b.all (· == 0) then {}
  else if fieldAt b 0 4 != 0x48594C01 || fieldAt b 4 2 != 1 || !checkOk b then { changed := true, defaulted := true }
  else
    let muOk := decide (fieldAt b 0x11 1 ≤ 3)
    let eOk := epochOk (intAt b 0x18 8)
    let port (o : Nat) : List Byte × Bool :=
      let f := bytesAt b o 8
      if decide (fieldAt f 0 1 ≤ 1) && ptpFieldOk f then (f, true) else (List.replicate 8 0, false)
    let (p0, ok0) := port 0x20
    let (p1, ok1) := port 0x28
    let pair := rolesOk (fieldAt p0 1 1) (fieldAt p1 1 1)
    let dOk := decide (10 ≤ fieldAt b 0x34 2) && decide (fieldAt b 0x34 2 ≤ 10000)
    let sOk (o : Nat) : Bool := decide (fieldAt b o 1 ≤ 1)
    { chMap := fieldAt b 0x10 1
      mu := if muOk then fieldAt b 0x11 1 else 1
      epoch := if eOk then intAt b 0x18 8 else 0
      ptp := if pair then [p0, p1] else [List.replicate 8 0, List.replicate 8 0]
      pps := fieldAt b 0x30 4
      deltaMs := if dOk then fieldAt b 0x34 2 else 50
      speed := [if sOk 0x36 then fieldAt b 0x36 1 else 0, if sOk 0x37 then fieldAt b 0x37 1 else 0]
      changed := !(muOk && eOk && ok0 && ok1 && pair && dOk && sOk 0x36 && sOk 0x37) }

/-! ### Firmware images (R513) -/

/-- The signer ID of the Walquin firmware key: the default ID of GB/T 32918 signatures (PRESUMED). -/
def firmwareId : List Byte := [0x31, 0x32, 0x33, 0x34, 0x35, 0x36, 0x37, 0x38, 0x31, 0x32, 0x33, 0x34, 0x35, 0x36, 0x37, 0x38]

/-- Whether a firmware image passes R513 on this part. -/
def imageOk (s : State) (img : List Byte) : Bool :=
  let code := img.drop 256
  decide (256 ≤ img.length) && fieldAt img 0 4 == 0x48594601 && fieldAt img 4 2 == 1 && fieldAt img 0xC 4 == code.length &&
  decide (65536 ≤ code.length) && decide (code.length ≤ 8388352) &&
  bit (fieldAt img 0x30 1) (if s.hw.is968 then 0 else 1) &&
  sm2Verify Config.firmwareKey firmwareId (bytesAt img 0 0x40 ++ bytesAt img 0x80 0x80) (bytesAt img 0x40 0x40) &&
  sm3 code == bytesAt img 0x10 0x20

/-- An image is accepted from a source (R513, R516). -/
def State.acceptImage (s : State) (img : List Byte) (source : Nat) : State :=
  let s := s.modSys (fun y => { y with fwVersion := fieldAt img 8 4, fwMeas := sm3 img, hostSource := false, romSafe := false })
  s.modRecord (fun r => { r with source := source, fwVersion := fieldAt img 8 4 })

/-! ### The steps -/

/-- A step begins (R506): ST2 samples BOOT_SRC (R511), a held ST5 holds every port, ST8 enables the PTP ports of page 0 (R362). -/
def State.enterStep (s : State) (n : Nat) : State :=
  let s := s.modSys (fun y => { y with step := n, stepBegan := dtOf s })
  if n == 2 then
    s.modSys (fun y => { y with bootSrc := s.hw.bootPins, hostSource := s.hw.bootPins == 1, hostBegan := dtOf s,
                                record := { y.record with bootSrc := s.hw.bootPins } })
  else if n == 5 && s.loft.remedies.mpHold then
    let s := (List.range (nMirden s)).foldl (fun s p => s.modMp p (fun m => { m with state := .held })) s
    s.modSys (fun y => { y with record := { y.record with mpHeld := 2 ^ nMirden s - 1 } })
  else if n == 8 then
    let p := (settingsOf (loftPage s 0)).ptp
    [0, 1].foldl (fun s i => if fieldAt (p.getD i []) 1 1 == 0 then s else s.setPtpPort i (p.getD i [])) s
  else s

/-- A step ends with an outcome, and the next one begins. -/
def State.stepDone (s : State) (n outcome : Nat) (reason : Nat := 0) : State := (s.noteStep n outcome reason).enterStep (n + 1)

/-- ST7's end (R506, R507, R521, R530): channels found failing, and those excluded by the remedy without a test. -/
def State.endSt7 (s : State) (mask reason : Nat) : State :=
  let skip := s.loft.remedies.chSkip
  let out (c : Nat) : Bool := bit skip c || bit mask c
  let chs := List.range (nChans s)
  let failed := chs.filter (fun c => bit mask c && !bit skip c)
  let s := s.modChans (fun l => l.zipIdx.map (fun p => { p.1 with inService := p.1.present && !out p.2 }))
  let s := chs.foldl (fun s c =>
    if failed.contains c then s.setErr (8 + c) 7 (0x80 + 4 * 256)
    else if bit skip c && !((s.err.regs.getD (8 + c) {}).bits.getLsbD 7) then s.setErr (8 + c) 7 (0x80 + 5 * 256)
    else s) s
  let s := s.remedy (fun m => { m with chSkip := m.chSkip ||| toMask failed })
  let s := s.modSys (fun y => { y with record := { y.record with chExcluded := toMask (chs.filter out) } })
  if (serviceChans s).isEmpty then (s.noteStep 7 1 (if failed.isEmpty then 6 else reason)).enterSafe 7
  else if failed.isEmpty then s.stepDone 7 (if skip == 0 then 0 else 3) 0
  else s.stepDone 7 1 reason

/-- The map channels of ST9 (R521, R106). -/
def mapRoles (s : State) (chMap : Nat) : List Nat :=
  let inS := serviceChans s
  let named := (inS.filter (fun c => bit chMap c)).take (mapChMax s)
  if !named.isEmpty then named else if 2 ≤ inS.length then inS.reverse.take 1 else []

/-- ST9 (R506, R520, R521, R414, R397, R516): settings, slot table, areas; the device is ready. -/
def State.endSt9 (s : State) : State :=
  let set := settingsOf (loftPage s 0)
  let img := loftPage s 1
  let blank := img.all (· == 0)
  let good := slotImageOk s img
  let s := if !blank && !good then s.err1 5 0 else s
  let s := if !blank && good then s.useTable img else s
  let maps := mapRoles s set.chMap
  let s := s.modChans (fun l => l.zipIdx.map (fun p => { p.1 with mapRole := maps.contains p.2 }))
  let s := s.modAir (fun a => { a with mu := set.mu, epoch := set.epoch })
  let s := if set.pps == 0x00640000 then s else s.setPps set.pps
  let s := s.modLink (fun l => { l with deltaMs := set.deltaMs })
  let s := s.layAreas
  let s := s.modFus (fun f => { f with patchSlots := patchSlotsOf s })
  let s := s.modMap (fun m => { m with region := mapRegionOf s, inService := true })
  let cap := pinCapOf s.hw.part s.hw.capPins
  let s := s.modPow (fun p => { p with pinSample := s.hw.capPins, pinCap := cap, pinNext := cap })
  let bad := !blank && !good
  let s := s.modSys (fun y =>
    { y with
      phase := .ready
      record := { y.record with
        final := 0
        dtReady := dtOf s
        flags := y.record.flags ||| packBits [(b2n set.defaulted, 1), (b2n bad, 2)] } })
  let s := s.noteStep 9 (if bad || set.changed then 3 else 0) 0
  (List.range 10).foldl (fun s i => s.event 0x0004 [leBytes 1 i ++ leBytes 1 (s.core.sys.record.outcome.getD i 255)]) s

/-- The offset that time acquisition has found: a PTP measurement's, or the time link's (R362, R500). -/
def firstOffset (s : State) : Option Int :=
  let t := s.core.time
  let l := s.core.link
  if t.measSeq != 0 then some t.measOffset.toInt else if linkTimed s && l.seq != 0 then some l.offset.toInt else none

/-- ST8's end (R362, R500, R506): the first measurement in hand steps DT; none enabled is a skip. -/
def State.endSt8 (s : State) : State :=
  let enabled := s.core.air.ports.any (fun x => x.role != 0)
  match firstOffset s with
  | some o =>
    let s := (s.modHat (fun h => { h with ownAt := [] })).modTime (fun t =>
      { t with acc := t.acc + BitVec.ofInt 96 (-o * 65536), stepped := true, run16 := 0, run8 := 0 })
    (s.setClockQ .freeRun).stepDone 8 0
  | none => if enabled || linkTimed s then s else s.stepDone 8 2

/-- ST2's end by itself (R511, R512, R513): a flash copy is accepted, or both have failed; `mask` names the copies that failed
R513, and `reason` is theirs. -/
def State.endSt2 (s : State) (f : StepFinding) : State :=
  let src := s.core.sys.bootSrc
  if src == 1 || s.core.sys.hostSource then s
  else
    let good := f.ok && imageOk s f.image && decide (f.source ≤ 1)
    let bad (c : Nat) : Bool := bit f.mask c || (f.ok && !good && f.source == c)
    let s := [0, 1].foldl (fun s c => if bad c then s.err1 3 7 c else s) s
    let reason := if bad 0 || bad 1 then 2 else f.reason
    if good then (s.acceptImage f.image f.source).stepDone 2 (if s.loft.remedies.flashSwap then 3 else 0) reason
    else if src == 0 then s.requiredFails 2 (if reason == 0 then 5 else reason)
    else s.modSys (fun y => { y with hostSource := true, hostBegan := dtOf s, record := { y.record with reason := setAt y.record.reason 2 reason } })

/-- A step ends: by its finding, or at its bound with reason TIMEOUT (R506). -/
def State.endStep (s : State) (f : StepFinding) (timeout : Bool) : State :=
  let n := s.core.sys.step
  let rem := s.loft.remedies
  let reason := if timeout then 1 else f.reason
  let ok := f.ok && !timeout
  match n with
  | 1 =>
    let s := if f.mask != 0 then (s.err1 3 6).modSec (fun c => { c with selfTestBad := true }) else s
    if ok && f.mask == 0 then
      let (k, s) := s.draw
      ((((s.modSec (fun c => { c with bootNonce := Config.noise k % 2 ^ 256, keys := [] })).addKeys 0 1).addKeys 0xFE 1).addKeys 0xFD 1).stepDone 1 0
    else s.requiredFails 1 (if reason == 0 then 4 else reason)
  | 2 => if timeout then s.requiredFails 2 1 else s.endSt2 f
  | 3 =>
    if ok then
      if rem.storeConservative then
        let s := (s.modTiers (fun t => { t with conservative := true })).err1 0 5
        (s.modSys (fun y => { y with record := { y.record with flags := y.record.flags ||| 1 } })).stepDone 3 3
      else s.stepDone 3 0
    else s.requiredFails 3 (if reason == 0 then 3 else reason)
  | 4 =>
    if rem.cellarSkip then
      (s.modSys (fun y => { y with record := { y.record with flags := y.record.flags ||| 8 } })).stepDone 4 2 6
    else if ok && s.hw.cellarFit != 0 then (s.modTiers (fun t => { t with cellar := s.hw.cellarFit })).stepDone 4 0
    else ((s.err1 0 1).remedy (fun m => m.ofStep 4)).stepDone 4 1 (if timeout then 1 else if s.hw.cellarFit == 0 then 5 else if reason == 0 then 3 else reason)
  | 5 =>
    if rem.mpHold then (s.decideLinks 0).stepDone 5 2 6
    else if ok && f.mask == 0 then (s.decideLinks 0).stepDone 5 0
    else ((s.decideLinks f.mask).remedy (fun m => m.ofStep 5)).stepDone 5 1 (if reason == 0 then 3 else reason)
  | 6 =>
    let bad := if ok then 0 else f.mask % 4
    let off := (rem.epSkip ||| bad) % 4
    let s := s.modAir (fun a => { a with speed := (settingsOf (loftPage s 0)).speed })
    let s := s.remedy (fun m => { m with epSkip := off })
    let s := s.modSys (fun y => { y with record := { y.record with epDisabled := off } })
    s.stepDone 6 (if ok then (if rem.epSkip == 0 then 0 else 3) else 1) (if ok then 0 else if reason == 0 then 3 else reason)
  | 7 => s.endSt7 (if ok then 0 else f.mask) (if reason == 0 then 4 else reason)
  | 8 => if timeout && (firstOffset s).isNone then s.stepDone 8 1 1 else s.endSt8
  | 9 => if timeout then s else s.endSt9
  | _ => s

/-- The step in progress may end: the device starts, and no recovery reset waits. -/
def stepping (s : State) : Bool := running s && s.core.sys.phase == .starting && s.core.sys.recoveryAt.isNone

def execStartStepEnd (finding : StepFinding) (s : State) : Host.Outcome State Fault Refusal :=
  .next (if stepping s then s.endStep finding false else s)

/-- The bounds of R506, ns; ST2's 60 s from the host count from the instant the host becomes the source (R511). -/
def stepBound : Nat → Nat
  | 1 => 50000000
  | 2 => 2000000000
  | 3 => 500000000
  | 4 => 1000000000
  | 5 => 500000000
  | 6 => 2000000000
  | 7 => 100000000
  | 8 => 10000000000
  | _ => 200000000

def execStartStepTimeout (finding : StepFinding) (s : State) : Host.Outcome State Fault Refusal :=
  .next (
    let y := s.core.sys
    let due := if y.step == 2 && y.hostSource then y.hostBegan + 60000000000 else y.stepBegan + stepBound y.step
    if stepping s && decide (due < dtOf s) then s.endStep finding true else s)

/-! ### BOOT_LOAD (R514, R510) -/

def bootLoadBody (d : Dma) (r : Req) (s : State) : State :=
  let len := r.u32 8
  let safe := s.core.sys.phase == .safe
  s.guarded r.h [need (!s.core.sec.selfTestBad) 0x3F, need (decide (65792 ≤ len) && decide (len ≤ 8388608)) 0x11] (fun s =>
    s.withDma r.h (r.u64 0) len d 0xFFFF (fun img s =>
    if imageOk s img then
      let s := s.place r.h 0x00
      let s := if safe then s.modSys (fun y => { y with phase := .starting, step := 2, record := { y.record with final := 0xFF } }) else s
      (s.acceptImage img 2).stepDone 2 (if safe || (s.loft.remedies.flashSwap && s.core.sys.bootSrc != 1) then 3 else 0)
        (if safe then 0 else s.core.sys.record.reason.getD 2 0)
    else (s.err1 3 7 2).place r.h 0x30))
def execBootLoad (hatch : Nat) (data : List Byte) (s : State) : Host.Outcome State Fault Refusal :=
  .next (serve 0x0108 hatch (bootLoadBody (.ok data)) s)

/-! ### Ethernet links -/

/-- R385, R506: an intake port's link goes down. -/
def execEpLinkDown (port : Nat) (s : State) : Host.Outcome State Fault Refusal :=
  .next (s.modHw (fun h => { h with epUp := setAt h.epUp port false }))

/-- R506: an intake port's link comes up, once ST6 brings the ports up and unless the port is disabled. -/
def execEpLinkUp (port : Nat) (s : State) : Host.Outcome State Fault Refusal :=
  .next (
    let y := s.core.sys
    if running s && (y.phase == .ready || (y.phase == .starting && decide (6 ≤ y.step))) && !bit y.record.epDisabled port then
      s.modHw (fun h => { h with epUp := setAt h.epUp port true })
    else s)

end Sys2Proof.Machine
end

