-- ==== Sys2Proof/Machine/Observation.lean ====
section
/-! DEFINITION. Observation (R525 to R542): the counter snapshot and its latch, trace, the error report, AER, and the loft's
commands (R517 to R519). -/
namespace Sys2Proof.Machine

/-! ### Counters (R537 to R539) -/

/-- The blocks of R537 in table order: base and number of counters. -/
def counterBlocks : List (Nat × Nat) :=
  [(0x100000, 22)] ++ (List.range 8).map (fun n => (0x101000 + 0x1000 * n, 35)) ++
  [(0x110000, 17), (0x111000, 3), (0x111100, 15), (0x111200, 15), (0x111400, 64), (0x112000, 6), (0x112100, 6), (0x113000, 5),
   (0x114000, 4)] ++ (List.range 4).map (fun p => (0x114100 + 0x100 * p, 2))

/-- The snapshot's parts: the header, then each block (R538). -/
def snapshotParts (s : State) : List (List Byte) :=
  let conf := s.core.sys.conf
  let block (base len : Nat) (body : List Byte) : List Byte := leBytes 4 base ++ leBytes 4 len ++ body
  [leBytes 8 (if conf then s.core.obs.latchDt else dtOf s) ++ leBytes 4 7392 ++ leBytes 4 (b2n conf)] ++
  counterBlocks.map (fun b => block b.1 (8 * b.2) ((List.range b.2).flatMap (fun i => leBytes 8 (counterValue s (b.1 + 8 * i))))) ++
  [block 0x180000 3584 ((List.range 56).flatMap (fun n => (List.range 16).flatMap (fun k => leBytes 4 (arbWord s n (4 * k))))),
   block 0x181000 40 ((List.range 10).flatMap (fun i => leBytes 4 (tierWord s i)))]

/-- The parts that fit a length, whole. -/
def fitParts (max : Nat) : List (List Byte) → List Byte
  | [] => []
  | p :: l => if p.length ≤ max then p ++ fitParts (max - p.length) l else []

/-- Writes an answer to host memory and places DONE with its length. -/
def State.answer (s : State) (h addr : Nat) (b : List Byte) : State := (s.dma addr b).place h 0x00 (leBytes 4 b.length)

def counterSnapshotBody (r : Req) (s : State) : State :=
  s.guarded r.h [need (decide (16 ≤ r.u32 8)) 0x11] (fun s => s.answer r.h (r.u64 0) (fitParts (r.u32 8) (snapshotParts s)))
def execCounterSnapshot (hatch : Nat) (s : State) : Host.Outcome State Fault Refusal :=
  .next (serve 0x0901 hatch counterSnapshotBody s)

/-- Latches every value for confidential reads, rounded down, with the boundary's DT (R470, R539). -/
def State.latchCounters (s : State) : State :=
  let round (r : ReqStat) : ReqStat :=
    { r with
      beats := coarse r.beats, slotGrants := coarse r.slotGrants, background := coarse r.background, lateC := coarse r.lateC,
      lateM := coarse r.lateM, lateF := coarse r.lateF, waitMax := coarse r.waitMax, taken := coarse r.taken, torn := coarse r.torn,
      refused := coarse r.refused, deferred := coarse r.deferred }
  s.modObs (fun o =>
    { o with
      latch := NMap.set (o.counters.map (fun p => (p.1, coarse p.2))) (tierCtr 8) (coarse (freeNear s))
      latchDt := dtOf s / 10000000 * 10000000
      latchSess := s.core.work.sess.map (fun p =>
        (p.1, [coarse p.2.ctx.late.toNat, coarse p.2.ctx.discarded.toNat, coarse p.2.ctx.thinned.toNat]))
      arbLatch := s.core.fab.stats.map round })

def execCounterLatch (s : State) : Host.Outcome State Fault Refusal :=
  .next (if running s && s.core.sys.conf && decide (s.core.obs.latchDt + 10000000 ≤ dtOf s) then s.latchCounters else s)

/-! ### Trace (R540 to R542) -/

/-- A SYNC record: the records since trace began. -/
def State.traceSync (s : State) : State :=
  (s.modObs (fun o => { o with lastSync := dtOf s })).traceRec 0xF0 0xA5 (leBytes 4 s.core.obs.sent)

/-- Trace ends: its records go, and the pins are released (R540). -/
def State.traceOff (s : State) : State := s.modObs (fun o => { o with trace := false, mask := 0, buf := [], seq := 0, sent := 0, lost := 0 })

def traceSetBody (r : Req) (s : State) : State :=
  s.guarded r.h [need (!s.core.sys.conf) 0x15] (fun s =>
    let s :=
      if r.u8 4 == 0 then s.traceOff
      else if s.core.obs.trace then s.modObs (fun o => { o with mask := r.u32 0 })
      else (s.modObs (fun o => { o with trace := true, mask := r.u32 0, buf := [], seq := 0, sent := 0, lost := 0 })).traceSync
    s.place r.h 0x00)
def execTraceSet (hatch : Nat) (s : State) : Host.Outcome State Fault Refusal :=
  .next (serve 0x0902 hatch traceSetBody s)

/-- R542: the port has sent what waited; a LOST record goes first when records were dropped, then SYNC. -/
def execTraceSync (s : State) : Host.Outcome State Fault Refusal :=
  .next (
    let o := s.core.obs
    if running s && o.trace && decide (o.lastSync + 1000000 ≤ dtOf s) then
      let s := o.buf.foldl (fun s b => s.emit (.trace b)) (s.modObs (fun o => { o with buf := [], lost := 0 }))
      let s := if o.lost == 0 then s else s.traceRec 0xF1 0 (leBytes 4 o.lost)
      s.traceSync
    else s)

/-! ### Errors (R532, R533) and AER (R534) -/

/-- The error report's parts (R533), masked in confidential mode (R529). -/
def errParts (s : State) : List (List Byte) :=
  let reg (i : Nat) : List Byte :=
    let r := if errPresent s i then s.err.regs.getD i {} else {}
    leBytes 1 i ++ leBytes 3 0 ++ leBytes 4 r.bits.toNat ++ leBytes 8 r.firstDt.toNat ++
      leBytes 8 (if r.bits == 0 then 0 else maskInfo s r.firstInfo.toNat) ++ leBytes 8 0
  [leBytes 4 16 ++ leBytes 4 s.err.history.length ++ leBytes 8 (dtOf s) ++ (List.range 16).flatMap reg] ++
  s.err.history.map (fun e =>
    leBytes 8 e.dt ++ leBytes 1 e.index ++ leBytes 1 e.bitNo ++ leBytes 2 0 ++ leBytes 4 e.bits ++ leBytes 8 (maskInfo s e.info) ++ leBytes 8 0)

def errDetailReadBody (r : Req) (s : State) : State :=
  s.guarded r.h [need (decide (528 ≤ r.u32 8)) 0x11] (fun s => s.answer r.h (r.u64 0) (fitParts (r.u32 8) (errParts s)))
def execErrDetailRead (hatch : Nat) (s : State) : Host.Outcome State Fault Refusal :=
  .next (serve 0x0903 hatch errDetailReadBody s)

/-- Sets status bits of AER. -/
def State.aer (s : State) (uncorr corr : W32) : State :=
  if endpointUp s then { s with pcie := { s.pcie with aerUncorr := s.pcie.aerUncorr ||| uncorr, aerCorr := s.pcie.aerCorr ||| corr } } else s

def execUnsupportedRequest (s : State) : Host.Outcome State Fault Refusal :=
  .next (if endpointUp s then (s.aer (1#32 <<< 20) 0).emit .unsupported else s)

/-- An unexpected completion is advisory: its own bit, and the Advisory Non-Fatal bit. -/
def execUnexpectedCompletion (s : State) : Host.Outcome State Fault Refusal := .next (s.aer (1#32 <<< 16) (1#32 <<< 13))

def execLinkLayerError (error : LinkError) (s : State) : Host.Outcome State Fault Refusal :=
  .next (match error with
    | .receiver => s.aer 0 (1#32 <<< 0)
    | .badTlp => s.aer 0 (1#32 <<< 6)
    | .badDllp => s.aer 0 (1#32 <<< 7)
    | .replayRollover => s.aer 0 (1#32 <<< 8)
    | .replayTimeout => s.aer 0 (1#32 <<< 12)
    | .dlProtocol => s.aer (1#32 <<< 4) 0
    | .receiverOverflow => s.aer (1#32 <<< 17) 0
    | .flowControl => s.aer (1#32 <<< 13) 0
    | .malformedTlp => s.aer (1#32 <<< 18) 0)

/-! ### The loft's commands -/

/-- A start record's bytes (R516). -/
def StartRec.bytes (r : StartRec) : List Byte :=
  padTo 128 (leBytes 4 r.startNo ++ leBytes 1 r.cause ++ leBytes 1 r.bootSrc ++ leBytes 1 r.source ++ leBytes 1 r.final ++
    leBytes 4 r.fwVersion ++ leBytes 1 r.chExcluded ++ leBytes 1 r.mpHeld ++ leBytes 1 r.epDisabled ++ leBytes 1 r.flags ++
    r.outcome.flatMap (leBytes 1) ++ r.reason.flatMap (leBytes 1) ++ leBytes 1 r.chFailed ++ leBytes 3 0 ++
    r.stepUs.flatMap (leBytes 4) ++ leBytes 8 r.dtReady)

/-- A page of the start log ring: the record of start n in place n mod 512 (R515). -/
def logPage (s : State) (p : Nat) : List Byte :=
  (List.range 32).flatMap (fun k =>
    match s.loft.log.find? (fun r => r.startNo % 512 == 32 * (p - 48) + k) with
    | some r => r.bytes
    | none => List.replicate 128 0)

/-- What LOFT_READ returns of a page (R518). -/
def loftShown (s : State) (p : Nat) : List Byte :=
  if p < 32 then loftPage s p else if p < 48 then List.replicate 4096 0 else logPage s p

def loftReadBody (r : Req) (s : State) : State :=
  s.guarded r.h [need (decide (r.u8 0 ≤ 63)) 0x11] (fun s => (s.dma (r.u64 8) (loftShown s (r.u8 0))).place r.h 0x00)
def execLoftRead (hatch : Nat) (s : State) : Host.Outcome State Fault Refusal :=
  .next (serve 0x0A01 hatch loftReadBody s)

/-- R519: the page as a whole, then the read-back, whose mismatch leaves the image that last verified. -/
def loftStoreBody (d : Dma) (good : Bool) (r : Req) (s : State) : State :=
  let p := r.u8 0
  s.guarded r.h [need (decide (p ≤ 63)) 0x11, need (decide (p < 32)) 0x15] (fun s =>
    s.withDma r.h (r.u64 8) 4096 d 0xFFFF (fun img s =>
      let s := s.modLoft (fun l => { l with writes := NMap.bump l.writes p 1, lastStore := some (p, loftPage s p, dtOf s) })
      if good then
        (s.modLoft (fun l => { l with pages := Mem.write l.pages (4096 * p) img })).place r.h 0x00 (leBytes 4 (NMap.getD s.loft.writes p 0))
      else (s.err1 0 10).place r.h 0x30))
def execLoftStore (hatch : Nat) (data : List Byte) (readBackOk : Bool) (s : State) : Host.Outcome State Fault Refusal :=
  .next (serve 0x0A03 hatch (loftStoreBody (.ok data) readBackOk) s)

/-- The start log's parts (R517): the header, then the records, newest first. -/
def startLogParts (s : State) : List (List Byte) :=
  [leBytes 4 s.loft.log.length ++ leBytes 4 s.loft.nextStart ++ leBytes 8 0] ++ s.loft.log.map StartRec.bytes

def startLogReadBody (r : Req) (s : State) : State :=
  s.guarded r.h [need (decide (16 ≤ r.u32 8)) 0x11] (fun s => s.answer r.h (r.u64 0) (fitParts (r.u32 8) (startLogParts s)))
def execStartLogRead (hatch : Nat) (s : State) : Host.Outcome State Fault Refusal :=
  .next (serve 0x0A04 hatch startLogReadBody s)

end Sys2Proof.Machine
end

