-- ==== Sys2Proof/Machine/Radio.lean ====
section
/-! DEFINITION. The 0x07xx commands of the sample conditioning unit: chains, sounding bindings and antenna arrays (R331 to R338, R348,
R351 to R353), with the mapping of elements to chains. -/
namespace Sys2Proof.Machine

def scuChain (s : State) (c : Nat) : Chain := s.core.scu.chains.getD c {}
def State.modScuChain (s : State) (c : Nat) (f : Chain → Chain) : State := s.modScu (fun u => { u with chains := updAt u.chains c f })
def bindingAt (s : State) (i : Nat) : Option Binding := NMap.get? s.core.scu.bindings i

/-! ### Chains (R348) -/

/-- The FIR that a new tap count leaves: 0x7FFF at tap 0. -/
def resetFir (n : Nat) : List Int := 0x7FFF :: List.replicate (n - 1) 0

def scuChainSetBody (r : Req) (s : State) : State :=
  let c := r.u8 0
  let taps := r.u8 7
  let shifts := [r.u8 4, r.u8 5, r.u8 6]
  s.guarded r.h
    [scuCheck s, need (decide (c ≤ 31) && decide (r.u8 1 ≤ 1) && decide (r.u8 2 ≤ 2) && shifts.all (fun v => decide (v ≤ 15)) &&
       decide (1 ≤ taps) && decide (taps ≤ 96)) 0x11,
     need (!held s (.chain c)) 0x13, need (!(scuChain s c).run) 0x13]
    (fun s =>
      (s.modScuChain c (fun x =>
        { x with port := r.u8 1, dcFreeze := r.u8 2, shifts := shifts, fir := if x.fir.length == taps then x.fir else resetFir taps,
                 dcI := 0, dcQ := 0 })).place r.h 0x00)
def execScuChainSet (hatch : Nat) (s : State) : Host.Outcome State Fault Refusal :=
  .next (serve 0x0701 hatch scuChainSetBody s)

def scuCoeffLoadBody (d : Dma) (r : Req) (s : State) : State :=
  let c := r.u8 0
  let st := r.u8 1
  let n := r.u8 2
  s.guarded r.h
    [scuCheck s, need (decide (c ≤ 31)) 0x11,
     need (if st == 4 then n == (scuChain s c).fir.length else decide (1 ≤ st) && decide (st ≤ 3) && decide (n ≤ 32)) 0x11,
     need (!held s (.chain c)) 0x13, need (!(scuChain s c).run) 0x13]
    (fun s =>
      let set (h : List Int) (s : State) : State :=
        (s.modScuChain c (fun x => if st == 4 then { x with fir := h } else { x with dec := setAt x.dec (st - 1) h })).place r.h 0x00
      if n == 0 then set [] s
      else s.withDma r.h (r.u64 8) (2 * n) d 0xFFFF (fun b s => set ((List.range n).map (fun i => intAt b (2 * i) 2)) s))
def execScuCoeffLoad (hatch : Nat) (data : List Byte) (s : State) : Host.Outcome State Fault Refusal :=
  .next (serve 0x0702 hatch (scuCoeffLoadBody (.ok data)) s)

/-- RUN = 1 starts a chain for an owner; RUN = 0 stops it once its element-symbol in progress has ended. -/
def scuChainRunBody (r : Req) (s : State) : State :=
  let c := r.u8 0
  let x := scuChain s c
  s.guarded r.h
    [scuCheck s, need (decide (c ≤ 31) && decide (r.u8 1 ≤ 1) && decide (r.u8 2 ≤ 1)) 0x11, need (!held s (.chain c)) 0x13,
     need (if r.u8 1 == 1 then !x.run || x.owner == r.u8 2 else x.owner == r.u8 2) 0x13]
    (fun s =>
      if r.u8 1 == 1 then (s.modScuChain c (fun x => { x with run := true, owner := r.u8 2 })).place r.h 0x00
      else (s.modScuChain c (fun x => { x with stopping := true })).modCtl r.h (fun k => { k with job := some (.chainStop c) }))
def execScuChainRun (hatch : Nat) (s : State) : Host.Outcome State Fault Refusal :=
  .next (serve 0x0703 hatch scuChainRunBody s)

def execChainStopDone (hatch : Nat) (s : State) : Host.Outcome State Fault Refusal :=
  .next (match jobAt s hatch with
    | some (.chainStop c) => (s.modScuChain c (fun x => { x with run := false, stopping := false })).place hatch 0x00
    | _ => s)

/-! ### Elements and chains (R336, R338) -/

/-- The chains of the matching elements: array, element, its definition, and a chain while one is left. -/
def elementChains (s : State) (b : Binding) : List (Nat × Nat × Element × Option Nat) :=
  let cs := bitsSet b.chainMask 32
  (matchingElements s b).zipIdx.map (fun p => (p.1.1, p.1.2.1, p.1.2.2, cs[p.2]?))

/-! ### Bindings (R331 to R334) -/

/-- R331's ranges. -/
def bindOk (s : State) (r : Req) : Bool :=
  let comb := r.u8 10
  let per := r.u16 12
  (match sessAt s (r.u16 0) with | some _ => true | none => false) && decide (r.u8 2 ≤ 1) && decide (r.u16 6 ≤ 272) &&
  decide (4 ≤ r.u16 8) && decide (r.u16 8 ≤ 272) && r.u16 8 % 4 == 0 && decide (r.u16 6 + r.u16 8 ≤ 273) &&
  (comb == 2 || comb == 4 || comb == 8) && decide (r.u8 11 < comb) && decide (1 ≤ per) && decide (per ≤ 2560) && decide (r.u16 14 < per) &&
  r.u32 16 != 0 && decide (r.u8 20 ≤ 13) && (r.u8 21 == 1 || r.u8 21 == 2 || r.u8 21 == 4) && decide (r.u8 20 + r.u8 21 ≤ 14)

/-- The binding a request asks for. -/
def bindingOf (r : Req) : Binding :=
  { sid := r.u16 0, port := r.u8 2, eaxc := r.u16 4, prb := r.u16 6, nprb := r.u16 8, comb := r.u8 10, combOff := r.u8 11, period := r.u16 12,
    slotOff := r.u16 14, chainMask := r.u32 16, sym := r.u8 20, nsym := r.u8 21 }

/-- Two bindings want the same resource (R333). -/
def bindMeets (a b : Binding) : Bool :=
  a.port == b.port && a.eaxc == b.eaxc && a.comb == b.comb && a.combOff == b.combOff && decide (a.prb < b.prb + b.nprb) &&
  decide (b.prb < a.prb + a.nprb) && decide (a.sym < b.sym + b.nsym) && decide (b.sym < a.sym + a.nsym) &&
  a.slotOff % Nat.gcd a.period b.period == b.slotOff % Nat.gcd a.period b.period

def soundingBindBody (r : Req) (s : State) : State :=
  let b := bindingOf r
  let idx := NMap.lowestFree s.core.scu.bindings 16384
  s.guarded r.h
    [scuCheck s, need (bindOk s r) 0x11, need (!s.core.scu.bindings.any (fun p => bindMeets p.2 b) && idx.isSome) 0x13]
    (fun s =>
      (s.modScu (fun u => { u with bindings := NMap.set u.bindings (idx.getD 0) b })).place r.h 0x00 (leBytes 2 (idx.getD 0)))
def execSoundingBind (hatch : Nat) (s : State) : Host.Outcome State Fault Refusal :=
  .next (serve 0x0704 hatch soundingBindBody s)

def soundingUnbindBody (r : Req) (s : State) : State :=
  let i := r.u16 0
  s.guarded r.h [scuCheck s, need (decide (i < 16384)) 0x11] (fun s =>
    let s := s.dropAssembling (· == i)
    (s.modScu (fun u => { u with bindings := NMap.erase u.bindings i })).place r.h 0x00)
def execSoundingUnbind (hatch : Nat) (s : State) : Host.Outcome State Fault Refusal :=
  .next (serve 0x0705 hatch soundingUnbindBody s)

/-! ### Antenna arrays (R351 to R353) -/

/-- The array of a request and its element table. -/
def antennaOf (r : Req) (t : List Byte) : Antenna :=
  { pos := [intAt r.payload 8 4, intAt r.payload 12 4, intAt r.payload 16 4]
    quat := (List.range 4).map (fun i => intAt r.payload (0x14 + 2 * i) 2)
    mask := fieldAt t 0 2
    elements := (List.range (r.u8 1)).map (fun i =>
      let e := bytesAt t (16 + 32 * i) 32
      { eaxc := fieldAt e 0 2, enabled := bit (fieldAt e 2 1) 0, offset := [intAt e 4 4, intAt e 8 4, intAt e 12 4], delay := intAt e 16 4,
        phase := intAt e 20 2, gain := intAt e 22 2 }) }

/-- The quaternion's norm lies within 2⁻⁷ of 1 (R351). -/
def unitQuat (q : List Int) : Bool :=
  let n := (q.map (fun x => x * x)).foldl (· + ·) 0
  decide (127 * 127 * 16384 ≤ n) && decide (n ≤ 129 * 129 * 16384)

/-- No enabled element's eAxC ID stands twice (R351). -/
def eaxcUnique (s : State) (a : Nat) (x : Antenna) : Bool :=
  let ids (e : List Element) : List Nat := (e.filter (·.enabled)).map (·.eaxc)
  let others := ((List.range 8).filter (· != a)).flatMap (fun b => ids (antennaAt s b).elements)
  decide ((ids x.elements).eraseDups.length = (ids x.elements).length) && (ids x.elements).all (fun e => !others.contains e)

/-- Drops the reference of every binding of a test (R353, R356). -/
def State.dropRefs (s : State) (f : Nat → Binding → Bool) : State :=
  let n := (s.core.scu.bindings.filter (fun p => p.2.ref.isSome && f p.1 p.2)).length
  (s.modScu (fun u =>
    { u with bindings := u.bindings.map (fun p => (p.1, if f p.1 p.2 then { p.2 with ref := none } else p.2)) })).bump (scuCtr 1) n

/-- Chains that carry an element of an array, by the bindings. -/
def arrayChains (s : State) (a : Nat) : List Nat :=
  s.core.scu.bindings.flatMap (fun p => (elementChains s p.2).filterMap (fun e => if e.1 == a then e.2.2.2 else none))

def antennaSetBody (d : Dma) (r : Req) (s : State) : State :=
  let a := r.u8 0
  let n := r.u8 1
  s.guarded r.h
    [scuCheck s, need (decide (a ≤ 7) && decide (1 ≤ n) && decide (n ≤ 32) && unitQuat ((List.range 4).map (fun i => intAt r.payload (0x14 + 2 * i) 2))) 0x11]
    (fun s => s.withDma r.h (r.u64 0x20) (16 + 32 * n) d 0xFFFF (fun t s =>
      let x := antennaOf r t
      if fieldAt t 2 1 != n || !eaxcUnique s a x then s.place r.h 0x11
      else
        let old := arrayChains s a
        let s := s.modScu (fun u => { u with
          arrays := setAt u.arrays a x
          quarEnd := setAt u.quarEnd a none
          votes := setAt u.votes a [] })
        let cs := old ++ arrayChains s a
        let s := s.dropRefs (fun _ b => match b.ref with | some y => y.array == a | none => false)
        let s := cs.foldl (fun s c => s.modScuChain c (fun x => { x with dcI := 0, dcQ := 0 })) s
        s.place r.h 0x00))
def execAntennaSet (hatch : Nat) (data : List Byte) (s : State) : Host.Outcome State Fault Refusal :=
  .next (serve 0x0706 hatch (antennaSetBody (.ok data)) s)

end Sys2Proof.Machine
end

