-- ==== Sys2Proof/Machine/Security.lean ====
section
/-! DEFINITION. The 0x08xx commands (R436, R444, R454 to R457, R463, R473 to R476) with the ends of their work: certificates, reports,
contexts, the mode and key rotation. -/
namespace Sys2Proof.Machine

def pointAt (b : List Byte) (o : Nat) : Nat × Nat := (beAt b o 32, beAt b (o + 32) 32)

/-! ### Certificates (R436) -/

/-- The chain: the device certificate, then the issuing authority's, together at most 2,048 bytes. -/
def certBytes : List Byte := Config.certChain.take 2048

def certReadBody (r : Req) (s : State) : State :=
  s.guarded r.h [need (decide (certBytes.length ≤ r.u32 8)) 0x11] (fun s => s.answer r.h (r.u64 0) certBytes)
def execCertRead (hatch : Nat) (s : State) : Host.Outcome State Fault Refusal :=
  .next (serve 0x0801 hatch certReadBody s)

/-! ### Reports (R473 to R476) -/

/-- MODE of a report. -/
def modeByte (s : State) : Nat := if s.core.sys.phase == .safe then 2 else if s.core.sys.conf then 1 else 0

/-- The resident graphs in ascending slot: image and CH_MASK, each load once. -/
def residentGraphs (s : State) : List (List Byte × Nat) :=
  (List.range 64).flatMap (fun g => ((List.range 8).filterMap (fun c => (residentAt s c g).map (fun x => (x.graph.image, x.mask)))).eraseDups)

/-- CONFIG_MEAS (R474). -/
def configMeas (s : State) : List Byte :=
  let d := s.core.map.data
  let table := if s.core.fab.image.isEmpty then defaultImage else s.core.fab.image
  sm3 (table ++ (residentGraphs s).flatMap (fun g => sm3 g.1 ++ leBytes 1 g.2) ++ leInt 8 d.lat ++ leInt 8 d.lon ++ leInt 4 d.height ++
    leBytes 1 s.core.air.mu ++ leInt 8 s.core.air.epoch ++ leBytes 1 (modeByte s))

/-- A crate entry (R475). -/
def crateEntry (n : Nat) (c : Crate) : List Byte :=
  leBytes 1 n ++ leBytes 1 c.state ++ leBytes 2 0 ++ bytesAt c.header 8 4 ++ sm3 (bytesAt c.header 0x28 64) ++ padTo 32 c.measurement ++
    bytesAt c.header 0x10 8

/-- A context entry (R475). -/
def contextEntry (s : State) (n : Nat) (t : Tenant) : List Byte :=
  leBytes 1 n ++ leBytes 1 t.gen ++ leBytes 1 (b2n t.prevLive) ++ leBytes 1 0 ++
    leBytes 4 (s.core.work.sess.filter (fun e => e.2.owner == n)).length ++ padTo 32 t.digest ++ leBytes 8 t.created

/-- The report before its signature (R473). -/
def reportBody (s : State) (ctx include_ : Nat) (nonce : List Byte) : List Byte :=
  let crates := if bit include_ 1 then s.core.work.crates else []
  let ctxs := if bit include_ 3 then (if ctx == 0 then s.core.sec.contexts else s.core.sec.contexts.filter (fun e => e.1 == ctx)) else []
  let fw := bit include_ 0
  let len := 256 + 80 * crates.length + 48 * ctxs.length + 64
  let part := if s.hw.is968 then 0x0968 else 0x0964
  padTo 256 (leBytes 4 0x48595201 ++ leBytes 2 1 ++ leBytes 2 0 ++ leBytes 4 include_ ++ leBytes 4 len ++ serialBytes s ++ leBytes 2 part ++
    leBytes 1 0xB0 ++ leBytes 1 (modeByte s) ++ leBytes 1 ctx ++ leBytes 1 crates.length ++ leBytes 1 ctxs.length ++ leBytes 1 0 ++
    leBytes 8 (dtOf s) ++ padTo 16 nonce ++ (if fw then padTo 32 s.core.sys.fwMeas else List.replicate 32 0) ++
    leBytes 4 (if fw then s.core.sys.fwVersion else 0) ++ leBytes 4 (if fw then Config.romVersion else 0) ++ List.replicate 24 0 ++
    (if bit include_ 2 then configMeas s else List.replicate 32 0)) ++
  crates.flatMap (fun e => crateEntry e.1 e.2) ++ ctxs.flatMap (fun e => contextEntry s e.1 e.2)

def attestBody (r : Req) (s : State) : State :=
  let body := reportBody s r.ctx (r.u32 12) (bytesAt r.payload 16 16)
  s.guarded r.h [need (!s.core.sec.selfTestBad) 0x3F, need (decide (body.length + 64 ≤ r.u32 8)) 0x11] (fun s =>
    let (n, s) := s.draw
    s.answer r.h (r.u64 0) (body ++ sm2Sign (serialBytes s) body n))
def execAttest (hatch : Nat) (s : State) : Host.Outcome State Fault Refusal :=
  .next (serve 0x0802 hatch attestBody s)

/-! ### Contexts (R454, R455) -/

/-- What a key agreement gives: the ephemeral point, the confirmation, K_IN and K_OUT. -/
structure Agreement where
  point : Nat × Nat
  confirm : List Byte
  kIn : List Byte
  kOut : List Byte
  deriving DecidableEq, Repr

/-- SM2 key exchange as responder B with klen 256 (R455): the partner's ID, static and ephemeral points, the device's ephemeral
key. None where V is the point at infinity. -/
def agree (id serial : List Byte) (pa ra : Nat × Nat) (rb : Nat) : Option Agreement :=
  (sm2Shared Config.identityKey rb pa ra).map (fun (p, v) =>
    let za := sm2Z id pa
    let zb := sm2Z serial Config.identityPoint
    let k := sm3Kdf (pointBytes v ++ za ++ zb) 32
    let inner := sm3 (beBytes 32 v.1 ++ za ++ zb ++ pointBytes ra ++ pointBytes p)
    { point := p, confirm := sm3 (leBytes 1 2 ++ beBytes 32 v.2 ++ inner), kIn := k.take 16, kOut := k.drop 16 })

/-- The message's checks (R454). -/
def agreementOk (b : List Byte) : Bool :=
  fieldAt b 0 4 == 0x48594B01 && fieldAt b 4 2 == 1 && decide (1 ≤ fieldAt b 6 2) && decide (fieldAt b 6 2 ≤ 64) &&
    sm2OnCurve (pointAt b 8) && sm2OnCurve (pointAt b 0x48)

/-- The lowest free number of a tenant context. -/
def freeContext (s : State) : Option Nat := ((List.range 254).map (· + 1)).find? (fun n => !NMap.has s.core.sec.contexts n)

def contextCreateBody (d : Dma) (r : Req) (s : State) : State :=
  let mask := r.u64 8
  s.guarded r.h
    [need (mask % 256 == 0) 0x11,
     need ((bitsSet mask 64).all (fun h => (ctlAt s h).assigned == 0) && (freeContext s).isSome) 0x13]
    (fun s => s.withDma r.h (r.u64 0) 256 d 0xFFFF (fun b s =>
      let (n, s) := s.draw
      let rb := Config.noise n % (sm2N - 1) + 1
      match (if agreementOk b then agree (bytesAt b 0x88 (fieldAt b 6 2)) (serialBytes s) (pointAt b 8) (pointAt b 0x48) rb else none) with
      | none => s.place r.h 0x11
      | some a =>
        let c := (freeContext s).getD 0
        let t : Tenant := { digest := sm3 (bytesAt b 8 64), kIn := a.kIn, kOut := a.kOut, created := dtOf s }
        let s := (s.modSec (fun x => { x with contexts := NMap.set x.contexts c t })).addKeys c 1
        let s := (bitsSet mask 64).foldl (fun s h => s.modCtl h (fun k => { k with assigned := c, lastCtr := 0 })) s
        let reply := pointBytes a.point ++ a.confirm ++ leBytes 1 c ++ leBytes 1 1 ++ List.replicate 14 0 ++ serialBytes s
        (s.dma (r.u64 0 + 0x100) reply).place r.h 0x00 (leBytes 1 c)))
def execContextCreate (hatch : Nat) (data : List Byte) (s : State) : Host.Outcome State Fault Refusal :=
  .next (serve 0x0803 hatch (contextCreateBody (.ok data)) s)

/-- Steps 4 and 5 of R457: keys, pages, patches, queues, tracks, event entries, hatches; the number is free. -/
def State.endContext (s : State) (ctx : Nat) : State :=
  let s := ((s.core.tiers.pages.filter (fun e => e.2.ctx == ctx)).map (·.1)).foldl State.freePage s
  let s := s.modFus (fun f =>
    { f with
      tracks := f.tracks.filter (fun e => e.1 / 256 != ctx)
      obsQ := f.obsQ.filter (fun e => e.1 / 256 != ctx)
      home := f.home.filter (fun e => e.1 / 256 != ctx) })
  let s := s.removeEvents (fun e => (e.action == 1 || e.action == 2) && bits e.arg 15 8 == ctx)
  let s := s.modAir (fun a => { a with closes := a.closes.filter (fun e => e.1 / 256 != ctx) })
  let s := s.modHat (fun h => { h with ctl := h.ctl.map (fun c => if c.assigned == ctx then { c with assigned := 0, lastCtr := 0 } else c) })
  let s := (s.modSec (fun c => { c with contexts := NMap.erase c.contexts ctx })).dropKeys (fun d _ => d == ctx)
  s.event 0x0009 [leBytes 1 ctx]

def contextDestroyBody (r : Req) (s : State) : State :=
  let c := r.u8 0
  s.guarded r.h
    [need (c != 0 && NMap.has s.core.sec.contexts c) 0x11,
     need (!held s (.ctx c) && !(NMap.getD s.core.sec.contexts c {}).dying) 0x13]
    (fun s => (s.accept r.h (.contextDestroy c)).beginDestroy c)
def execContextDestroy (hatch : Nat) (s : State) : Host.Outcome State Fault Refusal :=
  .next (serve 0x0804 hatch contextDestroyBody s)

def execContextDestroyDone (hatch : Nat) (s : State) : Host.Outcome State Fault Refusal :=
  .next (match jobAt s hatch with
    | some (.contextDestroy c) =>
      if (NMap.getD s.core.sec.contexts c {}).scrubbed && !s.core.sys.scrub then (s.endContext c).place hatch 0x00 else s
    | _ => s)

/-! ### The mode (R463) -/

def isModeJob : Job → Bool
  | .confEnter => true
  | .confExit => true
  | _ => false

/-- Tenant contexts, ascending. -/
def tenants (s : State) : List Nat := (s.core.sec.contexts.filter (fun e => e.1 != 0)).map (·.1)

/-- A mode switch waits for every other command, then its tenants begin to end (R463, steps 1 and 2). -/
def State.modeProceed (s : State) : State :=
  if (hatchesWith s isModeJob).isEmpty || !(hatchesWith s (fun j => !isModeJob j)).isEmpty then s
  else ((tenants s).filter (fun c => !(NMap.getD s.core.sec.contexts c {}).dying)).foldl State.beginDestroy s

def confEnterBody (r : Req) (s : State) : State :=
  if s.core.sys.conf then s.place r.h 0x00 else (s.accept r.h .confEnter).modeProceed
def execConfEnter (hatch : Nat) (s : State) : Host.Outcome State Fault Refusal :=
  .next (serve 0x0805 hatch confEnterBody s)

def confExitBody (r : Req) (s : State) : State :=
  if s.core.sys.conf then (s.accept r.h .confExit).modeProceed else s.place r.h 0x00
def execConfExit (hatch : Nat) (s : State) : Host.Outcome State Fault Refusal :=
  .next (serve 0x0806 hatch confExitBody s)

/-- The mode changes: trace ends and the counters are latched on entry; turns begin with context 0 (R464, R465, R470). -/
def State.switchMode (s : State) (conf : Bool) : State :=
  let s := if conf then s.traceOff.latchCounters else s
  let s := s.modSec (fun c => { c with holder := 0, turnBegan := dtOf s, turnClosed := none, scrubFor := none })
  s.modSys (fun y => { y with conf := conf })

def execModeSwitchDone (hatch : Nat) (s : State) : Host.Outcome State Fault Refusal :=
  .next (
    let go (conf : Bool) : State :=
      if s.core.sys.conf == conf then s.place hatch 0x00
      else if s.core.sec.scrubFor == some .mode && !s.core.sys.scrub then (s.switchMode conf).place hatch 0x00 else s
    match jobAt s hatch with
    | some .confEnter => go true
    | some .confExit => go false
    | _ => s)

/-! ### Key rotation (R443, R444) -/

def keyRotateBody (r : Req) (s : State) : State :=
  let c := r.u8 0
  s.guarded r.h
    [need (r.ctx == 0 || c == r.ctx) 0x15, need (NMap.has s.core.sec.contexts c) 0x11,
     need (!held s (.ctx c) && (NMap.getD s.core.sec.contexts c {}).sweep.isNone) 0x13]
    (fun s =>
      ((s.accept r.h (.keyRotate c)).modSec (fun x => { x with contexts := NMap.upd x.contexts c (fun t =>
        { t with gen := t.gen % 255 + 1, prevLive := true, sweep := some 0, lastSweep := dtOf s }) })).addKeys c
          ((NMap.getD s.core.sec.contexts c {}).gen % 255 + 1))
def execKeyRotate (hatch : Nat) (s : State) : Host.Outcome State Fault Refusal :=
  .next (serve 0x0807 hatch keyRotateBody s)

/-- A page of a context that a sweep has still to move. -/
def sweepable (s : State) (ctx gen p : Nat) : Bool :=
  match pageAt s p with
  | none => false
  | some x =>
    let own := if ctx == 0 then !x.secret && (pageTenants s p).isEmpty else (pageTenants s p).contains ctx
    own && !x.poison && (!NMap.has s.core.tiers.pages p || x.gen != gen)

/-- Up to `n` pages to move, from a page number on. -/
def sweepPages (s : State) (ctx gen : Nat) : Nat → Nat → Nat → List Nat
  | 0, _, _ => []
  | fuel + 1, p, n =>
    if n == 0 then []
    else if sweepable s ctx gen p then p :: sweepPages s ctx gen fuel (p + 1) (n - 1) else sweepPages s ctx gen fuel (p + 1) n

/-- One page moves to a fresh frame of its tier under the current generation. -/
def State.sweepPage (gen : Nat) (s : State) (p : Nat) : State := (s.moveFrame p (((pageAt s p).map (·.near)).getD true)).modPage p (fun x => { x with gen := gen })

/-- A millisecond of a sweep: at most 128 pages; when none is left the previous generation is retired. -/
def execGenerationSweep (ctx : Nat) (s : State) : Host.Outcome State Fault Refusal :=
  .next (match NMap.get? s.core.sec.contexts ctx with
    | none => s
    | some t => match t.sweep with
      | none => s
      | some from_ =>
        if !running s || decide (dtOf s < t.lastSweep + 1000000) then s
        else
          let ps := sweepPages s ctx t.gen (rangePages s - from_) from_ 128
          let s := ps.foldl (State.sweepPage t.gen) s
          let s := if ps.length < 128 then s.dropKeys (fun d g => d == ctx && g != t.gen) else s
          s.modSec (fun x => { x with contexts := NMap.upd x.contexts ctx (fun t =>
            if ps.length < 128 then { t with sweep := none, prevLive := false }
            else { t with sweep := some (ps.getLastD 0 + 1), lastSweep := dtOf s }) }))

def execKeyRotateDone (hatch : Nat) (s : State) : Host.Outcome State Fault Refusal :=
  .next (match jobAt s hatch with
    | some (.keyRotate c) =>
      let t := NMap.getD s.core.sec.contexts c {}
      if t.sweep.isNone then s.place hatch 0x00 (leBytes 1 t.gen) else s
    | _ => s)

end Sys2Proof.Machine
end

