-- ==== Sys2Proof/Machine/Failures.lean ====
section
/-! DEFINITION. Channels that fail (R22, R107, R522 to R524) and what uncorrectable shelf errors do (R172). -/
namespace Sys2Proof.Machine

/-! ### The channel leaves service (R523, R524) -/

/-- The channel a session counts for: the target of its failure move, or the one it stands on. -/
def landsOn (x : Session) : Nat := match x.moveTo with
  | some (c, true) => c
  | some (_, false) => x.chan
  | none => x.chan
/-- Open sessions an ordinary channel holds or is about to hold. -/
def loadOf (s : State) (ch : Nat) : Nat := (s.core.work.sess.filter (fun p => landsOn p.2 == ch)).length

/-- The sessions a failed channel gives away: those that stand on it, and those a failure move brings to it; a closing one only
ends. -/
def movers (s : State) (ch : Nat) : List Nat :=
  (s.core.work.sess.filter (fun p => p.2.state != .closing && (match p.2.moveTo with
    | some (c, true) => c == ch
    | some (_, false) => p.2.chan == ch
    | none => p.2.chan == ch))).map (·.1)

/-- Marks a session MOVING, from the state it stands in. -/
def Session.toMoving (x : Session) : Session :=
  { x with before := if x.state == .moving then x.before else x.state, state := .moving }

/-- Gives a session to the ordinary channel that then holds the fewest (R523 step 3). -/
def State.giveAway (s : State) (failure : Bool) (sid : Nat) : State :=
  match minBy (loadOf s) (ordinaryChans s) with
  | some c => s.modSess sid (fun x => { x with moveTo := some (c, failure) })
  | none => s

/-- The CHANNEL_FAILED event: 22 SIDs in its first part, 24 in each later one (R102). -/
def failedParts (ch : Nat) (sids : List Nat) : List (List Byte) :=
  let b := sids.map (leBytes 2)
  (leBytes 1 ch ++ [0] ++ leBytes 2 sids.length ++ (b.take 22).flatten) ::
    (chunksOf 24 sids.length (b.drop 22)).map (fun l => l.flatten)

/-- The map jobs of a channel are lost (R308, ABANDONED). -/
def State.loseMapWork (s : State) (ch : Nat) : State :=
  let js := (s.core.map.jobs.filter (fun p => p.2.chan == ch && p.2.phase != 4 && p.2.phase != 3)).map (·.1)
  (js.foldl State.abandonJob s).modChan ch (fun c => { c with requests := [] })

/-- The items in flight on a channel end with FIRMWARE_FAULT and its shelf is lost (R110). -/
def State.loseInstances (s : State) (ch : Nat) : State :=
  (chanAt s ch).insts.foldl (fun s p => (s.dropInst ch p.1).endOrigin p.2.origin 0x3F) s

/-- Graph loads with the channel in their mask are undone with FIRMWARE_FAULT; the graphs of its shelf are gone. -/
def State.loseGraphs (s : State) (ch : Nat) : State :=
  let hs := hatchesWith s (fun j => match j with
    | .graphLoad _ mask _ _ => bit mask ch
    | _ => false)
  let s := hs.foldl (fun s h => s.place h 0x3F) s
  let before := (pinPlan s).2
  (s.modWork (fun w => { w with graphs := w.graphs.filter (fun p => p.1 / 64 != ch) })).pinCrates before

/-- No ordinary channel is left: the lowest map channel takes the ordinary role and its map work is lost (R524). -/
def State.ensureOrdinary (s : State) : State :=
  if (ordinaryChans s).isEmpty then
    match minBy id (mapChans s) with
    | some c => (s.loseMapWork c).modChan c (fun x => { x with mapRole := false })
    | none => s
  else s

/-- Gives sessions away in ascending SID order. -/
def State.giveAll (s : State) (failure : Bool) (sids : List Nat) : State := sids.foldl (fun t n => t.giveAway failure n) s

/-- The last map channel has failed: the highest ordinary channel gives its sessions away, as SESSION_MOVE moves them, and takes the
map role; with one channel left there is no map channel (R22, R521). -/
def State.ensureMap (s : State) : State :=
  let ord := ordinaryChans s
  if (mapChans s).isEmpty && decide (2 ≤ ord.length) then
    let c := ord.getLastD 0
    let s := s.modChan c (fun x => { x with mapRole := true, testMode := 0 })
    let sids := (s.core.work.sess.filter (fun p => p.2.chan == c && (p.2.state == .provisional || p.2.state == .normal))).map (·.1)
    let again := (s.core.work.sess.filter (fun p => p.2.moveTo == some (c, true))).map (·.1)
    let s := s.giveAll true again
    (sids.foldl (fun t n => t.modSess n Session.toMoving) s).giveAll false sids
  else s

/-- A channel leaves service at runtime (R22, R523, R524). `flags` are the bits its error register takes. -/
def State.channelFails (s : State) (ch bitNo flags : Nat) : State :=
  if !running s || !(serviceChans s).contains ch then s
  else
    let wasMap := (chanAt s ch).mapRole
    let sids := movers s ch
    let s := (s.setErr (8 + ch) bitNo flags).sideband (chanIds ch)
    let s := s.modRecord (fun r => { r with chFailed := r.chFailed ||| 2 ^ ch })
    let s := s.modChan ch (fun c => { c with inService := false, mapRole := false, testMode := 0, split := none, splitWaits := [], exch := {} })
    let s := (s.loseMapWork ch).loseGraphs ch
    let s := sids.foldl (fun t n => t.modSess n (fun x => { x.toMoving with moveTo := some (ch, true) })) s
    let s := s.loseInstances ch
    let s := s.dropAssembling (fun b => match NMap.get? s.core.scu.bindings b with
      | some y => sids.contains y.sid
      | none => false)
    let s := s.modChan ch (fun c => { c with engines := List.replicate 6 {}, queue := c.queue.filter (fun w => w.sid.isSome) })
    let s := (s.modFus (fun f => { f with home := f.home.filter (fun p => p.2 != ch) })).loseRequests (· == ch)
    let s := (s.ensureOrdinary.giveAll true sids).event 0x0001 (failedParts ch sids)
    if (serviceChans s).isEmpty then (s.modRecord (fun r => { r with outcome := setAt r.outcome 7 1 })).enterSafe 7
    else if wasMap then s.ensureMap else s

/-- The bits of ERR_CHANn for a cause: 1 shelf, 2 engine fault, 3 hang, 4 self-test; ENGINE goes with causes 2 and 3. -/
def causeFlags (cause engine : Nat) : Nat :=
  packBits [(b2n (cause == 1), 6), (1, 7), (cause % 8, 8), (if cause == 2 || cause == 3 then engine % 8 else 0, 12)]
def State.failChannel (s : State) (ch cause engine : Nat) : State :=
  s.channelFails ch (if cause == 1 then 6 else 7) (causeFlags cause engine)

def execChannelFailure (ch cause engine : Nat) (s : State) : Host.Outcome State Fault Refusal :=
  .next (s.failChannel ch cause engine)

/-- The slices of the self-test of a channel in test mode 1 (R107), on its engines between two steps, every 100 ms: one that fails takes the channel out
of service. -/
def execSelfTestSlice (ch : Nat) (pass : Bool) (s : State) : Host.Outcome State Fault Refusal :=
  .next (
    let c := chanAt s ch
    if running s && c.testMode == 1 && decide (c.lastSlice + 100000000 ≤ dtOf s) && c.engines.all (fun e => e.run.isNone) then
      let s := s.modChan ch (fun c => { c with lastSlice := dtOf s })
      if pass then s else s.failChannel ch 4 0
    else s)

/-- The instant since which an engine with work has neither ended a work group nor waited on a tag or a tier (R522). Of the
sequencer's own steps, only RESULT and CTX_PEEK wait on nothing. -/
def idleSince (s : State) (ch engine : Nat) : Option Nat :=
  let e := (chanAt s ch).engines.getD engine {}
  if engine < 5 then (if e.run.isSome && e.stall.isNone then some e.lastMove else none)
  else
    (((chanAt s ch).insts.flatMap (fun p => match instSlot s ch p.2 with
      | some g => (g.graph.steps.zip p.2.steps).filterMap (fun q => match q.2 with
          | .ready t => if q.1.engine == 9 || q.1.engine == 10 then some t else none
          | _ => none)
      | none => []))).min?

def execEngineHang (ch engine : Nat) (s : State) : Host.Outcome State Fault Refusal :=
  .next (match idleSince s ch engine with
    | some t => if decide (t + 10000000 < dtOf s) then s.failChannel ch 3 engine else s
    | none => s)

/-! ### Shelf errors (R172) -/

/-- An uncorrectable error that an instance's step met in a shelf, or corrections: what the device does, and whether the step goes
on. -/
def State.shelfRead (s : State) (ch i : Nat) (f : ShelfFinding) : Bool × State :=
  let sid := ((instAt s ch i).bind (·.sid)).getD 0xFFFF
  match f with
  | .clean => (true, s)
  | .corrected n => (true, s.bump (chanCtr ch 4) n)
  | .correctedCommon n => (true, s.bump (devCtr 5) n)
  | .instanceBlock => (false, (s.err1 (8 + ch) 6 255 sid).endEarly ch i 0x22)
  | .sharedBlock b =>
    let s := s.err1 (8 + ch) 6 255 sid
    let s := match instAt s ch i with
      | some x => s.modWork (fun w => { w with graphs := NMap.upd w.graphs (slotKey ch x.slot) (fun g => { g with restoring := g.restoring ++ [b] }) })
      | none => s
    (false, s.endEarly ch i 0x22)
  | .context => (false, s.restoreSession sid)
  | .firstBlocks => (false, s.failChannel ch 1 0)

/-- The shared blocks are restored from the graph's image copy, unless the copy is lost (R172, R409). -/
def execSharedBlockRestored (ch slot : Nat) (s : State) : Host.Outcome State Fault Refusal :=
  .next (if running s then
      s.modWork (fun w => { w with graphs := NMap.upd w.graphs (slotKey ch slot) (fun g => if g.copyLost then g else { g with restoring := [] }) })
    else s)

end Sys2Proof.Machine
end

