-- ==== Sys2Proof/Machine/Frames.lean ====
section
/-! DEFINITION. The payload of an item (R51 to R53, R116, R117): JPEG headers, raw frames, depth images and records, checked against
the session's sensor slots. -/
namespace Sys2Proof.Machine

/-! ### JPEG (R52) -/

/-- What the markers of a JPEG stream say: its size, whether the device accepts its process and sampling, and where it ends. -/
structure JpegHead where
  width : Nat := 0
  height : Nat := 0
  ok : Bool := false
  bad : Bool := false
  len : Nat := 0
  deriving DecidableEq, Repr

/-- The offset of the next marker in entropy-coded data: stuffed zeros and restart markers belong to the data. -/
def nextMarker : List Byte → Nat → Option Nat
  | a :: b :: rest, n =>
    if a == 0xFF && b != 0 && b != 0xFF && !(decide (0xD0 ≤ b.toNat) && decide (b.toNat ≤ 0xD7)) then some n
    else nextMarker (b :: rest) (n + 1)
  | _, _ => none

/-- A baseline frame header: 8-bit samples; greyscale, or YCbCr with 4:2:0 or 4:4:4 sampling. -/
def sofOk (b : List Byte) : Bool :=
  let n := beAt b 7 1
  beAt b 2 1 == 8 &&
  (n == 1 || (n == 3 && (beAt b 9 1 == 0x22 || beAt b 9 1 == 0x11) && beAt b 12 1 == 0x11 && beAt b 15 1 == 0x11))

/-- The segments of a stream from a position on; none where it ends early. -/
def jpegSegments : Nat → List Byte → Nat → JpegHead → Option JpegHead
  | 0, _, _, _ => none
  | n + 1, b, pos, h =>
    let m := beAt b pos 2
    let c := m % 256
    let seg := b.drop (pos + 2)
    let len := beAt seg 0 2
    if b.length < pos + 2 then none
    else if m == 0xFFD9 then some { h with len := pos + 2 }
    else if m / 256 != 0xFF then none
    else if c == 0xFF then jpegSegments n b (pos + 1) h
    else if c == 0xC0 then
      jpegSegments n b (pos + 2 + len) { h with height := beAt seg 3 2, width := beAt seg 5 2, ok := sofOk seg }
    else if decide (0xC1 ≤ c) && decide (c ≤ 0xCF) && c != 0xC4 && c != 0xC8 then jpegSegments n b (pos + 2 + len) { h with bad := true }
    else if c == 0xDD then jpegSegments n b (pos + 2 + len) { h with bad := h.bad || beAt seg 2 2 != 0 }
    else if c == 0xDA then
      match nextMarker (b.drop (pos + 2 + len)) 0 with
      | some k => jpegSegments n b (pos + 2 + len + k) h
      | none => none
    else jpegSegments n b (pos + 2 + len) h

/-- The head of a JPEG stream at the start of a payload. -/
def jpegHead (b : List Byte) : Option JpegHead := if beAt b 0 2 == 0xFFD8 then jpegSegments b.length b 2 {} else none

/-! ### JPEG entropy-coded data (R52, R116, R117; baseline sequential coding of ISO/IEC 10918-1) -/

/-- A Huffman table: length, code and symbol of each entry. -/
abbrev Huff := List (Nat × Nat × Nat)
/-- The codes of a table from its counts per length and its symbols, in order. -/
def huffCodes : Nat → Nat → List Nat → List Nat → Huff
  | _, _, [], _ => []
  | len, code, n :: counts, syms =>
    (syms.take n).zipIdx.map (fun e => (len, code + e.2, e.1)) ++ huffCodes (len + 1) (2 * (code + n)) counts (syms.drop n)

/-- A component of a frame: its identifier, sampling factors, quantisation table. -/
structure JpegComp where
  id : Nat
  h : Nat
  v : Nat
  tq : Nat
  deriving DecidableEq, Repr

/-- What a decoder holds: tables by number (a Huffman table under 16 times its class plus its number), the frame, the luma's blocks in raster order
of blocks, as 64 dequantised coefficients in zigzag order. -/
structure JpegDec where
  quant : NMap (List Nat) := []
  huff : NMap Huff := []
  width : Nat := 0
  height : Nat := 0
  comps : List JpegComp := []
  luma : Array (Option (List Int)) := #[]
  deriving DecidableEq, Repr

/-- The tables of a DQT segment. -/
def takeQuant : Nat → List Byte → JpegDec → JpegDec
  | 0, _, d => d
  | n + 1, b, d =>
    if b.isEmpty then d
    else
      let w := 1 + beAt b 0 1 / 16
      takeQuant n (b.drop (1 + 64 * w)) { d with quant := NMap.set d.quant (beAt b 0 1 % 16) ((List.range 64).map (fun i => beAt b (1 + w * i) w)) }
/-- The tables of a DHT segment. -/
def takeHuff : Nat → List Byte → JpegDec → JpegDec
  | 0, _, d => d
  | n + 1, b, d =>
    if b.isEmpty then d
    else
      let counts := (List.range 16).map (fun i => beAt b (1 + i) 1)
      let m := counts.foldl (· + ·) 0
      takeHuff n (b.drop (17 + m)) { d with
        huff := NMap.set d.huff (beAt b 0 1) (huffCodes 1 0 counts ((List.range m).map (fun i => beAt b (17 + i) 1))) }
/-- The frame of an SOF0 segment. -/
def takeSof (seg : List Byte) (d : JpegDec) : JpegDec :=
  let comps := (List.range (beAt seg 7 1)).map (fun i =>
    { id := beAt seg (8 + 3 * i) 1, h := beAt seg (9 + 3 * i) 1 / 16, v := beAt seg (9 + 3 * i) 1 % 16, tq := beAt seg (10 + 3 * i) 1 : JpegComp })
  { d with height := beAt seg 3 2, width := beAt seg 5 2, comps := comps }

/-- Entropy-coded bytes as bits, less the stuffed zeros; none where a marker stands among them. -/
def entropyBits : List Byte → Option (List Bool)
  | [] => some []
  | a :: l =>
    let bs := (List.range 8).map (fun i => bit a.toNat (7 - i))
    if a == 0xFF then
      match l with
      | z :: l => if z == 0 then (entropyBits l).map (bs ++ ·) else none
      | [] => none
    else (entropyBits l).map (bs ++ ·)

/-- Reads a symbol: bits are taken until they are a code of the table; none where none is, or the data end. -/
def huffSym (t : Huff) : Nat → Nat → Nat → List Bool → Option (Nat × List Bool)
  | 0, _, _, _ => none
  | _ + 1, _, _, [] => none
  | n + 1, len, code, b :: l =>
    let c := 2 * code + b2n b
    match t.find? (fun e => e.1 == len + 1 && e.2.1 == c) with
    | some e => some (e.2.2, l)
    | none => huffSym t n (len + 1) c l

/-- Reads a value of a number of bits and extends its sign. -/
def receive (n : Nat) (l : List Bool) : Option (Int × List Bool) :=
  if l.length < n then none
  else
    let v := (l.take n).foldl (fun a b => 2 * a + b2n b) 0
    some (if n != 0 && decide (v < 2 ^ (n - 1)) then (v : Int) - 2 ^ n + 1 else v, l.drop n)

/-- The coefficients of a block from position `k` on. -/
def acCoeffs (t : Huff) : Nat → Nat → List Int → List Bool → Option (List Int × List Bool)
  | 0, _, acc, l => some (acc, l)
  | n + 1, k, acc, l =>
    if 64 ≤ k then some (acc, l)
    else
      match huffSym t 16 0 0 l with
      | none => none
      | some (rs, l) =>
        let r := rs / 16
        let sz := rs % 16
        if sz == 0 then
          if r == 15 then (if k + 16 ≤ 63 then acCoeffs t n (k + 16) acc l else none)
          else if r == 0 then some (acc, l) else none
        else if 63 < k + r || decide (10 < sz) then none
        else match receive sz l with
          | none => none
          | some (v, l) => acCoeffs t n (k + r + 1) (setAt acc (k + r) v) l

/-- A block of a component: its coefficients with its DC value summed on the last one's. -/
def jpegBlock (dc ac : Huff) (pred : Int) (l : List Bool) : Option (List Int × List Bool) :=
  match huffSym dc 16 0 0 l with
  | none => none
  | some (n, l) =>
    if 11 < n then none
    else match receive n l with
      | none => none
      | some (v, l) => acCoeffs ac 64 1 ((pred + v) :: List.replicate 63 0) l

/-- Blocks across and down a component that is coded on its own. -/
def compBlocks (d : JpegDec) (c : JpegComp) : Nat × Nat :=
  let hm := (d.comps.map (·.h)).foldl max 1
  let vm := (d.comps.map (·.v)).foldl max 1
  (((d.width * c.h + hm - 1) / hm + 7) / 8, ((d.height * c.v + vm - 1) / vm + 7) / 8)

/-- The blocks of a scan in order: component, column, row. -/
def scanUnits (d : JpegDec) (cs : List (Nat × JpegComp)) : List (Nat × Nat × Nat) :=
  match cs with
  | [c] =>
    let n := compBlocks d c.2
    (List.range n.2).flatMap (fun y => (List.range n.1).map (fun x => (c.1, x, y)))
  | _ =>
    let hm := (d.comps.map (·.h)).foldl max 1
    let vm := (d.comps.map (·.v)).foldl max 1
    (List.range ((d.height + 8 * vm - 1) / (8 * vm))).flatMap (fun my => (List.range ((d.width + 8 * hm - 1) / (8 * hm))).flatMap (fun mx =>
      cs.flatMap (fun c => (List.range c.2.v).flatMap (fun j => (List.range c.2.h).map (fun i => (c.1, mx * c.2.h + i, my * c.2.v + j))))))

/-- Decodes the blocks of a scan: the luma's are kept, dequantised. `tabs` gives a component's DC and AC tables. -/
def scanBlocks (tabs : Nat → Option (Huff × Huff)) (quant : List Nat) (across : Nat) :
    List (Nat × Nat × Nat) → List Bool → NMap Int → Array (Option (List Int)) → Option (Array (Option (List Int)))
  | [], _, _, out => some out
  | u :: us, l, preds, out =>
    match tabs u.1 with
    | none => none
    | some t => match jpegBlock t.1 t.2 (NMap.getD preds u.1 0) l with
      | none => none
      | some (cs, l) =>
        let out := if u.1 == 0 && decide (u.2.1 < across) then
            out.setIfInBounds (u.2.2 * across + u.2.1) (some (cs.zipWith (fun c q => c * (q : Nat)) quant)) else out
        scanBlocks tabs quant across us l (NMap.set preds u.1 (cs.getD 0 0)) out

/-- One scan: the header of its SOS segment and its data. -/
def takeScan (seg data : List Byte) (d : JpegDec) : Option JpegDec :=
  let n := beAt seg 2 1
  let sel := (List.range n).map (fun i => (beAt seg (3 + 2 * i) 1, beAt seg (4 + 2 * i) 1))
  let cs := sel.filterMap (fun e => (d.comps.findIdx? (fun c => c.id == e.1)).bind (fun i => (d.comps[i]?).map (fun c => (i, c))))
  let tabs (i : Nat) : Option (Huff × Huff) :=
    match (d.comps[i]?).bind (fun c => sel.find? (fun e => e.1 == c.id)) with
    | none => none
    | some e => match NMap.get? d.huff (e.2 / 16), NMap.get? d.huff (16 + e.2 % 16) with
      | some dc, some ac => some (dc, ac)
      | _, _ => none
  let y := d.comps.headD { id := 0, h := 1, v := 1, tq := 0 }
  let size := compBlocks d y
  let out := if d.luma.isEmpty then Array.replicate (size.1 * size.2) none else d.luma
  if cs.length != n || n == 0 || beAt seg (3 + 2 * n) 3 != 0x003F00 then none
  else match entropyBits data, NMap.get? d.quant y.tq with
    | some l, some q => (scanBlocks tabs q size.1 (scanUnits d cs) l [] out).map (fun a => { d with luma := a })
    | _, _ => none

/-- Decodes the segments of a stream from a position on; none where the data are invalid or end early. -/
def decodeSegments : Nat → List Byte → Nat → JpegDec → Option JpegDec
  | 0, _, _, _ => none
  | n + 1, b, pos, d =>
    let m := beAt b pos 2
    let c := m % 256
    let seg := b.drop (pos + 2)
    let len := beAt seg 0 2
    let body := (seg.take len).drop 2
    if b.length < pos + 2 then none
    else if m == 0xFFD9 then some d
    else if m / 256 != 0xFF then none
    else if c == 0xFF then decodeSegments n b (pos + 1) d
    else if c == 0xC0 then decodeSegments n b (pos + 2 + len) (takeSof seg d)
    else if c == 0xDB then decodeSegments n b (pos + 2 + len) (takeQuant 8 body d)
    else if c == 0xC4 then decodeSegments n b (pos + 2 + len) (takeHuff 8 body d)
    else if c == 0xDA then
      match nextMarker (b.drop (pos + 2 + len)) 0 with
      | none => none
      | some k => match takeScan seg ((b.drop (pos + 2 + len)).take k) d with
        | none => none
        | some d => decodeSegments n b (pos + 2 + len + k) d
    else decodeSegments n b (pos + 2 + len) d

/-- A stream decoded, with every block of its luma. -/
def jpegDecode (b : List Byte) : Option JpegDec :=
  (decodeSegments b.length b 2 {}).filter (fun d => !d.luma.isEmpty && d.luma.all (·.isSome))

/-- Place in a block, row times 8 plus column, of each zigzag position. -/
def zigzag : List Nat :=
  [0, 1, 8, 16, 9, 2, 3, 10, 17, 24, 32, 25, 18, 11, 4, 5, 12, 19, 26, 33, 40, 48, 41, 34, 27, 20, 13, 6, 7, 14, 21, 28] ++
  [35, 42, 49, 56, 57, 50, 43, 36, 29, 22, 15, 23, 30, 37, 44, 51, 58, 59, 52, 45, 38, 31, 39, 46, 53, 60, 61, 54, 47, 55, 62, 63]
/-- C_u · cos((2x + 1)uπ/16) / 2 of the inverse transform, at 8u + x. -/
def idctTable : Array Rat :=
  ((List.range 64).map (fun k => (if k / 8 = 0 then rootQ (1 / 2) else 1) * cosQ (((2 * (k % 8) + 1) * (k / 8) : Nat) * piQ / 16) / 2)).toArray

/-- The 64 samples of a block, in rows: the exact inverse transform, rounded, give or take one step that the spec leaves open. -/
def idctBlock (cs : List Int) : Array Byte :=
  let co := ((zigzag.zip cs).foldl (fun (a : Array Int) e => a.setIfInBounds e.1 e.2) (Array.replicate 64 0))
  let t (u x : Nat) : Rat := idctTable.getD (8 * u + x) 0
  let rows := ((List.range 64).map (fun k => sumQ ((List.range 8).map (fun u => (co.getD (8 * (k / 8) + u) 0 : Rat) * t u (k % 8))))).toArray
  ((List.range 64).map (fun k =>
    let e := sumQ ((List.range 8).map (fun v => rows.getD (8 * v + k % 8) 0 * t v (k / 8)))
    let step := openSteps 1 (Config.numericNat 51 (leBytes 1 k ++ cs.flatMap (leInt 2)))
    BitVec.ofNat 8 (clampInt 0 255 (roundAway e + 128 + step)).toNat)).toArray

/-- The luma of a JPEG stream (R116), in row order. -/
def jpegLuma (w h : Nat) (b : List Byte) : List Byte :=
  match jpegDecode b with
  | none => List.replicate (w * h) 0
  | some d =>
    let across := (compBlocks d (d.comps.headD { id := 0, h := 1, v := 1, tq := 0 })).1
    let blocks := d.luma.map (fun c => idctBlock (c.getD []))
    (List.range (w * h)).map (fun i =>
      let x := i % w
      let y := i / w
      (blocks.getD (y / 8 * across + x / 8) #[]).getD (y % 8 * 8 + x % 8) 0)
/-- The stream ends early or holds invalid entropy-coded data (R117). -/
def jpegCorrupt (b : List Byte) : Bool := (jpegDecode b).isNone

/-! ### Payloads (R51) -/

/-- A payload cut into its parts. -/
structure Payload where
  /-- Frames, each raw pixels or a JPEG stream. -/
  frames : List (List Byte) := []
  jpeg : Bool := false
  depth : List Byte := []
  recs : List (List Byte) := []
  deriving DecidableEq, Repr

/-- Cuts n frames of a size off a payload: raw, or as JPEG streams of that size that the device accepts. -/
def cutFrames (jpeg : Bool) (w h : Nat) : Nat → List Byte → Option (List (List Byte) × List Byte)
  | 0, b => some ([], b)
  | n + 1, b =>
    let len := if jpeg then (match jpegHead b with
        | some j => if j.width == w && j.height == h && j.ok && !j.bad then some j.len else none
        | none => none)
      else if w * h ≤ b.length then some (w * h) else none
    match len with
    | none => none
    | some k => (cutFrames jpeg w h n (b.drop k)).map (fun r => (b.take k :: r.1, r.2))

/-- Frames of a stream kind, and the greatest size of each (R51). -/
def kindFrames (kind : Nat) : Nat := if kind == 2 then 2 else if kind == 4 || kind == 5 then 0 else 1
def kindLimit (kind : Nat) : Nat × Nat := if kind == 2 then (1920, 1200) else if kind == 3 then (1280, 960) else (3840, 2160)

/-- Records of 32 bytes in a count of 1 to 1,024, in ascending client time (R51, R53). -/
def recordsOk (l : List (List Byte)) : Bool :=
  decide (1 ≤ l.length) && decide (l.length ≤ 1024) && (l.zip (l.drop 1)).all (fun p => decide (fieldAt p.1 0 8 ≤ fieldAt p.2 0 8))

/-- What follows the frames: a depth image, records, or nothing. -/
def restOk (kind w h : Nat) (b : List Byte) : Option (List Byte × List (List Byte)) :=
  if kind == 3 then (if b.length == 2 * w * h then some (b, []) else none)
  else if kind == 4 || kind == 5 || kind == 6 then
    let l := records 32 b
    if b.length % 32 == 0 && recordsOk l then some ([], l) else none
  else if b.isEmpty then some ([], []) else none

/-- A payload whose length fits its raw form is raw; any other begins with a JPEG stream. -/
def parsePayload (kind w h : Nat) (b : List Byte) : Option Payload :=
  let try_ (jpeg : Bool) : Option Payload := match cutFrames jpeg w h (kindFrames kind) b with
    | none => none
    | some (fs, rest) => (restOk kind w h rest).map (fun r => { frames := fs, jpeg := jpeg && kindFrames kind != 0, depth := r.1, recs := r.2 })
  match try_ false with
  | some p => some p
  | none => if kindFrames kind == 0 then none else try_ true

/-! ### Sensor slots (R117) -/

/-- Types of cameras. -/
def cameraType (t : Nat) : Bool := t == 1 || t == 2 || t == 3

/-- The slots that a kind needs are as it needs them. -/
def slotsOk (kind slot : Nat) (sensors : List Sensor) : Bool :=
  let a := sensors.getD slot {}
  let b := sensors.getD (slot + 1) {}
  if kindFrames kind == 0 then true
  else
    cameraType a.type && decide (a.width ≤ (kindLimit kind).1) && decide (a.height ≤ (kindLimit kind).2) &&
    (kind != 2 || (slot != 3 && b.type == a.type && b.width == a.width && b.height == a.height)) &&
    (kind != 3 || (slot != 3 && b.type == 4))

/-- The payload of an item as its checks pass it. -/
def checkedPayload (kind slot : Nat) (sensors : List Sensor) (b : List Byte) : Option Payload :=
  let a := sensors.getD slot {}
  if slotsOk kind slot sensors then parsePayload kind a.width a.height b else none

end Sys2Proof.Machine
end

