-- ==== Sys2Proof/Machine/MapWork.lean ====
section
/-! DEFINITION. The map channels' work (R307, R311 to R326): map requests of relocalisations, insertion batches, closures, the start
and the commit of map jobs. -/
namespace Sys2Proof.Machine

/-- A field of the map parameters in force, or of their defaults (R310). -/
def mapPar (s : State) (off n : Nat) : Nat := fieldAt ((mapParams s).getD defaultMapParams) off n

/-! ### Map requests (R311, R319) -/

/-- Keypoints of an imaging header with its keypoint list and descriptors of ROLE 1 (R147, R127, R189). -/
def queryCount (q : List Byte) : Nat := min 8192 (fieldAt q 8 4)
/-- Query keypoints that take part: index and descriptor. -/
def queryDescs (q : List Byte) : List (Nat × List Byte) :=
  let n := queryCount q
  ((List.range n).filter (fun i => fieldAt q (64 + 272 * n + i) 1 != 0)).map (fun i => (i, bytesAt q (64 + 16 * n + 256 * i) 256))
/-- The pixel of a query keypoint, as two FP32 values. -/
def queryPixel (q : List Byte) (i : Nat) : List F32 :=
  [f32Of ((intAt q (64 + 16 * i) 4 : Rat) / 32), f32Of ((intAt q (68 + 16 * i) 4 : Rat) / 32)]

/-- The matches of a query with a keyframe: query index, landmark (R315). -/
def matchKf (ratio : Nat) (qs : List (Nat × List Byte)) (k : Kf) : List (Nat × Nat) :=
  (descMatch ratio qs (references k)).map (fun p => (p.1, kpLandmark (k.kps.getD p.2 [])))

/-- The verification of matches (R316): SEED is the candidate's KF_ID, or 1 for 0. -/
def verifyMatches (d : MapData) (cam : List F32) (pixel : Nat → List F32) (ms : List (Nat × Nat)) (cand minInliers : Nat) : Verdict :=
  verifyPnp cam (ms.map (fun m => f32Bytes (pixel m.1) ++ (match NMap.get? d.lms m.2 with
    | some l => f64Bytes l.pos
    | none => List.replicate 24 0))) (if cand == 0 then 1 else cand) minInliers

/-- A factor record's header (R225). -/
def factorHead (kind nvar dim len flags varKind id : Nat) (tS : Nat) : List Byte :=
  leBytes 1 kind ++ leBytes 1 0 ++ leBytes 1 nvar ++ leBytes 1 dim ++ leBytes 2 len ++ leBytes 1 flags ++ leBytes 1 varKind ++
  leBytes 4 id ++ leBytes 4 0 ++ leBytes 8 0 ++ leBytes 8 tS

/-- The working camera and the camera-to-body pose of a slot's items in a graph (R119, R253). -/
def cameraOf (g : Slot) (calib : List Sensor) (slot : Nat) : List F32 × Pose :=
  let a := calib.getD slot {}
  let b := calib.getD (slot + 1) {}
  let p := ((stepOf g.graph 2).map (·.param)).getD []
  (workCam p g.graph.kind a b, workPose g.graph.kind a b)
/-- Those of an instance's item, with its slot. -/
def itemCamera (s : State) (ch : Nat) (x : Inst) : List F32 × Pose × Nat :=
  let slot := match x.origin with
    | .item b i => ((itemAt s b i).map (·.slot)).getD 0
    | _ => 0
  match instSlot s ch x with
  | some g => ((cameraOf g x.calib slot).1, (cameraOf g x.calib slot).2, slot)
  | none => ((x.calib.getD slot {}).cam, (x.calib.getD slot {}).pose, slot)

/-- The outcome of a relocalisation that succeeded (R319): SET_VALUE on the motion state at the frame's instant with the body pose that the
verified camera pose gives, and REPROJECTION records of at most 512 inliers with their map points. -/
def relocRecords (d : MapData) (q : List Byte) (c : List F32 × Pose × Nat) (tS : Nat) (ms : List (Nat × Nat)) (v : Verdict) : List Byte :=
  let one : F32 := 0x3F800000
  let body := (poseAt32 v.pose 0).mul c.2.1.inv
  let setv := factorHead 0x0F 1 6 80 2 1 0 tS ++ leBytes 1 6 ++ List.replicate 7 0 ++ body.bytes32
  let pairs := (v.inliers.filterMap (fun i => ms[i]?)).take 512
  let recs := pairs.zipIdx.flatMap (fun p =>
    let pos := match NMap.get? d.lms p.1.2 with
      | some l => l.pos
      | none => [0, 0, 0]
    padTo 96 (factorHead 0x01 1 2 96 2 1 (0x80000000 + p.2) tS ++ leBytes 1 0 ++ leBytes 3 c.2.2 ++ f32Bytes (queryPixel q p.1.1) ++
      f32Bytes [one, 0, one] ++ f32Bytes c.1 ++ f64Bytes pos))
  padTo 80 setv ++ recs

/-- Ends a relocalisation with its outcome: the records, or nothing; it is discarded where the instance has ended. -/
def State.relocEnds (s : State) (r : MapReq) (out : List Byte) : State :=
  match instAt s r.ch r.inst with
  | some _ => s.modInst r.ch r.inst (fun x => { x with relocOut := some out })
  | none => s.relocFree r.sid

/-- The request goes on to its next part, in the place of the one just taken. -/
def State.nextPart (s : State) (mc : Nat) (r : MapReq) : State := s.modChan mc (fun c => { c with requests := c.requests ++ [r] })

/-- What a relocalisation's request does when it is taken (R311, R313 to R317, R319). -/
def State.takeReloc (s : State) (mc : Nat) (r : MapReq) : State :=
  match instAt s r.ch r.inst with
  | none => s.relocFree r.sid
  | some x =>
    let d := mapAt s x.mapVersion
    match r.kind with
    | .placeSearch =>
      let cs := (placeCands (mapPar s 0 2) (mapPar s 2 1) r.place (searchSet d r.prior) []).take (mapPar s 3 1)
      if cs.isEmpty then s.relocEnds r [] else s.nextPart mc { r with kind := .descriptorMatch, cands := cs }
    | .descriptorMatch =>
      (match r.cands.head?.bind (fun c => NMap.get? d.kfs c) with
       | none => s.relocEnds r []
       | some k => s.nextPart mc { r with kind := .verification, matched := matchKf (mapPar s 6 1) (queryDescs r.query) k })
    | .verification =>
      let c := r.cands.headD 0
      let cam := itemCamera s r.ch x
      let v := verifyMatches d cam.1 (queryPixel r.query) r.matched c (mapPar s 4 2)
      if v.ok r.matched.length (mapPar s 4 2) then
        let t := match x.origin with
          | .item b i => ((itemAt s b i).map (·.clientTime)).getD 0
          | _ => 0
        s.relocEnds r (relocRecords d r.query cam t r.matched v)
      else if r.cands.length ≤ 1 then s.relocEnds r []
      else s.nextPart mc { r with kind := .descriptorMatch, cands := r.cands.drop 1 }

/-! ### Insertion (R320, R321) -/

/-- The live keyframe nearest a position, the lower KF_ID on a tie. -/
def nearestKf (kfs : NMap Kf) (p : List F64) : Option (Nat × Kf) :=
  kfs.foldl (fun b e => match b with
    | none => some e
    | some f => if dist2 e.2.pos p < dist2 f.2.pos p then some e else some f) none

/-- R321 step 1: the correction of the keyframe nearest the parcel's camera, where a commit after the pinned version moved it. -/
def correctParcel (s : State) (p : Parcel) : Kf :=
  match nearestKf (liveKfs s.core.map.data) p.kf.pos with
  | none => p.kf
  | some (id, _) =>
    match (s.core.map.corrections.filter (fun c => c.kf == id && versionBefore p.version c.version)).getLast? with
    | none => p.kf
    | some c =>
      let t := (poseAt64 (f64Bytes c.delta) 0).mul (poseOf p.kf.pos p.kf.quat)
      { p.kf with pos := t.t.f64s, quat := t.r.f32s }

/-- The one or two keyframes nearest the camera that lie at least 2° of parallax away (R321 step 3); of which point the parallax is taken the
spec does not say, so whether a keyframe lies so is open. -/
def parallaxKfs (d : MapData) (k : Kf) : List (Nat × Kf) :=
  let far := (liveKfs d).filter (fun p => Config.numericNat 16 (f64Bytes k.pos ++ f64Bytes p.2.pos) != 0)
  match nearestKf far k.pos with
  | none => []
  | some a => match nearestKf (far.filter (fun p => p.1 != a.1)) k.pos with
    | none => [a]
    | some b => [a, b]

/-- How far a point's reprojection falls from a keypoint of a keyframe, px², with its depth; none where it does not lie before the camera. -/
def reproject2 (k : Kf) (kp : List Byte) (p : V3) : Option (Rat × Rat) :=
  let q := (poseOf k.pos k.quat).inv.app p
  ((pinhole k.cam).project q).map (fun e => ((e.1 - (intAt kp 0 4 : Rat) / 32) ^ 2 + (e.2 - (intAt kp 4 4 : Rat) / 32) ^ 2, q.z))

/-- A triangulated match, by a method that is firmware's own: its position and deviations where both reprojections fall within 2 px and the depth
before the new keyframe is 0.2 m to 100 m. -/
def triangulate (k ref : Kf) (kp rkp : List Byte) : Option (List F64 × List F32) :=
  let b := padTo 36 (Config.numeric 19 (f64Bytes k.pos ++ f32Bytes k.quat ++ f32Bytes k.cam ++ bytesAt kp 0 8 ++ f64Bytes ref.pos ++
    f32Bytes ref.quat ++ f32Bytes ref.cam ++ bytesAt rkp 0 8))
  match reproject2 k kp (v3At64 b 0), reproject2 ref rkp (v3At64 b 0) with
  | some e, some f =>
    if decide (e.1 ≤ 4) && decide (f.1 ≤ 4) && decide (1 / 5 ≤ e.2) && decide (e.2 ≤ 100) && (f64sAt b 0 3).all f64IsFinite then
      some (f64sAt b 0 3, f32sAt b 24 3) else none
  | _, _ => none

/-- Adds landmarks for the matches of a keyframe's free keypoints with one reference keyframe; those outside the square are counted (R292). IDs stay
below 4,294,967,294, so that a map never holds more (R294). -/
def addLandmarks (ratio id : Nat) (ref : Kf) (d : MapData) (k : Kf) (out : Nat) : MapData × Kf × Nat :=
  let qs := (k.kps.zipIdx.filter (fun e => kpReliability e.1 != 0 && kpLandmark e.1 == 0xFFFFFFFF)).map (fun e => (e.2, kpDescriptor e.1))
  (descMatch ratio qs (references ref)).foldl (fun (d, k, out) m =>
    let kp := k.kps.getD m.1 []
    match triangulate k ref kp (ref.kps.getD m.2 []) with
    | some (p, sg) =>
      if (tileOf p).isNone then (d, k, out + 1)
      else if decide (d.nextLm < 4294967294) then
        ({ d with lms := NMap.set d.lms d.nextLm { anchor := id, pos := p, sigma := sg, obs := 0 }, nextLm := d.nextLm + 1 },
         { k with kps := setAt k.kps m.1 (overlay kp 276 (leBytes 4 d.nextLm)) }, out)
      else (d, k, out)
    | none => (d, k, out)) (d, k, out)

/-- What an insertion batch has done so far: contents, inserted keyframes, keyframes and landmarks outside, keyframes refused. -/
structure Inserting where
  data : MapData
  ids : List Nat := []
  outside : Nat := 0
  full : Nat := 0
  last : NMap Nat
  deriving DecidableEq, Repr

/-- One parcel (R292, R294, R295, R321). -/
def insertParcel (s : State) (b : Inserting) (p : Parcel) : Inserting :=
  let k := correctParcel s p
  let d := b.data
  match tileOf k.pos with
  | none => { b with outside := b.outside + 1 }
  | some _ =>
    let id := d.nextKf
    let key := 16384 * p.dev + p.sid
    let prev := NMap.getD b.last key 0xFFFFFFFF
    let k := match NMap.get? d.kfs prev with
      | some q =>
        let r := (poseOf q.pos q.quat).inv.mul (poseOf k.pos k.quat)
        { k with prev := prev, relT := r.t.f32s, relQ := r.r.f32s }
      | none => { k with prev := 0xFFFFFFFF, relT := [0, 0, 0], relQ := [0x3F800000, 0, 0, 0] }
    let (e, k, out) := (parallaxKfs d k).foldl (fun (e, k, o) r => addLandmarks (mapPar s 6 1) id r.2 e k o) (d, k, 0)
    let e := { e with
      kfs := NMap.set e.kfs id k
      nextKf := id + 1
      lms := e.lms.map (fun l => if (kfLandmarks k).contains l.1 then (l.1, { l.2 with obs := min 65535 (l.2.obs + 1) }) else l) }
    if mapRoom s < mapSize e || decide (1048576 ≤ d.kfs.length) || decide (4294967295 ≤ id) then { b with full := b.full + 1 }
    else { b with data := e, ids := b.ids ++ [id], last := NMap.set b.last key id, outside := b.outside + out }

/-- Landmarks that a batch added or whose count it changed. -/
def touchedLms (d e : MapData) : List Nat := (e.lms.filter (fun p => NMap.get? d.lms p.1 != some p.2)).map (·.1)

/-- The batch of the parcels that wait. -/
def insertBatch (s : State) : Inserting :=
  s.core.map.parcels.foldl (insertParcel s) { data := s.core.map.data, last := s.core.map.lastOf }
/-- The tiles that hold a keyframe or a landmark that a batch makes or changes. -/
def batchTiles (d : MapData) (b : Inserting) : List Nat :=
  (b.ids.filterMap (fun i => (NMap.get? b.data.kfs i).bind (fun k => tileOf k.pos)) ++
    (touchedLms d b.data).filterMap (fun l => (NMap.get? b.data.lms l).bind (fun x => tileOf x.pos))).eraseDups

/-- A batch is due: INSERT_COMMIT_MS since the last, or 64 parcels waiting; no running job holds a tile of it. -/
def insertDue (s : State) : Bool :=
  let m := s.core.map
  running s && isKeeper s && m.inService && !mapOwed s && (mapParams s).isSome && !m.parcels.isEmpty &&
  (decide (64 ≤ m.parcels.length) || decide (m.lastInsert + 1000000 * mapPar s 0xE 2 ≤ dtOf s)) &&
  s.core.link.locks.all (fun l => disjoint l.tiles (batchTiles m.data (insertBatch s)))

def execInsertionBatch (ownerFaults : Bool) (s : State) : Host.Outcome State Fault Refusal :=
  .next (
    if insertDue s then
      let m := s.core.map
      let b := insertBatch s
      let pages := (b.ids.map posePage ++ (touchedLms m.data b.data).map lmPage ++
        b.ids.flatMap (fun i => match NMap.get? b.data.kfs i with
          | some k => payloadPages i k
          | none => [])).eraseDups
      if !b.ids.isEmpty && decide (shadowPages s < shadowUsed s + mutablePages pages) then
        if m.insertWaits then s else (s.modMap (fun m => { m with insertWaits := true })).bump (mapCtr 4) 1
      else
        let s := s.modMap (fun m => { m with parcels := [], insertWaits := false, lastInsert := dtOf s })
        let s := (s.bump (mapCtr 1) b.outside).bump (mapCtr 2) b.full
        if b.ids.isEmpty then s
        else if ownerFaults then s.loseCommit
        else
          let s := s.swapRoot b.data pages (2 ^ 6 ||| wordKind 3) 0
          let tiles := b.ids.filterMap (fun i => (NMap.get? b.data.kfs i).bind (fun k => tileOf k.pos))
          let s := s.modMap (fun m => { m with
            lastOf := b.last
            search := m.search ++ b.ids
            inserts := tiles.foldl (fun n t => NMap.bump n t 1) m.inserts })
          s.bump (mapCtr 0) b.ids.length
    else s)

/-! ### Loop closure (R322 to R324) -/

/-- The keypoints of a keyframe that take part as queries, and the pixel of one. -/
def kfQueries (k : Kf) : List (Nat × List Byte) :=
  (k.kps.zipIdx.filter (fun e => kpReliability e.1 != 0)).map (fun e => (e.2, kpDescriptor e.1))
def kfPixel (k : Kf) (i : Nat) : List F32 :=
  let e := k.kps.getD i []
  [f32Of ((intAt e 0 4 : Rat) / 32), f32Of ((intAt e 4 4 : Rat) / 32)]

/-- A verified pose differs from a keyframe's by CLOSE_MIN_POS in position or by CLOSE_MIN_YAW in rotation about up (R322). -/
def closes (s : State) (k : Kf) (v : Verdict) : Bool :=
  let p := f64sAt v.pose 0 3
  let yaw := absQ ((poseAt32 v.pose 0).r.mul (quat32 k.quat).conj).yaw
  decide ((mapPar s 0x10 2 : Rat) / 10000 * ((mapPar s 0x10 2 : Rat) / 10000) ≤ dist2 p k.pos) ||
  decide ((mapPar s 0x12 2 : Rat) / 100 * piQ / 180 ≤ yaw)

/-- The job of a closure (R323): the keyframes in the order of the search, as many as its variables and factors allow (R213). -/
def closureJob (s : State) (ch kf cand : Nat) (v : Verdict) : MapJob :=
  let d := s.core.map.data
  let all := spread (covisible d (mapPar s 0x17 1)) 65535 65535 [kf, cand] [kf, cand]
  let n := ((List.range (all.length + 1)).reverse.find? (fun n => decide (closureFactors d (mapPar s 0x17 1) (all.take n) ≤ 1048576))).getD 0
  let kfs := all.take n
  { kind := 2, chan := ch, deadline := dtOf s + 1000000 * mapPar s 0x14 2, cap := 0, tiles := jobTiles d kfs [], kfs := kfs,
    loop := some (kf, cand, v.pose ++ v.cov) }

/-- What a verified candidate of a keyframe gives (R322, R309): nothing where the map agrees already, else a closure, whose job is formed, or dropped
where its channel's 56 entries are in use. -/
def State.judgeClosure (s : State) (mc kf cand : Nat) (k : Kf) (v : Verdict) : State :=
  if closes s k v then
    let s := s.bump (mapCtr 10) 1
    match mapGraphSlot s with
    | some g => if decide (56 ≤ jobsOn s mc 2) then s.bump (mapCtr 15) 1 else (s.formJob g (closureJob s mc kf cand v)).1
    | none => s
  else s

/-- What a closure's request does when it is taken (R311, R313, R315 to R317, R322): the search of the whole index, then the candidates in turn. -/
def State.takeClosure (s : State) (mc : Nat) (r : MapReq) (kf : Nat) : State :=
  let d := s.core.map.data
  match NMap.get? d.kfs kf with
  | none => s
  | some k =>
    match r.kind with
    | .placeSearch =>
      let excl := spread (covisible d (mapPar s 0x17 1)) 1048576 (mapPar s 7 1) [kf] [kf]
      let cs := (placeCands (mapPar s 0 2) (mapPar s 2 1) r.place (liveKfs d) excl).take (mapPar s 3 1)
      if cs.isEmpty then s else s.nextPart mc { r with kind := .descriptorMatch, cands := cs }
    | .descriptorMatch =>
      (match r.cands.head?.bind (fun c => NMap.get? d.kfs c) with
       | none => s
       | some q => s.nextPart mc { r with kind := .verification, matched := matchKf (mapPar s 6 1) (kfQueries k) q })
    | .verification =>
      let c := r.cands.headD 0
      let v := verifyMatches d k.cam (kfPixel k) r.matched c (mapPar s 4 2)
      if v.ok r.matched.length (mapPar s 4 2) then s.judgeClosure mc kf c k v
      else if r.cands.length ≤ 1 then s
      else s.nextPart mc { r with kind := .descriptorMatch, cands := r.cands.drop 1 }

/-- Firmware issues the place search of an inserted keyframe (R322). -/
def execLoopClosureSearch (kf : Nat) (s : State) : Host.Outcome State Fault Refusal :=
  .next (
    let m := s.core.map
    match (mapChans s).head?, mapGraphSlot s, NMap.get? m.data.kfs kf with
    | some mc, some _, some k =>
      if running s && isKeeper s && m.inService && m.search.contains kf then
        (s.modMap (fun m => { m with search := m.search.filter (· != kf) })).nextPart mc
          { kind := .placeSearch, sid := 0, ch := 0, inst := 0, place := k.place, query := [], prior := none, closure := some kf }
      else s
    | _, _, _ => s)

/-- The request of a kind that a map channel takes next: in order of issue, relocalisations before closures (R311). -/
def nextRequest (c : Chan) (kind : MapReqKind) : Option MapReq :=
  let l := c.requests.filter (fun r => r.kind == kind)
  match l.find? (fun r => r.closure.isNone) with
  | some r => some r
  | none => l.head?

/-- A map channel's engine takes the next request of a kind: the arrays after every split-precision request that is tagged, the
vision engine at the end of its step (R311). -/
def execMapRequest (ch : Nat) (kind : MapReqKind) (s : State) : Host.Outcome State Fault Refusal :=
  .next (
    let c := chanAt s ch
    let arrays := kind != .verification
    let free := if arrays then c.split.isNone && c.splitWaits.isEmpty else (c.engines.getD 0 {}).run.isNone
    match nextRequest c kind with
    | some r =>
      if running s && c.inService && c.mapRole && s.core.map.inService && free then
        let s := s.modChan ch (fun c => { c with requests := c.requests.erase r })
        let s := if arrays then s.yieldArrays ch else s
        match r.closure with
        | some kf => s.takeClosure ch r kf
        | none => s.takeReloc ch r
      else s
    | none => s)

/-- The loop factor's SWITCH lies below SWITCH_MIN/255 (R324). -/
def switchLow (s : State) (x : MapJob) : Bool := decide (f64Val x.switch < (mapPar s 0x16 1 : Rat) / 255)

/-- R324: a solved closure is rejected by its switch, or committed. -/
def execLoopClosureCommit (job : Nat) (s : State) : Host.Outcome State Fault Refusal :=
  .next (match jobOf s job with
    | some x =>
      if running s && x.kind == 2 && x.phase == 2 then
        if switchLow s x then (s.bump (mapCtr 12) 1).endJob job (fun x => x.mark 7) else s.commitJob job false
      else s
    | none => s)

/-! ### Starts and commits of jobs (R302, R306, R307, R489, R490) -/

/-- A waiting job starts once it holds its lock: on the keeper the lock is granted here when it is among those that can be; else the
wait is counted once. A closure whose deadline has passed ends (R490). -/
def execMapJobStart (job : Nat) (s : State) : Host.Outcome State Fault Refusal :=
  .next (match jobOf s job with
    | some x =>
      if running s && s.core.map.inService && x.phase == 0 then
        let start (s : State) : State := s.modJob job (fun x => { x with phase := 1, waited := false })
        if hasLock s job then start s
        else if x.kind == 2 && decide (x.deadline < dtOf s) then s.endJob job (fun x => x.mark 4)
        else
          match (if isKeeper s then (grantsNow s).find? (ownLock s job) else none) with
          | some r => if s.core.link.joining.isNone && !mapOwed s then start (s.grant r) else s
          | none => if x.waited then s else (s.modJob job (fun x => { x with waited := true })).bump (mapCtr 6) 1
      else s
    | none => s)

/-- A solved job commits (R302, R306); a closure only when its switch passes (R324). -/
def execMapCommit (job : Nat) (ownerFaults : Bool) (s : State) : Host.Outcome State Fault Refusal :=
  .next (match jobOf s job with
    | some x => if running s && x.phase == 2 && !(x.kind == 2 && switchLow s x) then s.commitJob job ownerFaults else s
    | none => s)

end Sys2Proof.Machine
end

