-- ==== Sys2Proof/Machine/Turns.lean ====
section
/-! DEFINITION. Turns and scrubs (R465 to R469), with the scrubs of R457 and R463. -/
namespace Sys2Proof.Machine

/-- The step of an instance that no engine of the channel runs: what the SCU fills (R350). -/
def scuStep (x : Inst) (t : GStep) : Bool := match x.origin with
  | .symbol _ => t.engine == 1
  | _ => false

/-- An instance has started: a step of it runs or has run. -/
def started (s : State) (ch : Nat) (x : Inst) : Bool :=
  match instSlot s ch x with
  | none => true
  | some g => (g.graph.steps.zip x.steps).any (fun p => !scuStep x p.1 && (p.2 == .running || p.2 == .ended))

/-- Instances of a context on the ordinary channels: all, or those that run. -/
def turnInsts (s : State) (ctx : Nat) (run : Bool) : List (Nat × Nat) :=
  (ordinaryChans s).flatMap (fun c => ((chanAt s c).insts.filter (fun p => p.2.ctx == ctx && (!run || started s c p.2))).map (fun p => (c, p.1)))

/-- A context has an item or an instance waiting on the ordinary channels. -/
def waitsTurn (s : State) (ctx : Nat) : Bool :=
  (ordinaryChans s).any (fun c => (chanAt s c).queue.any (fun w => w.ctx == ctx)) || !(turnInsts s ctx false).isEmpty

/-- The contexts that have something waiting. -/
def waitingContexts (s : State) : List Nat := (s.core.sec.contexts.map (·.1)).filter (waitsTurn s)

/-- The next holder: the context after the present one in ascending number with wrap that has work (R465). -/
def nextHolder (s : State) : Nat :=
  let h := s.core.sec.holder
  let l := waitingContexts s
  match l.find? (fun c => decide (h < c)) with
  | some c => c
  | none => match l.find? (fun _ => true) with
    | some c => c
    | none => h

/-- R466: the turn closes, and the holder's items outside instances end with OVERLOAD. -/
def execTurnClose (s : State) : Host.Outcome State Fault Refusal :=
  .next (
    let c := s.core.sec
    let others := (waitingContexts s).any (· != c.holder)
    let quantum := decide (c.turnBegan + 20000000 ≤ dtOf s)
    let sweeping := (NMap.getD c.contexts c.holder {}).sweep.isSome
    if !running s || !s.core.sys.conf || s.core.sys.scrub || c.turnClosed.isSome || !others || sweeping || !(quantum || !waitsTurn s c.holder) then s
    else
      let s := s.modSec (fun c => { c with turnClosed := some (dtOf s) })
      let mine (w : Waiting) : Bool := w.ctx == c.holder && (match w.origin with | .item _ _ => true | _ => false)
      let n := (s.core.chans.flatMap (fun x => x.queue.filter mine)).length
      (s.bump (secCtr 3) n).dropQueued mine 0x24)

/-- R466: 2 ms after the close, what still runs ends at its next step boundary, as at a deadline. -/
def execTurnDrainLimit (s : State) : Host.Outcome State Fault Refusal :=
  .next (match s.core.sec.turnClosed with
    | some t =>
      if running s && !s.core.sys.scrub && decide (t + 2000000 < dtOf s) then
        (turnInsts s s.core.sec.holder true).foldl (fun s p => s.skipRest p.1 p.2 (some 0x20)) s
      else s
    | none => s)

/-! ### Scrubs -/

/-- A command of a context, accepted and not ended (R94). -/
def commandsOf (s : State) (ctx : Nat) : Bool :=
  (List.range 64).any (fun h => (reqOf s h).ctx == ctx && (match jobAt s h with
    | some j => !isModeJob j && (match j with | .contextDestroy _ => false | _ => true)
    | none => false))

/-- A dying context whose sessions and commands have ended (R457, steps 1 and 2). -/
def destroyReady (s : State) (ctx : Nat) : Bool :=
  let t := NMap.getD s.core.sec.contexts ctx {}
  t.dying && !t.scrubbed && !commandsOf s ctx && (s.core.work.sess.filter (fun e => e.2.owner == ctx)).all (fun e => closeReady s e.1)

/-- The scrub that may begin now, if any: for a context that ends, for a mode switch, for a turn. -/
def scrubDue (s : State) : Option ScrubFor :=
  match (tenants s).find? (destroyReady s) with
  | some c => some (.destroy c)
  | none =>
    let mode := !(hatchesWith s isModeJob).isEmpty && (hatchesWith s (fun j => !isModeJob j)).isEmpty && (tenants s).isEmpty &&
      s.core.sec.scrubFor != some .mode
    if mode then some .mode
    else if s.core.sec.turnClosed.isSome && (turnInsts s s.core.sec.holder true).isEmpty && !commandsOf s s.core.sec.holder then some .turn
    else none

/-- Commands owned and not yet taken as a scrub begins complete with NOT_READY (R94). -/
def State.refuseWaiting (s : State) : State :=
  (s.core.hat.queueM ++ s.core.hat.queueG).foldl (fun s h => (s.takeOff (reqOf s h)).place h 0x14) s

def execScrubBegin (s : State) : Host.Outcome State Fault Refusal :=
  .next (
    let s := s.modeProceed
    if !running s || s.core.sys.phase != .ready || s.core.sys.scrub then s
    else match scrubDue s with
      | none => s
      | some f =>
        let s : State := match f with
          | .destroy c => ((s.core.work.sess.filter (fun (e : Nat × Session) => e.2.owner == c)).map Prod.fst).foldl State.freeSession s
          | .turn => s
          | .mode => s
        let s := s.modSec (fun c => { c with scrubFor := some f, scrubBegan := dtOf s })
        State.refuseWaiting <| ((s.modSys (fun y => { y with scrub := true })).event 0x0005 [leBytes 1 0]).traceRec 0xF2 0 [])

/-- What a scrub clears of the engines on the channels it covers (R467); an engine that runs a step of another context keeps what
that step uses. -/
def State.clearEngines (s : State) (all : Bool) : State :=
  s.modChans (fun l => l.map (fun c =>
    if all || !c.mapRole then { c with split := none, splitWaits := [], exch := {}, engines := c.engines.map (fun e => if e.run.isSome then e else { e with lastCrate := none, ta := { serial := e.ta.serial } }) } else c))

/-- A turn ends: the next context holds the ordinary channels. -/
def State.nextTurn (s : State) : State :=
  let h := nextHolder s
  s.modSec (fun c => { c with holder := h, turnBegan := dtOf s, turnClosed := none, scrubFor := none })

def execScrubEnd (s : State) : Host.Outcome State Fault Refusal :=
  .next (
    if !running s || !s.core.sys.scrub then s
    else
      let f := s.core.sec.scrubFor
      let s := s.clearEngines (f != some .turn)
      let s := (((s.modSys (fun y => { y with scrub := false })).bump (secCtr 4) 1).event 0x0005 [leBytes 1 1]).traceRec 0xF2 1 []
      match f with
      | some (.destroy c) =>
        let s := s.modSec (fun x => { x with scrubFor := none, contexts := NMap.upd x.contexts c (fun t => { t with scrubbed := true }) })
        let s := if held s (.ctx c) then s else s.endContext c
        if s.core.sys.conf && s.core.sec.holder == c then s.nextTurn else s
      | some .turn => s.nextTurn
      | some .mode => s
      | none => s)

end Sys2Proof.Machine
end

