-- ==== Sys2Proof/Machine/Sequencer.lean ====
section
/-! DEFINITION. The frame-graph sequencer (R62 to R71, R159 to R172): creation of instances with admission and policy, dispatch, the
sequencer's own steps (DMA_IN, CTX_TAKE, CTX_PEEK, RESULT), relocalisation waits and insertion parcels (R318 to R320). -/
namespace Sys2Proof.Machine

/-! ### Facts of an instance -/

/-- The item of an instance. -/
def itemOf (s : State) (x : Inst) : Option (Nat × Nat × Item) := match x.origin with
  | .item b i => (itemAt s b i).map (fun it => (b, i, it))
  | _ => none

/-- The stream kind of a graph's items. -/
def slotKind (s : State) (ch slot : Nat) : Nat := ((graphAt s ch slot).map (·.graph.kind)).getD 0

/-- Changes a session's context, and the working copy that an instance of it holds. -/
def State.modCtx (s : State) (sid : Nat) (f : SessCtx → SessCtx) : State :=
  let s := s.modSess sid (fun x => { x with ctx := f x.ctx })
  s.modChans (fun l => l.map (fun c => { c with insts := c.insts.map (fun p =>
    if p.2.sid == some sid then (p.1, { p.2 with work := p.2.work.map f }) else p) }))

/-- The context an instance works on: its working copy, or the session's as it stands (R169). -/
def workCtx (s : State) (x : Inst) : SessCtx :=
  match x.work with
  | some w => w
  | none => match x.sid.bind (sessAt s) with
    | some y => y.ctx
    | none => {}

/-- The first instance of a channel whose context the turn admits may be dispatched (R465, R466). -/
def turnAdmits (s : State) (ch : Nat) (x : Inst) : Bool :=
  !s.core.sys.conf || (chanAt s ch).mapRole ||
    (x.ctx == s.core.sec.holder && !s.core.sys.scrub && (s.core.sec.turnClosed.isNone || started s ch x))


/-- Waiting work that may get an instance now: a session in a move waits (R48), other contexts wait for their turn (R465), a map job
for its start (R307). -/
def eligible (s : State) (ch : Nat) (w : Waiting) : Bool :=
  (match w.sid.bind (sessAt s) with
   | some x => x.moveTo.isNone
   | none => w.sid.isNone) &&
  (!s.core.sys.conf || (chanAt s ch).mapRole || (w.ctx == s.core.sec.holder && s.core.sec.turnClosed.isNone && !s.core.sys.scrub)) &&
  (match w.origin with
   | .mapJob j => (match jobOf s j with
     | some x => x.phase == 1
     | none => false)
   | _ => true)

/-- Test mode 2 runs one instance at a time, in the order in which the items entered the queues: an earlier item that may get an instance goes first
(R107). -/
def fixedSeedAdmits (s : State) (ch : Nat) (x : Inst) : Bool :=
  (chanAt s ch).testMode != 2 ||
    ((chanAt s ch).insts.all (fun p => decide (x.seq ≤ p.2.seq)) &&
     (chanAt s ch).queue.all (fun w => decide (x.seq ≤ w.seq) || !eligible s ch w || (freeInst s ch w.slot).isNone))

/-- A step of an instance may begin: the channel runs, the turn and the test mode admit it, the step is ready. -/
def mayStep (s : State) (ch : Nat) (x : Inst) (k : Nat) : Bool :=
  running s && (chanAt s ch).inService && turnAdmits s ch x && fixedSeedAdmits s ch x &&
  (match x.steps.getD k .skipped with
   | .ready _ => true
   | _ => false)

/-- The instance's step of a sequencer engine code, when it may begin: the slot, the step's index, the step. -/
def seqStep (s : State) (ch i code : Nat) : Option (Inst × Slot × Nat × GStep) :=
  match instAt s ch i with
  | none => none
  | some x => match instSlot s ch x with
    | none => none
    | some g => match (g.graph.steps.zipIdx).find? (fun p => p.1.engine == code && mayStep s ch x p.2) with
      | some p => some (x, g, p.2, p.1)
      | none => none

/-- The instance is past its deadline as a step is about to be dispatched: what remains is skipped (R165). -/
def late? (s : State) (x : Inst) : Bool := decide (x.deadline < dtOf s)

/-- Traces of a step's dispatch and end (R541). -/
def stepTrace (x : Inst) (i items : Nat) : List Byte := leBytes 1 x.slot ++ leBytes 1 i ++ leBytes 2 (min 65535 (items / 1000))
def State.traceStep (s : State) (type ch code i : Nat) (x : Inst) (items : Nat) : State :=
  s.traceRec type code (stepTrace x i items) ch

/-! ### Admission (R62 to R64, R149) -/

/-- Base-level pixels of an item (R149). The compressed length of a JPEG is its payload less the depth image or the inertial records behind it; how many
records those are the device reads before the item is fetched, in a way that the spec leaves open. -/
def visionCost (g : Graph) (kind : Nat) (a : Sensor) (item : List Byte) (len : Nat) : Nat :=
  let wh := a.width * a.height
  let ve := stepOf g 2
  let wide := match ve with
    | some t => fieldAt t.param 0x12 1 == 3 && fieldAt t.param 0x16 1 == 0
    | none => false
  let px := if kind == 2 then (if wide then 4 * wh else 2 * wh) else wh
  let raw := if kind == 2 then len == 2 * wh else if kind == 3 then len == 3 * wh else if kind == 6 then decide (wh < len) && (len - wh) % 32 == 0
    else len == wh
  let rest := if kind == 3 then 2 * wh else if kind == 6 then 32 * (1 + Config.numericNat 153 item % 1024) else 0
  if raw then px else max px (2 * (len - rest))

/-- The committed vision work of a channel: admitted items whose imaging steps have not all ended (R62). -/
def committed (s : State) (ch : Nat) : Nat :=
  (((chanAt s ch).insts.map (·.2)).map (fun x => match instSlot s ch x with
    | some g => if (g.graph.steps.zipIdx).all (fun p => p.1.engine != 2 || stepOver x p.2) then 0 else x.cost
    | none => 0)).foldl (· + ·) 0

/-- Threshold of a class in hundredths (R62). -/
def classThreshold (cls : Nat) : Nat := if cls == 0 then 100 else if cls == 1 then 85 else if cls == 2 then 70 else 50

/-- Whether a camera item of a session is admitted (R62, R63): 10 ms are 24 Mpixel. -/
def admits (s : State) (ch : Nat) (x : Session) (cost : Nat) : Bool :=
  let stale := match x.lastFrame with
    | some t => decide (t + 1000000000 < dtOf s)
    | none => true
  let cls := if stale then 0 else x.ctx.cfg.cls
  decide ((committed s ch + cost) * 800 ≤ 24000000 * classThreshold cls * admEighths s)

/-- An item that is not admitted is counted (R64). -/
def State.countThinned (s : State) (ch sid : Nat) : State :=
  (s.modCtx sid (fun c => { c with thinned := c.thinned + 1 })).bump (chanCtr ch 0) 1

/-! ### Creation (R159) -/

/-- Work leaves its queue. -/
def State.unqueue (s : State) (ch : Nat) (w : Waiting) : State := s.modChan ch (fun c => { c with queue := c.queue.erase w })

/-- A new instance, with the item marked as started; a graph whose image copy is lost ends it with POISONED (R409). -/
def State.startInst (s : State) (ch i : Nat) (w : Waiting) (cost : Nat) : State :=
  let s := (s.unqueue ch w).createInst ch i w
  let s := s.modInst ch i (fun x => { x with cost := cost })
  let s := match w.origin with
    | .item b n => s.modBatch b (fun y => { y with items := updAt y.items n (fun e => { e with started := true }) })
    | _ => s
  if ((graphAt s ch w.slot).map (·.copyLost)).getD false then s.endEarly ch i 0x22 else s

/-- A thinned MONO_INERTIAL item runs its DMA_IN alone, for its inertial records (R64). -/
def State.onlyRecords (s : State) (ch i : Nat) : State :=
  match (instAt s ch i).bind (instSlot s ch) with
  | none => s
  | some g =>
    (s.modInst ch i (fun x => { x with
      status := some 0x24
      steps := (g.graph.steps.zip x.steps).map (fun p => if p.1.engine == 1 || p.1.engine == 9 then p.2 else .skipped) })).refresh ch

def execInstanceCreate (ch slot : Nat) (s : State) : Host.Outcome State Fault Refusal :=
  .next (
    match (chanAt s ch).queue.find? (fun w => w.slot == slot && eligible s ch w), freeInst s ch slot, graphAt s ch slot with
    | some w, some i, some g =>
      if !running s || !(chanAt s ch).inService then s
      else match w.origin with
        | .item b n =>
          (match itemAt s b n, w.sid.bind (sessAt s) with
           | some it, some x =>
             let kind := g.graph.kind
             if !graphAdmits s g.graph w.ctx then (((s.unqueue ch w).bump (secCtr 2) 1).endItem b n 0x15)
             else if kind == 4 || kind == 5 then s.startInst ch i w 0
             else
               let cost := visionCost g.graph kind (x.ctx.sensors.getD it.slot {}) it.bytes it.len
               if admits s ch x cost then
                 ((s.modSess it.sid (fun y => { y with lastFrame := some (dtOf s) })).startInst ch i w cost).modInst ch i (fun z =>
                   { z with admitted := some (dtOf s, x.lastFrame) })
               else
                 let s := s.countThinned ch it.sid
                 if kind == 6 then (s.startInst ch i w 0).onlyRecords ch i else (s.unqueue ch w).endItem b n 0x24 0 false s.core.map.version.toNat
           | _, _ => s.unqueue ch w)
        | _ => s.startInst ch i w 0
    | _, _, _ => s)

/-! ### Dispatch (R163 to R166) -/

/-- A ready step with the key of R163. -/
structure Cand where
  inst : Nat
  step : Nat
  key : Nat × Nat × Nat × Nat × Nat
  deriving DecidableEq, Repr

/-- The order of R163: deadline, class, the instant of readiness, slot, instance. -/
def keyLess (a b : Nat × Nat × Nat × Nat × Nat) : Bool :=
  let l (t : Nat × Nat × Nat × Nat × Nat) : List Nat := [t.1, t.2.1, t.2.2.1, t.2.2.2.1, t.2.2.2.2]
  (((l a).zip (l b)).find? (fun p => p.1 != p.2)).elim false (fun p => decide (p.1 < p.2))

/-- The priority class of an instance's session, 0 without one (R163). -/
def classOf (s : State) (x : Inst) : Nat := ((x.sid.bind (sessAt s)).map (·.ctx.cfg.cls)).getD 0

/-- The ready steps of an engine. -/
def candidates (s : State) (ch e : Nat) : List Cand :=
  (chanAt s ch).insts.flatMap (fun p =>
    match instSlot s ch p.2 with
    | none => []
    | some g => (g.graph.steps.zipIdx).filterMap (fun t =>
        match p.2.steps.getD t.2 .skipped with
        | .ready since =>
          if engineOf t.1.engine == e && mayStep s ch p.2 t.2 then
            some { inst := p.1, step := t.2, key := (p.2.deadline, classOf s p.2, since, p.2.slot, p.1) }
          else none
        | _ => none))

/-- The first of the ready steps. -/
def bestCand (l : List Cand) : Option Cand :=
  l.foldl (fun b c => match b with
    | none => some c
    | some d => if keyLess c.key d.key then some c else some d) none

/-- A step reads a shared block that is being restored: its instance ends (R172). -/
def restoringFor (s : State) (ch : Nat) (x : Inst) (k : Nat) : Bool :=
  match instSlot s ch x with
  | some g => (match g.graph.steps[k]? with
    | some t => t.ins.any (fun r => r.shared && (rangeBlocks r).any (g.restoring.contains ·))
    | none => false)
  | none => false

/-- Gives an engine its next step; an instance found past its deadline is cut short first, and the next one is looked for. -/
def State.dispatch (ch e : Nat) : Nat → State → State
  | 0, s => s
  | n + 1, s =>
    match bestCand (candidates s ch e) with
    | none => s
    | some c =>
      match instAt s ch c.inst with
      | none => s
      | some x =>
        if late? s x then State.dispatch ch e n (s.skipRest ch c.inst (some 0x20))
        else if restoringFor s ch x c.step then State.dispatch ch e n (s.endEarly ch c.inst 0x22)
        else
          match (instSlot s ch x).bind (fun g => g.graph.steps[c.step]?) with
          | none => s
          | some t =>
            let items := (stepItems x t).1
            let s := (s.modInst ch c.inst (fun y => { y with steps := setAt y.steps c.step .running })).noteClamp ch c.inst x t
            let s := s.modEngine ch e (fun g => { g with run := some (c.inst, c.step), stall := none, worked := false, lastMove := dtOf s, ta := { g.ta with begun := false } })
            s.traceStep 0x10 ch t.engine c.inst x items

/-- A free engine takes its next step; the sequencer's own steps are rows of their own. -/
def execStepDispatch (ch engine : Nat) (shelf : ShelfFinding) (s : State) : Host.Outcome State Fault Refusal :=
  .next (
    let s' := s.refresh ch
    if running s && (chanAt s ch).inService && decide (engine < 5) && ((chanAt s ch).engines.getD engine {}).run.isNone then
      let s := State.dispatch ch engine ((chanAt s' ch).insts.length + 1) s'
      match ((chanAt s ch).engines.getD engine {}).run with
      | some (i, _) => (s.shelfRead ch i shelf).2
      | none => s
    else s)

/-- The step an engine runs ends, its work being done (R161, R167). -/
def execStepEnded (ch engine : Nat) (s : State) : Host.Outcome State Fault Refusal :=
  .next (
    match runningStep s ch engine with
    | some (i, x, _, k, t) =>
      if running s && ((chanAt s ch).engines.getD engine {}).worked then
        (s.traceStep 0x11 ch t.engine i x (stepItems x t).1).finishStep ch i k t
      else s
    | none => s)

/-! ### DMA_IN and the classification of samples (R65 to R71, R117, R459) -/

/-- A client time in DT, ns, by the clock model (R65); rounded to the ns. -/
def toDt (c : Clock) (tc : Nat) : Int :=
  (tc : Int) + c.o + roundAway (f32Val c.d * ((tc : Int) - (c.tRef.getD tc : Nat) : Int))

/-- One sample classified (R68): its instant when it is kept. -/
def State.classify (s : State) (sid : Nat) (tc : Nat) (body : List Byte) : State :=
  match sessAt s sid with
  | none => s
  | some x =>
    let ts := toDt x.ctx.clock tc
    let now := dtOf s
    let horizon : Int := 1000000 * x.ctx.cfg.horizonMs
    let keep (s : State) : State := s.modSess sid (fun y => { y with se := { y.se with samples := y.se.samples ++ [(ts, body)] } })
    let fresh := match x.tOut with
      | some t => decide ((t : Int) < ts)
      | none => true
    if fresh then keep s
    else if (now : Int) - ts ≤ horizon then
      keep ((s.modCtx sid (fun c => { c with late := c.late + 1 })).modSess sid (fun y => { y with latePending := y.latePending ++ [ts] }))
    else s.modCtx sid (fun c => { c with discarded := c.discarded + 1, lateDiscard := true })

/-- Whether a sample at a client time would be kept (R68). -/
def sampleKept (s : State) (x : Session) (tc : Nat) : Bool :=
  let ts := toDt x.ctx.clock tc
  (match x.tOut with
   | some t => decide ((t : Int) < ts)
   | none => true) || decide ((dtOf s : Int) - ts ≤ 1000000 * x.ctx.cfg.horizonMs)

/-- The clock at a session's first item (R66): o from the item's newest stamp, d zero, the reference at its earliest sample. -/
def State.firstClock (s : State) (sid arrival : Nat) (stamps samples : List Nat) : State :=
  match sessAt s sid with
  | none => s
  | some x =>
    if x.ctx.clock.tRef.isSome || samples.isEmpty then s
    else
      let newest := stamps.foldl max 0
      let first := samples.foldl min (samples.headD 0)
      s.modCtx sid (fun c => { c with clock := { o := (arrival : Int) - newest, d := 0, tRef := some first } })

/-- The samples of an item enter the session in their order: a frame at its CLIENT_TIME, then its records. `stamp` is the CLIENT_TIME of an item with a
frame, a thinned one's too, whose frame is no sample. -/
def State.takeSamples (s : State) (ch i : Nat) (x : Inst) (kind : Nat) (frame stamp : Option Nat) (recs : List (List Byte)) : State :=
  match x.sid with
  | none => s
  | some sid =>
    let times := recs.map (fun r => fieldAt r 0 8)
    let stamps := stamp.toList ++ times
    let old := (sessAt s sid).getD {}
    let term := (x.arrival, stamps.foldl max 0)
    let s := s.firstClock sid x.arrival stamps (frame.toList ++ times)
    let s := if stamps.isEmpty then s else s.modSess sid (fun y => { y with se := { y.se with arrivals := y.se.arrivals ++ [term] } })
    let s := match frame with
      | some t =>
        let kept := match sessAt s sid with
          | some y => if sampleKept s y t then some (toDt y.ctx.clock t) else none
          | none => none
        (s.classify sid t (leBytes 1 1)).modInst ch i (fun y => { y with frameAt := kept })
      | none => s
    let k := if kind == 5 then 5 else 4
    let s := recs.foldl (fun s r => s.classify sid (fieldAt r 0 8) (leBytes 1 k ++ r)) s
    let new := (sessAt s sid).getD {}
    s.modInst ch i (fun y => { y with took := { y.took with
      samples := new.se.samples.drop old.se.samples.length
      late := new.latePending.drop old.latePending.length
      first := old.ctx.clock.tRef.isNone && new.ctx.clock.tRef.isSome
      arrival := if stamps.isEmpty then none else some term } })

/-- An item is refused after its admission: the session's last admitted frame is the one before (R19, R63). -/
def State.unadmit (s : State) (x : Inst) : State :=
  match x.sid, x.admitted with
  | some sid, some (t, before) => s.modSess sid (fun y => if y.lastFrame == some t then { y with lastFrame := before } else y)
  | _, _ => s

/-- Fills the output ranges of a step with bytes in their order. -/
def fillOuts : List Range → List Byte → Inst → Inst
  | [], _, x => x
  | r :: rest, b, x => fillOuts rest (b.drop (4096 * r.count)) (x.put r 0 b)

/-- The payload has been fetched, or has failed (R535): checks, classification, blocks. -/
def State.dmaInEnds (s : State) (ch i : Nat) (d : Dma) : State :=
  match seqStep s ch i 1 with
  | none => s
  | some (x, g, k, t) =>
    match itemOf s x with
    | none => s
    | some (b, n, it) =>
      if late? s x then s.skipRest ch i (some 0x20)
      else
        let y := (batchAt s b).getD { hatch := 0, ctx := 0, area := 0, flags := 0, cookie := 0, deadline := 0 }
        let s := s.traceStep 0x10 ch 1 i x (stepItems x t).1
        let s := s.emit (.dmaRead it.addr (hostLen (bulkSealed s x.ctx) it.len))
        match d with
        | .failed p => (s.dmaFault p it.sid).skipRest ch i (some 0x30)
        | .ok data =>
          match bulkData s x.ctx y.reqCtr y.hatch n it.len data with
          | none => (s.err1 3 4 255 it.sid).skipRest ch i (some 0x30)
          | some bytes =>
            let sensors := match sessAt s it.sid with
              | some z => z.ctx.sensors
              | none => x.calib
            let room := (t.outs.map (fun r => 4096 * r.count)).foldl (· + ·) 0
            match checkedPayload g.graph.kind it.slot sensors bytes with
            | none => (s.unadmit x).skipRest ch i (some 0x11)
            | some p =>
              if room < bytes.length then (s.unadmit x).skipRest ch i (some 0x11)
              else
                let thinned := x.status == some 0x24
                let s := s.modInst ch i (fun z => fillOuts t.outs bytes { z with calib := sensors })
                let frame := if p.frames.isEmpty || thinned then none else some it.clientTime
                let s := s.takeSamples ch i x g.graph.kind frame (if p.frames.isEmpty then none else some it.clientTime) p.recs
                let fresh := g.graph.kind == 2 && !(((sessAt s it.sid).map (·.se.stereo)).getD []).contains it.slot
                let s := if fresh then
                    (s.modSess it.sid (fun y => { y with se := { y.se with stereo := it.slot :: y.se.stereo } })).modInst ch i (fun z =>
                      { z with took := { z.took with stereo := some it.slot } })
                  else s
                ((s.traceStep 0x11 ch 1 i x (stepItems x t).1).finishStep ch i k t)

def execDmaIn (ch inst : Nat) (data : List Byte) (s : State) : Host.Outcome State Fault Refusal :=
  .next ((s.refresh ch).dmaInEnds ch inst (.ok data))

/-! ### The context (R168 to R171, R318, R319, R325) -/

/-- A variable carried by a motion of the map frame: poses and points, a MOTION's velocity with its direction. -/
def moveVar (m : Pose) (v : Nat × List Byte) : Nat × List Byte :=
  match v.1 with
  | 1 => (1, overlay v.2 0 (m.mul (poseAt64 v.2 0)).bytes64)
  | 2 => (2, overlay (overlay v.2 0 (m.mul (poseAt64 v.2 0)).bytes64) 56 (f64Bytes (m.r.turn (v3At64 v.2 56)).f64s))
  | 3 => (3, overlay v.2 0 (f64Bytes (m.app (v3At64 v.2 0)).f64s))
  | _ => v
/-- A PRIOR record carried likewise: its value, and the sqrt-information of a point, which turns with the frame. A pose's is of its own tangent and
stays; how a longer block's value is held the spec does not say. -/
def movePrior (m : Pose) (r : List Byte) : List Byte :=
  if fieldAt r 0 1 != 5 then r
  else if fieldAt r 0x20 1 == 6 then overlay r 0x28 (m.mul (poseAt32 r 0x28)).bytes32
  else if fieldAt r 0x20 1 == 3 then
    let w := upperOf 3 ((f32sAt r 0x40 6).map f32Val)
    let info := match cholUpper (((Mat.tr w).times w).turned m.r) with
      | some l => f32Bytes (l.map f32Of)
      | none => padTo 24 (Config.numeric 58 (m.bytes64 ++ r))
    overlay (overlay r 0x28 (f64Bytes (m.app (v3At64 r 0x28)).f64s)) 0x40 info
  else overlay r 0x28 (bytesAt (Config.numeric 58 (m.bytes64 ++ r)) 0 (r.length - 0x28))
/-- A radio entry carried likewise: its position and covariance, its phase centre, ray origin and direction. -/
def moveRadio (m : Pose) (e : RadioEntry) : RadioEntry :=
  { e with
    pos := (m.app (v3Of (e.pos.map f64Val))).f64s
    cov := ((symMat 3 (e.cov.map f32Val)).turned m.r).upper.map f32Of
    records := overlay (overlay (overlay e.records 0x20 (f64Bytes (m.app (v3At64 e.records 0x20)).f64s)) 0x60
      (f64Bytes (m.app (v3At64 e.records 0x60)).f64s)) 0x78 (f32Bytes (m.r.turn (v3At32 e.records 0x78)).f32s) }

/-- A dense prior carried likewise: its motion state; its tangent turns with the frame in the velocity alone. -/
def DensePrior.moved (m : Pose) (p : DensePrior) : DensePrior :=
  let turn := matOf p.dim p.dim (fun i j =>
    if 6 ≤ i && i < 9 && 6 ≤ j && j < 9 && decide (9 ≤ p.motionDim) then matAt m.r.conj.mat (i - 6) (j - 6) else if i = j then 1 else 0)
  { p with motion := if p.motion.isEmpty then [] else (moveVar m (2, p.motion)).2, info := (p.root.times turn).map (fun r => r.map f32Of) }

/-- A correction of R325 moves a session's state by its 4-DoF part: position, orientation and velocity of the last accepted state. -/
def Corr.motion (c : Corr) : Pose := (poseAt64 (f64Bytes c.delta) 0).fourDof
def correctedCtx (c : Corr) (x : SessCtx) : SessCtx :=
  let m := c.motion
  { x with
    marginal := x.marginal.map (DensePrior.moved m)
    solved := x.solved.map (fun v =>
      { v with header := overlay (overlay v.header 0x18 (m.mul (poseAt32 v.header 0x18)).bytes32) 0x40 (f32Bytes (m.r.turn (v3At32 v.header 0x40)).f32s) }) }
/-- It moves every knot, landmark and prior of the session's structure, and its radio queue, and marks every clique affected. -/
def Session.correctBy (c : Corr) (x : Session) : Session :=
  let m := c.motion
  { x with
    oweMap := true
    observed := []
    radioQ := x.radioQ.map (moveRadio m)
    se := { x.se with
      vars := x.se.vars.map (fun v => (v.1, moveVar m v.2))
      factors := x.se.factors.map (fun f => (f.1, movePrior m f.2))
      prior := x.se.prior.map (DensePrior.moved m)
      marks := x.se.vars.map (·.1) } }

/-- The correction of a session whose instance is the first to pin a new version: that of the moved keyframe nearest its newest knot,
when it has observed a moved keyframe. -/
def correctionFor (s : State) (x : Session) (version : Nat) : Option Corr :=
  let cs := s.core.map.corrections.filter (fun c => versionBefore x.pinned c.version && !versionBefore version c.version)
  if !cs.any (fun c => x.observed.contains c.kf) then none
  else
    let at_ := match x.ctx.solved with
      | some v => f64sAt v.header 0x18 3
      | none => [0, 0, 0]
    cs.foldl (fun b c => match b with
      | none => some c
      | some a => if dist2 c.pos at_ < dist2 a.pos at_ then some c else some a) none

/-- Applies R325 at CTX_TAKE: to the structure and the radio queue at once, to the state in the working copy, so that CTX_PEEK and a query still find the
context as the last RESULT left it (R169). The correction applied comes with it. -/
def State.correctSession (s : State) (sid version : Nat) : Option Corr × State :=
  match sessAt s sid with
  | none => (none, s)
  | some x =>
    match correctionFor s x version with
    | some c => (some c, (s.modSess sid (Session.correctBy c)).bump (mapCtr 13) 1)
    | none => (none, s)

/-- The session has no map fix: none yet, or lost after RELOC_AFTER windows without CAMERA (R318). -/
def noFix (x : Session) (after : Nat) : Bool := match x.ctx.mapFix with
  | none => true
  | some n => decide (after ≤ n)

/-- The position prior of a session: east, north, and the larger standard deviation (R314). -/
def priorOf (x : Session) : Option (Rat × Rat × Rat) :=
  x.ctx.solved.map (fun v =>
    (f64Val (f64At v.header 0x18), f64Val (f64At v.header 0x20), sqrtQ (max (f32Val (f32At v.header 0x58)) (f32Val (f32At v.header 0x70)))))

/-- The relocalisation of a CTX_TAKE, when it makes one: the map channel with the fewer requests, and the request. -/
def relocFor (s : State) (ch i : Nat) (x : Inst) (g : Slot) (t : GStep) : Option (Nat × MapReq) :=
  match x.sid.bind (fun n => (sessAt s n).map (fun y => (n, y))), itemOf s x with
  | some (sid, y), some (_, _, it) =>
    if fieldAt t.param 0 1 == 1 && it.keyframe && noFix y (fieldAt t.param 1 1) && !y.reloc && s.core.map.inService && (mapParams s).isSome then
      (minBy (fun c => ((chanAt s c).requests.filter (fun r => r.closure.isNone)).length) (mapChans s)).map (fun mc =>
        (mc, { kind := .placeSearch, sid := sid, ch := ch, inst := i, place := (rangeBytes g x (t.inR 0)).take 512,
               query := rangeBytes g x (t.inR 1), prior := priorOf y }))
    else none
  | _, _ => none

/-- Another instance holds the session's context. -/
def heldElsewhere (s : State) (ch i sid : Nat) : Bool :=
  (instsWith s (fun x => x.holds && x.sid == some sid)).any (fun p => p != (ch, i))

def execCtxTake (ch inst : Nat) (shelf : ShelfFinding) (s : State) : Host.Outcome State Fault Refusal :=
  .next (
    let s := s.refresh ch
    match seqStep s ch inst 8 with
    | none => s
    | some (x, g, k, t) =>
      match x.sid with
      | none => s
      | some sid =>
        if late? s x then s.skipRest ch inst (some 0x20)
        else if restoringFor s ch x k then s.endEarly ch inst 0x22
        else if heldElsewhere s ch inst sid then s
        else match tornRead s sid with
        | some g => (s.reachTorn g (6 * ch + 5)).endEarly ch inst 0x21
        | none =>
        if !(s.shelfRead ch inst shelf).1 then (s.shelfRead ch inst shelf).2
        else match touchShelf (s.shelfRead ch inst shelf).2 sid with
          | none => if x.ctxWaited then s else (s.modInst ch inst (fun y => { y with ctxWaited := true })).bump (chanCtr ch 2) 1
          | some s =>
            let (corr, s) := s.correctSession sid x.mapVersion
            let live := match sessAt s sid with
              | some y => y.ctx
              | none => {}
            let s := s.modInst ch inst (fun y => { y with
              holds := true, corr := corr, work := some (match corr with | some c => correctedCtx c live | none => live) })
            let s := (s.noteClamp ch inst x t).traceStep 0x10 ch 8 inst x (stepItems x t).1
            match relocFor s ch inst x g t with
            | some (mc, r) =>
              let s := s.modChan mc (fun c => { c with requests := c.requests ++ [r] })
              let s := s.modSess sid (fun y => { y with reloc := true })
              s.modInst ch inst (fun y => { y with
                steps := setAt y.steps k .running
                relocWait := some (dtOf s, dtOf s + 1000 * fieldAt t.param 2 2), relocOut := none })
            | none => (s.traceStep 0x11 ch 8 inst x (stepItems x t).1).finishStep ch inst k t)

/-- The CTX_TAKE step of an instance that waits for a relocalisation. -/
def waitingTake (s : State) (ch i : Nat) : Option (Inst × Nat × GStep × Nat) :=
  match instAt s ch i with
  | none => none
  | some x => match x.relocWait, instSlot s ch x with
    | some (_, due), some g => match stepIdx g.graph 8 with
      | some k => (g.graph.steps[k]?).map (fun t => (x, k, t, due))
      | none => none
    | _, _ => none

/-- The session's relocalisation is over. -/
def State.relocOver (s : State) (ch i : Nat) (x : Inst) : State :=
  let s := s.modInst ch i (fun y => { y with relocWait := none, relocOut := none })
  match x.sid with
  | some sid => s.relocFree sid
  | none => s

/-- The outcome of a relocalisation has come (R319): it is taken while CTX_TAKE waits, and otherwise discarded. -/
def execRelocOutcome (ch inst : Nat) (s : State) : Host.Outcome State Fault Refusal :=
  .next (match instAt s ch inst with
    | none => s
    | some x =>
      match x.relocOut with
      | none => s
      | some out =>
        match waitingTake s ch inst with
        | none => if running s then s.relocOver ch inst x else s
        | some (_, k, t, _) =>
          if !running s then s
          else
            let s := s.relocOver ch inst x
            let s := if out.isEmpty then s.bump (mapCtr 8) 1
              else
                let s := s.modInst ch inst (fun y => y.put (t.outR 0) 0 out)
                let s := match x.sid with
                  | some sid => s.modSess sid (fun y => { y with oweMap := true })
                  | none => s
                s.bump (mapCtr 7) 1
            (s.traceStep 0x11 ch 8 inst x (stepItems x t).1).finishStep ch inst k t)

/-- RELOC_WAIT_US has passed without an outcome (R319): the request goes on, and its outcome will be discarded. -/
def execRelocWaitTimeout (ch inst : Nat) (s : State) : Host.Outcome State Fault Refusal :=
  .next (match waitingTake s ch inst with
    | none => s
    | some (x, k, t, due) =>
      if running s && decide (due < dtOf s) && x.relocOut.isNone then
        let s := (s.modInst ch inst (fun y => { y with relocWait := none })).bump (mapCtr 9) 1
        (s.traceStep 0x11 ch 8 inst x (stepItems x t).1).finishStep ch inst k t
      else s)

/-- A CTX_TAKE that still waits at its instance's deadline (R165, R170). -/
def execCtxTakeDeadline (ch inst : Nat) (s : State) : Host.Outcome State Fault Refusal :=
  .next (match instAt s ch inst with
    | none => s
    | some x =>
      let waits := match (instSlot s ch x).bind (fun g => stepIdx g.graph 8) with
        | some k => !x.holds && !stepOver x k
        | none => false
      if running s && waits && late? s x then s.skipRest ch inst (some 0x20) else s)

/-- The context's bytes as CTX_PEEK copies it: the last accepted state, the clock, the counters. Where each part stands in the blocks is the
implementation's; the instance keeps the snapshot itself beside them, for PREDICT (R254). -/
def ctxImage (c : SessCtx) : List Byte :=
  let v := c.solved.getD {}
  Config.numeric 60 (leBytes 1 (b2n c.solved.isSome) ++ v.header ++ v.fusion ++ leBytes 4 v.mapVersion ++ leInt 8 c.clock.o ++
    leBytes 4 c.clock.d.toNat ++ leBytes 8 (c.clock.tRef.getD 0) ++ f32Bytes c.bias ++ leBytes 4 c.window.toNat)

/-- CTX_PEEK: a snapshot without a hold (R154, R169). -/
def execCtxPeek (ch inst : Nat) (s : State) : Host.Outcome State Fault Refusal :=
  .next (
    let s := s.refresh ch
    match seqStep s ch inst 10 with
    | none => s
    | some (x, _, k, t) =>
      if late? s x then s.skipRest ch inst (some 0x20)
      else if restoringFor s ch x k then s.endEarly ch inst 0x22
      else match x.sid.bind (tornRead s) with
      | some g => (s.reachTorn g (6 * ch + 5)).endEarly ch inst 0x21
      | none =>
        let s := match x.sid with
          | some sid => (touchShelf s sid).getD s
          | none => s
        let c := match x.sid.bind (sessAt s) with
          | some y => y.ctx
          | none => {}
        let s := s.noteClamp ch inst x t
        let s := s.modInst ch inst (fun y => { y.put (t.outR 0) 0 (ctxImage c) with peek := some c })
        let s := s.traceStep 0x10 ch 10 inst x (stepItems x t).1
        (s.traceStep 0x11 ch 10 inst x (stepItems x t).1).finishStep ch inst k t)

/-! ### Insertion parcels (R320) -/

/-- Standard deviations of the solved position below INSERT_SIGMA. -/
def sigmaBelow (header : List Byte) (tenthsMm : Nat) : Bool :=
  [0, 6, 11].all (fun i => decide (f32Val (f32At header (0x58 + 4 * i)) < ((tenthsMm : Rat) / 10000) * ((tenthsMm : Rat) / 10000)))

/-- The landmark a keypoint is matched to: the reference table's entry of its match record, in the pinned map (R204, R256). -/
def kpMatch (d : MapData) (recs table : List Byte) (q : Nat) : Nat :=
  let r := fieldAt recs (8 * q + 2) 2
  let e := bytesAt table (32 * r) 32
  if r == 0xFFFF || fieldAt recs (8 * q) 2 != q || !bit (fieldAt e 0x1A 1) 0 then 0xFFFFFFFF
  else match (liveLms d).find? (fun p => f64Bytes p.2.pos == bytesAt e 0 24) with
    | some p => p.1
    | none => 0xFFFFFFFF

/-- A keyframe nearby, or too few matches, as the last condition of R320 has it. -/
def worthInserting (s : State) (d : MapData) (pos : List F64) (quat : List F32) (matched total : Nat) : Bool :=
  let dist : Rat := (mapPar s 8 2 : Rat) / 100
  let around : NMap Kf := match tileOf pos with
    | some t => (liveKfs d).filter (fun (p : Nat × Kf) => match tileOf p.2.pos with
        | some u => (tilesAround t 1).contains u
        | none => false)
    | none => []
  let close := around.filter (fun (p : Nat × Kf) => decide (dist2 p.2.pos pos < dist * dist))
  let turn (k : Kf) : Rat := absQ (angleDiff (headingOf (quat32 quat)) (headingOf (quat32 k.quat)))
  close.isEmpty || close.any (fun p => decide ((mapPar s 0xA 2 : Rat) / 10 * piQ / 180 ≤ turn p.2)) || decide (2 * matched < total)

/-- The parcel of an instance that qualifies, with the keypoints it had to leave out. The window has a CAMERA source when the count of windows since the
last one is 0 (R264, R318). -/
def parcelFor (s : State) (x : Inst) (g : Slot) : Option (Parcel × Nat) :=
  match itemOf s x, x.sid, x.work.bind (·.solved), stepOf g.graph 8, stepOf g.graph 6, mapParams s with
  | some (_, _, it), some sid, some v, some ct, some se, some _ =>
    let y := (sessAt s sid).getD {}
    let camera := x.work.bind (·.mapFix) == some 0
    let ok := it.keyframe && y.state == .normal && x.accepted && camera && !bit (fieldAt v.fusion 8 1) 0 &&
      sigmaBelow v.header (mapPar s 0xC 2) && decide (2 ≤ ct.ins.length)
    if !ok then none
    else
      let d := mapAt s x.mapVersion
      let q := rangeBytes g x (ct.inR 1)
      let n := queryCount q
      let recs := rangeBytes g x (se.inR 1)
      let table := rangeBytes g x (se.inR 3)
      let cam := cameraOf g x.calib it.slot
      let pose := (poseAt32 v.header 0x18).mul cam.2
      let pos := pose.t.f64s
      let quat := pose.r.f32s
      let entries := (List.range n).map (fun i => (kpMatch d recs table i,
        bytesAt q (64 + 16 * i) 16 ++ bytesAt q (64 + 16 * n + 256 * i) 256 ++ bytesAt q (64 + 272 * n + i) 1 ++ [0, 0, 0]))
      let matched := entries.filter (fun e => e.1 != 0xFFFFFFFF)
      if n == 0 || !worthInserting s d pos quat matched.length n then none
      else
        let kept := (if n ≤ 2048 then entries else matched ++ entries.filter (fun e => e.1 == 0xFFFFFFFF)).take 2048
        let kf : Kf :=
          { dt := (x.frameAt.getD 0).toNat, width := fieldAt q 4 2 / 16, height := fieldAt q 6 2 / 16, pos := pos, quat := quat, cam := cam.1,
            prev := 0xFFFFFFFF, relT := [0, 0, 0], relQ := [0x3F800000, 0, 0, 0], place := (rangeBytes g x (ct.inR 0)).take 512,
            kps := kept.map (fun e => e.2 ++ leBytes 4 e.1 ++ List.replicate 8 0) }
        some ({ kf := kf, version := x.mapVersion, sid := sid, dev := s.core.sys.devid }, n - kept.length)
  | _, _, _, _, _, _ => none

/-- The parcel goes to the insertion queue, on a device that is not the keeper up to the keeper; it is dropped where the queue is full
or the device is orphaned (R320, R486, R487). -/
def State.insertParcelOf (s : State) (x : Inst) (g : Slot) : State :=
  match parcelFor s x g with
  | none => s
  | some (p, cut) =>
    let s := s.bump (mapCtr 16) cut
    if isKeeper s then
      if s.core.map.inService && decide (s.core.map.parcels.length < 256) && !(mapChans s).isEmpty then
        s.modMap (fun m => { m with parcels := m.parcels ++ [p] })
      else s.bump (mapCtr 3) 1
    else if s.core.link.parent.isNone then s.bump (mapCtr 3) 1
    else s.sendUp 2 (Config.numeric 38 (leBytes 1 p.dev ++ leBytes 2 p.sid ++ leBytes 4 p.version ++ kfBytes 0 p.kf))

/-! ### RESULT (R57, R58, R61, R154, R165) -/

/-- What the working copy brings back to the session's context: what SE and fusion change. -/
def SessCtx.writeBack (live work : SessCtx) : SessCtx :=
  { live with
    solved := work.solved, bias := work.bias, marginal := work.marginal, clock := { work.clock with tRef := live.clock.tRef }, window := work.window,
    pairs := work.pairs, history := work.history, quarCamera := work.quarCamera, quarOdometry := work.quarOdometry, mapFix := work.mapFix }

/-- A relocalisation of the session waits in a map channel's queue, or is at work there (R319). -/
def relocQueued (s : State) (sid : Nat) : Bool := s.core.chans.any (fun c => c.requests.any (fun r => r.closure.isNone && r.sid == sid))

/-- The context goes back; where the instance was ended for an error, as it was but for the correction that CTX_TAKE made (R325). -/
def State.returnContext (s : State) (x : Inst) : State :=
  match x.sid with
  | none => s
  | some sid =>
    let s := if x.holds && !relocQueued s sid then s.relocFree sid else s
    match x.work with
    | none => s
    | some w =>
      if x.status.isNone || x.status == some 0x20 then
        s.modSess sid (fun y => { y with ctx := y.ctx.writeBack w, pinned := x.mapVersion })
      else
        s.modSess sid (fun y => { y with
          ctx := (match x.corr with | some c => correctedCtx c y.ctx | none => y.ctx), pinned := x.mapVersion })

/-- A map job's graph has run (R308): solved poses wait for their commit; without any, the job ends. -/
def State.jobSolved (s : State) (j : Nat) : State :=
  match jobOf s j with
  | none => s
  | some x => if x.phase != 1 then s else if x.poses.isEmpty then s.endJob j id else s.modJob j (fun x => { x with phase := 2 })

def execResult (ch inst : Nat) (s : State) : Host.Outcome State Fault Refusal :=
  .next (
    let s := s.refresh ch
    match seqStep s ch inst 9 with
    | none => s
    | some (x, g, k, t) =>
      let st := x.status.getD (if restoringFor s ch x k then 0x22 else if late? s x then 0x20 else 0x00)
      let s := (s.noteClamp ch inst x t).traceStep 0x10 ch 9 inst x (stepItems x t).1
      let s := s.returnContext x
      let s := if st == 0x00 || st == 0x20 then s.insertParcelOf x g else s
      let s := s.traceStep 0x11 ch 9 inst x (stepItems x t).1
      let s := s.dropInst ch inst
      let s := match x.origin with
        | .item b n => s.endItem b n st x.hflags x.saturated x.mapVersion
        | .cycleSolve _ =>
          (match x.sid.bind (fun n => (sessAt s n).map (fun y => (n, y))) with
           | some (sid, y) =>
             if (stepOf g.graph 8).isSome then
               s.deliverFree y.ctx.cfg.area { kind := 3, status := st, sid := sid, hflags := x.hflags, saturated := x.saturated, version := x.mapVersion }
             else s
           | none => s)
        | .symbol _ => s
        | .cycleTrack _ => s
        | .mapJob j => s.jobSolved j
      (List.range 8).foldl State.refresh s)

/-! ### The stall limit (R32, R192, R247) -/

/-- The cliques that were being factorised when a step is cut off are marked invalid: which they were is the engine's course, open clique by clique, and with a
clique its parents were. -/
def SeStruct.invalidate (se : SeStruct) : SeStruct :=
  { se with cliques := (se.cliques.foldl (fun (acc : List Clique × List Nat) c =>
      if c.pivots.any acc.2.contains || Config.numericNat 133 (c.pivots.flatMap (leBytes 4)) % 2 == 1 then
        (acc.1 ++ [{ c with valid := false }], acc.2 ++ c.border)
      else (acc.1 ++ [c], acc.2)) ([], [])).1 }

/-- A step has waited on a late tier for 2 ms: it ends, and its instance ends as at a deadline; the cliques of a solve are marked. -/
def execTierStallLimit (ch engine : Nat) (s : State) : Host.Outcome State Fault Refusal :=
  .next (match runningStep s ch engine, ((chanAt s ch).engines.getD engine {}).stall with
    | some (_, x, _, _, _), some t =>
      if running s && decide (t + 2000000 < dtOf s) then
        let s := match engine == 3, x.sid with
          | true, some sid => s.modSess sid (fun y => { y with se := y.se.invalidate })
          | _, _ => s
        (s.breakStep ch engine 0x20).refresh ch
      else s
    | _, _ => s)

end Sys2Proof.Machine
end

