-- ==== Sys2Proof/Machine/DmaFault.lean ====
section
/-! DEFINITION. A DMA read that is poisoned or times out (R535): the command or the item that needed it ends with INTEGRITY. -/
namespace Sys2Proof.Machine

/-- The commands that read host memory before their response, by opcode, over what their read gives. -/
def dmaBodies (d : Dma) : List (Nat × (Req → State → State)) :=
  [(0x0108, bootLoadBody d), (0x0204, sessionSensorBody d), (0x0301, batchSubmitBody d), (0x0401, mapLoadBody d),
   (0x0607, launchQueueBody d), (0x0702, scuCoeffLoadBody d), (0x0706, antennaSetBody d), (0x0803, contextCreateBody d),
   (0x0A03, loftStoreBody d true)]

/-- The command of a hatch, or the accepted load it has in hand, fails in its DMA read. -/
def State.dmaCommandFails (s : State) (h : Nat) (p : Bool) : State :=
  match jobAt s h with
  | some (.mapLoad _ _ _) => if running s then s.mapLoadEnds h (.failed p) else s
  | some (.crateLoad _ _ _) => if running s then s.crateLoadEnds h (.failed p) else s
  | some (.graphLoad _ _ _ _) => if running s then s.graphLoadEnds h (.failed p) else s
  | _ =>
    match (dmaBodies (.failed p)).find? (fun e => e.1 == (reqOf s h).op) with
    | some e => serve e.1 h e.2 s
    | none => s

def execDmaCompletionTimeout (target : DmaTarget) (poisoned : Bool) (s : State) : Host.Outcome State Fault Refusal :=
  .next (match target with
    | .command h => s.dmaCommandFails h poisoned
    | .item ch i => (s.refresh ch).dmaInEnds ch i (.failed poisoned))

end Sys2Proof.Machine
end

