-- ==== Sys2Proof/Machine/Imaging.lean ====
section
/-! DEFINITION. The vision engine's images (R118 to R128): the warp to the working image, the pyramid, the detector with its selection, and
the binary descriptor. Which quadratic R125 fits, a warp's last 1/32 px and pixels beyond an image's
border are open. -/
namespace Sys2Proof.Machine

/-! ### Images -/

/-- One level: its size, its pixels in row order, the validity of each. -/
structure Level where
  w : Nat
  h : Nat
  px : Array Byte
  mask : Array Bool
  deriving DecidableEq, Repr

def Level.inside (v : Level) (x y : Int) : Bool := decide (0 ≤ x) && decide (0 ≤ y) && decide (x < v.w) && decide (y < v.h)
def Level.valid (v : Level) (x y : Int) : Bool := v.inside x y && v.mask.getD (y.toNat * v.w + x.toNat) false
def Level.at_ (v : Level) (x y : Nat) : Nat := (v.px.getD (y * v.w + x) 0).toNat
/-- A pixel; beyond the border its value is open, where the spec names no border rule. -/
def Level.tap (v : Level) (x y : Int) : Nat :=
  if v.inside x y then v.at_ x.toNat y.toNat
  else Config.numericNat 65 (leInt 4 x ++ leInt 4 y ++ leBytes 2 v.w ++ leBytes 2 v.h ++ v.px.toList) % 256
/-- The pixels of a level in raster order. -/
def Level.points (v : Level) : List (Nat × Nat) := (List.range v.h).flatMap (fun y => (List.range v.w).map (fun x => (x, y)))
/-- The value at a position between pixels, by bilinear interpolation. -/
def Level.sample (v : Level) (x y : Rat) : Rat :=
  let i := x.floor
  let j := y.floor
  let fx := x - i
  let fy := y - j
  let t (a b : Int) : Rat := if (a = 0 ∨ fx ≠ 0) ∧ (b = 0 ∨ fy ≠ 0) then v.tap (i + a) (j + b) else 0
  (1 - fy) * ((1 - fx) * t 0 0 + fx * t 1 0) + fy * ((1 - fx) * t 0 1 + fx * t 1 1)

/-! ### Undistortion and warp (R118 to R121) -/

/-- The exact source position of a working pixel; none beyond the fold radius. `turn` carries a working ray into the sensor's frame. -/
def sourceOf (c : Cam) (a : Sensor) (turn : V3 → V3) (x y : Nat) : Option (Rat × Rat) :=
  if a.type == 3 then some (meshAt a.mesh a.width a.height x y).1
  else
    let d := turn (c.ray x y)
    if d.z ≤ 0 then none
    else
      let nx := trim (d.x / d.z)
      let ny := trim (d.y / d.z)
      let r := rootQ (nx * nx + ny * ny)
      if f32Val a.fold < (if a.type == 2 then atanQ r else r) then none
      else some (({ fish := a.type == 2, f := a.cam.map f32Val, k := a.dist.map f32Val } : Cam).pixel nx ny)

/-- A position in 1/32 px, within 1/32 px of the exact one (R120): which of those is open. -/
def nearStep (e : Rat) (draw : Nat) : Int :=
  let q := roundAway (32 * e) + openSteps 1 draw
  if absQ ((q : Rat) / 32 - e) ≤ 1 / 32 then q else roundAway (32 * e)

/-- The source position of each working pixel in 1/32 px; none where the pixel is invalid. -/
def warpMap (p : List Byte) (kind which : Nat) (a b : Sensor) : Array (Option (Int × Int)) :=
  let s := if which == 0 then a else b
  let c := workingCam p kind a b
  let q := rectFrame a b
  let turn (d : V3) : V3 := if kind == 2 then s.pose.r.conj.turn (q.turn d) else d
  let arg := bytesAt p 7 1 ++ bytesAt p 0x18 16 ++ leBytes 1 kind ++ leBytes 1 which ++ sensorBytes a ++ sensorBytes b
  ((List.range (s.width * s.height)).map (fun i =>
    match sourceOf c s turn (i % s.width) (i / s.width) with
    | none => none
    | some e =>
      let u := nearStep e.1 (Config.numericNat 61 (leBytes 4 (2 * i) ++ arg))
      let v := nearStep e.2 (Config.numericNat 61 (leBytes 4 (2 * i + 1) ++ arg))
      if decide (0 ≤ u) && decide (0 ≤ v) && decide (u ≤ 32 * ((s.width : Int) - 1)) && decide (v ≤ 32 * ((s.height : Int) - 1)) then some (u, v) else none)).toArray

/-- The working image of slot s (`which` 0) or s + 1: the level-0 image, or its warp, whose invalid pixels are 0. -/
def workImage (p : List Byte) (kind which : Nat) (a b : Sensor) (luma : List Byte) : Level :=
  let s := if which == 0 then a else b
  let n := s.width * s.height
  let src : Level := { w := s.width, h := s.height, px := (padTo n luma).toArray, mask := Array.replicate n true }
  if veStage p 0 then
    let m := warpMap p kind which a b
    { src with
      px := m.map (fun e => match e with
        | some e => BitVec.ofNat 8 (roundAway (src.sample ((e.1 : Rat) / 32) ((e.2 : Rat) / 32))).toNat
        | none => 0)
      mask := m.map (·.isSome) }
  else src

/-- The depth image beside the working image: warped to the nearest source pixel (R148), 0 where the pixel is invalid. -/
def workDepth (p : List Byte) (a b : Sensor) (depth : List Byte) : List Byte :=
  if veStage p 0 then
    let d := depth.toArray
    (warpMap p 3 0 a b).toList.flatMap (fun e => match e with
      | some e =>
        let o := 2 * ((roundAway ((e.2 : Rat) / 32)).toNat * a.width + (roundAway ((e.1 : Rat) / 32)).toNat)
        [d.getD o 0, d.getD (o + 1) 0]
      | none => [0, 0])
  else padTo (2 * a.width * a.height) depth

/-! ### Pyramid (R123) -/

/-- An index mirrored into 0 to n − 1; whether the edge pixel itself is doubled is the engine's convention. -/
def mirrored (n : Nat) (i : Int) : Nat :=
  let twice : Bool := Config.convention 0
  let j : Int := if i < 0 then (if twice then -i - 1 else -i) else if (n : Int) ≤ i then (if twice then 2 * n - 1 - i else 2 * n - 2 - i) else i
  (clampInt 0 ((n : Int) - 1) j).toNat
def binomial : List (Int × Nat) := [(-2, 1), (-1, 4), (0, 6), (1, 4), (2, 1)]

/-- The next level: half the size, rounded up, of the image filtered with [1 4 6 4 1]/16 on each axis; a pixel is invalid when one of its 25 source taps
is. -/
def Level.next (v : Level) : Level :=
  let w := (v.w + 1) / 2
  let h := (v.h + 1) / 2
  let taps (k : Nat) : List (Nat × Nat × Nat) := binomial.flatMap (fun a => binomial.map (fun b =>
    (mirrored v.w (2 * (k % w : Nat) + b.1), mirrored v.h (2 * (k / w : Nat) + a.1), a.2 * b.2)))
  { w := w, h := h
    px := ((List.range (w * h)).map (fun k =>
      BitVec.ofNat 8 (roundAway ((((taps k).map (fun t => v.at_ t.1 t.2.1 * t.2.2)).foldl (· + ·) 0 : Nat) / (256 : Rat))).toNat)).toArray
    mask := ((List.range (w * h)).map (fun k => (taps k).all (fun t => v.valid t.1 t.2.1))).toArray }

/-- The levels built: those asked for whose sides are both at least 16. -/
def levelsFrom : Nat → Level → List Level
  | 0, _ => []
  | n + 1, v => if 16 ≤ v.w && 16 ≤ v.h then v :: levelsFrom n v.next else []
def levelsOf (p : List Byte) (v : Level) : List Level := if veStage p 1 then levelsFrom (fieldAt p 1 1) v else levelsFrom 1 v

/-! ### Detector (R124 to R126) -/

/-- The unit of a central difference: half of the two neighbours' difference, or the whole; the spec does not say which. -/
def gradUnit : Rat := if Config.convention 1 then 1 / 2 else 1
/-- Central differences at a pixel. -/
def Level.grad (v : Level) (x y : Int) : Rat × Rat :=
  (gradUnit * ((v.tap (x + 1) y : Int) - v.tap (x - 1) y : Int), gradUnit * ((v.tap x (y + 1) : Int) - v.tap x (y - 1) : Int))
/-- The smaller eigenvalue of the structure tensor of gradients, divided by 256. -/
def cornerOf (g : List (Rat × Rat)) : Rat :=
  let a := sumQ (g.map (fun e => e.1 * e.1))
  let b := sumQ (g.map (fun e => e.1 * e.2))
  let c := sumQ (g.map (fun e => e.2 * e.2))
  (a + c - rootQ ((a - c) ^ 2 + 4 * b ^ 2)) / 2 / 256
/-- The pixels of a box around a pixel. -/
def boxAt (x y : Int) (r : Nat) : List (Int × Int) :=
  (List.range ((2 * r + 1) * (2 * r + 1))).map (fun k => (x - r + (k % (2 * r + 1) : Nat), y - r + (k / (2 * r + 1) : Nat)))
/-- The absolute determinant of the Hessian of 3 × 3 second differences, divided by 16; the unit of the mixed difference is the engine's convention. -/
def blobOf (v : Level) (x y : Int) : Rat :=
  let t (i j : Int) : Rat := v.tap (x + i) (y + j)
  let xx := t 1 0 - 2 * t 0 0 + t (-1) 0
  let yy := t 0 1 - 2 * t 0 0 + t 0 (-1)
  let xy := (t 1 1 - t 1 (-1) - t (-1) 1 + t (-1) (-1)) / (if Config.convention 2 then 4 else 1)
  absQ (xx * yy - xy * xy) / 16
/-- A pixel's score in FP32 (R124). -/
def scoreOf (kind : Nat) (v : Level) (x y : Int) : F32 :=
  f32Of (if kind == 0 then cornerOf ((boxAt x y 2).map (fun q => v.grad q.1 q.2)) else blobOf v x y)

/-- A keypoint candidate: its level and pixel, its score, its refined level-0 position in 1/32 px, its orientation. -/
structure KpCand where
  level : Nat
  px : Nat
  py : Nat
  score : Nat
  x : Int
  y : Int
  angle : Nat
  deriving DecidableEq, Repr

/-- The scores of a level's valid pixels in row order, with whether one saturated; an invalid pixel has none. -/
def scores (p : List Byte) (v : Level) : Array (Nat × Bool) :=
  (v.points.map (fun e => if v.valid e.1 e.2 then toUnsigned 0xFFFF (f32Val (scoreOf (fieldAt p 2 1) v e.1 e.2)) else (0, false))).toArray

/-- A pixel at least 17 pixels from the border and from every invalid pixel. -/
def clear17 (v : Level) (x y : Nat) : Bool :=
  decide (17 ≤ x) && decide (17 ≤ y) && decide (x + 18 ≤ v.w) && decide (y + 18 ≤ v.h) &&
  (List.range 33).all (fun j => (List.range 33).all (fun i => v.valid ((x : Int) + i - 16) ((y : Int) + j - 16)))

/-- A score that is the maximum of its 5 × 5 neighbourhood, the first in raster order among equals. -/
def isPeak (v : Level) (sc : Array (Nat × Bool)) (x y : Nat) : Bool :=
  let at_ (i j : Nat) : Nat := (sc.getD (j * v.w + i) (0, false)).1
  let s := at_ x y
  (List.range 5).all (fun j => (List.range 5).all (fun i =>
    let nx := x + i - 2
    let ny := y + j - 2
    decide (at_ nx ny < s) || (at_ nx ny == s && decide (y * v.w + x ≤ ny * v.w + nx))))

/-- The points of the disc of radius 15. -/
def disc15 : List (Int × Int) := (boxAt 0 0 15).filter (fun q => decide (q.1 * q.1 + q.2 * q.2 ≤ 225))
/-- The orientation of a patch in 256 steps (R125): the angle of its intensity centroid over the disc of radius 15, from +x towards +y; where the
centroid is the patch's centre it is open. -/
def patchAngle (v : Level) (x y : Int) : Nat :=
  let m (f : Int × Int → Int) : Int := (disc15.map (fun q => f q * v.tap (x + q.1) (y + q.2))).foldl (· + ·) 0
  let mx := m (·.1)
  let my := m (·.2)
  if mx = 0 ∧ my = 0 then Config.numericNat 64 (leInt 4 x ++ leInt 4 y ++ v.px.toList) % 256
  else (roundAway (atan2Q my mx * 128 / piQ) % 256).toNat

/-- The offset of the peak of a quadratic fitted to 3 × 3 scores, in row order, on an axis (R125). Which fit the spec does not say: that of each axis's own
three scores, or of the whole neighbourhood, with differences at its centre or over its nine scores. Where the fit has no peak the offset is open. -/
def fitOffset (s : List Nat) (axis : Nat) : Rat :=
  let at_ (i j : Nat) : Rat := (s.getD (3 * j + i) 0 : Nat)
  let whole : Bool := Config.convention 14
  let mean : Bool := Config.convention 15
  let rows (f : Nat → Rat) : Rat := if whole && mean then (f 0 + f 1 + f 2) / 3 else f 1
  let gx := rows (fun j => (at_ 2 j - at_ 0 j) / 2)
  let gy := rows (fun i => (at_ i 2 - at_ i 0) / 2)
  let hx := rows (fun j => at_ 2 j - 2 * at_ 1 j + at_ 0 j)
  let hy := rows (fun i => at_ i 2 - 2 * at_ i 1 + at_ i 0)
  let m := if whole then (at_ 2 2 - at_ 2 0 - at_ 0 2 + at_ 0 0) / 4 else 0
  let det := hx * hy - m * m
  if det = 0 then f32Val (Config.numeric32 64 (leBytes 1 axis ++ s.flatMap (leBytes 2)))
  else if axis == 0 then (m * gy - hy * gx) / det else (m * gx - hx * gy) / det

/-- The candidate at a pixel: the offset of the quadratic fit is clamped to half a level pixel on each axis. -/
def candAt (l : Nat) (v : Level) (sc : Array (Nat × Bool)) (x y : Nat) : KpCand :=
  let near := (List.range 9).map (fun k => (sc.getD ((y + k / 3 - 1) * v.w + (x + k % 3 - 1)) (0, false)).1)
  let off (axis : Nat) : Rat := max (-1 / 2) (min (1 / 2) (fitOffset near axis))
  let pos (c axis : Nat) : Int := (toSigned 32 (((c : Rat) + off axis) * (2 ^ l : Nat) * 32)).1
  { level := l, px := x, py := y, score := (sc.getD (y * v.w + x) (0, false)).1, x := pos x 0, y := pos y 1, angle := patchAngle v x y }

/-- The candidates of a level in raster order. -/
def levelCands (p : List Byte) (l : Nat) (v : Level) : List KpCand :=
  let sc := scores p v
  (v.points.filter (fun e => v.valid e.1 e.2 && decide (fieldAt p 4 2 ≤ (sc.getD (e.2 * v.w + e.1) (0, false)).1) && clear17 v e.1 e.2 &&
    isPeak v sc e.1 e.2)).map (fun e => candAt l v sc e.1 e.2)

/-- The order in which candidates are kept: the higher score, then the lower level, the lower y, the lower x. -/
def keepsBefore (a b : KpCand) : Bool :=
  if a.score != b.score then decide (b.score < a.score)
  else if a.level != b.level then decide (a.level < b.level)
  else if a.y != b.y then decide (a.y < b.y) else decide (a.x ≤ b.x)
/-- The order of the list: ascending level, then raster order. -/
def listsBefore (a b : KpCand) : Bool :=
  if a.level != b.level then decide (a.level < b.level) else if a.py != b.py then decide (a.py < b.py) else decide (a.px ≤ b.px)

def cellOf (cell : Nat) (x y : Int) : Int × Int := (x / (32 * cell), y / (32 * cell))

/-- The selection of R126 beside the tracked points: the candidates kept, in the order of the list, how many the caps removed, and
whether FRAME_CAP removed any. -/
def selectKps (p : List Byte) (tracked : List (Int × Int)) (cands : List KpCand) : List KpCand × Nat × Bool :=
  let cell := veCell p
  let far := cands.filter (fun c => tracked.all (fun t => decide (128 * 128 < (c.x - t.1) ^ 2 + (c.y - t.2) ^ 2)))
  let sorted := sortBy keepsBefore far
  let used (c : Int × Int) : Nat := (tracked.filter (fun t => cellOf cell t.1 t.2 == c)).length
  let celled := sorted.foldl (fun acc c =>
    let k := cellOf cell c.x c.y
    if (acc.filter (fun d => cellOf cell d.x d.y == k)).length < fieldAt p 6 1 - used k then acc ++ [c] else acc) ([] : List KpCand)
  let room := fieldAt p 8 2 - tracked.length
  (sortBy listsBefore (celled.take room), far.length - (celled.take room).length, decide (room < celled.length))

/-! ### Descriptor (R128) -/

/-- Draws a point of the sampling pattern. -/
def drawPoint : Nat → W32 → Option (Int × Int) → (Int × Int) × W32
  | 0, s, _ => ((0, 0), s)
  | k + 1, s, other =>
    let s := xorshift s
    let x : Int := (s.toNat % 32 : Nat) - 15
    let y : Int := (s.toNat / 32 % 32 : Nat) - 15
    if decide (x ≤ 15) && decide (y ≤ 15) && decide (x * x + y * y ≤ 225) && some (x, y) != other then ((x, y), s) else drawPoint k s other

def patternFrom : Nat → W32 → List ((Int × Int) × (Int × Int))
  | 0, _ => []
  | n + 1, s =>
    let (a, s) := drawPoint 1000 s none
    let (b, s) := drawPoint 1000 s (some a)
    (a, b) :: patternFrom n s
/-- The 256 pairs of the fixed pattern. -/
def kpPattern : List ((Int × Int) × (Int × Int)) := patternFrom 256 0x2F6B9A41

/-- cos(k·11.25°) for k from 0 to 8, to twelve digits: no rotated coordinate of the pattern lies nearer than 10⁻⁴ to a tie. -/
def cosTable : List Nat :=
  [1000000000000, 980785280403, 923879532511, 831469612303, 707106781187, 555570233020, 382683432365, 195090322016, 0]
def cosStep (k : Nat) : Rat :=
  let k := k % 32
  let c (i : Nat) : Rat := (cosTable.getD i 0 : Rat) / 10 ^ 12
  if k ≤ 8 then c k else if k ≤ 16 then -c (16 - k) else if k ≤ 24 then -c (k - 16) else c (32 - k)

/-- A point of the pattern turned by a step, rounded and clamped. -/
def turned (k : Nat) (q : Int × Int) : Int × Int :=
  let c := cosStep k
  let s := cosStep (k + 24)
  (clampInt (-15) 15 (roundAway (q.1 * c - q.2 * s)), clampInt (-15) 15 (roundAway (q.1 * s + q.2 * c)))

/-- A 5 × 5 box sum. -/
def boxSum (v : Level) (x y : Int) : Nat := ((boxAt x y 2).map (fun q => v.tap q.1 q.2)).foldl (· + ·) 0

/-- The descriptor at a pixel of a level. -/
def descriptor (v : Level) (x y : Int) (angle : Nat) : List Byte :=
  let k := (angle + 4) / 8 % 32
  let one (q : (Int × Int) × (Int × Int)) : Bool :=
    let a := turned k q.1
    let b := turned k q.2
    decide (boxSum v (x + a.1) (y + a.2) < boxSum v (x + b.1) (y + b.2))
  leBytes 32 (maskOf (kpPattern.map one))

end Sys2Proof.Machine
end

