-- ==== Sys2Proof/Machine/Stereo.lean ====
section
/-! DEFINITION. The stereo matcher (R133 to R136): census costs, their aggregation along four paths, and the outcome of each left pixel. -/
namespace Sys2Proof.Machine

/-! ### Stereo (R133 to R136) -/

/-- The aggregated costs at a left pixel: its texture, the best candidate and its neighbours, the best cost elsewhere, and the
right view's disparity. -/
structure Match where
  texture : Rat
  best : Option Nat
  cm : Nat
  c0 : Nat
  cp : Nat
  c2 : Nat
  right : Rat
  deriving DecidableEq, Repr

/-- The census of a pixel: which of the 62 others of a 9 × 7 window are less than it; whether equals count is the engine's convention. -/
def census (v : Level) (x y : Int) : List Bool :=
  let c := v.tap x y
  ((List.range 63).filter (· != 31)).map (fun k =>
    let t := v.tap (x - 4 + (k % 9 : Nat)) (y - 3 + (k / 9 : Nat))
    if Config.convention 4 then decide (t ≤ c) else decide (t < c))
/-- The Hamming distance of two. -/
def hamming (a b : List Bool) : Nat := ((a.zip b).filter (fun e => e.1 != e.2)).length

/-- Costs of a pixel by candidate, from the window's first on; none where a disparity is no candidate. -/
abbrev PixCosts := Array (Option Nat)
def leastCost (c : PixCosts) : Option Nat := c.toList.foldl (fun b e => match b, e with
  | some x, some y => some (min x y)
  | none, e => e
  | b, none => b) none

/-- One step along a path (R133): a pixel's cost with the least of its predecessor's, a change of 1 costing 8 and a larger one 96; whether the
predecessor's least is taken off again is the engine's convention. -/
def pathStep (prev : Option PixCosts) (c : PixCosts) : PixCosts :=
  match prev.bind (fun p => (leastCost p).map (fun m => (p, m))) with
  | none => c
  | some (p, m) =>
    ((List.range c.size).map (fun d => (c.getD d none).map (fun e =>
      let near (k : Nat) (pen : Nat) : List Nat := ((p.getD k none).map (· + pen)).toList
      let opts := near d 0 ++ (if d = 0 then [] else near (d - 1) 8) ++ near (d + 1) 8 ++ [m + 96]
      e + opts.foldl min (m + 96) - (if Config.convention 5 then m else 0)))).toArray
/-- A path's aggregated costs, pixel by pixel. -/
def alongPath : Option PixCosts → List PixCosts → List PixCosts
  | _, [] => []
  | prev, c :: l => let a := pathStep prev c; a :: alongPath (some a) l

/-- Sums of costs. -/
def addCosts (a b : PixCosts) : PixCosts := (a.toList.zipWith (fun x y => match x, y with
  | some m, some n => some (m + n)
  | _, _ => none) b.toList).toArray

/-- The aggregated cost volume over the matched images, in row order: the four paths right, left, down and up summed (R133). -/
def costVolume (p : List Byte) (left right : Level) : Array PixCosts :=
  let w := left.w
  let h := left.h
  let dmin := fieldAt p 0x10 2
  let cl := (left.points.map (fun e => census left e.1 e.2)).toArray
  let cr := (right.points.map (fun e => census right e.1 e.2)).toArray
  let raw : Array PixCosts := (left.points.map (fun e => ((List.range (veDisps p)).map (fun k =>
    let d := dmin + k
    if d ≤ e.1 then some (hamming (cl.getD (e.2 * w + e.1) []) (cr.getD (e.2 * right.w + (e.1 - d)) [])) else none)).toArray)).toArray
  let at_ (x y : Nat) : PixCosts := raw.getD (y * w + x) #[]
  let rows := (List.range h).map (fun y => (List.range w).map (fun x => at_ x y))
  let cols := (List.range w).map (fun x => (List.range h).map (fun y => at_ x y))
  let hor := (rows.map (fun r => (alongPath none r).zipWith addCosts (alongPath none r.reverse).reverse)).flatten.toArray
  let ver := (cols.map (fun c => (alongPath none c).zipWith addCosts (alongPath none c.reverse).reverse)).flatten.toArray
  (left.points.map (fun e => addCosts (hor.getD (e.2 * w + e.1) #[]) (ver.getD (e.1 * h + e.2) #[]))).toArray

/-- The disparity of least cost in a list, the lower or the higher of equals as the engine has it. -/
def bestOf (c : List (Nat × Nat)) : Option (Nat × Nat) :=
  c.foldl (fun b e => match b with
    | none => some e
    | some m => if e.2 < m.2 || (e.2 == m.2 && Config.convention 6) then some e else b) none
/-- The costs of a left pixel as candidates with their costs. -/
def leftCosts (p : List Byte) (c : PixCosts) : List (Nat × Nat) := c.toList.zipIdx.filterMap (fun e => e.1.map (fun v => (fieldAt p 0x10 2 + e.2, v)))
/-- Those of a right pixel, from the same volume. -/
def rightCosts (p : List Byte) (vol : Array PixCosts) (w x y : Nat) : List (Nat × Nat) :=
  (List.range (veDisps p)).filterMap (fun k =>
    let d := fieldAt p 0x10 2 + k
    if x + d < w then ((vol.getD (y * w + x + d) #[]).getD k none).map (fun v => (d, v)) else none)

/-- The best candidate of a list with its neighbours' costs, and the best cost elsewhere; a cost that is not there is open. -/
def bestMatch (l : List (Nat × Nat)) : Option (Nat × Nat × Nat × Nat × Nat) :=
  (bestOf l).map (fun b =>
    let near (d : Nat) : Nat := match l.find? (fun e => e.1 == d) with
      | some e => e.2
      | none => Config.numericNat 67 (l.flatMap (fun e => leBytes 2 e.1 ++ leBytes 4 e.2))
    let rest := (l.filter (fun e => decide (e.1 + 1 < b.1) || decide (b.1 + 1 < e.1))).map (·.2)
    let c2 := match rest with
      | [] => Config.numericNat 68 (l.flatMap (fun e => leBytes 2 e.1 ++ leBytes 4 e.2))
      | a :: r => r.foldl min a
    let low := if b.1 = 0 then Config.numericNat 67 (l.flatMap (fun e => leBytes 2 e.1 ++ leBytes 4 e.2)) else near (b.1 - 1)
    (b.1, low, b.2, near (b.1 + 1), c2))

/-- The sub-pixel offset (R134); equal costs leave it open. -/
def subPixel (cm c0 cp d dmin : Nat) : Rat :=
  let den : Int := (cm : Int) - 2 * c0 + cp
  let q : Rat := if den = 0 then f32Val (Config.numeric32 67 (leBytes 4 cm ++ leBytes 4 c0 ++ leBytes 4 cp)) else ((cm : Int) - cp : Int) / (2 * den : Int)
  max (if d == 0 && dmin == 0 then 0 else -1 / 2) (min (1 / 2) q)

/-- The match of a left pixel over the volume (R133 to R135): its right view is the best disparity at x − round(d*), refined likewise. -/
def matchOf (p : List Byte) (left : Level) (vol : Array PixCosts) (x y : Nat) : Match :=
  let dmin := fieldAt p 0x10 2
  let texture := sumQ ((boxAt x y 2).map (fun q => let g := left.grad q.1 q.2; absQ g.1 + absQ g.2))
  match bestMatch (leftCosts p (vol.getD (y * left.w + x) #[])) with
  | none => { texture := texture, best := none, cm := 0, c0 := 0, cp := 0, c2 := 0, right := 0 }
  | some (d, cm, c0, cp, c2) =>
    let v := (d : Rat) + subPixel cm c0 cp d dmin
    let xr := (x : Int) - roundAway v
    let r : Rat := match (if 0 ≤ xr then bestMatch (rightCosts p vol left.w xr.toNat y) else none) with
      | some (e, em, e0, ep, _) => e + subPixel em e0 ep e dmin
      | none => f32Val (Config.numeric32 68 (leBytes 2 x ++ leBytes 2 d ++ leBytes 4 cm ++ leBytes 4 c0 ++ leBytes 4 cp))
    { texture := texture, best := some d, cm := cm, c0 := c0, cp := cp, c2 := c2, right := r }

/-- A candidate disparity stands in the window and, in the right image, at or right of its edge. -/
def windowEdge (p : List Byte) (x d : Nat) : Bool :=
  let dmin := fieldAt p 0x10 2
  d != 0 && (d == dmin || d == dmin + veDisps p - 1 || d == x)

/-- The disparity field and confidence of a left pixel, with whether it saturated (R134, R135). -/
def disparity (p : List Byte) (m : Match) (x : Nat) : Nat × Nat × Bool :=
  let dmin := fieldAt p 0x10 2
  if m.texture < (fieldAt p 0x14 2 : Rat) then (0xFFFF, 0, false)
  else match m.best with
    | none => (0xFFFD, 0, false)
    | some d =>
      if x < dmin || windowEdge p x d then (0xFFFD, 0, false)
      else
        let v := (d : Rat) + subPixel m.cm m.c0 m.cp d dmin
        let diff := m.right - v
        if (fieldAt p 0x13 1 : Rat) / 8 < (if diff < 0 then -diff else diff) then (0xFFFE, 0, false)
        else
          let scale : Nat := if fieldAt p 0x16 1 == 1 then 2 else 1
          let r := toUnsigned 0xFFFC (v * scale * 32)
          (r.1, min 255 (max 1 (256 * (m.c2 - m.c0) / max m.c2 1)), r.2)

/-- The two planes over the matched images, with their saturation. -/
def stereoPlanes (p : List Byte) (left right : Level) : List (Nat × Nat × Bool) :=
  let vol := costVolume p left right
  left.points.map (fun e => disparity p (matchOf p left vol e.1 e.2) e.1)
def planeBytes (l : List (Nat × Nat × Bool)) : List Byte := l.flatMap (fun e => leBytes 2 e.1) ++ l.map (fun e => BitVec.ofNat 8 e.2.1)
def codes (l : List (Nat × Nat × Bool)) (c : Nat) : Nat := (l.filter (fun e => e.1 == c)).length

end Sys2Proof.Machine
end

