-- ==== Sys2Proof/Machine/Tracker.lean ====
section
/-! DEFINITION. The flow tracker (R129 to R132): windows, updates and outcomes over two pyramids. Pixels beyond an image's border and updates without texture
are open. -/
namespace Sys2Proof.Machine

/-! ### Flow tracker (R129 to R132) -/

/-- What the tracker finds for one keypoint. -/
structure Flow where
  /-- The window limit was passed at some level. -/
  window : Bool
  /-- The smaller eigenvalue of the patch's structure tensor at level 0, in the corner score's scale. -/
  eig : F32
  /-- The length of the last update at level 0, px. -/
  last : F32
  /-- The mean absolute patch difference at level 0. -/
  residual : F32
  /-- How far from its origin tracking back lands, px. -/
  back : F32
  x : F64
  y : F64
  deriving DecidableEq, Repr

/-- The template of a patch: 81 values and their gradients around a position of the first image. -/
structure Patch9 where
  vals : List Rat
  grads : List (Rat × Rat)
  deriving DecidableEq, Repr

/-- The offsets of a 9 × 9 patch. -/
def patchOffsets : List (Int × Int) := boxAt 0 0 4
def patchOf (v : Level) (x y : Rat) : Patch9 :=
  { vals := patchOffsets.map (fun o => v.sample (x + o.1) (y + o.2))
    grads := patchOffsets.map (fun o =>
      (gradUnit * (v.sample (x + o.1 + 1) (y + o.2) - v.sample (x + o.1 - 1) (y + o.2)),
       gradUnit * (v.sample (x + o.1) (y + o.2 + 1) - v.sample (x + o.1) (y + o.2 - 1)))) }

/-- The differences of a patch of the second image from the template. -/
def patchDiff (t : Patch9) (v : Level) (x y : Rat) : List Rat := patchOffsets.zipWith (fun o a => v.sample (x + o.1) (y + o.2) - a) t.vals

/-- An inverse compositional Lucas–Kanade update of a translation (R130): the template's normal equations; without texture in some direction it is
open. -/
def lkUpdate (t : Patch9) (d : List Rat) : Rat × Rat :=
  let a := sumQ (t.grads.map (fun g => g.1 * g.1))
  let b := sumQ (t.grads.map (fun g => g.1 * g.2))
  let c := sumQ (t.grads.map (fun g => g.2 * g.2))
  let u := dotL (t.grads.map (·.1)) d
  let v := dotL (t.grads.map (·.2)) d
  let det := a * c - b * b
  if det = 0 then
    let arg := f64Bytes ([a, b, c, u, v].map f64Of)
    (f32Val (Config.numeric32 66 (leBytes 1 0 ++ arg)), f32Val (Config.numeric32 66 (leBytes 1 1 ++ arg)))
  else (trim ((c * u - b * v) / det), trim ((a * v - b * u) / det))

/-- The search at a level: iterations left, the window's centre, the estimate. It ends at an update shorter than 1/32 px, and where the patch has moved
more than 10 pixels from the centre on an axis. It gives the estimate, the squared last update, and whether the limit was passed. -/
def lkSearch (t : Patch9) (v : Level) (cx cy : Rat) : Nat → Rat → Rat → Rat → (Rat × Rat) × Rat × Bool
  | 0, x, y, last => ((x, y), last, false)
  | n + 1, x, y, _ =>
    let u := lkUpdate t (patchDiff t v x y)
    let x := x - u.1
    let y := y - u.2
    let len := u.1 * u.1 + u.2 * u.2
    if decide (10 < absQ (x - cx)) || decide (10 < absQ (y - cy)) then ((x, y), len, true)
    else if len < 1 / 1024 then ((x, y), len, false)
    else lkSearch t v cx cy n x y len

/-- The levels from a top one down to 0 (R130): the estimate in level pixels, twice the coarser level's at each finer one; the squared last update, whether
the limit was passed. `from_` holds the position in the first image at level 0. -/
def lkLevels (iter : Nat) (first second : List Level) (fx fy : Rat) : Nat → Rat → Rat → (Rat × Rat) × Rat × Bool
  | l, x, y =>
    let none_ : Level := { w := 0, h := 0, px := #[], mask := #[] }
    let at_ (l : Nat) (x y : Rat) : (Rat × Rat) × Rat × Bool :=
      let k : Rat := (2 ^ l : Nat)
      lkSearch (patchOf (first.getD l none_) (fx / k) (fy / k)) (second.getD l none_) x y iter x y 0
    match l with
    | 0 => at_ 0 x y
    | l + 1 =>
      let r := at_ (l + 1) x y
      if r.2.2 then r else lkLevels iter first second fx fy l (2 * r.1.1) (2 * r.1.2)

/-- A keypoint tracked from one pyramid into another from a prediction, positions in level-0 px. -/
def lkTrack (iter top : Nat) (first second : List Level) (fx fy px py : Rat) : (Rat × Rat) × Rat × Bool :=
  let k : Rat := (2 ^ top : Nat)
  lkLevels iter first second fx fy top (px / k) (py / k)

/-- What the tracker finds (R130, R131). Tracking back starts at the origin or at the new position, as the engine has it. -/
def flowOf (p : List Byte) (prev cur : List Level) (kp : List Byte) (pred : Int × Int) : Flow :=
  let fx : Rat := (intAt kp 0 4 : Rat) / 32
  let fy : Rat := (intAt kp 4 4 : Rat) / 32
  let iter := fieldAt p 0xA 1
  let top := min (fieldAt p 0xB 1) (min prev.length cur.length) - 1
  let none_ : Level := { w := 0, h := 0, px := #[], mask := #[] }
  let t := patchOf (prev.headD none_) fx fy
  let r := lkTrack iter top prev cur fx fy ((pred.1 : Rat) / 32) ((pred.2 : Rat) / 32)
  let start := if Config.convention 3 then (fx, fy) else r.1
  let b := lkTrack iter top cur prev r.1.1 r.1.2 start.1 start.2
  let far : Rat := if b.2.2 then pow2 20 else rootQ ((b.1.1 - fx) ^ 2 + (b.1.2 - fy) ^ 2)
  { window := r.2.2, eig := f32Of (cornerOf t.grads), last := f32Of (rootQ r.2.1)
    residual := f32Of (sumQ ((patchDiff t (cur.headD none_) r.1.1 r.1.2).map absQ) / 81), back := f32Of far, x := f64Of r.1.1, y := f64Of r.1.2 }

/-- The outcome: status and reason (R131). -/
def flowOutcome (p : List Byte) (f : Flow) : Nat × Nat :=
  if f.window then (1, 2)
  else if f32Val f.eig < fieldAt p 0xC 2 then (1, 1)
  else if (1 / 8 : Rat) ≤ f32Val f.last then (1, 3)
  else if (fieldAt p 0xE 1 : Rat) < f32Val f.residual then (2, 4)
  else if fieldAt p 0xF 1 != 0 && decide ((fieldAt p 0xF 1 : Rat) / 8 < f32Val f.back) then (2, 5)
  else (0, 0)

/-- A track record as its fields (R132). -/
structure TrackRec where
  x : Int
  y : Int
  dx : Int
  dy : Int
  source : Nat
  status : Nat
  reason : Nat
  sat : Bool
  deriving DecidableEq, Repr

def TrackRec.bytes (t : TrackRec) : List Byte :=
  leInt 4 t.x ++ leInt 4 t.y ++ leInt 2 t.dx ++ leInt 2 t.dy ++ leBytes 2 t.source ++ leBytes 1 t.status ++ leBytes 1 (t.reason + 128 * b2n t.sat)

/-- The record of a previous keypoint at a prediction: a prediction outside the valid level-0 image is lost at once (R129). -/
def trackRec (p : List Byte) (prev cur : List Level) (i : Nat) (kp : List Byte) (pred : Int × Int) : TrackRec :=
  let v : Level := cur.headD { w := 0, h := 0, px := #[], mask := #[] }
  let at_ (a b : Int) : Bool := v.valid (roundAway ((a : Rat) / 32)) (roundAway ((b : Rat) / 32))
  if !at_ pred.1 pred.2 then { x := pred.1, y := pred.2, dx := 0, dy := 0, source := i, status := 1, reason := 2, sat := false }
  else
    let f := flowOf p prev cur kp pred
    let (st, why) := flowOutcome p f
    if st == 1 then { x := pred.1, y := pred.2, dx := 0, dy := 0, source := i, status := 1, reason := why, sat := false }
    else
      let x := cvt64 f.x 32 32
      let y := cvt64 f.y 32 32
      let dx := toSigned 16 (x.1 - intAt kp 0 4)
      let dy := toSigned 16 (y.1 - intAt kp 4 4)
      { x := x.1, y := y.1, dx := dx.1, dy := dy.1, source := i, status := st, reason := why, sat := dx.2 || dy.2 || x.2 || y.2 }

/-- The predictions of a block of R255, or the previous positions (R129). -/
def predictions (block : Option (List Byte)) (kps : List (List Byte)) : List (Int × Int) :=
  kps.zipIdx.map (fun e => match block with
    | some b => (intAt b (16 * e.2) 4, intAt b (16 * e.2 + 4) 4)
    | none => (intAt e.1 0 4, intAt e.1 4 4))

end Sys2Proof.Machine
end

