-- ==== Sys2Proof/Machine/Vision.lean ====
section
/-! DEFINITION. The steps of the vision engine and the gather unit (R114 to R117, R138 to R147, R561, R562) over the images, tracks and disparities that the
stages give. -/
namespace Sys2Proof.Machine

/-! ### The step -/

/-- The payload of the instance's item, as its DMA_IN step wrote it. -/
def itemPayload (g : Slot) (x : Inst) (it : Item) : List Byte :=
  match stepOf g.graph 1 with
  | some t => (t.outs.flatMap (rangeBytes g x)).take it.len
  | none => []

/-- The prediction block that an imaging step names: its first input range that holds no payload, whichever step or constant fills it (R129, R255). -/
def predictionBlock (g : Slot) (x : Inst) (t : GStep) : Option (List Byte) :=
  let payload := (g.graph.steps.filter (fun u => u.engine == 1)).flatMap (fun u => u.outs.flatMap rangeBlocks)
  (t.ins.find? (fun r => r.count != 0 && (r.shared || (rangeBlocks r).all (fun b => !payload.contains b)))).map (rangeBytes g x)

/-- What an imaging step makes of a frame. -/
structure ImagingOut where
  header : List Byte
  ids : List Nat
  kps : List (List Byte)
  tracks : List TrackRec
  descs : List Byte
  planes : List Byte
  images : List Byte
  /-- The expander's own output where a warp follows, and the right working image of a pair with its mask (R115). -/
  more : List Byte
  saturated : Bool
  deriving DecidableEq, Repr

/-- A keypoint record (R127). -/
def kpRecord (x y : Int) (level angle score track : Nat) : List Byte :=
  leInt 4 x ++ leInt 4 y ++ leBytes 1 level ++ leBytes 1 angle ++ leBytes 2 score ++ leBytes 2 track ++ [0, 0]

/-- The header of R147. -/
def imagingHeader (levels : Nat) (capped sat : Bool) (w h kps removed : Nat) (tr : List TrackRec) (start now : Nat) (st : List Nat) : List Byte :=
  let n (k : Nat) : Nat := (tr.filter (fun t => t.status == k)).length
  padTo 64 (leBytes 1 levels ++ leBytes 1 (b2n capped + 2 * b2n sat) ++ [0, 0] ++ leBytes 2 w ++ leBytes 2 h ++ leBytes 4 kps ++ leBytes 4 removed ++
    leBytes 4 tr.length ++ leBytes 4 (n 0) ++ leBytes 4 (n 1) ++ leBytes 4 (n 2) ++ leBytes 8 start ++ leBytes 8 now ++ st.flatMap (leBytes 4))

/-- The levels of the image carried over, with the size before it: the tracker's first pyramid (R130). -/
def carriedLevels (p image : List Byte) : List Level :=
  let w := fieldAt image 0 2
  let h := fieldAt image 2 2
  let n := w * h
  let m := bytesAt image (4 + n) ((n + 7) / 8)
  if image.isEmpty then []
  else levelsOf p { w := w, h := h, px := (bytesAt image 4 n).toArray, mask := ((List.range n).map (fun i => bit (m.getD (i / 8) 0).toNat (i % 8))).toArray }

/-- A level as the shelf holds it: its pixels, then its mask bits. -/
def Level.bytes (v : Level) : List Byte := v.px.toList ++ leBytes ((v.w * v.h + 7) / 8) (maskOf v.mask.toList)

/-- The stages of R115 over a checked payload. `prev` is the list carried over, `prevImage` its working image, `next` the next
keypoint's number. -/
def imaging (p : List Byte) (kind : Nat) (a b : Sensor) (q : Payload) (preds : Option (List Byte)) (prev : List (Nat × List Byte))
    (prevImage : List Byte) (next start now : Nat) : ImagingOut :=
  let luma (i : Nat) : List Byte := let f := q.frames.getD i []
    if q.jpeg then jpegLuma a.width a.height f else f
  let base := workImage p kind 0 a b (luma 0)
  let ls := levelsOf p base
  let kps := prev.map (·.2)
  let before := carriedLevels p prevImage
  let tr := if veStage p 4 then ((kps.zip (predictions preds kps)).zipIdx).map (fun e => trackRec p before ls e.2 e.1.1 e.1.2) else []
  let kept := tr.zipIdx.filter (fun e => e.1.status == 0)
  let cands := if veStage p 2 then ls.zipIdx.flatMap (fun e => levelCands p e.2 e.1) else []
  let (news, removed, capped) := selectKps p (kept.map (fun e => (e.1.x, e.1.y))) cands
  let spot (v : Int) (l : Nat) : Int := roundAway ((v : Rat) / 32 / (2 ^ l : Nat))
  let lvl (l : Nat) : Level := ls.getD l { w := 0, h := 0, px := #[], mask := #[] }
  let old := kept.map (fun e =>
    let l := fieldAt (kps.getD e.1.source []) 8 1
    let ang := patchAngle (lvl l) (spot e.1.x l) (spot e.1.y l)
    ((prev.getD e.1.source (0, [])).1, kpRecord e.1.x e.1.y l ang 0 e.2, descriptor (lvl l) (spot e.1.x l) (spot e.1.y l) ang))
  let new := news.zipIdx.map (fun e =>
    (next + e.2, kpRecord e.1.x e.1.y e.1.level e.1.angle e.1.score 0xFFFF, descriptor (lvl e.1.level) e.1.px e.1.py e.1.angle))
  let all := old ++ new
  let half := fieldAt p 0x16 1 == 1
  let right := workImage p kind 1 a b (luma 1)
  let planes := if kind == 2 && veStage p 5 then stereoPlanes p (if half then base.next else base) (if half then right.next else right) else []
  let depth := if kind == 3 then workDepth p a b q.depth else []
  let sat := (veStage p 2 && ls.any (fun v => (scores p v).any (·.2))) || tr.any (·.sat) || planes.any (fun e => e.2.2)
  { header := imagingHeader ls.length capped sat a.width a.height all.length removed tr start now [codes planes 0xFFFF, codes planes 0xFFFE, codes planes 0xFFFD]
    ids := all.map (·.1), kps := all.map (fun e => e.2.1), tracks := tr
    descs := if veStage p 3 then all.flatMap (fun e => e.2.2) else []
    planes := if kind == 3 then depth else planeBytes planes
    images := ls.flatMap Level.bytes
    more := (if veStage p 0 then (List.range (kindFrames kind)).flatMap luma ++ (if kind == 3 then q.depth else []) else []) ++
      (if kind == 2 then Level.bytes right else [])
    saturated := sat }

/-- The outputs of the step in its ranges: header, keypoints and track records in the first, planes or warped depth in the second,
descriptors in the third, the levels, then the expander's images and the right working image, in the fourth (which range holds which, beside the header's place, is a DESIGN CHOICE). -/
def Inst.putImaging (x : Inst) (t : GStep) (o : ImagingOut) : Inst :=
  let x := x.put (t.outR 0) 0 (o.header ++ o.kps.flatten ++ o.tracks.flatMap TrackRec.bytes)
  let x := if o.planes.isEmpty then x else x.put (t.outR 1) 0 o.planes
  let x := if o.descs.isEmpty then x else x.put (t.outR 2) 0 o.descs
  { x.put (t.outR 3) 0 (o.images ++ o.more) with kpIds := o.ids, saturated := x.saturated || o.saturated }

/-- The ties of the list that follows: a tracked point keeps its own, a new one starts at its pixel and instant; those of the reference view stay. -/
def nextTies (old : NMap Tie) (ref : List Nat) (o : ImagingOut) (frameAt : Option Int) : NMap Tie :=
  ((o.ids.zip o.kps).foldl (fun m e =>
    match NMap.get? old e.1 with
    | some t => NMap.set m e.1 { t with frames := t.frames + 1 }
    | none => NMap.set m e.1 { firstX := intAt e.2 0 4, firstY := intAt e.2 4 4, firstAt := frameAt }) (old.filter (fun t => ref.contains t.1)))

/-- The session's keypoint list becomes that of the frame (R164), a keyframe's also its reference view (R256). -/
def State.carryKeypoints (s : State) (sid : Nat) (keyframe : Bool) (o : ImagingOut) (frameAt : Option Int) : State :=
  s.modSess sid (fun y => { y with
    lastImage := bytesAt o.header 4 4 ++ o.images
    ctx := { y.ctx with
      keypoints := o.ids.zip o.kps, reference := if keyframe then o.ids.zip o.kps else y.ctx.reference
      ties := nextTies y.ctx.ties (y.ctx.reference.map (·.1)) o frameAt
      nextKp := y.ctx.nextKp + (o.ids.filter (fun i => decide (y.ctx.nextKp ≤ i))).length } })

/-- What an item's DMA_IN brought is taken back: the item does nothing of what it asked; the counters stand (R19, R117). -/
def State.untake (s : State) (sid : Nat) (x : Inst) : State :=
  let k := x.took
  let s := if k.first then s.modCtx sid (fun c => { c with clock := {} }) else s
  (s.modSess sid (fun y => { y with
    latePending := k.late.foldl (fun l e => l.erase e) y.latePending
    se := { y.se with
      samples := k.samples.foldl (fun l e => l.erase e) y.se.samples
      arrivals := match k.arrival with
        | some a => y.se.arrivals.erase a
        | none => y.se.arrivals
      stereo := match k.stereo with
        | some n => y.se.stereo.erase n
        | none => y.se.stereo } })).unadmit x

/-- The work of the step an engine runs is done; the step ends with STEP_ENDED. -/
def State.worked (s : State) (ch e : Nat) : State := s.modEngine ch e (fun g => { g with worked := true })

/-- The step an engine runs, of one engine code, its work not yet done and its inputs there. -/
def atWork (s : State) (ch e code : Nat) : Option (Nat × Inst × Slot × Nat × GStep) :=
  if !running s || ((chanAt s ch).engines.getD e {}).worked then none
  else (runningStep s ch e).filter (fun r => r.2.2.2.2.engine == code && streamReady r.2.1 r.2.2.2.2)

/-- The imaging step over the frames of its instance. -/
def State.runImaging (s : State) (ch i : Nat) (x : Inst) (g : Slot) (t : GStep) : State :=
  let start := ((chanAt s ch).engines.getD 0 {}).lastMove
  match itemOf s x, x.sid.bind (sessAt s) with
  | some (_, _, it), some y =>
    let a := x.calib.getD it.slot {}
    let b := x.calib.getD (it.slot + 1) {}
    let q := (parsePayload g.graph.kind a.width a.height (itemPayload g x it)).getD {}
    if (stepItems x t).1 = 0 then (s.modInst ch i (fun z => z.put (t.outR 0) 0 (imagingHeader 0 false false 0 0 0 0 [] start (dtOf s) [0, 0, 0]))).worked ch 0
    else if q.jpeg && q.frames.any jpegCorrupt then (s.untake it.sid x).endEarly ch i 0x11
    else
      let o := imaging t.param g.graph.kind a b q (predictionBlock g x t) y.ctx.keypoints y.lastImage y.ctx.nextKp start (dtOf s)
      let s := s.modInst ch i (fun z => z.putImaging t o)
      let s := if o.saturated then s.err1 (8 + ch) 0 255 it.sid else s
      (s.carryKeypoints it.sid it.keyframe o x.frameAt).worked ch 0
  | _, _ =>
    let o := imaging t.param g.graph.kind {} {} {} none [] [] 0 start (dtOf s)
    (s.modInst ch i (fun z => z.putImaging t o)).worked ch 0

def execImagingStep (ch : Nat) (shelf : ShelfFinding) (s : State) : Host.Outcome State Fault Refusal :=
  .next (match atWork s ch 0 2 with
    | none => s
    | some (i, x, g, _, t) =>
      let r := s.shelfRead ch i shelf
      if r.1 then r.2.runImaging ch i x g t else r.2)

/-! ### The hypothesise-and-verify step (R138 to R141, R561) -/

/-- What the step writes (R140): its parts in the rule's order, each after a gap that is the implementation's, as their widths are where the rule gives
none. -/
def hvBytes (n : Nat) (r : HvResult) : List Byte :=
  let parts := [leBytes 1 (b2n r.model), leBytes 4 r.hypotheses, leBytes 4 r.inliers.length,
    leBytes ((n + 7) / 8) (maskOf ((List.range n).map (r.inliers.contains ·))), r.bytes]
  (parts.zipIdx).flatMap (fun e => Config.numeric 70 (leBytes 1 e.2 ++ leBytes 2 n) ++ e.1)

/-- The working pinhole that a step's pixels belong to: that of the item's slots and the graph's imaging step; open where the graph has no frame. -/
def hvCam (s : State) (g : Slot) (x : Inst) (p : List Byte) : List F32 :=
  match itemOf s x, stepOf g.graph 2 with
  | some (_, _, it), some t => workCam t.param g.graph.kind (x.calib.getD it.slot {}) (x.calib.getD (it.slot + 1) {})
  | some (_, _, it), none => commonCam g.graph.kind (x.calib.getD it.slot {}) (x.calib.getD (it.slot + 1) {})
  | _, _ => f32sAt (padTo 16 (Config.numeric 83 p)) 0 4

/-- SEED in force: the arrival of the item for 0, and 1 in test mode 2 (R107, R139). -/
def hvSeed (s : State) (ch : Nat) (x : Inst) (p : HvParam) : HvParam :=
  if p.seed != 0 then p
  else { p with seed := if (chanAt s ch).testMode == 2 then 1 else BitVec.ofNat 32 x.arrival }

def execHypothesiseAndVerify (ch : Nat) (s : State) : Host.Outcome State Fault Refusal :=
  .next (match atWork s ch 0 3 with
    | none => s
    | some (i, x, g, _, t) =>
      let p := hvSeed s ch x (hvParamOf (hvCam s g x t.param) t.param)
      let n := (stepItems x t).1
      let b := rangeBytes g x (t.inR 0)
      let recs := (List.range n).map (fun k => bytesAt b (32 + hvRecord p.mode * k) (hvRecord p.mode))
      (s.modInst ch i (fun y => y.put (t.outR 0) 0 (hvBytes n (hvRun p recs)))).worked ch 0)

/-! ### The epipolar gather unit (R142 to R145, R562) -/

/-- A candidate of a query: the reference's index and its signed distance. -/
structure Gathered where
  idx : Nat
  dist : F32
  deriving DecidableEq, Repr

/-- By distance, then by the lower index. -/
def gatherBefore (a b : Gathered) : Bool :=
  decide (absQ (f32Val a.dist) < absQ (f32Val b.dist)) || (decide (absQ (f32Val a.dist) = absQ (f32Val b.dist)) && decide (a.idx ≤ b.idx))

/-- The candidates within a radius, by a distance in FP32. -/
def within (radius : Rat) (d : List Byte → F32) (refs : List (List Byte)) : List Gathered :=
  (refs.zipIdx.filter (fun r => f32IsFinite (d r.1) && decide (absQ (f32Val (d r.1)) ≤ radius))).map (fun r => { idx := r.2, dist := d r.1 })

/-- A keypoint's position, px. -/
def kpPos (k : List Byte) : Rat × Rat := ((intAt k 0 4 : Rat) / 32, (intAt k 4 4 : Rat) / 32)
/-- The distance of two positions, FP32. -/
def kpDist (a b : Rat × Rat) : F32 := f32Of (rootQ ((a.1 - b.1) ^ 2 + (a.2 - b.2) ^ 2))

/-- The candidate set of a query keypoint, with its flags (R142, R143). -/
def gatherQuery (mode w cap : Nat) (m : List Byte) (refs : List (List Byte)) (q : List Byte) : List Gathered × Nat :=
  let mat := matOf 3 3 (fun i j => f32Val (f32At m (4 * (3 * i + j))))
  let x := kpPos q
  let l := mat.app [x.1, x.2, 1]
  let a := l.getD 0 0
  let b := l.getD 1 0
  let c := l.getD 2 0
  let degenerate := mode == 0 && decide (a ^ 2 + b ^ 2 < c ^ 2 / 10 ^ 12)
  let line (r : List Byte) : F32 :=
    let y := kpPos r
    if a = 0 ∧ b = 0 then Config.numeric32 71 (bytesAt q 0 8 ++ m ++ bytesAt r 0 8) else f32Of ((a * y.1 + b * y.2 + c) / rootQ (a ^ 2 + b ^ 2))
  let disc (r : List Byte) : F32 :=
    if c = 0 then Config.numeric32 73 (bytesAt q 0 8 ++ m ++ bytesAt r 0 8) else kpDist (kpPos r) (a / c, b / c)
  let all :=
    if degenerate then within (8 * w) (fun r => kpDist (kpPos r) x) refs
    else if mode == 0 then within w line refs
    else within w disc refs
  let l := (sortBy gatherBefore all).take cap
  (l, b2n l.isEmpty + 2 * b2n (decide (cap < all.length)) + 4 * b2n degenerate)

/-- The header, the entries and the candidate array of R144. -/
def gatherBytes (sets : List (List Gathered × Nat)) : List Byte :=
  let entries := sets.foldl (fun (acc : List Byte × Nat) e =>
    (acc.1 ++ leBytes 4 acc.2 ++ leBytes 2 e.1.length ++ leBytes 1 e.2 ++ [0], acc.2 + e.1.length)) ([], 0)
  leBytes 4 sets.length ++ leBytes 4 entries.2 ++ entries.1 ++
    sets.flatMap (fun e => e.1.flatMap (fun c => leBytes 2 c.idx ++ leInt 2 (cvt32 c.dist 32 16).1))

def execEpipolarGather (ch : Nat) (s : State) : Host.Outcome State Fault Refusal :=
  .next (match atWork s ch 1 4 with
    | none => s
    | some (i, x, g, _, t) =>
      let list (r : Range) : List (List Byte) :=
        let b := rangeBytes g x r
        (List.range (min 8192 (fieldAt b 8 4))).map (fun k => bytesAt b (64 + 16 * k) 16)
      let qs := (list (t.inR 0)).take (stepItems x t).1
      let refs := list (t.inR 1)
      let m := (rangeBytes g x (t.inR 2)).take 36
      let ok := (f32sAt m 0 9).all f32IsFinite && !refs.isEmpty
      let sets := qs.map (fun q => if ok then gatherQuery (fieldAt t.param 0 1) (fieldAt t.param 1 1) (fieldAt t.param 2 2) m refs q else ([], 1))
      (s.modInst ch i (fun y => y.put (t.outR 0) 0 (gatherBytes sets))).worked ch 1)

end Sys2Proof.Machine
end

