-- ==== Sys2Proof/Machine/Fusion.lean ====
section
/-! DEFINITION. The step section of the fusion unit (R251 to R262, R272 to R289): PREDICT, GRID and TRACKS, with the drops of old batches.
Poses, projections, weights and filters are the rules' formulas in exact numbers, rounded once to the format a result is held in; a position's SIGMA and an
object's image disc have no formula in the spec and are open. -/
namespace Sys2Proof.Machine

/-! ### Shared -/

/-- The FU step of an OP that the step section runs. -/
def fuStep (s : State) (ch op : Nat) : Option (Nat × Inst × Slot × Nat × GStep) :=
  (atWork s ch 4 7).filter (fun r => fieldAt r.2.2.2.2.param 0 1 == op)

/-- Faulty values (R289): measurements dropped, and a saturation. -/
def State.fuFaults (s : State) (ch i sid bad : Nat) (sat : Bool) : State :=
  let s := s.bump (chanCtr ch 34) bad
  if sat then (s.modInst ch i (fun x => { x with saturated := true })).err1 (8 + ch) 5 255 sid else s

/-- The imaging parameters of a graph. -/
def imagingParam (g : Slot) : List Byte := ((stepOf g.graph 2).map (·.param)).getD []

/-- What a camera item's projections depend on: the sensor slots, the working camera and model. -/
structure View where
  kind : Nat
  param : List Byte
  a : Sensor
  b : Sensor
  deriving DecidableEq, Repr

/-- The working camera and its frame in the body (R119, R253). -/
def View.cam (v : View) : Cam := workingCam v.param v.kind v.a v.b
def View.mount (v : View) : Pose := workPose v.kind v.a v.b
/-- The view as the open results see it. -/
def View.bytes (v : View) : List Byte :=
  leBytes 1 v.kind ++ v.param ++ sensorBytes v.a ++ (if v.kind == 2 then sensorBytes v.b else [])
/-- The working image's validity. -/
def View.level (v : View) : Level := workImage v.param v.kind 0 v.a v.b []

/-- The view of an instance's item; none where it has none. -/
def viewOf (s : State) (g : Slot) (x : Inst) : Option View :=
  (itemOf s x).map (fun e => { kind := g.graph.kind, param := imagingParam g, a := x.calib.getD e.2.2.slot {}, b := x.calib.getD (e.2.2.slot + 1) {} })

/-- Depth and its deviation along the ray at a level-0 pixel, in planes of the imaging step (R252), before they are held in FP32; none where there is no point. -/
def depthAt (v : View) (planes : List Byte) (x y : Nat) : Option (Rat × Rat) :=
  if v.kind == 2 then
    let half := fieldAt v.param 0x16 1 == 1
    let w := if half then (v.a.width + 1) / 2 else v.a.width
    let h := if half then (v.a.height + 1) / 2 else v.a.height
    let o := if half then y / 2 * w + x / 2 else y * w + x
    let d := fieldAt planes (2 * o) 2
    if decide (0xFFFD ≤ d) || d == 0 || decide (fieldAt planes (2 * w * h + o) 1 < 16) then none
    else
      let fb := v.cam.fx * (v.b.pose.t.sub v.a.pose.t).norm
      let z := fb / ((d : Rat) / 32)
      some (z, z * z / 4 / fb)
  else if v.kind == 3 then
    let d := fieldAt planes (2 * (y * v.a.width + x)) 2
    if d == 0 then none
    else
      let z := (d : Rat) * f32Val v.b.depthScale
      some (z, 3 / 1000 * z * z)
  else none

/-- A point inside the disc of a footprint, positions in 1/32 px. -/
def inFoot (feet : List Byte) (x y : Int) : Bool :=
  (List.range 64).any (fun i =>
    let dx := x - intAt feet (16 * i) 4
    let dy := y - intAt feet (16 * i + 4) 4
    let r : Int := 32 * (fieldAt feet (16 * i + 8) 2 : Nat)
    decide (dx * dx + dy * dy < r * r))

/-! ### PREDICT (R254 to R256) -/

/-- The point a keypoint is tied to: its map point, else its session landmark. -/
def tiePoint (y : Session) (t : Tie) : Option (List F64) :=
  match t.point with
  | some p => some p
  | none => (t.landmark.bind (NMap.get? y.se.vars)).map (fun v => f64sAt v.2 0 3)

/-- The level-0 pixel at which a keypoint is predicted (R255): that of its point, or of its ray turned from the last accepted orientation; none where
it does not lie before the camera. -/
def predictedPixel (v : View) (pose : Pose) (before : Option Quat) (kp : List Byte) (point : Option (List F64)) : Option (Rat × Rat) :=
  match point with
  | some p => v.cam.project ((pose.mul v.mount).inv.app (v3Of (p.map f64Val))).as64
  | none => before.bind (fun q =>
    v.cam.project ((pose.r.mul v.mount.r).conj.turn ((q.mul v.mount.r).turn (v.cam.ray ((intAt kp 0 4 : Rat) / 32) ((intAt kp 4 4 : Rat) / 32)).as32).as32).as32)

/-- A prediction record of R255, and whether a value saturated. SIGMA, and the position of what is not before the camera, are open. -/
def predictionRecord (v : View) (pose : List Byte) (before : Option Quat) (feet : List Byte) (lvl : Level) (kp : List Byte)
    (point : Option (List F64)) : List Byte × Bool :=
  let arg := match point with
    | some p => leBytes 1 1 ++ f64Bytes p
    | none => leBytes 1 0 ++ bytesAt kp 0 8
  let b := padTo 24 (Config.numeric 101 (pose ++ v.bytes ++ arg))
  let q := (predictedPixel v (poseAt32 pose 0) before kp point).getD (f64Val (f64At b 0), f64Val (f64At b 8))
  let x := toSigned 32 (q.1 * 32)
  let y := toSigned 32 (q.2 * 32)
  let sg := toUnsigned 0xFFFF (f64Val (f64At b 16) * 32)
  let inside := lvl.valid (roundAway ((x.1 : Rat) / 32)) (roundAway ((y.1 : Rat) / 32))
  let fl := packBits [(b2n point.isSome, 0), (b2n (!inside), 1), (b2n (inFoot feet x.1 y.1), 2)]
  (padTo 16 (leInt 4 x.1 ++ leInt 4 y.1 ++ leBytes 2 sg.1 ++ leBytes 1 fl), x.2 || y.2 || sg.2)

/-- An entry of the reference table of R256. -/
def referenceEntry (t : Tie) (masked : Bool) : List Byte :=
  padTo 32 (f64Bytes (t.point.getD [0, 0, 0]) ++ leBytes 2 (t.landmark.getD 0xFFFF) ++ leBytes 1 (b2n t.point.isSome + 2 * b2n masked))

/-- Squared horizontal distance of a track from a position. -/
def trackDist2 (pos : List F64) (t : Track) : Rat := (vec32 t.x 0 - vec64 pos 0) ^ 2 + (vec32 t.x 1 - vec64 pos 1) ^ 2

/-- The footprints: nearest CONFIRMED OBJECT tracks first, within 30 m; and whether a value saturated. A track has no height, so its image disc is
open. -/
def footprints (pose view : List Byte) (ts : List Track) : List Byte × Bool :=
  let pos := f64sAt pose 0 3
  let near := sortBy (fun a b => decide (trackDist2 pos a ≤ trackDist2 pos b))
    (ts.filter (fun t => t.confirmed && t.client.isNone && decide (trackDist2 pos t ≤ 900)))
  let one (t : Track) : List Byte × Bool :=
    let b := padTo 24 (Config.numeric 103 (pose ++ view ++ f32Bytes (t.x ++ [t.radius])))
    let x := cvt64 (f64At b 0) 32 32
    let y := cvt64 (f64At b 8) 32 32
    let r := toUnsigned 0xFFFF (f64Val (f64At b 16))
    (padTo 16 (leInt 4 x.1 ++ leInt 4 y.1 ++ leBytes 2 r.1), x.2 || y.2 || r.2)
  let l := (near.take 64).map one
  (padTo 1024 (l.flatMap (·.1)), l.any (·.2))

/-- Key of a session's group. -/
def groupKey (y : Session) : Nat := 256 * y.owner + y.ctx.cfg.group

/-- PREDICT's items are the previous keypoints (R166, R254 to R256); the reference table is that of the session's previous keyframe. -/
def State.runPredict (s : State) (ch i : Nat) (x : Inst) (g : Slot) (t : GStep) : State :=
  match viewOf s g x, itemOf s x, x.sid.bind (sessAt s) with
  | some v, some (_, _, it), some y =>
    let c := x.peek.getD (workCtx s x)
    let at_ := toDt c.clock it.clientTime
    let pose := predictedPose c (if fieldAt t.param 1 1 == 1 then imusSince c y.se at_ else []) (bodyRate c (lastInertial y)) at_
    let before := c.solved.map (fun u => quatAt32 u.header 0x30)
    let lvl := v.level
    let feet := footprints pose v.bytes (NMap.getD s.core.fus.tracks (groupKey y) [])
    let tie (id : Nat) : Tie :=
      let t := NMap.getD y.ctx.ties id {}
      if s.core.map.inService then t else { t with point := none }
    let items := (stepItems x t).1
    let record (e : Nat × List Byte) : List Byte × Bool := predictionRecord v pose before feet.1 lvl e.2 (tiePoint y (tie e.1))
    let recs := (y.ctx.keypoints.take items).map record
    let table := (y.ctx.reference.take items).map (fun e => referenceEntry (tie e.1) (bit (fieldAt (record e).1 0xA 1) 2))
    let s := s.modInst ch i (fun x =>
      ((x.put (t.outR 0) 0 (recs.flatMap (·.1))).put (t.outR 1) 0 table.flatten).put (t.outR 2) 0 (if items = 0 then [] else feet.1))
    s.fuFaults ch i (x.sid.getD 0xFFFF) 0 (feet.2 || recs.any (·.2))
  | _, _, _ => s

def execPredict (ch : Nat) (s : State) : Host.Outcome State Fault Refusal :=
  .next (match fuStep s ch 1 with
    | none => s
    | some (i, x, g, _, t) => (s.runPredict ch i x g t).worked ch 4)

/-! ### GRID (R272 to R277) -/

/-- Features lifted to a ground cell: its row (north) and column (east) in units of 0.10 m, the weight, 64 FP8 values. -/
structure Lift where
  row : Int
  col : Int
  w : Rat
  f : List Byte
  deriving DecidableEq, Repr

/-- Index of a coordinate on the grid of 0.10 m cells. -/
def gridCell (v : Rat) : Int := (v * 10).floor
/-- Index of a coordinate on the raster of 12.8 m. -/
def gridTile (v : Rat) : Int := roundAway (v * 10 / 128)

/-- Depths of the pixels of an image cell's footprint. -/
def cellDepths (v : View) (planes : List Byte) (level u w : Nat) : List F32 :=
  let n := 8 * 2 ^ level
  (List.range (n * n)).filterMap (fun k =>
    let x := u * n + k % n
    let y := w * n + k / n
    if x < v.a.width && y < v.a.height then (depthAt v planes x y).map (fun d => f32Of d.1) else none)

/-- The median of measured depths; of an even count, the mean of the middle two or the lower one, as the unit has it. -/
def medianOf (l : List F32) : Rat :=
  let v := (sortBy (fun a b => decide (f32Val a ≤ f32Val b)) l).map f32Val
  let n := v.length
  if n % 2 == 1 then v.getD (n / 2) 0
  else if Config.convention 8 then (v.getD (n / 2 - 1) 0 + v.getD (n / 2) 0) / 2 else v.getD (n / 2 - 1) 0
/-- The softmax of logits, FP32. -/
def softmaxOf (l : List Rat) : List F32 :=
  let top := l.foldl max (l.headD 0)
  let e := l.map (fun x => expQ (x - top))
  e.map (fun x => f32Of (trim (x / sumQ e)))
/-- The bins of an image cell: weight and depth (R275). -/
def cellBins (logits : List Byte) (depths : List F32) : List (F32 × F32) :=
  if 16 ≤ depths.length then [(0x3F800000, f32Of (medianOf depths))]
  else (softmaxOf (logits.map e4m3Val)).zipIdx.map (fun e => (e.1, f32Of (1 / 2 * (5 / 4) ^ e.2)))

/-- What an image cell at (u, w) lifts; none where a value it reads is not finite (R289). -/
def liftCell (v : View) (p : List Byte) (pose : Pose) (planes cell : List Byte) (u w : Nat) : Option (List Lift) :=
  if cell.any e4m3Nan then none
  else
    let lv : Rat := (2 ^ fieldAt p 2 1 : Nat)
    let ray := (v.cam.ray ((8 * u + 7 / 2) * lv) ((8 * w + 7 / 2) * lv)).as32
    let bins := cellBins (bytesAt cell 64 16) (cellDepths v planes (fieldAt p 2 1) u w)
    some ((bins.filter (fun b => decide (1 / 64 ≤ f32Val b.1))).filterMap (fun b =>
      let q := ((pose.mul v.mount).app (V3.scale (f32Val b.2) ray)).as64
      let h := q.z - pose.t.z
      if decide (f32Val (f32At p 8) ≤ h) && decide (h ≤ f32Val (f32At p 0xC)) then
        some { row := gridCell q.y, col := gridCell q.x, w := f32Val b.1, f := bytesAt cell 0 64 }
      else none))

/-- Where a patch holds a cell (R272). -/
def cellKey (row col : Int) : Nat := 512 * (row % 512).toNat + (col % 512).toNat
/-- Whether a cell lies in a patch. -/
def Patch.covers (p : Patch) (row col : Int) : Bool :=
  decide (128 * p.north - 256 ≤ row) && decide (row < 128 * p.north + 256) && decide (128 * p.east - 256 ≤ col) && decide (col < 128 * p.east + 256)
/-- The cell of a patch that a key stands for. -/
def Patch.cellAt (p : Patch) (key : Nat) : Int × Int :=
  let lo (k : Int) (v : Nat) : Int := 128 * k - 256 + ((v : Int) - (128 * k - 256)) % 512
  (lo p.north (key / 512), lo p.east (key % 512))

/-- The patch follows the session (R272). -/
def Patch.follow (p : Patch) (pos : List F64) : Patch :=
  let off (k : Int) (v : Rat) : Bool := decide ((64 : Rat) / 5 < absQ (v - 64 / 5 * k))
  if off p.east (vec64 pos 0) || off p.north (vec64 pos 1) then
    let q := { p with east := gridTile (vec64 pos 0), north := gridTile (vec64 pos 1) }
    { q with cells := p.cells.filter (fun c => let e := p.cellAt c.1; q.covers e.1 e.2) }
  else p

/-- The age of a cell in windows. -/
def cellAge (window stamp : Nat) : Nat := (window + 256 - stamp % 256) % 256
/-- The weight a cell keeps (R276). -/
def keptWeight (window : Nat) (c : List Byte × Nat × Nat) : Rat :=
  let a := cellAge window c.2.2
  if 128 ≤ a then 0 else (c.2.1 : Rat) / 256 * (31 / 32) ^ a

/-- A touched cell takes what was lifted to it (R276); whether a feature saturated. -/
def touchCell (window : Nat) (c : List Byte × Nat × Nat) (ls : List Lift) : (List Byte × Nat × Nat) × Bool :=
  let w0 := keptWeight window c
  let sw := (ls.map (·.w)).foldl (· + ·) 0
  let fs := (List.range 64).map (fun k =>
    e4m3Of ((w0 * e4m3Val (c.1.getD k 0) + (ls.map (fun l => l.w * e4m3Val (l.f.getD k 0))).foldl (· + ·) 0) / (w0 + sw)))
  ((fs.map (·.1), (roundAway (min (w0 + sw) (65535 / 256) * 256)).toNat, window % 256), fs.any (·.2))

/-- Every 64 windows, cells of an age of 128 or more become empty (R276). -/
def Patch.sweep (p : Patch) (window : Nat) : Patch :=
  if (window + 2 ^ 32 - p.swept) % 2 ^ 32 < 64 then p
  else { p with swept := window, cells := p.cells.filter (fun c => decide (cellAge window c.2.2.2 < 128)) }

/-- The step's lifts enter a patch: the patch, the touched cells, whether a feature saturated. -/
def Patch.take (p : Patch) (window : Nat) (ls : List Lift) : Patch × List (Int × Int) × Bool :=
  let ls := ls.filter (fun l => p.covers l.row l.col)
  let touched := (ls.map (fun l => (l.row, l.col))).eraseDups
  touched.foldl (fun acc c =>
    let k := cellKey c.1 c.2
    let r := touchCell window (NMap.getD acc.1.cells k (List.replicate 64 0, 0, 0)) (ls.filter (fun l => l.row == c.1 && l.col == c.2))
    ({ acc.1 with cells := NMap.set acc.1.cells k r.1 }, acc.2.1 ++ [c], acc.2.2 || r.2)) (p, [], false)

/-- A dynamic cell (R277): sigmoid at a half is the logit at zero. -/
def dynamicCell (thr : Nat) (c : List Byte × Nat × Nat) : Bool :=
  decide (256 ≤ c.2.1) && decide (0 ≤ e4m3Val (c.1.getD 0 0)) && decide ((thr : Rat) / 255 * (1 + expQ (-e4m3Val (c.1.getD 1 0))) ≤ 1)

/-- Cells of a list that touch one of a frontier, by an edge or a corner. -/
def touching (l frontier : List (Int × Int)) : List (Int × Int) :=
  l.filter (fun c => frontier.any (fun d => decide ((c.1 - d.1).natAbs ≤ 1) && decide ((c.2 - d.2).natAbs ≤ 1)))
/-- A component grown from its frontier. -/
def flood (l : List (Int × Int)) : Nat → List (Int × Int) → List (Int × Int) → List (Int × Int)
  | 0, _, seen => seen
  | n + 1, frontier, seen =>
    let next := (touching l frontier).filter (fun c => !seen.contains c)
    if next.isEmpty then seen else flood l n next (seen ++ next)
/-- The 8-connected components of a list of cells. -/
def components : Nat → List (Int × Int) → List (List (Int × Int))
  | 0, _ => []
  | n + 1, l =>
    match l with
    | [] => []
    | c :: _ =>
      let k := flood l l.length [c] [c]
      k :: components n (l.filter (fun d => !k.contains d))

/-- The observation of a component (R277), with the east–north block of the solved pose's covariance. -/
def observation (header : List Byte) (k : List (Int × Int)) : Obs :=
  let n : Rat := k.length
  let e := k.map (fun c => ((c.2 : Rat) + 1 / 2) / 10)
  let m := k.map (fun c => ((c.1 : Rat) + 1 / 2) / 10)
  let ce := sumQ e / n
  let cn := sumQ m / n
  let de := e.map (· - ce)
  let dn := m.map (· - cn)
  let dot (a b : List Rat) : Rat := sumQ ((a.zip b).map (fun p => p.1 * p.2)) / n
  let cov (i : Nat) : Rat := f32Val (f32At header (0x58 + 4 * i))
  let r2 := ((de.zip dn).map (fun p => p.1 ^ 2 + p.2 ^ 2)).foldl max 0
  { z := [f32Of ce, f32Of cn], r := [f32Of (dot de de + 1 / 1200 + cov 0), f32Of (dot de dn + cov 1), f32Of (dot dn dn + 1 / 1200 + cov 6)]
    radius := f32Of (sqrtQ r2) }

/-- The observations of a step, largest component first up to OBS_CAP, and how many were left. -/
def observations (p header : List Byte) (pt : Patch) (touched : List (Int × Int)) : List Obs × Nat :=
  let dyn := touched.filter (fun c => dynamicCell (fieldAt p 3 1) (NMap.getD pt.cells (cellKey c.1 c.2) ([], 0, 0)))
  let ks := (components dyn.length dyn).filter (fun k => decide (fieldAt p 4 2 ≤ k.length))
  let l := sortBy (fun a b => decide (b.length ≤ a.length)) ks
  ((l.take (fieldAt p 6 2)).map (observation header), l.length - fieldAt p 6 2)

/-- The crop of 128 × 128 cells around a position (R276). -/
def cropOf (window : Nat) (pt : Patch) (pos : List F64) : List Byte :=
  let r0 := gridCell (vec64 pos 1) - 64
  let c0 := gridCell (vec64 pos 0) - 64
  (List.range 16384).flatMap (fun k =>
    let r := r0 + (k / 128 : Nat)
    let c := c0 + (k % 128 : Nat)
    match NMap.get? pt.cells (cellKey r c) with
    | some e => if pt.covers r c && decide (keptWeight window e ≠ 0) then padTo 64 e.1 else List.replicate 64 0
    | none => List.replicate 64 0)

/-- The slot a session's patch stands in, or takes: a free one, or the least recently touched that has been idle for 10,000 ms (R274). -/
def gridSlot (s : State) (sid : Nat) : Option Nat :=
  let f := s.core.fus
  match f.patches.find? (fun p => p.2.sid == sid) with
  | some p => some p.1
  | none =>
    match NMap.lowestFree f.patches f.patchSlots with
    | some k => some k
    | none =>
      match minBy (fun k => ((NMap.get? f.patches k).map (·.touched)).getD 0) (f.patches.map (·.1)) with
      | some k => if ((NMap.get? f.patches k).map (·.touched)).getD 0 + 10000000000 ≤ dtOf s then some k else none
      | none => none

def State.runGrid (s : State) (ch i : Nat) (x : Inst) (g : Slot) (t : GStep) : State :=
  let c := workCtx s x
  match viewOf s g x, x.sid.bind (fun n => (sessAt s n).map (fun y => (n, y))), c.solved with
  | some v, some (sid, y), some sv =>
    let pos := f64sAt sv.header 0x18 3
    let window := c.window.toNat
    let planes := match stepOf g.graph 2 with
      | some u => rangeBytes g x (u.outR 1)
      | none => []
    let map := rangeBytes g x (t.inR 0)
    let lw := ((List.range (fieldAt t.param 2 1)).foldl (fun n _ => (n + 1) / 2) v.a.width) / 8
    let lh := ((List.range (fieldAt t.param 2 1)).foldl (fun n _ => (n + 1) / 2) v.a.height) / 8
    let lifts := (List.range (if (stepItems x t).1 = 0 then 0 else lw * lh)).map (fun k => liftCell v t.param (poseAt32 sv.header 0x18) planes (bytesAt map (80 * k) 80) (k % lw) (k / lw))
    let bad := (lifts.filter (·.isNone)).length
    match gridSlot s sid with
    | none => (s.bump (chanCtr ch 28) 1).fuFaults ch i sid bad false
    | some k =>
      let fresh : Patch :=
        { sid := sid, east := gridTile (vec64 pos 0), north := gridTile (vec64 pos 1), touched := dtOf s, swept := window }
      let old := match NMap.get? s.core.fus.patches k with
        | some p => if p.sid == sid then p.follow pos else fresh
        | none => fresh
      let r := (old.sweep window).take window (lifts.flatMap (fun l => l.getD []))
      let pt := { r.1 with touched := dtOf s }
      let o := observations t.param sv.header pt r.2.1
      let b : ObsBatch := { chan := ch, sid := sid, t := fieldAt sv.header 0x10 8, obs := o.1 }
      let s := s.modFus (fun f => { f with
        patches := NMap.set f.patches k pt
        obsQ := if o.1.isEmpty then f.obsQ else NMap.set f.obsQ (groupKey y) (NMap.getD f.obsQ (groupKey y) [] ++ [b]) })
      let s := if fieldAt t.param 0x19 1 == 1 then s.modInst ch i (fun z => z.put (t.outR 1) 0 (cropOf window pt pos)) else s
      (s.bump (chanCtr ch 29) o.2).fuFaults ch i sid bad r.2.2
  | _, _, _ => s

def execGrid (ch : Nat) (s : State) : Host.Outcome State Fault Refusal :=
  .next (match fuStep s ch 2 with
    | none => s
    | some (i, x, g, _, t) => (s.runGrid ch i x g t).worked ch 4)

/-! ### The assignment (R281, R282) -/

/-- Costs of a batch: a row's cost for each track column, none where the pair is absent. -/
abbrev Costs := List (List (Option Int))
/-- The miss: round(9.21 · 65,536). -/
def missCost : Int := 603587

/-- The state of R282: potentials of the columns (private columns after the tracks), and the row each column has. -/
structure Assign where
  v : List Int
  row : List (Option Nat)
  deriving DecidableEq, Repr

/-- Cost of a row at a column of `m` track columns; the private column of row r is m + r. -/
def costAt (cs : Costs) (m r j : Nat) : Option Int :=
  if j < m then (cs.getD r []).getD j none else if j == m + r then some missCost else none

/-- The column not done of least distance, the lower index on a tie. -/
def leastCol (dist : List (Option Int)) (done : List Nat) : Option Nat :=
  dist.zipIdx.foldl (fun (b : Option Nat) e =>
    match e.1 with
    | none => b
    | some d =>
      if done.contains e.2 then b
      else match b with
        | none => some e.2
        | some k => match dist.getD k none with
          | some dk => if d < dk then some e.2 else b
          | none => some e.2) none

/-- The search of one row: distances, previous rows and done columns, until a column has no row. -/
def searchPath (cs : Costs) (m : Nat) (a : Assign) :
    Nat → List (Option Int) → List Nat → List Nat → Option (Nat × Int × List (Option Int) × List Nat × List Nat)
  | 0, _, _, _ => none
  | n + 1, dist, prev, done =>
    match leastCol dist done with
    | none => none
    | some j =>
      let mu := (dist.getD j none).getD 0
      let done := done ++ [j]
      match a.row.getD j none with
      | none => some (j, mu, dist, prev, done)
      | some k =>
        let uk := (costAt cs m k j).getD 0 - a.v.getD j 0
        let upd := (List.range dist.length).map (fun l =>
          let old := (dist.getD l none, prev.getD l 0)
          match costAt cs m k l with
          | none => old
          | some c =>
            if done.contains l then old
            else
              let t := mu + c - a.v.getD l 0 - uk
              match old.1 with
              | some d => if t < d then (some t, k) else old
              | none => (some t, k))
        searchPath cs m a n (upd.map (·.1)) (upd.map (·.2)) done

/-- Gives the columns along the path to their rows, from the end back to row r. -/
def flipPath (r : Nat) (prev : List Nat) : Nat → Nat → List (Option Nat) → List (Option Nat)
  | 0, _, row => row
  | n + 1, j, row =>
    let k := prev.getD j 0
    let held := (row.findIdx? (· == some k)).getD j
    let row := setAt row j (some k)
    if k == r then row else flipPath r prev n held (if held == j then row else setAt row held none)

/-- One row of R282. -/
def assignRow (cs : Costs) (m n : Nat) (a : Assign) (r : Nat) : Assign :=
  let dist := (List.range (m + n)).map (fun j => (costAt cs m r j).map (fun c => c - a.v.getD j 0))
  match searchPath cs m a (m + n + 1) dist (List.replicate (m + n) r) [] with
  | none => a
  | some (j, mu, dist, prev, done) =>
    { v := a.v.zipIdx.map (fun e => if done.contains e.2 && e.2 != j then e.1 + (dist.getD e.2 none).getD 0 - mu else e.1)
      row := flipPath r prev (m + n + 1) j a.row }

/-- The assignment: for each row, the track column it has, or none for its private column. -/
def assignment (cs : Costs) (m : Nat) : List (Option Nat) :=
  let n := cs.length
  let a := (List.range n).foldl (assignRow cs m n) { v := List.replicate (m + n) 0, row := List.replicate (m + n) none }
  (List.range n).map (fun r => (a.row.findIdx? (· == some r)).filter (fun j => decide (j < m)))

/-! ### TRACKS (R278 to R285) -/

/-- A track predicted to an instant (R280): state and covariance. -/
def predictTrack (q : F32) (t : Track) (at_ : Nat) : List Rat × Mat :=
  let d : Rat := (((at_ : Int) - t.updated : Int) : Rat) / 10 ^ 9
  let f : Mat := [[1, 0, d, 0], [0, 1, 0, d], [0, 0, 1, 0], [0, 0, 0, 1]]
  let a := d ^ 3 / 3
  let b := d ^ 2 / 2
  let noise : Mat := Mat.by (f32Val q) [[a, 0, b, 0], [0, a, 0, b], [b, 0, d, 0], [0, b, 0, d]]
  let p := matOf 4 4 (fun i j => vec32 t.p (4 * i + j))
  (f.app (t.x.map f32Val), ((f.times p).times (Mat.tr f)).plus noise)

/-- The innovation of an observation and its covariance S. -/
def innovation (o : Obs) (g : List Rat × Mat) : List Rat × Mat :=
  let r : Mat := [[vec32 o.r 0, vec32 o.r 1], [vec32 o.r 1, vec32 o.r 2]]
  ([vec32 o.z 0 - g.1.getD 0 0, vec32 o.z 1 - g.1.getD 1 0], (matOf 2 2 (matAt g.2)).plus r)

/-- The cost of an observation at a track; a singular S fails the gate (R281, R289). -/
def pairCost (q : F32) (o : Obs) (at_ : Nat) (t : Track) : Option Int :=
  let n := innovation o (predictTrack q t at_)
  match mahalanobis n.2 n.1 with
  | some d2 => if d2 ≤ 921 / 100 then some (roundAway (d2 * 65536)) else none
  | none => none

/-- An observation updates a track (R280): the gain in FP32, the covariance in the Joseph form; none where S is singular; whether a value
saturated. -/
def updateTrack (q : F32) (o : Obs) (at_ hitsMin : Nat) (t : Track) : Option (Track × Bool) :=
  let g := predictTrack q t at_
  let n := innovation o g
  n.2.inv.map (fun si =>
    let h : Mat := [[1, 0, 0, 0], [0, 1, 0, 0]]
    let k : Mat := ((g.2.times (Mat.tr h)).times si).map (fun r => r.map (fun v => f32Val (f32Of v)))
    let a := (matId 4).plus (Mat.by (-1) (k.times h))
    let r : Mat := [[vec32 o.r 0, vec32 o.r 1], [vec32 o.r 1, vec32 o.r 2]]
    let x := g.1.zipWith (· + ·) (k.app n.1)
    let p := (((a.times g.2).times (Mat.tr a)).plus ((k.times r).times (Mat.tr k))).flatten
    let u : Track := { t with x := x.map f32Of, p := p.map f32Of, radius := o.radius, hits := t.hits + 1 }
    ({ u with confirmed := u.confirmed || decide (hitsMin ≤ u.hits), updated := at_ }, (x ++ p).any (fun v => decide (pow2 128 - pow2 103 ≤ absQ v))))

/-- What a cycle has done: the table, clients seen, tracks that found no room, bad updates, a saturation. -/
structure TrackRun where
  table : List Track
  seen : Nat := 0
  full : Nat := 0
  bad : Nat := 0
  sat : Bool := false
  deriving DecidableEq, Repr

/-- A new track joins a table of 256: full, it replaces the oldest TENTATIVE one (R284). -/
def addTrack (t : Track) (r : TrackRun) : TrackRun :=
  if r.table.length < 256 then { r with table := r.table ++ [t] }
  else
    match minBy (fun k => ((r.table[k]?).map (·.born)).getD 0) ((List.range r.table.length).filter (fun k =>
      match r.table[k]? with
      | some u => !u.confirmed && u.client.isNone
      | none => false)) with
    | some k => { r with table := setAt r.table k t }
    | none => { r with full := r.full + 1 }

/-- A TENTATIVE track from an observation. -/
def newTrack (o : Obs) (at_ now : Nat) : Track :=
  let z : F32 := 0
  let v := f32Of 25
  { x := o.z ++ [z, z]
    p := [o.r.getD 0 0, o.r.getD 1 0, z, z, o.r.getD 1 0, o.r.getD 2 0, z, z, z, z, v, z, z, z, z, v]
    radius := o.radius, updated := at_, born := now }

/-- One batch (R281, R284). -/
def trackBatch (p : List Byte) (now : Nat) (r : TrackRun) (b : ObsBatch) : TrackRun :=
  let q := f32At p 0x10
  let rows := (b.obs.take 256).filter (fun o => (o.z ++ o.r ++ [o.radius]).all f32IsFinite)
  let cols := (r.table.zipIdx.filter (fun e => e.1.client != some b.sid)).take 256
  let cs := rows.map (fun o => cols.map (fun e => pairCost q o b.t e.1))
  let got := rows.zip ((assignment cs cols.length).map (fun j => j.bind (fun k => (cols[k]?).map (·.2))))
  let r := { r with bad := r.bad + ((b.obs.take 256).length - rows.length) }
  let r := got.foldl (fun r e => match e.2 with
    | none => r
    | some k => match r.table[k]? with
      | none => r
      | some t =>
        if t.client.isSome then { r with seen := r.seen + 1 }
        else match updateTrack q e.1 b.t (fieldAt p 0x18 1) t with
          | none => { r with bad := r.bad + 1 }
          | some (u, sat) => { r with table := setAt r.table k u, sat := r.sat || sat }) r
  got.foldl (fun r e => if e.2.isNone then addTrack (newTrack e.1 b.t now) r else r) r

/-- The sessions of a group whose last accepted state used radio factors (R285). -/
def radioSessions (s : State) (key : Nat) : List (Nat × Solved) :=
  (groupSessions s (key / 256) (key % 256)).filterMap (fun p => match p.2.ctx.solved with
    | some v => if bit (fieldAt v.fusion 0 4) 4 || bit (fieldAt v.fusion 0 4) 5 then some (p.1, v) else none
    | none => none)

/-- The CLIENT track of a session as its last accepted state gives it, at that state's instant; the spec gives the state no covariance of its velocity
and a client no radius: they are open. -/
def clientTrack (now : Nat) (e : Nat × Solved) : Track :=
  let h := e.2.header
  let b := padTo 60 (Config.numeric 113 h)
  let p := (List.range 16).map (fun k =>
    if k == 0 then f32At h 0x58 else if k == 1 || k == 4 then f32At h 0x5C else if k == 5 then f32At h 0x70 else f32At b (4 * k - 4))
  let x := (f64sAt h 0x18 2).map (fun v => f32Of (f64Val v)) ++ f32sAt h 0x40 2
  { x := x, p := p, client := some e.1, radius := f32At b 0, confirmed := true, updated := fieldAt h 0x10 8, born := now }

/-- CLIENT tracks are refreshed, and tracks not updated in their time deleted (R284, R285). -/
def refreshTracks (s : State) (key : Nat) (p : List Byte) (table : List Track) : TrackRun :=
  let now := dtOf s
  let cs := radioSessions s key
  let kept := table.map (fun t => match t.client with
    | some n => match cs.find? (fun e => e.1 == n) with
      | some e => { clientTrack now e with born := t.born }
      | none => t
    | none => t)
  let r := (cs.filter (fun e => !table.any (fun t => t.client == some e.1))).foldl (fun r e => addTrack (clientTrack now e) r) { table := kept }
  let limit (t : Track) : Nat := 1000000 * (if t.confirmed then fieldAt p 0x14 2 else fieldAt p 0x16 2)
  { r with table := r.table.filter (fun t => decide (now < t.updated + limit t)) }

def State.runTracks (s : State) (ch i : Nat) (x : Inst) (t : GStep) : State :=
  match x.origin with
  | .cycleTrack key =>
    let q := NMap.getD s.core.fus.obsQ key []
    let r := (q.take 64).foldl (trackBatch t.param (dtOf s)) (refreshTracks s key t.param (NMap.getD s.core.fus.tracks key []))
    let s := s.modFus (fun f => { f with
      tracks := NMap.set f.tracks key r.table
      obsQ := if q.length ≤ 64 then NMap.erase f.obsQ key else NMap.set f.obsQ key (q.drop 64) })
    let s := ((s.bump (chanCtr ch 31) (q.length - 64)).bump (chanCtr ch 32) r.seen).bump (chanCtr ch 33) r.full
    s.fuFaults ch i 0xFFFF r.bad r.sat
  | _ => s

def execTracks (ch : Nat) (s : State) : Host.Outcome State Fault Refusal :=
  .next (match fuStep s ch 4 with
    | none => s
    | some (i, x, _, _, t) => (s.runTracks ch i x t).worked ch 4)

/-- A group without a tracking-cycle event loses its batches older than 1,000 ms (R279). -/
def tracksCycle (s : State) (ctx group : Nat) : Bool :=
  s.core.air.events.any (fun e => e.2.action == 2 && bits e.2.arg 15 8 == ctx && bits e.2.arg 7 0 == group && bits e.2.arg 30 24 != 0x7F)

def execObsExpire (ctx group : Nat) (s : State) : Host.Outcome State Fault Refusal :=
  .next (
    let key := 256 * ctx + group
    let q := NMap.getD s.core.fus.obsQ key []
    let old := q.filter (fun b => decide (b.t + 1000000000 < dtOf s))
    if running s && !tracksCycle s ctx group && !old.isEmpty then
      let rest := q.filter (fun b => decide (dtOf s ≤ b.t + 1000000000))
      let s := s.modFus (fun f => { f with obsQ := if rest.isEmpty then NMap.erase f.obsQ key else NMap.set f.obsQ key rest })
      old.foldl (fun s b => s.bump (chanCtr b.chan 30) 1) s
    else s)

end Sys2Proof.Machine
end

