-- ==== Sys2Proof/Machine/Layers.lean ====
section
/-! DEFINITION. The layers of tensor programs (R174 to R187, R200 to R204): operands, sums in the arrays' order, the vector unit's functions, conversion to
an output's format. Where a layer's PARAM, its weights and a convolution's taps stand in their bytes the spec does not say: they are read through open
functions of those bytes alone. -/
namespace Sys2Proof.Machine

/-! ### Programs and tensors (R184 to R186) -/

/-- Entries of the tables of a program. -/
def progTensor (p : List Byte) (i : Nat) : List Byte := bytesAt p (fieldAt p 0x10 4 + 32 * i) 32
def progLayers (p : List Byte) : List (List Byte) := (List.range (fieldAt p 6 2)).map (fun i => bytesAt p (fieldAt p 0xC 4 + 64 * i) 64)
/-- Elements and bytes of a tensor. -/
def tensorCount (e : List Byte) : Nat := ((List.range (min 4 (fieldAt e 1 1))).map (fun i => fieldAt e (4 + 4 * i) 4)).foldl (· * ·) 1
def tensorBytes (e : List Byte) : Nat := (tensorCount e * formatBits (fieldAt e 0 1) + 7) / 8

/-- A value as the arrays take it: a NaN, an integer, or FP32 that is neither subnormal nor infinite (R181). -/
inductive Elem where
  | nan
  | int (v : Int)
  | fp (b : F32)
  deriving DecidableEq, Repr

def Elem.isNan : Elem → Bool
  | .nan => true
  | .int _ => false
  | .fp _ => false
def Elem.q : Elem → Rat
  | .nan => 0
  | .int v => v
  | .fp b => f32Val b
/-- The sign, a zero's too. -/
def Elem.neg : Elem → Bool
  | .nan => false
  | .int v => decide (v < 0)
  | .fp b => f32Neg b
/-- As an FP32 operand. -/
def Elem.f32 : Elem → F32
  | .nan => nan32
  | .int v => f32Of v
  | .fp b => b

def elem32 (b : F32) : Elem := if f32IsNan b then .nan else .fp (tameF32 b)
/-- A number in FP32, the sign of a zero given. -/
def elemQ (q : Rat) (neg : Bool) : Elem := .fp (if q = 0 && neg then 0x80000000 else f32Of q)
/-- An element of a format (R175, R181): unsigned pixels less 128, complex samples as BF16 pairs. -/
def elemAt (fmt : Nat) (b : List Byte) (i : Nat) : Elem :=
  let byte : Byte := b.getD i 0
  match fmt with
  | 1 => .int (intAt b i 1)
  | 2 => if e4m3Nan byte then .nan else elemQ (e4m3Val byte) (bit byte.toNat 7)
  | 3 => if e5m2Nan byte then .nan else elemQ (e5m2Val byte) (bit byte.toNat 7)
  | 4 => elem32 (BitVec.ofNat 32 (fieldAt b (2 * i) 2 * 65536))
  | 5 => elem32 (f32At b (4 * i))
  | 6 => .int (intAt b (4 * i) 4)
  | 8 => .int (byte.toNat - 128)
  | 9 => .fp (bf16Of (f32Of (intAt b (2 * i) 2))).1
  | _ => .int 0
def elemsOf (e b : List Byte) : Array Elem :=
  ((List.range (if fieldAt e 0 1 == 9 then 2 * tensorCount e else tensorCount e)).map (elemAt (fieldAt e 0 1) b)).toArray
/-- A NaN in a tensor of a floating-point format (R181). -/
def tensorNan (e b : List Byte) : Bool := (elemsOf e b).any (·.isNan)

/-! ### Sums and functions (R174, R177, R179, R183) -/

/-- A result of the arrays or the vector unit: its value, and whether it saturated. -/
abbrev Got := Elem × Bool
/-- A result rounded to FP32 (R181), the sign of a zero given. -/
def got32 (q : Rat) (neg : Bool := false) : Got :=
  let r := roundF32 q
  (.fp (if q = 0 && neg then 0x80000000 else r.1), r.2)
/-- A result that any NaN among its operands makes NaN. -/
def gotOf (l : List Elem) (g : Got) : Got := if l.any (·.isNan) then (.nan, false) else g
def Elem.add (a b : Elem) : Got := gotOf [a, b] (got32 (a.q + b.q) (a.neg && b.neg))
def Elem.mul (a b : Elem) : Got := gotOf [a, b] (got32 (a.q * b.q) (a.neg != b.neg))

/-- The products of a sum by k; none where a sparse weight stores no value. -/
abbrev Terms := List (Option (Elem × Elem))
def termNan (l : Terms) : Bool := l.any (fun e => match e with
  | some p => p.1.isNan || p.2.isNan
  | none => false)
/-- A sum of products in FP32: passes of at most 2,048 steps of k in ascending order, then their sums in that order. -/
def sumF32 (l : Terms) : Got :=
  if termNan l then (.nan, false)
  else
    let pass (c : Terms) : F32 × Bool := (c.filterMap id).foldl (fun acc e => macF32 acc e.1.f32 e.2.f32) (0, false)
    let passes := (chunksOf 2048 l.length l).map pass
    let r := passes.tail.foldl addF32 (passes.headD (0, false))
    (.fp r.1, r.2)
/-- The same in INT32, which saturates. -/
def sumI32 (l : Terms) : Int × Bool :=
  let pass (c : Terms) : Int × Bool := (c.filterMap id).foldl (fun acc e => addI32 acc (roundAway (e.1.q * e.2.q))) (0, false)
  (chunksOf 2048 l.length l).foldl (fun acc c => let p := pass c; let r := addI32 acc p.1; (r.1, r.2 || p.2)) (0, false)
/-- INT4 weights: each group of 32 is summed in INT32, made FP32, multiplied by its scale, and added to the pass's accumulator in ascending order. -/
def sumGroups (scale : Nat → Elem) (l : Terms) : Got :=
  let groups := (chunksOf 32 l.length l).zipIdx
  if groups.any (fun g => (scale g.2).isNan) then (.nan, false)
  else
    let pass (c : List (Terms × Nat)) : F32 × Bool := c.foldl (fun acc g =>
      let s := sumI32 g.1
      let p := (Elem.int s.1).mul (scale g.2)
      addF32 acc (p.1.f32, s.2 || p.2)) (0, false)
    let passes := (chunksOf 64 groups.length groups).map pass
    let r := passes.tail.foldl addF32 (passes.headD (0, false))
    (.fp r.1, r.2)

/-- The vector unit's functions, within the units in the last place that R183 allows; `arg` names the open draw. -/
def vec4 (arg : List Byte) (q : Rat) : Rat := f32Val (ulpsF32 4 (Config.numericNat 99 arg) q)
def vec2 (arg : List Byte) (q : Rat) : Rat := f32Val (ulpsF32 2 (Config.numericNat 99 arg) q)
def sigmoidQ (x : Rat) : Rat := trim (1 / (1 + expQ (-x)))
def tanhQ (x : Rat) : Rat :=
  if absQ x < pow2 (-40) then x
  else
    let e := expQ (2 * min x 200)
    trim ((e - 1) / (e + 1))
/-- ACT of R186; GELU in its tanh form, x/2·(1 + tanh y) = x·sigmoid(2y). -/
def actOf (act : Nat) (arg : List Byte) (x : Rat) : Rat :=
  match act with
  | 1 => max 0 x
  | 2 => vec4 arg (trim (x * sigmoidQ (2 * rootQ (2 / piQ) * (x + 44715 / 1000000 * x ^ 3))))
  | 3 => vec4 arg (trim (x * sigmoidQ x))
  | 4 => vec4 arg (sigmoidQ x)
  | 5 => vec4 arg (tanhQ x)
  | _ => x
/-- A softmax in FP32. -/
def softmax32 (arg : List Byte) (l : List Rat) : List Rat :=
  let top := l.foldl max (l.headD 0)
  let e := l.zipIdx.map (fun x => vec4 (leBytes 2 x.2 ++ arg) (expQ (x.1 - top)))
  let z := f32Val (f32Of (sumQ e))
  e.zipIdx.map (fun x => vec2 (leBytes 3 x.2 ++ arg) (x.1 / z))

/-! ### Conversion to an output (R182) -/

/-- An output element's bytes, whether a NaN became an integer, whether it saturated. -/
def outElem (fmt : Nat) (scale bias : Elem) (e : Elem) : List Byte × Bool × Bool :=
  if e.isNan || ((fmt == 1 || fmt == 6) && (scale.isNan || bias.isNan)) then
    (if fmt == 1 then ([0], true, false) else if fmt == 6 then (leBytes 4 0, true, false)
     else (if fmt == 5 then leBytes 4 0x7FC00000 else if fmt == 4 then leBytes 2 0x7FC0 else [0x7F], false, false))
  else
    match fmt with
    | 1 => let r := toSigned 8 (e.q * scale.q + bias.q); (leInt 1 r.1, false, r.2)
    | 2 => let r := e4m3Of e.q; ([if e.q = 0 && e.neg then 0x80 else r.1], false, r.2)
    | 3 => let r := e5m2Of e.q; ([if e.q = 0 && e.neg then 0x80 else r.1], false, r.2)
    | 4 => let r := bf16Of e.f32; (leBytes 2 (r.1.toNat / 65536), false, r.2)
    | 6 => let r := toSigned 32 (e.q * scale.q + bias.q); (leInt 4 r.1, false, r.2)
    | _ => (leBytes 4 e.f32.toNat, false, false)

/-! ### A layer's operands -/

/-- A layer: its entry, the entries of its tensors, its weights, and its inputs. -/
structure LayerIn where
  layer : List Byte
  shapes : List (List Byte)
  out : List Byte
  weights : List Byte
  ins : List (List Byte)
  deriving DecidableEq, Repr

/-- The bytes that fix where a layer's weights and parameters stand. -/
def LayerIn.key (x : LayerIn) : List Byte := x.layer ++ x.shapes.flatten ++ x.out
def LayerIn.shape (x : LayerIn) (i : Nat) : List Byte := x.shapes.getD i []
def LayerIn.elems (x : LayerIn) (i : Nat) : Array Elem := elemsOf (x.shape i) (x.ins.getD i [])
def LayerIn.paramNat (x : LayerIn) (i : Nat) : Nat := layerNat x.layer i
def LayerIn.param32 (x : LayerIn) (i : Nat) : Rat := layer32 x.layer i
def LayerIn.draw (x : LayerIn) (o : Nat) : List Byte := leBytes 4 o ++ x.key ++ x.weights ++ x.ins.flatten
/-- An element of an input; zero beyond it. -/
def elemOr0 (a : Array Elem) (i : Option Nat) : Elem := match i with
  | some i => a.getD i (.int 0)
  | none => .int 0

/-- The format of the weights (R175): INT4 beside an entry of FORMAT 7, else the activation's own; which FP8 variant is open. -/
def LayerIn.weightFormat (x : LayerIn) : Nat :=
  let f := formatClass (fieldAt (x.shape 0) 0 1)
  if x.shapes.any (fun e => fieldAt e 0 1 == 7) then 7
  else if f == 2 then 2 + Config.numericNat 95 x.key % 2 else f
/-- Where in the weights a stored value (kind 0), a group's scale (1), metadata (2, in half bytes) or an FP32 factor (3) of a row stands: the spec does not
lay the weights out. -/
def LayerIn.place (x : LayerIn) (kind row i : Nat) : Nat :=
  Config.numericNat 94 (x.key ++ leBytes 1 kind ++ leBytes 4 row ++ leBytes 4 i)
/-- A stored value of a row of weights; two INT4 values share a byte, the lower k in bits [3:0] (R179). -/
def LayerIn.stored (x : LayerIn) (row i : Nat) : Elem :=
  if x.weightFormat == 7 then
    let v := (fieldAt x.weights (x.place 0 row (i / 2)) 1) / 16 ^ (i % 2) % 16
    .int (if v < 8 then (v : Int) else (v : Int) - 16)
  else elemAt x.weightFormat (bytesAt x.weights (x.place 0 row i) 4) 0
/-- The BF16 scale of a group of a row (R179). -/
def LayerIn.scale (x : LayerIn) (row g : Nat) : Elem := elemAt 4 (bytesAt x.weights (x.place 1 row g) 2) 0
def LayerIn.sparse (x : LayerIn) : Bool := bit (fieldAt x.layer 2 1) 0
/-- The two indices of a sparse group (R180). -/
def LayerIn.pair (x : LayerIn) (row g : Nat) : Nat × Nat :=
  let p := x.place 2 row g
  let m := fieldAt x.weights (p / 2) 1 / 16 ^ (p % 2) % 16
  (m % 4, m / 4)
/-- The weights of a row by k: all of them, or the two of each sparse group, the first alone where its indices do not ascend. -/
def LayerIn.weightRow (x : LayerIn) (row n : Nat) : List (Option Elem) :=
  if x.sparse then
    ((List.range ((n + 3) / 4)).flatMap (fun g =>
      let (a, b) := x.pair row g
      (List.range 4).map (fun k =>
        if k == a then some (x.stored row (2 * g)) else if a < b && k == b then some (x.stored row (2 * g + 1)) else none))).take n
  else (List.range n).map (fun k => some (x.stored row k))
/-- The sparse groups of some rows that break the rule of R180. -/
def LayerIn.badGroups (x : LayerIn) (rows n : Nat) : Nat :=
  if x.sparse then (List.range rows).foldl (fun c r => c + ((List.range ((n + 3) / 4)).filter (fun g => decide ((x.pair r g).2 ≤ (x.pair r g).1))).length) 0
  else 0

/-- A sum of taps with a row of weights, in the accumulator of R175 that the operands take. -/
def LayerIn.sum (x : LayerIn) (taps : List Elem) (row : Nat) : Got :=
  let l : Terms := (taps.zip (x.weightRow row taps.length)).map (fun e => e.2.map (fun w => (e.1, w)))
  if x.weightFormat == 7 then sumGroups (x.scale row) l
  else if x.weightFormat == 1 then let r := sumI32 l; (.int r.1, r.2)
  else sumF32 l

/-- Channel, column, row and batch of an element. -/
def coordOf (e : List Byte) (o : Nat) : Nat × Nat × Nat × Nat :=
  let c := max 1 (entryDim e 0)
  let w := max 1 (entryDim e 1)
  let h := max 1 (entryDim e 2)
  (o % c, o / c % w, o / c / w % h, o / c / w / h)
/-- The element at a channel, column, row and batch; none beyond its plane. -/
def indexOf (e : List Byte) (c : Nat) (x y : Int) (n : Nat) : Option Nat :=
  let w := entryDim e 1
  let h := entryDim e 2
  if decide (0 ≤ x) && decide (x < w) && decide (0 ≤ y) && decide (y < h) then some (((n * h + y.toNat) * w + x.toNat) * entryDim e 0 + c) else none

/-! ### The operations (R187) -/

/-- GEMM: a row of the input against a row of weights for each column. -/
def LayerIn.gemm (x : LayerIn) : List Got :=
  let k := entryDim (x.shape 0) 0
  let n := max 1 (entryDim x.out 0)
  let a := x.elems 0
  (List.range (tensorCount x.out)).map (fun o => x.sum ((List.range k).map (fun j => a.getD (o / n * k + j) (.int 0))) (o % n))
/-- The channels that a convolution's output element sums, with the window's taps: K runs over the window's rows, columns and channels, or over channels
first (an open order). -/
def LayerIn.conv (x : LayerIn) (deep : Bool) : List Got :=
  let a := x.elems 0
  let e := x.shape 0
  let k := x.paramNat 0
  let chans := if deep then 1 else entryDim e 0
  (List.range (tensorCount x.out)).map (fun o =>
    let (co, ox, oy, n) := coordOf x.out o
    let at_ (i j c : Nat) : Elem := elemOr0 a (indexOf e (if deep then co else c)
      ((ox * x.paramNat 1 + j * x.paramNat 2 : Nat) - (x.paramNat 3 : Int)) ((oy * x.paramNat 1 + i * x.paramNat 2 : Nat) - (x.paramNat 3 : Int)) n)
    let taps := (List.range (k * k * chans)).map (fun t =>
      if Config.convention 16 then at_ (t / chans / k) (t / chans % k) (t % chans) else at_ (t / k % k) (t % k) (t / (k * k)))
    x.sum taps co)
/-- POOL: the greatest of a window or its mean. -/
def LayerIn.pool (x : LayerIn) : List Got :=
  let a := x.elems 0
  let w := x.paramNat 1
  (List.range (tensorCount x.out)).map (fun o =>
    let (c, ox, oy, n) := coordOf x.out o
    let l := (List.range (w * w)).map (fun t => elemOr0 a (indexOf (x.shape 0) c (ox * x.paramNat 2 + t % w : Nat) (oy * x.paramNat 2 + t / w : Nat) n))
    if l.any (·.isNan) then (.nan, false)
    else if x.paramNat 0 % 2 == 0 then (l.foldl (fun m e => if m.q < e.q then e else m) (l.headD (.int 0)), false)
    else got32 (sumQ (l.map (·.q)) / ((w * w : Nat) : Rat)) (l.all (·.neg)))
/-- ELTWISE: sums or products of elements, the second input broadcast on the axis where its side is 1. -/
def LayerIn.eltwise (x : LayerIn) : List Got :=
  let a := x.elems 0
  let b := x.elems 1
  let e := x.shape 1
  (List.range (tensorCount x.out)).map (fun o =>
    let (c, i, j, n) := coordOf x.out o
    let side (k v : Nat) : Nat := if entryDim e k == 1 then 0 else v
    let u := a.getD o (.int 0)
    let v := b.getD (((side 3 n * entryDim e 2 + side 2 j) * entryDim e 1 + side 1 i) * entryDim e 0 + side 0 c) (.int 0)
    if x.paramNat 0 % 2 == 0 then u.add v else u.mul v)
/-- The rows of the last axis. -/
def LayerIn.lastRows (x : LayerIn) : List (List Elem) := let l := (x.elems 0).toList; chunksOf (max 1 (entryDim (x.shape 0) 0)) l.length l
/-- An operation on each row that a NaN anywhere in it makes NaN. -/
def rowOp (f : Nat → List Elem → List Got) (rows : List (List Elem)) : List Got :=
  rows.zipIdx.flatMap (fun r => if r.1.any (·.isNan) then r.1.map (fun _ => (.nan, false)) else f r.2 r.1)
/-- NORM: the layer's or the RMS norm over the last axis, with the layer's own FP32 factor and addend where it has weights. -/
def LayerIn.norm (x : LayerIn) : List Got :=
  let rms := x.paramNat 0 % 2 == 1
  let factor (i : Nat) : Rat := f32Val (tameF32 (f32At x.weights (x.place 3 0 i)))
  rowOp (fun i l =>
    let n : Rat := l.length
    let mean := if rms then (0, false) else roundF32 (sumQ (l.map (·.q)) / n)
    let m := f32Val mean.1
    let var := roundF32 (sumQ (l.map (fun v => (v.q - m) ^ 2)) / n)
    let sum := roundF32 (f32Val var.1 + x.param32 1)
    let q := rootQ (f32Val sum.1)
    let r := if q = 0 then f32Val 0x7F7FFFFF else vec2 (x.draw i) (1 / q)
    l.zipIdx.map (fun e =>
      let v := (e.1.q - m) * r
      let g := if x.weights.isEmpty then got32 v (rms && e.1.neg) else got32 (v * factor e.2 + factor (l.length + e.2))
      (g.1, g.2 || mean.2 || var.2 || sum.2 || decide (q = 0)))) x.lastRows
def LayerIn.softmax (x : LayerIn) : List Got := rowOp (fun i l => (softmax32 (x.draw i) (l.map (·.q))).map (fun v => got32 v)) x.lastRows
/-- L2NORM: a row scaled to its target norm. -/
def LayerIn.l2norm (x : LayerIn) : List Got :=
  rowOp (fun i l =>
    let ss := roundF32 (sumQ (l.map (fun v => v.q * v.q)))
    let r := if f32Val ss.1 ≤ 0 then f32Val 0x7F7FFFFF else vec2 (x.draw i) (1 / rootQ (f32Val ss.1))
    l.map (fun v => let g := got32 (v.q * x.param32 0 * r) v.neg; (g.1, g.2 || ss.2 || decide (f32Val ss.1 ≤ 0)))) x.lastRows
/-- A channel of a map sampled between cells by bilinear interpolation; a cell beyond the map is open. -/
def LayerIn.sampleAt (x : LayerIn) (a : Array Elem) (e : List Byte) (c n : Nat) (u v : Rat) (o : Nat) : Got :=
  let at_ (i j : Int) : Elem := match indexOf e c i j n with
    | some k => a.getD k (.int 0)
    | none => elem32 (Config.numeric32 98 (x.key ++ leInt 4 i ++ leInt 4 j ++ leBytes 4 o))
  let fu := u - u.floor
  let fv := v - v.floor
  let l := [(at_ u.floor v.floor, (1 - fu) * (1 - fv)), (at_ (u.floor + 1) v.floor, fu * (1 - fv)), (at_ u.floor (v.floor + 1), (1 - fu) * fv),
    (at_ (u.floor + 1) (v.floor + 1), fu * fv)].filter (fun p => decide (p.2 ≠ 0))
  gotOf (l.map (·.1)) (got32 (sumQ (l.map (fun p => p.1.q * p.2))) (l.all (fun p => p.1.neg)))
/-- RESIZE: each output element from its nearest source element or from four by bilinear interpolation, cells centred or not (an open convention). -/
def LayerIn.resize (x : LayerIn) : List Got :=
  let a := x.elems 0
  let e := x.shape 0
  let f := x.param32 1
  let half : Rat := if Config.convention 10 then 1 / 2 else 0
  (List.range (tensorCount x.out)).map (fun o =>
    let (c, i, j, n) := coordOf x.out o
    let u := ((i : Rat) + half) / f - half
    let v := ((j : Rat) + half) / f - half
    if x.paramNat 0 % 2 == 0 then
      (elemOr0 a (indexOf e c (clampInt 0 ((entryDim e 1 : Int) - 1) (roundAway u)) (clampInt 0 ((entryDim e 2 : Int) - 1) (roundAway v)) n), false)
    else x.sampleAt a e c n u v o)
/-- GATHER_KP: the channels of a map of cells, sampled at each keypoint over the map's stride. -/
def LayerIn.gatherKp (x : LayerIn) : List Got :=
  let a := x.elems 0
  let c := max 1 (entryDim (x.shape 0) 0)
  let stride : Rat := max 1 (x.paramNat 0)
  let half : Rat := if Config.convention 10 then 1 / 2 else 0
  (List.range (tensorCount x.out)).map (fun o =>
    let kp := bytesAt (x.ins.getD 1 []) (16 * (o / c)) 16
    x.sampleAt a (x.shape 0) (o % c) 0 ((intAt kp 0 4 : Rat) / 32 / stride - half) ((intAt kp 4 4 : Rat) / 32 / stride - half) o)

/-! ### Attention and the match head (R200 to R204) -/

/-- The entries of a query in a gather output (R144): its flags, its candidates' indices and signed distances, px. -/
def gatherEntry (b : List Byte) (q : Nat) : Nat × List Nat :=
  let n := fieldAt b 0 4
  let e := bytesAt b (8 + 8 * q) 8
  let off := fieldAt e 0 4
  (fieldAt e 6 1, (List.range (fieldAt e 4 2)).map (fun j => fieldAt b (8 + 8 * n + 4 * (off + j)) 2))
def gatherDist (b : List Byte) (q j : Nat) : Rat := absQ ((intAt b (8 + 8 * fieldAt b 0 4 + 4 * (fieldAt b (8 + 8 * q) 4 + j) + 2) 2 : Rat) / 32)
/-- Candidates of a gather output that name no reference row (R200). -/
def badRows (gather : List Byte) (rows : Nat) : Nat :=
  (((List.range (fieldAt gather 0 4)).map (fun q => ((gatherEntry gather q).2.filter (fun r => decide (rows ≤ r))).length))).foldl (· + ·) 0

/-- A row of features. -/
def featureRow (a : Array Elem) (d i : Nat) : List Elem := (List.range d).map (fun k => a.getD (i * d + k) (.int 0))
/-- A sum of products of two rows of values: INT8 rows in INT32, the others in FP32. -/
def dotRows (ints : Bool) (a b : List Elem) : Got :=
  let l : Terms := (a.zip b).map some
  if ints then let r := sumI32 l; (.int r.1, r.2) else sumF32 l
/-- A score: an inner product over a root, less a slope times a distance, FP32. -/
def scoreAt (dot : Got) (d : Nat) (slope dist : Rat) : Got :=
  let r := gotOf [dot.1] (got32 (trim (dot.1.q / rootQ d) - slope * dist))
  (r.1, r.2 || dot.2)

/-- ATTN_GEO: attention from each query over its candidates. The rows of the weights are those of the projections Q, K, V and output, in this order. -/
def LayerIn.attention (x : LayerIn) : List Got :=
  let d := max 1 (entryDim (x.shape 0) 0)
  let heads := max 1 (x.paramNat 0)
  let w := d / heads
  let gather := x.ins.getD 2 []
  let fq := x.elems 0
  let fr := x.elems 1
  let rows := entryDim (x.shape 1) 1
  let proj (which : Nat) (row : List Elem) : List Got := (List.range d).map (fun i => x.sum row (which * d + i))
  (List.range (entryDim x.out 1)).flatMap (fun q =>
    let g := gatherEntry gather q
    let refs := g.2.zipIdx.filter (fun e => decide (e.1 < rows))
    if fieldAt gather 0 4 ≤ q || refs.isEmpty then List.replicate d (.fp 0, false)
    else
      let qh := proj 0 (featureRow fq d q)
      let kv := refs.map (fun e => (proj 1 (featureRow fr d e.1), proj 2 (featureRow fr d e.1)))
      let beyond := qh.any (·.2) || kv.any (fun e => e.1.any (·.2) || e.2.any (·.2))
      let head (h : Nat) (l : List Got) : List Elem := ((l.drop (h * w)).take w).map (·.1)
      let cat : List Got := (List.range heads).flatMap (fun h =>
        let sc := (refs.zip kv).map (fun e => scoreAt (sumF32 (((head h qh).zip (head h e.2.1)).map some)) w (x.param32 (1 + h)) (gatherDist gather q e.1.2))
        if sc.any (·.1.isNan) then List.replicate w (.nan, false)
        else
          let a := softmax32 (leBytes 4 h ++ x.draw q) (sc.map (fun e => e.1.q))
          (List.range w).map (fun i =>
            let r := sumF32 ((a.zip kv).map (fun e => some (elemQ e.1 false, (head h e.2.2).getD i (.int 0))))
            (r.1, r.2 || sc.any (·.2))))
      let out := (List.range d).map (fun i => sumF32 ((cat.zip (x.weightRow (3 * d + i) d)).map (fun e => e.2.map (fun v => (e.1.1, v)))))
      out.map (fun r => (r.1, r.2 || beyond || cat.any (·.2))))

/-- The record of a query in a match head (R203, R204), from its scores and the dustbin. -/
def matchRecord (q flags thr : Nat) (dustbin p : F32) (refs : List Nat) (sc : List F32) : List Byte :=
  match refs with
  | [] => leBytes 2 q ++ leBytes 2 0xFFFF ++ leBytes 2 0 ++ leBytes 1 (flags % 8) ++ [0xFF]
  | _ =>
    let best := sc.zipIdx.foldl (fun (b : Rat × Nat) e => if b.1 < f32Val e.1 then (f32Val e.1, e.2) else b) (f32Val (sc.headD 0), 0)
    let passes := decide ((thr : Rat) / 65535 ≤ f32Val p)
    let hit := passes && decide (f32Val dustbin < best.1)
    leBytes 2 q ++ leBytes 2 (if hit then refs.getD best.2 0xFFFF else 0xFFFF) ++ leBytes 2 (toUnsigned 0xFFFF (f32Val p * 65535)).1 ++
    leBytes 1 (flags % 8 + 8 * b2n (!passes)) ++ leBytes 1 (if hit then best.2 else 0xFF)

/-- A MATCH_HEAD layer over features and a gather output: its records, whether a NaN reached a score, whether one saturated. What becomes of the record of
a query with a NaN score is open. -/
def matchHead (x : LayerIn) : List Byte × Bool × Bool :=
  let d := max 1 (entryDim (x.shape 0) 0)
  let gather := x.ins.getD 2 []
  let fq := x.elems 0
  let fr := x.elems 1
  let ints := formatClass (fieldAt (x.shape 0) 0 1) == 1
  let dustbin := f32Of (x.param32 0)
  let thr := x.paramNat 1 % 65536
  let one (q : Nat) : List Byte × Bool × Bool :=
    let (fl, refs) := gatherEntry gather q
    let sc := refs.zipIdx.map (fun e =>
      scoreAt (dotRows ints (featureRow fq d q) (featureRow fr d e.1)) d (x.param32 2) (gatherDist gather q e.2))
    if sc.any (·.1.isNan) then (padTo 8 (Config.numeric 92 (leBytes 2 q ++ x.key ++ x.ins.flatten)), true, sc.any (·.2))
    else
      let v := sc.map (fun e => e.1.q)
      let m := v.foldl max (f32Val dustbin)
      let ex := (f32Val dustbin :: v).zipIdx.map (fun e => vec4 (leBytes 2 e.2 ++ x.draw q) (expQ (e.1 - m)))
      let p := vec2 (x.draw q) (trim (vec4 (leBytes 3 0 ++ x.draw q) (expQ (v.foldl max (v.headD 0) - m)) / f32Val (f32Of (sumQ ex))))
      (matchRecord q fl thr dustbin (f32Of p) refs (v.map f32Of), false, sc.any (·.2))
  let l := (List.range (fieldAt gather 0 4)).map one
  (l.flatMap (·.1), l.any (·.2.1), l.any (·.2.2))

/-! ### A layer (R181, R182, R186) -/

/-- The operation of a layer, before its activation. -/
def LayerIn.op (x : LayerIn) : List Got :=
  match fieldAt x.layer 0 1 with
  | 0x01 => x.gemm
  | 0x02 => x.conv false
  | 0x03 => x.conv true
  | 0x04 => x.pool
  | 0x05 => x.eltwise
  | 0x06 => x.norm
  | 0x07 => x.softmax
  | 0x08 => x.resize
  | 0x09 => x.gatherKp
  | 0x0A => x.l2norm
  | _ => x.attention

/-- Sparse groups of a layer's weights that break the rule of R180, each counted once: its rows of weights and their length. -/
def LayerIn.sparseBad (x : LayerIn) : Nat :=
  let e := x.shape 0
  let k := x.paramNat 0
  match fieldAt x.layer 0 1 with
  | 0x01 => x.badGroups (entryDim x.out 0) (entryDim e 0)
  | 0x02 => x.badGroups (entryDim x.out 0) (k * k * entryDim e 0)
  | 0x03 => x.badGroups (entryDim x.out 0) (k * k)
  | 0x0B => x.badGroups (4 * entryDim e 0) (entryDim e 0)
  | _ => 0

/-- A layer's output: activation and residual, the first input's elements added before or after the activation as the arrays have it, then the conversion.
Its bytes, whether a NaN reached or left it, whether a value saturated. -/
def LayerIn.result (x : LayerIn) : List Byte × Bool × Bool :=
  let act := fieldAt x.layer 1 1
  let res := bit (fieldAt x.layer 2 1) 1
  let fmt := fieldAt x.out 0 1
  let scale := elem32 (f32At x.layer 0x18)
  let bias := elem32 (f32At x.layer 0x1C)
  let early := (fmt == 1 || fmt == 6) && Config.convention 11
  let a := x.elems 0
  let els := x.op.zipIdx.map (fun e =>
    let o := e.2
    let plus (g : Got) : Got := let r := g.1.add (a.getD o (.int 0)); (r.1, r.2 || g.2)
    let v : Got := if early then let r := gotOf [e.1.1, scale, bias] (got32 (e.1.1.q * scale.q + bias.q)); (r.1, r.2 || e.1.2) else e.1
    let v := if res && Config.convention 9 then plus v else v
    let v : Got := if act == 0 then v else let r := gotOf [v.1] (got32 (actOf act (x.draw o) v.1.q) (act != 1 && v.1.neg)); (r.1, r.2 || v.2)
    let v := if res && !Config.convention 9 then plus v else v
    let r := if early then outElem fmt (.int 1) (.int 0) v.1 else outElem fmt scale bias v.1
    (r.1, v.1.isNan || r.2.1, v.2 || r.2.2))
  (els.flatMap (·.1), els.any (·.2.1), els.any (·.2.2))

/-- One layer (R186, R187). -/
def runLayer (p : List Byte) (r : TaRun) (layer : List Byte) : TaRun :=
  let idx := (List.range 4).map (fun i => fieldAt layer (4 + 2 * i) 2)
  let used := idx.filter (· != 0xFFFF)
  let ins := used.map (fun i => padTo (tensorBytes (progTensor p i)) (NMap.getD r.env i []))
  let out := fieldAt layer 0xC 2
  let weights := bytesAt p (fieldAt p 0x14 4 + fieldAt layer 0x10 4) (fieldAt layer 0x14 4)
  let x : LayerIn := { layer := layer, shapes := used.map (progTensor p), out := progTensor p out, weights := weights, ins := ins }
  let b := if fieldAt layer 0 1 == 0x0C then matchHead x else x.result
  let nan := b.2.1 || (used.zip ins).any (fun e => tensorNan (progTensor p e.1) e.2)
  { env := NMap.set r.env out (padTo (tensorBytes (progTensor p out)) b.1)
    nans := r.nans + b2n nan
    sat := r.sat || b.2.2
    sparse := r.sparse + x.sparseBad
    rows := r.rows + (if fieldAt layer 0 1 == 0x0B then badRows (ins.getD 2 []) (fieldAt (progTensor p (used.getD 1 0)) 8 4) else 0) }

end Sys2Proof.Machine
end

