-- ==== Sys2Proof/Machine/Tensor.lean ====
section
/-! DEFINITION. The tensor arrays (R173 to R208): tensor programs over a crate's weights, late tiles, the match head's choice and the
validity of radio estimates, and split-precision products. -/
namespace Sys2Proof.Machine

/-! ### Split-precision requests (R195 to R199) -/

def splitShapeOk (m n k : Nat) : Bool := between 1 128 m && between 1 128 n && between 64 4096 k && k % 64 == 0

/-- The arrays take a request at the end of a tile pass: its descriptor stands in the exchange area, whose result tag falls (R195, R198). -/
def State.takeSplit (s : State) (ch m n k : Nat) : State :=
  let e := (chanAt s ch).engines.getD 2 {}
  let r : Split := { m := m, n := n, k := k, yielded := e.run.isSome }
  let s := s.modChan ch (fun c => { c with split := some r, exch := { c.exch with desc := some r, resultReady := false } })
  s.yieldArrays ch

/-- A request is taken, or waits for the one that runs to end, in the order of the tags (R198). -/
def execSplitRequest (ch m n k : Nat) (s : State) : Host.Outcome State Fault Refusal :=
  .next (
    let c := chanAt s ch
    if running s && c.inService && (c.engines.getD 3 {}).run.isSome && splitShapeOk m n k then
      (if c.split.isNone then s.takeSplit ch m n k
       else s.modChan ch (fun c => { c with splitWaits := c.splitWaits ++ [{ m := m, n := n, k := k, yielded := false }] }))
    else s)

/-- A NaN or a saturation in the arrays of a channel (R181). -/
def State.taFlags (s : State) (ch : Nat) (nans : Nat) (sat : Bool) (sid : Nat) : State :=
  let s := s.bump (chanCtr ch 6) nans
  let flags := (if nans == 0 then 0 else 2) + (if sat then 4 else 0)
  if flags == 0 then s else s.setErr (8 + ch) (if nans == 0 then 2 else 1) flags 255 sid

/-- A chunk of the operands, 64 columns of A and of B, as it stands in its half (R195). -/
def splitChunk (r : Split) (a b : List W32) (i : Nat) : List W32 :=
  (rowsOf r.k a ++ rowsOf r.k b).flatMap (fun row => (row.drop (64 * i)).take 64)
/-- The exchange area at a request's end: the halves hold the last two chunks, read and their tags cleared; the result is written, then tagged. -/
def Exchange.ended (e : Exchange) (r : Split) (a b result : List W32) : Exchange :=
  let last := r.k / 64 - 1
  let halves := if last = 0 then setAt e.halves 0 (splitChunk r a b 0)
    else setAt (setAt e.halves ((last - 1) % 2) (splitChunk r a b (last - 1))) (last % 2) (splitChunk r a b last)
  { e with halves := halves, full := [false, false], result := result, resultReady := true }

/-- The product stands in the result area; chunks that came late are counted; the next request that waits is taken (R198, R199). -/
def execSplitResult (ch : Nat) (a b : List W32) (lateChunks : Nat) (s : State) : Host.Outcome State Fault Refusal :=
  .next (match (chanAt s ch).split with
    | none => s
    | some r =>
      if !running s || a.length != r.m * r.k || b.length != r.n * r.k then s
      else
        let els := (rowsOf r.k a).flatMap (fun x => (rowsOf r.k b).map (splitElement x))
        let s := s.modChan ch (fun c => { c with split := none, exch := c.exch.ended r a b (els.map (·.1)) })
        let s := s.bump (chanCtr ch 9) lateChunks
        let s := s.taFlags ch (els.filter (fun e => e.2.1)).length (els.any (fun e => e.2.2)) 0xFFFF
        match (chanAt s ch).splitWaits with
        | [] => s
        | w :: rest => (s.modChan ch (fun c => { c with splitWaits := rest })).takeSplit ch w.m w.n w.k)

/-! ### Tensor programs (R184 to R189) -/

/-- VALID of a radio estimate (R207). -/
def estimateValid (e : List Byte) : Bool :=
  let v (i : Nat) : Rat := f32Val (f32At e (4 * i))
  let pi : Rat := f32Val 0x40490FDB
  (f32sAt e 0 6).all f32IsFinite && decide (0 ≤ v 0) && decide (v 0 ≤ 10000) && decide (-pi < v 1) && decide (v 1 ≤ pi) &&
  decide (-pi / 2 ≤ v 2) && decide (v 2 ≤ pi / 2) && decide (0 < v 3) && decide (0 < v 4) && decide (0 < v 5)
/-- The device sets VALID by its own test, and SATURATED where a value of the step did (R182, R207). -/
def setValid (sat : Bool) (e : List Byte) : List Byte :=
  let fl := fieldAt e 0x1A 2
  overlay e 0x1A (leBytes 2 (fl / 4 * 4 + 2 * b2n (sat || bit fl 1) + b2n (estimateValid e)))

/-- The tensors of a program that stand in a place. -/
def placed (p : List Byte) (place : Nat) : List Nat := (List.range (fieldAt p 8 2)).filter (fun i => fieldAt (progTensor p i) 2 1 == place)

/-- The inputs of a program in the ranges of its step. Scratch that nothing has written reads as zero (R452). -/
def programInputs (g : Slot) (x : Inst) (t : GStep) (p : List Byte) : TaRun :=
  let input (i : Nat) : List Byte :=
    let e := progTensor p i
    bytesAt (rangeBytes g x (t.inR (fieldAt e 3 1))) (fieldAt e 0x14 4) (tensorBytes e)
  { env := (placed p 0).foldl (fun m i => NMap.set m i (input i)) [] }
/-- The layers of a program from one on up to another. -/
def runLayers (p : List Byte) (first last : Nat) (r : TaRun) : TaRun := (((progLayers p).take last).drop first).foldl (runLayer p) r

/-- The outputs of a program in the ranges of its step. -/
def Inst.putProgram (x : Inst) (t : GStep) (p : List Byte) (r : TaRun) : Inst :=
  (placed p 1).foldl (fun y i =>
    let e := progTensor p i
    let b := NMap.getD r.env i []
    let b := if fieldAt e 0x18 1 == 5 then (records 32 b).flatMap (setValid r.sat) else b
    y.put (t.outR (fieldAt e 3 1)) (fieldAt e 0x14 4) b) x

/-- The buffers of the arrays as a step begins: cleared where its crate is not the last step's (R452); the first tile is fetched, and once its passes
begin the second is under way (R190). -/
def TaBuf.begin (b : TaBuf) (cleared : Bool) (progOff : Nat) (inputs : TaRun) (p : List Byte) : TaBuf :=
  if b.begun then b
  else
    let tiles := programTiles progOff p
    { begun := true, serial := (b.serial + 1) % 4294967296, halves := ((if cleared then [] else b.halves) ++ tiles.take 1).reverse.take 2 |>.reverse
      todo := tiles.drop 1, layers := 0, act := inputs }
/-- The passes of the tile in the buffers end and the next tile is late: the layers before that tile's own are done. -/
def TaBuf.wait (b : TaBuf) (p : List Byte) : TaBuf :=
  let l := match b.todo with
    | [] => b.layers
    | t :: _ => max b.layers t.layer
  { b with layers := l, act := runLayers p b.layers l b.act }
/-- A tile has arrived in the other half: its passes begin, and the next tile is requested (R190). -/
def TaBuf.arrive (b : TaBuf) : TaBuf := { b with halves := (b.halves ++ b.todo.take 1).reverse.take 2 |>.reverse, todo := b.todo.drop 1 }
/-- Every tile arrives in time: the layers run to the program's end. -/
def TaBuf.finish (b : TaBuf) (p : List Byte) : TaBuf :=
  { b with
    halves := (b.halves ++ b.todo).reverse.take 2 |>.reverse, todo := [], layers := fieldAt p 6 2
    act := runLayers p b.layers (fieldAt p 6 2) b.act }

/-- The buffers of a channel's arrays as its step goes on. -/
def stepBuf (s : State) (ch : Nat) (x : Inst) (g : Slot) (t : GStep) (p : List Byte) : TaBuf :=
  let e := (chanAt s ch).engines.getD 2 {}
  e.ta.begin (e.lastCrate != some t.crate) t.progOff (programInputs g x t p) p
/-- A tile that a step still needs lies on a poisoned page (R193): all of its tiles before it begins. -/
def needsPoisoned (s : State) (ch : Nat) (c : Crate) (t : GStep) : Bool :=
  let b := ((chanAt s ch).engines.getD 2 {}).ta
  (if b.begun then b.todo else programTiles t.progOff (c.body.drop t.progOff)).any (WTile.poisoned s c)

/-- A tensor step to its end, or to its next late tile (R190 to R193). A step whose items are none has nothing to run (R166, R205). -/
def State.runTensor (s : State) (ch i : Nat) (x : Inst) (g : Slot) (t : GStep) (lateTile : Bool) : State :=
  if (stepItems x t).1 = 0 then s.worked ch 2
  else match crateAt s t.crate with
  | none => s.breakStep ch 2 0x22
  | some c =>
    let p := c.body.drop t.progOff
    let b := stepBuf s ch x g t p
    if needsPoisoned s ch c t then s.breakStep ch 2 0x22
    else if lateTile && !b.todo.isEmpty then
      (s.modEngine ch 2 (fun e => { e with stall := some (dtOf s), lastCrate := some t.crate, ta := b.wait p })).bump (chanCtr ch 7) 1
    else
      let b := b.finish p
      let s := s.modInst ch i (fun y => { y.putProgram t p b.act with saturated := y.saturated || b.act.sat })
      let s := ((s.taFlags ch b.act.nans b.act.sat (x.sid.getD 0xFFFF)).bump (chanCtr ch 5) b.act.sparse).bump (chanCtr ch 10) b.act.rows
      (s.modEngine ch 2 (fun e => { e with lastCrate := some t.crate, ta := b })).worked ch 2

def execTensorStep (ch : Nat) (lateTile : Bool) (shelf : ShelfFinding) (s : State) : Host.Outcome State Fault Refusal :=
  .next (match atWork s ch 2 5 with
    | none => s
    | some (i, x, g, _, t) =>
      if (((chanAt s ch).engines.getD 2 {}).stall).isSome then s
      else
        let r := s.shelfRead ch i shelf
        if r.1 then r.2.runTensor ch i x g t lateTile else r.2)

/-- The last beat of a late tile has arrived: the stall ends, unless its 2 ms have passed (R192). -/
def execWeightTileArrival (ch : Nat) (s : State) : Host.Outcome State Fault Refusal :=
  .next (match ((chanAt s ch).engines.getD 2 {}).stall with
    | none => s
    | some t =>
      if !running s then s
      else if dtOf s ≤ t + 2000000 then s.modEngine ch 2 (fun e => { e with stall := none, lastMove := dtOf s, ta := e.ta.arrive })
      else (s.breakStep ch 2 0x20).refresh ch)

end Sys2Proof.Machine
end

