-- ==== Sys2Proof/Machine/Soundings.lean ====
section
/-! DEFINITION. The RADIO step (R260, R261, R354 to R356) over the symbol block and the radio estimates, and the end of an antenna
array's quarantine (R269). -/
namespace Sys2Proof.Machine

/-! ### Estimates (R207, R354 to R356) -/

/-- The speed of light, m/s. -/
def lightSpeed : Rat := 299792458
/-- τ of a range, ns, and back. -/
def tauOf (range : Rat) : Rat := 2 * range / lightSpeed * 10 ^ 9
def rangeOf (tau : Rat) : Rat := lightSpeed * tau / 2 / 10 ^ 9
/-- The timing-advance step of a numerology, ns. -/
def advanceStep (mu : Nat) : Rat := 16 * 64 * 10 ^ 9 / (480000 * 4096) / (2 ^ mu : Nat)

/-- Fields of an estimate of R207. -/
def estRange (e : List Byte) : F32 := f32At e 0
def estLos (e : List Byte) : Nat := fieldAt e 0x18 1
def estArray (e : List Byte) : Nat := fieldAt e 0x19 1
/-- VALID but for the bounds of RANGE, which stands before its adjustment (R354, R356). -/
def rawValid (e : List Byte) : Bool := f32IsFinite (estRange e) && estimateValid (overlay e 0 (leBytes 4 0))

/-- A symbol as its RADIO step sees it (R350). -/
structure Sounding where
  binding : Nat
  sid : Nat
  mu : Nat
  refValid : Bool
  tAir : Nat
  arrays : List Antenna
  deriving DecidableEq, Repr

def soundingOf (x : Inst) (block : List Byte) : Sounding :=
  { binding := fieldAt block 0 2, sid := fieldAt block 2 2, mu := fieldAt block 6 1, refValid := bit (fieldAt block 0xF 1) 1,
    tAir := fieldAt block 0x10 8, arrays := x.arrays }

/-- The reference point of an array, m, in the map frame. -/
def arrayPoint (m : Sounding) (a : Nat) : List Rat := ((m.arrays.getD a {}).pos).map (fun (v : Int) => (v : Rat) / 10000)
/-- The distance of a point from an array. -/
def fromArray (m : Sounding) (a : Nat) (p : List Rat) : Rat :=
  sqrtQ ((((arrayPoint m a).zip p).map (fun e => (e.1 - e.2) ^ 2)).foldl (· + ·) 0)

/-- A session's position as last accepted, and as carried to an instant at its velocity. -/
def lastPos (v : Solved) : List Rat := (f64sAt v.header 0x18 3).map f64Val
def carriedPos (v : Solved) (at_ : Nat) : List Rat :=
  let dt : Rat := (((at_ : Int) - (fieldAt v.header 0x10 8 : Nat) : Int) : Rat) / 10 ^ 9
  (lastPos v).zipWith (fun p u => p + u * dt) ((f32sAt v.header 0x40 3).map f32Val)

/-- R355: an estimate from which a binding without a reference acquires one. -/
def acquires (m : Sounding) (sv : Option Solved) (e : List Byte) : Bool :=
  estimateValid e && decide (128 ≤ estLos e) && decide (f32Val (f32At e 0xC) ≤ 1) &&
  (match sv with
   | some v => decide (f32Val (f32At v.header 0x58) ≤ 1 / 4) && decide (f32Val (f32At v.header 0x70) ≤ 1 / 4) &&
     decide (m.tAir ≤ fieldAt v.header 0x10 8 + 200000000)
   | none => false)

/-- The estimate that acquires: of the lowest array, the first of its array. -/
def acquirer (m : Sounding) (sv : Option Solved) (es : List (List Byte)) : Option (List Byte) :=
  let l := es.filter (acquires m sv)
  (minBy (fun k => estArray (l.getD k [])) (List.range l.length)).bind (fun k => l[k]?)

/-- What one tracking estimate does to a reference (R356): the reference that follows and the steps counted. -/
def trackRef (m : Sounding) (now : Nat) (r : Ref) (tau : Rat) : Option Ref × Nat :=
  let st := advanceStep m.mu
  let d := tau - r.tauLast
  let k := roundAway (d / st)
  if k = 0 then (some { r with tauLast := tau, lastValid := now }, 0)
  else if absQ (d - k * st) ≤ st / 8 then (some { r with rho := r.rho - k * st, tauLast := tau, lastValid := now }, k.natAbs)
  else (none, 0)

/-- An estimate adjusted by R354. -/
def adjusted (m : Sounding) (sv : Option Solved) (ref : Option Ref) (e : List Byte) : List Byte :=
  match ref with
  | some r => overlay e 0 (f32Bytes [f32Of (rangeOf (tauOf (f32Val (estRange e)) + r.rho))])
  | none =>
    let d := match sv with
      | some v => fromArray m (estArray e) (lastPos v)
      | none => 100
    overlay (overlay e 0 (f32Bytes [f32Of d])) 0xC (f32Bytes [f32Of (10 ^ 8)])

/-- The course of a symbol's reference over its estimates. -/
structure RefRun where
  ref : Option Ref
  steps : Nat := 0
  lost : Nat := 0
  out : List (List Byte) := []
  deriving DecidableEq, Repr

/-- One estimate: the reference follows it where it is the tracking array's, then it is adjusted. -/
def refOne (m : Sounding) (now : Nat) (sv : Option Solved) (r : RefRun) (e : List Byte) : RefRun :=
  let r := match r.ref with
    | some f =>
      if estArray e == f.array && rawValid e then
        match trackRef m now f (tauOf (f32Val (estRange e))) with
        | (some f, k) => { r with ref := some f, steps := r.steps + k }
        | (none, _) => { r with ref := none, lost := r.lost + 1 }
      else r
    | none => r
  { r with out := r.out ++ [setValid false (adjusted m sv (if m.refValid then r.ref else none) e)] }

/-! ### Factors (R260) -/

/-- The head of a radio factor: Huber 2.0 from LOS 128 up, Cauchy 3.0 below. -/
def radioHead (kind dim len los tAir : Nat) : List Byte :=
  let k : Nat × F32 := if 128 ≤ los then (1, 0x40000000) else (2, 0x40400000)
  leBytes 1 kind ++ leBytes 1 k.1 ++ leBytes 1 1 ++ leBytes 1 dim ++ leBytes 2 len ++ leBytes 1 0 ++ leBytes 1 1 ++ leBytes 4 0 ++
  f32Bytes [k.2] ++ leBytes 8 0 ++ leBytes 8 tAir

/-- The array's orientation in the map frame (ANTENNA_SET). -/
def arrayQuat (m : Sounding) (a : Nat) : Quat := (quatOf ((m.arrays.getD a {}).quat.map (fun (v : Int) => (v : Rat)))).unit
/-- The direction of an estimate in the map frame, with its derivatives in azimuth and elevation. -/
def estDirection (m : Sounding) (e : List Byte) : V3 × V3 × V3 :=
  let q := arrayQuat m (estArray e)
  let ca := cosQ (f32Val (f32At e 4))
  let sa := sinQ (f32Val (f32At e 4))
  let ce := cosQ (f32Val (f32At e 8))
  let se := sinQ (f32Val (f32At e 8))
  ((q.turn ⟨ce * ca, ce * sa, se⟩).trim, (q.turn ⟨-ce * sa, ce * ca, 0⟩).trim, (q.turn ⟨-se * ca, -se * sa, ce⟩).trim)

/-- RADIO_RANGE and RADIO_BEARING of an estimate. -/
def radioRecords (m : Sounding) (e : List Byte) : List Byte :=
  let c := f64Bytes ((arrayPoint m (estArray e)).map f64Of)
  let range := radioHead 6 1 64 (estLos e) m.tAir ++ c ++ f32Bytes [estRange e, f32Of (rootQ (f32Val (f32At e 0xC)))]
  let w := [f32Of (1 / (rootQ (f32Val (f32At e 0x10)) * max (cosQ (f32Val (f32At e 8))) (1 / 100))), 0, f32Of (1 / rootQ (f32Val (f32At e 0x14)))]
  padTo 64 range ++ padTo 80 (radioHead 7 2 80 (estLos e) m.tAir ++ c ++ f32Bytes ((estDirection m e).1.f32s ++ w))

/-- The position that an estimate gives, and its covariance J·diag(var)·Jᵀ (R260). -/
def estPosition (m : Sounding) (e : List Byte) : V3 × Mat :=
  let r := f32Val (estRange e)
  let d := estDirection m e
  let j := ofCols [d.1, V3.scale r d.2.1, V3.scale r d.2.2]
  let v (i : Nat) : Rat := f32Val (f32At e (0xC + 4 * i))
  ((v3Of (arrayPoint m (estArray e))).add (V3.scale r d.1), (j.times [[v 0, 0, 0], [0, v 1, 0], [0, 0, v 2]]).times (Mat.tr j))

/-- A value that an estimate's factors hold in FP32 saturates (R289). -/
def radioSat (m : Sounding) (e : List Byte) : Bool :=
  let v (i : Nat) : Rat := rootQ (f32Val (f32At e (0xC + 4 * i)))
  ((estPosition m e).2.upper ++ [1 / (v 1 * max (cosQ (f32Val (f32At e 8))) (1 / 100)), 1 / v 2]).any (fun q => (roundF32 q).2)

/-- One estimate classified (R68), turned into factors and queued (R261). -/
def State.queueEstimate (s : State) (ch : Nat) (m : Sounding) (e : List Byte) : State :=
  match sessAt s m.sid with
  | none => s
  | some y =>
    let fresh := match y.tOut with
      | some t => decide (t < m.tAir)
      | none => true
    let late := !fresh
    if late && decide (m.tAir + 1000000 * y.ctx.cfg.horizonMs < dtOf s) then
      s.modCtx m.sid (fun c => { c with discarded := c.discarded + 1, lateDiscard := true })
    else
      let s := if late then s.modCtx m.sid (fun c => { c with late := c.late + 1 }) else s
      if arrayQuarantined s (estArray e) then s
      else
        let p := estPosition m e
        let r : RadioEntry :=
          { ts := m.tAir, array := estArray e, late := late, pos := p.1.f64s, cov := p.2.upper.map f32Of, records := radioRecords m e }
        let s := if y.radioQ.length < 32 then s else s.bump (chanCtr ch 27) 1
        s.modSess m.sid (fun z => { z with radioQ := (if z.radioQ.length < 32 then z.radioQ else z.radioQ.drop 1) ++ [r] })

/-! ### The step -/

/-- A binding's reference changes. -/
def State.setRef (s : State) (i : Nat) (r : Option Ref) : State :=
  s.modScu (fun u => { u with bindings := NMap.upd u.bindings i (fun b => { b with ref := r }) })

def State.runRadio (s : State) (ch i : Nat) (x : Inst) (g : Slot) (t : GStep) : State :=
  let block := match stepOf g.graph 1 with
    | some u => rangeBytes g x (u.outR 0)
    | none => []
  let m := soundingOf x block
  let src := rangeBytes g x (t.inR 0)
  let all := (List.range (stepItems x t).1).map (fun k => bytesAt src (32 * k) 32)
  let es := all.filter (fun e => (f32sAt e 0 6).all f32IsFinite)
  let sv := (sessAt s m.sid).bind (·.ctx.solved)
  let old := ((bindingAt s m.binding).filter (fun b => b.sid == m.sid)).bind (·.ref)
  let bound := ((bindingAt s m.binding).filter (fun b => b.sid == m.sid)).isSome
  let r := es.foldl (refOne m (dtOf s) sv) { ref := old }
  let new := if old.isNone && bound then acquirer m sv es else none
  let ref := match new, sv with
    | some e, some v =>
      let tau := tauOf (f32Val (estRange e))
      some { rho := 2 * fromArray m (estArray e) (carriedPos v m.tAir) / lightSpeed * 10 ^ 9 - tau, tauLast := tau, lastValid := dtOf s, array := estArray e }
    | _, _ => r.ref
  let s := if bound then s.setRef m.binding ref else s
  let s := ((s.bump (scuCtr 0) (b2n new.isSome)).bump (scuCtr 1) r.lost).bump (scuCtr 2) r.steps
  let good := r.out.filter estimateValid
  let s := s.bump (chanCtr ch 11) (all.length - good.length)
  let s := good.foldl (fun s e => s.queueEstimate ch m e) s
  s.fuFaults ch i m.sid (all.length - es.length) (good.any (radioSat m))

def execRadio (ch : Nat) (s : State) : Host.Outcome State Fault Refusal :=
  .next (match fuStep s ch 3 with
    | none => s
    | some (i, x, g, _, t) => (s.runRadio ch i x g t).worked ch 4)

/-! ### Quarantine of an array (R269) -/

/-- Votes that still count: within 2,000 ms, one of each session. -/
def liveVotes (now : Nat) (l : List (Nat × Nat)) : List (Nat × Nat) := l.filter (fun v => decide (now ≤ v.2 + 2000000000))

/-- A session votes against an array; with a second session's vote the array is quarantined for 60,000 ms. -/
def State.voteAgainst (s : State) (sid a : Nat) : State :=
  let l := (liveVotes (dtOf s) (s.core.scu.votes.getD a [])).filter (fun v => v.1 != sid) ++ [(sid, dtOf s)]
  let s := s.modScu (fun u => { u with votes := setAt u.votes a l })
  if l.length < 2 || arrayQuarantined s a then s
  else
    let s := s.modScu (fun u => { u with quarEnd := setAt u.quarEnd a (some (dtOf s + 60000000000)) })
    s.setErr 4 2 (4 + 2 ^ (8 + a)) a sid

def execAnchorQuarantineEnd (array : Nat) (s : State) : Host.Outcome State Fault Refusal :=
  .next (match s.core.scu.quarEnd.getD array none with
    | none => s
    | some t =>
      if running s && decide (t ≤ dtOf s) then
        s.modScu (fun u => { u with quarEnd := setAt u.quarEnd array none, votes := setAt u.votes array [] })
      else s)

end Sys2Proof.Machine
end

