-- ==== Sys2Proof/Machine/Gates.lean ====
section
/-! DEFINITION. The intake section of the fusion unit (R257 to R270): the factors a session job forms, the window it seals, the gates,
the pairs and quarantines, the fusion block. -/
namespace Sys2Proof.Machine

/-! ### Records (R225) -/

/-- A factor record with a header; `varKind` and `vars` as R225 has them. -/
def factorOf (kind kernel nvar dim len flags varKind id : Nat) (kp : F32) (vars : List Nat) (tS : Nat) (payload : List Byte) : List Byte :=
  padTo len (leBytes 1 kind ++ leBytes 1 kernel ++ leBytes 1 nvar ++ leBytes 1 dim ++ leBytes 2 len ++ leBytes 1 flags ++ leBytes 1 varKind ++
    leBytes 4 id ++ f32Bytes [kp] ++ padTo 8 (vars.flatMap (leBytes 2)) ++ leBytes 8 tS ++ payload)

/-- The records of a range: each stands at a multiple of 16; an empty header ends its block. A record whose length is none of R225 ends
the range. -/
def rangeRecords : Nat → List Byte → Nat → List (List Byte)
  | 0, _, _ => []
  | n + 1, b, o =>
    if b.length < o + 32 then []
    else
      let len := fieldAt b (o + 4) 2
      if len == 0 then rangeRecords n b (4096 * (o / 4096 + 1))
      else if len < 32 || decide (1024 < len) || len % 16 != 0 || b.length < o + len then [bytesAt b o 32]
      else bytesAt b o len :: rangeRecords n b (o + len)

/-- A REPROJECTION on the motion state alone, with its map point (R226, R227). -/
def mapMatched (r : List Byte) : Bool := fieldAt r 0 1 == 1 && fieldAt r 2 1 == 1 && !bit (fieldAt r 6 1) 0

/-- A factor takes the switchable kernel in place of its own (R230, R266). -/
def switchable (r : List Byte) : List Byte :=
  if fieldAt r 1 1 == 3 then r
  else
    let r := overlay (overlay r 1 (leBytes 1 3)) 2 (leBytes 1 (fieldAt r 2 1 + 1))
    overlay (overlay r 7 (leBytes 1 (fieldAt r 7 1 % 64 + 192))) 0xC (f32Bytes [0x3F800000])

/-! ### Vision factors (R258, R259, R262) -/

/-- Where a formed factor comes from: a map match, a landmark, a depth. -/
inductive FromWhat where
  | map | landmark | depth
  deriving DecidableEq, Repr

/-- What the intake has formed so far. -/
structure Forming where
  factors : List (FromWhat × List Byte) := []
  points : List (Nat × List Byte) := []
  ties : NMap Tie
  nextFactor : Nat
  masked : Nat := 0
  dropped : Nat := 0
  bad : Nat := 0
  /-- A value held in FP32 saturated (R289). -/
  sat : Bool := false
  deriving DecidableEq, Repr

/-- What the forming of a frame's factors rests on. -/
structure FrameIn where
  view : View
  slot : Nat
  tS : Nat
  /-- The predicted pose at the frame's instant (R253, R254). -/
  pose : List Byte
  se : SeStruct
  lmkMax : Nat
  matches_ : List Byte
  table : List Byte
  feet : List Byte
  planes : List Byte
  deriving DecidableEq, Repr

/-- The least block index not in use. -/
def freeBlock (vars : NMap (Nat × List Byte)) (taken : List Nat) : Option Nat :=
  (List.range 65536).find? (fun k => !NMap.has vars k && !taken.contains k)

/-- POINT variables a session holds. -/
def pointCount (se : SeStruct) : Nat := (se.vars.filter (fun v => v.2.1 == 3)).length + ((se.heldDelta.map (·.points.length)).getD 0)

/-- A REPROJECTION of a keypoint: its map point, or the POINT it names; `w` is the sqrt-information. -/
def reprojection (f : FrameIn) (kp : List Byte) (id : Nat) (w : F32) (map : Option (List Byte)) (block : Nat) : List Byte :=
  let px := f32Bytes [f32Of ((intAt kp 0 4 : Rat) / 32), f32Of ((intAt kp 4 4 : Rat) / 32)]
  let pay := leBytes 1 (workModel f.view.param f.view.a) ++ leBytes 1 f.slot ++ [0, 0] ++ px ++ f32Bytes ([w, 0, w] ++ workCam f.view.param f.view.kind f.view.a f.view.b)
  match map with
  | some p => factorOf 1 1 1 2 96 2 1 id 0x40000000 [0] f.tS (pay ++ p)
  | none => factorOf 1 1 2 2 96 2 1 id 0x40000000 [0, block] f.tS pay

/-- Adds a POINT variable to the delta with the factor that comes with it, unless LMK_MAX or the blocks are used up (R229, R259). -/
def Forming.addPoint (f : FrameIn) (r : Forming) (num : Nat) (value : List Byte) (make : Nat → Nat → FromWhat × List Byte) : Forming :=
  let taken := r.points.map (·.1) ++ ((f.se.heldDelta.map (fun d => d.points.map (·.1))).getD [])
  if f.lmkMax ≤ pointCount f.se + r.points.length then { r with dropped := r.dropped + 1 }
  else match freeBlock f.se.vars taken with
    | none => { r with dropped := r.dropped + 1 }
    | some b => { r with
        points := r.points ++ [(b, value)], factors := r.factors ++ [make b r.nextFactor], nextFactor := r.nextFactor + 1
        ties := NMap.set r.ties num { (NMap.getD r.ties num {}) with landmark := some b } }

/-- The camera pose behind a body pose, and the ray of a keypoint in the map frame. -/
def rayFrom (v : View) (body : Pose) (x y : Rat) : V3 × V3 :=
  let c := body.mul v.mount
  (c.t.as64, (c.r.turn (v.cam.ray x y).as32).as32)
/-- The angle between two directions. -/
def angleOf (a b : V3) : Rat := atan2Q (a.cross b).norm (a.dot b)
/-- The midpoint of the shortest way between two rays. -/
def midpointOf (p q : V3 × V3) : V3 :=
  let w := p.1.sub q.1
  let a := p.2.dot p.2
  let b := p.2.dot q.2
  let c := q.2.dot q.2
  let d := p.2.dot w
  let e := q.2.dot w
  let n := a * c - b * b
  (V3.scale (1 / 2) ((p.1.add (V3.scale ((b * e - c * d) / n) p.2)).add (q.1.add (V3.scale ((a * e - b * d) / n) q.2)))).trim

/-- The parallax of a track from its first knot, with the midpoint of its rays; none where the first knot has left. -/
def midpoint (f : FrameIn) (t : Tie) (kp : List Byte) : Option (Rat × List Byte) :=
  match t.firstAt.bind (fun a => f.se.knots.find? (fun k => k.at_ == a)) with
  | none => none
  | some k =>
    let a := rayFrom f.view (poseAt64 (NMap.getD f.se.vars k.block (0, [])).2 0) ((t.firstX : Rat) / 32) ((t.firstY : Rat) / 32)
    let b := rayFrom f.view (poseAt32 f.pose 0) ((intAt kp 0 4 : Rat) / 32) ((intAt kp 4 4 : Rat) / 32)
    some (angleOf a.2 b.2, f64Bytes (midpointOf a b).f64s)

/-- A point at a depth along a keypoint's ray: its value, and its sqrt-information in the map frame, 1/σ along the ray and f/(z · 1 px) across it
(R252, R258); whether a value of it saturated. -/
def depthPoint (f : FrameIn) (kp : List Byte) (d : F32 × F32) : List Byte × Bool :=
  let r := rayFrom f.view (poseAt32 f.pose 0) ((intAt kp 0 4 : Rat) / 32) ((intAt kp 4 4 : Rat) / 32)
  let z := f32Val d.1
  let u := r.2.unit
  let across := (f.view.cam.fx / z) ^ 2
  let outer := matOf 3 3 (fun i j => u.list.getD i 0 * u.list.getD j 0)
  let info := (Mat.by across (matId 3)).plus (Mat.by (1 / (f32Val d.2) ^ 2 - across) outer)
  let p := f64Bytes (r.1.add (V3.scale z r.2)).f64s
  match cholUpper info with
  | some l => (p ++ f32Bytes (l.map f32Of), l.any (fun q => (roundF32 q).2))
  | none => (p ++ padTo 24 (Config.numeric 111 (f.pose ++ f32Bytes [d.1, d.2] ++ bytesAt kp 0 8)), false)

/-- A keypoint without a landmark receives one where it has depth, or parallax over three frames (R259). -/
def Forming.newLandmark (f : FrameIn) (r : Forming) (num : Nat) (kp : List Byte) : Forming :=
  let x := roundAway ((intAt kp 0 4 : Rat) / 32)
  let y := roundAway ((intAt kp 4 4 : Rat) / 32)
  let t := NMap.getD r.ties num {}
  let one : F32 := f32Of (1 / (2 ^ fieldAt kp 8 1 : Nat))
  match (if 0 ≤ x ∧ 0 ≤ y then depthAt f.view f.planes x.toNat y.toNat else none) with
  | some d =>
    let q := depthPoint f kp (f32Of d.1, f32Of d.2)
    let b := padTo 48 q.1
    { r with sat := r.sat || q.2 || (roundF32 d.1).2 || (roundF32 d.2).2 }.addPoint f num (bytesAt b 0 24) (fun k id =>
      (.depth, factorOf 5 0 1 3 96 2 0 id 0 [k] f.tS (leBytes 1 3 ++ List.replicate 7 0 ++ bytesAt b 0 24 ++ bytesAt b 24 24)))
  | none =>
    match midpoint f t kp with
    | some (a, p) =>
      if decide (3 ≤ t.frames) && decide (piQ / 90 ≤ a) then
        r.addPoint f num p (fun k id => (.landmark, reprojection f kp id one none k))
      else r
    | none => r

/-- One keypoint: its number, its record. -/
def Forming.keypoint (f : FrameIn) (r : Forming) (k : Nat × Nat × List Byte) : Forming :=
  let (idx, num, kp) := k
  if inFoot f.feet (intAt kp 0 4) (intAt kp 4 4) then { r with masked := r.masked + 1 }
  else
    let m := bytesAt f.matches_ (8 * idx) 8
    let ref := fieldAt m 2 2
    let e := bytesAt f.table (32 * ref) 32
    let lvl : Nat := 2 ^ fieldAt kp 8 1
    let hit := !f.matches_.isEmpty && fieldAt m 0 2 == idx && ref != 0xFFFF && decide (32 * ref + 32 ≤ f.table.length) && bit (fieldAt e 0x1A 1) 0
    let finite := (f64sAt e 0 3).all f64IsFinite
    let t := NMap.getD r.ties num {}
    let tracked := fieldAt kp 0xC 2 != 0xFFFF
    let r :=
      if hit && finite then
        let w := f32Of (sqrtQ ((fieldAt m 4 2 : Rat) / 65535) / lvl)
        { r with
          factors := r.factors ++ [(.map, reprojection f kp r.nextFactor w (some (bytesAt e 0 24)) 0)], nextFactor := r.nextFactor + 1
          ties := NMap.set r.ties num { t with point := some (f64sAt e 0 3) } }
      else
        let r := if hit then { r with bad := r.bad + 1 } else r
        match tracked, t.landmark with
        | true, some b =>
          { r with factors := r.factors ++ [(.landmark, reprojection f kp r.nextFactor (f32Of (1 / (lvl : Rat))) none b)], nextFactor := r.nextFactor + 1 }
        | _, _ => r
    if tracked && t.landmark.isNone then r.newLandmark f num kp else r

/-- The factors of a frame, over the imaging output of IN[2] and the numbers of its keypoints. -/
def formFrame (f : FrameIn) (img : List Byte) (ids : List Nat) (ties : NMap Tie) : Forming :=
  let n := min ids.length (fieldAt img 8 4)
  ((List.range n).map (fun k => (k, ids.getD k 0, bytesAt img (64 + 16 * k) 16))).foldl (Forming.keypoint f) { ties := ties, nextFactor := f.se.nextFactor }

/-! ### The window (R263) -/

/-- The radio entries a job takes, and those that wait. -/
def sealWindow (s : State) (y : Session) (dispatched : Nat) : List RadioEntry × List RadioEntry :=
  let take (e : RadioEntry) : Bool :=
    match NMap.get? s.core.air.closes (groupKey y) with
    | some q => if 4 * dtOf s ≤ q + 4000000000 then decide (4 * e.ts ≤ q) else decide (e.ts ≤ dispatched)
    | none => decide (e.ts ≤ dispatched)
  (y.radioQ.filter take, y.radioQ.filter (fun e => !take e))

/-! ### Gates and pairs (R264 to R269) -/

/-- Dimensions of CAMERA, ODOMETRY, RADIO, and the alone gates. -/
def gateDim (src : Nat) : Nat := if src == 0 then 6 else 3
def aloneGate (src : Nat) : Rat := if src == 0 then 2246 / 100 else 1627 / 100
/-- The joint gate of a pair. -/
def jointGate (a b : Nat) : Rat := if gateDim a + gateDim b = 9 then 2788 / 100 else 2246 / 100
/-- The pairs in their order. -/
def gatePairs : List (Nat × Nat) := [(0, 1), (0, 2), (1, 2)]

/-- What a source measured against the prediction: ν, the rows of H over the reference's position, rotation and velocity, R. -/
structure Measure where
  nu : List Rat
  h : Mat
  r : Mat
  deriving DecidableEq, Repr
def Measure.beside (a b : Measure) : Measure := { nu := a.nu ++ b.nu, h := a.h ++ b.h, r := Mat.diag2 a.r b.r }
/-- νᵀ·S⁻¹·ν with S = H·P·Hᵀ + R; none where S is singular (R266). -/
def Measure.distance (p : Mat) (m : Measure) : Option Rat := mahalanobis (((m.h.times p).times (Mat.tr m.h)).plus m.r) m.nu

/-- The window's gated sources: what each measured, by source; absent sources hold none. -/
structure Gated where
  /-- The reference as open values see it. -/
  ref : List Byte
  /-- The covariance of the reference: position, rotation, velocity, in the map frame. -/
  p : Mat
  meas : List (Option (List Byte))
  /-- What each source measured against the prediction, where there is one. -/
  known : List (Option Measure)
  /-- RADIO is inactive as an anchor (R266). -/
  anchor : Bool
  deriving DecidableEq, Repr

/-- A gate's distance: the open figure where it has no value, and whether it has one. -/
def gateOf (g : Gated) (m : Option Measure) (tag : Nat) (arg : List Byte) : Rat × Bool :=
  match m with
  | some m => match m.distance g.p with
    | some d => (d, true)
    | none => (f64Val (Config.numeric64 tag arg), false)
  | none => (f64Val (Config.numeric64 tag arg), Config.numericNat tag arg == 0)

/-- One source alone: its history, and whether it passes. A singular S fails (R289). -/
def gateAlone (g : Gated) (src : Nat) (h : F32) : F32 × Option Bool :=
  match g.meas.getD src none with
  | none => (h, none)
  | some m =>
    let nis := gateOf g (g.known.getD src none) 120 (leBytes 1 src ++ g.ref ++ m)
    let ok := nis.2 && decide (nis.1 ≤ aloneGate src)
    (f32Of (f32Val h + (min (nis.1 / gateDim src) 100 - f32Val h) / 8), some ok)

/-- The course of the pairs in a window. -/
structure PairRun where
  pairs : List PairSt
  conflict : Bool := false
  k : Rat := 1
  /-- Sources whose factors take the switchable kernel. -/
  switch : List Nat := []
  /-- Sources quarantined in this window. -/
  quar : List Nat := []
  /-- Votes against the window's arrays. -/
  vote : Bool := false
  deriving DecidableEq, Repr

/-- The loser of a decision: the larger history, the lower bit of SOURCES on a tie. -/
def loserOf (hist : List F32) (a b : Nat) : Nat := if vec32 hist a < vec32 hist b then b else a

/-- One pair of R266 and R267. `quarantined` are the sources quarantined before the window. -/
def pairStep (g : Gated) (hist : List F32) (pass : List (Option Bool)) (quarantined : List Nat) (r : PairRun) (i : Nat) : PairRun :=
  let (a, b) := gatePairs.getD i (0, 1)
  let p := r.pairs.getD i {}
  let put (r : PairRun) (p : PairSt) : PairRun := { r with pairs := setAt r.pairs i p }
  let out (n : Nat) : Bool := quarantined.contains n || r.quar.contains n || (n == 2 && g.anchor)
  if out a || out b then put r {}
  else
    let p := if p.st != 0 then { p with n := p.n + 1 } else p
    let both := pass.getD a none == some true && pass.getD b none == some true
    let arg := leBytes 1 a ++ leBytes 1 b ++ g.ref ++ (g.meas.getD a none).getD [] ++ (g.meas.getD b none).getD []
    let joint := match g.known.getD a none, g.known.getD b none with
      | some x, some y => some (x.beside y)
      | _, _ => none
    let d2 := gateOf g joint 121 arg
    let failed := both && (!d2.2 || decide (jointGate a b < d2.1))
    let r := if failed then { r with conflict := true, k := max r.k (min (d2.1 / jointGate a b) 100) } else r
    let p := if failed && p.st == 0 then { p with st := 1, n := 1 } else p
    let p := if both && p.st != 0 then { p with last := failed } else p
    let p := if both && p.st == 2 && !failed then {} else p
    let r := if p.st != 0 then { r with switch := r.switch ++ [a, b] } else r
    if p.st == 1 && p.n == 8 then
      if p.last then
        let l := loserOf hist a b
        if l == 2 then put { r with vote := true } { p with st := 2, n := 0 } else put { r with quar := r.quar ++ [l] } {}
      else put r {}
    else if p.st == 2 && p.n == 8 then put { r with vote := true } { p with n := 0 }
    else put r p

/-- The gates of a window: histories, what passed alone, and the pairs. -/
def gateWindow (g : Gated) (hist : List F32) (pairs : List PairSt) (quarantined : List Nat) : List F32 × List (Option Bool) × PairRun :=
  let al := (List.range 3).map (fun n => gateAlone g n (hist.getD n 0x3F800000))
  let h := al.map (·.1)
  let pass := al.map (·.2)
  (h, pass, (List.range 3).foldl (pairStep g h pass quarantined) { pairs := pairs })

/-! ### The intake of a session job (R251, R257) -/

/-- What an intake gives the solver and the context. -/
structure Window where
  delta : Delta
  /-- The samples the job takes: odometry of a dropped source is gone. -/
  samples : List (Int × List Byte)
  radio : List RadioEntry
  /-- The session's queue that waits on. -/
  queue : List RadioEntry
  ties : NMap Tie
  nextFactor : Nat
  history : List F32
  pairs : List PairSt
  quarCamera : Option Nat
  quarOdometry : Option Nat
  mapFix : Option Nat
  window : W32
  vote : List Nat
  masked : Nat
  new : Nat
  dropped : Nat
  rejects : Nat
  quarDrops : Nat
  bad : Nat
  depth : Bool
  /-- A joint gate failed, and k of R266. -/
  conflict : Bool
  k : Rat
  sat : Bool
  deriving DecidableEq, Repr

/-- The map points of ready-made records tie the keypoints of their pixels (a relocalisation's inliers; DESIGN CHOICE). -/
def tieRecords (recs : List (List Byte)) (kps : List (Nat × List Byte)) (ties : NMap Tie) : NMap Tie :=
  (recs.filter mapMatched).foldl (fun m r =>
    match kps.find? (fun e => [f32Of ((intAt e.2 0 4 : Rat) / 32), f32Of ((intAt e.2 4 4 : Rat) / 32)] == f32sAt r 0x24 2) with
    | some e => NMap.set m e.1 { (NMap.getD m e.1 {}) with point := some (f64sAt r 0x48 3) }
    | none => m) ties

/-- The imaging parameters behind IN[2] (R257). -/
def paramBehind (g : Slot) (t : GStep) : List Byte :=
  match g.graph.steps.find? (fun u => u.engine == 2 && u.outs.any (fun r => r.count != 0 && r.first == (t.inR 2).first)) with
  | some u => u.param
  | none => imagingParam g

/-- Reads IN[i], nothing where it is not used. -/
def inBytes (g : Slot) (x : Inst) (t : GStep) (i : Nat) : List Byte := if (t.inR i).count == 0 then [] else rangeBytes g x (t.inR i)

/-- The instant of the window's newest knot (R264): of the knots held, the frames that bring one, and the multiples of KNOT_MS up to the newest sample. -/
def newestKnot (se : SeStruct) (knotMs : Nat) (now : Int) : Int :=
  let step : Int := 1000000 * (se.knotMs.getD knotMs : Nat)
  let newest := (se.samples.map (·.1)).foldl max 0
  let l := se.knots.map (·.at_) ++ (se.samples.filter (fun p => fieldAt p.2 0 1 == 1)).map (·.1) ++ (if step = 0 || newest < step then [] else [newest / step * step])
  match l with
  | [] => now
  | a :: r => r.foldl max a

/-- CAMERA's measurement: the body pose of three iterations over the map-matched records, with its covariance carried to the map frame. None where a
record's camera has no closed form, or the normal matrix is singular. -/
def cameraMeasure (c : SessCtx) (se : SeStruct) (pose : Pose) (recs : List (List Byte)) : Option Measure :=
  let sights := recs.map (fun r => sightOf c.sensors se.stereo r (v3At64 r 0x48))
  if sights.any (·.isNone) then none
  else
    let l := sights.filterMap id
    let z := pnpRefine l 3 pose
    (pnpCov l pose).map (fun m =>
      let a := Mat.diag2 z.r.mat z.r.mat
      { nu := (z.t.sub pose.t).list ++ (logRot (z.r.mul pose.r.conj)).list, h := (matId 6).map (· ++ [0, 0, 0]), r := (a.times m).times (Mat.tr a) })

/-- RADIO's measurement: the information-weighted mean of the window's radio positions, each carried to the instant of the newest knot at its velocity with
the noise of a white acceleration of 1 m/s²/√Hz (R221, R264). -/
def radioMeasure (vel : V3) (at_ : Int) (pose : Pose) (es : List RadioEntry) : Option Measure :=
  let one (e : RadioEntry) : V3 × Option Mat :=
    let dt : Rat := ((at_ - e.ts : Int) : Rat) / 10 ^ 9
    ((v3Of (e.pos.map f64Val)).add (V3.scale dt vel), ((symMat 3 (e.cov.map f32Val)).plus (Mat.by (absQ dt ^ 3 / 3) (matId 3))).inv)
  let l := es.map one
  if l.any (·.2.isNone) then none
  else
    let w := l.map (fun e => (e.1, e.2.getD []))
    let info := w.foldl (fun m e => m.plus e.2) (matOf 3 3 (fun _ _ => 0))
    let sum := w.foldl (fun v e => v.zipWith (· + ·) (e.2.app e.1.list)) [0, 0, 0]
    info.inv.map (fun r =>
      { nu := ((r.app sum).zip pose.t.list).map (fun e => e.1 - e.2), h := (matId 9).take 3, r := r })

/-- The odometry slot's axes in the body. -/
def odoAxes (c : SessCtx) : Quat := ((c.sensors.find? (fun a => a.type == 6)).map (fun s => s.pose.r)).getD {}
/-- ODOMETRY's measurement: the mean of the window's odometry records (forward and lateral velocity, yaw rate, in the slot's axes) against the predicted velocity and
the body's last angular rate; without a gyroscope the predicted yaw rate is open. -/
def odometryMeasure (c : SessCtx) (m : Motion) (last : List Byte) (recs : List (List Byte)) : Option Measure :=
  let n : Rat := recs.length
  let mean (o : Nat) (k : Rat) : Rat := sumQ (recs.map (fun r => f32Val (f32At r o))) / k
  let q := (m.pose.r.mul (odoAxes c)).unit
  let v := q.conj.turn m.v
  let back := Mat.tr q.mat
  let turn := back.times (skew m.v)
  let yaw := if last.isEmpty then f64Val (Config.numeric64 154 (recs.flatMap id)) else ((odoAxes c).conj.turn (bodyRate c last)).z
  let row (i : Nat) : List Rat := [0, 0, 0] ++ turn.getD i [] ++ back.getD i []
  if recs.isEmpty then none
  else some
    { nu := [mean 9 n - v.x, mean 0xD n - v.y, mean 0x11 n - yaw], h := [row 0, row 1, List.replicate 9 0]
      r := matOf 3 3 (fun i j => if i = j then mean (0x15 + 4 * i) (n * n) else 0) }

/-- Ties of keypoints whose landmark has left are cut. -/
def cleanTies (se : SeStruct) (ties : NMap Tie) : NMap Tie :=
  let held := ((se.heldDelta.map (·.points)).getD []).map (·.1)
  ties.map (fun t => (t.1, { t.2 with landmark := t.2.landmark.filter (fun b => NMap.has se.vars b || held.contains b) }))

/-- The ties a job works on: those of the context it works on, with what the session has tied since. -/
def jobTies (y : Session) (c : SessCtx) : NMap Tie :=
  cleanTies y.se (c.ties.map (fun t => match NMap.get? y.ctx.ties t.1 with
    | some u => (t.1, { t.2 with landmark := u.landmark, point := u.point })
    | none => t))

def intake (s : State) (x : Inst) (g : Slot) (t : GStep) (y : Session) (c : SessCtx) (sid dispatched : Nat) : Window :=
  let img := inBytes g x t 2
  let rate := bodyRate c (lastInertial y)
  let at_ := newestKnot y.se (fieldAt t.param 6 2) (dtOf s)
  let ref := propagate c (imusSince c y.se at_) rate at_
  let frameAt := x.frameAt.getD at_
  let pose := predictedPose c (imusSince c y.se frameAt) rate frameAt
  let ready := rangeRecords 65536 (inBytes g x t 0) 0
  let formed : Forming := match itemOf s x, x.frameAt with
    | some (_, _, it), some _ =>
      let v : View := { kind := g.graph.kind, param := paramBehind g t, a := x.calib.getD it.slot {}, b := x.calib.getD (it.slot + 1) {} }
      let f : FrameIn :=
        { view := v, slot := it.slot, tS := it.clientTime, pose := pose, se := y.se, lmkMax := fieldAt t.param 0x1E 2,
          matches_ := inBytes g x t 1, table := inBytes g x t 3, feet := padTo 1024 (inBytes g x t 4), planes := inBytes g x t 5 }
      let kps := x.kpIds.zipIdx.map (fun e => (e.1, bytesAt img (64 + 16 * e.2) 16))
      formFrame f img x.kpIds (tieRecords ready kps (jobTies y c))
    | _, _ => { ties := jobTies y c, nextFactor := y.se.nextFactor }
  let mapped := (formed.factors.filter (fun e => e.1 == .map)).map (·.2) ++ ready.filter mapMatched
  let odo := y.se.samples.filter (fun p => fieldAt p.2 0 1 == 5)
  let sealed_ := sealWindow s y dispatched
  let good := sealed_.1.filter (fun e => !arrayQuarantined s e.array)
  let before := (if c.quarCamera.isSome then [0] else []) ++ (if c.quarOdometry.isSome then [1] else [])
  let m (n : Nat) (ok : Bool) (b : List Byte) : Option (List Byte) := if ok && !before.contains n then some b else none
  let gt : Gated :=
    { ref := leInt 8 at_ ++ pose ++ ((c.solved.map (·.header)).getD [])
      p := (ref.map (·.2)).getD []
      meas := [m 0 (decide (12 ≤ mapped.length)) mapped.flatten, m 1 (!odo.isEmpty) (odo.flatMap (·.2)),
        m 2 (!good.isEmpty) (good.flatMap (·.records))]
      known := match ref with
        | some (m, _) =>
          [cameraMeasure c y.se m.pose mapped, odometryMeasure c m (lastInertial y) (odo.map (·.2)), radioMeasure m.v at_ m.pose good]
        | none => []
      anchor := (boundArrays s sid).any (arrayQuarantined s) }
  let (hist, pass, run) := gateWindow gt c.history c.pairs before
  let quarantined (n : Nat) : Bool := before.contains n || run.quar.contains n
  let rejected (n : Nat) : Bool := pass.getD n none == some false
  let goneS (n : Nat) : Bool := quarantined n || rejected n
  let sw (n : Nat) (r : List Byte) : List Byte := if run.switch.contains n then switchable r else r
  let seen := (formed.factors.filter (fun e => e.1 != .map || !goneS 0)).map (fun e => if e.1 == .map then sw 0 e.2 else e.2)
  let ready := (ready.filter (fun r => !mapMatched r || !goneS 0)).map (fun r => if mapMatched r then sw 0 r else r)
  let radio := if goneS 2 then [] else good
  let (recs, next) := radio.foldl (fun (acc : List (List Byte) × Nat) e =>
    let id (r : List Byte) (k : Nat) : List Byte := sw 2 (overlay r 8 (leBytes 4 k))
    (acc.1 ++ [id (bytesAt e.records 0 64) acc.2, id (bytesAt e.records 64 80) (acc.2 + 1)], acc.2 + 2)) ([], formed.nextFactor)
  let odoKind : Nat := if run.switch.contains 1 then 7 else 5
  let samples := (y.se.samples.filter (fun p => fieldAt p.2 0 1 != 5 || !goneS 1)).map (fun p =>
    if fieldAt p.2 0 1 == 5 then (p.1, overlay p.2 0 (leBytes 1 odoKind)) else p)
  let now := dtOf s
  { delta := { points := formed.points, records := ready ++ seen ++ recs }
    samples := samples, radio := radio, queue := sealed_.2, ties := formed.ties, nextFactor := next, history := hist, pairs := run.pairs
    quarCamera := if run.quar.contains 0 then some (now + 5000000000) else c.quarCamera
    quarOdometry := if run.quar.contains 1 then some (now + 5000000000) else c.quarOdometry
    mapFix := if (gt.meas.getD 0 none).isSome then some 0 else c.mapFix.map (· + 1)
    window := c.window + 1
    vote := if run.vote then (good.map (·.array)).eraseDups else []
    masked := formed.masked, new := formed.points.length, dropped := formed.dropped
    rejects := ((List.range 3).filter rejected).length
    quarDrops := (if quarantined 0 then mapped.length else 0) + (if quarantined 1 then odo.length else 0) + (sealed_.1.length - good.length)
    bad := formed.bad, depth := formed.factors.any (fun e => e.1 == .depth), conflict := run.conflict, k := run.k, sat := formed.sat }

/-! ### The fusion block (R270) -/

/-- A REPROJECTION with a map point, with or without a SWITCH. -/
def mapFactor (r : List Byte) : Bool := fieldAt r 0 1 == 1 && fieldAt r 2 1 == (if fieldAt r 1 1 == 3 then 2 else 1)

/-- SOURCES of a window. -/
def sourcesOf (w : Window) : Nat :=
  let has (k : Nat) : Bool := w.samples.any (fun p => fieldAt p.2 0 1 == k)
  let radio := b2n (!w.radio.isEmpty)
  packBits [(b2n (w.delta.records.any (fun r => fieldAt r 0 1 == 1)), 0), (b2n w.depth, 1), (b2n (has 4), 2), (b2n (has 5 || has 7), 3), (radio, 4),
    (radio, 5), (b2n (w.delta.records.any mapFactor), 6)]

/-- The 64-byte block of a window. -/
def fusionBlock (w : Window) (quarantine : Nat) : List Byte :=
  let st (i n : Nat) : Nat := b2n ((w.pairs.getD i {}).st == n)
  let flags := packBits [(b2n w.conflict, 0), (st 0 1, 1), (st 1 1, 2), (st 2 1, 3), (st 0 2, 4), (st 1 2, 5), (st 2 2, 6)]
  padTo 64 (leBytes 4 (sourcesOf w) ++ leBytes 4 quarantine ++ leBytes 1 flags ++ [0] ++ leBytes 2 w.rejects ++ f32Bytes (f32Of w.k :: w.history) ++
    leBytes 2 (min 65535 w.masked) ++ leBytes 2 (min 65535 w.new) ++ leBytes 4 w.window.toNat)

/-! ### The end of a quarantine (R268) -/

def execQuarantineEnd (sid source : Nat) (s : State) : Host.Outcome State Fault Refusal :=
  .next (match sessAt s sid with
    | none => s
    | some y =>
      let due (q : Option Nat) : Bool := match q with
        | some t => running s && decide (t ≤ dtOf s)
        | none => false
      if source == 0 && due y.ctx.quarCamera then s.modCtx sid (fun c => { c with quarCamera := none, history := setAt c.history 0 0x3F800000 })
      else if source == 1 && due y.ctx.quarOdometry then s.modCtx sid (fun c => { c with quarOdometry := none, history := setAt c.history 1 0x3F800000 })
      else s)

end Sys2Proof.Machine
end

