-- ==== Sys2Proof/Machine/Intake.lean ====
section
/-! DEFINITION. The radio intake (R327 to R350): fronthaul frames, the assembly of sounding symbols, the rebuilding of an element's
signal, the filter chains and the symbol block. The calibrated inverse transform of R343 is a function of Config. -/
namespace Sys2Proof.Machine

/-! ### Frames (R327 to R329) -/

/-- A section of a U-plane message: first PRB, number of PRBs, udIqWidth, the bytes of each PRB. -/
structure Section where
  start : Nat
  width : Nat
  prbs : List (List Byte)
  deriving DecidableEq, Repr

/-- A U-plane message: eAxC ID, frameId, subframe, slot, symbol and the sections. -/
structure UMsg where
  eaxc : Nat
  frameId : Nat
  subframe : Nat
  slot : Nat
  symbol : Nat
  sections : List Section
  deriving DecidableEq, Repr

/-- What a received frame is: PTP (another row's), other traffic, a frame that breaks a supported entry, or a message. -/
inductive FhFrame where
  | ptp | other | bad | msg (m : UMsg)
  deriving DecidableEq, Repr

/-- The sections of a message's payload; none where one breaks R328. -/
def parseSections : Nat → List Byte → Option (List Section)
  | 0, _ => none
  | n + 1, b =>
    if b.length < 6 then none
    else
      let w := beAt b 0 4
      let start := bits w 17 8
      let num := if bits w 7 0 == 0 then 273 - start else bits w 7 0
      let comp := beAt b 4 1
      let width := comp / 16
      let per := 1 + 3 * width
      let rest := b.drop (6 + num * per)
      if bits w 19 18 != 0 || comp % 16 != 1 || !(width == 9 || width == 12 || width == 14) || num == 0 || decide (273 < start + num) ||
          decide (b.length < 6 + num * per) then none
      else
        let sec : Section := { start := start, width := width, prbs := (List.range num).map (fun i => bytesAt b (6 + i * per) per) }
        if rest.isEmpty then some [sec] else (parseSections n rest).map (sec :: ·)

/-- The U-plane message of an eCPRI IQ-data message, from its PC_ID on (R327, R328). -/
def parseUplane (mu : Nat) (b : List Byte) : FhFrame :=
  let a := beAt b 4 1
  let t := beAt b 6 2
  let sub := bits t 15 12
  let slot := bits t 11 6
  let sym := bits t 5 0
  if decide (b.length < 8) || beAt b 3 1 != 0x80 then .bad
  else if bit a 7 then .other
  else if bits a 6 4 != 1 then .bad
  else if bits a 3 0 != 0 then .other
  else if decide (9 < sub) || decide (2 ^ mu ≤ slot) || decide (13 < sym) then .bad
  else match parseSections b.length (b.drop 8) with
    | none => .bad
    | some l => .msg { eaxc := beAt b 0 2, frameId := beAt b 5 1, subframe := sub, slot := slot, symbol := sym, sections := l }

/-- A frame without its FCS, read under R327. -/
def parseFronthaul (mu : Nat) (f : List Byte) : FhFrame :=
  let tagged := beAt f 12 2 == 0x8100
  let o := if tagged then 16 else 12
  let b := f.drop (o + 2)
  if beAt f o 2 == 0x88F7 then .ptp
  else if beAt f o 2 != 0xAEFE then .other
  else if decide (9596 < f.length) || decide (b.length < 4) || beAt b 0 1 / 16 != 1 || beAt b 0 1 % 2 != 0 then .bad
  else if beAt b 1 1 != 0 then .other
  else if beAt b 2 2 != b.length - 4 then .bad
  else parseUplane mu (b.drop 4)

/-! ### The air start (R330) -/

/-- The air start, exact in ns of DT, that lies latest at or before now for a symbol of frameId; and its SFN. -/
def airStart (s : State) (m : UMsg) : Rat × Nat :=
  let mu := s.core.air.mu
  let t : Rat := dtExact s - s.core.air.epoch
  let base := symStart mu m.frameId m.subframe m.slot m.symbol
  let k := ((t - base) / 2560000000).floor
  (s.core.air.epoch + base + 2560000000 * k, (m.frameId + 256 * (k % 4).toNat) % 1024)

/-! ### Candidates (R332, R335, R336) -/

/-- Occasions of a binding hold a slot (R332). -/
def Binding.occasion (b : Binding) (mu sfn sub slot : Nat) : Bool :=
  let n := (10 * sfn + sub) * 2 ^ mu + slot
  (n + b.period - b.slotOff % b.period) % b.period == 0

/-- The binding's symbol and PRBs meet a section. -/
def Binding.meets (b : Binding) (m : UMsg) (x : Section) : Bool :=
  decide (b.sym ≤ m.symbol) && decide (m.symbol < b.sym + b.nsym) && decide (x.start < b.prb + b.nprb) && decide (b.prb < x.start + x.prbs.length)

/-- A chain's capture windows cover an air start; a chain that no event entry names is always open (R335). -/
def chainOpen (s : State) (c air : Nat) : Bool :=
  let named := s.core.air.events.any (fun e => (e.2.action == 3 || e.2.action == 4) && bit e.2.arg c)
  !named || (scuChain s c).windows.any (fun w => decide (w.1 ≤ air) && (match w.2 with
    | some e => decide (air < e)
    | none => true))

/-- A chain takes an element of a symbol on a port (R336). -/
def chainTakes (s : State) (c port air : Nat) : Bool :=
  let x := scuChain s c
  x.run && !x.stopping && x.owner == 0 && x.port == port && chainOpen s c air

/-- The chain of a binding that would carry an element of an eAxC ID. -/
def carrier (s : State) (b : Binding) (eaxc : Nat) : Option Nat := (elementChains s b).findSome? (fun e => if e.2.2.1.eaxc == eaxc then e.2.2.2 else none)

/-! ### Limits (R339, R347, R350) -/

def intakeBytes : Nat := 2097152
/-- The ingress FIFO ahead of a buffer (R340). -/
def fifoBytes : Nat := 65536
/-- T_b in ns (R343). -/
def sampleNs (mu comb : Nat) : Rat := 1000000000 / (4096 * comb * 15000 * 2 ^ mu : Nat)
/-- Active decimators of a chain. -/
def activeDec (c : Chain) : Nat := (c.dec.filter (fun h => !h.isEmpty)).length
/-- Fine samples of an element (R345). -/
def fineCount (c : Chain) : Nat := 4096 / 2 ^ activeDec c
/-- The length of an element record (R350). -/
def recordLen (c : Chain) : Nat := 64 + 4 * (fineCount c + 512)
/-- Bytes a symbol holds in the intake buffer. -/
def symBytes (y : Sym) : Nat := ((y.els.flatMap (fun e => e.prbs)).map (fun p => p.2.2.length)).foldl (· + ·) 0

/-- Every expected element covers the binding's range (R337). -/
def Sym.complete (y : Sym) (b : Binding) : Bool := y.els.all (fun e => (List.range b.nprb).all (fun i => NMap.has e.prbs (b.prb + i)))

/-! ### Completion (R341) -/

/-- The graph slot that serves radio symbols on a channel: the lowest resident one of kind 0x80. -/
def radioSlot (s : State) (ch : Nat) : Option Nat :=
  (List.range 64).find? (fun g => match residentAt s ch g with
    | some x => x.graph.kind == 0x80
    | none => false)

/-- Blocks of the range that the SCU fills. -/
def intakeBlocks (g : Graph) : Nat := match stepIdx g 1 with
  | some k => match g.steps[k]? with
    | some t => (t.outR 0).count
    | none => 0
  | none => 0

/-- A complete symbol requests its instance, or is dropped. -/
def State.completeSym (s : State) (k : Nat) (bufferError : Bool) : State :=
  match NMap.get? s.core.scu.syms k with
  | none => s
  | some y =>
    match sessAt s y.sid with
    | none => s.dropSym k 5
    | some x =>
      if x.state == .moving || x.state == .closing then s.dropSym k 5
      else match radioSlot s x.chan with
        | none => s.dropSym k 3
        | some g =>
          if !slotAdmits s x.chan g x.owner then (s.bump (secCtr 2) 1).dropSym k 3
          else match freeInst s x.chan g with
            | none => s.dropSym k 4
            | some i =>
              let len := (y.els.map (fun e => recordLen (scuChain s e.chain))).foldl max 0
              let room := match graphAt s x.chan g with
                | some v => 4096 * intakeBlocks v.graph
                | none => 0
              if room < 64 + y.els.length * len then s.dropSym k 6
              else if bufferError then (s.err1 4 1 y.port).dropSym k 7
              else
                let w : Waiting :=
                  { slot := g, origin := .symbol k, ctx := x.owner, sid := some y.sid, arrival := dtOf s,
                    deadline := y.tAir.floor.toNat + 50000000, admitted := true, seq := (chanAt s x.chan).nextSeq }
                let s := s.modChan x.chan (fun c => { c with nextSeq := c.nextSeq + 1 })
                let s := s.modScu (fun u => { u with
                  syms := NMap.upd u.syms k (fun y => { y with phase := 1, recLen := len, inst := some (x.chan, i), done := u.nextDone })
                  nextDone := u.nextDone + 1 })
                let s := (s.createInst x.chan i w).bump (scuPortCtr y.port 4) 1
                s.traceRec 0x20 y.port (leBytes 2 y.binding ++ leBytes 1 0)

/-! ### Assembly (R336, R337, R340) -/

/-- Starts a symbol: its expected elements, and those no chain carries (R336). -/
def State.startSym (s : State) (port bi : Nat) (b : Binding) (m : UMsg) (start : Rat) (sfn : Nat) : State :=
  let air := (toQuarter start).toNat
  let found := elementChains s b
  let keep := found.filterMap (fun e => match e.2.2.2 with
    | some c => if chainTakes s c port air then
        some ({ array := e.1, element := e.2.1, chain := c, def_ := e.2.2.1 } : SymEl) else none
    | none => none)
  let s := s.bump (scuPortCtr port 6) (found.length - keep.length)
  let y : Sym :=
    { binding := bi, bound := b, sid := b.sid, port := port, sfn := sfn, subframe := m.subframe, slot := m.slot, symbol := m.symbol, air := air,
      tAir := start + cpNs s.core.air.mu m.slot m.symbol, mu := s.core.air.mu, first := dtOf s, els := keep, arrays := s.core.scu.arrays,
      phase := if keep.isEmpty then 2 else 0, began := dtOf s }
  s.modScu (fun u => { u with syms := NMap.set u.syms u.nextSym y, nextSym := u.nextSym + 1 })

/-- The PRBs of a section that an element of a binding still lacks. -/
def newPrbs (b : Binding) (e : SymEl) (x : Section) : List (Nat × List Byte) :=
  (x.prbs.zipIdx.map (fun p => (x.start + p.2, p.1))).filter (fun p =>
    decide (b.prb ≤ p.1) && decide (p.1 < b.prb + b.nprb) && !NMap.has e.prbs p.1)

/-- Bytes that a port's ingress FIFO still holds: they leave for the buffer at 8 GB/s (R339, R340). -/
def fifoHeld (s : State) (port : Nat) : Nat :=
  let f := s.core.scu.fifo.getD port (0, 0)
  f.1 - 8 * (dtOf s - f.2)

/-- Stores a section in a symbol, or drops the symbol for want of space; a symbol made whole goes on. -/
def State.storeSection (s : State) (k : Nat) (b : Binding) (eaxc : Nat) (x : Section) (bufferError : Bool) : State :=
  match NMap.get? s.core.scu.syms k with
  | none => s
  | some y =>
    let add := y.els.map (fun e => if e.def_.eaxc == eaxc then newPrbs b e x else [])
    let n := ((add.flatMap id).map (fun p => p.2.length)).foldl (· + ·) 0
    if intakeBytes < s.core.scu.held.getD y.port 0 + n ∨ fifoBytes < fifoHeld s y.port + n then s.dropSym k 1
    else
      let y' := { y with els := (y.els.zip add).map (fun p =>
        { p.1 with prbs := p.2.foldl (fun m q => NMap.set m q.1 (x.width, q.2)) p.1.prbs }) }
      let s := s.modScu (fun u => { u with syms := NMap.set u.syms k y', held := updAt u.held y.port (· + n), fifo := setAt u.fifo y.port (fifoHeld s y.port + n, dtOf s) })
      if y'.complete b then s.completeSym k bufferError else s

/-- A symbol of a binding and an air start. -/
def symOf (s : State) (bi air : Nat) : Option (Nat × Sym) := s.core.scu.syms.find? (fun p => p.2.binding == bi && p.2.air == air)

/-- A section for one binding that it meets. -/
def State.takeSection (s : State) (port bi : Nat) (b : Binding) (m : UMsg) (start : Rat) (sfn : Nat) (x : Section) (bufferError : Bool) :
    State :=
  let air := (toQuarter start).toNat
  if s.core.scu.gone.contains (bi, air) then s.bump (scuPortCtr port 5) 1
  else match symOf s bi air with
    | some (k, y) =>
      if y.phase == 0 then s.storeSection k b m.eaxc x bufferError else if y.phase == 1 then s.bump (scuPortCtr port 5) 1 else s
    | none =>
      let k := s.core.scu.nextSym
      let s := s.startSym port bi b m start sfn
      match NMap.get? s.core.scu.syms k with
      | some y => if y.phase == 0 then s.storeSection k b m.eaxc x bufferError else s
      | none => s

/-- Forgets symbols that a section can no longer name: those beyond R330's 2 ms, and stale ones after frameId has come round. -/
def State.pruneIntake (s : State) : State :=
  let now := dtQuarter s
  let live (air : Nat) : Bool := decide (now ≤ air + 9000000)
  s.modScu (fun u => { u with
    gone := u.gone.filter (fun g => live g.2)
    unbound := u.unbound.filter (fun g => if g.2.1 == 65536 then decide (now ≤ g.2.2 + 10240000000) else live g.2.2)
    syms := u.syms.filter (fun p => p.2.phase != 2 || live p.2.air) })

/-- One section of a message on a port; of a stale one, only what belongs to a symbol in assembly, whose first section came in time (R330). -/
def State.intakeSection (port : Nat) (m : UMsg) (start : Rat) (sfn : Nat) (bufferError stale : Bool) (s : State) (x : Section) : State :=
  let air := (toQuarter start).toNat
  let mine := s.core.scu.bindings.filter (fun p => p.2.port == port && (match carrier s p.2 m.eaxc with
    | some c => chainOpen s c air
    | none => false))
  let known := s.core.scu.bindings.filter (fun p => p.2.port == port && (matchingElements s p.2).any (fun e => e.2.2.eaxc == m.eaxc))
  let bound (p : Nat × Binding) : Bool := p.2.occasion s.core.air.mu sfn m.subframe m.slot && p.2.meets m x
  let hit := known.filter bound
  let takes (p : Nat × Binding) : Bool := if stale then (symOf s p.1 air).isSome else mine.any (fun q => q.1 == p.1) || (symOf s p.1 air).isSome || s.core.scu.gone.contains (p.1, air)
  if !hit.isEmpty then (hit.filter takes).foldl (fun s p => s.takeSection port p.1 p.2 m start sfn x bufferError) s
  else if mine.isEmpty || s.core.scu.unbound.contains (port, m.eaxc, air) then s
  else (s.modScu (fun u => { u with unbound := u.unbound ++ [(port, m.eaxc, air)] })).bump (scuPortCtr port 3) 1

/-- A message on a port (R330). -/
def State.intakeMsg (s : State) (port : Nat) (m : UMsg) (bufferError : Bool) : State :=
  let (start, sfn) := airStart s m
  let air := (toQuarter start).toNat
  let s := s.pruneIntake
  let stale := decide (2000000 < dtExact s - start)
  if stale && !s.core.scu.syms.any (fun p => p.2.port == port && p.2.air == air && p.2.phase == 0) then
    if s.core.scu.unbound.contains (port, 65536, air) then s
    else (s.modScu (fun u => { u with unbound := u.unbound ++ [(port, 65536, air)] })).bump (scuPortCtr port 2) 1
  else m.sections.foldl (State.intakeSection port m start sfn bufferError stale) s

def execEpFrameRx (port : Nat) (frame : List Byte) (bufferError : Bool) (s : State) : Host.Outcome State Fault Refusal :=
  .next (
    if !running s || decide (2 ≤ port) || !s.hw.epUp.getD port false || !s.hw.is968 then s
    else match parseFronthaul s.core.air.mu frame with
      | .ptp => s
      | .other => s.bump (scuPortCtr port 1) 1
      | .bad => s.bump (scuPortCtr port 0) 1
      | .msg m => s.intakeMsg port m bufferError)

/-- R337: 32 µs after its first section a symbol still in assembly is dropped. -/
def execSymbolIncomplete (symbol : Nat) (s : State) : Host.Outcome State Fault Refusal :=
  .next (match NMap.get? s.core.scu.syms symbol with
    | some y => if running s && y.phase == 0 && decide (y.began + 32000 < dtOf s) then s.dropSym symbol 2 else s
    | none => s)

/-! ### Decompression (R329) -/

/-- Bits of a byte string, most significant first, as a number. -/
def bitsMsb (b : List Byte) (off n : Nat) : Nat := bits (leNat b.reverse) (8 * b.length - 1 - off) (8 * b.length - off - n)

/-- The 24 values I, Q of a PRB: exact, then saturated to int16, with whether one saturated. -/
def prbSamples (w : Nat) (p : List Byte) : List Int × Bool :=
  let e := (p.getD 0 0).toNat % 16
  let v := (List.range 24).map (fun i => asSigned w (bitsMsb (p.drop 1) (i * w) w) * 2 ^ e)
  (v.map (clampInt (-32768) 32767), v.any (fun x => decide (x < -32768) || decide (32767 < x)))

/-- The sounding tones of an element (R343, step 1): I and Q in turn, and whether one saturated. -/
def elementTones (b : Binding) (e : SymEl) : List Int × Bool :=
  let all := (List.range b.nprb).map (fun i => match NMap.get? e.prbs (b.prb + i) with
    | some (w, p) => prbSamples w p
    | none => ([], false))
  let iq := all.flatMap (·.1)
  let sc := (List.range (12 * b.nprb)).filter (fun k => k % b.comb == b.combOff % b.comb)
  (sc.flatMap (fun k => [iq.getD (2 * k) 0, iq.getD (2 * k + 1) 0]), all.any (·.2))

/-- Saturates to int16 and says whether it did. -/
def sat16 (v : Int) : Int × Bool := (clampInt (-32768) 32767 v, decide (v < -32768) || decide (32767 < v))

/-- Step 2 of R343: a tone times the element's calibration, GAIN in 2⁻¹⁴ and PHASE in 2π/65,536, rounded. -/
def calibrated (e : Element) (t : Int × Int) : (Int × Bool) × (Int × Bool) :=
  let a : Rat := 2 * piQ * e.phase / 65536
  let g : Rat := (e.gain : Rat) / 16384
  let c := g * cosQ a
  let s := g * sinQ a
  (sat16 (roundAway (c * t.1 - s * t.2)), sat16 (roundAway (s * t.1 + c * t.2)))
/-- The bin of tone j of n. -/
def toneBin (n j : Nat) : Nat := ((j : Int) - (n / 2 : Nat)) % 4096 |>.toNat
/-- Sample n of the inverse transform before it is rounded: 2⁻⁶ · Σ X[b]·e^(+j2πbn/4096). -/
def inverseAt (tones : List (Int × Int)) (n : Nat) : Rat × Rat :=
  let v := tones.zipIdx.map (fun t =>
    let a : Rat := 2 * piQ * (toneBin tones.length t.2 * n % 4096 : Nat) / 4096
    (cosQ a * t.1.1 - sinQ a * t.1.2, sinQ a * t.1.1 + cosQ a * t.1.2))
  (sumQ (v.map (·.1)) / 64, sumQ (v.map (·.2)) / 64)

/-- Steps 2 to 4 of R343, from the tones and the element's calibration: 4,096 complex samples, and whether one saturated. The transform's internal precision
leaves open the step to which a sample rounds, at most one either way. -/
def rebuild (e : Element) (tones : List Int) : List Int × List Int × Bool :=
  let cal := (List.range (tones.length / 2)).map (fun j => calibrated e (tones.getD (2 * j) 0, tones.getD (2 * j + 1) 0))
  let x := cal.map (fun c => (c.1.1, c.2.1))
  let out := (List.range 4096).map (fun n =>
    let v := inverseAt x n
    let near (part : Nat) (q : Rat) : Int × Bool :=
      sat16 (if x.isEmpty then 0 else roundAway q + openSteps 1 (Config.numericNat 50 (leBytes 2 n ++ leBytes 1 part ++ leInt 2 e.phase ++ leInt 2 e.gain ++ tones.flatMap (leInt 2))))
    (near 0 v.1, near 1 v.2))
  (out.map (·.1.1), out.map (·.2.1), cal.any (fun c => c.1.2 || c.2.2) || out.any (fun o => o.1.2 || o.2.2))

/-! ### A chain (R345, R346) -/

/-- The DC blocker over one component: its outputs, the estimate it leaves (16 fraction bits), whether one saturated. -/
def dcBlock (mode : Nat) : Int → List Int → List Int × Int × Bool
  | m, [] => ([], m, false)
  | m, x :: l =>
    let (y, bad) := if mode == 2 then (x, false) else sat16 (x - roundAway ((m : Rat) / 65536))
    let m' := if mode == 0 then roundAway ((m : Rat) + ((x * 65536 - m : Int) : Rat) / 1024) else m
    let (ys, mEnd, bad') := dcBlock mode m' l
    (y :: ys, mEnd, bad || bad')

/-- Σ h[i]·x[n − i], samples before the block being zero. -/
def firAt (h x : List Int) (n : Nat) : Int :=
  (h.zipIdx.map (fun p => if p.2 ≤ n then p.1 * x.getD (n - p.2) 0 else 0)).foldl (· + ·) 0

/-- Rounds a sum over a power of two under R12 and saturates. -/
def scaleDown (acc : Int) (shift : Nat) : Int × Bool := sat16 (roundAway ((acc : Rat) / (2 ^ shift : Nat)))

/-- One decimator. -/
def decimate (h : List Int) (shift : Nat) (x : List Int) : List Int × Bool :=
  let acc := if h.isEmpty then x else (List.range (x.length / 2)).map (fun k => firAt h x (2 * k))
  let out := acc.map (fun a => scaleDown a shift)
  (out.map (·.1), out.any (·.2))

/-- A component through the decimators and the channel FIR. -/
def finePath (c : Chain) (y : List Int) : List Int × Bool :=
  let d1 := decimate (c.dec.getD 0 []) (c.shifts.getD 0 0) y
  let d2 := decimate (c.dec.getD 1 []) (c.shifts.getD 1 0) d1.1
  let d3 := decimate (c.dec.getD 2 []) (c.shifts.getD 2 0) d2.1
  let out := (List.range d3.1.length).map (fun n => scaleDown (firAt c.fir d3.1 n) 15)
  (out.map (·.1), d1.2 || d2.2 || d3.2 || out.any (·.2))

/-- The coarse path. -/
def coarsePath (y : List Int) : List Int × Bool :=
  let out := (List.range 512).map (fun k => scaleDown (((List.range 8).map (fun i => y.getD (8 * k + i) 0)).foldl (· + ·) 0) 3)
  (out.map (·.1), out.any (·.2))

/-- What a chain makes of an element signal. -/
structure ChainOut where
  fineI : List Int
  fineQ : List Int
  coarseI : List Int
  coarseQ : List Int
  dcI : Int
  dcQ : Int
  sat : Bool
  deriving DecidableEq, Repr

def runChain (c : Chain) (xi xq : List Int) : ChainOut :=
  let (yi, mi, b1) := dcBlock c.dcFreeze c.dcI xi
  let (yq, mq, b2) := dcBlock c.dcFreeze c.dcQ xq
  let fi := finePath c yi
  let fq := finePath c yq
  let ci := coarsePath yi
  let cq := coarsePath yq
  { fineI := fi.1, fineQ := fq.1, coarseI := ci.1, coarseQ := cq.1, dcI := mi, dcQ := mq,
    sat := b1 || b2 || fi.2 || fq.2 || ci.2 || cq.2 }

/-! ### Times and the symbol block (R347, R350) -/

/-- The fine path's group delay, in units of T_b. -/
def groupDelay (c : Chain) : Rat :=
  let go (acc : Rat × Nat) (h : List Int) : Rat × Nat :=
    if h.isEmpty then acc else (acc.1 + ((h.length - 1 : Nat) : Rat) / 2 * acc.2, 2 * acc.2)
  let d := c.dec.foldl go (0, 1)
  d.1 + ((c.fir.length - 1 : Nat) : Rat) / 2 * d.2

/-- The offset T0 of a path's first sample from T_AIR, 2⁻¹⁶ ns, and whether it saturated (R347, R12). -/
def pathStart (e : SymEl) (mu comb : Nat) (g : Rat) : Int × Bool := toSigned 32 (-(g * sampleNs mu comb * 65536) - e.def_.delay)
/-- The two offsets of an element record. -/
def elementStarts (c : Chain) (e : SymEl) (mu comb : Nat) : List (Int × Bool) := [pathStart e mu comb (groupDelay c), pathStart e mu comb (7 / 2)]

/-- An element record. -/
def elementRecord (c : Chain) (e : SymEl) (mu comb len : Nat) (o : ChainOut) (saturated : Bool) : List Byte :=
  let tb := sampleNs mu comb
  let samples (a b : List Int) : List Byte := (a.zip b).flatMap (fun p => leInt 2 p.1 ++ leInt 2 p.2)
  padTo len (padTo 64 (leBytes 1 e.array ++ leBytes 1 e.element ++ leBytes 1 e.chain ++ leBytes 1 (b2n saturated) ++
    leBytes 2 o.fineI.length ++ leBytes 2 512 ++ e.def_.offset.flatMap (leInt 4) ++ (elementStarts c e mu comb).flatMap (fun t => leInt 4 t.1) ++
    leBytes 4 (roundAway (2 ^ activeDec c * tb * 65536)).toNat ++ leBytes 4 (roundAway (8 * tb * 65536)).toNat ++ leBytes 2 e.def_.eaxc) ++
    samples o.fineI o.fineQ ++ samples o.coarseI o.coarseQ)

/-- The header of a symbol block. -/
def symbolHeader (y : Sym) (b : Binding) (ref : Option Ref) : List Byte :=
  let flags := packBits [(b2n y.saturated, 0), (b2n ref.isSome, 1)]
  let frac := ((y.tAir - y.tAir.floor) * 65536).floor.toNat
  padTo 64 (leBytes 2 y.binding ++ leBytes 2 y.sid ++ leBytes 1 y.port ++ leBytes 1 y.delivered ++ leBytes 1 y.mu ++ leBytes 1 y.symbol ++
    leBytes 2 y.sfn ++ leBytes 1 y.subframe ++ leBytes 1 y.slot ++ leBytes 2 (12 * b.nprb / b.comb) ++ leBytes 1 b.comb ++ leBytes 1 flags ++
    leBytes 8 y.tAir.floor.toNat ++ leBytes 2 frac ++ leBytes 2 0 ++
    leBytes 4 (match ref with | some r => (f32Of r.rho).toNat | none => 0) ++ leBytes 8 y.first ++ leBytes 4 y.recLen)

/-! ### Rebuilding (R343, R344) -/

/-- A symbol is finished: its instance's first step ends, and its buffer is empty. -/
def State.finishSym (s : State) (k : Nat) (y : Sym) (b : Binding) : State :=
  let s := match y.inst with
    | some (ch, i) =>
      match instAt s ch i with
      | some x =>
        match instSlot s ch x with
        | some g => match stepIdx g.graph 1 with
          | some n => match g.graph.steps[n]? with
            | some t => (s.modInst ch i (fun x => { x.fill (t.outR 0) 0 (symbolHeader y b ((bindingAt s y.binding).bind (·.ref))) with arrays := y.arrays })).finishStep ch i n t
            | none => s
          | none => s
        | none => s
      | none => s
    | none => s
  s.modScu (fun u => { u with
    syms := NMap.erase u.syms k
    gone := u.gone ++ [(y.binding, y.air)]
    held := updAt u.held y.port (fun n => n - symBytes y) })

/-- The next element of a complete symbol is rebuilt and filtered, or dropped where its chain has stopped. -/
def State.rebuildNext (s : State) (k : Nat) (y : Sym) (b : Binding) (e : SymEl) : State :=
  let c := scuChain s e.chain
  let n := (e.prbs.map (fun p => p.2.2.length)).foldl (· + ·) 0
  let next (y : Sym) : Sym := { y with built := y.built + 1, els := updAt y.els y.built (fun e => { e with prbs := [] }) }
  let s := s.modScu (fun u => { u with held := updAt u.held y.port (fun h => h - n) })
  if !c.run || c.owner != 0 then
    (s.modScu (fun u => { u with syms := NMap.set u.syms k (next y) })).bump (scuPortCtr y.port 6) 1
  else
    let (tones, sat1) := elementTones b e
    let (xi, xq, sat2) := rebuild e.def_ tones
    let o := runChain c xi xq
    let sat3 := o.sat || (elementStarts c e y.mu b.comb).any (·.2)
    let sat := sat1 || sat2 || sat3
    let s := if sat1 || sat2 then s.err1 4 0 else s
    let s := if sat3 then s.err1 4 0 e.chain else s
    let rec_ := elementRecord c e y.mu b.comb y.recLen o sat
    let s := s.modScuChain e.chain (fun c => { c with dcI := o.dcI, dcQ := o.dcQ })
    let s := match y.inst with
      | some (ch, i) => match (instAt s ch i).bind (fun x => instSlot s ch x) with
        | some g => match (stepIdx g.graph 1).bind (fun n => g.graph.steps[n]?) with
          | some t => s.modInst ch i (fun x => (x.fill (t.outR 0) (64 + y.delivered * y.recLen) rec_).ready
            (((List.range ((64 + (y.delivered + 1) * y.recLen) / 4096)).drop 1).map (· + (t.outR 0).first)))
          | none => s
        | none => s
      | none => s
    s.modScu (fun u => { u with
      syms := NMap.set u.syms k { next y with delivered := y.delivered + 1, saturated := y.saturated || sat } })

/-- No symbol that was completed earlier on the port still waits to be rebuilt: a port rebuilds in the order of completion (R343). -/
def firstComplete (s : State) (y : Sym) : Bool := !s.core.scu.syms.any (fun p => p.2.port == y.port && p.2.phase == 1 && decide (p.2.done < y.done))

/-- R343: one element-symbol of the first complete symbol of its port. -/
def execElementRebuild (symbol : Nat) (s : State) : Host.Outcome State Fault Refusal :=
  .next (match NMap.get? s.core.scu.syms symbol with
    | none => s
    | some y =>
      let b := y.bound
      if !running s || y.phase != 1 || !firstComplete s y then s
      else
        let s := match y.els[y.built]? with
          | some e => s.rebuildNext symbol y b e
          | none => s
        match NMap.get? s.core.scu.syms symbol with
        | some y => if y.els.length ≤ y.built then s.finishSym symbol y b else s
        | none => s)

/-! ### Test injection (R349) -/

/-- The index of the element of greatest square, the first on a tie. -/
def peakIndex (i q : List Int) : Nat :=
  let m := (i.zip q).map (fun p => p.1 * p.1 + p.2 * p.2)
  (m.zipIdx.foldl (fun (b : Int × Nat) p => if b.1 < p.1 then p else b) (-1, 0)).2

def execTestInjectionBlock (chain : Nat) (s : State) : Host.Outcome State Fault Refusal :=
  .next (
    let c := scuChain s chain
    let due := match NMap.get? s.core.scu.lastTest chain with
      | some t => decide (t / 1000000 < dtOf s / 1000000)
      | none => true
    if running s && s.hw.is968 && decide (chain < 32) && c.run && c.owner == 1 && due then
      let o := runChain c (0x4000 :: List.replicate 4095 0) (List.replicate 4096 0)
      let n := peakIndex o.fineI o.fineQ
      let s := if o.sat then s.err1 4 0 chain else s
      let s := s.modScuChain chain (fun c => { c with dcI := o.dcI, dcQ := o.dcQ })
      let s := s.modScu (fun u => { u with lastTest := NMap.set u.lastTest chain (dtOf s) })
      (s.bump (scuChainCtr chain) 1).setCtr (scuChainCtr (32 + chain)) (n + 2 ^ 32 * leNat (leInt 2 (o.fineI.getD n 0)))
    else s)

/-! ### References (R356) -/

def execRefTimeout (binding : Nat) (s : State) : Host.Outcome State Fault Refusal :=
  .next (
    if running s then s.dropRefs (fun i b => i == binding && (match b.ref with
      | some r => decide (r.lastValid + 1000000000 < dtOf s)
      | none => false))
    else s)

end Sys2Proof.Machine
end

