-- ==== Sys2Proof/Machine/Links.lean ====
section
/-! DEFINITION. The Mirden links (R477 to R501): training, the frames sent and received, CONTROL, UP and DOWN objects, delta batches,
catch-ups, locks granted by the keeper, and the time taken from the parent. -/
namespace Sys2Proof.Machine

/-! ### What follows a change of the system (R484 to R486, R491, R494, R495) -/

/-- The link that this device and the keeper share has changed: what hangs on it. -/
structure LinkView where
  parent : Option Nat
  keeper : Option Nat
  joining : Option Nat
  timed : Bool
  deriving DecidableEq, Repr

def linkView (s : State) : LinkView := { parent := s.core.link.parent, keeper := keeperDevid s, joining := s.core.link.joining, timed := linkTimed s }

/-- Jobs whose records were sent up and are now lost (R491). -/
def State.loseUploads (s : State) : State :=
  ((s.core.map.jobs.filter (fun p => p.2.phase == 3)).map (·.1)).foldl (fun s j => (s.endJob j (fun x => x.mark 9)).bump (mapCtr 5) 1) s

/-- Asks for the locks of the waiting jobs again, of the keeper as it now is (R489, R490). -/
def State.askLocks (s : State) : State :=
  let me := s.core.sys.devid
  let mine := (s.core.map.jobs.filter (fun p => p.2.phase == 0 && !hasLock s p.1)).map (fun p => ({ devid := me, job := p.1, tiles := p.2.tiles } : TileLock))
  if isKeeper s then s.modLink (fun l => { l with requests := l.requests ++ mine.filter (fun r => !l.requests.contains r) })
  else
    let s := s.modLink (fun l => { l with requests := [], locks := l.locks.filter (fun k => k.devid == me) })
    mine.foldl (fun s r => s.sendUp 3 (ctlObject .lockRequest [r.devid, r.job] r.tiles)) s

/-- Locks and requests of devices that left the system go. -/
def State.dropGone (s : State) : State :=
  let there := (systemDevs s).map (·.1)
  s.modLink (fun l => { l with locks := l.locks.filter (fun k => there.contains k.devid), requests := l.requests.filter (fun k => there.contains k.devid) })

/-- The device asks its parent for the batches it lacks (R494). -/
def State.askBatches (s : State) : State := s.sendUp 3 (ctlObject .batchRequest [s.core.sys.devid, s.core.map.version.toNat] [])

/-- The time link of a link-timed device is no longer UP: LOCKED becomes HOLDOVER (R371 as R500 has it). -/
def State.loseTimeLink (s : State) (old : LinkView) : State :=
  let up := s.core.link.parent.isSome && (old.parent.map (fun p => (mpAt s p).state == .up)).getD false
  if old.timed && !up && s.core.time.clockQ == .locked then s.setClockQ .holdover else s

/-- Settles what a change of links leads to, against the view before it. -/
def State.settle (s : State) (old : LinkView) : State :=
  let now := linkView s
  let lostUp := (match old.parent with
    | some p => (mpAt s p).state != .up
    | none => false) || now.keeper != old.keeper
  let s := (if lostUp then s.loseUploads else s).loseTimeLink old
  let s := if isKeeper s then s.dropGone else s
  let s := if now.keeper != old.keeper || (now.parent != old.parent && now.parent.isSome) then s.askLocks else s
  let s := if now.parent != old.parent then s.modTime (fun t => { t with run16 := 0, run8 := 0 }) else s
  let s := if old.joining.isSome && now.joining.isNone then s.modMap (fun m => { m with inService := true }) else s
  if now.parent.isSome && now.parent != old.parent && !isKeeper s then s.askBatches else s

/-- Tells every neighbour of the devices known (R484); `anew` says that the receiver starts its list again. -/
def State.tellDevices (s : State) (anew : Bool) : State :=
  let ds := (systemDevs s).flatMap (fun d => leBytes 1 d.1 ++ leBytes 1 (b2n d.2))
  ((List.range (nMirden s)).filter (fun p => (mpAt s p).state == .up)).foldl
    (fun s p => s.sendObject p 3 (ctlObject .devices [b2n anew] [] ds)) s

/-- A port leaves UP and what hangs on it is settled; the devices beyond are told anew. -/
def State.linkLost (s : State) (p : Nat) (st : MpState) : State :=
  let old := linkView s
  let s := (s.portDown p st).modLink (fun l => { l with devices := [] })
  (s.settle old).tellDevices true

/-- The keeper with an empty map asks the neighbour of the highest version, the lower DEVID on a tie, for a catch-up (R495). -/
def State.takeMapBack (s : State) : State :=
  if mapOwed s && s.core.link.joining.isNone then
    match (mapHolders s).foldl (fun b c => match b with
        | none => some c
        | some d => if decide (d.2.1 < c.2.1) || (c.2.1 == d.2.1 && decide (c.2.2 < d.2.2)) then some c else b) (none : Option (Nat × Nat × Nat)) with
    | some (p, _, _) =>
      (s.modLink (fun l => { l with joining := some p })).sendObject p 3 (ctlObject .batchRequest [s.core.sys.devid, s.core.map.version.toNat] [])
    | none => s
  else s

/-! ### Hatch commands -/

def systemInfoBody (r : Req) (s : State) : State :=
  let ds := systemDevs s
  s.place r.h 0x00 (leBytes 1 ds.length ++ leBytes 1 (toMask (ds.map (·.1))) ++ leBytes 1 ((keeperDevid s).getD s.core.sys.devid) ++
    leBytes 1 (mpUp s) ++ leBytes 4 s.core.map.version.toNat)
def execSystemInfo (hatch : Nat) (s : State) : Host.Outcome State Fault Refusal :=
  .next (serve 0x0B01 hatch systemInfoBody s)

def deltaIntervalSetBody (r : Req) (s : State) : State :=
  let ms := r.u16 0
  s.guarded r.h [need (isKeeper s) 0x15, need (decide (10 ≤ ms) && decide (ms ≤ 10000)) 0x11] (fun s =>
    (s.modLink (fun l => { l with deltaMs := ms, lastTick := dtOf s / (1000000 * ms) })).place r.h 0x00)
def execDeltaIntervalSet (hatch : Nat) (s : State) : Host.Outcome State Fault Refusal :=
  .next (serve 0x0B02 hatch deltaIntervalSetBody s)

/-- LINK_RETRAIN (R482): LINK_STATE is raised with 0 for a port that was not UP too. -/
def linkRetrainBody (r : Req) (s : State) : State :=
  let p := r.u8 0
  s.guarded r.h [mirdenCheck s p, need ((mpAt s p).state != .held) 0x15] (fun s =>
    let up := (mpAt s p).state == .up
    let s := (s.accept r.h (.linkRetrain p (dtOf s + 1000000000))).linkLost p .training
    if up then s else s.linkState p false)
def execLinkRetrain (hatch : Nat) (s : State) : Host.Outcome State Fault Refusal :=
  .next (serve 0x0B03 hatch linkRetrainBody s)

/-- 1 s after ACCEPTED the port is not UP (R482). -/
def execLinkRetrainTimeout (hatch : Nat) (s : State) : Host.Outcome State Fault Refusal :=
  .next (match jobAt s hatch with
    | some (.linkRetrain p due) =>
      if running s && decide (due < dtOf s) then s.place hatch (if (mpAt s p).state == .up then 0x00 else 0x20) (leBytes 1 (mpCode (mpAt s p).state)) else s
    | _ => s)

/-! ### Training (R480, R481) -/

/-- Links train from ST5 on (R480, R483). -/
def linksRun (s : State) : Bool :=
  running s && (s.core.sys.phase == .ready || (s.core.sys.phase == .starting && decide (5 ≤ s.core.sys.step)))

/-- Every 10 ms an ABSENT port polls for a signal (R480). -/
def execMpSignalPoll (port : Nat) (signal : Bool) (s : State) : Host.Outcome State Fault Refusal :=
  .next (if linksRun s && decide (port < nMirden s) && signal && (mpAt s port).state == .absent then s.trainBegin port else s)

/-- 1 s after a failure (R480). -/
def execMpRetryTimer (port : Nat) (s : State) : Host.Outcome State Fault Refusal :=
  .next (
    let m := mpAt s port
    if linksRun s && decide (port < nMirden s) && m.state == .failed && decide (m.since + 1000000000 ≤ dtOf s) then s.trainBegin port else s)

/-- Everything of R481's order 1 and 2 that fails an attempt apart from the DEVID. -/
def helloOk (s : State) (h : Hello) : Bool :=
  h.locked && h.inTime && h.part == s.hw.part && h.stepping == 0xB0 && h.fwMajor == s.core.sys.fwVersion / 2 ^ 24

/-- The ephemeral private key of a training: an open derivation from the root link key, the boot nonce and the count of trainings. -/
def linkEphemeral (s : State) : Nat :=
  Config.numericNat 155 (beBytes 32 Config.rootLinkKey ++ beBytes 32 s.core.sec.bootNonce ++ leBytes 8 s.core.link.trainings) % (sm2N - 1) + 1

/-- The link keys of a training, receiving and sending (R471): SM2 key exchange between the identity keys with the lower DEVID as A and
the serials as IDs; of its 32 bytes, the lower DEVID's sending key comes first. -/
def linkKeys (s : State) (h : Hello) : List Byte × List Byte :=
  let own := sm2Z (serialBytes s) Config.identityPoint
  let other := sm2Z h.serial h.point
  let ids := if s.core.sys.devid < h.devid then own ++ other else other ++ own
  let v := ((sm2Shared Config.identityKey (linkEphemeral s) h.point h.eph).map (·.2)).getD (0, 0)
  let k := sm3Kdf (pointBytes v ++ ids) 32
  if s.core.sys.devid < h.devid then (k.drop 16, k.take 16) else (k.take 16, k.drop 16)

/-- A port that has trained comes UP, and the commands that wait for it are answered (R482, R484). -/
def State.trainedUp (s : State) (p : Nat) : State :=
  let old := linkView s
  let s := ((s.portUp p).updateDist.judgeStrap).settle old
  let s := s.tellDevices false
  (hatchesWith s (fun j => match j with
    | .linkRetrain q _ => q == p
    | _ => false)).foldl (fun s h => s.place h 0x00 (leBytes 1 (mpCode .up))) s

/-- Training ends (R481). -/
def execMpTrainingEnd (port : Nat) (hello : Hello) (s : State) : Host.Outcome State Fault Refusal :=
  .next (
    if linksRun s && decide (port < nMirden s) && (mpAt s port).state == .training && !(mpAt s port).trained then
      let same := hello.locked && hello.inTime && hello.devid == s.core.sys.devid
      if !helloOk s hello || same then
        let s := if same then s.err1 2 2 port else s
        s.trainFail port
      else
        let s := if hello.numerology != s.core.air.mu || hello.epoch != s.core.air.epoch then s.err1 2 3 port else s
        let ks := linkKeys s hello
        let s := s.modLink (fun l => { l with trainings := l.trainings + 1 })
        if !hello.authentic then (s.err1 2 0 port).trainFail port
        else
        let s := s.modMp port (fun m => { m with hello := some hello, kIn := ks.1, kOut := ks.2 })
        if s.core.link.decided then s.trainedUp port else s.modMp port (fun m => { m with trained := true })
    else s)

/-- A port loses its partner's signal (R480). -/
def execMpSignalLost (port : Nat) (s : State) : Host.Outcome State Fault Refusal :=
  .next (if running s && decide (port < nMirden s) && (mpAt s port).state == .up then s.linkLost port .absent else s)

/-! ### Sending (R478, R479, R499) -/

/-- The nonce of R472: the counter, a direction byte, three zero bytes. The byte is 0 for what the lower DEVID sends. -/
def linkNonce (ctr own partner : Nat) : List Byte := leBytes 8 ctr ++ leBytes 1 (b2n (decide (partner < own))) ++ [0, 0, 0]

/-- A frame of R478 in plain. -/
def linkFrame (s : State) (f : TxFrame) : List Byte :=
  leBytes 1 f.type ++ leBytes 1 (b2n f.first + 2 * b2n f.last) ++ leBytes 1 s.core.link.dist ++ leBytes 1 (clockCode s.core.time.clockQ) ++
  leBytes 4 f.object ++ leBytes 4 f.index ++ leBytes 4 f.payload.length ++ padTo 2048 f.payload

/-- The payload of a TIME frame: the departure of the previous one and the latest receipt, in 2⁻¹⁶ ns (R499). -/
def timePayload (m : MpPort) : List Byte := leInt 8 (m.txStamp.getD 0) ++ leInt 8 (m.rxStamp.getD 0)

/-- The last frame of a joiner's catch-up has left: the batches held back follow (R494). -/
def State.endJoiner (s : State) (p : Nat) : State :=
  match s.core.link.catchUp.find? (fun j => j.port == p && j.started) with
  | some j =>
    if (mpAt s p).txq.any (fun f => f.type == 1) then s
    else
      let s := s.modLink (fun l => { l with catchUp := l.catchUp.erase j })
      j.held.foldl (fun s b => s.sendObject p 1 b) s
  | none => s

/-- Every 696 ns an UP port sends a frame (R478, R479). -/
def execMpFrameSend (port : Nat) (s : State) : Host.Outcome State Fault Refusal :=
  .next (
    let m := mpAt s port
    if running s && decide (port < nMirden s) && m.state == .up then
      let timed := m.txCtr % 1024 == 0
      let filler : TxFrame := { type := 0, first := false, last := false, object := 0, index := 0, payload := [] }
      let f : TxFrame := if timed then { type := 4, first := true, last := true, object := 0, index := 0, payload := timePayload m }
        else m.txq.headD filler
      let partner := (m.hello.map (·.devid)).getD 0
      let aad := leBytes 8 m.txCtr
      let bytes := aad ++ gcmSeal m.kOut (linkNonce m.txCtr s.core.sys.devid partner) aad (linkFrame s f)
      let s := s.modMp port (fun m => { m with
        txCtr := (m.txCtr + 1) % 2 ^ 64
        txq := if timed then m.txq else m.txq.drop 1
        txStamp := if timed then some (dt16 s : Int) else m.txStamp })
      (s.emit (.mirden port bytes)).endJoiner port
    else s)

/-! ### DOWN objects (R492 to R496) -/

/-- The pages of a batch or a catch-up: a header, the descriptors, the pages as 32 frames each. -/
def downObject (s : State) (kind from_ dest : Nat) (pages : List Nat) : List Byte :=
  let img := mapImage s.core.map.data s.core.map.version.toNat
  let desc := pages.flatMap (leBytes 8)
  let b := padTo 2048 (leBytes 4 from_ ++ leBytes 4 dest ++ leBytes 4 pages.length ++ leBytes 4 kind) ++
    padTo ((desc.length + 2047) / 2048 * 2048) desc ++ pages.flatMap (fun p => padTo 65536 (Config.numeric 36 (leBytes 8 p ++ img)))
  if kind == 0 then padTo (max b.length 1048576) b else b

/-- The pages that hold the map. -/
def allPages (d : MapData) : List Nat :=
  (3 :: (liveKfs d).flatMap (fun p => posePage p.1 :: payloadPages p.1 p.2) ++ (liveLms d).map (fun p => lmPage p.1)).eraseDups

def downFrom (b : List Byte) : Nat := fieldAt b 0 4
def downTo (b : List Byte) : Nat := fieldAt b 4 4
def downKind (b : List Byte) : Nat := fieldAt b 12 4
def downPages (b : List Byte) : List Nat := (List.range (fieldAt b 8 4)).map (fun i => fieldAt b (2048 + 8 * i) 8)

/-- The contents that a DOWN object's pages give over the replica. -/
def downData (s : State) (b : List Byte) : MapData :=
  let d := s.core.map.data
  let e := (mapOfImage (Config.numeric 34 (mapImage d s.core.map.version.toNat ++ b))).getD d
  let whole := s.core.link.resend.all ((downPages b).contains ·)
  if whole then e
  else
    { e with
      kfs := e.kfs.map (fun p => match NMap.get? d.kfs p.1 with
        | some k => (p.1, { p.2 with lost := k.lost })
        | none => p)
      lms := e.lms.map (fun p => match NMap.get? d.lms p.1 with
        | some k => (p.1, { p.2 with lost := k.lost })
        | none => p) }

/-- The poses of the keyframes, as a commit's records. -/
def posesOf (d : MapData) : NMap (List Byte) := (liveKfs d).map (fun p => (p.1, f64Bytes p.2.pos ++ f32Bytes p.2.quat))

/-- The pages this device asked for again are rewritten (R496). -/
def State.rewriteAsked (s : State) (b : List Byte) : State :=
  let ps := s.core.link.resend.filter ((downPages b).contains ·)
  (ps.foldl State.rewritePage s).modLink (fun l => { l with resend := l.resend.filter (fun p => !ps.contains p) })

/-- A whole and verified batch (R493): applied when the version is its VERSION_FROM; none while shadow space is short. -/
def applyBatch (s : State) (b : List Byte) : Option State :=
  let m := s.core.map
  if downFrom b != m.version.toNat then
    let s := s.bump (linkCtr 2) 1
    some (if versionBefore m.version.toNat (downTo b) then s.askBatches else s)
  else if shadowPages s < shadowUsed s + mutablePages (downPages b) then none
  else
    let e := downData s b
    let x : MapJob := { kind := 0, chan := 0, deadline := 0, cap := 0, tiles := [], kfs := [], poses := posesOf e }
    let moved := jobMoved m.data x
    let cs := corrections (downTo b) moved x
    let s := s.swapRootTo (m.pin + (downTo b + 2 ^ 32 - m.version.toNat) % 2 ^ 32) e (downPages b) (2 ^ 6) moved.length
    let s := s.modMap (fun m => { m with corrections := m.corrections ++ cs, dirty := [] })
    some (s.rewriteAsked b)

/-- The last frame of this device's own catch-up has come (R494, R495): the map of that version, in service; open sessions become
PROVISIONAL; the devices that hang on this one join in their turn. -/
def State.endCatchUp (s : State) (p : Nat) (b : List Byte) : State :=
  let e := downData s b
  let old := isKeeper s
  let s := (s.commitMap (loadPin s.core.map (downTo b)) e (mutableOf e)).forgetMap
  let s := s.modMap (fun m =>
    { m with inService := true, corrections := [], inserts := [], dirty := [], lastOf := [], batchFrom := downTo b })
  let js := (childJoiners s).filter (fun j => j.port != p && (!old || ((mpAt s j.port).hello.map (·.mapVersion)) != some (downTo b)))
  let s := s.modLink (fun l => { l with joining := none, log := [], waitObj := [], catchUp := js, ports := l.ports.map MpPort.spend })
  let s := s.rewriteAsked b
  (s.provisionalAll (fun _ _ => true)).mapEvent (2 ^ 6 ||| wordKind 4) 0

/-- Hands a batch on to the children; for a port in a catch-up it is held back, and beyond 1 GiB the catch-up starts again at the
newest version (R485, R494). -/
def State.batchDown (s : State) (ports : List Nat) (b : List Byte) : State :=
  ports.foldl (fun s p =>
    match s.core.link.catchUp.find? (fun j => j.port == p && j.started) with
    | none => s.sendObject p 1 b
    | some j =>
      let held := j.held ++ [b]
      let j' : Joiner := if 2 ^ 30 < (held.map (·.length)).foldl (· + ·) 0 then { j with started := false, held := [] } else { j with held := held }
      let s := s.modLink (fun l => { l with catchUp := l.catchUp.map (fun k => if k == j then j' else k) })
      if j'.started then s
      else (s.bump (linkCtr 3) 1).modMp p (fun m => { m with txq := m.txq.filter (fun f => f.type != 1) })) s

/-! ### UP objects (R487, R491) -/

/-- The records of a commit that a device sent up: device, job, status word, poses, points. -/
def upRecords (b : List Byte) : Nat × Nat × Nat × NMap (List Byte) × NMap (List Byte) :=
  let r := Config.numeric 39 b
  let nk := fieldAt r 9 4
  let nl := fieldAt r 13 4
  (fieldAt r 0 1, fieldAt r 1 4, fieldAt r 5 4, (records 44 (bytesAt r 17 (44 * nk))).map (fun e => (fieldAt e 0 4, bytesAt e 4 40)),
    (records 28 (bytesAt r (17 + 44 * nk) (28 * nl))).map (fun e => (fieldAt e 0 4, bytesAt e 4 24)))

/-- The keeper commits the records of a device that holds a lock for them, releases the lock and acknowledges (R491); none while
shadow space is short. -/
def commitUp (s : State) (b : List Byte) : Option State :=
  let (dev, job, word, poses, points) := upRecords b
  match s.core.link.locks.find? (fun l => l.devid == dev && l.job == job) with
  | none => some s
  | some l =>
    let d := s.core.map.data
    let x : MapJob := { kind := 1, chan := 0, deadline := 0, cap := 0, tiles := l.tiles, kfs := [], poses := poses, points := points, word := word }
    let pages := jobPages d x
    if shadowPages s < shadowUsed s + mutablePages pages then none
    else
      let moved := jobMoved d x
      let cs := corrections (s.core.map.version + 1).toNat moved x
      let s := s.swapRoot (applyJob d x) pages (word ||| 2 ^ 6 ||| wordKind 1) moved.length
      let s := s.modMap (fun m => { m with
        corrections := m.corrections ++ cs
        inserts := m.inserts.filter (fun p => !x.tiles.contains p.1) })
      let s := s.modLink (fun k => { k with locks := k.locks.erase l })
      some (s.sendDown 3 (ctlObject .commitAck [dev, job, moved.length] []))

/-- An insertion parcel sent up (R487): it joins the keeper's queue, or is dropped where the queue is full (R320). -/
def parcelOf (b : List Byte) : Parcel :=
  let r := Config.numeric 41 b
  { dev := fieldAt r 0 1, sid := fieldAt r 1 2, version := fieldAt r 3 4, kf := kfOf (r.drop 7) }

def State.parcelUp (s : State) (b : List Byte) : State :=
  if s.core.map.inService && decide (s.core.map.parcels.length < 256) && !(mapChans s).isEmpty then
    s.modMap (fun m => { m with parcels := m.parcels ++ [parcelOf b] })
  else s.bump (mapCtr 3) 1

/-! ### Whole objects -/

/-- Takes a whole object that may have to wait for shadow space; none when it waits. -/
def takeObject (s : State) (e : Nat × Nat × List Byte) : Option State :=
  if e.1 == 1 then applyBatch s e.2.2
  else if Config.numericNat 35 e.2.2 == 0 then commitUp s e.2.2
  else some (s.parcelUp e.2.2)

/-- Takes the objects that wait, in their order, until one still has to (R304). -/
def State.takeWaiting : Nat → State → State
  | 0, s => s
  | n + 1, s =>
    match s.core.link.waitObj with
    | [] => s
    | e :: rest =>
      match takeObject s e with
      | none => s
      | some t => State.takeWaiting n (t.modLink (fun l => { l with waitObj := rest }))

/-- An object joins those that wait and is taken when its turn comes; one that has to wait is counted once. -/
def State.offerObject (s : State) (e : Nat × Nat × List Byte) : State :=
  let s := (s.modLink (fun l => { l with waitObj := l.waitObj ++ [e] })).takeWaiting (s.core.link.waitObj.length + 1)
  if s.core.link.waitObj.contains e then s.bump (mapCtr 4) 1 else s

/-- The batch log reaches back to a version (R494). -/
def logReaches (s : State) (v : Nat) : Bool :=
  v == (if s.core.map.dirty.isEmpty then s.core.map.version.toNat else s.core.map.batchFrom) || s.core.link.log.any (fun e => e.1 == v)

/-- A request for the batches after a version, from a device reached through a port (R494, R495). -/
def State.joinAsked (s : State) (p dev v : Nat) (b : List Byte) : State :=
  let direct := ((mpAt s p).hello.map (·.devid)) == some dev
  let add (j : Joiner) (s : State) : State := s.modLink (fun l => { l with catchUp := l.catchUp.filter (fun k => k.dev != dev) ++ [j] })
  if isKeeper s then add { port := p, dev := dev, since := some v } s
  else if some dev == keeperDevid s && direct then add { port := p, dev := dev, since := none } s
  else if s.core.link.parent == some p then
    match (childPorts s).find? (fun q => ((mpAt s q).hello.map (·.devid)) == some dev) with
    | some q => add { port := q, dev := dev, since := none } s
    | none => s.sendDown 3 b
  else s.sendUp 3 b

/-- A CONTROL object (R484, R488 to R491, R494, R496): one for the keeper goes up or is taken there; one for a device goes down or is
taken there. -/
def State.control (s : State) (p : Nat) (b : List Byte) : State :=
  let me := s.core.sys.devid
  let dev := ctlNum b 0
  let job := ctlNum b 1
  let up (act : State → State) : State := if isKeeper s then act s else s.sendUp 3 b
  let down (act : State → State) : State := if dev == me then act s else s.sendDown 3 b
  match ctlKind b with
  | .lockRequest => up (fun s =>
      let r : TileLock := { devid := dev, job := job, tiles := ctlTiles b }
      s.modLink (fun l => if l.requests.contains r then l else { l with requests := l.requests ++ [r] }))
  | .lockRelease =>
    if s.core.link.parent == some p then down (fun s => (s.abandonJob job).answerJob job)
    else up (fun s => s.modLink (fun l =>
      { l with locks := l.locks.filter (fun k => !(k.devid == dev && k.job == job)),
               requests := l.requests.filter (fun k => !(k.devid == dev && k.job == job)) }))
  | .lockGrant => down (fun s => match jobOf s job with
      | some x => if x.phase == 0 then s.modLink (fun l => { l with locks := l.locks ++ [{ devid := me, job := job, tiles := x.tiles }] }) else s
      | none => s.releaseLock job)
  | .commitAck => down (fun s => match jobOf s job with
      | some x => if x.phase == 3 then s.endJob job (fun x => { x.mark 6 with moved := ctlNum b 2 }) else s
      | none => s)
  | .originRequest => up (fun s =>
      let d := ctlData b
      let st := originStatus s (intAt d 0 8) (intAt d 8 8)
      let s := if st == 0 then s.setOrigin (intAt d 0 8) (intAt d 8 8) (intAt d 16 4) else s
      s.sendDown 3 (ctlObject .originStatus [dev, job, st] []))
  | .originStatus => down (fun s => match jobAt s job with
      | some (.mapOrigin _) => s.place job (ctlNum b 2)
      | _ => s)
  | .pageRequest => up (fun s => s.modLink (fun l => { l with resend := (l.resend ++ (records 8 (ctlData b)).map leNat).eraseDups }))
  | .batchRequest => s.joinAsked p dev job b
  | .devices =>
    let told := (records 2 (ctlData b)).map (fun e => (fieldAt e 0 1, fieldAt e 1 1 != 0))
    let l := if dev == 1 then told else s.core.link.devices ++ told.filter (fun d => !s.core.link.devices.contains d)
    if l == s.core.link.devices then s
    else
      let old := linkView s
      let s := (s.modLink (fun k => { k with devices := l })).updateDist.judgeStrap
      (s.settle old).tellDevices (dev == 1)
  | .other => s

/-- A whole object of a TYPE that came through a port. -/
def State.wholeObject (s : State) (p type : Nat) (b : List Byte) : State :=
  if type == 3 then s.control p b
  else if type == 2 then (if isKeeper s then (if s.core.map.inService then s.offerObject (2, p, b) else s) else s.sendUp 2 b)
  else if type == 1 then
    if downKind b == 1 then (if s.core.link.joining == some p then s.endCatchUp p b else s)
    else if isKeeper s || s.core.link.parent != some p then s
    else
      let s := s.batchDown ((childPorts s).filter (· != p)) b
      if s.core.map.inService then s.offerObject (1, p, b) else s
  else s

/-! ### Receiving (R472, R478, R485, R499, R500) -/

/-- A rejected frame (R472): dropped and counted; four within 1 ms retrain the link. -/
def State.rejectFrame (s : State) (p : Nat) : State :=
  let now := dtOf s
  let s := (s.bump (linkPortCtr p 1) 1).err1 2 1 p
  let rs := now :: ((mpAt s p).rejects.filter (fun t => decide (now < t + 1000000)))
  if 4 ≤ rs.length then s.linkLost p .training else s.modMp p (fun m => { m with rejects := rs })

/-- A TIME frame of the parent gives a measurement once its stamps pair (R499 to R501). -/
def State.linkMeasure (s : State) (p : Nat) (payload : List Byte) (t2 t3 : Option Int) : State :=
  match t2, t3 with
  | some t2, some t3 =>
    let t1 := intAt payload 0 8
    let t4 := intAt payload 8 8
    let path := (toSigned 64 (((t2 - t1) + (t4 - t3) : Int) / (2 : Rat))).1
    let off := (toSigned 64 (((t2 - t1) - (t4 - t3) : Int) / (2 : Rat))).1
    let s := s.modLink (fun l => { l with seq := l.seq + 1, offset := BitVec.ofInt 64 off, path := BitVec.ofInt 64 path })
    s.judgeClock off ((mpAt s p).state == .up && (mpAt s p).clockQ == 0)
  | _, _ => s

/-- A TIME frame: its receipt is stamped, and the parent's gives a measurement. -/
def State.timeFrame (s : State) (p stamp : Nat) (payload : List Byte) : State :=
  let m := mpAt s p
  let s := if linkTimed s && s.core.link.parent == some p then s.linkMeasure p payload m.rxStamp m.txStamp else s
  s.modMp p (fun m => { m with rxStamp := some stamp })

/-- A data frame joins its object; the first frame of a catch-up takes the map out of service (R494). -/
def State.dataFrame (s : State) (p : Nat) (f : List Byte) : State :=
  let type := fieldAt f 0 1
  let obj := fieldAt f 4 4
  let part := bytesAt f 16 (min 2048 (fieldAt f 12 4))
  let first := bit (fieldAt f 1 1) 0
  let s := if first && type == 1 then s.modMp p (fun m => { m with rx := m.rx.filter (fun o => o.2.1 != 1) }) else s
  let b := (if first then [] else (NMap.getD (mpAt s p).rx obj (type, [])).2) ++ part
  let s := if first && type == 1 && downKind b == 1 && (s.core.link.joining == some p || (!isKeeper s && s.core.link.parent == some p))
    then (s.beginLoad).modLink (fun l => { l with joining := some p }) else s
  if bit (fieldAt f 1 1) 1 then (s.modMp p (fun m => { m with rx := NMap.erase m.rx obj })).wholeObject p type b
  else s.modMp p (fun m => { m with rx := NMap.set m.rx obj (type, b) })

/-- What every accepted frame carries of its sender: DIST and CLOCK_Q (R485, R500). -/
def State.noteSender (s : State) (p : Nat) (f : List Byte) : State :=
  let old := linkView s
  let s := s.modMp p (fun m => { m with dist := fieldAt f 2 1, clockQ := fieldAt f 3 1 })
  let s := s.updateDist.settle old
  if linkTimed s && s.core.link.parent == some p && fieldAt f 3 1 != 0 && s.core.time.clockQ == .locked then s.setClockQ .holdover else s

def execMpFrameRx (port : Nat) (frame : List Byte) (stamp : Nat) (s : State) : Host.Outcome State Fault Refusal :=
  .next (
    let m := mpAt s port
    if running s && decide (port < nMirden s) && m.state == .up then
      let ctr := fieldAt frame 0 8
      let partner := (m.hello.map (·.devid)).getD 0
      match (if frame.length == 2088 && ctr == m.rxCtr then
          gcmOpen m.kIn (linkNonce ctr partner s.core.sys.devid) (bytesAt frame 0 8) (frame.drop 8) else none) with
      | none => s.rejectFrame port
      | some f =>
        let s := s.modMp port (fun m => { m with rxCtr := (m.rxCtr + 1) % 2 ^ 64 })
        let s := s.noteSender port f
        let type := fieldAt f 0 1
        let s := if type == 4 then s.timeFrame port stamp (bytesAt f 16 2048)
          else if type == 0 then s
          else s.dataFrame port f
        (s.takeWaiting (s.core.link.waitObj.length)).takeMapBack
    else s)

/-! ### The keeper's ticks, grants and catch-ups -/

/-- Keeps the log's newest batches within 2 GiB (R494). -/
def trimLog : List (Nat × Nat × List Byte) → List (Nat × Nat × List Byte)
  | [] => []
  | e :: rest => if 2 ^ 31 < (((e :: rest).map (fun x => x.2.2.length)).foldl (· + ·) 0) then trimLog rest else e :: rest

/-- A tick of the interval (R492). -/
def execDeltaBatchTick (s : State) : Host.Outcome State Fault Refusal :=
  .next (
    let tickNo := dtOf s / (1000000 * s.core.link.deltaMs)
    if running s && isKeeper s && decide (s.core.link.lastTick < tickNo) then
      let s := (s.modLink (fun l => { l with lastTick := tickNo })).takeMapBack
      let m := s.core.map
      if m.dirty.isEmpty || !m.inService || s.core.link.joining.isSome then s
      else
        let b := downObject s 0 m.batchFrom m.version.toNat ((m.dirty ++ s.core.link.resend).eraseDups)
        let s := s.modMap (fun m => { m with dirty := [], batchFrom := m.version.toNat })
        let s := s.modLink (fun l => { l with resend := [], log := trimLog (l.log ++ [(m.batchFrom, m.version.toNat, b)]) })
        ((s.bump (linkCtr 0) 1).bump (linkCtr 1) b.length).batchDown (childPorts s) b
    else s)

/-- The keeper grants the next request that may be (R489). -/
def execMapLockGrant (s : State) : Host.Outcome State Fault Refusal :=
  .next (
    let s := if running s then s.takeMapBack else s
    if running s && isKeeper s && s.core.map.inService && s.core.link.joining.isNone && !mapOwed s then
      match nextGrant s with
      | some r =>
        let s := s.grant r
        if r.devid == s.core.sys.devid then s else s.sendDown 3 (ctlObject .lockGrant [r.devid, r.job] [])
      | none => s
    else s)

/-- A device that joins is served (R494): the logged batches after its version; else its parent's catch-up begins; else its parent is
told to begin one. -/
def execCatchUp (port : Nat) (s : State) : Host.Outcome State Fault Refusal :=
  .next (
    match s.core.link.catchUp.find? (fun j => j.port == port && !j.started) with
    | none => s
    | some j =>
      if running s && s.core.map.inService && !mapOwed s && (mpAt s port).state == .up then
        let without (s : State) : State := s.modLink (fun l => { l with catchUp := l.catchUp.erase j })
        let v := j.since.getD 0
        if j.since.isSome && isKeeper s && logReaches s v then
          let after := s.core.link.log.dropWhile (fun e => e.1 != v)
          after.foldl (fun s e => s.sendObject port 1 e.2.2) (without s)
        else if ((mpAt s port).hello.map (·.devid)) == some j.dev then
          let dest := s.core.map.version.toNat
          (s.modLink (fun l => { l with catchUp := l.catchUp.map (fun k => if k == j then { k with started := true } else k) })).sendObject port 1
            (downObject s 1 0 dest (allPages s.core.map.data))
        else if isKeeper s then (without s).sendObject port 3 (ctlObject .batchRequest [j.dev, v] [])
        else without s
      else s)

end Sys2Proof.Machine
end

