-- ==== Sys2Proof/Machine/Costs.lean ====
section
/-! DEFINITION. The factors of a job with their residuals (R216 to R227, R230, R236, R323, R326): a step taken by a variable, what each kind of factor says
of the values it names, the cost of an iterate, the worst-case times of cliques. A residual that the spec's words do not fix for some values is open there. -/
namespace Sys2Proof.Machine

def recKind (r : List Byte) : Nat := fieldAt r 0 1
def recKernel (r : List Byte) : Nat := fieldAt r 1 1
def recNvar (r : List Byte) : Nat := fieldAt r 2 1
def recDim (r : List Byte) : Nat := fieldAt r 3 1
def recLen (r : List Byte) : Nat := fieldAt r 4 2
def recRemove (r : List Byte) : Bool := bit (fieldAt r 6 1) 0
def recId (r : List Byte) : Nat := fieldAt r 8 4
def recVarKind (r : List Byte) (i : Nat) : Nat := fieldAt r 7 1 / 4 ^ i % 4
def recVar (r : List Byte) (i : Nat) : Nat := fieldAt r (0x10 + 2 * i) 2

/-- Entries of VAR in use: the first ones, and VAR[3] for the SWITCH of a switchable factor (R230). -/
def usedVars (r : List Byte) : List Nat := if recKernel r == 3 then List.range (recNvar r - 1) ++ [3] else List.range (recNvar r)

/-- Scalars of a block by its type code and value (R216); a MOTION value holds 7 numbers of pose, then velocity and biases. -/
def blockScalars (v : Nat × List Byte) : Nat :=
  match v.1 with
  | 1 => 6
  | 2 => v.2.length / 8 - 1
  | _ => v.2.length / 8

/-! ### Steps (R216, R217) -/

/-- A variable after a step in its tangent, FP64: a pose from the right, a SWITCH kept in [0, 1], other scalars added. -/
def stepVar (d : List Rat) (v : Nat × List Byte) : Nat × List Byte :=
  let pose := ((poseAt64 v.2 0).retract (v3Of d) (v3Of (d.drop 3))).bytes64
  let added (off first n : Nat) : List Byte := f64Bytes ((List.range n).map (fun i => f64Of (f64Val (f64At v.2 (off + 8 * i)) + d.getD (first + i) 0)))
  match v.1 with
  | 1 => (1, pose)
  | 2 => (2, pose ++ added 56 6 (v.2.length / 8 - 7))
  | 5 => (5, f64Bytes [f64Of (max 0 (min 1 (f64Val (f64At v.2 0) + d.getD 0 0)))])
  | k => (k, added 0 0 (v.2.length / 8))

/-- The logarithm of a pose (R217), in tangent order. -/
def Pose.log (t : Pose) : List Rat :=
  let p := logRot t.r
  let v := ofCols [applyV p ⟨1, 0, 0⟩, applyV p ⟨0, 1, 0⟩, applyV p ⟨0, 0, 1⟩]
  (match v.inv with
   | some m => m.app t.t.list
   | none => t.t.list) ++ p.list
/-! ### Values -/

/-- A variable's value in exact numbers: its pose, when it has one, and its other scalars. -/
structure Val where
  type : Nat
  pose : Pose := {}
  s : List Rat := []
  deriving DecidableEq, Repr

def Val.of (v : Nat × List Byte) : Val :=
  let l (off : Nat) : List Rat := (f64sAt v.2 off ((v.2.length - off) / 8)).map f64Val
  match v.1 with
  | 1 => { type := 1, pose := poseAt64 v.2 0 }
  | 2 => { type := 2, pose := poseAt64 v.2 0, s := l 56 }
  | k => { type := k, s := l 0 }
def Val.hasPose (v : Val) : Bool := v.type == 1 || v.type == 2
def Val.dim (v : Val) : Nat := (if v.hasPose then 6 else 0) + v.s.length
/-- A step in the tangent. -/
def Val.step (d : List Rat) (v : Val) : Val :=
  if v.hasPose then { v with pose := v.pose.retract (v3Of d) (v3Of (d.drop 3)), s := v.s.zipWith (· + ·) (d.drop 6) }
  else { v with s := v.s.zipWith (· + ·) d }
/-- The tangent step that leads from a value to another. -/
def Val.minus (x y : Val) : List Rat :=
  if x = y then List.replicate x.dim 0
  else (if x.hasPose then (y.pose.inv.mul x.pose).log else []) ++ x.s.zipWith (· - ·) y.s
def Val.list (v : Val) : List Rat := (if v.hasPose then v.pose.t.list ++ v.pose.r.list else []) ++ v.s
def Val.motion (v : Val) : Motion :=
  { pose := v.pose, v := v3Of v.s, bg := v3Of (v.s.drop 3), ba := v3Of (v.s.drop 6) }

/-- An FP64 value of a number. -/
def f64R (q : Rat) : Rat := f64Val (f64Of q)
/-- A position less the job's anchor, in FP64 (R218). -/
def V3.from (p o : V3) : V3 := v3Of ((p.sub o).list.map f64R)
def Val.from (o : V3) (v : Val) : Val :=
  if v.hasPose then { v with pose := { v.pose with t := v.pose.t.from o } }
  else if v.type == 3 then { v with s := ((v3Of v.s).from o).list } else v
def Pose.from (o : V3) (p : Pose) : Pose := { p with t := p.t.from o }
/-- The anchor of a job whose oldest pose stands at a position (R218). -/
def anchorAt (p : V3) : V3 := v3Of (p.list.map (fun q => (roundAway q : Rat)))

abbrev Vals := NMap Val
def valsOf (o : V3) (vars : NMap (Nat × List Byte)) : Vals := vars.map (fun v => (v.1, (Val.of v.2).from o))
def valAt (x : Vals) (b : Nat) : Val := NMap.getD x b { type := 0 }

/-! ### Factors -/

/-- A factor of a job: the variables it names, its SWITCH apart; its kernel; the cycles of its cost (R243); its whitened residual at values, with what is
integrated or carried held at linearisation points. -/
structure Fac where
  blocks : List Nat
  kern : Nat := 0
  k : Rat := 1
  switch : Option Nat := none
  cycles : Nat := 1
  res : (lin x : Vals) → List Rat

/-- The cost of a factor from its squared norm (R230), with the value of its SWITCH. -/
def costOf (kern : Nat) (k u2 s : Rat) : Rat := if kern == 3 then s * s * u2 + ((1 - s) / k) ^ 2 else kernelCost kern k u2
/-- The value of a factor's SWITCH. -/
def Fac.switchAt (f : Fac) (x : Vals) : Rat := match f.switch with
  | some b => (valAt x b).s.getD 0 1
  | none => 1
def Fac.cost (lin x : Vals) (f : Fac) : Rat := let r := f.res lin x; costOf f.kern f.k (dotL r r) (f.switchAt x)
/-- The cost of an iterate: half the sum over the factors, accumulated in FP64 (R218, R236). -/
def jobCost (fs : List Fac) (lin x : Vals) : F64 := f64Of (sumQ (fs.map (Fac.cost lin x)) / 2)
/-- Every variable a factor names. -/
def Fac.all (f : Fac) : List Nat := f.blocks ++ f.switch.toList

/-! ### A session's factors -/

/-- What a session's residuals rest on: the context, the structure, the anchor, and all of it as open terms see it. -/
structure JobIn where
  c : SessCtx
  se : SeStruct
  anchor : V3
  base : List Byte
  deriving DecidableEq, Repr

/-- The session's CLOCK block. -/
def clockBlock (se : SeStruct) : Option Nat := (se.vars.find? (fun v => v.2.1 == 4)).map (·.1)
/-- o and d. -/
def clockOf (x : Vals) : Rat × Rat :=
  match x.find? (fun v => v.2.type == 4) with
  | some v => (v.2.s.getD 0 0, v.2.s.getD 1 0)
  | none => (0, 0)
/-- A client time in DT by the clock's present values (R223). -/
def clientDt (e : JobIn) (x : Vals) (tc : Nat) : Rat :=
  let k := clockOf x
  tc + k.1 + k.2 * ((tc : Int) - (e.c.clock.tRef.getD tc : Nat) : Int)
def recTime (e : JobIn) (x : Vals) (r : List Byte) : Rat :=
  if bit (fieldAt r 6 1) 1 then clientDt e x (fieldAt r 0x18 8) else (fieldAt r 0x18 8 : Nat)
/-- The session's samples of some kinds that map into an interval, placed by the clock's present values (R221, R223). -/
def samplesIn (e : JobIn) (kinds : List Nat) (lo hi : Rat) : List (Int × List Byte) :=
  (e.se.past ++ e.se.samples).filter (fun q => kinds.contains (fieldAt q.2 0 1) && decide (lo ≤ q.1) && decide ((q.1 : Rat) < hi))
def imusIn (e : JobIn) (x : Vals) (lo hi : Rat) : List Imu :=
  (samplesIn e [4] lo hi).map (fun q => imuOf (clientDt e x (fieldAt q.2 1 8)) (q.2.drop 1))
def axesOf (c : SessCtx) : Quat := ((inertialSensor c).map (fun s => s.pose.r)).getD {}

/-- Open residuals of a job's factor. -/
def openRes (e : JobIn) (tag n : Nat) (b : List Byte) (vs : List Val) : List Rat :=
  (f64sAt (padTo (8 * n) (Config.numeric tag (e.base ++ b ++ f64Bytes ((vs.flatMap Val.list).map f64Of)))) 0 n).map f64Val

/-- The pose behind entry i of a record: its block's; for the motion state at T_S its knot's, carried over the records between or at constant velocity (R220). A change
of the clock moves it by the velocity (R223). -/
def entryPose (e : JobIn) (lin x : Vals) (r : List Byte) (i : Nat) : Pose :=
  let v := valAt x (recVar r i)
  match (if recVarKind r i == 1 then e.se.knots.find? (fun k => k.block == recVar r i) else none) with
  | none => v.pose
  | some k =>
    let t0 := recTime e lin r
    let m := v.motion.carry (axesOf e.c) (imusIn e lin k.at_ t0) k.at_ t0
    { m.pose with t := (m.pose.t.add (V3.scale ((recTime e x r - t0) / 10 ^ 9) m.v)).trim }

/-- The rotation that a PRIOR or SET_VALUE of more than a pose gives a MOTION block: how its three numbers hold it the spec does not say. -/
def motionTurn (r : List Byte) (n : Nat) : List Byte := padTo 32 (Config.numeric 135 (bytesAt r 0x28 (8 * n)))

/-- Two unit vectors orthogonal to a direction, the first of them horizontal, east for a vertical one. -/
def acrossOf (u : V3) : V3 × V3 :=
  let h : V3 := V3.cross ⟨0, 0, 1⟩ u
  let e1 : V3 := if h.dot h = 0 then ⟨1, 0, 0⟩ else h.unit
  (e1, (u.cross e1).unit)

/-- A record's whitened residual (R226, R227). -/
def recRes (e : JobIn) (lin x : Vals) (r : List Byte) : List Rat :=
  let own := (usedVars r).filter (· != 3)
  let pose (i : Nat) : Pose := entryPose e lin x r i
  let upper (n off : Nat) : Mat := upperOf n ((f32sAt r off (n * (n + 1) / 2)).map f32Val)
  let open_ (n : Nat) : List Rat := openRes e 144 n r (own.map (fun i => valAt x (recVar r i)))
  match recKind r with
  | 0x01 =>
    let p := if own.length == 2 then v3Of (valAt x (recVar r 1)).s else (v3At64 r 0x48).from e.anchor
    ((sightOf e.c.sensors e.se.stereo r p).bind (fun s => s.residual (pose 0))).getD (open_ 2)
  | 0x04 => (upper 6 0x48).app ((poseAt32 r 0x20).inv.mul ((pose 0).inv.mul (pose 1))).log
  | 0x05 =>
    let n := fieldAt r 0x20 1
    let v := valAt x (recVar r 0)
    let d := (f64sAt r 0x28 n).map f64Val
    if n == 6 && v.hasPose then (upper 6 0x50).app (((poseAt32 r 0x28).from e.anchor).inv.mul v.pose).log
    else if v.type == 2 then
      let p : Pose := { t := (v3Of d).from e.anchor, r := quatAt64 (motionTurn r n) 0 }
      (upper n (0x28 + 8 * n)).app ((p.inv.mul v.pose).log ++ v.s.zipWith (· - ·) (d.drop 6))
    else
      let d := if v.type == 3 then ((v3Of d).from e.anchor).list else d
      (upper n (0x28 + 8 * n)).app (v.s.zipWith (· - ·) d)
  | 0x06 => [(((pose 0).t.sub ((v3At64 r 0x20).from e.anchor)).norm - f32Val (f32At r 0x38)) / f32Val (f32At r 0x3C)]
  | 0x07 =>
    let c := (v3At64 r 0x20).from e.anchor
    let a := acrossOf (v3At32 r 0x38)
    let p := (pose 0).t
    if p = c then open_ 2 else let d := (p.sub c).unit; (upper 2 0x44).app [a.1.dot d, a.2.dot d]
  | _ => []

/-- Cost evaluation of a record, cycles (R243). -/
def recCycles (r : List Byte) : Nat :=
  match recKind r with
  | 0x01 => if fieldAt r 0x20 1 == 2 then 3 else 1
  | 0x04 => 3
  | 0x05 => 1 + (recDim r * recDim r + 31) / 32
  | _ => 1

/-- A held record as a factor: with CLIENT set it depends on the clock too (R223). -/
def recFac (e : JobIn) (r : List Byte) : Fac :=
  let own := ((usedVars r).filter (· != 3 || recKernel r != 3)).map (recVar r)
  { blocks := (own ++ (if bit (fieldAt r 6 1) 1 then (clockBlock e.se).toList else [])).eraseDups
    kern := recKernel r, k := f32Val (f32At r 0xC), switch := if recKernel r == 3 then some (recVar r 3) else none
    cycles := recCycles r, res := fun lin x => recRes e lin x r }

/-- The constant-velocity factor of an interval, in seconds (R221): displacement and velocity, whitened by a white acceleration of 1 m/s²/√Hz. -/
def coastRes (dt : Rat) (a b : Val) : List Rat :=
  let p := b.pose.t.sub (a.motion.coast dt).pose.t
  let v := (v3Of b.s).sub (v3Of a.s)
  let k := rootQ (12 / dt ^ 3)
  let n := rootQ dt
  [p.x, p.y, p.z].zip [v.x, v.y, v.z] |>.flatMap (fun e => [k * (e.1 - e.2 * dt / 2), e.2 / n])

/-- The biases that an interval is integrated at (R221): those of the linearisation point, or the present ones once a bias has moved by more than ten times its
random walk over the interval. -/
def biasPoint (noise : List F32) (dt : Rat) (lin x : Motion) : V3 × V3 :=
  let far (a b : V3) (s : F32) : Bool := (a.sub b).list.any (fun d => decide (100 * (f32Val s) ^ 2 * dt < d * d))
  if far x.bg lin.bg (noise.getD 3 0) || far x.ba lin.ba (noise.getD 2 0) then (x.bg, x.ba) else (lin.bg, lin.ba)

/-- The inertial factor of an interval (R221): what its records integrate to at the bias point, corrected to first order, against the two states; whitened by
the noise of the slot. -/
def inertialRes (e : JobIn) (lin x : Vals) (k j : Knot) : List Rat :=
  let a := (valAt x k.block).motion
  let b := (valAt x j.block).motion
  let q := axesOf e.c
  let noise := ((inertialSensor e.c).map (·.noise)).getD []
  let t : Rat := ((j.at_ - k.at_ : Int) : Rat) / 10 ^ 9
  let b0 := biasPoint noise t (valAt lin k.block).motion a
  let g := segsOf (imusIn e x k.at_ j.at_) k.at_ j.at_
  let d := preint q b0.1 b0.2 g
  let c := colSum 9 (preintBias q b0.1 b0.2 g) ((a.bg.sub b0.1).list ++ (a.ba.sub b0.2).list)
  let turn := d.r.mul (expRot (v3Of (c.drop 3)))
  let back (v : V3) : V3 := a.pose.r.conj.turn v
  let rp := (back (((b.pose.t.sub a.pose.t).sub (V3.scale t a.v)).sub (V3.scale (t * t / 2) gravity))).sub (d.p.add (v3Of c))
  let rv := (back ((b.v.sub a.v).sub (V3.scale t gravity))).sub (d.v.add (v3Of (c.drop 6)))
  let rr := logRot (turn.conj.mul (a.pose.r.conj.mul b.pose.r))
  let r := rp.list ++ rr.list ++ rv.list ++ (b.bg.sub a.bg).list ++ (b.ba.sub a.ba).list
  let walk (i : Nat) : Mat := Mat.by ((vec32 noise i) ^ 2 * t) (matId 3)
  let cov := Mat.diag2 (preintCov q b0.1 b0.2 (vec32 noise 0) (vec32 noise 1) g) (Mat.diag2 (walk 3) (walk 2))
  match (cov.inv.map Mat.trim).bind cholUpper with
  | some w => (upperOf 15 w).app r
  | none => openRes e 145 15 (leInt 8 k.at_ ++ leInt 8 j.at_) [valAt x k.block, valAt x j.block]

/-- An odometry record as a held planar velocity and yaw rate, and one of its variances (R53). -/
def odoOf (t : Rat) (r : List Byte) : Imu × Imu :=
  ({ at_ := t, a := ⟨f32Val (f32At r 8), f32Val (f32At r 0xC), 0⟩, w := ⟨0, 0, f32Val (f32At r 0x10)⟩ },
   { at_ := t, a := ⟨f32Val (f32At r 0x14), f32Val (f32At r 0x18), 0⟩, w := ⟨0, 0, f32Val (f32At r 0x1C)⟩ })
/-- The odometry factor of an interval (R221, R226): the planar motion its records integrate to against the relative pose of the two states: forward, lateral, yaw. -/
def odoRes (e : JobIn) (x : Vals) (k j : Knot) : List Rat :=
  let l := (samplesIn e [5, 7] k.at_ j.at_).map (fun q => odoOf (clientDt e x (fieldAt q.2 1 8)) (q.2.drop 1))
  let g := segsOf (l.map (·.1)) k.at_ j.at_
  let n := segsOf (l.map (·.2)) k.at_ j.at_
  let m := g.foldl (fun (p : Pose) s =>
    { t := (p.t.add (p.r.turn (V3.scale s.dt s.a))).trim, r := (p.r.mul (expRot (V3.scale s.dt s.w))).unit }) {}
  let s2 := n.foldl (fun (v : V3) s => v.add (V3.scale (s.dt * s.dt) ⟨s.a.x, s.a.y, s.w.z⟩)) {}
  let q := odoAxes e.c
  let f (v : Val) : Pose := { v.pose with r := (v.pose.r.mul q).unit }
  let rel := (f (valAt x k.block)).inv.mul (f (valAt x j.block))
  let d := rel.t.sub m.t
  if s2.x ≤ 0 ∨ s2.y ≤ 0 ∨ s2.z ≤ 0 then openRes e 146 3 (leInt 8 k.at_ ++ leInt 8 j.at_) [valAt x k.block, valAt x j.block]
  else [d.x / rootQ s2.x, d.y / rootQ s2.y, turnless (rel.r.yaw - m.r.yaw) / rootQ s2.z]

/-- The factors between two consecutive knots (R221): inertial or constant velocity, and odometry, switchable where the intake made it so (R266). -/
def motionFacs (e : JobIn) (k j : Knot) : List Fac :=
  let clk := (clockBlock e.se).toList
  let has (kinds : List Nat) : Bool := !(samplesIn e kinds k.at_ j.at_).isEmpty
  let move : Fac :=
    if has [4] then { blocks := [k.block, j.block] ++ clk, cycles := 20, res := fun lin x => inertialRes e lin x k j }
    else { blocks := [k.block, j.block], cycles := 0,
           res := fun _ x => coastRes (((j.at_ - k.at_ : Int) : Rat) / 10 ^ 9) (valAt x k.block) (valAt x j.block) }
  let sw := if has [7] then NMap.get? e.se.odoSwitch k.block else none
  move :: (if has [5, 7] then
    [{ blocks := [k.block, j.block] ++ clk, kern := if sw.isSome then 3 else 0, switch := sw, cycles := 4, res := fun _ x => odoRes e x k j }] else [])

/-- The arrival factor (R224). -/
def arrivalFac (e : JobIn) (clk : Nat) : Fac :=
  { blocks := [clk]
    res := fun _ x =>
      let k := clockOf x
      let a := e.se.arrivals.map (fun p => ((p.1 : Int) - p.2 : Int) - k.2 * ((p.2 : Int) - (e.c.clock.tRef.getD p.2 : Nat) : Int))
      match a with
      | [] => [0]
      | v :: l =>
        let r := l.foldl min v - k.1
        [if 0 ≤ r then r / (250000 * e.c.cfg.latencyMs) else r / 1000] }

/-- The dense prior as a factor, on the oldest knot and the clock (R222). -/
def priorFac (e : JobIn) (p : DensePrior) : Fac :=
  let knot := if p.motion.isEmpty then none else (e.se.knots.find? (fun k => k.at_ == p.at_)).map (·.block)
  let clk := (clockBlock e.se).getD 0
  { blocks := knot.toList ++ [clk], cycles := 1 + (p.dim * p.dim + 31) / 32
    res := fun _ x =>
      let d := (match knot with
        | some k => (valAt x k).minus ((Val.of (2, p.motion)).from e.anchor)
        | none => []) ++ (valAt x clk).minus (Val.of (4, p.clock))
      ((p.root.app d).zip (p.rhs.map f32Val)).map (fun q => q.1 + q.2) }

/-- All factors of a session job: its records, and those the engine forms (R221, R222, R224). -/
def sessionFacs (e : JobIn) : List Fac :=
  e.se.factors.map (fun f => recFac e f.2) ++ (e.se.knots.zip e.se.knots.tail).flatMap (fun p => motionFacs e p.1 p.2) ++
  (match e.se.prior with
   | some p => [priorFac e p]
   | none => []) ++ ((clockBlock e.se).map (arrivalFac e)).toList

/-! ### The factors of a map job (R323, R326) -/

/-- A factor of a map job: a relative pose with its kernel's SWITCH, a pixel of a landmark, a prior. -/
inductive JobTerm where
  | rel (a b : Nat) (meas : Pose) (w : Mat) (switched : Bool)
  | pixel (k l : Nat) (s : Sight)
  | prior (k : Nat) (at_ : Pose) (w : Mat)
  deriving DecidableEq, Repr

/-- diag(1/σ_t, 1/σ_t, 1/σ_t, 1/σ_r, 1/σ_r, 1/σ_r). -/
def poseInfo (sigT sigR : Rat) : Mat := matOf 6 6 (fun i j => if i = j then 1 / (if i < 3 then sigT else sigR) else 0)
def kfPose (k : Kf) : Pose := poseOf k.pos k.quat
/-- The relative pose of a keyframe in its PREV's frame at insertion. -/
def kfRel (k : Kf) : Pose := { t := v3Of (k.relT.map f32Val), r := quat32 k.relQ }

/-- The succession factors of a job. -/
def succession (kfs : List (Nat × Kf)) : List JobTerm :=
  (kfs.filter (fun e => kfs.any (fun f => f.1 == e.2.prev))).map (fun e => .rel e.2.prev e.1 (kfRel e.2) (poseInfo (1 / 50) (3 / 1000)) false)
/-- The gauge's PRIOR. -/
def gaugeTerm (e : Nat × Kf) : JobTerm := .prior e.1 (kfPose e.2) (poseInfo (1 / 1000) (1 / 10000))

/-- A closure's factors: covisibility with its σ scaled by √(COVIS_MIN / shared), succession, the loop, the boundary, the gauge. -/
def closureTerms (d : MapData) (covis : Nat) (x : MapJob) : List JobTerm :=
  let kfs := (d.kfs.filter (fun p => x.kfs.contains p.1))
  let pairs := kfs.flatMap (fun a => (kfs.filter (fun b => decide (a.1 < b.1) && decide (covis ≤ shared a.2 b.2))).map (fun b => (a, b)))
  let cov := pairs.map (fun p =>
    JobTerm.rel p.1.1 p.2.1 ((kfPose p.1.2).inv.mul (kfPose p.2.2))
      (Mat.by (rootQ ((shared p.1.2 p.2.2 : Rat) / (max 1 covis : Nat))) (poseInfo (1 / 50) (3 / 1000))) false)
  let loop := match x.loop with
    | some (kf, cand, b) => match NMap.get? d.kfs cand with
      | some c =>
        let w := (((symMat 6 ((f32sAt b 40 21).map f32Val)).inv).bind cholUpper).map (upperOf 6)
        [JobTerm.rel cand kf ((kfPose c).inv.mul (poseAt32 b 0))
          (w.getD (upperOf 6 ((f64sAt (padTo 168 (Config.numeric 148 b)) 0 21).map f64Val))) true]
      | none => []
    | none => []
  let edge :=
    (boundaryOf d covis (kfs.map (·.1))).filterMap (fun e => (NMap.get? d.kfs e.2).map (fun k => gaugeTerm (e.2, k)))
  cov ++ succession kfs ++ loop ++ edge ++ ((kfs.head?).map gaugeTerm).toList

/-- A region's factors (R326): observations with Huber 2.0 at 1.0 px, succession, the PRIOR on the keyframe with the most observations. -/
def regionTerms (d : MapData) (x : MapJob) : List JobTerm :=
  let kfs := (d.kfs.filter (fun p => x.kfs.contains p.1))
  let seen (k : Kf) : List (List Byte) := k.kps.filter (fun e => x.pts.contains (kpLandmark e))
  let px := kfs.flatMap (fun k => (seen k.2).map (fun e =>
    JobTerm.pixel k.1 (kpLandmark e)
      { cam := pinhole k.2.cam, p := {}, u := (intAt e 0 4 : Rat) / 32, v := (intAt e 4 4 : Rat) / 32, info := matId 2, kern := 1, k := 2 }))
  let most := kfs.foldl (fun (b : Option (Nat × Kf)) k => match b with
    | some p => if (seen p.2).length < (seen k.2).length then some k else b
    | none => some k) none
  px ++ succession kfs ++ (most.map gaugeTerm).toList

def jobTerms (d : MapData) (covis : Nat) (x : MapJob) : List JobTerm := if x.kind == 1 then regionTerms d x else closureTerms d covis x

/-- The block of a landmark's POINT and of the loop's SWITCH in a map job; a pose's is its keyframe. -/
def pointBlock (l : Nat) : Nat := 2 ^ 32 + l
def switchBlock : Nat := 2 ^ 33

/-- A factor of a map job over its variables, positions from the anchor. A point not before its camera leaves the residual open. -/
def JobTerm.fac (o : V3) : JobTerm → Fac
  | .rel a b m w sw =>
    { blocks := [a, b], kern := if sw then 3 else 0, switch := if sw then some switchBlock else none, cycles := 3
      res := fun _ x => w.app (m.inv.mul ((valAt x a).pose.inv.mul (valAt x b).pose)).log }
  | .pixel k l s =>
    { blocks := [k, pointBlock l], kern := s.kern, k := s.k
      res := fun _ x =>
        let p := v3Of (valAt x (pointBlock l)).s
        ({ s with p := p }.residual (valAt x k).pose).getD
          ((f64sAt (padTo 16 (Config.numeric 144 (f64Bytes (((valAt x k).list ++ p.list ++ [s.u, s.v]).map f64Of)))) 0 2).map f64Val) }
  | .prior k p w => { blocks := [k], cycles := 3, res := fun _ x => w.app ((p.from o).inv.mul (valAt x k).pose).log }

/-! ### The worst-case time (R234, R243) -/

/-- Rounds a quotient up. -/
def ceilDiv (a b : Nat) : Nat := (a + b - 1) / b
/-- Cycles of a tile of a clique's update: on the arrays, counted at 400 MHz, or on the engine's own lanes. -/
def tileCycles (m n p : Nat) : Nat := if 64 ≤ p && 1048576 ≤ m * n * p then 3 * ((ceilDiv p 64 * 384 + 512) + 2112) else ceilDiv (m * n * p) 128
/-- The sides of the tiles of a border of b scalars. -/
def tileSides (b : Nat) : List Nat := (List.range (ceilDiv b 128)).map (fun i => min 128 (b - 128 * i))
/-- Cycles of a clique with p pivot and b border scalars: the tiles on and below its update's diagonal. -/
def cliqueCycles (c : Nat × Nat) : Nat :=
  let p := c.1
  let b := c.2
  let t := (tileSides b).zipIdx
  ceilDiv (p ^ 3) 96 + ceilDiv (p ^ 2 * b) 256 + (t.flatMap (fun x => (t.filter (fun y => decide (y.2 ≤ x.2))).map (fun y => tileCycles x.1 y.1 p))).foldl (· + ·) 0 +
    64 + ceilDiv (p * (p + b)) 128 + 32

end Sys2Proof.Machine
end

