-- ==== Sys2Proof/Machine/Cliques.lean ====
section
/-! DEFINITION. The elimination of a job (R214, R218, R230 to R235, R239 to R241, R243): its linearised factors, the constrained minimum-degree order and its
cliques, the fronts with their pivots and updates, back-substitution, the marginal on some variables, spills and WF. Fronts are FP32 and pivot blocks FP64, each
operation rounded once; the order of the operations within a front the spec does not give. -/
namespace Sys2Proof.Machine

/-! ### Linearised factors (R218, R230) -/

/-- A scalar of a job: its block and its place there. -/
abbrev Key := Nat × Nat
def keysOf (x : Vals) (bs : List Nat) : List Key := bs.flatMap (fun b => (List.range (valAt x b).dim).map (fun i => (b, i)))
/-- Scalars of some blocks. -/
def dimOf (x : Vals) (bs : List Nat) : Nat := (keysOf x bs).length

def negF32 (b : F32) : F32 := b ^^^ 0x80000000
def divF32 (a b : F32) : F32 × Bool := roundF32 (f32Val a / f32Val b)

/-- A factor linearised, FP32: the derivative's rows over its scalars and the residual, both with the kernel's weight; whether a value saturated. -/
structure Line where
  keys : List Key
  rows : List (List F32)
  rhs : List F32
  sat : Bool := false
  deriving DecidableEq, Repr

def Line.coef (l : Line) (r : List F32) (k : Key) : Option F32 := ((l.keys.zip r).find? (fun e => e.1 == k)).map (·.2)
/-- The residual after a step, and its half square. -/
def Line.cost (l : Line) (d : List Rat) : Rat := let r := (l.rows.map (fun r => dotL (r.map f32Val) d)).zipWith (· + ·) (l.rhs.map f32Val); dotL r r / 2

/-- A factor at linearisation points (R230): a switchable one as s·r, with the SWITCH's own row. -/
def Fac.linearise (at_ : Vals) (f : Fac) : Line :=
  let r := f.res at_ at_
  let s := f.switchAt at_
  let w := if f.kern == 3 then s else rootQ (kernelWeight f.kern f.k (dotL r r))
  let cols := f.blocks.flatMap (fun b => derivative (valAt at_ b).dim (fun d => f.res at_ (NMap.upd at_ b (Val.step d))))
  let own := (List.range r.length).map (fun i => cols.map (fun c => w * c.getD i 0) ++ (if f.switch.isSome then [r.getD i 0] else []))
  let all := if f.switch.isSome then own ++ [cols.map (fun _ => 0) ++ [-1 / f.k]] else own
  let rhs := r.map (w * ·) ++ (if f.switch.isSome then [(1 - s) / f.k] else [])
  { keys := keysOf at_ f.all, rows := all.map (fun l => l.map (fun q => (roundF32 q).1)), rhs := rhs.map (fun q => (roundF32 q).1)
    sat := (all.flatten ++ rhs).any (fun q => (roundF32 q).2) }

/-! ### The order (R231) -/

/-- Each variable with those it shares a factor or a fill with. -/
abbrev Pattern := NMap (List Nat)
/-- Joins every two of some variables. -/
def joinAll (g : Pattern) (bs : List Nat) : Pattern :=
  bs.foldl (fun g b => NMap.upd g b (fun l => l ++ bs.filter (fun c => c != b && !l.contains c))) g
/-- A variable's neighbours once it is eliminated are joined. -/
def Pattern.without (g : Pattern) (v : Nat) (nb : List Nat) : Pattern := joinAll ((NMap.erase g v).map (fun e => (e.1, e.2.filter (· != v)))) nb

/-- The next variable: of least degree in scalars among those not constrained; which of several, the engine's choice; then the constrained ones in their order. -/
def nextPivot (dim : List Nat → Nat) (last : List Nat) (g : Pattern) : Option Nat :=
  let free := g.filter (fun e => !last.contains e.1)
  let least := (free.map (fun e => dim e.2)).foldl min ((free.map (fun e => dim e.2)).headD 0)
  match (free.filter (fun e => dim e.2 == least)).map (·.1) with
  | [] => last.find? (NMap.has g)
  | [v] => some v
  | l => l[Config.numericNat 141 (l.flatMap (leBytes 4)) % l.length]?
/-- The order of elimination, each variable with its neighbours then. -/
def minDegree (dim : List Nat → Nat) (last : List Nat) : Nat → Pattern → List (Nat × List Nat)
  | 0, _ => []
  | n + 1, g =>
    match nextPivot dim last g with
    | none => []
    | some v =>
      let nb := NMap.getD g v []
      (v, nb) :: minDegree dim last n (Pattern.without g v nb)

/-- Groups consecutive variables of one pattern, at most 4,096 scalars to a clique. -/
def supernodes (dim : List Nat → Nat) : List (Nat × List Nat) → List Clique
  | [] => []
  | e :: l =>
    match supernodes dim l with
    | [] => [{ pivots := [e.1], border := e.2 }]
    | c :: r =>
      let all := c.pivots ++ c.border
      if e.2.all all.contains && all.all e.2.contains && decide (dim (e.1 :: c.pivots) ≤ 4096) then { c with pivots := e.1 :: c.pivots } :: r
      else { pivots := [e.1], border := e.2 } :: c :: r

/-- The stored scalars of a clique tree. -/
def fillOf (dim : List Nat → Nat) (l : List Clique) : Nat :=
  (l.map (fun c => dim c.pivots * (dim c.pivots + 1) / 2 + dim c.pivots * dim c.border)).foldl (· + ·) 0

/-- The cliques for which a test holds, and every clique above one: each with whether it is such (R232). -/
def reached (base : Clique → Bool) (l : List Clique) : List (Clique × Bool) :=
  (l.foldl (fun (acc : List (Clique × Bool) × List Nat) c =>
    if base c || c.pivots.any acc.2.contains then (acc.1 ++ [(c, true)], acc.2 ++ c.border) else (acc.1 ++ [(c, false)], acc.2)) ([], [])).1

/-- The cliques of a job: those kept in their order, then the rest of the variables ordered anew on the factors that no kept clique holds and the borders that kept
ones leave; the last variables are joined, so that they share the root. -/
def orderCliques (dim : List Nat → Nat) (fs : List (List Nat)) (vars last : List Nat) (kept : List Clique) : List Clique :=
  let held := kept.flatMap (·.pivots)
  let rest := vars.filter (fun b => !held.contains b)
  let g : Pattern := rest.map (fun b => (b, []))
  let g := (fs.filter (fun f => !f.any held.contains)).foldl joinAll g
  let g := kept.foldl (fun g c => joinAll g (c.border.filter rest.contains)) g
  let l := minDegree dim last rest.length (joinAll g (last.filter rest.contains))
  let at_ (bs : List Nat) : List Nat := (l.map (·.1)).filter bs.contains
  kept ++ supernodes dim (l.map (fun e => (e.1, at_ e.2)))

/-- The clique that holds a factor: that of its variable eliminated first. -/
def ownerOf (l : List Clique) (f : Fac) : Option Clique := l.find? (fun c => f.all.any c.pivots.contains)
def facsOf (l : List Clique) (fs : List Fac) (c : Clique) : List Fac := fs.filter (fun f => (ownerOf l f).any (fun k => k.pivots == c.pivots))

/-! ### Fronts (R233, R234) -/

/-- What an elimination runs on: the anchor, the variables, the points in force, the factors; damping and GAUGE_SIGMA. -/
structure Elim where
  anchor : V3
  vars : NMap (Nat × List Byte)
  points : NMap (List Byte)
  fs : List Fac
  lam : Rat := 0
  sigma : Rat := 1

/-- Values of the variables with some of them at points. -/
def Elim.valsAt (e : Elim) (pts : NMap (List Byte)) : Vals := valsOf e.anchor (e.vars.map (fun v => (v.1, v.2.1, NMap.getD pts v.1 v.2.2)))
def Elim.now (e : Elim) : Vals := valsOf e.anchor e.vars
def Elim.lin (e : Elim) : Vals := e.valsAt e.points
/-- Values at a clique's own points. -/
def Elim.ofClique (e : Elim) (c : Clique) : Vals := e.valsAt (e.points.map (fun p => (p.1, NMap.getD c.points p.1 p.2)))

/-- What a clique passes to its parent, by scalar: its update about the points in force, which a shift of the origin moves. -/
structure Passed where
  keys : List Key
  a : List (List F32)
  g : List (F32 × Bool)
  deriving DecidableEq, Repr
def Clique.passed (e : Elim) (c : Clique) : Passed :=
  let p := e.ofClique c
  let shift := c.border.flatMap (fun b => (valAt e.lin b).minus (valAt p b))
  { keys := keysOf p c.border, a := c.update
    g := (c.updRhs.zip c.update).map (fun r => roundF32 (f32Val r.1 + dotL (r.2.map f32Val) shift)) }
def Passed.place (p : Passed) (k : Key) : Option Nat := p.keys.findIdx? (· == k)
def f32Entry (a : List (List F32)) (i j : Nat) : F32 := (a.getD i []).getD j 0

/-- An entry of a front: its factors' products in their order, then what the children pass. -/
def frontAt (lines : List Line) (kids : List Passed) (a b : Key) : F32 × Bool :=
  let own := lines.foldl (fun acc l => l.rows.foldl (fun acc r => match l.coef r a, l.coef r b with
    | some u, some v => macF32 acc u v
    | _, _ => acc) (acc.1, acc.2 || l.sat)) (0, false)
  kids.foldl (fun acc k => match k.place a, k.place b with
    | some i, some j => addF32 acc (f32Entry k.a i j, false)
    | _, _ => acc) own
def frontRhs (lines : List Line) (kids : List Passed) (a : Key) : F32 × Bool :=
  let own := lines.foldl (fun acc l => (l.rows.zip l.rhs).foldl (fun acc r => match l.coef r.1 a with
    | some u => macF32 acc u r.2
    | none => acc) acc) (0, false)
  kids.foldl (fun acc k => match k.place a with
    | some i => addF32 acc (k.g.getD i (0, false))
    | none => acc) own

/-- The pivots of a matrix with their rows (R239, R240), FP64: row and class of each (1 gauge fixed, 2 damped), given the assembled diagonal. -/
def factorPivots (sigma : Rat) : List Rat → Mat → List (List Rat × Nat)
  | [], _ => []
  | h :: hs, m =>
    let a := m.headD []
    let q := a.headD 0
    let cls : Nat := if q = 0 then 1 else if q ≤ h / 10 ^ 12 then 2 else 0
    let q := if cls == 1 then f64R (1 / sigma ^ 2) else if cls == 2 then f64R (h / 10 ^ 6) else q
    let d := f64R (rootQ q)
    let r := d :: a.tail.map (fun x => f64R (x / d))
    (r, cls) :: factorPivots sigma hs ((m.tail.zip r.tail).map (fun e => (e.1.tail.zip r.tail).map (fun f => f64R (f.1 - e.2 * f.2))))

/-- A row solved against the pivot block, FP32. -/
def forward (r : List (List F32)) (a : List F32) : List F32 × Bool :=
  a.zipIdx.foldl (fun acc e =>
    let v := acc.1.zipIdx.foldl (fun v k => macF32 v (negF32 k.1) (f32Entry r k.2 e.2)) (e.1, false)
    let q := divF32 v.1 (f32Entry r e.2 e.2)
    (acc.1 ++ [q.1], acc.2 || v.2 || q.2)) ([], false)

/-- The tile of an entry of an update goes to the arrays (R234). -/
def offloaded (b p i j : Nat) : Bool :=
  let side (k : Nat) : Nat := min 128 (b - 128 * (k / 128))
  decide (64 ≤ p) && decide (1048576 ≤ side i * side j * p)
/-- An entry of the border's outer product: on the arrays with its columns padded to a multiple of 64, or on the engine's lanes. It, and whether it saturated. -/
def outerAt (b : Nat) (x : List (List F32)) (i j : Nat) : F32 × Bool :=
  let u := x.getD i []
  let v := x.getD j []
  let p := u.length
  if offloaded b p i j then
    let pad := List.replicate ((64 - p % 64) % 64) (0 : F32)
    let r := splitElement (u ++ pad) (v ++ pad)
    (r.1, r.2.2)
  else (u.zip v).foldl (fun acc e => macF32 acc e.1 e.2) (0, false)

/-- A clique factorised, with what its factorisation met. -/
structure Factored where
  clique : Clique
  damped : Nat := 0
  gauge : Nat := 0
  /-- A saturation in assembly, and one in the factorisation. -/
  loose : Bool := false
  sat : Bool := false
  nan : Bool := false
  deriving DecidableEq, Repr

/-- The factorisation of a clique (R233). -/
def Clique.factorise (e : Elim) (fs : List Fac) (kids : List Clique) (c : Clique) : Factored :=
  let x := e.lin
  let lines := fs.map (Fac.linearise x)
  let passed := kids.map (Clique.passed e)
  let piv := keysOf x c.pivots
  let keys := piv ++ keysOf x c.border
  let p := piv.length
  let b := keys.length - p
  let front := keys.map (fun i => keys.map (frontAt lines passed i))
  let g := keys.map (frontRhs lines passed)
  let val (i j : Nat) : F32 := ((front.getD i []).getD j (0, false)).1
  let h := (List.range p).map (fun j => roundF32 (f32Val (val j j) * (1 + e.lam)))
  let m := matOf p p (fun i j => if i = j then f32Val (h.getD i (0, false)).1 else f32Val (val i j))
  let f := factorPivots e.sigma (h.map (fun q => f32Val q.1)) m
  let rows := f.zipIdx.map (fun r => List.replicate r.2 (0, false) ++ r.1.1.map roundF32)
  let r := rows.map (fun l => l.map (·.1))
  let solved := (List.range b).map (fun i => forward r (((List.range p).map (fun j => val (p + i) j))))
  let y := forward r ((g.take p).map (·.1))
  let xs := solved.map (·.1)
  let low (i j : Nat) : F32 × Bool :=
    let o := outerAt b xs (max i j) (min i j)
    addF32 (val (p + i) (p + j), false) (negF32 o.1, o.2)
  let upd := (List.range b).map (fun i => (List.range b).map (low i))
  let updG := (List.range b).map (fun i =>
    let o := ((xs.getD i []).zip y.1).foldl (fun acc q => macF32 acc q.1 q.2) (0, false)
    addF32 ((g.getD (p + i) (0, false)).1, false) (negF32 o.1, o.2))
  let any (l : List (List (F32 × Bool))) : Bool := l.any (fun r => r.any (·.2))
  { clique := { c with
      points := (c.pivots ++ c.border).map (fun k => (k, NMap.getD e.points k []))
      rows := r.zipIdx.map (fun l => l.1 ++ xs.map (fun q => q.getD l.2 0)), rhs := y.1
      fixed := (f.zipIdx.filter (fun q => q.1.2 == 1)).map (·.2)
      update := upd.map (fun l => l.map (·.1)), updRhs := updG.map (·.1), valid := true }
    damped := (f.filter (fun q => q.2 == 2)).length, gauge := (f.filter (fun q => q.2 == 1)).length
    loose := any front || any [g] || any [h], sat := any rows || solved.any (·.2) || y.2 || any upd || any [updG]
    nan := f.any (fun q => decide (q.1.headD 0 ≤ 0)) }

/-! ### A factorisation of the affected cliques (R232, R233, R247) -/

/-- A pass over the cliques. -/
structure Pass where
  done : List Clique := []
  damped : Nat := 0
  gauge : Nat := 0
  /-- Cliques that R247 had marked. -/
  rebuilt : Nat := 0
  loose : Bool := false
  sat : Bool := false
  nan : Bool := false
  /-- Pivots of the cliques that a numeric fault touched, and of those factorised. -/
  touched : List Nat := []
  hot : List Nat := []
  deriving DecidableEq, Repr

/-- One clique: the affected ones are assembled from their factors and from what the cliques below pass. -/
def Pass.clique (e : Elim) (all : List Clique) (s : Pass) (c : Clique × Bool) : Pass :=
  if !c.2 then { s with done := s.done ++ [c.1] }
  else
    let gone := s.done.flatMap (·.pivots)
    let kids := s.done.filter (fun k => c.1.pivots.any k.border.contains && !k.border.any gone.contains)
    let f := c.1.factorise e (facsOf all e.fs c.1) kids
    { done := s.done ++ [f.clique], damped := s.damped + f.damped, gauge := s.gauge + f.gauge, rebuilt := s.rebuilt + b2n (!c.1.valid)
      loose := s.loose || f.loose, sat := s.sat || f.sat, nan := s.nan || f.nan
      touched := if f.sat || f.nan then s.touched ++ c.1.pivots else s.touched, hot := s.hot ++ c.1.pivots }
/-- A clique that is affected for itself: it holds one of the variables, or was never factorised, or was marked. -/
def Clique.opened (v : List Nat) (c : Clique) : Bool := c.pivots.any v.contains || c.rows.isEmpty || !c.valid
def factoriseAll (e : Elim) (v : List Nat) (l : List Clique) : Pass := (reached (Clique.opened v) l).foldl (Pass.clique e l) {}

/-! ### Back-substitution and the predicted decrease (R233, R236) -/

/-- Steps found so far, by block. -/
structure Back where
  d : NMap (List Rat) := []
  sat : Bool := false
  touched : List Nat := []
  deriving DecidableEq, Repr

/-- A clique's step: its pivots from its border's, relative to its points; none of it where the clique is unaffected and every change of its border is below
RELIN_THR / 16. -/
def Back.clique (e : Elim) (x : Vals) (hot : List Nat) (small : Rat) (s : Back) (c : Clique) : Back :=
  let at_ := e.ofClique c
  let off (b : Nat) : List Rat := (valAt x b).minus (valAt at_ b)
  let dOf (b : Nat) : List Rat := NMap.getD s.d b (List.replicate (valAt x b).dim 0)
  let put (d : NMap (List Rat)) (l : List Rat) : NMap (List Rat) :=
    (c.pivots.foldl (fun (acc : NMap (List Rat) × List Rat) b => (NMap.set acc.1 b (acc.2.take (valAt x b).dim), acc.2.drop (valAt x b).dim)) (d, l)).1
  if !c.pivots.any hot.contains && c.border.all (fun b => (dOf b).all (fun q => decide (absQ q < small))) then s
  else
    let below := c.border.flatMap (fun b => ((off b).zipWith (· + ·) (dOf b)).map roundF32)
    let own := c.pivots.flatMap off
    let sol := (List.range own.length).reverse.foldl (fun (acc : List (F32 × Bool)) j =>
      if c.fixed.contains j then roundF32 (own.getD j 0) :: acc
      else
        let row := (c.rows.getD j []).drop j
        let v := (row.tail.zip (acc ++ below)).foldl (fun v k => macF32 (v.1, v.2 || k.2.2) (negF32 k.1) k.2.1) (negF32 (c.rhs.getD j 0), false)
        let q := divF32 v.1 (row.headD 0)
        (q.1, q.2 || v.2) :: acc) []
    let d := (sol.zip own).zipIdx.map (fun q => if c.fixed.contains q.2 then 0 else f32Val q.1.1.1 - q.1.2)
    let sat := sol.any (·.2)
    { d := put s.d d, sat := s.sat || sat, touched := if sat then s.touched ++ c.pivots else s.touched }
def backAll (e : Elim) (x : Vals) (hot : List Nat) (small : Rat) (l : List Clique) : Back := l.reverse.foldl (Back.clique e x hot small) {}

/-- The cost decrease that the linearisation predicts for a step: each factor as its clique linearised it. -/
def predicted (e : Elim) (x : Vals) (l : List Clique) (d : NMap (List Rat)) : Rat :=
  sumQ (e.fs.map (fun f =>
    let at_ := ((ownerOf l f).map e.ofClique).getD e.lin
    let m := f.linearise at_
    let off := f.all.flatMap (fun b => (valAt x b).minus (valAt at_ b))
    let step := f.all.flatMap (fun b => NMap.getD d b (List.replicate (valAt x b).dim 0))
    m.cost off - m.cost (off.zipWith (· + ·) step)))

/-! ### Marginals (R47, R222, R233) -/

/-- The square-root information rows of the last scalars of a system with its right-hand side, all scalars before eliminated; a scalar without information has a row
of zeros. -/
def rootRows (sigma : Rat) (n keep : Nat) (h : Mat) (g : List Rat) : List (List F32) × List F32 :=
  let m := (h.zip g).map (fun e => e.1 ++ [e.2]) ++ [g ++ [0]]
  let f := (factorPivots sigma ((List.range n).map (fun i => matAt h i i)) m).drop (n - keep)
  let rows := f.zipIdx.map (fun r => if r.1.2 == 1 then List.replicate (keep + 1) 0 else List.replicate r.2 0 ++ r.1.1)
  (rows.map (fun r => (r.take keep).map f32Of), rows.map (fun r => f32Of (r.getD keep 0)))

/-- A square block of a matrix. -/
def Mat.block (n k : Nat) (m : Mat) : Mat := ((m.drop n).take k).map (fun r => (r.drop n).take k)
/-- The information that a root clique holds of its own scalars, RᵀR of its pivot rows, in another order of them. -/
def rootInfo (e : Elim) (c : Clique) (order : List Key) : Mat :=
  let keys := keysOf (e.ofClique c) c.pivots
  let col (k : Key) : List Rat := match keys.findIdx? (· == k) with
    | some i => c.rows.map (fun r => f32Val (r.getD i 0))
    | none => []
  order.map (fun a => order.map (fun b => trim (dotL (col a) (col b))))

/-- The system of some factors over some scalars. -/
def normalSystem (at_ : Vals) (fs : List Fac) (keys : List Key) : Mat × List Rat :=
  let lines := fs.map (Fac.linearise at_)
  let row (l : Line) (r : List F32) : List Rat := keys.map (fun k => f32Val ((l.coef r k).getD 0))
  let all := lines.flatMap (fun l => (l.rows.zip l.rhs).map (fun r => (row l r.1, f32Val r.2)))
  (matOf keys.length keys.length (fun i j => trim (sumQ (all.map (fun r => r.1.getD i 0 * r.1.getD j 0)))),
   (List.range keys.length).map (fun i => trim (sumQ (all.map (fun r => r.1.getD i 0 * r.2)))))

/-! ### The clique store and the worst-case time (R214, R243) -/

/-- Bytes of a stored clique: its triangle, its border and its right-hand side, FP32. -/
def cliqueBytes (dim : List Nat → Nat) (c : Clique) : Nat :=
  let p := dim c.pivots
  4 * (p * (p + 1) / 2 + p * dim c.border + p)
/-- The cliques that a clique store does not hold: it fills in the order of elimination. -/
def spilled (dim : List Nat → Nat) (store : Nat) (l : List Clique) : List Clique :=
  (l.foldl (fun (acc : List Clique × Nat) c =>
    let n := acc.2 + cliqueBytes dim c
    if store < n then (acc.1 ++ [c], acc.2) else (acc.1, n)) ([], 0)).1

/-- Cycles of a spill of some bytes both ways at the bandwidth that the slot table guarantees a channel's SE requester in the store room (R390, R420, R243); without a
slot nothing is guaranteed, and the time is open. -/
def spillCycles (s : State) (ch n : Nat) : Nat :=
  let slots := (s.core.fab.owners.filter (· == 6 * ch + 3)).length
  let base := if s.hw.is968 then 960 else 480
  if n = 0 then 0 else if slots = 0 then Config.numericNat 143 (leBytes 8 n) else ceilDiv (2 * n * 256 * 12) (slots * base * 10)

/-- WF in cycles (R243): every clique, every factor, every spill. -/
def fullCycles (s : State) (ch : Nat) (dim : List Nat → Nat) (store : Nat) (l : List Clique) (fs : List Fac) : Nat :=
  (l.map (fun c => cliqueCycles (dim c.pivots, dim c.border))).foldl (· + ·) 0 + (fs.map (·.cycles)).foldl (· + ·) 0 +
  spillCycles s ch (((spilled dim store l).map (cliqueBytes dim)).foldl (· + ·) 0)

end Sys2Proof.Machine
end

