-- ==== Sys2Proof/Machine/Solver.lean ====
section
/-! DEFINITION. The solver engine (R211 to R250): deltas with their checks, knots, refusal, the iteration loop under its deadline, the
solution header, marginalisation, and the exit test of R74. -/
namespace Sys2Proof.Machine

/-! ### Records and their checks (R225 to R230) -/

/-- Rounds a length up to a multiple of 16. -/
def up16 (n : Nat) : Nat := (n + 15) / 16 * 16
/-- Bytes of the value part of a PRIOR or SET_VALUE of N scalars: a pose for N = 6. -/
def valueEnd (n : Nat) : Nat := if n == 6 then 0x50 else 0x28 + 8 * n

def finite32 (r : List Byte) (off n : Nat) : Bool := (f32sAt r off n).all f32IsFinite
def finite64 (r : List Byte) (off n : Nat) : Bool := (f64sAt r off n).all f64IsFinite
/-- Finite values of a PRIOR's or SET_VALUE's value part. -/
def finiteValue (r : List Byte) (n : Nat) : Bool := if n == 6 then finite64 r 0x28 3 && finite32 r 0x40 4 else finite64 r 0x28 n

/-- The parts of a record that its kind fixes: LEN, NVAR less the SWITCH, DIM, reserved payload bytes, finite values. -/
def payloadOk (r : List Byte) : Bool :=
  let nv := (usedVars r).length - (if recKernel r == 3 then 1 else 0)
  let form (len dim : Nat) (nvs : List Nat) : Bool := recLen r == len && recDim r == dim && nvs.contains nv
  let n := fieldAt r 0x20 1
  let tri := n * (n + 1) / 2
  match recKind r with
  | 0x01 =>
    form 96 2 [1, 2] && decide (fieldAt r 0x20 1 ≤ 2) && decide (fieldAt r 0x21 1 ≤ 3) && zeroAt r 0x22 2 && finite32 r 0x24 5 &&
    (if fieldAt r 0x20 1 == 2 then zeroAt r 0x38 16 else finite32 r 0x38 4) && (if nv == 2 then zeroAt r 0x48 24 else finite64 r 0x48 3)
  | 0x04 => form 160 6 [2] && finite64 r 0x20 3 && finite32 r 0x38 25 && zeroAt r 0x9C 4
  | 0x05 =>
    form (up16 (valueEnd n + 4 * tri)) n [1] && between 1 15 n && zeroAt r 0x21 7 && finiteValue r n && finite32 r (valueEnd n) tri &&
    zeroAt r (valueEnd n + 4 * tri) (recLen r - valueEnd n - 4 * tri)
  | 0x06 => form 64 1 [1] && finite64 r 0x20 3 && finite32 r 0x38 2
  | 0x07 => form 80 2 [1] && finite64 r 0x20 3 && finite32 r 0x38 6
  | 0x0F => recKernel r == 0 && recLen r == up16 (valueEnd n) && nv == 1 && between 1 15 n && zeroAt r 0x21 7 && finiteValue r n && zeroAt r (valueEnd n) (recLen r - valueEnd n)
  | _ => false

/-- The fields of a header that hold for every kind. -/
def headOk (r : List Byte) : Bool :=
  decide (recKernel r ≤ 3) && decide (recNvar r ≤ 4) && (recKernel r != 3 || between 1 4 (recNvar r)) && decide (fieldAt r 6 1 < 4) &&
  (recKernel r == 0 || (f32IsFinite (f32At r 0xC) && decide (0 < f32Val (f32At r 0xC)))) &&
  (List.range 4).all (fun i =>
    if (usedVars r).contains i then recVarKind r i == 0 || recVar r i == 0 else recVarKind r i == 0 && recVar r i == 0) &&
  (usedVars r).all (fun i => recVarKind r i != 3 || (i == 3 && recKernel r == 3))

/-! ### Blocks (R216 to R220) -/

/-- The knot at or before an instant (R220). -/
def knotAt (se : SeStruct) (t : Int) : Option Knot := (se.knots.filter (fun k => decide (k.at_ ≤ t))).getLast?
/-- The instant of a record's T_S in DT. -/
def recInstant (c : SessCtx) (r : List Byte) : Int := if bit (fieldAt r 6 1) 1 then toDt c.clock (fieldAt r 0x18 8) else (fieldAt r 0x18 8 : Nat)

/-- The block an entry of VAR names; none where it does not exist. A new SWITCH names none yet. -/
def entryBlock (c : SessCtx) (se : SeStruct) (r : List Byte) (i : Nat) : Option Nat :=
  match recVarKind r i with
  | 0 => if NMap.has se.vars (recVar r i) then some (recVar r i) else none
  | 1 => (knotAt se (recInstant c r)).map (·.block)
  | 2 => clockBlock se
  | _ => none

/-- The types of R226 that an entry may have. -/
def typeFits (kind i type : Nat) : Bool :=
  match kind, i with
  | _, 3 => type == 5
  | 0x01, 0 => type == 1 || type == 2
  | 0x01, _ => type == 3
  | 0x04, _ => type == 1 || type == 2
  | 0x06, _ => type == 2
  | 0x07, _ => type == 2
  | _, _ => true

/-- A record with its variables named by block, beside the VAR_KIND it came with: the switch, when it is new, in a block of its own. None where R228 drops it. -/
def resolve (c : SessCtx) (se : SeStruct) (r : List Byte) : Option (SeStruct × List Byte) :=
  if !headOk r || !payloadOk r then none
  else
    let new := (usedVars r).contains 3 && recVarKind r 3 == 3
    let old := (usedVars r).filter (fun i => !(new && i == 3))
    let found := old.map (fun i => (i, entryBlock c se r i))
    let fits := found.all (fun e => match e.2 with
      | some b => typeFits (recKind r) e.1 (NMap.getD se.vars b (0, [])).1
      | none => false)
    let sized := match recKind r, found.head? with
      | 5, some (_, some b) => blockScalars (NMap.getD se.vars b (0, [])) == recDim r
      | 0xF, some (_, some b) =>
        let v := NMap.getD se.vars b (0, [])
        blockScalars v == fieldAt r 0x20 1 || (v.1 == 2 && fieldAt r 0x20 1 == 6)
      | _, _ => true
    if !fits || !sized then none
    else
      match (if new then (freeBlock se.vars []).map some else some none) with
      | none => none
      | some sw =>
        let named := found.foldl (fun b e => overlay b (0x10 + 2 * e.1) (leBytes 2 (e.2.getD 0))) r
        match sw with
        | some k => some ({ se with vars := NMap.set se.vars k (5, f64Bytes [0x3FF0000000000000]) }, overlay named 0x16 (leBytes 2 k))
        | none => some (se, named)

/-- The blocks a held factor names. -/
def factorBlocks (r : List Byte) : List Nat := (usedVars r).map (recVar r)

/-- Variables left with no factor leave, but for knots and the clock (R228); the SWITCH of an odometry factor stays with it. -/
def dropOrphans (se : SeStruct) : SeStruct :=
  let named := se.factors.flatMap (fun f => factorBlocks f.2) ++ se.odoSwitch.map (·.2)
  let vars := se.vars.filter (fun v => v.2.1 == 2 || v.2.1 == 4 || named.contains v.1)
  { se with vars := vars, lin := se.lin.filter (fun v => NMap.has vars v.1) }

/-- Removes a factor, with its SWITCH. -/
def dropFactor (se : SeStruct) (id : Nat) : SeStruct := dropOrphans { se with factors := NMap.erase se.factors id }

/-! ### Taking a delta (R228, R229) -/

/-- A structure with the records dropped so far, and the variables of the factors added or removed and of the values set. -/
structure Taking where
  se : SeStruct
  bad : Nat := 0
  named : List Nat := []
  deriving DecidableEq, Repr

/-- A REMOVE is checked as any record is, and names an ID that the job holds. -/
def takeRemove (c : SessCtx) (t : Taking) (r : List Byte) : Taking :=
  match NMap.get? t.se.factors (recId r) with
  | some f => if (resolve c t.se r).isSome then { t with se := dropFactor t.se (recId r), named := t.named ++ factorBlocks f } else { t with bad := t.bad + 1 }
  | none => { t with bad := t.bad + 1 }

/-- A block's new value (R226): the pose part of a MOTION block for N = 6; how a longer MOTION value holds its rotation is open. -/
def valueOf (r : List Byte) (v : Nat × List Byte) : List Byte :=
  let n := fieldAt r 0x20 1
  if n == 6 then overlay v.2 0 (bytesAt r 0x28 24 ++ f64Bytes ((f32sAt r 0x40 4).map (fun q => f64Of (f32Val q))))
  else if v.1 == 2 then
    bytesAt r 0x28 24 ++ padTo 32 (Config.numeric 135 (bytesAt r 0x28 (8 * n))) ++ bytesAt r 0x58 (8 * (n - 6))
  else bytesAt r 0x28 (8 * n)

/-- SET_VALUE replaces a block's value and its linearisation point. -/
def takeSet (c : SessCtx) (t : Taking) (r : List Byte) : Taking :=
  match resolve c t.se r with
  | some (se, n) =>
    let b := recVar n 0
    let v := valueOf r (NMap.getD se.vars b (0, []))
    { t with se := { se with vars := NMap.upd se.vars b (fun w => (w.1, v)), lin := NMap.set se.lin b v }, named := t.named ++ [b] }
  | none => { t with bad := t.bad + 1 }

/-- The factors of a session job: its records, and those the engine forms. -/
def jobIn (c : SessCtx) (se : SeStruct) (base : List Byte) : JobIn :=
  { c := c, se := se, base := base
    anchor := anchorAt (((se.knots.head?).map (fun k => v3At64 (NMap.getD se.vars k.block (0, [])).2 0)).getD {}) }
/-- Factors in a session job (R213, R221). -/
def factorCount (c : SessCtx) (se : SeStruct) : Nat := (sessionFacs (jobIn c se [])).length

/-- A record beyond the factors that a job holds (R213) is dropped. -/
def takeAdd (c : SessCtx) (t : Taking) (r : List Byte) : Taking :=
  match resolve c t.se r with
  | some (se, n) =>
    if decide (1048576 ≤ factorCount c t.se) && !NMap.has t.se.factors (recId r) then { t with bad := t.bad + 1 }
    else { t with se := { se with factors := NMap.set se.factors (recId r) n }, named := t.named ++ factorBlocks n }
  | none => { t with bad := t.bad + 1 }

/-- A delta in the order of R228. -/
def takeDelta (c : SessCtx) (se : SeStruct) (d : Delta) : Taking :=
  let remove := d.records.filter recRemove
  let rest := d.records.filter (fun r => !recRemove r)
  let t := remove.foldl (takeRemove c) { se := se }
  let t := (rest.filter (fun r => recKind r == 0xF)).foldl (takeSet c) t
  let t := { t with se := { t.se with vars := d.points.foldl (fun m p => NMap.set m p.1 (3, p.2)) t.se.vars } }
  let t := (rest.filter (fun r => recKind r != 0xF)).foldl (takeAdd c) t
  { t with se := dropOrphans t.se }

/-! ### Knots and the clock (R219, R221 to R224) -/

/-- The session has an inertial slot. -/
def inertialSlot (c : SessCtx) : Bool := c.sensors.any (fun a => a.type == 5)

/-- The structure as open values see it. -/
def seBytes (c : SessCtx) (se : SeStruct) : List Byte :=
  let sample (p : Int × List Byte) : List Byte := leInt 8 p.1 ++ p.2
  let prior (p : DensePrior) : List Byte := leInt 8 p.at_ ++ p.motion ++ p.clock ++ p.info.flatMap f32Bytes ++ f32Bytes p.rhs
  se.vars.flatMap (fun v => leBytes 2 v.1 ++ leBytes 1 v.2.1 ++ v.2.2) ++ se.factors.flatMap (·.2) ++
  se.knots.flatMap (fun k => leInt 8 k.at_ ++ leBytes 2 k.block) ++ (se.prior.toList).flatMap prior ++ (se.past ++ se.samples).flatMap sample ++
  se.arrivals.flatMap (fun a => leBytes 8 a.1 ++ leBytes 8 a.2) ++ leBytes 2 c.cfg.latencyMs ++ c.sensors.flatMap sensorBytes ++ leBytes 8 (c.clock.tRef.getD 0)

/-- A motion state as a MOTION value of a session. -/
def Motion.bytes (inertial : Bool) (m : Motion) : List Byte :=
  m.pose.bytes64 ++ f64Bytes m.v.f64s ++ (if inertial then f64Bytes (m.bg.f64s ++ m.ba.f64s) else [])

/-- A knot's first value: the knot before it, or the last accepted state, carried to its instant (R220); open without either. -/
def freshMotion (c : SessCtx) (se : SeStruct) (t : Int) : List Byte :=
  let start : Option (Int × Motion) := match knotAt se t with
    | some k => some (k.at_, (Val.of (NMap.getD se.vars k.block (2, []))).motion)
    | none => c.solved.map (fun v => (intAt v.header 0x10 8, v.motion c.bias))
  let recs := imuOfSamples (se.past ++ se.samples)
  match start with
  | some (at_, m) =>
    let between := recs.filter (fun r => decide (((min at_ t : Int) : Rat) ≤ r.at_) && decide (r.at_ < ((max at_ t : Int) : Rat)))
    (m.carry (axesOf c) between at_ t).bytes (inertialSlot c)
  | none => padTo (if inertialSlot c then 128 else 80) (Config.numeric 136 (leInt 8 t ++ (se.past ++ se.samples).flatMap (fun p => leInt 8 p.1 ++ p.2)))

/-- Adds a knot at an instant that has none. -/
def addKnot (c : SessCtx) (taken : List Nat) (se : SeStruct) (t : Int) : SeStruct :=
  if se.knots.any (fun k => k.at_ == t) then se
  else match freeBlock se.vars taken with
    | none => se
    | some b =>
      { se with
        vars := NMap.set se.vars b (2, freshMotion c se t)
        knots := se.knots.filter (fun k => decide (k.at_ < t)) ++ [{ at_ := t, block := b }] ++ se.knots.filter (fun k => decide (t < k.at_)) }

/-- The multiples of KNOT_MS between the first sample and the newest that are not behind the window. -/
def knotMultiples (se : SeStruct) : List Int :=
  let step : Int := 1000000 * (se.knotMs.getD 0 : Nat)
  let newest := (se.samples.map (·.1)).foldl max 0
  match se.first with
  | none => []
  | some f =>
    if step = 0 then []
    else
      let lo := max f (((se.knots.head?).map (·.at_)).getD f)
      let k0 := (lo + step - 1) / step
      (List.range (newest / step - k0 + 1).toNat).map (fun i => (k0 + (i : Nat)) * step)

/-- The prior of a clock that has none (R66): the latency bound on o, 50 ppm on d. -/
def freshClock (c : SessCtx) : DensePrior :=
  { clock := f64Bytes [f64Of c.clock.o, f64Of (f32Val c.clock.d)]
    info := [[f32Of (1 / (1000000 * c.cfg.latencyMs : Nat)), 0], [0, f32Of 20000]], rhs := [0, 0] }

/-- A structure built afresh (R215): from the dense marginal that the context holds, with a knot at its instant, else with a clock alone. -/
def freshStructure (c : SessCtx) (taken : List Nat) (se : SeStruct) : SeStruct :=
  let p := c.marginal.getD (freshClock c)
  match freeBlock se.vars taken with
  | none => se
  | some b =>
    let se := { se with vars := NMap.set se.vars b (4, p.clock), prior := some p }
    if p.motion.isEmpty then se
    else match freeBlock se.vars taken with
      | some k => { se with vars := NMap.set se.vars k (2, p.motion), knots := [{ at_ := p.at_, block := k }] }
      | none => se

/-- The odometry factors that the intake made switchable take a SWITCH of their own (R230, R266). -/
def addSwitches (taken : List Nat) (se : SeStruct) : SeStruct :=
  (se.knots.zip se.knots.tail).foldl (fun se p =>
    if NMap.has se.odoSwitch p.1.block || !se.samples.any (fun q => fieldAt q.2 0 1 == 7 && decide (p.1.at_ ≤ q.1) && decide (q.1 < p.2.at_)) then se
    else match freeBlock se.vars taken with
      | some b => { se with vars := NMap.set se.vars b (5, f64Bytes [0x3FF0000000000000]), odoSwitch := NMap.set se.odoSwitch p.1.block b }
      | none => se) se

/-- The structure before its delta: clock and prior, knots, switches (R215, R219, R223). -/
def grow (c : SessCtx) (knotMs : Nat) (taken : List Nat) (se : SeStruct) : SeStruct :=
  let se := { se with
    knotMs := some (se.knotMs.getD knotMs)
    first := match se.first with
      | some f => some f
      | none => (se.samples.map (·.1)).head?.map (fun h => (se.samples.map (·.1)).foldl min h) }
  let se := if (clockBlock se).isSome then se else freshStructure c taken se
  let frames := (se.samples.filter (fun p => fieldAt p.2 0 1 == 1)).map (·.1)
  addSwitches taken ((frames ++ knotMultiples se).foldl (addKnot c taken) se)

/-- Variables whose engine-formed factors a job adds or changes: new knots with their neighbours, knots whose intervals gain records, the clock, new switches. -/
def grownBlocks (old se : SeStruct) : List Nat :=
  let new (b : Nat) : Bool := !NMap.has old.vars b
  let pairs := se.knots.zip se.knots.tail
  let changed (p : Knot × Knot) : Bool :=
    new p.1.block || new p.2.block || se.samples.any (fun q => [4, 5, 7].contains (fieldAt q.2 0 1) && decide (p.1.at_ ≤ q.1) && decide (q.1 < p.2.at_))
  (pairs.filter changed).flatMap (fun p => [p.1.block, p.2.block]) ++ (clockBlock se).toList ++ (se.vars.map (·.1)).filter new

/-! ### The worst-case time (R243) -/

/-- A number of SE cycles exceeds a time in ns. -/
def exceeds (cycles : Nat) (ns : Int) : Bool := decide (6 * ns < 5 * cycles)
/-- WF_US: µs. -/
def wfUs (cycles : Nat) : Nat := min 0xFFFFFFFF (roundAway ((cycles : Rat) / 1200)).toNat

/-! ### The iteration (R236, R237, R239 to R241, R245) -/

/-- What a loop runs under. -/
structure LoopPar where
  deadline : Int
  lmInit : F32
  relTol : F32
  /-- The residual test is on. -/
  residual : Bool
  deriving DecidableEq, Repr

/-- What a loop solves: its factors and their anchor, the variables of the delta, which stay affected throughout (R232), the bytes of its clique store,
RELIN_THR, GAUGE_SIGMA. -/
structure SolveJob where
  fs : List Fac
  anchor : V3
  delta : List Nat
  store : Nat
  thr : Rat
  sigma : Rat

/-- The state of a loop. -/
structure LoopRun where
  vars : NMap (Nat × List Byte)
  lin : NMap (List Byte) := []
  cliques : List Clique := []
  /-- Variables that the next iteration finds affected beside the delta's (R232, R241). -/
  marks : List Nat := []
  /-- A factorisation has been completed. -/
  factored : Bool := false
  c : F64
  lam : Rat
  lm : Bool
  iters : Nat := 0
  accepted : Nat := 0
  rejected : Nat := 0
  faults : Nat := 0
  nan : Bool := false
  overflow : Bool := false
  damped : Nat := 0
  gauge : Nat := 0
  spills : Nat := 0
  rebuilt : Nat := 0
  late : Bool := false
  converged : Bool := false
  deriving DecidableEq, Repr

def LoopRun.elim (j : SolveJob) (r : LoopRun) : Elim :=
  { anchor := j.anchor, vars := r.vars, points := r.lin, fs := j.fs, lam := if r.lm then r.lam else 0, sigma := j.sigma }
/-- The cost of an iterate. -/
def LoopRun.costOf (j : SolveJob) (r : LoopRun) (vars : NMap (Nat × List Byte)) : F64 := jobCost j.fs (r.elim j).lin (valsOf j.anchor vars)
/-- The variables whose cliques an iteration finds affected (R232): the delta's, the marked, and those that have moved beyond RELIN_THR. -/
def LoopRun.moved (j : SolveJob) (r : LoopRun) : List Nat :=
  let e := r.elim j
  j.delta ++ r.marks ++ ((e.now.filter (fun v => (v.2.minus (valAt e.lin v.1)).any (fun q => decide (j.thr < absQ q)))).map (·.1))
/-- They take new linearisation points. -/
def LoopRun.relinearised (v : List Nat) (r : LoopRun) : LoopRun :=
  { r with lin := r.vars.map (fun x => (x.1, if v.contains x.1 then x.2.2 else NMap.getD r.lin x.1 x.2.2)) }

/-- A cost that is finite and at most another. -/
def costLe (a b : F64) : Bool := f64IsFinite a && decide (f64Val a ≤ f64Val b)

/-- The damping after an accepted or rejected step of Levenberg-Marquardt. -/
def lamAfter (lam rho : Rat) : Rat := if 0 < rho then lam * max (1 / 3) (1 - (2 * rho - 1) ^ 3) else lam * 4
def clampLam (lam : Rat) : Rat := f64Val (f64Of (max (1 / 10 ^ 12) (min (10 ^ 12) lam)))

/-- The variables after a step, or half of it. -/
def steppedBy (d : NMap (List Rat)) (half : Bool) (vars : NMap (Nat × List Byte)) : NMap (Nat × List Byte) :=
  vars.map (fun v => (v.1, match NMap.get? d v.1 with
    | some l => stepVar (if half then l.map (· / 2) else l) v.2
    | none => v.2))

/-- An accepted step. -/
def LoopRun.accept (p : LoopPar) (vars : NMap (Nat × List Byte)) (cNew : F64) (r : LoopRun) : LoopRun :=
  { r with
    vars := vars, c := cNew, accepted := r.accepted + 1
    converged := p.residual && decide (f64Val r.c - f64Val cNew ≤ f32Val p.relTol * f64Val r.c) }
def LoopRun.reject (r : LoopRun) : LoopRun := { r with rejected := r.rejected + 1 }

/-- The gain ratio of a step whose predicted decrease is not zero; R236 gives none for zero. -/
def gain (c cNew : F64) (decrease : Rat) : Rat :=
  if decrease = 0 then f64Val (Config.numeric64 137 (f64Bytes [c, cNew])) else (f64Val c - f64Val cNew) / decrease

/-- The step of an iteration without a numeric fault. -/
def LoopRun.judge (p : LoopPar) (j : SolveJob) (d : NMap (List Rat)) (r : LoopRun) : LoopRun :=
  let full := steppedBy d false r.vars
  let cNew := r.costOf j full
  if !r.lm then
    if costLe cNew r.c then r.accept p full cNew
    else
      let half := steppedBy d true r.vars
      let cHalf := r.costOf j half
      if costLe cHalf r.c then r.accept p half cHalf else { r.reject with lm := true }
  else
    let e := r.elim j
    let rho := gain r.c cNew (f64R (predicted e e.now r.cliques d))
    let ok := f64IsFinite cNew && decide (0 < rho)
    let r' := { r with lam := clampLam (lamAfter r.lam (if ok then rho else 0)) }
    if ok then r'.accept p full cNew else r'.reject

/-- The factorisation of an iteration (R232, R233): its affected cliques, and what it counts. -/
def LoopRun.factorised (j : SolveJob) (t : IterTiming) (r : LoopRun) : LoopRun × Pass :=
  let v := r.moved j
  let r := r.relinearised v
  let e := r.elim j
  let s := factoriseAll e v r.cliques
  let out := (spilled (dimOf e.now) j.store s.done).filter (fun c => c.pivots.any s.hot.contains)
  ({ r with
    cliques := s.done, marks := s.touched, factored := true
    damped := r.damped + s.damped, gauge := r.gauge + s.gauge, rebuilt := r.rebuilt + s.rebuilt, spills := r.spills + 2 * out.length
    nan := r.nan || s.nan || t.nan, overflow := r.overflow || s.loose || s.sat || t.overflow }, s)

/-- One iteration that the deadline lets begin: its phases end at the given instants. A NaN or a saturation that the timing tells of comes from outside the
cliques, with a returned tile. -/
def LoopRun.iteration (p : LoopPar) (j : SolveJob) (t : IterTiming) (r : LoopRun) : LoopRun :=
  let r := { r with iters := r.iters + 1 }
  if p.deadline < t.linEnd then { r with late := true }
  else
    let f := r.factorised j t
    let r := f.1
    let out := t.nan || t.overflow
    let bad := out || f.2.nan || f.2.sat
    let r := { r with marks := if out then f.2.hot else r.marks }
    if p.deadline < t.factEnd then { r with late := true, faults := r.faults + b2n bad }
    else
      let e := r.elim j
      let d := backAll e e.now f.2.hot (j.thr / 16) r.cliques
      let r := { r with overflow := r.overflow || d.sat, marks := r.marks ++ d.touched, faults := r.faults + b2n (bad || d.sat) }
      let r := if bad || d.sat then { r.reject with lam := max r.lam (f32Val p.lmInit) * 10, lm := true } else r.judge p j d.d
      if p.deadline < t.evalEnd then { r with late := true } else r

/-- The loop of R236. `now` is when the next iteration would start; phases the timing does not tell take no time. -/
def LoopRun.loop (p : LoopPar) (j : SolveJob) : Nat → List IterTiming → Nat → LoopRun → LoopRun
  | 0, _, _, r => r
  | n + 1, ts, now, r =>
    if p.deadline < now then { r with late := true }
    else
      let t := ts.headD { linEnd := now, factEnd := now, evalEnd := now, nan := false, overflow := false }
      let lin := max now t.linEnd
      let fact := max lin t.factEnd
      let r := r.iteration p j { t with linEnd := lin, factEnd := fact, evalEnd := max fact t.evalEnd }
      if r.late || r.converged then r else LoopRun.loop p j n ts.tail (max fact t.evalEnd) r

/-- The run is saturated: a value was, or every iteration met a fault (R241). -/
def LoopRun.saturated (r : LoopRun) : Bool := r.overflow || (r.iters != 0 && r.faults == r.iters)
/-- PIVOT_DAMPED, UNOBSERVABLE and SATURATED. -/
def LoopRun.flags (r : LoopRun) : Nat := packBits [(b2n (r.damped != 0), 0), (b2n (r.gauge != 0), 1), (b2n r.saturated, 2)]

/-- The loop's parameters of a step. -/
def loopParOf (p : List Byte) (deadline : Int) (residual : Bool) : LoopPar :=
  { deadline := deadline, lmInit := f32At p 0x10, relTol := f32At p 8, residual := residual }
/-- A loop's beginning. -/
def firstRun (p : List Byte) (j : SolveJob) (vars : NMap (Nat × List Byte)) (lin : NMap (List Byte)) (cliques : List Clique) (marks : List Nat) : LoopRun :=
  let r : LoopRun := { vars := vars, lin := lin, cliques := cliques, marks := marks, c := 0, lam := f32Val (f32At p 0x10), lm := fieldAt p 0 1 == 1 }
  { r with c := r.costOf j vars }
/-- A step's job of some factors. -/
def solveJobOf (t : GStep) (fs : List Fac) (anchor : V3) (delta : List Nat) : SolveJob :=
  { fs := fs, anchor := anchor, delta := delta, store := 4096 * ((t.outs[fieldAt t.param 0x1C 1]?).map (·.count)).getD 0
    thr := f32Val (f32At t.param 0xC), sigma := f32Val (f32At t.param 0x14) }

/-- Counters and error bits of a loop. -/
def State.countLoop (s : State) (ch sid : Nat) (r : LoopRun) : State :=
  let s := (((s.bump (chanCtr ch 13) r.rejected).bump (chanCtr ch 15) r.damped).bump (chanCtr ch 16) r.gauge).bump (chanCtr ch 12) r.spills
  let s := s.bump (chanCtr ch 19) r.rebuilt
  let s := if r.nan then s.err1 (8 + ch) 3 255 sid else s
  if r.overflow then s.err1 (8 + ch) 4 255 sid else s

/-- Iterations at most, and whether the residual test is on (R237). -/
def iterCap (p : List Byte) (mapRole : Bool) (jobCap : Nat) : Nat × Bool :=
  let cap := if jobCap == 0 then fieldAt p 4 2 else jobCap
  if mapRole then (cap, fieldAt p 1 1 == 1)
  else if fieldAt p 1 1 == 1 then (min (fieldAt p 4 2) 8, false) else (fieldAt p 2 1, false)

/-! ### The header (R250) -/

/-- The first output range other than the clique store. -/
def headRange (t : GStep) : Range :=
  let cs := fieldAt t.param 0x1C 1
  match (t.outs.zipIdx).find? (fun e => e.2 != cs && e.1.count != 0) with
  | some e => e.1
  | none => { first := 0, count := 0 }

/-- The part of a header that describes the job. -/
def headFront (status flags iters factors : Nat) (cost : F64) : List Byte :=
  leBytes 1 status ++ leBytes 1 flags ++ leBytes 2 (min 65535 iters) ++ leBytes 4 factors ++ f64Bytes [cost]
def headBack (cycles spills : Nat) : List Byte := leBytes 4 (wfUs cycles) ++ leBytes 4 (min 0xFFFFFFFF spills)

/-- The root clique's information of the newest knot and the clock, both last, with the scalars of the knot's block and of all before them (R231, R233). -/
structure RootView where
  keys : List Key
  info : Mat
  knot : Nat
  deriving DecidableEq, Repr
def rootView (e : Elim) (cliques : List Clique) (knot clk : Nat) : Option RootView :=
  (cliques.find? (fun c => c.pivots.contains knot && c.pivots.contains clk && c.border.isEmpty)).map (fun c =>
    let keys := keysOf e.now (c.pivots.filter (fun b => b != knot && b != clk) ++ [knot, clk])
    { keys := keys, info := rootInfo e c keys, knot := dimOf e.now [knot] })
/-- The covariance of the newest knot's scalars; none where the information is singular. -/
def RootView.cov (v : RootView) : Option Mat :=
  let n := v.keys.length - 2 - v.knot
  v.info.inv.map (fun m => (Mat.block n v.knot m).trim)
/-- The dense marginal on the newest knot and the clock that a checkpoint takes along (R47). -/
def RootView.marginal (sigma : Rat) (at_ : Int) (motion clock : List Byte) (v : RootView) : DensePrior :=
  let r := rootRows sigma v.keys.length (v.knot + 2) v.info (List.replicate v.keys.length 0)
  { at_ := at_, motion := motion, clock := clock, info := r.1, rhs := r.2 }

/-- The state of the newest knot, bytes 0x10 to 0xAB, its covariance turned to the map frame; open where the root has none. -/
def headState (c : SessCtx) (se : SeStruct) (cov : Option Mat) : List Byte :=
  match se.knots.getLast? with
  | none => List.replicate 156 0
  | some k =>
    let v := (NMap.getD se.vars k.block (0, [])).2
    let ck := ((clockBlock se).map (fun b => (NMap.getD se.vars b (0, [])).2)).getD []
    let q := (f64sAt v 24 4).map (fun x => f32Of (f64Val x))
    let u := (f64sAt v 56 3).map (fun x => f32Of (f64Val x))
    leInt 8 k.at_ ++ bytesAt v 0 24 ++ f32Bytes q ++ f32Bytes u ++ f32Bytes [f32Of (f64Val (f64At ck 8))] ++
      leInt 8 (toSigned 64 (f64Val (f64At ck 0))).1 ++ (match cov with
        | some m => poseCov (toMap (quatAt64 v 24) m)
        | none => padTo 84 (Config.numeric 138 (seBytes c se)))

/-! ### Marginalisation (R222) -/

/-- The oldest knots that leave the window, the newest always kept. -/
def leaving (se : SeStruct) (now : Int) (horizonMs : Nat) : List Knot :=
  let ms := se.knotMs.getD 0
  let spacing : Int := if ms == 0 then (match se.knots with
    | a :: b :: _ => b.at_ - a.at_
    | _ => 0) else 1000000 * (ms : Nat)
  (se.knots.filter (fun k => decide (k.at_ < now - 1000000 * (horizonMs : Nat) - spacing))).take (se.knots.length - 1)

/-- The variables that leave with some knots: those and the ones that no factor joins to another knot. -/
def leavingBlocks (fs : List Fac) (se : SeStruct) (knots : List Nat) : List Nat :=
  let motion (b : Nat) : Bool := (NMap.getD se.vars b (0, [])).1 == 2
  knots ++ ((se.vars.filter (fun v => v.2.1 != 2 && v.2.1 != 4)).map (·.1)).filter (fun b =>
    let l := fs.filter (fun f => f.all.contains b)
    !l.isEmpty && l.all (fun f => f.all.any knots.contains && (f.all.filter motion).all knots.contains))

/-- The oldest knots leave (R222): the factors among them, what leaves with them, the oldest remaining knot and the clock become the dense prior on those two;
factors of theirs that name anything else are dropped; every variable of a factor that is gone is marked affected. -/
def marginalise (e : JobIn) (sigma : Rat) (now : Int) : SeStruct :=
  let se := e.se
  let gone := leaving se now e.c.cfg.horizonMs
  match gone.isEmpty, (se.knots.drop gone.length).head?, clockBlock se with
  | false, some old, some clk =>
    let fs := sessionFacs e
    let out := leavingBlocks fs se (gone.map (·.block))
    let touched := fs.filter (fun f => f.all.any out.contains)
    let inner := touched.filter (fun f => f.all.all (fun b => out.contains b || b == old.block || b == clk))
    let at_ := valsOf e.anchor (se.vars.map (fun v => (v.1, v.2.1, NMap.getD se.lin v.1 v.2.2)))
    let keys := keysOf at_ (out ++ [old.block, clk])
    let h := normalSystem at_ inner keys
    let r := rootRows sigma keys.length (dimOf at_ [old.block, clk]) h.1 h.2
    let point (b : Nat) : List Byte := NMap.getD se.lin b (NMap.getD se.vars b (0, [])).2
    dropOrphans { se with
      prior := some { at_ := old.at_, motion := point old.block, clock := point clk, info := r.1, rhs := r.2 }
      knots := se.knots.drop gone.length, factors := se.factors.filter (fun f => (factorBlocks f.2).all (fun b => !out.contains b))
      vars := se.vars.filter (fun v => !out.contains v.1)
      odoSwitch := se.odoSwitch.filter (fun p => !out.contains p.1 && !out.contains p.2)
      marks := (se.marks ++ touched.flatMap Fac.all ++ [old.block, clk]).filter (fun b => !out.contains b)
      past := se.past.filter (fun p => decide (old.at_ ≤ p.1))
      arrivals := se.arrivals.filter (fun a => decide (old.at_ ≤ toDt e.c.clock a.2)) }
  | _, _, _ => se

/-! ### A session job (R212, R244, R248) -/

/-- Changes the context an instance works on (R169). -/
def State.onWork (s : State) (ch i sid : Nat) (f : SessCtx → SessCtx) : State :=
  match (instAt s ch i).bind (·.work) with
  | some _ => s.modInst ch i (fun x => { x with work := x.work.map f })
  | none => s.modSess sid (fun y => { y with ctx := f y.ctx })

/-- The context takes what the intake found, the queue loses what it took, arrays their votes (R263 to R269). -/
def State.takeWindow (s : State) (ch i sid : Nat) (w : Window) : State :=
  let s := s.onWork ch i sid (fun c => { c with
    window := w.window, pairs := w.pairs, history := w.history, quarCamera := w.quarCamera, quarOdometry := w.quarOdometry, mapFix := w.mapFix })
  let s := s.modSess sid (fun y => { y with
    radioQ := w.queue
    ctx := { y.ctx with ties := y.ctx.ties.map (fun t => match NMap.get? w.ties t.1 with
      | some v => (t.1, { t.2 with landmark := v.landmark, point := v.point })
      | none => t) }
    latePending := y.latePending ++ (w.radio.filter (·.late)).map (fun e => (e.ts : Int)), se := { y.se with nextFactor := w.nextFactor } })
  let s := ((s.bump (chanCtr ch 24) w.masked).bump (chanCtr ch 23) w.new).bump (chanCtr ch 22) w.dropped
  let s := ((s.bump (chanCtr ch 25) w.rejects).bump (chanCtr ch 26) w.quarDrops).fuFaults ch i sid w.bad w.sat
  w.vote.foldl (fun s a => s.voteAgainst sid a) s

/-- Sets the structure a job leaves. -/
def State.putSe (s : State) (sid : Nat) (se : SeStruct) : State :=
  s.modSess sid (fun y => { y with se := se, ctx := { y.ctx with ties := cleanTies se y.ctx.ties } })

/-- A refused job (R244): the delta is held, or with the one held before it discarded. -/
def State.refuse (s : State) (ch i sid : Nat) (t : GStep) (y : Session) (w : Window) (cycles factors : Nat) : State :=
  let s := s.bump (chanCtr ch 17) 1
  let held := y.se.heldDelta.isSome
  let se := { y.se with
    nextFactor := w.nextFactor, heldDelta := if held then none else some w.delta, samples := if held then [] else w.samples }
  let s := if held then (s.bump (chanCtr ch 18) 2).modSess sid (fun y => { y with latePending := [] }) else s
  let last := ((workCtxOf s ch i sid).solved.map (·.header)).getD []
  let head := headFront 0x20 8 0 factors (f64At last 8) ++ bytesAt last 0x10 156 ++ headBack cycles 0
  (s.putSe sid se).modInst ch i (fun x =>
    { (x.put (headRange t) 0 (padTo 256 head)).put (headRange t) 256 (fusionBlock w (quarantineWord s sid (workCtxOf s ch i sid))) with
      hflags := 8, status := if x.status.isSome then x.status else some 0x20 })
where
  /-- The context an instance works on, by its number. -/
  workCtxOf (s : State) (ch i sid : Nat) : SessCtx := match (instAt s ch i).bind (·.work) with
    | some c => c
    | none => ((sessAt s sid).getD {}).ctx

/-- Whether a solve passes R74's tests on a channel; it moves the heading by the rotation about up. -/
def exitPasses (s : State) (ch : Nat) (cfg : SessCfg) (before after cov : List Byte) : Bool :=
  let mm (n : Nat) : Rat := (n : Rat) / 10000
  (chanAt s ch).testMode == 0 && decide (dist2 (f64sAt before 0 3) (f64sAt after 0 3) < mm cfg.exitPos * mm cfg.exitPos) &&
  decide (absQ ((poseAt64 after 0).r.mul (poseAt64 before 0).r.conj).yaw < (cfg.exitHead : Rat) / 100 * piQ / 180) &&
  [0, 6, 11].all (fun k => decide (f32Val (f32At cov (4 * k)) < mm cfg.exitSigma * mm cfg.exitSigma))

/-- The third consecutive pass makes the session NORMAL (R74). -/
def Session.countExit (y : Session) (pass : Bool) : Session :=
  let n := if pass then y.exitCount + 1 else 0
  let y := { y with exitCount := n }
  if n < 3 || y.isNormal then y
  else match y.state with
    | .provisional => { y with state := .normal, oweMode := true }
    | _ => { y with before := .normal, oweMode := true }

/-- Keyframes whose landmarks a window's map matches name, by their anchors (R325). -/
def observedKfs (d : MapData) (recs : List (List Byte)) : List Nat :=
  let pts := (recs.filter mapFactor).map (fun r => bytesAt r 0x48 24)
  ((liveLms d).filter (fun p => pts.contains (f64Bytes p.2.pos))).map (fun p => p.2.anchor)

/-- Biases of the newest knot with the covariance the solver keeps. -/
def biasOf (c : SessCtx) (se : SeStruct) (cov : Option Mat) : List F32 :=
  match se.knots.getLast? with
  | some k =>
    if inertialSlot c then
      (f64sAt (NMap.getD se.vars k.block (0, [])).2 80 6).map (fun x => f32Of (f64Val x)) ++ (match cov with
        | some m => (Mat.block 9 6 m).upper.map f32Of
        | none => f32sAt (padTo 84 (Config.numeric 142 (seBytes c se))) 0 21)
    else []
  | none => []

/-- The context after an accepted job: the samples that are still in the window give the earliest sample time of AGE (R73). -/
def SessCtx.solvedBy (c : SessCtx) (se : SeStruct) (head fusion : List Byte) (version : Nat) (bias : List F32) (marginal : Option DensePrior) : SessCtx :=
  let earliest := match se.past.map (·.1) with
    | [] => intAt head 0x10 8
    | a :: l => l.foldl min a
  { c with
    solved := some { header := head, fusion := fusion, mapVersion := version % 2 ^ 32, earliest := earliest }
    clock := { c.clock with o := intAt head 0x50 8, d := f32At head 0x4C }
    bias := bias, marginal := marginal }

/-- The blocks that are eliminated last (R231). -/
def lastBlocks (se : SeStruct) : List Nat := (se.knots.drop (se.knots.length - 2)).map (·.block) ++ (clockBlock se).toList

/-- Structure load (R231, R243): the cliques of a job after its delta: the stored ones that nothing reaches, and the rest ordered anew; all of it where the fill has
doubled since the last full reorder. -/
def loadStructure (j : SolveJob) (se : SeStruct) : SeStruct :=
  let x := valsOf j.anchor se.vars
  let dim := dimOf x
  let r : LoopRun := { vars := se.vars, lin := se.lin, marks := se.marks, c := 0, lam := 0, lm := false }
  let v := r.moved j
  let full := se.cliques.isEmpty || decide (2 * se.fill ≤ fillOf dim se.cliques)
  let base (c : Clique) : Bool := c.opened v || c.pivots.any (fun b => !NMap.has se.vars b)
  let kept := if full then [] else ((reached base se.cliques).filter (fun e => !e.2)).map (·.1)
  let cliques := orderCliques dim (j.fs.map Fac.all) (se.vars.map (·.1)) (lastBlocks se) kept
  { se with cliques := cliques, fill := if full then fillOf dim cliques else se.fill, lin := (r.relinearised []).lin, marks := v.eraseDups }

/-- What a run leaves of a session's structure: the last accepted iterate, the cliques as stored, what stays marked (R241, R245). -/
def SeStruct.afterRun (j : SolveJob) (r : LoopRun) (se : SeStruct) : SeStruct :=
  { se with vars := r.vars, lin := r.lin, cliques := r.cliques, marks := if r.factored then r.marks else (r.marks ++ j.delta).eraseDups }

/-- A job that its deadline admits (R236, R248). -/
def State.solve (s : State) (ch i sid : Nat) (x : Inst) (t : GStep) (y : Session) (e : JobIn) (w : Window) (bad : Nat) (j : SolveJob) (cycles loadAt : Nat)
    (deadline : Int) (timing : List IterTiming) : State :=
  let c := e.c
  let cap := iterCap t.param (chanAt s ch).mapRole 0
  let r := LoopRun.loop (loopParOf t.param deadline cap.2) j cap.1 timing loadAt (firstRun t.param j e.se.vars e.se.lin e.se.cliques e.se.marks)
  let s := (s.countLoop ch sid r).bump (chanCtr ch 21) bad
  let newest := ((e.se.knots.getLast?).map (·.block)).getD 0
  let clk := (clockBlock e.se).getD 0
  let before := (NMap.getD e.se.vars newest (0, [])).2
  let se := { e.se.afterRun j r with
    heldDelta := none, nextFactor := w.nextFactor, samples := []
    past := e.se.past ++ e.se.samples ++ w.radio.map (fun e => ((e.ts : Int), leBytes 1 6)) }
  let root := rootView (r.elim j) r.cliques newest clk
  let cov := root.bind RootView.cov
  let value (b : Nat) : List Byte := (NMap.getD r.vars b (0, [])).2
  let marginal := root.map (RootView.marginal j.sigma (((e.se.knots.getLast?).map (·.at_)).getD 0) (value newest) (value clk))
  let took := r.accepted != 0
  let last := ((c.solved.map (·.header)).getD [])
  let flags := r.flags + (if took then 0 else 16)
  let body := if took then headState c se cov else bytesAt last 0x10 156
  let head := padTo 256 (headFront (if r.late then 0x20 else 0x00) flags r.iters j.fs.length (if took then r.c else f64At last 8) ++ body ++
    headBack cycles r.spills)
  let fusion := fusionBlock w (quarantineWord s sid { c with quarCamera := w.quarCamera, quarOdometry := w.quarOdometry })
  let bias := biasOf c se cov
  let se := marginalise { e with se := se } j.sigma (dtOf s)
  let s := s.modInst ch i (fun x =>
    { (x.put (headRange t) 0 head).put (headRange t) 256 fusion with
      hflags := flags, saturated := x.saturated || r.saturated, accepted := took
      status := if r.late && x.status.isNone then some 0x20 else x.status })
  let s := s.putSe sid se
  if !took then s
  else
    let s := s.onWork ch i sid (fun c => c.solvedBy se head fusion x.mapVersion bias marginal)
    let pass := exitPasses s ch y.ctx.cfg before (value newest) (bytesAt head 0x58 84)
    s.modSess sid (fun y =>
      { y.countExit pass with
        oweLate := y.oweLate || !y.latePending.isEmpty, latePending := []
        observed := (y.observed ++ observedKfs (mapAt s x.mapVersion) w.delta.records).eraseDups })

/-- The SE step of a session's instance. -/
def State.runSession (s : State) (ch i : Nat) (x : Inst) (g : Slot) (t : GStep) (loadAt : Nat) (timing : List IterTiming) (sid : Nat) (y : Session) : State :=
  let c := workCtx s x
  let dispatched := ((chanAt s ch).engines.getD 3 {}).lastMove
  let w := intake s x g t y c sid dispatched
  let s := s.takeWindow ch i sid w
  let knotMs := fieldAt t.param 6 2
  let s := if y.se.knotMs.getD knotMs != knotMs then s.bump (chanCtr ch 20) 1 else s
  let s := if fieldAt t.param 1 1 == 1 && !(chanAt s ch).mapRole then s.bump (chanCtr ch 14) 1 else s
  let held := y.se.heldDelta.getD {}
  let delta : Delta := { points := held.points ++ w.delta.points, records := held.records ++ w.delta.records }
  let grown := grow c knotMs (delta.points.map (·.1)) { y.se with samples := w.samples }
  let tk := takeDelta c grown delta
  let e0 := jobIn c tk.se (seBytes c tk.se)
  let j := solveJobOf t (sessionFacs e0) e0.anchor (tk.named ++ grownBlocks y.se grown)
  let e := { e0 with se := loadStructure j tk.se }
  let cycles := fullCycles s ch (dimOf (valsOf e.anchor e.se.vars)) j.store e.se.cliques j.fs
  let deadline : Int := (x.deadline : Int) - 1000 * (fieldAt t.param 0x18 4 : Nat)
  if exceeds cycles (deadline - loadAt) then s.refuse ch i sid t { y with se := { y.se with knotMs := grown.knotMs } } w cycles j.fs.length
  else s.solve ch i sid x t y e w tk.bad j cycles loadAt deadline timing

/-! ### A map job (R212, R238, R243, R244, R308, R323, R326) -/

/-- Variables of a job: poses by keyframe, points by landmark from 2^32 on, the loop's SWITCH. -/
def jobVars (d : MapData) (x : MapJob) : NMap (Nat × List Byte) :=
  (d.kfs.filter (fun p => x.kfs.contains p.1)).map (fun p => (p.1, 1, f64Bytes p.2.pos ++ f64Bytes (p.2.quat.map (fun q => f64Of (f32Val q))))) ++
  (d.lms.filter (fun p => x.pts.contains p.1)).map (fun p => (pointBlock p.1, 3, f64Bytes p.2.pos)) ++
  (if x.loop.isSome then [(switchBlock, 5, f64Bytes [0x3FF0000000000000])] else [])

/-- A solved pose as the map holds it. -/
def poseBytes (v : List Byte) : List Byte := bytesAt v 0 24 ++ f32Bytes ((f64sAt v 24 4).map (fun x => f32Of (f64Val x)))

/-- What a run gives its job. -/
def MapJob.solvedBy (x : MapJob) (cap : Nat) (r : LoopRun) : MapJob :=
  let of (lo hi : Nat) (f : List Byte → List Byte) : NMap (List Byte) :=
    (r.vars.filter (fun v => decide (lo ≤ v.1) && decide (v.1 < hi))).map (fun v => (v.1 - lo, f v.2.2))
  let capped := !r.late && !r.converged && r.iters == cap
  let x := { x with
    word := x.word ||| r.flags ||| packBits [(b2n r.late, 4), (b2n capped, 5)]
    iters := r.iters, norm := f64Of (rootQ (2 * f64Val r.c)), status := if r.late then 0x20 else 0x00 }
  if r.accepted == 0 then x
  else { x with
    poses := of 0 (2 ^ 32) poseBytes, points := of (2 ^ 32) (2 ^ 33) id
    switch := ((NMap.get? r.vars (2 ^ 33)).map (fun v => f64At v.2 0)).getD 0x3FF0000000000000 }

def State.runMapJob (s : State) (ch i j : Nat) (x : Inst) (t : GStep) (loadAt : Nat) (timing : List IterTiming) : State :=
  match jobOf s j with
  | none => s
  | some y =>
    let d := mapAt s x.mapVersion
    let vars := jobVars d y
    let anchor := anchorAt (((vars.find? (fun v => v.2.1 == 1)).map (fun v => v3At64 v.2.2 0)).getD {})
    let fs := (jobTerms d (fieldAt ((mapParams s).getD defaultMapParams) 0x17 1) y).map (JobTerm.fac anchor)
    let j' := solveJobOf t fs anchor (vars.map (·.1))
    let se := loadStructure j' { vars := vars }
    let cycles := fullCycles s ch (dimOf (valsOf anchor vars)) j'.store se.cliques fs
    let r0 := firstRun t.param j' vars se.lin se.cliques []
    let s := if fieldAt t.param 1 1 == 1 && !(chanAt s ch).mapRole then s.bump (chanCtr ch 14) 1 else s
    if exceeds cycles ((y.deadline : Int) - loadAt) then
      let s := (s.bump (chanCtr ch 17) 1).modJob j (fun y =>
        { y with word := y.word ||| 24, iters := 0, norm := f64Of (rootQ (2 * f64Val r0.c)), status := 0x20 })
      s.modInst ch i (fun x =>
        { x.put (headRange t) 0 (padTo 256 (headFront 0x20 8 0 fs.length r0.c ++ List.replicate 156 0 ++ headBack cycles 0)) with hflags := 8 })
    else
      let cap := iterCap t.param (chanAt s ch).mapRole y.cap
      let r := LoopRun.loop (loopParOf t.param y.deadline cap.2) j' cap.1 timing loadAt r0
      let s := (s.countLoop ch 0xFFFF r).modJob j (fun y => y.solvedBy cap.1 r)
      s.modInst ch i (fun x =>
        { x.put (headRange t) 0 (padTo 256 (headFront (if r.late then 0x20 else 0) r.flags r.iters fs.length r.c ++ List.replicate 156 0 ++
            headBack cycles r.spills)) with
          hflags := r.flags, saturated := x.saturated || r.saturated })

/-! ### The step -/

def State.runSolver (s : State) (ch i : Nat) (x : Inst) (g : Slot) (t : GStep) (loadAt : Nat) (timing : List IterTiming) : State :=
  match x.origin, x.sid.bind (fun n => (sessAt s n).map (fun y => (n, y))) with
  | .mapJob j, _ => s.runMapJob ch i j x t loadAt timing
  | _, some (sid, y) => s.runSession ch i x g t loadAt timing sid y
  | _, none => s.modInst ch i (fun x => x.put (headRange t) 0 (List.replicate 256 0))

/-- The SE step an engine runs; a clique that has been late for more than 2 ms ends it (R247). -/
def execSolverStep (ch : Nat) (loadAt : Nat) (timing : List IterTiming) (shelf : ShelfFinding) (s : State) : Host.Outcome State Fault Refusal :=
  .next (match atWork s ch 3 6 with
    | none => s
    | some (i, x, g, _, t) =>
      let late := match ((chanAt s ch).engines.getD 3 {}).stall with
        | some u => decide (u + 2000000 < dtOf s)
        | none => false
      if late then
        let s := match x.sid with
          | some sid => s.modSess sid (fun y => { y with se := y.se.invalidate })
          | none => s
        (s.breakStep ch 3 0x20).refresh ch
      else
        let r := s.shelfRead ch i shelf
        if r.1 then ((r.2.modEngine ch 3 (fun e => { e with stall := none })).runSolver ch i x g t loadAt timing).worked ch 3 else r.2)

end Sys2Proof.Machine
end

