-- ==== Sys2Proof/Machine/Dispatch.lean ====
section
/-! DEFINITION. The dispatch: one arm per command of Instr, each one direct call of its meaning. -/
namespace Sys2Proof.Machine

def exec (i : Instr) (s : State) : Host.Outcome State Fault Refusal :=
  match i with
  | .hatchWrite off width value => Sys2Proof.Machine.execHatchWrite off width value s
  | .ownSet hatch value => Sys2Proof.Machine.execOwnSet hatch value s
  | .vectorWrite hatch value => Sys2Proof.Machine.execVectorWrite hatch value s
  | .patienceExpiry hatch => Sys2Proof.Machine.execPatienceExpiry hatch s
  | .capQuery hatch => Sys2Proof.Machine.execCapQuery hatch s
  | .devState hatch => Sys2Proof.Machine.execDevState hatch s
  | .powerCap hatch => Sys2Proof.Machine.execPowerCap hatch s
  | .eventRingSet hatch => Sys2Proof.Machine.execEventRingSet hatch s
  | .channelRole hatch => Sys2Proof.Machine.execChannelRole hatch s
  | .coreReset hatch => Sys2Proof.Machine.execCoreReset hatch s
  | .coreResetTimer => Sys2Proof.Machine.execCoreResetTimer s
  | .echo hatch => Sys2Proof.Machine.execEcho hatch s
  | .bootLoad hatch data => Sys2Proof.Machine.execBootLoad hatch data s
  | .telemetry hatch => Sys2Proof.Machine.execTelemetry hatch s
  | .channelTest hatch => Sys2Proof.Machine.execChannelTest hatch s
  | .sessionOpen hatch => Sys2Proof.Machine.execSessionOpen hatch s
  | .sessionClose hatch => Sys2Proof.Machine.execSessionClose hatch s
  | .sessionCloseDone hatch => Sys2Proof.Machine.execSessionCloseDone hatch s
  | .sessionConfig hatch => Sys2Proof.Machine.execSessionConfig hatch s
  | .sessionSensor hatch data => Sys2Proof.Machine.execSessionSensor hatch data s
  | .sessionQuery hatch => Sys2Proof.Machine.execSessionQuery hatch s
  | .sessionCheckpoint hatch => Sys2Proof.Machine.execSessionCheckpoint hatch s
  | .sessionMove hatch => Sys2Proof.Machine.execSessionMove hatch s
  | .sessionMoveDone hatch => Sys2Proof.Machine.execSessionMoveDone hatch s
  | .streamBind hatch => Sys2Proof.Machine.execStreamBind hatch s
  | .streamUnbind hatch => Sys2Proof.Machine.execStreamUnbind hatch s
  | .batchSubmit hatch data => Sys2Proof.Machine.execBatchSubmit hatch data s
  | .batchComplete hatch => Sys2Proof.Machine.execBatchComplete hatch s
  | .resultAreaSet hatch => Sys2Proof.Machine.execResultAreaSet hatch s
  | .rareaRdWrite area value => Sys2Proof.Machine.execRareaRdWrite area value s
  | .resultIrqTimer area => Sys2Proof.Machine.execResultIrqTimer area s
  | .evringRdWrite value => Sys2Proof.Machine.execEvringRdWrite value s
  | .mapLoad hatch data => Sys2Proof.Machine.execMapLoad hatch data s
  | .mapLoadDone hatch data => Sys2Proof.Machine.execMapLoadDone hatch data s
  | .mapSave hatch => Sys2Proof.Machine.execMapSave hatch s
  | .mapSaveDone hatch => Sys2Proof.Machine.execMapSaveDone hatch s
  | .mapInfo hatch => Sys2Proof.Machine.execMapInfo hatch s
  | .mapOriginSet hatch => Sys2Proof.Machine.execMapOriginSet hatch s
  | .mapOptimise hatch => Sys2Proof.Machine.execMapOptimise hatch s
  | .mapOptimiseDone hatch => Sys2Proof.Machine.execMapOptimiseDone hatch s
  | .crateLoad hatch => Sys2Proof.Machine.execCrateLoad hatch s
  | .crateLoadDone hatch data => Sys2Proof.Machine.execCrateLoadDone hatch data s
  | .crateUnload hatch => Sys2Proof.Machine.execCrateUnload hatch s
  | .crateInfo hatch => Sys2Proof.Machine.execCrateInfo hatch s
  | .graphLoad hatch => Sys2Proof.Machine.execGraphLoad hatch s
  | .graphLoadDone hatch data => Sys2Proof.Machine.execGraphLoadDone hatch data s
  | .graphUnload hatch => Sys2Proof.Machine.execGraphUnload hatch s
  | .graphUnloadDone hatch => Sys2Proof.Machine.execGraphUnloadDone hatch s
  | .timeStatus hatch => Sys2Proof.Machine.execTimeStatus hatch s
  | .airEpochSet hatch => Sys2Proof.Machine.execAirEpochSet hatch s
  | .ptpPortSet hatch => Sys2Proof.Machine.execPtpPortSet hatch s
  | .eventAdd hatch => Sys2Proof.Machine.execEventAdd hatch s
  | .eventRemove hatch => Sys2Proof.Machine.execEventRemove hatch s
  | .tevSet hatch => Sys2Proof.Machine.execTevSet hatch s
  | .launchQueue hatch data => Sys2Proof.Machine.execLaunchQueue hatch data s
  | .scuChainSet hatch => Sys2Proof.Machine.execScuChainSet hatch s
  | .scuCoeffLoad hatch data => Sys2Proof.Machine.execScuCoeffLoad hatch data s
  | .scuChainRun hatch => Sys2Proof.Machine.execScuChainRun hatch s
  | .chainStopDone hatch => Sys2Proof.Machine.execChainStopDone hatch s
  | .soundingBind hatch => Sys2Proof.Machine.execSoundingBind hatch s
  | .soundingUnbind hatch => Sys2Proof.Machine.execSoundingUnbind hatch s
  | .antennaSet hatch data => Sys2Proof.Machine.execAntennaSet hatch data s
  | .certRead hatch => Sys2Proof.Machine.execCertRead hatch s
  | .attest hatch => Sys2Proof.Machine.execAttest hatch s
  | .contextCreate hatch data => Sys2Proof.Machine.execContextCreate hatch data s
  | .contextDestroy hatch => Sys2Proof.Machine.execContextDestroy hatch s
  | .contextDestroyDone hatch => Sys2Proof.Machine.execContextDestroyDone hatch s
  | .confEnter hatch => Sys2Proof.Machine.execConfEnter hatch s
  | .confExit hatch => Sys2Proof.Machine.execConfExit hatch s
  | .modeSwitchDone hatch => Sys2Proof.Machine.execModeSwitchDone hatch s
  | .keyRotate hatch => Sys2Proof.Machine.execKeyRotate hatch s
  | .keyRotateDone hatch => Sys2Proof.Machine.execKeyRotateDone hatch s
  | .counterSnapshot hatch => Sys2Proof.Machine.execCounterSnapshot hatch s
  | .traceSet hatch => Sys2Proof.Machine.execTraceSet hatch s
  | .errDetailRead hatch => Sys2Proof.Machine.execErrDetailRead hatch s
  | .loftRead hatch => Sys2Proof.Machine.execLoftRead hatch s
  | .loftStore hatch data readBackOk => Sys2Proof.Machine.execLoftStore hatch data readBackOk s
  | .startLogRead hatch => Sys2Proof.Machine.execStartLogRead hatch s
  | .systemInfo hatch => Sys2Proof.Machine.execSystemInfo hatch s
  | .deltaIntervalSet hatch => Sys2Proof.Machine.execDeltaIntervalSet hatch s
  | .linkRetrain hatch => Sys2Proof.Machine.execLinkRetrain hatch s
  | .linkRetrainTimeout hatch => Sys2Proof.Machine.execLinkRetrainTimeout hatch s
  | .errClear index value => Sys2Proof.Machine.execErrClear index value s
  | .timeDtRead half => Sys2Proof.Machine.execTimeDtRead half s
  | .measSeqRead => Sys2Proof.Machine.execMeasSeqRead s
  | .linkMeasSeqRead => Sys2Proof.Machine.execLinkMeasSeqRead s
  | .halfReadLatch r => Sys2Proof.Machine.execHalfReadLatch r s
  | .timeIncWrite half value => Sys2Proof.Machine.execTimeIncWrite half value s
  | .timeStepWrite half value => Sys2Proof.Machine.execTimeStepWrite half value s
  | .capturePop source value => Sys2Proof.Machine.execCapturePop source value s
  | .ppsCtlWrite value => Sys2Proof.Machine.execPpsCtlWrite value s
  | .registerWrite off width value poisoned => Sys2Proof.Machine.execRegisterWrite off width value poisoned s
  | .bar2Read addr len finding => Sys2Proof.Machine.execBar2Read addr len finding s
  | .bar2Write addr => Sys2Proof.Machine.execBar2Write addr s
  | .unsupportedRequest => Sys2Proof.Machine.execUnsupportedRequest s
  | .dmaCompletionTimeout target poisoned => Sys2Proof.Machine.execDmaCompletionTimeout target poisoned s
  | .powerOn => Sys2Proof.Machine.execPowerOn s
  | .resetN => Sys2Proof.Machine.execResetN s
  | .perstN => Sys2Proof.Machine.execPerstN s
  | .refclkStop => Sys2Proof.Machine.execRefclkStop s
  | .watchdogReset => Sys2Proof.Machine.execWatchdogReset s
  | .startStepEnd finding => Sys2Proof.Machine.execStartStepEnd finding s
  | .startStepTimeout finding => Sys2Proof.Machine.execStartStepTimeout finding s
  | .recoveryReset => Sys2Proof.Machine.execRecoveryReset s
  | .strapChange devid keeperEn bootSrc => Sys2Proof.Machine.execStrapChange devid keeperEn bootSrc s
  | .pwrCapSample pins => Sys2Proof.Machine.execPwrCapSample pins s
  | .powerWindow deciWatts => Sys2Proof.Machine.execPowerWindow deciWatts s
  | .powerLimiterWindow deciWatts => Sys2Proof.Machine.execPowerLimiterWindow deciWatts s
  | .thermalSample tjQuarter tStoreQuarter => Sys2Proof.Machine.execThermalSample tjQuarter tStoreQuarter s
  | .checkpointTimer sid => Sys2Proof.Machine.execCheckpointTimer sid s
  | .instanceCreate ch slot => Sys2Proof.Machine.execInstanceCreate ch slot s
  | .stepDispatch ch engine shelf => Sys2Proof.Machine.execStepDispatch ch engine shelf s
  | .stepEnded ch engine => Sys2Proof.Machine.execStepEnded ch engine s
  | .dmaIn ch inst data => Sys2Proof.Machine.execDmaIn ch inst data s
  | .imagingStep ch shelf => Sys2Proof.Machine.execImagingStep ch shelf s
  | .hypothesiseAndVerify ch => Sys2Proof.Machine.execHypothesiseAndVerify ch s
  | .epipolarGather ch => Sys2Proof.Machine.execEpipolarGather ch s
  | .tensorStep ch lateTile shelf => Sys2Proof.Machine.execTensorStep ch lateTile shelf s
  | .weightTileArrival ch => Sys2Proof.Machine.execWeightTileArrival ch s
  | .tierStallLimit ch engine => Sys2Proof.Machine.execTierStallLimit ch engine s
  | .splitRequest ch m n k => Sys2Proof.Machine.execSplitRequest ch m n k s
  | .splitResult ch a b lateChunks => Sys2Proof.Machine.execSplitResult ch a b lateChunks s
  | .solverStep ch loadAt timing shelf => Sys2Proof.Machine.execSolverStep ch loadAt timing shelf s
  | .predict ch => Sys2Proof.Machine.execPredict ch s
  | .grid ch => Sys2Proof.Machine.execGrid ch s
  | .radio ch => Sys2Proof.Machine.execRadio ch s
  | .tracks ch => Sys2Proof.Machine.execTracks ch s
  | .ctxTake ch inst shelf => Sys2Proof.Machine.execCtxTake ch inst shelf s
  | .relocOutcome ch inst => Sys2Proof.Machine.execRelocOutcome ch inst s
  | .relocWaitTimeout ch inst => Sys2Proof.Machine.execRelocWaitTimeout ch inst s
  | .ctxPeek ch inst => Sys2Proof.Machine.execCtxPeek ch inst s
  | .result ch inst => Sys2Proof.Machine.execResult ch inst s
  | .selfTestSlice ch pass => Sys2Proof.Machine.execSelfTestSlice ch pass s
  | .channelFailure ch cause engine => Sys2Proof.Machine.execChannelFailure ch cause engine s
  | .engineHang ch engine => Sys2Proof.Machine.execEngineHang ch engine s
  | .mapRequest ch kind => Sys2Proof.Machine.execMapRequest ch kind s
  | .insertionBatch ownerFaults => Sys2Proof.Machine.execInsertionBatch ownerFaults s
  | .loopClosureSearch kf => Sys2Proof.Machine.execLoopClosureSearch kf s
  | .loopClosureCommit job => Sys2Proof.Machine.execLoopClosureCommit job s
  | .mapJobStart job => Sys2Proof.Machine.execMapJobStart job s
  | .mapCommit job ownerFaults => Sys2Proof.Machine.execMapCommit job ownerFaults s
  | .eventFire index => Sys2Proof.Machine.execEventFire index s
  | .tevPulseEnd pin => Sys2Proof.Machine.execTevPulseEnd pin s
  | .ppsOutEdge => Sys2Proof.Machine.execPpsOutEdge s
  | .captureEdge source rising => Sys2Proof.Machine.execCaptureEdge source rising s
  | .ptpFrameRx port frame stamp => Sys2Proof.Machine.execPtpFrameRx port frame stamp s
  | .ptpMessageSend port kind => Sys2Proof.Machine.execPtpMessageSend port kind s
  | .ptpAnnounceTimeout port => Sys2Proof.Machine.execPtpAnnounceTimeout port s
  | .holdoverTimeout => Sys2Proof.Machine.execHoldoverTimeout s
  | .clockClassTimer => Sys2Proof.Machine.execClockClassTimer s
  | .epFrameRx port frame bufferError => Sys2Proof.Machine.execEpFrameRx port frame bufferError s
  | .symbolIncomplete symbol => Sys2Proof.Machine.execSymbolIncomplete symbol s
  | .elementRebuild symbol => Sys2Proof.Machine.execElementRebuild symbol s
  | .testInjectionBlock chain => Sys2Proof.Machine.execTestInjectionBlock chain s
  | .refTimeout binding => Sys2Proof.Machine.execRefTimeout binding s
  | .quarantineEnd sid source => Sys2Proof.Machine.execQuarantineEnd sid source s
  | .anchorQuarantineEnd array => Sys2Proof.Machine.execAnchorQuarantineEnd array s
  | .obsExpire ctx group => Sys2Proof.Machine.execObsExpire ctx group s
  | .migrationEpoch finding => Sys2Proof.Machine.execMigrationEpoch finding s
  | .heatDecay => Sys2Proof.Machine.execHeatDecay s
  | .patrolScrubRead frame finding => Sys2Proof.Machine.execPatrolScrubRead frame finding s
  | .lateAccess requester store cause => Sys2Proof.Machine.execLateAccess requester store cause s
  | .controllerRetrain store controller => Sys2Proof.Machine.execControllerRetrain store controller s
  | .retrainEnd store controller ok => Sys2Proof.Machine.execRetrainEnd store controller ok s
  | .arbiterDecision arbiter gone requests => Sys2Proof.Machine.execArbiterDecision arbiter gone requests s
  | .starvation arbiter requester => Sys2Proof.Machine.execStarvation arbiter requester s
  | .turnClose => Sys2Proof.Machine.execTurnClose s
  | .turnDrainLimit => Sys2Proof.Machine.execTurnDrainLimit s
  | .scrubBegin => Sys2Proof.Machine.execScrubBegin s
  | .scrubEnd => Sys2Proof.Machine.execScrubEnd s
  | .counterLatch => Sys2Proof.Machine.execCounterLatch s
  | .traceSync => Sys2Proof.Machine.execTraceSync s
  | .mpSignalPoll port signal => Sys2Proof.Machine.execMpSignalPoll port signal s
  | .mpTrainingEnd port hello => Sys2Proof.Machine.execMpTrainingEnd port hello s
  | .mpRetryTimer port => Sys2Proof.Machine.execMpRetryTimer port s
  | .mpSignalLost port => Sys2Proof.Machine.execMpSignalLost port s
  | .mpFrameSend port => Sys2Proof.Machine.execMpFrameSend port s
  | .mpFrameRx port frame stamp => Sys2Proof.Machine.execMpFrameRx port frame stamp s
  | .deltaBatchTick => Sys2Proof.Machine.execDeltaBatchTick s
  | .mapLockGrant => Sys2Proof.Machine.execMapLockGrant s
  | .catchUp port => Sys2Proof.Machine.execCatchUp port s
  | .powerLoss loftOld => Sys2Proof.Machine.execPowerLoss loftOld s
  | .resetRelease => Sys2Proof.Machine.execResetRelease s
  | .refclkReturn => Sys2Proof.Machine.execRefclkReturn s
  | .epLinkDown port => Sys2Proof.Machine.execEpLinkDown port s
  | .epLinkUp port => Sys2Proof.Machine.execEpLinkUp port s
  | .ctxTakeDeadline ch inst => Sys2Proof.Machine.execCtxTakeDeadline ch inst s
  | .failureMoveDone sid => Sys2Proof.Machine.execFailureMoveDone sid s
  | .generationSweep ctx => Sys2Proof.Machine.execGenerationSweep ctx s
  | .sharedBlockRestored ch slot => Sys2Proof.Machine.execSharedBlockRestored ch slot s
  | .unexpectedCompletion => Sys2Proof.Machine.execUnexpectedCompletion s
  | .linkLayerError error => Sys2Proof.Machine.execLinkLayerError error s

end Sys2Proof.Machine
end

