-- ==== Sys2Proof/Safety.lean ====
section
/-! DEFINITION. The terms in which statements about the block are made: what a step answers, when firmware takes a request and its
checks pass, what a response in a hatch is, what a command leaves alone, and the states that a device may be in. -/
namespace Sys2Proof.Machine

/-! ### Steps -/

/-- A step answers the next state t. -/
def Gives (o : Host.Outcome State Fault Refusal) (t : State) : Prop := o = .next t

/-! ### Requests in hatches (R83, R89, R90) -/

/-- The request of a hatch, its payload as check 5 of R83 leaves it. -/
def requestIn (s : State) (h : Nat) (p : List Byte) : Req := { reqOf s h with payload := p }

/-- The state in which a command's own part runs: the request is off its queue, and a sealed one's counter is kept (R456). -/
def taken (s : State) (h : Nat) : State :=
  if bit (reqOf s h).flags 1 then
    (s.takeOff (reqOf s h)).modCtl h (fun c => { c with lastCtr := fieldAt (reqOf s h).payload 0 8 })
  else s.takeOff (reqOf s h)

/-- Firmware takes the request of hatch h, which is for opcode `op`, before its patience has run out, and checks 1 to 5 of R83
pass with plaintext payload p. -/
def takes (s : State) (h op : Nat) (p : List Byte) : Bool :=
  canTake s h && (reqOf s h).op == op && ((reqOf s h).patience == 0 || decide (dtOf s ≤ (reqOf s h).patience)) &&
  (requestFailure s (reqOf s h)).isNone && openPayload s (reqOf s h) == some p

/-! ### Responses (R82, R84, R87, R88, R96) -/

/-- Hatch h of t holds the response to the request that it held in s: OWN is clear, PENDING is set for ACCEPTED alone, the hatch's
bit of HATCH_DONE is set, the header's first five bytes stand, and status, DT and, for a request that was not sealed, length and
payload are as given. -/
structure Answered (s : State) (h status : Nat) (payload : List Byte) (t : State) : Prop where
  own : (ctlAt t h).own = false
  pending : (ctlAt t h).pend = (status == 0x01)
  done : t.core.hat.done.getLsbD h = true
  header : Mem.bytes t.core.hat.mem (256 * h) 5 = Mem.bytes s.core.hat.mem (256 * h) 5
  status : Mem.read t.core.hat.mem (256 * h + 5) = BitVec.ofNat 8 status
  dt : Mem.bytes t.core.hat.mem (256 * h + 8) 8 = leBytes 8 (dtOf s)
  length : (ctlAt t h).sealCtr = none → Mem.bytes t.core.hat.mem (256 * h + 6) 2 = leBytes 2 payload.length
  payload : (ctlAt t h).sealCtr = none → Mem.bytes t.core.hat.mem (256 * h + 16) 240 = padTo 240 payload

/-- What a command that only answers leaves alone beside hatch h, when everything else of the core is to be as in c: pins, loft,
sticky errors, the endpoint's table, the other hatches and their bytes; only interrupt messages go out, and of the observation
block only the trace moves. -/
structure Kept (s : State) (h : Nat) (c : Core) (t : State) : Prop where
  hw : t.hw = s.hw
  loft : t.loft = s.loft
  err : t.err = s.err
  table : t.pcie.table = s.pcie.table
  free : t.free = s.free
  queue : t.pending = s.pending
  core : t.core = { c with
    hat := t.core.hat
    obs := { c.obs with buf := t.core.obs.buf, seq := t.core.obs.seq, sent := t.core.obs.sent, lost := t.core.obs.lost } }
  others : ∀ g, g ≠ h → ctlAt t g = ctlAt s g
  bytes : ∀ a, a < 256 * h ∨ 256 * h + 256 ≤ a → Mem.read t.core.hat.mem a = Mem.read s.core.hat.mem a
  out : ∃ l, t.out = s.out ++ l ∧ ∀ o ∈ l, ∃ v a d, o = Out.msi v a d

/-- A command that answers in its hatch and makes the core c, and nothing else. -/
def Responds (s : State) (h status : Nat) (payload : List Byte) (c : Core) (o : Host.Outcome State Fault Refusal) : Prop :=
  ∃ t, o = .next t ∧ Answered s h status payload t ∧ Kept s h c t

/-- The same for ACCEPTED: the hatch also holds the job (R88). -/
def Accepts (s : State) (h : Nat) (j : Job) (c : Core) (o : Host.Outcome State Fault Refusal) : Prop :=
  ∃ t, o = .next t ∧ Answered s h 0x01 [] t ∧ jobAt t h = some j ∧ Kept s h c t

/-! ### Parts of the core, as statements name them -/

/-- The core with other sessions. -/
def Core.withSess (c : Core) (m : NMap Session) : Core := { c with work := { c.work with sess := m } }

/-- The core with other stream bindings. -/
def Core.withStreams (c : Core) (m : NMap Stream) : Core := { c with work := { c.work with streams := m } }
/-- The core with another result area. -/
def Core.withArea (c : Core) (n : Nat) (a : Area) : Core := { c with ring := { c.ring with areas := updAt c.ring.areas n (fun _ => a) } }

/-- The core with another event table. -/
def Core.withEvents (c : Core) (m : NMap EvEntry) : Core := { c with air := { c.air with events := m } }
/-- The core with other frames in the launch slots. -/
def Core.withLaunch (c : Core) (m : NMap (List Byte)) : Core := { c with air := { c.air with launch := m } }
/-- The core with a chain of the sample conditioning unit changed. -/
def Core.withChain (c : Core) (n : Nat) (f : Chain → Chain) : Core :=
  { c with scu := { c.scu with chains := updAt c.scu.chains n f } }
/-- The core with other sounding bindings. -/
def Core.withBindings (c : Core) (m : NMap Binding) : Core := { c with scu := { c.scu with bindings := m } }

/-- A session as SESSION_OPEN makes it (R46): PROVISIONAL by its class's defaults, its first checkpoint counted from now. -/
def openedSession (owner chan now cls group area : Nat) : Session :=
  { owner := owner, chan := chan, lastCkpt := now, ctx := { cfg := { cls := cls, group := group, area := area } } }

/-! ### Resets and bus errors -/

/-- The device has begun a start from s for a reset cause, `why` (R502, R505, R507, R515, R516): at ST1 with its straps read, a new record at
the head of the log, nothing of the core's work left, and the endpoint, the sticky errors and the loft's pages as they were. -/
structure Restarted (s : State) (why : Nat) (t : State) : Prop where
  phase : t.core.sys.phase = .starting
  step : t.core.sys.step = 1
  cause : t.core.sys.cause = why
  devid : t.core.sys.devid = s.hw.devidPins
  keeper : t.core.sys.keeperEn = s.hw.keeperPin
  head : t.loft.log.head? = some t.core.sys.record
  startNo : t.core.sys.record.startNo = s.loft.nextStart
  recorded : t.core.sys.record.cause = why
  next : t.loft.nextStart = (s.loft.nextStart + 1) % 2 ^ 32
  pages : t.loft.pages = s.loft.pages
  err : t.err = s.err
  pcie : t.pcie = s.pcie
  work : t.core.work = {}
  hatches : t.core.hat = {}
  queue : t.pending = s.pending

/-- The device is held in reset for a cause (R502): the core at its reset values, the sticky errors and the loft's pages as they were. -/
structure HeldInReset (s : State) (why : Nat) (t : State) : Prop where
  phase : t.core.sys.phase = .inReset
  cause : t.core.sys.cause = why
  stopped : running t = false
  pages : t.loft.pages = s.loft.pages
  log : t.loft.log = s.loft.log
  err : t.err = s.err
  work : t.core.work = {}
  hatches : t.core.hat = {}
  queue : t.pending = s.pending

/-- The AER status bits of a link-layer error: uncorrectable, correctable (R534). -/
def linkErrorBits : LinkError → W32 × W32
  | .receiver => (0, 0x1) | .badTlp => (0, 0x40) | .badDllp => (0, 0x80) | .replayRollover => (0, 0x100)
  | .replayTimeout => (0, 0x1000) | .dlProtocol => (0x10, 0) | .receiverOverflow => (0x20000, 0)
  | .flowControl => (0x2000, 0) | .malformedTlp => (0x40000, 0)

/-- s with more AER status bits set. -/
def withAer (s : State) (b : W32 × W32) : State :=
  { s with pcie := { s.pcie with aerUncorr := s.pcie.aerUncorr ||| b.1, aerCorr := s.pcie.aerCorr ||| b.2 } }

/-! ### Engines -/

/-- Engine e of channel ch has done the work of its step (R161): its instance i is y, and the step will end with STEP_ENDED; of the
channel, the graphs, the map and all outside the core nothing else moved. -/
structure WorkDone (s : State) (ch e i : Nat) (y : Inst) (t : State) : Prop where
  worked : ((chanAt t ch).engines.getD e {}).worked = true
  run : ((chanAt t ch).engines.getD e {}).run = ((chanAt s ch).engines.getD e {}).run
  inst : instAt t ch i = some y
  insts : ∀ j, j ≠ i → instAt t ch j = instAt s ch j
  engines : ∀ f, f ≠ e → (chanAt t ch).engines.getD f {} = (chanAt s ch).engines.getD f {}
  waiting : (chanAt t ch).queue = (chanAt s ch).queue
  chans : ∀ c, c ≠ ch → chanAt t c = chanAt s c
  graphs : t.core.work.graphs = s.core.work.graphs
  map : t.core.map = s.core.map
  hw : t.hw = s.hw
  loft : t.loft = s.loft
  queue : t.pending = s.pending

/-- A counter shows n more in t than in s (R537). -/
def Counted (s : State) (addr n : Nat) (t : State) : Prop :=
  NMap.getD t.core.obs.counters addr 0 = NMap.getD s.core.obs.counters addr 0 + n

/-! ### What lives outside the core -/

/-- The loft as every start and every store leave it: its bytes in canonical form, at most 512 start records (R515), the write
counts in order of their pages. -/
def Loft.good (l : Loft) : Bool := Memory.wf l.pages && decide (l.log.length ≤ 512) && risingKeys l.writes

/-- The pins at legal levels (R36, R511, R546). -/
def Hw.good (h : Hw) : Bool := decide (h.devidPins < 8) && decide (h.bootPins < 4) && decide (h.capPins < 4)

/-- The control loop's own requests lie in their ranges: a clock of 400 to 1,600 MHz in steps of 100, an admission of 1 to 8 eighths
(R39, R62); the thermal rule's likewise (R557). -/
def Pow.legal (p : Pow) : Bool :=
  decide (400 ≤ p.ctlMhz) && decide (p.ctlMhz ≤ 1600) && p.ctlMhz % 100 == 0 && decide (1 ≤ p.ctlAdm) && decide (p.ctlAdm ≤ 8) &&
  decide (400 ≤ p.thMhz) && decide (p.thMhz ≤ 1600) && p.thMhz % 100 == 0 && decide (1 ≤ p.thAdm) && decide (p.thAdm ≤ 8)

/-- What holds in every state that a device reaches: the pins at legal levels, the loft as every store leaves it, the power
requests in their ranges, TIME_INC within its clamp (R359). -/
structure Sound (s : State) : Prop where
  pins : s.hw.good = true
  loft : s.loft.good = true
  power : s.core.pow.legal = true
  incLow : incMin ≤ s.core.time.inc.toNat
  incHigh : s.core.time.inc.toNat ≤ incMax

end Sys2Proof.Machine
end

