-- ==== Sys2Proof/Certificates/Slice0/Obligations.lean ====
section
/-! DEFINITION. The statements about the block, for the provers. `takes s h op p` says that firmware takes hatch h, whose request is
for opcode `op` with payload p, in time and past checks 1 to 5 of R83; `Responds` and `Accepts` say what stands in the hatch then and
that nothing beside the named parts of the core has moved. -/
open Sys2Proof Sys2Proof.Machine

/-! ### The queue -/

/-- A step runs the command at the front of the queue on the state that holds the rest of the queue. -/
def Obligations.StepRunsTheFrontCommand : Prop :=
  ∀ (c : Instr) (rest : List Instr) (s : State), s.pending = c :: rest → step s = exec c { s with pending := rest }

/-! ### Hatches -/

/-- R89 and R83: a request whose patience has run out, or that fails one of checks 1 to 4, gets that status as its final response,
and its own part does not run, whatever command it asks for. -/
def Obligations.FailedRequestsDoNothing : Prop :=
  ∀ (op h : Nat) (body : Req → State → State) (s : State), canTake s h = true →
    ((reqOf s h).op = op ∨ opInfo s (reqOf s h).op = none) →
    ((reqOf s h).patience ≠ 0 ∧ (reqOf s h).patience < dtOf s →
      Responds s h 0x16 [] s.core (.next (serve op h body s))) ∧
    (∀ st, ((reqOf s h).patience = 0 ∨ dtOf s ≤ (reqOf s h).patience) → requestFailure s (reqOf s h) = some st →
      Responds s h st [] s.core (.next (serve op h body s)))

/-- The commands that only report: DONE with the block of their layout, and nothing else moves. -/
def Obligations.ReportCommandsOnlyAnswer : Prop :=
  ∀ (s : State) (h : Nat) (p : List Byte),
    (takes s h 0x0101 p = true → Responds s h 0x00 (capBlock s) s.core (exec (.capQuery h) s)) ∧
    (takes s h 0x0102 p = true → Responds s h 0x00 (devStateBlock s) s.core (exec (.devState h) s)) ∧
    (takes s h 0x0107 p = true → Responds s h 0x00 p s.core (exec (.echo h) s)) ∧
    (takes s h 0x0109 p = true → Responds s h 0x00 (telemetryBlock s) s.core (exec (.telemetry h) s)) ∧
    (takes s h 0x0601 p = true → Responds s h 0x00 (timeStatusBlock s) s.core (exec (.timeStatus h) s)) ∧
    (takes s h 0x0503 p = true → fieldAt p 0 1 ≤ 31 →
      Responds s h 0x00 (crateInfoBlock (crateAt s (fieldAt p 0 1))) s.core (exec (.crateInfo h) s)) ∧
    (takes s h 0x0403 p = true → ∃ b, b.length = 32 ∧ fieldAt b 0 4 = s.core.map.version.toNat ∧
      Responds s h 0x00 b s.core (exec (.mapInfo h) s))

/-- The commands that write a block to host memory: one DMA write of it at ADDR, then DONE with its length (LOFT_READ: with nothing),
and nothing else moves but, for ATTEST, the count of values drawn. -/
def Obligations.ReadOutCommandsWriteHostMemory : Prop :=
  ∀ (s : State) (h : Nat) (p : List Byte),
    (takes s h 0x0901 p = true → 16 ≤ fieldAt p 8 4 →
      Responds (s.emit (.dmaWrite (fieldAt p 0 8) (fitParts (fieldAt p 8 4) (snapshotParts s)))) h 0x00
        (leBytes 4 (fitParts (fieldAt p 8 4) (snapshotParts s)).length) s.core (exec (.counterSnapshot h) s)) ∧
    (takes s h 0x0903 p = true → 528 ≤ fieldAt p 8 4 →
      Responds (s.emit (.dmaWrite (fieldAt p 0 8) (fitParts (fieldAt p 8 4) (errParts s)))) h 0x00
        (leBytes 4 (fitParts (fieldAt p 8 4) (errParts s)).length) s.core (exec (.errDetailRead h) s)) ∧
    (takes s h 0x0A01 p = true → fieldAt p 0 1 ≤ 63 →
      Responds (s.emit (.dmaWrite (fieldAt p 8 8) (loftShown s (fieldAt p 0 1)))) h 0x00 [] s.core (exec (.loftRead h) s)) ∧
    (takes s h 0x0A04 p = true → 16 ≤ fieldAt p 8 4 →
      Responds (s.emit (.dmaWrite (fieldAt p 0 8) (fitParts (fieldAt p 8 4) (startLogParts s)))) h 0x00
        (leBytes 4 (fitParts (fieldAt p 8 4) (startLogParts s)).length) s.core (exec (.startLogRead h) s)) ∧
    (takes s h 0x0801 p = true → 2048 ≤ fieldAt p 8 4 →
      Responds (s.emit (.dmaWrite (fieldAt p 0 8) certBytes)) h 0x00 (leBytes 4 certBytes.length) s.core (exec (.certRead h) s)) ∧
    (takes s h 0x0802 p = true → s.core.sec.selfTestBad = false →
      (reportBody s (reqOf s h).ctx (fieldAt p 12 4) (bytesAt p 16 16)).length + 64 ≤ fieldAt p 8 4 →
      let b := reportBody s (reqOf s h).ctx (fieldAt p 12 4) (bytesAt p 16 16)
      let b := b ++ sm2Sign (serialBytes s) b s.free
      Responds (({ s with free := s.free + 1 } : State).emit (.dmaWrite (fieldAt p 0 8) b)) h 0x00 (leBytes 4 b.length) s.core (exec (.attest h) s)) ∧
    (takes s h 0x0B01 p = true → ∃ b, b.length = 8 ∧ fieldAt b 0 1 = (systemDevs s).length % 256 ∧
      fieldAt b 4 4 = s.core.map.version.toNat ∧ Responds s h 0x00 b s.core (exec (.systemInfo h) s))

/-- R37: POWER_CAP with a value of the part's column of R36 stores the hatch cap, even above the pin cap, and reports the effective
cap, the lower of the two; with 0 it only reports. -/
def Obligations.PowerCapStoresTheHatchCap : Prop :=
  (∀ (s : State) (why : Nat), (s.coreReset why).core.pow.hatchCap = packageW s.hw.part) ∧
  ∀ (s : State) (h : Nat) (p : List Byte), takes s h 0x0103 p = true →
    (∀ i, i < 4 → fieldAt p 0 2 = pinCapOf s.hw.part i →
      Responds s h 0x00 (leBytes 2 (min s.core.pow.pinCap (fieldAt p 0 2)) ++ leBytes 2 s.core.pow.pinCap ++ leBytes 2 (fieldAt p 0 2))
        { s.core with pow := { s.core.pow with hatchCap := fieldAt p 0 2 } } (exec (.powerCap h) s)) ∧
    (fieldAt p 0 2 = 0 →
      Responds s h 0x00 (leBytes 2 (min s.core.pow.pinCap s.core.pow.hatchCap) ++ leBytes 2 s.core.pow.pinCap ++
        leBytes 2 s.core.pow.hatchCap) s.core (exec (.powerCap h) s)) ∧
    (fieldAt p 0 2 ≠ 0 → (∀ i, i < 4 → fieldAt p 0 2 ≠ pinCapOf s.hw.part i) → Responds s h 0x11 [] s.core (exec (.powerCap h) s))

/-- The commands on the device: the event ring, roles and tests of channels, the core reset, BOOT_LOAD. -/
def Obligations.DeviceCommandsTakeEffect : Prop :=
  ∀ (s : State) (h : Nat) (p : List Byte),
    (takes s h 0x0104 p = true → fieldAt p 12 1 ≤ 63 → fieldAt p 0 8 % 4096 = 0 → ringSize 1024 65536 (fieldAt p 8 4) = true →
      ∃ t, exec (.eventRingSet h) s = .next t ∧ Answered s h 0x00 [] t ∧ t.core.ring.evBase = fieldAt p 0 8 ∧
        t.core.ring.evSize = fieldAt p 8 4 ∧ t.core.ring.evVector = fieldAt p 12 1 ∧ t.core.ring.evRd = 0 ∧
        Out.dmaWrite (fieldAt p 0 8) (leBytes 4 0) ∈ t.out ∧ (s.core.ring.evHeld = [] → t.core.ring.evWr = 0)) ∧
    (takes s h 0x0105 p = true → channelCheck s (fieldAt p 0 1) = none → fieldAt p 1 1 ≤ 1 →
      (fieldAt p 1 1 = 1 → ((mapChans s).filter (· != fieldAt p 0 1)).length < mapChMax s ∧ (chanAt s (fieldAt p 0 1)).testMode = 0) →
      sessionsOn s (fieldAt p 0 1) = [] → (∀ e ∈ s.core.work.sess, e.2.moveTo ≠ some (fieldAt p 0 1, true)) →
      hasMapJob s (fieldAt p 0 1) = false →
      Responds s h 0x00 []
        { s.core with chans := updAt s.core.chans (fieldAt p 0 1) (fun x => { x with mapRole := fieldAt p 1 1 == 1 }) }
        (exec (.channelRole h) s)) ∧
    (takes s h 0x0106 p = true →
      Responds s h 0x00 [] { s.core with sys := { s.core.sys with
        coreResetAt := some (s.core.sys.coreResetAt.getD (dtOf s + 1000000)) } } (exec (.coreReset h) s)) ∧
    (takes s h 0x010A p = true → channelCheck s (fieldAt p 0 1) = none → (chanAt s (fieldAt p 0 1)).mapRole = false →
      fieldAt p 1 1 ≤ 2 →
      ∃ t, exec (.channelTest h) s = .next t ∧ Answered s h 0x00 (leBytes 1 (chanAt s (fieldAt p 0 1)).testMode) t ∧
        t.core.chans = updAt s.core.chans (fieldAt p 0 1) (fun x =>
          { x with
            testMode := fieldAt p 1 1
            lastSlice := if fieldAt p 1 1 = 1 ∧ (chanAt s (fieldAt p 0 1)).testMode ≠ 1 then dtOf s else x.lastSlice }) ∧
        (fieldAt p 1 1 ≠ 0 → fieldAt p 1 1 ≠ (chanAt s (fieldAt p 0 1)).testMode →
          ∀ e ∈ t.core.work.sess, e.2.chan = fieldAt p 0 1 → e.2.state ≠ .normal)) ∧
    (∀ img, takes s h 0x0108 p = true → s.core.sec.selfTestBad = false → 65792 ≤ fieldAt p 8 4 → fieldAt p 8 4 ≤ 8388608 →
      ∃ t, exec (.bootLoad h img) s = .next t ∧ Out.dmaRead (fieldAt p 0 8) (fieldAt p 8 4) ∈ t.out ∧
        (imageOk s (padTo (fieldAt p 8 4) img) = true → Answered s h 0x00 [] t ∧ t.core.sys.phase = .starting ∧ t.core.sys.step = 3 ∧
          t.core.sys.fwMeas = sm3 (padTo (fieldAt p 8 4) img)) ∧
        (imageOk s (padTo (fieldAt p 8 4) img) = false → Answered s h 0x30 [] t ∧ (s.err.regs.length = 16 → (t.err.regs.getD 3 {}).bits.getLsbD 7 = true)))

/-! ### Sessions -/

/-- R46: what SESSION_OPEN picks, the lowest free SID and, with 0xFF, the ordinary channel of fewest open sessions, the lowest number
breaking a tie (among channels without a test mode while there are any, R107). -/
def Obligations.SessionOpenPicksLowest : Prop :=
  ∀ (s : State),
    (∀ n, pickSid s 0xFFFF = some n →
      n < maxSessions s ∧ sessAt s n = none ∧ ∀ m, m < n → (sessAt s m).isSome = true) ∧
    (∀ n, n ≠ 0xFFFF → pickSid s n = if (sessAt s n).isSome then none else some n) ∧
    (∀ c l, pickChannel s = some c →
      (l = (ordinaryChans s).filter (fun x => (chanAt s x).testMode == 0) ∧ l ≠ [] ∨
        l = ordinaryChans s ∧ (ordinaryChans s).filter (fun x => (chanAt s x).testMode == 0) = []) →
      c ∈ l ∧ ∀ d ∈ l, (sessionsOn s c).length ≤ (sessionsOn s d).length ∧
        ((sessionsOn s c).length = (sessionsOn s d).length → c ≤ d))

/-- The commands on sessions that end at once: SESSION_OPEN, SESSION_CONFIG, SESSION_SENSOR, SESSION_QUERY, SESSION_CHECKPOINT. -/
def Obligations.SessionCommandsTakeEffect : Prop :=
  ∀ (s : State) (h : Nat) (p : List Byte),
    (∀ n c, takes s h 0x0201 p = true → fieldAt p 2 1 ≤ 3 → areaSet s (fieldAt p 5 1) = true →
      (fieldAt p 0 2 = 0xFFFF ∨ fieldAt p 0 2 < maxSessions s) → pickSid s (fieldAt p 0 2) = some n →
      (fieldAt p 3 1 = 255 ∧ pickChannel s = some c ∨
        fieldAt p 3 1 = c ∧ channelCheck s c = none ∧ (chanAt s c).mapRole = false) →
      Responds s h 0x00 (leBytes 2 n ++ leBytes 1 c)
        (s.core.withSess (NMap.set s.core.work.sess n (openedSession (reqOf s h).ctx c (dtOf s) (fieldAt p 2 1) (fieldAt p 4 1) (fieldAt p 5 1))))
        (exec (.sessionOpen h) s)) ∧
    (∀ x, takes s h 0x0203 p = true → sessAt s (fieldAt p 0 2) = some x → x.owner = (reqOf s h).ctx →
      held (taken s h) (.sid (fieldAt p 0 2)) = false →
      ((fieldAt p 2 2).testBit 0 = true → fieldAt p 4 1 ≤ 3) →
      ((fieldAt p 2 2).testBit 2 = true → areaSet s (fieldAt p 6 1) = true) →
      ((fieldAt p 2 2).testBit 3 = true → 100 ≤ fieldAt p 8 2 ∧ fieldAt p 8 2 ≤ 10000) →
      ((fieldAt p 2 2).testBit 4 = true → 1 ≤ fieldAt p 10 2 ∧ fieldAt p 10 2 ≤ 10000) →
      ((fieldAt p 2 2).testBit 5 = true → 1 ≤ fieldAt p 12 2 ∧ fieldAt p 12 2 ≤ 10000 ∧ 1 ≤ fieldAt p 14 2 ∧ fieldAt p 14 2 ≤ 18000 ∧
        1 ≤ fieldAt p 16 2 ∧ fieldAt p 16 2 ≤ 10000) →
      ∃ t, exec (.sessionConfig h) s = .next t ∧
        t.core.work.sess = NMap.set s.core.work.sess (fieldAt p 0 2) { x with ctx := { x.ctx with
          cfg := {
            cls := if (fieldAt p 2 2).testBit 0 then fieldAt p 4 1 else x.ctx.cfg.cls
            group := if (fieldAt p 2 2).testBit 1 then fieldAt p 5 1 else x.ctx.cfg.group
            area := if (fieldAt p 2 2).testBit 2 then fieldAt p 6 1 else x.ctx.cfg.area
            horizonMs := if (fieldAt p 2 2).testBit 3 then fieldAt p 8 2 else x.ctx.cfg.horizonMs
            latencyMs := if (fieldAt p 2 2).testBit 4 then fieldAt p 10 2 else x.ctx.cfg.latencyMs
            exitPos := if (fieldAt p 2 2).testBit 5 then fieldAt p 12 2 else x.ctx.cfg.exitPos
            exitHead := if (fieldAt p 2 2).testBit 5 then fieldAt p 14 2 else x.ctx.cfg.exitHead
            exitSigma := if (fieldAt p 2 2).testBit 5 then fieldAt p 16 2 else x.ctx.cfg.exitSigma }
          lateDiscard := x.ctx.lateDiscard && !((fieldAt p 2 2).testBit 6 && (fieldAt p 7 1).testBit 0) } } ∧
        (∃ b, b.length = 18 ∧ Responds s h 0x00 b { s.core with work := t.core.work } (.next t))) ∧
    (∀ x data base mesh, takes s h 0x0204 p = true → sessAt s (fieldAt p 0 2) = some x → x.owner = (reqOf s h).ctx →
      held (taken s h) (.sid (fieldAt p 0 2)) = false → fieldAt p 2 1 ≤ 3 → fieldAt p 3 1 ≤ 6 →
      (fieldAt p 3 1 ≠ 3 ∧ base = s ∧ mesh = [] ∨
        fieldAt p 3 1 = 3 ∧ bulkSealed s (reqOf s h).ctx = false ∧ base = s.emit (.dmaRead (fieldAt p 0x58 8) 2048) ∧
          mesh = padTo 2048 data) →
      (sensorOk (sensorOf (requestIn s h p) mesh) = true →
        Responds base h 0x00 [] (((touchShelf s (fieldAt p 0 2)).getD s).core.withSess (NMap.set s.core.work.sess (fieldAt p 0 2)
          { x with ctx := { x.ctx with sensors := setAt x.ctx.sensors (fieldAt p 2 1) (sensorOf (requestIn s h p) mesh) } }))
          (exec (.sessionSensor h data) s)) ∧
      (sensorOk (sensorOf (requestIn s h p) mesh) = false →
        Responds base h 0x11 [] s.core (exec (.sessionSensor h data) s))) ∧
    (∀ x, takes s h 0x0205 p = true → sessAt s (fieldAt p 0 2) = some x → x.owner = (reqOf s h).ctx →
      held (taken s h) (.sid (fieldAt p 0 2)) = false → x.ctx.cfg.area < s.core.ring.areas.length →
      areaFree (areaAt s x.ctx.cfg.area) ≠ 0 →
      ∃ t, exec (.sessionQuery h) s = .next t ∧
        Answered s h 0x00 (leBytes 4 (areaAt s x.ctx.cfg.area).wr.toNat ++ leBytes 1 (stateCode x.state)) t ∧
        (areaAt t x.ctx.cfg.area).wr = (areaAt s x.ctx.cfg.area).wr + 1 ∧
        (areaAt t x.ctx.cfg.area).reserved = (areaAt s x.ctx.cfg.area).reserved) ∧
    (∀ x, takes s h 0x0206 p = true → sessAt s (fieldAt p 0 2) = some x → x.owner = (reqOf s h).ctx →
      held (taken s h) (.sid (fieldAt p 0 2)) = false →
      (tornRead s (fieldAt p 0 2) = none →
        ∃ t, exec (.sessionCheckpoint h) s = .next t ∧ Answered s h 0x00 (leBytes 8 (dtOf s)) t ∧
          t.core.work.sess = NMap.set s.core.work.sess (fieldAt p 0 2)
            { x with ckpts := setAt x.ckpts x.nextSlot (some { dt := dtOf s, ctx := x.ctx, pinned := x.pinned }),
                     nextSlot := 1 - x.nextSlot, lastCkpt := dtOf s }) ∧
      (∀ g, tornRead s (fieldAt p 0 2) = some g →
        ∃ t, exec (.sessionCheckpoint h) s = .next t ∧ Answered s h 0x21 [] t ∧ t.core.work.sess = s.core.work.sess))

/-- SESSION_CLOSE, its end, SESSION_MOVE, its end, the end of a failure move, and the checkpoint timer (R47, R48, R49). -/
def Obligations.ClosesMovesAndCheckpoints : Prop :=
  ∀ (s : State) (h : Nat) (p : List Byte),
    (∀ x, takes s h 0x0202 p = true → sessAt s (fieldAt p 0 2) = some x → x.owner = (reqOf s h).ctx → x.state ≠ .moving →
      x.state ≠ .closing → held (taken s h) (.sid (fieldAt p 0 2)) = false →
      ∃ t y, exec (.sessionClose h) s = .next t ∧ Answered s h 0x01 [] t ∧ jobAt t h = some (.sessionClose (fieldAt p 0 2)) ∧
        sessAt t (fieldAt p 0 2) = some y ∧ y.state = .closing ∧
        ∀ c ∈ t.core.chans, ∀ w ∈ c.queue, w.sid ≠ some (fieldAt p 0 2)) ∧
    (∀ x, takes s h 0x0202 p = true → sessAt s (fieldAt p 0 2) = some x → x.owner = (reqOf s h).ctx → x.state = .moving →
      x.closeAfter = false →
      Accepts s h (.sessionClose (fieldAt p 0 2))
        (s.core.withSess (NMap.set s.core.work.sess (fieldAt p 0 2) { x with closeAfter := true })) (exec (.sessionClose h) s)) ∧
    (∀ sid, h < 64 → jobAt s h = some (.sessionClose sid) → closeReady s sid = true →
      ∃ t, exec (.sessionCloseDone h) s = .next t ∧ Answered s h 0x00 [] t ∧ t.core.work.sess = NMap.erase s.core.work.sess sid ∧
        t.core.work.shelf = s.core.work.shelf.filter (· != sid) ∧
        t.core.scu.bindings = s.core.scu.bindings.filter (fun b => b.2.sid != sid)) ∧
    (∀ x, takes s h 0x0207 p = true → sessAt s (fieldAt p 0 2) = some x → x.owner = (reqOf s h).ctx → x.state ≠ .moving →
      x.state ≠ .closing → held (taken s h) (.sid (fieldAt p 0 2)) = false → channelCheck s (fieldAt p 2 1) = none →
      (chanAt s (fieldAt p 2 1)).mapRole = false →
      (x.chan ≠ fieldAt p 2 1 → Accepts s h (.sessionMove (fieldAt p 0 2) (fieldAt p 2 1))
        (s.core.withSess (NMap.set s.core.work.sess (fieldAt p 0 2)
          { x with before := x.state, state := .moving, moveTo := some (fieldAt p 2 1, false) })) (exec (.sessionMove h) s)) ∧
      (x.chan = fieldAt p 2 1 → Responds s h 0x00 [] s.core (exec (.sessionMove h) s))) ∧
    (∀ sid c x, h < 64 → jobAt s h = some (.sessionMove sid c) → sessAt s sid = some x → x.moveTo = some (c, false) →
      sessInsts s sid = [] → x.closeAfter = false →
      ∃ t y, exec (.sessionMoveDone h) s = .next t ∧ sessAt t sid = some y ∧ y.moveTo = none ∧ y.ctx = x.ctx ∧
        (c ∈ ordinaryChans s → Answered s h 0x00 [] t ∧ y.chan = c ∧ y.oweMoved = true ∧
          ((chanAt s c).testMode = 0 → y.state = x.before)) ∧
        (c ∉ ordinaryChans s → Answered s h 0x3F [] t ∧ y.chan = x.chan)) ∧
    (∀ sid c x, sessAt s sid = some x → x.moveTo = some (c, true) → x.closeAfter = false →
      ∃ t y, exec (.failureMoveDone sid) s = .next t ∧ sessAt t sid = some y ∧
        y.chan = (if c ∈ ordinaryChans s then c else (fewestSessions s (ordinaryChans s)).getD c) ∧ y.state = .provisional ∧
        y.moveTo = none ∧ y.oweMoved = true ∧ y.exitCount = 0 ∧ y.radioQ = [] ∧
        (∀ k, latestCkpt x = some k → y.ctx = { k.ctx with
          late := x.ctx.late, discarded := x.ctx.discarded, thinned := x.ctx.thinned, lateDiscard := x.ctx.lateDiscard })) ∧
    (∀ sid c x, sessAt s sid = some x → x.moveTo = some (c, false) → x.closeAfter = false → sessInsts s sid = [] →
      (∀ g d, g < 64 → jobAt s g ≠ some (.sessionMove sid d)) → c ∈ ordinaryChans s →
      ∃ t y, exec (.failureMoveDone sid) s = .next t ∧ sessAt t sid = some y ∧ y.chan = c ∧ y.moveTo = none ∧ y.ctx = x.ctx ∧
        y.oweMoved = true) ∧
    (∀ sid x, sessAt s sid = some x → (x.state = .provisional ∨ x.state = .normal) →
      (tornRead s sid = none →
        ∃ t, exec (.checkpointTimer sid) s = .next t ∧ t.core.hat = s.core.hat ∧ t.out = s.out ∧
          t.core.work.sess = NMap.set s.core.work.sess sid
            { x with ckpts := setAt x.ckpts x.nextSlot (some { dt := dtOf s, ctx := x.ctx, pinned := x.pinned }),
                     nextSlot := 1 - x.nextSlot, lastCkpt := dtOf s }) ∧
      (∀ g, tornRead s sid = some g →
        ∃ t, exec (.checkpointTimer sid) s = .next t ∧ t.core.hat = s.core.hat ∧ t.core.work.sess = s.core.work.sess))

/-- STREAM_BIND, STREAM_UNBIND, BATCH_SUBMIT, the completion of a batch, RESULT_AREA_SET (R50, R54 to R60, R110, R111). -/
def Obligations.StreamsBatchesAndAreas : Prop :=
  ∀ (s : State) (h : Nat) (p : List Byte),
    (takes s h 0x0208 p = true → fieldAt p 0 1 < maxStreams s → 1 ≤ fieldAt p 1 1 → fieldAt p 1 1 ≤ 6 → fieldAt p 2 1 ≤ 63 →
      fieldAt p 4 2 ≤ 1000 → NMap.has s.core.work.streams (fieldAt p 0 1) = false →
      held (taken s h) (.graph (fieldAt p 2 1)) = false → residentAll s (fieldAt p 2 1) (fieldAt p 1 1) = true →
      Responds s h 0x00 []
        (s.core.withStreams (NMap.set s.core.work.streams (fieldAt p 0 1)
          { kind := fieldAt p 1 1, graph := fieldAt p 2 1, deadlineMs := if fieldAt p 4 2 = 0 then 50 else fieldAt p 4 2 }))
        (exec (.streamBind h) s)) ∧
    (takes s h 0x0209 p = true → fieldAt p 0 1 < maxStreams s →
      (NMap.has s.core.work.streams (fieldAt p 0 1) = false ∨
        ∀ b ∈ s.core.work.batches, ∀ i ∈ b.2.items, i.stream = fieldAt p 0 1 → i.status ≠ none) →
      Responds s h 0x00 []
        (s.core.withStreams (NMap.erase s.core.work.streams (fieldAt p 0 1)))
        (exec (.streamUnbind h) s)) ∧
    (∀ data, takes s h 0x0301 p = true → fieldAt p 0 8 % 32 = 0 → 1 ≤ fieldAt p 8 2 → fieldAt p 8 2 ≤ 1024 →
      areaSet s (fieldAt p 10 1) = true → bulkSealed s (reqOf s h).ctx = false →
      let items := (records 32 (padTo (32 * fieldAt p 8 2) data)).map (fun b => ({ bytes := b } : Item))
      ((items.filter (·.wanted)).length ≤ areaFree (areaAt s (fieldAt p 10 1)) →
        ∃ t y, exec (.batchSubmit h data) s = .next t ∧ Answered s h 0x01 [] t ∧
          jobAt t h = some (.batch s.core.work.nextBatch) ∧ t.core.work.nextBatch = s.core.work.nextBatch + 1 ∧
          batchAt t s.core.work.nextBatch = some y ∧ y.items.map (·.bytes) = items.map (·.bytes) ∧ y.cookie = fieldAt p 12 4 ∧
          y.area = fieldAt p 10 1 ∧ y.hatch = h) ∧
      (areaFree (areaAt s (fieldAt p 10 1)) < (items.filter (·.wanted)).length →
        Responds (s.emit (.dmaRead (fieldAt p 0 8) (32 * fieldAt p 8 2))) h 0x13 [] s.core (exec (.batchSubmit h data) s))) ∧
    (∀ b y, h < 64 → jobAt s h = some (.batch b) → batchAt s b = some y → (∀ i ∈ y.items, i.written = true) →
      Responds s h (batchStatus y) (batchCounts y)
        { s.core with work := { s.core.work with batches := NMap.erase s.core.work.batches b } } (exec (.batchComplete h) s)) ∧
    (takes s h 0x0302 p = true → fieldAt p 0 1 < 16 → (fieldAt p 1 1 ≤ 63 ∨ fieldAt p 1 1 = 255) →
      (areaAt s (fieldAt p 0 1)).reserved = 0 →
      (fieldAt p 4 4 ≠ 0 ∧ 1 ≤ fieldAt p 2 2 ∧ fieldAt p 2 2 ≤ 1024 ∧ ringSize 256 1048576 (fieldAt p 4 4) = true ∧
          fieldAt p 8 8 % 4096 = 0 ∧ 1 ≤ fieldAt p 16 4 ∧ fieldAt p 16 4 ≤ 10000 ∨
        fieldAt p 4 4 = 0 ∧ ∀ e ∈ s.core.work.sess, e.2.ctx.cfg.area ≠ fieldAt p 0 1) →
      Responds (if fieldAt p 4 4 = 0 then s else s.emit (.dmaWrite (fieldAt p 8 8) (leBytes 4 0))) h 0x00 []
        (s.core.withArea (fieldAt p 0 1) (if fieldAt p 4 4 = 0 then {} else
          { base := fieldAt p 8 8, size := fieldAt p 4 4, vector := fieldAt p 1 1, coalN := fieldAt p 2 2, coalUs := fieldAt p 16 4 }))
        (exec (.resultAreaSet h) s))

/-- The status and counts of a batch that has ended (R110); the writes of ring counts, and the timer of a result area (R60, R101, R103,
R111). -/
def Obligations.BatchStatusRingsAndTimer : Prop :=
  (∀ (y : Batch), (∀ i ∈ y.items, i.status ≠ none) →
    ((∀ i ∈ y.items, ∀ c, i.status = some c → c < 0x20) → batchStatus y = 0x00) ∧
    (∀ i ∈ y.items, ∀ c, i.status = some c → 0x20 ≤ c → c ≤ batchStatus y) ∧
    (batchStatus y ≠ 0 → 0x20 ≤ batchStatus y ∧ ∃ i ∈ y.items, i.status = some (batchStatus y)) ∧
    (batchCounts y).length = 16) ∧
  ∀ (s : State), running s = true →
    (∀ a v, exec (.rareaRdWrite a v) s =
      .next (s.modRing (fun r => { r with areas := updAt r.areas a (fun x => { x with rd := BitVec.ofNat 32 v }) }))) ∧
    (∀ v, s.core.ring.evHeld.length ≤ 4096 →
      ∃ t k, exec (.evringRdWrite v) s = .next t ∧ t.core.ring.evRd = BitVec.ofNat 32 v ∧
        t.core.ring.evHeld = s.core.ring.evHeld.drop k ∧ (t.core.ring.evHeld = [] ∨ evFree t.core.ring = 0) ∧
        t.core.work = s.core.work ∧ t.core.hat = s.core.hat) ∧
    (∀ a, a < 16 → 0 < (areaAt s a).since → (areaAt s a).vector ≤ 63 → (areaAt s a).firstAt + 1000 * (areaAt s a).coalUs ≤ dtOf s →
      ∃ t, exec (.resultIrqTimer a) s = .next t ∧ (areaAt t a).since = 0 ∧
        (∀ b, b ≠ a → areaAt t b = areaAt s b) ∧
        (((s.pcie.table.getD (areaAt s a).vector {}).ctrl.getLsbD 0 = true ∧ t.out = s.out ∧
            t.pcie.pba.getLsbD (areaAt s a).vector = true) ∨
          ((s.pcie.table.getD (areaAt s a).vector {}).ctrl.getLsbD 0 = false ∧ t.pcie = s.pcie ∧
            t.out = s.out ++ [Out.msi (areaAt s a).vector (s.pcie.table.getD (areaAt s a).vector {}).addr.toNat
              (s.pcie.table.getD (areaAt s a).vector {}).data.toNat])))

/-! ### The map -/

/-- MAP_LOAD, MAP_SAVE, MAP_ORIGIN_SET and MAP_OPTIMISE as they are taken (R291, R298, R488). -/
def Obligations.MapCommandsTakeEffect : Prop :=
  ∀ (s : State) (h : Nat) (p : List Byte),
    (∀ data, takes s h 0x0401 p = true → isKeeper s = true →
      (mapHeaderOk (padTo 256 data) (fieldAt p 8 8) = true → mapFits s (padTo 256 data) = true →
        ∃ t, exec (.mapLoad h data) s = .next t ∧ Answered s h 0x01 [] t ∧
          jobAt t h = some (.mapLoad (fieldAt p 0 8) (fieldAt p 8 8) (fieldAt p 16 4)) ∧ t.core.map.inService = false ∧
          t.core.map.parcels = [] ∧ t.core.map.search = [] ∧ ∀ c ∈ t.core.chans, c.requests = []) ∧
      ((mapHeaderOk (padTo 256 data) (fieldAt p 8 8) && mapFits s (padTo 256 data)) = false →
        Responds (s.emit (.dmaRead (fieldAt p 0 8) 256)) h 0x11 [] s.core (exec (.mapLoad h data) s))) ∧
    (∀ data, takes s h 0x0401 p = true → isKeeper s = false → Responds s h 0x15 [] s.core (exec (.mapLoad h data) s)) ∧
    (takes s h 0x0402 p = true → imageLen s.core.map.data ≤ fieldAt p 8 8 →
      Accepts s h (.mapSave (fieldAt p 0 8) (fieldAt p 8 8) s.core.map.pin) s.core (exec (.mapSave h) s)) ∧
    (takes s h 0x0404 p = true → s.core.work.sess = [] → isKeeper s = true →
      (originOk (intAt p 0 8) (intAt p 8 8) = true → liveKfs s.core.map.data = [] →
        ∃ t, exec (.mapOriginSet h) s = .next t ∧ Answered s h 0x00 [] t ∧ t.core.map.data.lat = intAt p 0 8 ∧
          t.core.map.data.lon = intAt p 8 8 ∧ t.core.map.data.height = intAt p 16 4 ∧ t.core.map.version = s.core.map.version ∧
          Kept s h { s.core with map := t.core.map, link := t.core.link } t) ∧
      ((originOk (intAt p 0 8) (intAt p 8 8) = false ∨ liveKfs s.core.map.data ≠ []) →
        Responds s h 0x11 [] s.core (exec (.mapOriginSet h) s))) ∧
    (takes s h 0x0404 p = true → s.core.work.sess = [] → isKeeper s = false →
      ∃ t, exec (.mapOriginSet h) s = .next t ∧ jobAt t h = some (.mapOrigin (p.take 20)) ∧ (ctlAt t h).own = true ∧
        t.core.map = s.core.map) ∧
    (takes s h 0x0404 p = true → s.core.work.sess ≠ [] → Responds s h 0x13 [] s.core (exec (.mapOriginSet h) s)) ∧
    (∀ ch, takes s h 0x0405 p = true → (fieldAt p 0 1 = ch ∧ channelCheck s ch = none ∨
        fieldAt p 0 1 = 255 ∧ minBy (fun n => ((chanAt s n).queue).length) (mapChans s) = some ch) → ch ≠ 255 →
      ch ∈ mapChans s → (mapGraphSlot s).isSome = true → jobsOn s ch 1 < 8 → s.core.map.inService = true →
      ∃ t x, exec (.mapOptimise h) s = .next t ∧ Answered s h 0x01 [] t ∧ jobAt t h = some (.mapOptimise s.core.map.nextJob) ∧
        jobOf t s.core.map.nextJob = some x ∧ x.kind = 1 ∧ x.chan = ch ∧ x.phase = 0 ∧ x.cap = fieldAt p 2 2 ∧
        x.deadline = fieldAt p 8 8 ∧ x.hatch = some h ∧ t.core.map.nextJob = s.core.map.nextJob + 1)

/-- The ends of MAP_LOAD, MAP_SAVE and MAP_OPTIMISE (R298, R301, R308, R490). -/
def Obligations.MapCommandsEnd : Prop :=
  ∀ (s : State) (h : Nat), h < 64 →
    (∀ addr len v data, running s = true → jobAt s h = some (.mapLoad addr len v) →
      let m := if mapDigestOk (padTo len data) then mapOfImage (padTo len data) else none
      ∃ t, exec (.mapLoadDone h data) s = .next t ∧ t.core.map.version = BitVec.ofNat 32 v ∧ t.core.map.data = m.getD {} ∧
        Answered s h (if m.isSome then 0x00 else 0x30) [] t ∧
        (m.isSome = true → ∀ e ∈ t.core.work.sess, e.2.state ≠ .normal) ∧
        ((∀ g, g < 64 → g ≠ h → ∀ a b c, jobAt s g ≠ some (.mapLoad a b c)) → t.core.map.inService = true)) ∧
    (∀ addr len v, jobAt s h = some (.mapSave addr len v) →
      Responds (s.emit (.dmaWrite addr (mapImage (mapAt s v) v))) h 0x00
        (leBytes 8 (mapImage (mapAt s v) v).length ++ leBytes 4 v) s.core (exec (.mapSaveDone h) s)) ∧
    (∀ j x, jobAt s h = some (.mapOptimise j) → jobOf s j = some x → x.hatch = some h →
      (x.phase = 4 → x.status ≠ 0x01 →
        Responds s h x.status (optimiseResponse x) { s.core with map := { s.core.map with jobs := NMap.erase s.core.map.jobs j } }
          (exec (.mapOptimiseDone h) s)) ∧
      (x.phase = 0 → x.deadline < dtOf s → hasLock s j = false →
        ∃ t, exec (.mapOptimiseDone h) s = .next t ∧ Answered s h 0x20 (optimiseResponse { x.mark 4 with iters := 0 }) t ∧
          jobOf t j = none ∧ t.core.map.data = s.core.map.data ∧ t.core.map.version = s.core.map.version))

/-- The insertion batch: one commit of all it inserts, or a lost commit that leaves the map as it was (R302, R306, R320, R321). -/
def Obligations.InsertionBatchCommits : Prop :=
  ∀ (s : State) (b : Inserting) (pages : List Nat), insertDue s = true →
    b = s.core.map.parcels.foldl (insertParcel s) { data := s.core.map.data, last := s.core.map.lastOf } →
    pages = (b.ids.map posePage ++ (touchedLms s.core.map.data b.data).map lmPage ++
      b.ids.flatMap (fun i => match NMap.get? b.data.kfs i with
        | some k => payloadPages i k
        | none => [])).eraseDups →
    shadowUsed s + mutablePages pages ≤ shadowPages s →
    (b.ids ≠ [] → ∃ t, exec (.insertionBatch false) s = .next t ∧ t.core.map.data = b.data ∧
      t.core.map.version = s.core.map.version + 1 ∧ t.core.map.parcels = [] ∧ t.core.map.search = s.core.map.search ++ b.ids ∧
      t.core.map.current = 1 - s.core.map.current ∧ t.core.map.rootTorn = false ∧
      NMap.getD t.core.obs.counters (mapCtr 0) 0 = NMap.getD s.core.obs.counters (mapCtr 0) 0 + b.ids.length) ∧
    (b.ids ≠ [] → ∃ t, exec (.insertionBatch true) s = .next t ∧ t.core.map.data = s.core.map.data ∧
      t.core.map.version = s.core.map.version ∧ t.core.map.rootTorn = true ∧ t.core.map.parcels = [] ∧
      (∀ g, rootGranule s = some g → NMap.has t.core.tiers.torn g = true) ∧
      NMap.getD t.core.obs.counters (mapCtr 5) 0 = NMap.getD s.core.obs.counters (mapCtr 5) 0 + 1) ∧
    (b.ids = [] → ∀ f, ∃ t, exec (.insertionBatch f) s = .next t ∧ t.core.map.data = s.core.map.data ∧
      t.core.map.version = s.core.map.version ∧ t.core.map.parcels = [])

/-- The start of a map job: it runs once it holds its lock, which the keeper grants where no lock held meets its tiles; until then
MAP_JOB_WAIT counts it once (R307, R489). -/
def Obligations.MapJobsStartUnderTheirLock : Prop :=
  ∀ (s : State) (j : Nat) (x : MapJob), running s = true → s.core.map.inService = true → jobOf s j = some x → x.phase = 0 →
    (hasLock s j = true → ∃ t, exec (.mapJobStart j) s = .next t ∧ jobOf t j = some { x with phase := 1, waited := false } ∧
      t.core.link = s.core.link) ∧
    (∀ q ∈ grantsNow s, hasLock s j = false → dtOf s ≤ x.deadline → isKeeper s = true → s.core.link.joining = none →
      mapOwed s = false → ownLock s j q = true →
      ∃ t r, exec (.mapJobStart j) s = .next t ∧ jobOf t j = some { x with phase := 1, waited := false } ∧
        t.core.link.locks = s.core.link.locks ++ [r] ∧ r ∈ s.core.link.requests ∧ ownLock s j r = true ∧
        ∀ k ∈ s.core.link.locks, ∀ n ∈ k.tiles, n ∉ r.tiles) ∧
    (hasLock s j = false → dtOf s ≤ x.deadline → (isKeeper s = false ∨ ∀ r ∈ grantsNow s, ownLock s j r = false) →
      x.waited = false →
      ∃ t, exec (.mapJobStart j) s = .next t ∧ jobOf t j = some { x with waited := true } ∧ t.core.link = s.core.link ∧
        NMap.getD t.core.obs.counters (mapCtr 6) 0 = NMap.getD s.core.obs.counters (mapCtr 6) 0 + 1)

/-- The commit of a solved job on the keeper: one new version with the solved poses, or, when its owner faults, none (R302, R306,
R324, R326). -/
def Obligations.SolvedJobsCommit : Prop :=
  ∀ (s : State) (j : Nat) (x : MapJob), running s = true → jobOf s j = some x → x.phase = 2 → isKeeper s = true → x.poses ≠ [] →
    shadowUsed s + mutablePages (jobPages s.core.map.data x) ≤ shadowPages s →
    ((x.kind = 2 → switchLow s x = false) →
      (∃ t, exec (.mapCommit j false) s = .next t ∧ t.core.map.version = s.core.map.version + 1 ∧
        t.core.map.data = applyJob s.core.map.data x ∧ (∀ l ∈ t.core.link.locks, ownLock s j l = false)) ∧
      (∃ t, exec (.mapCommit j true) s = .next t ∧ t.core.map.version = s.core.map.version ∧ t.core.map.data = s.core.map.data ∧
        t.core.map.rootTorn = true ∧ (∀ l ∈ t.core.link.locks, ownLock s j l = false))) ∧
    (x.kind = 2 → switchLow s x = false →
      ∃ t, exec (.loopClosureCommit j) s = .next t ∧ t.core.map.version = s.core.map.version + 1 ∧
        t.core.map.data = applyJob s.core.map.data x) ∧
    (x.kind = 2 → switchLow s x = true → x.hatch = none →
      ∃ t, exec (.loopClosureCommit j) s = .next t ∧ t.core.map.version = s.core.map.version ∧ t.core.map.data = s.core.map.data ∧
        jobOf t j = none ∧ NMap.getD t.core.obs.counters (mapCtr 12) 0 = NMap.getD s.core.obs.counters (mapCtr 12) 0 + 1)

/-- The search of an inserted keyframe, and a map channel's place search for a relocalisation (R311, R313, R317, R322). -/
def Obligations.SearchesTakeTheirTurn : Prop :=
  ∀ (s : State), running s = true → s.core.map.inService = true →
    (∀ kf ch g k, (mapChans s).head? = some ch → mapGraphSlot s = some g → NMap.get? s.core.map.data.kfs kf = some k →
      isKeeper s = true → kf ∈ s.core.map.search →
      ∃ t r, exec (.loopClosureSearch kf) s = .next t ∧ t.core.map.search = s.core.map.search.filter (· != kf) ∧
        t.core.map.data = s.core.map.data ∧ t.core.map.version = s.core.map.version ∧
        (chanAt t ch).requests = (chanAt s ch).requests ++ [r] ∧ r.kind = .placeSearch ∧ r.closure = some kf ∧ r.place = k.place) ∧
    (∀ ch r, nextRequest (chanAt s ch) .placeSearch = some r → r.closure ≠ none →
      ∀ q ∈ (chanAt s ch).requests, q.kind = .placeSearch → q.closure ≠ none) ∧
    (∀ ch r x, nextRequest (chanAt s ch) .placeSearch = some r → r.closure = none → (chanAt s ch).inService = true →
      (chanAt s ch).mapRole = true → (chanAt s ch).split = none → (chanAt s ch).splitWaits = [] → instAt s r.ch r.inst = some x →
      let cs := (placeCands (mapPar s 0 2) (mapPar s 2 1) r.place (searchSet (mapAt s x.mapVersion) r.prior) []).take (mapPar s 3 1)
      ∃ t, exec (.mapRequest ch .placeSearch) s = .next t ∧
        (cs = [] → (chanAt t ch).requests = (chanAt s ch).requests.erase r ∧ ∃ y, instAt t r.ch r.inst = some y ∧ y.relocOut = some []) ∧
        (cs ≠ [] → (chanAt t ch).requests =
          (chanAt s ch).requests.erase r ++ [{ r with kind := .descriptorMatch, cands := cs }]))

/-! ### Crates and graphs -/

/-- CRATE_LOAD, its end and CRATE_UNLOAD (R449, R450, R112). -/
def Obligations.CrateCommandsTakeEffect : Prop :=
  ∀ (s : State) (h : Nat) (p : List Byte),
    (takes s h 0x0501 p = true → fieldAt p 0 1 ≤ 31 → held (taken s h) (.crate (fieldAt p 0 1)) = false →
      (∀ c, crateAt s (fieldAt p 0 1) = some c → c.state = 2) →
      Accepts s h (.crateLoad (fieldAt p 0 1) (fieldAt p 8 8) (fieldAt p 16 8)) s.core (exec (.crateLoad h) s)) ∧
    (∀ n addr len data, h < 64 → running s = true → jobAt s h = some (.crateLoad n addr len) →
      let img := padTo len data
      let hd := bytesAt img 0 512
      ∃ t, exec (.crateLoadDone h data) s = .next t ∧ Out.dmaRead addr len ∈ t.out ∧ t.core.work.graphs = s.core.work.graphs ∧
        (∀ st, crateHeadStatus s hd len = some st → Answered s h st [] t ∧ t.core.work = s.core.work) ∧
        (∀ b ps u, crateHeadStatus s hd len = none → crateAt s n = none → crateBody hd (img.drop 512) = some b →
          allocPages ((crateBodyLen hd + 65535) / 65536) { near := true, frame := 0, hint := if crateUsed s n then 1 else 0, use := 1, obj := n }
            (s.emit (.dmaRead addr len)) = some (ps, u) →
          Answered s h 0x00 ((crateMeasure hd).take 16) t ∧
          crateAt t n = some { header := bytesAt hd 0 0xB8, measurement := crateMeasure hd, body := b, state := 1, pages := ps })) ∧
    (takes s h 0x0502 p = true → fieldAt p 0 1 ≤ 31 → held (taken s h) (.crate (fieldAt p 0 1)) = false →
      crateUsed s (fieldAt p 0 1) = false →
      ∃ t, exec (.crateUnload h) s = .next t ∧ Answered s h 0x00 [] t ∧
        t.core.work = { s.core.work with crates := NMap.erase s.core.work.crates (fieldAt p 0 1) } ∧ crateAt t (fieldAt p 0 1) = none)

/-- GRAPH_LOAD and GRAPH_UNLOAD with their ends (R155, R157, R158). -/
def Obligations.GraphCommandsTakeEffect : Prop :=
  ∀ (s : State) (h : Nat) (p : List Byte),
    (takes s h 0x0504 p = true → fieldAt p 0 1 ≤ 63 → fieldAt p 1 1 ≠ 0 → 64 ≤ fieldAt p 16 4 → fieldAt p 16 4 ≤ 16777216 →
      held (taken s h) (.graph (fieldAt p 0 1)) = false → slotTaken s (fieldAt p 0 1) (fieldAt p 1 1) = false →
      Accepts s h (.graphLoad (fieldAt p 0 1) (fieldAt p 1 1) (fieldAt p 8 8) (fieldAt p 16 4)) s.core (exec (.graphLoad h) s)) ∧
    (∀ n mask addr len data, h < 64 → running s = true → jobAt s h = some (.graphLoad n mask addr len) →
      let img := padTo len data
      (graphOk s img = true →
        (∀ c ∈ bitsSet mask 8, c ∈ serviceChans s ∧ graphBlocks (graphOf img) ≤ freeBlocks s c) →
        ∃ t, exec (.graphLoadDone h data) s = .next t ∧ Answered s h 0x00 [] t ∧
          (∀ c ∈ bitsSet mask 8, graphAt t c n = some { graph := graphOf img, mask := mask }) ∧
          t.core.work = { s.core.work with graphs := t.core.work.graphs }) ∧
      (graphOk s img = false →
        Responds (s.emit (.dmaRead addr len)) h 0x11 [] s.core (exec (.graphLoadDone h data) s))) ∧
    (takes s h 0x0505 p = true → fieldAt p 0 1 ≤ 63 → fieldAt p 1 1 ≠ 0 → held (taken s h) (.graph (fieldAt p 0 1)) = false →
      (∀ e ∈ s.core.work.streams, e.2.graph ≠ fieldAt p 0 1) →
      ∃ t, exec (.graphUnload h) s = .next t ∧ Answered s h 0x01 [] t ∧
        jobAt t h = some (.graphUnload (fieldAt p 0 1) (fieldAt p 1 1)) ∧
        ∀ c ∈ unloadChans s (fieldAt p 0 1) (fieldAt p 1 1), residentAt t c (fieldAt p 0 1) = none) ∧
    (∀ g mask, h < 64 → jobAt s h = some (.graphUnload g mask) →
      (∀ c x, c < 8 → mask.testBit c = true → graphAt s c g = some x → x.resident = false → graphBusy s c g = false) →
      ∃ t, exec (.graphUnloadDone h) s = .next t ∧ Answered s h 0x00 [] t ∧
        ∀ c x, c < 8 → mask.testBit c = true → graphAt s c g = some x → x.resident = false → graphAt t c g = none)

/-! ### Time -/

/-- The commands on air time, PTP ports, the event table, the pins and the launch slots (R364, R373, R375 to R379, R383, R387). -/
def Obligations.TimeCommandsTakeEffect : Prop :=
  ∀ (s : State) (h : Nat) (p : List Byte),
    (takes s h 0x0602 p = true → fieldAt p 0 1 ≤ 3 → epochOk (intAt p 8 8) = true →
      ∃ t, exec (.airEpochSet h) s = .next t ∧ Answered s h 0x00 [] t ∧ t.core.air.mu = fieldAt p 0 1 ∧ t.core.air.epoch = intAt p 8 8 ∧
        (risingKeys s.core.air.events = true → t.core.air.events = []) ∧ (∀ b ∈ t.core.scu.bindings, b.2.ref = none)) ∧
    (takes s h 0x0603 p = true → fieldAt p 0 1 ≤ 1 → ptpFieldOk p = true → s.core.air.ports.length = 2 →
      rolesOk (fieldAt p 1 1) (ptpPortAt s (1 - fieldAt p 0 1)).role = true →
      ∃ t, exec (.ptpPortSet h) s = .next t ∧ Answered s h 0x00 [] t ∧ (ptpPortAt t (fieldAt p 0 1)).role = fieldAt p 1 1 ∧
        ptpPortAt t (1 - fieldAt p 0 1) = ptpPortAt s (1 - fieldAt p 0 1) ∧
        (fieldAt p 1 1 = 0 → (ptpPortAt t (fieldAt p 0 1)).state = .disabled) ∧
        (fieldAt p 1 1 ≠ 0 → (ptpPortAt t (fieldAt p 0 1)).domain = fieldAt p 2 1 ∧
          (ptpPortAt t (fieldAt p 0 1)).stepMode = fieldAt p 3 1 ∧ (ptpPortAt t (fieldAt p 0 1)).asym = intAt p 4 4)) ∧
    (∀ i k, takes s h 0x0604 p = true → fieldAt p 0 2 ≤ 1023 → fieldAt p 2 1 ≤ 9 → fieldAt p 3 1 < 2 ^ s.core.air.mu →
      fieldAt p 4 1 ≤ 13 → 1 ≤ fieldAt p 5 1 → fieldAt p 5 1 ≤ 6 → (fieldAt p 6 2 = 0 ∨ k ≤ 10 ∧ fieldAt p 6 2 = 2 ^ k) →
      fieldAt p 8 4 < 40000000 → argOk (fieldAt p 5 1) (fieldAt p 12 4) = true →
      firstOf (actionChecks s (fieldAt p 5 1) (fieldAt p 12 4)) = none → NMap.lowestFree s.core.air.events 65536 = some i →
      let next := firstInstant s (fieldAt p 0 2) (fieldAt p 2 1) (fieldAt p 3 1) (fieldAt p 4 1) (fieldAt p 6 2) (fieldAt p 8 4)
      (∀ x, x < 1024 → occupies (sfnOf s next) (fieldAt p 6 2) x = true →
        (s.core.air.events.filter (fun e => occupies e.2.sfn e.2.period x)).length < 1024) →
      Responds s h 0x00 (leBytes 2 i)
        (s.core.withEvents (NMap.set s.core.air.events i
          { next := next, period := fieldAt p 6 2, sfn := sfnOf s next, action := fieldAt p 5 1, arg := fieldAt p 12 4 }))
        (exec (.eventAdd h) s)) ∧
    (∀ e, takes s h 0x0605 p = true → NMap.get? s.core.air.events (fieldAt p 0 2) = some e →
      ∃ t, exec (.eventRemove h) s = .next t ∧ Answered s h 0x00 [] t ∧
        t.core.air.events = NMap.erase s.core.air.events (fieldAt p 0 2) ∧
        (e.action = 5 → NMap.get? t.core.air.launch (64 * bits e.arg 8 8 + bits e.arg 5 0) = none) ∧
        (e.action ≠ 5 → t.core.air.launch = s.core.air.launch)) ∧
    (takes s h 0x0606 p = true → fieldAt p 0 1 ≤ 3 → fieldAt p 1 1 ≤ 3 →
      ((s.core.air.tev.getD (fieldAt p 0 1) {}).mode = 3 → fieldAt p 1 1 ≠ 3 →
        ∀ e ∈ s.core.air.events, e.2.action = 6 → bits e.2.arg 1 0 ≠ fieldAt p 0 1) →
      (fieldAt p 1 1 = (s.core.air.tev.getD (fieldAt p 0 1) {}).mode → Responds s h 0x00 [] s.core (exec (.tevSet h) s)) ∧
      (fieldAt p 1 1 ≠ (s.core.air.tev.getD (fieldAt p 0 1) {}).mode →
        Responds (if fieldAt p 1 1 = 3 then s.emit (.tevEdge (fieldAt p 0 1) (dtQuarter s) false) else s) h 0x00 []
          { s.core with air := { s.core.air with tev := setAt s.core.air.tev (fieldAt p 0 1) { mode := fieldAt p 1 1 } } }
          (exec (.tevSet h) s))) ∧
    (∀ data, takes s h 0x0607 p = true → fieldAt p 0 1 ≤ 1 → fieldAt p 1 1 ≤ 63 → 64 ≤ fieldAt p 2 2 → fieldAt p 2 2 ≤ 1518 →
      NMap.has s.core.air.launch (64 * fieldAt p 0 1 + fieldAt p 1 1) = false →
      Responds (s.emit (.dmaRead (fieldAt p 8 8) (fieldAt p 2 2 - 4))) h 0x00 []
        (s.core.withLaunch (NMap.set s.core.air.launch (64 * fieldAt p 0 1 + fieldAt p 1 1) (padTo (fieldAt p 2 2 - 4) data)))
        (exec (.launchQueue h data) s))

/-! ### The sample conditioning unit -/

/-- The 0x07xx commands and the end of a chain's stop (R331 to R334, R348, R351, R353). -/
def Obligations.RadioCommandsTakeEffect : Prop :=
  ∀ (s : State) (h : Nat) (p : List Byte), s.hw.is968 = true →
    (takes s h 0x0701 p = true → fieldAt p 0 1 ≤ 31 → fieldAt p 1 1 ≤ 1 → fieldAt p 2 1 ≤ 2 → fieldAt p 4 1 ≤ 15 → fieldAt p 5 1 ≤ 15 →
      fieldAt p 6 1 ≤ 15 → 1 ≤ fieldAt p 7 1 → fieldAt p 7 1 ≤ 96 → held (taken s h) (.chain (fieldAt p 0 1)) = false →
      (scuChain s (fieldAt p 0 1)).run = false →
      Responds s h 0x00 []
        (s.core.withChain (fieldAt p 0 1) (fun x =>
            { x with port := fieldAt p 1 1, dcFreeze := fieldAt p 2 1, shifts := [fieldAt p 4 1, fieldAt p 5 1, fieldAt p 6 1],
                     fir := if x.fir.length = fieldAt p 7 1 then x.fir else 0x7FFF :: List.replicate (fieldAt p 7 1 - 1) 0,
                     dcI := 0, dcQ := 0 })) (exec (.scuChainSet h) s)) ∧
    (∀ data, takes s h 0x0702 p = true → fieldAt p 0 1 ≤ 31 →
      (fieldAt p 1 1 = 4 ∧ fieldAt p 2 1 = (scuChain s (fieldAt p 0 1)).fir.length ∨
        1 ≤ fieldAt p 1 1 ∧ fieldAt p 1 1 ≤ 3 ∧ fieldAt p 2 1 ≤ 32) →
      held (taken s h) (.chain (fieldAt p 0 1)) = false → (scuChain s (fieldAt p 0 1)).run = false →
      let taps := (List.range (fieldAt p 2 1)).map (fun i => intAt (padTo (2 * fieldAt p 2 1) data) (2 * i) 2)
      Responds (if fieldAt p 2 1 = 0 then s else s.emit (.dmaRead (fieldAt p 8 8) (2 * fieldAt p 2 1))) h 0x00 []
        (s.core.withChain (fieldAt p 0 1) (fun x =>
            if fieldAt p 1 1 = 4 then { x with fir := taps } else { x with dec := setAt x.dec (fieldAt p 1 1 - 1) taps }))
        (exec (.scuCoeffLoad h data) s)) ∧
    (takes s h 0x0703 p = true → fieldAt p 0 1 ≤ 31 → fieldAt p 2 1 ≤ 1 → held (taken s h) (.chain (fieldAt p 0 1)) = false →
      (fieldAt p 1 1 = 1 → ((scuChain s (fieldAt p 0 1)).run = false ∨ (scuChain s (fieldAt p 0 1)).owner = fieldAt p 2 1) →
        Responds s h 0x00 []
          (s.core.withChain (fieldAt p 0 1) (fun x =>
              { x with run := true, owner := fieldAt p 2 1 })) (exec (.scuChainRun h) s)) ∧
      (fieldAt p 1 1 = 0 → (scuChain s (fieldAt p 0 1)).owner = fieldAt p 2 1 → s.core.scu.chains.length = 32 →
        ∃ t, exec (.scuChainRun h) s = .next t ∧ (ctlAt t h).own = true ∧ jobAt t h = some (.chainStop (fieldAt p 0 1)) ∧
          scuChain t (fieldAt p 0 1) = { scuChain s (fieldAt p 0 1) with stopping := true })) ∧
    (∀ c, h < 64 → jobAt s h = some (.chainStop c) →
      Responds s h 0x00 []
        (s.core.withChain c (fun x => { x with run := false, stopping := false }))
        (exec (.chainStopDone h) s)) ∧
    (∀ i, takes s h 0x0704 p = true → bindOk s (requestIn s h p) = true →
      (∀ b ∈ s.core.scu.bindings, bindMeets b.2 (bindingOf (requestIn s h p)) = false) →
      NMap.lowestFree s.core.scu.bindings 16384 = some i →
      Responds s h 0x00 (leBytes 2 i)
        (s.core.withBindings (NMap.set s.core.scu.bindings i (bindingOf (requestIn s h p))))
        (exec (.soundingBind h) s)) ∧
    (takes s h 0x0705 p = true → fieldAt p 0 2 < 16384 →
      ∃ t, exec (.soundingUnbind h) s = .next t ∧ Answered s h 0x00 [] t ∧
        t.core.scu.bindings = NMap.erase s.core.scu.bindings (fieldAt p 0 2) ∧ t.core.scu.chains = s.core.scu.chains ∧
        t.core.scu.arrays = s.core.scu.arrays ∧ t.core.work = s.core.work) ∧
    (∀ data, takes s h 0x0706 p = true → fieldAt p 0 1 ≤ 7 → 1 ≤ fieldAt p 1 1 → fieldAt p 1 1 ≤ 32 →
      unitQuat ((List.range 4).map (fun i => intAt p (0x14 + 2 * i) 2)) = true →
      let table := padTo (16 + 32 * fieldAt p 1 1) data
      let x := antennaOf (requestIn s h p) table
      (fieldAt table 2 1 = fieldAt p 1 1 → eaxcUnique s (fieldAt p 0 1) x = true →
        ∃ t, exec (.antennaSet h data) s = .next t ∧ Answered s h 0x00 [] t ∧
          t.core.scu.arrays = setAt s.core.scu.arrays (fieldAt p 0 1) x ∧
          t.core.scu.quarEnd = setAt s.core.scu.quarEnd (fieldAt p 0 1) none ∧
          ∀ b ∈ t.core.scu.bindings, ∀ y, b.2.ref = some y → y.array ≠ fieldAt p 0 1) ∧
      ((fieldAt table 2 1 ≠ fieldAt p 1 1 ∨ eaxcUnique s (fieldAt p 0 1) x = false) →
        Responds (s.emit (.dmaRead (fieldAt p 0x20 8) (16 + 32 * fieldAt p 1 1))) h 0x11 [] s.core (exec (.antennaSet h data) s)))

/-! ### Security -/

/-- Contexts: their creation by key agreement, their destruction and its end (R454, R455, R457). -/
def Obligations.ContextCommandsTakeEffect : Prop :=
  ∀ (s : State) (h : Nat) (p : List Byte),
    (∀ data c, takes s h 0x0803 p = true → fieldAt p 8 8 % 256 = 0 →
      (∀ g ∈ bitsSet (fieldAt p 8 8) 64, (ctlAt s g).assigned = 0) → freeContext s = some c → s.core.hat.ctl.length = 64 →
      let b := padTo 256 data
      ∃ t, exec (.contextCreate h data) s = .next t ∧ Out.dmaRead (fieldAt p 0 8) 256 ∈ t.out ∧ t.free = s.free + 1 ∧
        (agreementOk b = false → Answered s h 0x11 [] t ∧ t.core.sec = s.core.sec) ∧
        (∀ a, agreementOk b = true →
          agree (bytesAt b 0x88 (fieldAt b 6 2)) (serialBytes s) (pointAt b 8) (pointAt b 0x48) (Config.noise s.free % (sm2N - 1) + 1) =
            some a →
          Answered s h 0x00 (leBytes 1 c) t ∧ (∀ g ∈ bitsSet (fieldAt p 8 8) 64, (ctlAt t g).assigned = c) ∧
          NMap.get? t.core.sec.contexts c =
            some { digest := sm3 (bytesAt b 8 64), kIn := a.kIn, kOut := a.kOut, created := dtOf s } ∧
          NMap.get? t.core.sec.keys (256 * c + 1) = some (keySet s.core.sec.bootNonce c 1))) ∧
    (∀ x, takes s h 0x0804 p = true → fieldAt p 0 1 ≠ 0 → NMap.get? s.core.sec.contexts (fieldAt p 0 1) = some x → x.dying = false →
      held (taken s h) (.ctx (fieldAt p 0 1)) = false →
      ∃ t, exec (.contextDestroy h) s = .next t ∧ Answered s h 0x01 [] t ∧ jobAt t h = some (.contextDestroy (fieldAt p 0 1)) ∧
        NMap.get? t.core.sec.contexts (fieldAt p 0 1) = some { x with dying := true, scrubbed := false }) ∧
    (∀ c, h < 64 → jobAt s h = some (.contextDestroy c) → (NMap.getD s.core.sec.contexts c {}).scrubbed = true → s.core.sys.scrub = false →
      ∃ t, exec (.contextDestroyDone h) s = .next t ∧ Answered s h 0x00 [] t ∧ NMap.get? t.core.sec.contexts c = none ∧
        (∀ e ∈ t.core.sec.keys, e.1 / 256 ≠ c) ∧ (c ≠ 0 → ∀ g, (ctlAt t g).assigned ≠ c))

/-- The mode switches and key rotation, with the ends of their work (R443, R444, R463). -/
def Obligations.ModeAndKeyCommandsTakeEffect : Prop :=
  ∀ (s : State) (h : Nat) (p : List Byte),
    (takes s h 0x0805 p = true → s.core.sys.conf = true → Responds s h 0x00 [] s.core (exec (.confEnter h) s)) ∧
    (takes s h 0x0805 p = true → s.core.sys.conf = false →
      ∃ t, exec (.confEnter h) s = .next t ∧ Answered s h 0x01 [] t ∧ jobAt t h = some .confEnter ∧ t.core.sys.conf = false) ∧
    (takes s h 0x0806 p = true → s.core.sys.conf = false → Responds s h 0x00 [] s.core (exec (.confExit h) s)) ∧
    (takes s h 0x0806 p = true → s.core.sys.conf = true →
      ∃ t, exec (.confExit h) s = .next t ∧ Answered s h 0x01 [] t ∧ jobAt t h = some .confExit ∧ t.core.sys.conf = true) ∧
    (h < 64 → jobAt s h = some .confEnter → s.core.sys.conf = false → s.core.sec.scrubFor = some .mode → s.core.sys.scrub = false →
      ∃ t, exec (.modeSwitchDone h) s = .next t ∧ Answered s h 0x00 [] t ∧ t.core.sys.conf = true ∧ t.core.obs.trace = false ∧
        t.core.sec.holder = 0 ∧ t.core.sec.turnBegan = dtOf s) ∧
    (h < 64 → jobAt s h = some .confExit → s.core.sys.conf = true → s.core.sec.scrubFor = some .mode → s.core.sys.scrub = false →
      ∃ t, exec (.modeSwitchDone h) s = .next t ∧ Answered s h 0x00 [] t ∧ t.core.sys.conf = false) ∧
    (∀ x, takes s h 0x0807 p = true → ((reqOf s h).ctx = 0 ∨ fieldAt p 0 1 = (reqOf s h).ctx) →
      NMap.get? s.core.sec.contexts (fieldAt p 0 1) = some x → x.sweep = none → held (taken s h) (.ctx (fieldAt p 0 1)) = false →
      ∃ t, exec (.keyRotate h) s = .next t ∧ Answered s h 0x01 [] t ∧ jobAt t h = some (.keyRotate (fieldAt p 0 1)) ∧
        NMap.get? t.core.sec.contexts (fieldAt p 0 1) =
          some { x with gen := x.gen % 255 + 1, prevLive := true, sweep := some 0, lastSweep := dtOf s } ∧
        NMap.get? t.core.sec.keys (256 * fieldAt p 0 1 + (x.gen % 255 + 1)) =
          some (keySet s.core.sec.bootNonce (fieldAt p 0 1) (x.gen % 255 + 1))) ∧
    (∀ c, h < 64 → jobAt s h = some (.keyRotate c) → (NMap.getD s.core.sec.contexts c {}).sweep = none →
      Responds s h 0x00 (leBytes 1 (NMap.getD s.core.sec.contexts c {}).gen) s.core (exec (.keyRotateDone h) s)) ∧
    (∀ c x f, running s = true → NMap.get? s.core.sec.contexts c = some x → x.sweep = some f → x.lastSweep + 1000000 ≤ dtOf s →
      let ps := sweepPages s c x.gen (rangePages s - f) f 128
      ∃ t, exec (.generationSweep c) s = .next t ∧
        (ps.length < 128 → NMap.get? t.core.sec.contexts c = some { x with sweep := none, prevLive := false }) ∧
        (128 ≤ ps.length → NMap.get? t.core.sec.contexts c = some { x with sweep := some (ps.getLastD 0 + 1), lastSweep := dtOf s }) ∧
        (ps = [] → t.core.tiers = s.core.tiers))

/-! ### Observation -/

/-- TRACE_SET, the SYNC of each millisecond, the counter latch, the write-one-to-clear of a sticky error register, LOFT_STORE
(R519, R526, R528, R539, R540, R542). -/
def Obligations.ObservationTakesEffect : Prop :=
  ∀ (s : State) (h : Nat) (p : List Byte),
    (takes s h 0x0902 p = true → s.core.sys.conf = false →
      (fieldAt p 4 1 = 0 →
        Responds s h 0x00 [] { s.core with obs := { s.core.obs with trace := false, mask := 0 } } (exec (.traceSet h) s)) ∧
      (fieldAt p 4 1 ≠ 0 → s.core.obs.trace = true →
        Responds s h 0x00 [] { s.core with obs := { s.core.obs with mask := fieldAt p 0 4 } } (exec (.traceSet h) s)) ∧
      (fieldAt p 4 1 ≠ 0 → s.core.obs.trace = false →
        Responds s h 0x00 [] { s.core with obs := { s.core.obs with trace := true, mask := fieldAt p 0 4, lastSync := dtOf s } }
          (exec (.traceSet h) s))) ∧
    (takes s h 0x0902 p = true → s.core.sys.conf = true → Responds s h 0x15 [] s.core (exec (.traceSet h) s)) ∧
    (running s = true → s.core.obs.trace = true → s.core.sys.conf = false → s.core.obs.lastSync + 1000000 ≤ dtOf s →
      ∃ t, exec .traceSync s = .next t ∧ t.out = s.out ++ s.core.obs.buf.map Out.trace ∧ t.core.obs.lastSync = dtOf s ∧
        t.core.obs.lost = 0 ∧ t.core.obs.buf.length = if s.core.obs.lost = 0 then 1 else 2) ∧
    (running s = true → s.core.sys.conf = true → s.core.obs.latchDt + 10000000 ≤ dtOf s →
      ∃ t, exec .counterLatch s = .next t ∧ t.core.obs.latchDt = dtOf s / 10000000 * 10000000 ∧
        t.core.obs.counters = s.core.obs.counters ∧ NMap.getD t.core.obs.latch (tierCtr 8) 0 = freeNear s / 4096 * 4096 ∧
        ∀ a, a ≠ tierCtr 8 → NMap.getD t.core.obs.latch a 0 = NMap.getD s.core.obs.counters a 0 / 4096 * 4096) ∧
    (∀ i v, running s = true → errPresent s i = true → s.err.regs.length = 16 →
      ∃ t r, exec (.errClear i v) s = .next t ∧ r = t.err.regs.getD i {} ∧ t.err.history = s.err.history ∧ t.core = s.core ∧
        (∀ j, j ≠ i → t.err.regs.getD j {} = s.err.regs.getD j {}) ∧
        (∀ k, k < 8 → (i = 4 → k ≤ 2) → r.bits.getLsbD k = ((s.err.regs.getD i {}).bits.getLsbD k && !v.testBit k)) ∧
        (8 ≤ i → v.testBit 7 = true → r.bits &&& 0x7700#32 = 0) ∧
        (r.bits = 0 → r.firstDt = 0 ∧ r.firstInfo = 0) ∧
        (r.bits ≠ 0 → r.firstDt = (s.err.regs.getD i {}).firstDt ∧ r.firstInfo = (s.err.regs.getD i {}).firstInfo)) ∧
    (∀ data, takes s h 0x0A03 p = true → fieldAt p 0 1 < 32 →
      (∃ t, exec (.loftStore h data true) s = .next t ∧ Answered s h 0x00 (leBytes 4 (NMap.getD s.loft.writes (fieldAt p 0 1) 0 + 1)) t ∧
        loftPage t (fieldAt p 0 1) = padTo 4096 data ∧ (∀ q, q ≠ fieldAt p 0 1 → loftPage t q = loftPage s q) ∧
        NMap.getD t.loft.writes (fieldAt p 0 1) 0 = NMap.getD s.loft.writes (fieldAt p 0 1) 0 + 1) ∧
      (s.err.regs.length = 16 →
        ∃ t, exec (.loftStore h data false) s = .next t ∧ Answered s h 0x30 [] t ∧ t.loft.pages = s.loft.pages ∧
          (t.err.regs.getD 0 {}).bits.getLsbD 10 = true))

/-! ### Registers of BAR0 -/

/-- Writes of hatch bytes and of HATCH_CTLn, and the end of a request's patience (R17, R84 to R86, R89, R90). -/
def Obligations.HatchRegistersTakeEffect : Prop :=
  ∀ (s : State), running s = true →
    (∀ off v, off < 0x4000 → off % 4 = 0 →
      ((ctlAt s (off / 256)).own = false → (ctlAt s (off / 256)).pend = false →
        exec (.hatchWrite off 4 v) s = .next (s.modHat (fun a => { a with mem := Mem.write a.mem off (leBytes 4 (v % 2 ^ 32)) })) ∧
        (off % 8 = 0 → exec (.hatchWrite off 8 v) s = .next (s.modHat (fun a =>
          { a with mem := Mem.write (Mem.write a.mem off (leBytes 4 (v % 2 ^ 32))) (off + 4) (leBytes 4 (v / 2 ^ 32)) })))) ∧
      (((ctlAt s (off / 256)).own = true ∨ (ctlAt s (off / 256)).pend = true) →
        exec (.hatchWrite off 4 v) s = .next (s.modSys (fun y => { y with hatchProto := true })))) ∧
    (∀ off w v, off < 0x4000 → (w ≠ 4 ∧ w ≠ 8 ∨ off % w ≠ 0) →
      (hatchShut s (off / 256) = false → hatchShut s ((off + w - 1) / 256) = false → exec (.hatchWrite off w v) s = .next s) ∧
      ((hatchShut s (off / 256) = true ∨ hatchShut s ((off + w - 1) / 256) = true) →
        exec (.hatchWrite off w v) s = .next (s.modSys (fun y => { y with hatchProto := true })))) ∧
    (∀ h v, h < 64 → s.core.hat.ctl.length = 64 →
      ((ctlAt s h).own = false → (ctlAt s h).pend = false →
        ∃ t, exec (.ownSet h v) s = .next t ∧ ctlAt t h = { ctlAt s h with own := true, vector := bits v 13 8 } ∧
          (∃ a b, hatQueue s h = a ++ b ∧ hatQueue t h = a ++ h :: b ∧
            ∀ g ∈ b, h < g ∧ NMap.get? s.core.hat.ownAt g = some s.core.time.acc.toNat) ∧ (∀ g, g ≠ h → ctlAt t g = ctlAt s g) ∧
          t.core.hat.mem = s.core.hat.mem ∧ t.core.hat.done = s.core.hat.done) ∧
      (((ctlAt s h).own = true ∨ (ctlAt s h).pend = true) →
        exec (.ownSet h v) s = .next (s.modSys (fun y => { y with hatchProto := true }))) ∧
      (∃ t, exec (.vectorWrite h v) s = .next t ∧ ctlAt t h = { ctlAt s h with vector := bits v 13 8 } ∧
        (∀ g, g ≠ h → ctlAt t g = ctlAt s g) ∧ t.core.hat.mem = s.core.hat.mem)) ∧
    (∀ h, h < 64 → (ctlAt s h).own = true → (h ∈ s.core.hat.queueM ∨ h ∈ s.core.hat.queueG) → (reqOf s h).patience ≠ 0 →
      (reqOf s h).patience < dtOf s → Responds s h 0x16 [] s.core (exec (.patienceExpiry h) s))

/-- Reads with a side effect: TIME_DT, MEAS_SEQ, LINK_MEAS_SEQ and the halves of 64-bit registers (R16, R358, R367, R501). -/
def Obligations.LatchingReads : Prop :=
  ∀ (s : State), running s = true →
    (∃ t, exec (.timeDtRead .lower) s = .next t ∧ t.core.time.fracLatch = BitVec.ofNat 32 (dtFrac s) ∧
      t.core.time.airLatch = BitVec.ofNat 64 (airWord (airNow s)) ∧
      t.out = s.out ++ [Out.readData (leBytes 4 (dtOf s % 2 ^ 32)) false] ∧
      NMap.get? t.core.ring.latch 0x20000 = some (BitVec.ofNat 32 (dtOf s / 2 ^ 32)) ∧ t.core.time.acc = s.core.time.acc) ∧
    (∀ u, NMap.get? s.core.ring.latch 0x20000 = some u →
      ∃ t, exec (.timeDtRead .upper) s = .next t ∧ t.out = s.out ++ [Out.readData (leBytes 4 u.toNat) false] ∧
        NMap.get? t.core.ring.latch 0x20000 = none ∧ t.core.time = s.core.time) ∧
    (∃ t, exec (.timeDtRead .full) s = .next t ∧ t.out = s.out ++ [Out.readData (leBytes 8 (dtOf s)) false] ∧
      t.core.time.fracLatch = BitVec.ofNat 32 (dtFrac s) ∧ t.core.ring = s.core.ring) ∧
    (∃ t, exec .measSeqRead s = .next t ∧ t.out = s.out ++ [Out.readData (leBytes 4 s.core.time.measSeq.toNat) false] ∧
      t.core.time = { s.core.time with measLatch := [s.core.time.measOffset, s.core.time.measPath, s.core.time.measT2] }) ∧
    (∃ t, exec .linkMeasSeqRead s = .next t ∧ t.out = s.out ++ [Out.readData (leBytes 4 s.core.link.seq.toNat) false] ∧
      t.core.link = { s.core.link with latch := [s.core.link.offset, s.core.link.path] }) ∧
    (∀ off w, endpointUp s = true → (w < 4 ∨ off % w ≠ 0) →
      exec (.halfReadLatch ⟨off, w⟩) s = .next (s.emit (.readData (barBytes s off w) false))) ∧
    (endpointUp s = true → ∃ t, exec (.halfReadLatch ⟨0x20040, 8⟩) s = .next t ∧
      t.core.time = { s.core.time with measLatch := [s.core.time.measOffset, s.core.time.measPath, s.core.time.measT2] }) ∧
    (∀ a, endpointUp s = true → a % 8 = 0 → is64 a = true → a ≠ 0x20000 →
      ∃ t, exec (.halfReadLatch ⟨a, 4⟩) s = .next t ∧ t.out = s.out ++ [Out.readData (leBytes 4 (bar0Word s a).toNat) false] ∧
        NMap.get? t.core.ring.latch a = some (bar0Word s (a + 4)) ∧ t.core.time = s.core.time) ∧
    (∀ a u, endpointUp s = true → a % 8 = 0 → is64 a = true → NMap.get? s.core.ring.latch a = some u →
      ∃ t, exec (.halfReadLatch ⟨a + 4, 4⟩) s = .next t ∧ t.out = s.out ++ [Out.readData (leBytes 4 u.toNat) false] ∧
        NMap.get? t.core.ring.latch a = none)

/-- Writes of TIME_INC, TIME_STEP, PPS_CTL and a capture source's status (R16, R359, R361, R388, R389). -/
def Obligations.TimeRegistersTakeEffect : Prop :=
  ∀ (s : State), running s = true →
    (∀ v, ∃ t, exec (.timeIncWrite .full v) s = .next t ∧
      t.core.time = { s.core.time with inc := BitVec.ofNat 64 (max incMin (min incMax (v % 2 ^ 40))) } ∧
      (incMin ≤ v % 2 ^ 40 → v % 2 ^ 40 ≤ incMax → t.err = s.err) ∧
      ((v % 2 ^ 40 < incMin ∨ incMax < v % 2 ^ 40) → s.err.regs.length = 16 → (t.err.regs.getD 1 {}).bits.getLsbD 0 = true)) ∧
    (∀ v, ∃ t, exec (.timeIncWrite .lower v) s = .next t ∧
      t = s.modRing (fun r => { r with held := NMap.set r.held 0x20018 (BitVec.ofNat 32 (v % 2 ^ 32)) })) ∧
    (∀ v u, v < 2 ^ 32 → NMap.get? s.core.ring.held 0x20018 = some u →
      ∃ t, exec (.timeIncWrite .upper v) s = .next t ∧ NMap.get? t.core.ring.held 0x20018 = none ∧
        t.core.time.inc = BitVec.ofNat 64 (max incMin (min incMax ((u.toNat + 2 ^ 32 * v) % 2 ^ 40)))) ∧
    (∀ v, s.core.work.sess = [] → s.core.air.events = [] → s.core.air.launch = [] →
      ∃ t, exec (.timeStepWrite .full v) s = .next t ∧ t.core.time.stepNs = some (asSigned 64 (v % 2 ^ 64)) ∧
        t.core.time.stepped = true ∧ t.core.time.clockQ = .freeRun ∧ t.core.time.acc = s.core.time.acc) ∧
    (∀ v, (s.core.work.sess ≠ [] ∨ s.core.air.events ≠ [] ∨ s.core.air.launch ≠ []) → s.err.regs.length = 16 →
      ∃ t, exec (.timeStepWrite .full v) s = .next t ∧ t.core.time = s.core.time ∧ (t.err.regs.getD 1 {}).bits.getLsbD 1 = true) ∧
    (∀ n v, n < s.core.air.caps.length →
      ∃ t c, exec (.capturePop n v) s = .next t ∧ c = s.core.air.caps.getD n {} ∧
        t.core.air.caps.getD n {} = { c with
          ovf := c.ovf && !v.testBit 8
          q := if v.testBit 16 then c.q.drop 1 else c.q } ∧
        (∀ m, m ≠ n → t.core.air.caps.getD m {} = s.core.air.caps.getD m {})) ∧
    (∀ v, ∃ t, exec (.ppsCtlWrite v) s = .next t ∧
      t.core.air.ppsCtl = BitVec.ofNat 32 (v % 4 + v / 2 ^ 16 % 2 ^ 13 * 2 ^ 16) ∧ t.core.air.ppsLast = some (dtOf s) ∧
      (v % 4 ≠ 1 → v % 4 ≠ 2 → t.core.air.ppsHigh = none) ∧ t.core.time = s.core.time)

/-! ### Mirden links -/

/-- DELTA_INTERVAL_SET, LINK_RETRAIN and the end of its wait (R482, R492). -/
def Obligations.LinkCommandsTakeEffect : Prop :=
  ∀ (s : State) (h : Nat) (p : List Byte),
    (takes s h 0x0B02 p = true → isKeeper s = true → 10 ≤ fieldAt p 0 2 → fieldAt p 0 2 ≤ 10000 →
      Responds s h 0x00 []
        { s.core with link := { s.core.link with deltaMs := fieldAt p 0 2, lastTick := dtOf s / (1000000 * fieldAt p 0 2) } }
        (exec (.deltaIntervalSet h) s)) ∧
    (takes s h 0x0B02 p = true → isKeeper s = false → Responds s h 0x15 [] s.core (exec (.deltaIntervalSet h) s)) ∧
    (takes s h 0x0B02 p = true → isKeeper s = true → (fieldAt p 0 2 < 10 ∨ 10000 < fieldAt p 0 2) →
      Responds s h 0x11 [] s.core (exec (.deltaIntervalSet h) s)) ∧
    (takes s h 0x0B03 p = true → fieldAt p 0 1 < nMirden s → (mpAt s (fieldAt p 0 1)).state = .held →
      Responds s h 0x15 [] s.core (exec (.linkRetrain h) s)) ∧
    (takes s h 0x0B03 p = true → fieldAt p 0 1 < nMirden s → (mpAt s (fieldAt p 0 1)).state ≠ .held → s.core.link.ports.length = 4 →
      ∃ t, exec (.linkRetrain h) s = .next t ∧ (mpAt t (fieldAt p 0 1)).state = .training ∧ (mpAt t (fieldAt p 0 1)).hello = none ∧
        (mpAt t (fieldAt p 0 1)).since = dtOf s ∧
        ((∀ e ∈ s.core.map.jobs, e.2.phase ≠ 3) →
          Answered s h 0x01 [] t ∧ jobAt t h = some (.linkRetrain (fieldAt p 0 1) (dtOf s + 1000000000)))) ∧
    (∀ n due, h < 64 → running s = true → jobAt s h = some (.linkRetrain n due) → due < dtOf s →
      Responds s h (if (mpAt s n).state = .up then 0x00 else 0x20) (leBytes 1 (mpCode (mpAt s n).state)) s.core
        (exec (.linkRetrainTimeout h) s))

/-- The states of a port: a signal begins training, training ends, a lost signal and a failure (R480, R481). -/
def Obligations.PortsTrainAndFall : Prop :=
  ∀ (s : State) (n : Nat), n < nMirden s → s.core.link.ports.length = 4 →
    (linksRun s = true → (mpAt s n).state = .absent →
      ∃ t, exec (.mpSignalPoll n true) s = .next t ∧ mpAt t n = { mpAt s n with state := .training, since := dtOf s } ∧
        ∀ m, m ≠ n → mpAt t m = mpAt s m) ∧
    exec (.mpSignalPoll n false) s = .next s ∧
    (linksRun s = true → (mpAt s n).state = .failed → (mpAt s n).since + 1000000000 ≤ dtOf s →
      ∃ t, exec (.mpRetryTimer n) s = .next t ∧ mpAt t n = { mpAt s n with state := .training, since := dtOf s } ∧
        ∀ m, m ≠ n → mpAt t m = mpAt s m) ∧
    (∀ hello, linksRun s = true → (mpAt s n).state = .training → (mpAt s n).trained = false →
      ((helloOk s hello = false ∨ hello.devid = s.core.sys.devid ∨ hello.authentic = false) →
        ∃ t, exec (.mpTrainingEnd n hello) s = .next t ∧ (mpAt t n).state = .failed ∧ (mpAt t n).since = dtOf s ∧
          NMap.getD t.core.obs.counters (linkPortCtr n 0) 0 = NMap.getD s.core.obs.counters (linkPortCtr n 0) 0 + 1) ∧
      (helloOk s hello = true → hello.devid ≠ s.core.sys.devid → hello.authentic = true →
        ∃ t, exec (.mpTrainingEnd n hello) s = .next t ∧ (mpAt t n).hello = some hello ∧
          (s.core.link.decided = false → (mpAt t n).trained = true ∧ (mpAt t n).state = .training) ∧
          (s.core.link.decided = true → (mpAt t n).state = .up ∧ (mpAt t n).since = dtOf s))) ∧
    (running s = true → (mpAt s n).state = .up →
      ∃ t, exec (.mpSignalLost n) s = .next t ∧ (mpAt t n).state = .absent ∧ (mpAt t n).hello = none ∧ (mpAt t n).since = dtOf s)

/-- Frames on a port that is UP: what goes out every 696 ns, and what a received frame does (R472, R478, R479, R485, R499, R500). -/
def Obligations.FramesOnLinks : Prop :=
  ∀ (s : State) (n : Nat), n < nMirden s → s.core.link.ports.length = 4 → running s = true → (mpAt s n).state = .up →
    (let m := mpAt s n
     let f : TxFrame := if m.txCtr % 1024 = 0 then { type := 4, first := true, last := true, object := 0, index := 0, payload := timePayload m }
       else m.txq.headD { type := 0, first := false, last := false, object := 0, index := 0, payload := [] }
     ∃ t, exec (.mpFrameSend n) s = .next t ∧ (mpAt t n).txCtr = (m.txCtr + 1) % 2 ^ 64 ∧
       t.out = s.out ++ [Out.mirden n (leBytes 8 m.txCtr ++
         gcmSeal m.kOut (linkNonce m.txCtr s.core.sys.devid ((m.hello.map (·.devid)).getD 0)) (leBytes 8 m.txCtr) (linkFrame s f))]) ∧
    (∀ frame stamp,
      let m := mpAt s n
      let opened := if frame.length = 2088 ∧ fieldAt frame 0 8 = m.rxCtr then
        gcmOpen m.kIn (linkNonce (fieldAt frame 0 8) ((m.hello.map (·.devid)).getD 0) s.core.sys.devid) (bytesAt frame 0 8) (frame.drop 8)
        else none
      ∃ t, exec (.mpFrameRx n frame stamp) s = .next t ∧
        (opened = none →
          NMap.getD t.core.obs.counters (linkPortCtr n 1) 0 = NMap.getD s.core.obs.counters (linkPortCtr n 1) 0 + 1) ∧
        (∀ f, opened = some f → s.core.link.waitObj = [] → (fieldAt f 0 1 = 0 ∨ fieldAt f 0 1 = 4) →
          (mpAt t n).rxCtr = (m.rxCtr + 1) % 2 ^ 64 ∧ (mpAt t n).dist = fieldAt f 2 1 ∧ (mpAt t n).clockQ = fieldAt f 3 1 ∧
          (fieldAt f 0 1 = 4 → (mpAt t n).rxStamp = some (stamp : Int))) ∧
        (∀ f, opened = some f → s.core.link.waitObj = [] → (fieldAt f 0 1 = 2 ∨ fieldAt f 0 1 = 3) → (fieldAt f 1 1).testBit 1 = false →
          (mpAt t n).rxCtr = (m.rxCtr + 1) % 2 ^ 64 ∧
          NMap.get? (mpAt t n).rx (fieldAt f 4 4) = some (fieldAt f 0 1,
            (if (fieldAt f 1 1).testBit 0 then [] else (NMap.getD m.rx (fieldAt f 4 4) (fieldAt f 0 1, [])).2) ++
              bytesAt f 16 (min 2048 (fieldAt f 12 4)))))

/-- What the keeper does for the system: a tick's delta batch, the grant of a lock, the start of a device's catch-up (R489, R492,
R494). -/
def Obligations.KeeperServesTheSystem : Prop :=
  ∀ (s : State), running s = true → mapOwed s = false →
    (isKeeper s = true → s.core.link.lastTick < dtOf s / (1000000 * s.core.link.deltaMs) → s.core.link.joining = none →
      (s.core.map.dirty ≠ [] → s.core.map.inService = true →
        ∃ t, exec .deltaBatchTick s = .next t ∧ t.core.map.dirty = [] ∧ t.core.map.batchFrom = s.core.map.version.toNat ∧
          t.core.link.lastTick = dtOf s / (1000000 * s.core.link.deltaMs) ∧ t.core.map.data = s.core.map.data ∧
          NMap.getD t.core.obs.counters (linkCtr 0) 0 = NMap.getD s.core.obs.counters (linkCtr 0) 0 + 1) ∧
      (s.core.map.dirty = [] →
        exec .deltaBatchTick s = .next (s.modLink (fun l => { l with lastTick := dtOf s / (1000000 * s.core.link.deltaMs) })))) ∧
    (isKeeper s = true → s.core.map.inService = true → s.core.link.joining = none →
      (∀ r, nextGrant s = some r → ∃ t, exec .mapLockGrant s = .next t ∧ t.core.link.locks = s.core.link.locks ++ [r] ∧
        r ∈ s.core.link.requests ∧ (∀ k ∈ s.core.link.locks, ∀ i ∈ k.tiles, i ∉ r.tiles) ∧ t.core.map = s.core.map) ∧
      (nextGrant s = none → exec .mapLockGrant s = .next s)) ∧
    (∀ n j, s.core.map.inService = true → (mpAt s n).state = .up → s.core.link.catchUp.find? (fun k => k.port == n && !k.started) = some j →
      (∀ v, j.since = some v → isKeeper s = true → logReaches s v = true →
        ∃ t, exec (.catchUp n) s = .next t ∧ t.core.link.catchUp = s.core.link.catchUp.erase j) ∧
      ((j.since = none ∨ isKeeper s = false ∨ logReaches s (j.since.getD 0) = false) →
        (mpAt s n).hello.map (·.devid) = some j.dev →
        ∃ t, exec (.catchUp n) s = .next t ∧ { j with started := true } ∈ t.core.link.catchUp))

/-! ### The bus -/

/-- Accesses and errors on the host bus: registers without a row of their own, BAR2, unsupported requests, link-layer errors, reads
that fail (R13, R81, R95, R96, R98, R398, R534, R535). -/
def Obligations.BusAccessesTakeEffect : Prop :=
  ∀ (s : State),
    (∀ off w v, exec (.registerWrite off w v true) s = .next (withAer s (0x1000, 0))) ∧
    (running s = true →
      (∀ v, exec (.registerWrite 0x4208 4 v false) s = .next (s.modSys (fun y =>
        { y with evtLost := y.evtLost && !(v % 2 ^ 32).testBit 8, hatchProto := y.hatchProto && !(v % 2 ^ 32).testBit 9 }))) ∧
      (∀ v, exec (.registerWrite 0x4200 8 v false) s =
        .next (s.modHat (fun a => { a with done := a.done &&& ~~~(BitVec.ofNat 64 v) }))) ∧
      (∀ k v, k < 64 → s.pcie.pba.getLsbD k = false → exec (.registerWrite (0x8000 + 16 * k + 8) 4 v false) s =
        .next { s with pcie := { s.pcie with table := updAt s.pcie.table k (fun e => { e with data := BitVec.ofNat 32 (v % 2 ^ 32) }) } }) ∧
      (∀ off v, 0x4210 ≤ off → off < 0x8000 → exec (.registerWrite off 4 v false) s = .next s) ∧
      (∀ a, exec (.bar2Write a) s = .next (s.bump (tierCtr 9) 1)) ∧
      (∀ a n f, (s.core.sys.conf = true ∨ pageSealed s (a / 65536) = true ∨ 65536 * rangePages s < a + n) →
        exec (.bar2Read a n f) s = .next ((s.bump (tierCtr 9) 1).emit (.readData (List.replicate n 0) false))) ∧
      (∀ a n x, s.core.sys.conf = false → s.core.tiers.ranges ≠ [] → a + n ≤ 65536 * rangePages s → pageSealed s (a / 65536) = false →
        pageAt s (a / 65536) = some x → x.poison = false → genLive s (a / 65536) x = true →
        NMap.has s.core.tiers.torn (a / 4096) = false →
        exec (.bar2Read a n .clean) s =
          .next (({ s with free := s.free + 1 } : State).emit (.readData
            (if pageBlank s (a / 65536) = true then List.replicate n 0 else padTo n (Config.freeBytes 2 s.free)) false)))) ∧
    (endpointUp s = true →
      exec .unsupportedRequest s = .next ((withAer s (0x100000, 0)).emit .unsupported) ∧
      exec .unexpectedCompletion s = .next (withAer s (0x10000, 0x2000)) ∧
      ∀ e, exec (.linkLayerError e) s = .next (withAer s (linkErrorBits e))) ∧
    (∀ h q n addr len, h < 64 → running s = true → jobAt s h = some (.crateLoad n addr len) →
      ∃ t, exec (.dmaCompletionTimeout (.command h) q) s = .next t ∧ Answered s h 0x30 [] t ∧ t.core.work = s.core.work ∧
        t.pcie.aerUncorr.getLsbD (if q then 12 else 14) = true) ∧
    (∀ h q p, takes s h 0x0607 p = true → jobAt s h = none → fieldAt p 0 1 ≤ 1 → fieldAt p 1 1 ≤ 63 → 64 ≤ fieldAt p 2 2 →
      fieldAt p 2 2 ≤ 1518 → NMap.has s.core.air.launch (64 * fieldAt p 0 1 + fieldAt p 1 1) = false →
      ∃ t, exec (.dmaCompletionTimeout (.command h) q) s = .next t ∧ Answered s h 0x30 [] t ∧ t.core.air.launch = s.core.air.launch ∧
        t.pcie.aerUncorr.getLsbD (if q then 12 else 14) = true)

/-! ### Resets -/

/-- The resets that the pins and the clock bring, and their ends (R502, R504, R505, R548, R550, R553). -/
def Obligations.PinsResetTheDevice : Prop :=
  ∀ (s : State),
    ((s.core.sys.phase = .unpowered ∨ s.core.sys.phase = .st0) →
      ∃ t, exec .powerOn s = .next t ∧ t.hw.rails = true ∧ t.err = {} ∧ t.pcie = {} ∧ t.loft.pages = s.loft.pages ∧
        (s.hw.refclk = true → s.hw.resetN = true → s.hw.perstN = true →
          t.core.sys.phase = .starting ∧ t.core.sys.step = 1 ∧ t.core.sys.cause = 0 ∧ t.loft.remedies = {} ∧
          t.loft.log.head? = some t.core.sys.record ∧ t.core.sys.record.startNo = s.loft.nextStart) ∧
        ((s.hw.refclk = false ∨ s.hw.resetN = false ∨ s.hw.perstN = false) → t.core.sys.phase = .st0)) ∧
    (s.core.sys.phase ≠ .unpowered → s.core.sys.phase ≠ .st0 →
      (∃ t, exec .resetN s = .next t ∧ t.hw.resetN = false ∧ t.pcie = s.pcie ∧
        HeldInReset s (if s.core.sys.phase = .inReset then max 1 s.core.sys.cause else 1) t) ∧
      (∃ t, exec .perstN s = .next t ∧ t.hw.perstN = false ∧ t.pcie = {} ∧
        HeldInReset s (if s.core.sys.phase = .inReset then max 2 s.core.sys.cause else 2) t) ∧
      (∃ t, exec .refclkStop s = .next t ∧ t.hw.refclk = false ∧ t.pcie = s.pcie ∧
        HeldInReset s (if s.core.sys.phase = .inReset then max 1 s.core.sys.cause else 1) t)) ∧
    (s.core.sys.phase = .inReset → s.core.work = {} → s.core.hat = {} →
      (s.hw.refclk = true → ∃ t, exec .resetRelease s = .next t ∧ t.hw.resetN = true ∧ t.hw.perstN = true ∧
        Restarted s s.core.sys.cause t) ∧
      (s.hw.resetN = true → s.hw.perstN = true → ∃ t, exec .refclkReturn s = .next t ∧ t.hw.refclk = true ∧
        Restarted s s.core.sys.cause t)) ∧
    (∃ t, exec (.powerLoss false) s = .next t ∧ t.core.sys.phase = .unpowered ∧ t.hw.rails = false ∧ running t = false ∧
      t.core.work = {} ∧ t.loft.pages = s.loft.pages ∧ t.loft.log = s.loft.log) ∧
    (∀ pg old, s.loft.lastStore = some (pg, old, dtOf s) →
      ∃ t, exec (.powerLoss true) s = .next t ∧ t.core.sys.phase = .unpowered ∧
        t.loft.pages = Mem.write s.loft.pages (4096 * pg) old)

/-- The resets that begin by themselves, and what the straps and the Ethernet links do (R106, R385, R502, R506, R509, R546). -/
def Obligations.SelfResetsRestart : Prop :=
  ∀ (s : State),
    (running s = true →
      (∃ t, exec .watchdogReset s = .next t ∧ Restarted s 5 t) ∧
      (∀ d, s.core.sys.coreResetAt = some d → d ≤ dtOf s → ∃ t, exec .coreResetTimer s = .next t ∧ Restarted s 3 t) ∧
      (∀ d, s.core.sys.coreResetAt = some d → dtOf s < d → exec .coreResetTimer s = .next s) ∧
      (∀ d, s.core.sys.recoveryAt = some d → d ≤ dtOf s → ∃ t, exec .recoveryReset s = .next t ∧ Restarted s 4 t)) ∧
    (∀ d k b, exec (.strapChange d k b) s =
      .next (s.modHw (fun h => { h with devidPins := d % 8, keeperPin := k, bootPins := b % 4 }))) ∧
    (∀ n, exec (.epLinkDown n) s = .next (s.modHw (fun h => { h with epUp := setAt h.epUp n false }))) ∧
    (∀ n, running s = true → (s.core.sys.phase = .ready ∨ s.core.sys.phase = .starting ∧ 6 ≤ s.core.sys.step) →
      s.core.sys.record.epDisabled.testBit n = false →
      exec (.epLinkUp n) s = .next (s.modHw (fun h => { h with epUp := setAt h.epUp n true })))

/-! ### The start -/

/-- The start steps: each ends by its finding and the next begins; ST9's end makes the device ready; a required step that fails or
reaches its bound leads to a recovery reset 10 ms later in a first start (R506, R509, R513). -/
def Obligations.StartStepsAdvance : Prop :=
  ∀ (s : State) (f : StepFinding), stepping s = true →
    (f.ok = true → f.mask = 0 →
      (∀ n, s.core.sys.step = n → (n = 1 ∨ n = 3 ∨ n = 4 ∨ n = 5 ∨ n = 6) →
        ∃ t, exec (.startStepEnd f) s = .next t ∧ t.core.sys.step = n + 1 ∧ t.core.sys.phase = .starting) ∧
      (s.core.sys.step = 2 → s.core.sys.bootSrc ≠ 1 → s.core.sys.hostSource = false → f.source ≤ 1 →
        ∃ t, exec (.startStepEnd f) s = .next t ∧
          (imageOk s f.image = true → t.core.sys.step = 3 ∧ t.core.sys.fwMeas = sm3 f.image ∧ t.core.sys.fwVersion = fieldAt f.image 8 4) ∧
          (imageOk s f.image = false → s.core.sys.bootSrc = 0 → s.core.sys.cause = 0 →
            t.core.sys.recoveryAt = some (dtOf s + 10000000))) ∧
      (s.core.sys.step = 7 → s.loft.remedies.chSkip = 0 → (∃ c, c < nChans s ∧ (chanAt s c).present = true) →
        ∃ t, exec (.startStepEnd f) s = .next t ∧ t.core.sys.step = 8 ∧
          ∀ c, c < nChans s → (chanAt t c).inService = (chanAt s c).present) ∧
      (s.core.sys.step = 8 → (s.core.time.measSeq ≠ 0 ∨ (∀ x ∈ s.core.air.ports, x.role = 0) ∧ linkTimed s = false) →
        ∃ t, exec (.startStepEnd f) s = .next t ∧ t.core.sys.step = 9) ∧
      (s.core.sys.step = 9 → ∃ t, exec (.startStepEnd f) s = .next t ∧ t.core.sys.phase = .ready ∧ t.core.sys.record.final = 0 ∧
        t.core.sys.record.dtReady = dtOf s ∧ t.core.air.mu = (settingsOf (loftPage s 0)).mu ∧
        t.core.link.deltaMs = (settingsOf (loftPage s 0)).deltaMs ∧ t.core.map.inService = true)) ∧
    (∀ n, s.core.sys.step = n → s.core.sys.hostSource = false → s.core.sys.stepBegan + stepBound n < dtOf s →
      ((n = 1 ∨ n = 3) → s.core.sys.cause = 0 →
        ∃ t, exec (.startStepTimeout f) s = .next t ∧ t.core.sys.recoveryAt = some (dtOf s + 10000000) ∧ t.core.sys.record.final = 2) ∧
      ((n = 4 ∨ n = 5 ∨ n = 6 ∨ n = 8) → ∃ t, exec (.startStepTimeout f) s = .next t ∧ t.core.sys.step = n + 1))

/-! ### Power and heat -/

/-- The power inputs: the pin samples, a 1 ms window, a 100 µs window, a temperature sample (R38, R39, R41, R554, R557). -/
def Obligations.PowerAndHeatTakeEffect : Prop :=
  ∀ (s : State), running s = true →
    (∀ v, s.core.sys.phase = .ready →
      ∃ t, exec (.pwrCapSample v) s = .next t ∧ t.hw.capPins = v % 4 ∧ t.core.pow.pinSample = v % 4 ∧
        t.core.pow.pinCap = s.core.pow.pinCap ∧
        (s.core.pow.pinSample = v % 4 → t.core.pow.pinNext = pinCapOf s.hw.part (v % 4)) ∧
        (s.core.pow.pinSample ≠ v % 4 → t.core.pow.pinNext = s.core.pow.pinNext)) ∧
    (∀ dw, s.core.sys.phase = .ready →
      ∃ t, exec (.powerWindow dw) s = .next t ∧ t.core.pow.power = dw ∧ t.core.pow.limiter = false ∧
        t.core.pow.pinCap = s.core.pow.pinNext ∧
        let cap := 10 * min s.core.pow.pinNext s.core.pow.hatchCap
        let p := s.core.pow
        let q := t.core.pow
        (cap < dw → 400 < p.ctlMhz → q.ctlMhz = p.ctlMhz - 100 ∧ q.ctlAdm = p.ctlAdm) ∧
        (cap < dw → p.ctlMhz ≤ 400 → q.ctlMhz = p.ctlMhz ∧ q.ctlAdm = max 1 (p.ctlAdm - 1)) ∧
        (dw + 50 ≤ cap → q.calm = p.calm + 1 ∧
          (99 ≤ p.calm → p.ctlAdm < 8 → q.ctlAdm = p.ctlAdm + 1 ∧ q.ctlMhz = p.ctlMhz) ∧
          (99 ≤ p.calm → 8 ≤ p.ctlAdm → p.ctlMhz < 1600 → q.ctlAdm = p.ctlAdm ∧ q.ctlMhz = p.ctlMhz + 100) ∧
          (p.calm < 99 → q.ctlAdm = p.ctlAdm ∧ q.ctlMhz = p.ctlMhz)) ∧
        (dw ≤ cap → cap < dw + 50 → q.calm = 0 ∧ q.ctlMhz = p.ctlMhz ∧ q.ctlAdm = p.ctlAdm)) ∧
    (∀ dw, 10 * packageW s.hw.part < dw → s.core.pow.limiter = false →
      exec (.powerLimiterWindow dw) s = .next ((s.modPow (fun p => { p with limiter := true })).bump (devCtr 0) 1)) ∧
    (∀ dw, dw ≤ 10 * packageW s.hw.part → exec (.powerLimiterWindow dw) s = .next s) ∧
    (∀ tj ts, ∃ t, exec (.thermalSample tj ts) s = .next t ∧ t.core.pow.tj = tj ∧ t.core.pow.tStore = ts ∧
      (412 ≤ tj → t.core.pow.alert = true) ∧ (tj < 392 → t.core.pow.alert = false) ∧ (440 ≤ tj → t.core.pow.hot = true) ∧
      (tj < 420 → t.core.pow.hot = false) ∧
      (s.core.sys.phase = .ready → 400 ≤ tj → 99 ≤ s.core.pow.thSince → 400 < s.core.pow.thMhz →
        t.core.pow.thMhz = s.core.pow.thMhz - 100 ∧ t.core.pow.throttle = true))

/-! ### Memory -/

/-- Heat, migration, the patrol scrub and late accesses (R401 to R404, R406 to R408). -/
def Obligations.TiersTakeEffect : Prop :=
  ∀ (s : State), running s = true →
    (s.core.tiers.lastEpoch + 1000000 ≤ dtOf s →
      (s.core.tiers.cellar = 0 → ∀ d e, exec (.migrationEpoch ⟨d, e⟩) s = .next (s.modTiers (fun t => { t with lastEpoch := dtOf s }))) ∧
      (∀ p x f u, s.core.tiers.cellar ≠ 0 → (statAt s 51).masked = false → 1 ≤ s.core.fab.migPages → s.core.tiers.pages = [(p, x)] →
        x.hint = 1 → x.near = false → x.poison = false → takeFrame s true = some (f, u) →
        ∃ t, exec (.migrationEpoch ⟨[], []⟩) s = .next t ∧ t.core.tiers.lastEpoch = dtOf s ∧
          pageAt t p = some { x with near := true, frame := f } ∧
          NMap.getD t.core.obs.counters (tierCtr 0) 0 = NMap.getD s.core.obs.counters (tierCtr 0) 0 + 1)) ∧
    (s.core.tiers.lastDecay + 8000000 ≤ dtOf s →
      exec .heatDecay s = .next (s.modTiers (fun t =>
        { t with lastDecay := dtOf s, pages := t.pages.map (fun e => (e.1, { e.2 with heat := e.2.heat / 2 })) }))) ∧
    (∀ f near, s.core.tiers.ranges ≠ [] → f < (if near = true then nearFrames s else farFrames s) →
      frameKey near f ∉ s.core.tiers.retired →
      exec (.patrolScrubRead (frameKey near f) .clean) s = .next s ∧
      (∀ n, ∃ t, exec (.patrolScrubRead (frameKey near f) (.corrected n)) s = .next t ∧
        NMap.getD t.core.obs.counters (tierCtr (if near = true then 4 else 5)) 0 =
          NMap.getD s.core.obs.counters (tierCtr (if near = true then 4 else 5)) 0 + n ∧
        (16 ≤ n → frameKey near f ∈ t.core.tiers.retired)) ∧
      ((∀ p x, pageOfFrame s near f = some p → pageAt s p = some x → x.use = 0) →
        ∃ t, exec (.patrolScrubRead (frameKey near f) .uncorrectable) s = .next t ∧ frameKey near f ∈ t.core.tiers.retired ∧
          ∀ p x, pageOfFrame s near f = some p → pageAt s p = some x → ∃ y, pageAt t p = some y ∧ y.poison = true)) ∧
    (∀ n store cause, n < 56 → s.core.fab.stats.length = 56 → (store = true ∨ s.core.tiers.cellar ≠ 0) →
      ∃ t, exec (.lateAccess n store cause) s = .next t ∧
        (cause = .tierFault → (statAt t n).lateF = (statAt s n).lateF + 1) ∧
        (cause = .migration → (statAt t n).lateM = (statAt s n).lateM + 1) ∧
        (cause = .contention → (statAt t n).lateC = (statAt s n).lateC + 1) ∧
        (∀ m, m ≠ n → statAt t m = statAt s m))

/-- The retraining of a controller and its end; an arbiter's decision, in a slot, in background and for a lock; starvation (R410, R417, R418, R422, R424,
R429). -/
def Obligations.ControllersAndArbitersTakeEffect : Prop :=
  ∀ (s : State), running s = true →
    (∀ store c, c < nControllers s store → (store = true ∨ s.core.tiers.cellar ≠ 0) →
      NMap.has s.core.tiers.retrain (controllerKey store c) = false →
      ∃ t, exec (.controllerRetrain store c) s = .next t ∧
        t.core.tiers = { s.core.tiers with retrain := NMap.set s.core.tiers.retrain (controllerKey store c) (dtOf s) } ∧
        (s.err.regs.length = 16 → (t.err.regs.getD 0 {}).bits.getLsbD (if store = true then 2 else 3) = true)) ∧
    (∀ store c, NMap.has s.core.tiers.retrain (controllerKey store c) = true →
      exec (.retrainEnd store c true) s =
        .next (s.modTiers (fun t => { t with retrain := NMap.erase t.retrain (controllerKey store c) }))) ∧
    (∀ c, NMap.has s.core.tiers.retrain (controllerKey true c) = true →
      ∃ t, exec (.retrainEnd true c false) s = .next t ∧ t.loft.remedies.storeConservative = true ∧
        t.core.sys.recoveryAt = some (dtOf s)) ∧
    (∀ c, NMap.has s.core.tiers.retrain (controllerKey false c) = true →
      ∃ t, exec (.retrainEnd false c false) s = .next t ∧ t.loft.remedies.cellarSkip = true ∧ t.core.tiers.cellar = 0) ∧
    (∀ a gone, s.core.tiers.ranges ≠ [] → arbServes s a = true → (arbAt s a).lock = none → (arbAt s a).burst = none →
      a < s.core.fab.arbs.length →
      ((arbAt s a).waiting = [] →
        ∃ t, exec (.arbiterDecision a gone []) s = .next t ∧
          arbAt t a = { arbAt s a with
            ptr := ((arbAt s a).ptr + 1) % 256
            turn := (0 :: (arbAt s a).turn).take 256 } ∧
          ∀ b, b ≠ a → arbAt t b = arbAt s b) ∧
      (∀ w x addr n, (arbAt s a).waiting = [w] → w.what = .burst addr n false .clean → w.since ≤ dtOf s →
        s.core.fab.owners.getD (arbAt s a).ptr 0xFF = w.req → requesterLive s w.req = true → w.req < s.core.fab.stats.length →
        pageAt s (addr / 65536) = some x → x.poison = false → genLive s (addr / 65536) x = true →
        NMap.has s.core.tiers.torn (addr / 4096) = false →
        ∃ t, exec (.arbiterDecision a gone []) s = .next t ∧ (arbAt t a).ptr = ((arbAt s a).ptr + 1) % 256 ∧
          (arbAt t a).waiting = [] ∧ (statAt t w.req).slotGrants = (statAt s w.req).slotGrants + 1 ∧
          (statAt t w.req).beats = (statAt s w.req).beats + arbBeats w.what) ∧
      (∀ w x addr n, (arbAt s a).waiting = [w] → w.what = .burst addr n false .clean → w.since ≤ dtOf s →
        s.core.fab.owners.getD (arbAt s a).ptr 0xFF ≠ w.req → w.req < s.core.fab.stats.length →
        pageAt s (addr / 65536) = some x → x.poison = false → genLive s (addr / 65536) x = true →
        NMap.has s.core.tiers.torn (addr / 4096) = false →
        ∃ t, exec (.arbiterDecision a gone []) s = .next t ∧ (arbAt t a).ptr = ((arbAt s a).ptr + 1) % 256 ∧
          (arbAt t a).waiting = [] ∧ (arbAt t a).burst = some w ∧ (statAt t w.req).background = (statAt s w.req).background + 1) ∧
      (∀ w g n, (arbAt s a).waiting = [w] → w.what = .lock g n → w.since ≤ dtOf s →
        s.core.fab.owners.getD (arbAt s a).ptr 0xFF = w.req → requesterLive s w.req = true → w.req < s.core.fab.stats.length →
        (turnBeats (arbAt s a) ≤ 256 →
          ∃ t, exec (.arbiterDecision a gone []) s = .next t ∧ (arbAt t a).waiting = [] ∧
            (statAt t w.req).taken = (statAt s w.req).taken + 1 ∧
            (n ≤ 16 → (arbAt t a).lock = none ∧ (statAt t w.req).lockHeld = false) ∧
            (16 < n → (arbAt t a).lock = some (w.req, g, 16, n) ∧ (statAt t w.req).lockHeld = true)) ∧
        (256 < turnBeats (arbAt s a) →
          ∃ t, exec (.arbiterDecision a gone []) s = .next t ∧ (arbAt t a).waiting = [w] ∧ (arbAt t a).lock = none ∧
            (statAt t w.req).deferred = (statAt s w.req).deferred + 1))) ∧
    (∀ a n w, n < s.core.fab.stats.length → oldestOf (arbAt s a) n (fun _ => true) = some w →
      w.since + 1000 * s.core.fab.starveUs < dtOf s → (statAt s n).starving = false →
      ∃ t, exec (.starvation a n) s = .next t ∧ (statAt t n).starving = true ∧ (statAt t n).starved = true ∧
        t.core.fab.arbs = s.core.fab.arbs)

/-! ### Turns and scrubs -/

/-- A turn's close and its drain limit, the beginning and the end of a scrub (R465 to R468, R457). -/
def Obligations.TurnsAndScrubsTakeEffect : Prop :=
  ∀ (s : State), running s = true →
    (s.core.sys.conf = true → s.core.sys.scrub = false → s.core.sec.turnClosed = none →
      (∃ c ∈ waitingContexts s, c ≠ s.core.sec.holder) → (NMap.getD s.core.sec.contexts s.core.sec.holder {}).sweep = none →
      (s.core.sec.turnBegan + 20000000 ≤ dtOf s ∨ waitsTurn s s.core.sec.holder = false) →
      ∃ t, exec .turnClose s = .next t ∧ t.core.sec.turnClosed = some (dtOf s) ∧ t.core.sec.holder = s.core.sec.holder ∧
        t.core.sec.turnBegan = s.core.sec.turnBegan) ∧
    (∀ c, s.core.sec.turnClosed = some c → s.core.sys.scrub = false → c + 2000000 < dtOf s →
      ∃ t, exec .turnDrainLimit s = .next t ∧
        ∀ e ∈ turnInsts s s.core.sec.holder true, ∀ x, instAt s e.1 e.2 = some x → (instSlot s e.1 x).isSome = true →
          ∃ y, instAt t e.1 e.2 = some y ∧ y.status ≠ none) ∧
    (∀ f, s.core.sys.phase = .ready → s.core.sys.scrub = false → hatchesWith s isModeJob = [] → scrubDue s = some f →
      ∃ t, exec .scrubBegin s = .next t ∧ t.core.sys.scrub = true ∧ t.core.sec.scrubFor = some f ∧ t.core.sec.scrubBegan = dtOf s ∧
        t.core.hat.queueM = [] ∧ t.core.hat.queueG = [] ∧ (∀ c, f = .destroy c → ∀ e ∈ t.core.work.sess, e.2.owner ≠ c)) ∧
    (s.core.sys.scrub = true →
      ∃ t, exec .scrubEnd s = .next t ∧ t.core.sys.scrub = false ∧
        NMap.getD t.core.obs.counters (secCtr 4) 0 = NMap.getD s.core.obs.counters (secCtr 4) 0 + 1 ∧
        (s.core.sec.scrubFor = some .turn →
          t.core.sec.turnClosed = none ∧ t.core.sec.turnBegan = dtOf s ∧ t.core.sec.scrubFor = none) ∧
        (∀ c x, s.core.sec.scrubFor = some (.destroy c) → held s (.ctx c) = true → NMap.get? s.core.sec.contexts c = some x →
          NMap.get? t.core.sec.contexts c = some { x with scrubbed := true }))

/-! ### The frame-graph sequencer -/

/-- The creation of an instance, for work other than items and for admitted items, and the end of an item that is not admitted (R62,
R64, R159). -/
def Obligations.InstancesAreCreated : Prop :=
  ∀ (s : State) (ch slot : Nat) (w : Waiting) (i : Nat) (g : Slot), running s = true → (chanAt s ch).inService = true →
    (chanAt s ch).queue.find? (fun w => w.slot == slot && eligible s ch w) = some w → freeInst s ch slot = some i →
    graphAt s ch slot = some g → g.copyLost = false →
    ((∀ b n, w.origin ≠ .item b n) ∨
      (∃ b n it x, w.origin = .item b n ∧ itemAt s b n = some it ∧ w.sid.bind (sessAt s) = some x ∧ graphAdmits s g.graph w.ctx = true ∧
        (g.graph.kind = 4 ∨ g.graph.kind = 5 ∨
          admits s ch x (visionCost g.graph g.graph.kind (x.ctx.sensors.getD it.slot {}) it.bytes it.len) = true)) →
      ∃ t y, exec (.instanceCreate ch slot) s = .next t ∧ instAt t ch i = some y ∧ y.origin = w.origin ∧ y.ctx = w.ctx ∧ y.sid = w.sid ∧
        y.deadline = w.deadline ∧ y.tags = [] ∧ y.mem = [] ∧ y.mapVersion = s.core.map.pin ∧
        (chanAt t ch).queue = (chanAt s ch).queue.erase w) ∧
    (∀ b n it x, w.origin = .item b n → itemAt s b n = some it → it.status = none → w.sid.bind (sessAt s) = some x →
      graphAdmits s g.graph w.ctx = true → g.graph.kind ≠ 4 → g.graph.kind ≠ 5 → g.graph.kind ≠ 6 →
      admits s ch x (visionCost g.graph g.graph.kind (x.ctx.sensors.getD it.slot {}) it.bytes it.len) = false →
      ∃ t y, exec (.instanceCreate ch slot) s = .next t ∧ itemAt t b n = some y ∧ y.status = some 0x24 ∧
        (chanAt t ch).queue = (chanAt s ch).queue.erase w)

/-- The dispatch of an engine's first ready step, the end of a step, and the stall limit (R32, R161, R163, R165, R167). -/
def Obligations.StepsRunAndEnd : Prop :=
  ∀ (s : State) (ch e : Nat), running s = true →
    (∀ c x, (chanAt s ch).inService = true → e < 5 → (chanAt s ch).engines.length = 6 → ((chanAt s ch).engines.getD e {}).run = none →
      bestCand (candidates (s.refresh ch) ch e) = some c → instAt (s.refresh ch) ch c.inst = some x → x.deadline ≥ dtOf s →
      restoringFor (s.refresh ch) ch x c.step = false →
      ((instSlot (s.refresh ch) ch x).bind (fun g => g.graph.steps[c.step]?)).isSome = true →
      ∃ t, exec (.stepDispatch ch e .clean) s = .next t ∧ ((chanAt t ch).engines.getD e {}).run = some (c.inst, c.step) ∧
        ((chanAt t ch).engines.getD e {}).worked = false ∧ ((chanAt t ch).engines.getD e {}).lastMove = dtOf s) ∧
    (∀ i x g k p, runningStep s ch e = some (i, x, g, k, p) → engineOf p.engine = e → ((chanAt s ch).engines.getD e {}).worked = true →
      ∃ t y, exec (.stepEnded ch e) s = .next t ∧ ((chanAt t ch).engines.getD e {}).run = none ∧ instAt t ch i = some y ∧
        (k < x.steps.length → y.steps.length = x.steps.length → y.steps.getD k .skipped = .ended) ∧
        ∀ b ∈ p.outs.flatMap rangeBlocks, b ∈ y.tags) ∧
    (∀ i x g k p c, runningStep s ch e = some (i, x, g, k, p) → ((chanAt s ch).engines.getD e {}).stall = some c → c + 2000000 < dtOf s →
      ∃ t y, exec (.tierStallLimit ch e) s = .next t ∧ ((chanAt t ch).engines.getD e {}).run = none ∧ instAt t ch i = some y ∧
        y.status ≠ none)

/-- The sequencer's own steps: DMA_IN, CTX_TAKE, CTX_PEEK and RESULT (R51, R110, R117, R154, R165, R169). -/
def Obligations.SequencerStepsTakeEffect : Prop :=
  ∀ (s : State) (ch i : Nat), running s = true →
    (∀ x g k p b n it data, seqStep (s.refresh ch) ch i 1 = some (x, g, k, p) → itemOf s x = some (b, n, it) → dtOf s ≤ x.deadline →
      bulkSealed s x.ctx = false →
      let sensors := match sessAt s it.sid with
        | some z => z.ctx.sensors
        | none => x.calib
      (∀ y, checkedPayload g.graph.kind it.slot sensors (padTo it.len data) = some y →
        it.len ≤ (p.outs.map (fun r => 4096 * r.count)).foldl (· + ·) 0 →
        ∃ t z, exec (.dmaIn ch i data) s = .next t ∧ Out.dmaRead it.addr it.len ∈ t.out ∧ instAt t ch i = some z ∧
          ∀ a ∈ p.outs.flatMap rangeBlocks, a ∈ z.tags) ∧
      (checkedPayload g.graph.kind it.slot sensors (padTo it.len data) = none → x.status = none →
        ∃ t z, exec (.dmaIn ch i data) s = .next t ∧ instAt t ch i = some z ∧ z.status = some 0x11) ∧
      (∀ q, x.status = none →
        ∃ t z, exec (.dmaCompletionTimeout (.item ch i) q) s = .next t ∧ instAt t ch i = some z ∧ z.status = some 0x30)) ∧
    (∀ x g k p sid u, seqStep (s.refresh ch) ch i 8 = some (x, g, k, p) → x.sid = some sid → heldElsewhere (s.refresh ch) ch i sid = false →
      touchShelf (s.refresh ch) sid = some u →
      (x.deadline < dtOf s → ∃ t y, exec (.ctxTake ch i .clean) s = .next t ∧ instAt t ch i = some y ∧ y.status ≠ none) ∧
      (∀ q, dtOf s ≤ x.deadline → restoringFor (s.refresh ch) ch x k = false → tornRead (s.refresh ch) sid = some q → x.status = none →
        ∃ t y, exec (.ctxTake ch i .clean) s = .next t ∧ instAt t ch i = some y ∧ y.status = some 0x21) ∧
      (dtOf s ≤ x.deadline → restoringFor (s.refresh ch) ch x k = false → tornRead (s.refresh ch) sid = none → fieldAt p.param 0 1 ≠ 1 →
        ∃ t y, exec (.ctxTake ch i .clean) s = .next t ∧ instAt t ch i = some y ∧ y.holds = true ∧ y.work.isSome = true ∧
          sid ∈ t.core.work.shelf ∧ ∀ a ∈ p.outs.flatMap rangeBlocks, a ∈ y.tags)) ∧
    (∀ x g k p, seqStep (s.refresh ch) ch i 10 = some (x, g, k, p) →
      (dtOf s ≤ x.deadline → restoringFor (s.refresh ch) ch x k = false → x.sid.bind (tornRead (s.refresh ch)) = none →
        ∃ t y, exec (.ctxPeek ch i) s = .next t ∧ instAt t ch i = some y ∧ y.holds = x.holds ∧
        ∀ a ∈ p.outs.flatMap rangeBlocks, a ∈ y.tags) ∧
      (x.deadline < dtOf s → ∃ t y, exec (.ctxPeek ch i) s = .next t ∧ instAt t ch i = some y ∧ y.status ≠ none)) ∧
    (∀ x g k p, seqStep (s.refresh ch) ch i 9 = some (x, g, k, p) →
      ∃ t, exec (.result ch i) s = .next t ∧ instAt t ch i = none ∧
        ∀ b n it, x.origin = .item b n → itemAt s b n = some it → it.status = none →
          ∃ y, itemAt t b n = some y ∧ y.status = some (x.status.getD
            (if restoringFor (s.refresh ch) ch x k = true then 0x22 else if x.deadline < dtOf s then 0x20 else 0x00)))

/-- Waiting in CTX_TAKE: the outcome of a relocalisation, the end of its wait, the deadline (R165, R170, R319). -/
def Obligations.RelocalisationsEnd : Prop :=
  ∀ (s : State) (ch i : Nat) (x : Inst), running s = true → instAt s ch i = some x →
    (∀ y k p due out, waitingTake s ch i = some (y, k, p, due) → x.relocOut = some out →
      ∃ t z, exec (.relocOutcome ch i) s = .next t ∧ instAt t ch i = some z ∧ z.relocWait = none ∧ z.relocOut = none ∧
        NMap.getD t.core.obs.counters (mapCtr (if out = [] then 8 else 7)) 0 =
          NMap.getD s.core.obs.counters (mapCtr (if out = [] then 8 else 7)) 0 + 1 ∧
        ∀ a ∈ p.outs.flatMap rangeBlocks, a ∈ z.tags) ∧
    (∀ y k p due, waitingTake s ch i = some (y, k, p, due) → due < dtOf s → x.relocOut = none →
      ∃ t z, exec (.relocWaitTimeout ch i) s = .next t ∧ instAt t ch i = some z ∧ z.relocWait = none ∧
        NMap.getD t.core.obs.counters (mapCtr 9) 0 = NMap.getD s.core.obs.counters (mapCtr 9) 0 + 1) ∧
    (∀ g k, instSlot s ch x = some g → stepIdx g.graph 8 = some k → x.holds = false → stepOver x k = false → x.deadline < dtOf s →
      ∃ t z, exec (.ctxTakeDeadline ch i) s = .next t ∧ instAt t ch i = some z ∧ z.status ≠ none)

/-! ### Failures -/

/-- What takes a channel out of service, and the restoring of shared blocks (R107, R172, R522 to R524). -/
def Obligations.ChannelsFail : Prop :=
  ∀ (s : State) (ch : Nat), running s = true →
    (ch ∈ serviceChans s →
      (∀ cause engine, ∃ t, exec (.channelFailure ch cause engine) s = .next t ∧ (chanAt t ch).inService = false ∧
        (chanAt t ch).insts = [] ∧ (s.err.regs.length = 16 → (t.err.regs.getD (8 + ch) {}).bits.getLsbD 7 = true)) ∧
      (∀ e c, idleSince s ch e = some c → c + 10000000 < dtOf s →
        ∃ t, exec (.engineHang ch e) s = .next t ∧ (chanAt t ch).inService = false) ∧
      ((chanAt s ch).testMode = 1 → (chanAt s ch).lastSlice + 100000000 ≤ dtOf s → (∀ e ∈ (chanAt s ch).engines, e.run = none) →
        (∃ t, exec (.selfTestSlice ch false) s = .next t ∧ (chanAt t ch).inService = false) ∧
        exec (.selfTestSlice ch true) s = .next (s.modChan ch (fun c => { c with lastSlice := dtOf s })))) ∧
    (∀ e c, idleSince s ch e = some c → dtOf s < c + 10000000 → exec (.engineHang ch e) s = .next s) ∧
    (((chanAt s ch).testMode ≠ 1 ∨ dtOf s < (chanAt s ch).lastSlice + 100000000 ∨ ∃ e ∈ (chanAt s ch).engines, e.run ≠ none) →
      ∀ pass, exec (.selfTestSlice ch pass) s = .next s) ∧
    (∀ slot g, graphAt s ch slot = some g → g.copyLost = false →
      ∃ t, exec (.sharedBlockRestored ch slot) s = .next t ∧ graphAt t ch slot = some { g with restoring := [] })


/-! ### Engines -/

/-- The vision engine's steps and the gather unit's: imaging over the item's frames, a corrupt JPEG, hypothesise and verify, gather (R132, R134, R138,
R143). -/
def Obligations.VisionStepsRun : Prop :=
  ∀ (s : State) (ch i k : Nat) (x : Inst) (g : Slot) (t : GStep),
    (∀ b n it y, atWork s ch 0 2 = some (i, x, g, k, t) → itemOf s x = some (b, n, it) → x.sid.bind (sessAt s) = some y →
      let a := x.calib.getD it.slot {}
      let q := (parsePayload g.graph.kind a.width a.height (itemPayload g x it)).getD {}
      let o := imaging t.param g.graph.kind a (x.calib.getD (it.slot + 1) {}) q (predictionBlock g x t) y.ctx.keypoints y.lastImage
        y.ctx.nextKp ((chanAt s ch).engines.getD 0 {}).lastMove (dtOf s)
      ((stepItems x t).1 ≠ 0 → (q.jpeg && q.frames.any jpegCorrupt) = false →
        ∃ u, exec (.imagingStep ch .clean) s = .next u ∧ WorkDone s ch 0 i (x.putImaging t o) u) ∧
      ((stepItems x t).1 = 0 →
        ∃ u, exec (.imagingStep ch .clean) s = .next u ∧ WorkDone s ch 0 i (x.put (t.outR 0) 0 (imagingHeader 0 false false 0 0 0 0 []
          ((chanAt s ch).engines.getD 0 {}).lastMove (dtOf s) [0, 0, 0])) u) ∧
      ((stepItems x t).1 ≠ 0 → (q.jpeg && q.frames.any jpegCorrupt) = true → x.status = none →
        ∃ u z, exec (.imagingStep ch .clean) s = .next u ∧ instAt u ch i = some z ∧ z.status = some 0x11)) ∧
    (atWork s ch 0 3 = some (i, x, g, k, t) →
      let p := hvSeed s ch x (hvParamOf (hvCam s g x t.param) t.param)
      let n := (stepItems x t).1
      let recs := (List.range n).map (fun j => bytesAt (rangeBytes g x (t.inR 0)) (32 + hvRecord p.mode * j) (hvRecord p.mode))
      ∃ u, exec (.hypothesiseAndVerify ch) s = .next u ∧ WorkDone s ch 0 i (x.put (t.outR 0) 0 (hvBytes n (hvRun p recs))) u) ∧
    (atWork s ch 1 4 = some (i, x, g, k, t) →
      ∃ u sets, exec (.epipolarGather ch) s = .next u ∧ WorkDone s ch 1 i (x.put (t.outR 0) 0 (gatherBytes sets)) u ∧
        sets.length = min (stepItems x t).1 (min 8192 (fieldAt (rangeBytes g x (t.inR 0)) 8 4)) ∧
        (fieldAt (rangeBytes g x (t.inR 1)) 8 4 = 0 → ∀ e ∈ sets, e = ([], 1)))

/-- The tensor arrays: a step over a crate's weights, a late tile and its arrival, a split-precision request and its result (R175, R190 to R193,
R195, R198, R199). -/
def Obligations.TensorStepsRun : Prop :=
  ∀ (s : State) (ch : Nat),
    (∀ i x g k t, atWork s ch 2 5 = some (i, x, g, k, t) → ((chanAt s ch).engines.getD 2 {}).stall = none →
      ((stepItems x t).1 = 0 → ∀ late, ∃ u, exec (.tensorStep ch late .clean) s = .next u ∧ WorkDone s ch 2 i x u) ∧
      (∀ c, (stepItems x t).1 ≠ 0 → crateAt s t.crate = some c → needsPoisoned s ch c t = false →
        let p := c.body.drop t.progOff
        let b := stepBuf s ch x g t p
        (∃ u y, exec (.tensorStep ch false .clean) s = .next u ∧ WorkDone s ch 2 i y u ∧ y.mem = (x.putProgram t p (b.finish p).act).mem ∧
          ((chanAt u ch).engines.getD 2 {}).ta = b.finish p) ∧
        (b.todo ≠ [] →
          ∃ u, exec (.tensorStep ch true .clean) s = .next u ∧ ((chanAt u ch).engines.getD 2 {}).stall = some (dtOf s) ∧
            ((chanAt u ch).engines.getD 2 {}).worked = false ∧ ((chanAt u ch).engines.getD 2 {}).ta = b.wait p ∧
            instAt u ch i = some x ∧ Counted s (chanCtr ch 7) 1 u))) ∧
    (∀ c, running s = true → ((chanAt s ch).engines.getD 2 {}).stall = some c → dtOf s ≤ c + 2000000 →
      ∃ u, exec (.weightTileArrival ch) s = .next u ∧ (chanAt u ch).engines.getD 2 {} =
        { (chanAt s ch).engines.getD 2 {} with stall := none, lastMove := dtOf s, ta := ((chanAt s ch).engines.getD 2 {}).ta.arrive } ∧
        (chanAt u ch).insts = (chanAt s ch).insts) ∧
    (∀ m n k, running s = true → (chanAt s ch).inService = true → ((chanAt s ch).engines.getD 3 {}).run.isSome = true → splitShapeOk m n k = true →
      ((chanAt s ch).split = none →
        ∃ u, exec (.splitRequest ch m n k) s = .next u ∧ (chanAt u ch).engines = (chanAt s ch).engines ∧
          (chanAt u ch).split = some { m := m, n := n, k := k, yielded := ((chanAt s ch).engines.getD 2 {}).run.isSome } ∧
          (chanAt u ch).exch = { (chanAt s ch).exch with desc := (chanAt u ch).split, resultReady := false } ∧
          Counted s (chanCtr ch 8) (b2n ((chanAt s ch).engines.getD 2 {}).run.isSome) u) ∧
      ((chanAt s ch).split ≠ none →
        ∃ u, exec (.splitRequest ch m n k) s = .next u ∧
          chanAt u ch = { chanAt s ch with splitWaits := (chanAt s ch).splitWaits ++ [{ m := m, n := n, k := k, yielded := false }] })) ∧
    (∀ r a b late, running s = true → (chanAt s ch).split = some r → a.length = r.m * r.k → b.length = r.n * r.k →
      ∃ u, exec (.splitResult ch a b late) s = .next u ∧
        (chanAt u ch).exch.result = (rowsOf r.k a).flatMap (fun v => (rowsOf r.k b).map (fun w => (splitElement v w).1)) ∧
        ((chanAt s ch).splitWaits = [] → (chanAt u ch).split = none ∧ (chanAt u ch).exch.resultReady = true) ∧
        (∀ w l, (chanAt s ch).splitWaits = w :: l → (chanAt u ch).splitWaits = l ∧
          (chanAt u ch).split = some { m := w.m, n := w.n, k := w.k, yielded := ((chanAt s ch).engines.getD 2 {}).run.isSome }) ∧
        Counted s (chanCtr ch 9) late u)

/-- The solver's step: it completes; a map job that its deadline admits takes the run's result; a clique late for more than 2 ms breaks the
step off (R212, R236, R243, R247). -/
def Obligations.SolverStepsRun : Prop :=
  ∀ (s : State) (ch i k loadAt : Nat) (x : Inst) (g : Slot) (t : GStep) (timing : List IterTiming),
    atWork s ch 3 6 = some (i, x, g, k, t) →
    ((∀ c, ((chanAt s ch).engines.getD 3 {}).stall = some c → dtOf s ≤ c + 2000000) →
      (∃ u, exec (.solverStep ch loadAt timing .clean) s = .next u ∧ ((chanAt u ch).engines.getD 3 {}).worked = true ∧
        (∀ c, c ≠ ch → (chanAt u c).queue = (chanAt s c).queue)) ∧
      (∀ j y, x.origin = .mapJob j → jobOf s j = some y →
        let d := mapAt s x.mapVersion
        let vars := jobVars d y
        let anchor := anchorAt (((vars.find? (fun v => v.2.1 == 1)).map (fun v => v3At64 v.2.2 0)).getD {})
        let fs := (jobTerms d (fieldAt ((mapParams s).getD defaultMapParams) 0x17 1) y).map (JobTerm.fac anchor)
        let job := solveJobOf t fs anchor (vars.map (·.1))
        let se := loadStructure job { vars := vars }
        let cap := iterCap t.param (chanAt s ch).mapRole y.cap
        exceeds (fullCycles s ch (dimOf (valsOf anchor vars)) job.store se.cliques fs) ((y.deadline : Int) - loadAt) = false →
        ∃ u, exec (.solverStep ch loadAt timing .clean) s = .next u ∧ jobOf u j = some (y.solvedBy cap.1
          (LoopRun.loop (loopParOf t.param y.deadline cap.2) job cap.1 timing loadAt (firstRun t.param job vars se.lin se.cliques []))) ∧
          (∀ n, n ≠ j → jobOf u n = jobOf s n))) ∧
    (∀ c, ((chanAt s ch).engines.getD 3 {}).stall = some c → c + 2000000 < dtOf s →
      ∃ u y, exec (.solverStep ch loadAt timing .clean) s = .next u ∧ ((chanAt u ch).engines.getD 3 {}).run = none ∧
        instAt u ch i = some y ∧ y.status ≠ none)

/-- The fusion engine's four operations (R253 to R261, R272 to R285). -/
def Obligations.FusionStepsRun : Prop :=
  ∀ (s : State) (ch i k : Nat) (x : Inst) (g : Slot) (t : GStep),
    (∀ v b n it y, fuStep s ch 1 = some (i, x, g, k, t) → viewOf s g x = some v → itemOf s x = some (b, n, it) →
      x.sid.bind (sessAt s) = some y →
      let c := x.peek.getD (workCtx s x)
      let at_ := toDt c.clock it.clientTime
      let pose := predictedPose c (if fieldAt t.param 1 1 == 1 then imusSince c y.se at_ else []) (bodyRate c (lastInertial y)) at_
      let before := c.solved.map (fun u => quatAt32 u.header 0x30)
      let feet := (footprints pose v.bytes (NMap.getD s.core.fus.tracks (groupKey y) [])).1
      let items := (stepItems x t).1
      let tie (id : Nat) : Tie :=
        let e := NMap.getD y.ctx.ties id {}
        if s.core.map.inService then e else { e with point := none }
      let record (e : Nat × List Byte) : List Byte := (predictionRecord v pose before feet v.level e.2 (tiePoint y (tie e.1))).1
      let recs := (y.ctx.keypoints.take items).map record
      let table := (y.ctx.reference.take items).map (fun e => referenceEntry (tie e.1) (bit (fieldAt (record e) 0xA 1) 2))
      ∃ u z, exec (.predict ch) s = .next u ∧ WorkDone s ch 4 i z u ∧
        z.mem = (((x.put (t.outR 0) 0 recs.flatten).put (t.outR 1) 0 table.flatten).put (t.outR 2) 0 (if items = 0 then [] else feet)).mem) ∧
    (∀ v sid y sv, fuStep s ch 2 = some (i, x, g, k, t) → viewOf s g x = some v → x.sid = some sid → sessAt s sid = some y →
      (workCtx s x).solved = some sv →
      (gridSlot s sid = none →
        ∃ u, exec (.grid ch) s = .next u ∧ ((chanAt u ch).engines.getD 4 {}).worked = true ∧ u.core.fus = s.core.fus ∧
          Counted s (chanCtr ch 28) 1 u) ∧
      (∀ n, gridSlot s sid = some n →
        ∃ u pt, exec (.grid ch) s = .next u ∧ ((chanAt u ch).engines.getD 4 {}).worked = true ∧ NMap.get? u.core.fus.patches n = some pt ∧
          pt.sid = sid ∧ pt.touched = dtOf s ∧ (∀ m, m ≠ n → NMap.get? u.core.fus.patches m = NMap.get? s.core.fus.patches m) ∧
          u.core.fus.tracks = s.core.fus.tracks)) ∧
    (fuStep s ch 3 = some (i, x, g, k, t) →
      ∃ u, exec (.radio ch) s = .next u ∧ ((chanAt u ch).engines.getD 4 {}).worked = true ∧ u.core.fus = s.core.fus ∧ u.core.map = s.core.map ∧
        ((stepItems x t).1 = 0 → Counted s (chanCtr ch 11) 0 u ∧ u.core.work = s.core.work)) ∧
    (∀ key, fuStep s ch 4 = some (i, x, g, k, t) → x.origin = .cycleTrack key →
      let q := NMap.getD s.core.fus.obsQ key []
      let r := (q.take 64).foldl (trackBatch t.param (dtOf s)) (refreshTracks s key t.param (NMap.getD s.core.fus.tracks key []))
      ∃ u, exec (.tracks ch) s = .next u ∧ ((chanAt u ch).engines.getD 4 {}).worked = true ∧ NMap.get? u.core.fus.tracks key = some r.table ∧
        (∀ m, m ≠ key → NMap.get? u.core.fus.tracks m = NMap.get? s.core.fus.tracks m) ∧ u.core.fus.patches = s.core.fus.patches ∧
        Counted s (chanCtr ch 31) (q.length - 64) u ∧ Counted s (chanCtr ch 32) r.seen u ∧ Counted s (chanCtr ch 33) r.full u)

/-- What ends by time in fusion: old observations, a source's quarantine, an array's (R268, R269, R279). -/
def Obligations.FusionTimesOut : Prop :=
  ∀ (s : State), running s = true →
    (∀ ctx group, tracksCycle s ctx group = false →
      let q := NMap.getD s.core.fus.obsQ (256 * ctx + group) []
      let old := q.filter (fun b => decide (b.t + 1000000000 < dtOf s))
      let rest := q.filter (fun b => decide (dtOf s ≤ b.t + 1000000000))
      old ≠ [] →
      ∃ t, exec (.obsExpire ctx group) s = .next t ∧ t.core.fus = { s.core.fus with
          obsQ := if rest = [] then NMap.erase s.core.fus.obsQ (256 * ctx + group) else NMap.set s.core.fus.obsQ (256 * ctx + group) rest } ∧
        ∀ ch, Counted s (chanCtr ch 30) (old.filter (fun b => b.chan == ch)).length t) ∧
    (∀ sid y c, sessAt s sid = some y → c ≤ dtOf s →
      (y.ctx.quarCamera = some c →
        ∃ t z, exec (.quarantineEnd sid 0) s = .next t ∧ sessAt t sid = some z ∧
          z = { y with ctx := { y.ctx with quarCamera := none, history := setAt y.ctx.history 0 0x3F800000 } } ∧
          ∀ n, n ≠ sid → sessAt t n = sessAt s n) ∧
      (y.ctx.quarOdometry = some c →
        ∃ t z, exec (.quarantineEnd sid 1) s = .next t ∧ sessAt t sid = some z ∧
          z = { y with ctx := { y.ctx with quarOdometry := none, history := setAt y.ctx.history 1 0x3F800000 } } ∧
          ∀ n, n ≠ sid → sessAt t n = sessAt s n)) ∧
    (∀ a c, s.core.scu.quarEnd.getD a none = some c → c ≤ dtOf s →
      ∃ t, exec (.anchorQuarantineEnd a) s = .next t ∧ arrayQuarantined t a = false ∧ t.core.scu.votes.getD a [] = [] ∧
        ∀ b, b ≠ a → t.core.scu.quarEnd.getD b none = s.core.scu.quarEnd.getD b none)

/-! ### The event table, pins, PTP -/

/-- The firing of an entry by its action, the end of a pulse, PPS_OUT, captures (R380 to R382, R384, R387 to R389). -/
def Obligations.EventTableActs : Prop :=
  ∀ (s : State),
    (∀ idx e, running s = true → NMap.get? s.core.air.events idx = some e → e.next ≤ dtQuarter s →
      (∀ p ∈ s.core.air.events, before p.1 p.2 idx e = false) →
      ∃ t, exec (.eventFire idx) s = .next t ∧
        t.core.air.events = (if e.period = 0 then NMap.erase s.core.air.events idx
          else NMap.set s.core.air.events idx { e with next := e.next + 40000000 * e.period }) ∧
        (e.action = 1 → t.core.air.closes = NMap.set s.core.air.closes (256 * bits e.arg 15 8 + bits e.arg 7 0) e.next) ∧
        (e.action = 3 → ∀ n, n < s.core.scu.chains.length →
          t.core.scu.chains.getD n {} = if bit e.arg n then (s.core.scu.chains.getD n {}).closeWindow e.next else s.core.scu.chains.getD n {}) ∧
        (e.action = 4 → ∀ n, n < s.core.scu.chains.length →
          t.core.scu.chains.getD n {} = if bit e.arg n then (s.core.scu.chains.getD n {}).openWindow e.next else s.core.scu.chains.getD n {}) ∧
        (e.action = 5 → NMap.get? s.core.air.launch (64 * bits e.arg 8 8 + bits e.arg 5 0) = none →
          Counted s (timeCtr (bits e.arg 8 8) 2) 1 t ∧ t.out = s.out) ∧
        (∀ f, e.action = 5 → NMap.get? s.core.air.launch (64 * bits e.arg 8 8 + bits e.arg 5 0) = some f →
          s.hw.epUp.getD (bits e.arg 8 8) false = true →
          s.core.air.launchBusy.getD (bits e.arg 8 8) 0 + wireQ s (bits e.arg 8 8) 8 ≤ e.next →
          t.out = s.out ++ [.ethFrame (bits e.arg 8 8) e.next (f ++ leBytes 4 (crc32 f).toNat)]) ∧
        (e.action = 6 → bits e.arg 1 0 < s.core.air.tev.length →
          (bits e.arg 5 4 = 0 → (t.core.air.tev.getD (bits e.arg 1 0) {}).level = false) ∧
          (bits e.arg 5 4 = 1 ∨ bits e.arg 5 4 = 3 → (t.core.air.tev.getD (bits e.arg 1 0) {}).level = true) ∧
          (bits e.arg 5 4 = 2 → (t.core.air.tev.getD (bits e.arg 1 0) {}).level = !(s.core.air.tev.getD (bits e.arg 1 0) {}).level)) ∧
        (∀ home, e.action = 2 → bits e.arg 22 16 = 0x7F → bits e.arg 30 24 ≠ 0x7F →
          homeOf s (256 * bits e.arg 15 8 + bits e.arg 7 0) = some home → home < s.core.chans.length →
          (residentAt s home (bits e.arg 30 24)).isSome = true → slotAdmits s home (bits e.arg 30 24) (bits e.arg 15 8) = true →
          (∀ w ∈ (chanAt s home).queue, w.origin ≠ .cycleTrack (256 * bits e.arg 15 8 + bits e.arg 7 0)) →
          ∃ w, (chanAt t home).queue = (chanAt s home).queue ++ [w] ∧ w.origin = .cycleTrack (256 * bits e.arg 15 8 + bits e.arg 7 0) ∧
            w.slot = bits e.arg 30 24 ∧ w.deadline = e.next / 4 + 10000000)) ∧
    (∀ pin q, (s.core.air.tev.getD pin {}).pulseEnd = some q → q ≤ dtQuarter s →
      ∃ t, exec (.tevPulseEnd pin) s = .next t ∧ t.out = s.out ++ [.tevEdge pin q false] ∧
        t.core.air.tev.getD pin {} = { s.core.air.tev.getD pin {} with level := false, pulseEnd := none }) ∧
    (∀ e, s.core.air.ppsHigh = some e → e ≤ dtOf s →
      exec .ppsOutEdge s = .next ((s.modAir (fun a => { a with ppsHigh := none })).emit (.ppsEdge e false))) ∧
    (∀ mode, running s = true → s.core.air.ppsHigh = none → mode = bits s.core.air.ppsCtl.toNat 1 0 → mode = 1 ∨ mode = 2 →
      s.core.air.ppsLast.getD 0 < ppsBoundary s mode →
      ∃ t w, exec .ppsOutEdge s = .next t ∧ t.out = s.out ++ [.ppsEdge (ppsBoundary s mode) true] ∧
        t.core.air.ppsHigh = some (ppsBoundary s mode + 1000 * w) ∧ 1 ≤ w ∧ w ≤ 5000) ∧
    (∀ src rising, running s = true → src ≤ 4 → src < s.core.air.caps.length → captures s src rising = true →
      let c := s.core.air.caps.getD src {}
      ∃ t, exec (.captureEdge src rising) s = .next t ∧
        (∀ o, o ≠ src → t.core.air.caps.getD o {} = s.core.air.caps.getD o {}) ∧
        ((∀ l, c.last = some l → l + 40 ≤ dtQuarter s) → c.q.length < 16 →
          t.core.air.caps.getD src {} = { c with last := some (dtQuarter s), q := c.q ++ [dtQuarter s] }) ∧
        ((∀ l, c.last = some l → l + 40 ≤ dtQuarter s) → 16 ≤ c.q.length →
          t.core.air.caps.getD src {} = { c with last := some (dtQuarter s), ovf := true }) ∧
        (∀ l, c.last = some l → dtQuarter s < l + 40 → t.core.air.caps.getD src {} = { c with last := some (dtQuarter s) }))

/-- PTP: what a port sends, what a received message does, and the three timers (R363, R366 to R371). -/
def Obligations.PtpTakesEffect : Prop :=
  ∀ (s : State) (p : Nat), running s = true → p < 2 → s.core.air.ports.length = 2 →
    let x := ptpPortAt s p
    (s.hw.epUp.getD p false = true →
      (x.state = .master → x.stepMode ≠ 2 →
        ∃ t, exec (.ptpMessageSend p .sync) s = .next t ∧ ptpPortAt t p = { x with seq := (x.seq + 1) % 65536 } ∧
          t.out = s.out ++ [.ethFrame p (leaveQ s p 58) (ptpFrame p x 0 0 x.seq 0xFC (leave16 s p 58 % 65536) (stampField (leave16 s p 58)))]) ∧
      (x.state = .master → x.stepMode = 2 → x.egress.length < 64 →
        ∃ t, exec (.ptpMessageSend p .sync) s = .next t ∧
          ptpPortAt t p = { x with seq := (x.seq + 1) % 65536, egress := x.egress ++ [(0, x.seq, leave16 s p 58)] } ∧
          t.out = s.out ++ [.ethFrame p (leaveQ s p 58) (ptpFrame p x 0 0x0200 x.seq 0xFC 0 (stampField 0))]) ∧
      (∀ q d, x.state = .master → x.stepMode = 2 → x.egress.find? (fun e => e.1 == 0) = some (0, q, d) →
        ∃ t, exec (.ptpMessageSend p .followUp) s = .next t ∧ ptpPortAt t p = { x with egress := x.egress.erase (0, q, d) } ∧ t.core.time = s.core.time) ∧
      (x.state = .uncalibrated ∨ x.state = .slave → x.egress.length < 64 →
        ∃ t, exec (.ptpMessageSend p .delayReq) s = .next t ∧
          ptpPortAt t p = { x with seq := (x.seq + 1) % 65536, delayReq := some (x.seq, leave16 s p 58), lost := false,
                                   egress := x.egress ++ [(1, x.seq, leave16 s p 58)] }) ∧
      (x.state = .master →
        ∃ t, exec (.ptpMessageSend p .announce) s = .next t ∧ ptpPortAt t p = { x with seq := (x.seq + 1) % 65536 } ∧
          t.out = s.out ++ [.ethFrame p (leaveQ s p 78) (ptpFrame p x 11 8 x.seq 0xFD 0 (announceBody s))]) ∧
      (∀ f d, x.role ≠ 0 →
        (ptpGood s p f = false → exec (.ptpFrameRx p f d) s = .next (s.bump (timeCtr p 0) 1)) ∧
        (ptpGood s p f = true → ptpType f = 11 →
          ∃ t, exec (.ptpFrameRx p f d) s = .next t ∧ (ptpPortAt t p).announce = some (dtOf s, f)) ∧
        (ptpGood s p f = true → ptpType f = 1 → x.state = .master →
          ∃ t m, exec (.ptpFrameRx p f d) s = .next t ∧ t.out = s.out ++ [.ethFrame p (leaveQ s p 68) m] ∧ ptpType m = 9 ∧ t.core = s.core) ∧
        (x.state = .uncalibrated ∨ x.state = .slave →
          (ptpGood s p f = true → ptpType f = 0 → ptpTwoStep f = true →
            ∃ t, exec (.ptpFrameRx p f d) s = .next t ∧ ptpPortAt t p = { x with sync := some (ptpSeq f, 0, d, ptpCorr f, false) }) ∧
          (∀ t3 t4 cd, ptpGood s p f = true → ptpType f = 0 → ptpTwoStep f = false → x.delay = some (t3, t4, cd) →
            let path : Rat := (((d : Int) - ptpStamp f 34 - ptpCorr f) + (t4 - t3 - cd) : Int) / (2 : Rat)
            ∃ t, exec (.ptpFrameRx p f d) s = .next t ∧ (ptpPortAt t p).state = .slave ∧ t.core.time.measSeq = s.core.time.measSeq + 1 ∧
              t.core.time.measPath = BitVec.ofInt 64 (toSigned 64 path).1 ∧
              t.core.time.measOffset =
                BitVec.ofInt 64 (toSigned 64 (((((d : Int) - ptpStamp f 34 - ptpCorr f) - x.asym : Int) : Rat) - path)).1 ∧ t.core.time.srcPort = p) ∧
          (∀ q t3, ptpGood s p f = true → ptpType f = 9 → x.delayReq = some (q, t3) → q = ptpSeq f →
            beAt (ptpBody f) 44 8 = clockIdentity % 2 ^ 64 → beAt (ptpBody f) 52 2 = p + 1 → x.lost = false →
            ∃ t, exec (.ptpFrameRx p f d) s = .next t ∧ (ptpPortAt t p).delay = some (t3, ptpStamp f 34, ptpCorr f) ∧
              (ptpPortAt t p).delayReq = none)))) ∧
    (x.role ≠ 0 → x.heard + 375000000 < dtOf s → x.state = .listening ∨ x.state = .uncalibrated ∨ x.state = .slave ∨ x.state = .passive →
      ∃ t, exec (.ptpAnnounceTimeout p) s = .next t ∧ (ptpPortAt t p).announce = none ∧ (ptpPortAt t p).delay = none ∧
        (ptpPortAt t p).heard = dtOf s) ∧
    (s.core.time.clockQ = .locked → s.core.time.lastMeas.getD 0 + 1000000000 < dtOf s →
      ∃ t, exec .holdoverTimeout s = .next t ∧ t.core.time.clockQ = .holdover ∧ t.core.time.holdSince = some (dtOf s) ∧ t.core.time.hold165 = false ∧
        (s.err.regs.length = 16 → (t.err.regs.getD 1 {}).bits.getLsbD 5 = true)) ∧
    (∀ h, s.core.time.clockQ = .holdover → s.core.time.holdSince = some h → h + 1000000000000 ≤ dtOf s →
      exec .clockClassTimer s = .next (s.modTime (fun t => { t with hold165 := true })))

/-! ### Soundings -/

/-- The radio intake: a frame counted, a stale symbol, a section stored; a symbol that stays incomplete; an element rebuilt; a test block; a
reference that ends (R327, R330, R336, R337, R343, R349, R356). -/
def Obligations.SoundingsTakeEffect : Prop :=
  ∀ (s : State), running s = true →
    (∀ p f e, p < 2 → s.hw.epUp.getD p false = true → s.hw.is968 = true →
      (parseFronthaul s.core.air.mu f = .other → exec (.epFrameRx p f e) s = .next (s.bump (scuPortCtr p 1) 1)) ∧
      (parseFronthaul s.core.air.mu f = .bad → exec (.epFrameRx p f e) s = .next (s.bump (scuPortCtr p 0) 1)) ∧
      (∀ m start sfn, parseFronthaul s.core.air.mu f = .msg m → airStart s m = (start, sfn) →
        (2000000 < dtExact s - start →
          (∀ q ∈ s.pruneIntake.core.scu.syms, q.2.port = p → q.2.air = (toQuarter start).toNat → q.2.phase ≠ 0) → (p, 65536, (toQuarter start).toNat) ∉ s.pruneIntake.core.scu.unbound →
          ∃ t, exec (.epFrameRx p f e) s = .next t ∧ Counted s (scuPortCtr p 2) 1 t ∧ t.core.scu.syms = s.pruneIntake.core.scu.syms ∧
            t.core.work = s.core.work) ∧
        (∀ x bi b k y, dtExact s - start ≤ 2000000 → m.sections = [x] → s.core.scu.bindings = [(bi, b)] → b.port = p →
          (matchingElements s b).any (fun z => z.2.2.eaxc == m.eaxc) = true → b.occasion s.core.air.mu sfn m.subframe m.slot = true →
          b.meets m x = true → (bi, (toQuarter start).toNat) ∉ s.pruneIntake.core.scu.gone →
          symOf s.pruneIntake bi (toQuarter start).toNat = some (k, y) → NMap.get? s.pruneIntake.core.scu.syms k = some y → y.phase = 0 →
          let add := y.els.map (fun z => if z.def_.eaxc == m.eaxc then newPrbs b z x else [])
          let n := ((add.flatMap id).map (fun q => q.2.length)).foldl (· + ·) 0
          let y' := { y with els := (y.els.zip add).map (fun q =>
            { q.1 with prbs := q.2.foldl (fun l r => NMap.set l r.1 (x.width, r.2)) q.1.prbs }) }
          s.core.scu.held.getD y.port 0 + n ≤ 2097152 → fifoHeld s y.port + n ≤ 65536 → y'.complete b = false →
          ∃ t, exec (.epFrameRx p f e) s = .next t ∧ NMap.get? t.core.scu.syms k = some y' ∧
            t.core.scu.held = updAt s.core.scu.held y.port (· + n) ∧ t.core.work = s.core.work))) ∧
    (∀ k y, NMap.get? s.core.scu.syms k = some y → y.phase = 0 → y.began + 32000 < dtOf s →
      ∃ t, exec (.symbolIncomplete k) s = .next t ∧ t.core.scu.syms = NMap.erase s.core.scu.syms k ∧
        t.core.scu.gone = s.core.scu.gone ++ [(y.binding, y.air)] ∧ Counted s (scuPortCtr y.port 7) 1 t ∧ Counted s (scuPortCtr y.port 9) 1 t) ∧
    (∀ k y e, NMap.get? s.core.scu.syms k = some y → y.phase = 1 → y.els[y.built]? = some e → firstComplete s y = true →
      (y.built + 1 < y.els.length →
        ∃ t z, exec (.elementRebuild k) s = .next t ∧ NMap.get? t.core.scu.syms k = some z ∧ z.built = y.built + 1 ∧
          ((scuChain s e.chain).run = true → (scuChain s e.chain).owner = 0 → z.delivered = y.delivered + 1) ∧
          ((scuChain s e.chain).run = false → z.delivered = y.delivered ∧ Counted s (scuPortCtr y.port 6) 1 t)) ∧
      (y.els.length ≤ y.built + 1 →
        ∃ t, exec (.elementRebuild k) s = .next t ∧ t.core.scu.gone = s.core.scu.gone ++ [(y.binding, y.air)])) ∧
    (∀ c, s.hw.is968 = true → c < 32 → (scuChain s c).run = true → (scuChain s c).owner = 1 →
      (∀ q, NMap.get? s.core.scu.lastTest c = some q → q / 1000000 < dtOf s / 1000000) →
      ∃ t, exec (.testInjectionBlock c) s = .next t ∧ NMap.get? t.core.scu.lastTest c = some (dtOf s) ∧ Counted s (scuChainCtr c) 1 t ∧
        ∀ b, b ≠ c → scuChain t b = scuChain s b) ∧
    (∀ n b r, bindingAt s n = some b → b.ref = some r → r.lastValid + 1000000000 < dtOf s →
      ∃ t, exec (.refTimeout n) s = .next t ∧ bindingAt t n = some { b with ref := none } ∧ ∀ m, m ≠ n → bindingAt t m = bindingAt s m)

/-! ### Rules of the spec, whole -/

/-- R36: the pin cap of each part and level, as the loop applies it after two like samples of the pins (R38). -/
def Obligations.PinCapsFollowTheTable : Prop :=
  (pinCapOf .hyn968 0 = 140 ∧ pinCapOf .hyn968 1 = 90 ∧ pinCapOf .hyn968 2 = 60 ∧ pinCapOf .hyn968 3 = 60) ∧
  (pinCapOf .hyn964 0 = 80 ∧ pinCapOf .hyn964 1 = 60 ∧ pinCapOf .hyn964 2 = 45 ∧ pinCapOf .hyn964 3 = 45) ∧
  ∀ (s : State) (v dw : Nat), running s = true → s.core.sys.phase = .ready → v < 4 →
    ∃ t u w, exec (.pwrCapSample v) s = .next t ∧ exec (.pwrCapSample v) t = .next u ∧ exec (.powerWindow dw) u = .next w ∧
      w.core.pow.pinCap = pinCapOf s.hw.part v

/-- R415: the default slot table, its shares and its background classes. -/
def Obligations.DefaultSlotTable : Prop :=
  let own (i : Nat) : Nat := (fabricOf defaultImage).owners.getD i 0
  let bg (i : Nat) : Nat := (fabricOf defaultImage).bg.getD i 9
  (∀ q n, q < 4 → n < 8 →
    own (64 * q + 8 * n) = 6 * n ∧ own (64 * q + 8 * n + 2) = 6 * n + 3 ∧
    own (64 * q + 8 * n + 4) = (if q % 2 = 0 then 6 * n + 1 else 6 * n + 2) ∧
    own (64 * q + 8 * n + 6) = (if q % 2 = 0 then 6 * n + 4 else 6 * n + 5) ∧
    own (64 * q + 8 * n + 1) = 50 ∧ own (64 * q + 8 * n + 7) = 255 ∧
    own (64 * q + 8 * n + 5) = (if n % 2 = 0 then 51 else 255) ∧
    own (64 * q + 8 * n + 3) = [48, 49, 52, 53, 54, 55, 255, 255].getD n 0) ∧
  (∀ n, n < 8 → ((fabricOf defaultImage).owners.filter (fun o => decide (6 * n ≤ o) && decide (o < 6 * n + 6))).length = 16) ∧
  ((fabricOf defaultImage).owners.filter (· == 50)).length = 32 ∧ ((fabricOf defaultImage).owners.filter (· == 51)).length = 16 ∧
  (∀ i, i ∈ [48, 49, 52, 53, 54, 55] → ((fabricOf defaultImage).owners.filter (· == i)).length = 4) ∧
  ((fabricOf defaultImage).owners.filter (· == 255)).length = 56 ∧
  (∀ n, n < 8 → bg (6 * n + 3) = 0 ∧ bg (6 * n + 5) = 0 ∧ bg (6 * n) = 1 ∧ bg (6 * n + 2) = 1 ∧ bg (6 * n + 4) = 1 ∧ bg (6 * n + 1) = 2) ∧
  bg 48 = 0 ∧ bg 49 = 0 ∧ bg 50 = 2 ∧ bg 51 = 3 ∧ (∀ i, 52 ≤ i → i ≤ 55 → bg i = 1)

/-- R60: RD_COUNT of a result area is read and written at its offset, the free slots follow the counts modulo 2³², and an area that holds reserved
slots refuses RESULT_AREA_SET. -/
def Obligations.AreaCountersAndSlots : Prop :=
  (∀ a, a < 16 → (areaAt State.reset a).rd = 0) ∧
  (∀ (s : State) (n v : Nat), running s = true → endpointUp s = true → n < 16 → s.core.ring.areas.length = 16 → v < 2 ^ 32 →
    ∃ t u, exec (.rareaRdWrite n v) s = .next t ∧ exec (.registerWrite (0x4000 + 4 * n) 4 v false) s = .next t ∧
      exec (.halfReadLatch ⟨0x4000 + 4 * n, 4⟩) t = .next u ∧ u.out = s.out ++ [.readData (leBytes 4 v) false] ∧ (areaAt t n).rd = BitVec.ofNat 32 v) ∧
  (∀ (a : Area) (k : Nat), k ≤ a.size → a.size < 2 ^ 32 → a.wr = a.rd + BitVec.ofNat 32 k → areaFree a = a.size - k - a.reserved) ∧
  (∀ (s : State) (h : Nat) (p : List Byte), takes s h 0x0302 p = true → fieldAt p 0 1 < 16 →
    (fieldAt p 1 1 ≤ 63 ∨ fieldAt p 1 1 = 255) →
    (fieldAt p 4 4 = 0 ∨ 1 ≤ fieldAt p 2 2 ∧ fieldAt p 2 2 ≤ 1024 ∧ ringSize 256 1048576 (fieldAt p 4 4) = true ∧ fieldAt p 8 8 % 4096 = 0 ∧
      1 ≤ fieldAt p 0x10 4 ∧ fieldAt p 0x10 4 ≤ 10000) →
    (areaAt s (fieldAt p 0 1)).reserved ≠ 0 → Responds s h 0x13 [] s.core (exec (.resultAreaSet h) s))

/-- R373 and R374: the air time of a symbol's start is that symbol, with no offset, at every numerology and epoch. -/
def Obligations.SymbolStartsAreExact : Prop :=
  ∀ (mu sfn sub slot sym : Nat) (epoch cycles : Int), mu ≤ 3 → sfn < 1024 → sub < 10 → slot < 2 ^ mu → sym < 14 →
    airOf mu epoch (epoch + 10240000000 * cycles + symStart mu sfn sub slot sym) =
      { sfn := sfn, subframe := sub, slot := slot, symbol := sym, offset := 0 }

/-- R282: of the rows of a batch no two have one track column, and each column given is a track's. -/
def Obligations.AssignmentIsOneToOne : Prop :=
  ∀ (cs : Costs) (m r q j : Nat), (assignment cs m).length = cs.length ∧
    ((assignment cs m).getD r none = some j → j < m ∧ ((assignment cs m).getD q none = some j → q = r))

/-! ### The invariant -/

/-- Every command answers with a next state, which keeps the queue (R90: only a step takes from it), and only the pins move the
pins' levels; of all commands only LOFT_STORE, and the supply failing as it writes, change the loft's pages (R502, R518, R519). -/
def Obligations.OnlyStoresChangeTheLoft : Prop :=
  ∀ (c : Instr) (s : State), ∃ t, exec c s = .next t ∧ t.pending = s.pending ∧
    ((∀ d k b, c ≠ .strapChange d k b) → t.hw.devidPins = s.hw.devidPins ∧ t.hw.bootPins = s.hw.bootPins) ∧
    ((∀ v, c ≠ .pwrCapSample v) → t.hw.capPins = s.hw.capPins) ∧
    ((∀ h d g, c ≠ .loftStore h d g) → (∀ b, c ≠ .powerLoss b) → t.loft.pages = s.loft.pages) ∧
    ((∀ h d g, c ≠ .loftStore h d g) → t.loft.writes = s.loft.writes)

/-- Every step keeps the state sound: from every sound state, whatever command stands at the front of the queue. -/
def Obligations.StepKeepsStatesSound : Prop :=
  ∀ (s t : State), Sound s → step s = .next t → Sound t

/-- The state after reset is sound, and holds the values that the spec gives for reset: the hatch cap is the part's package power (R37), each
hatch's vector its own number (R84), the counts and HATCH_DONE zero (R60, R96, R101), μ 1 and E 0 (R373). -/
def Obligations.ResetIsSound : Prop :=
  Sound State.reset ∧ State.reset.pending = [] ∧ State.reset.core.pow.hatchCap = packageW State.reset.hw.part ∧
  (∀ h, h < 64 → (ctlAt State.reset h).vector = h ∧ (ctlAt State.reset h).own = false ∧ (ctlAt State.reset h).pend = false) ∧
  State.reset.core.hat.done = 0 ∧ State.reset.core.ring.evRd = 0 ∧ (∀ a, a < 16 → (areaAt State.reset a).rd = 0) ∧
  State.reset.core.air.mu = 1 ∧ State.reset.core.air.epoch = 0
end

