-- ==== Sys2Proof/Laws/State.lean ====
section
/-! SUPPORT. One lemma per field per update of the state, so that no proof unfolds a record update. -/
namespace Sys2Proof.Machine

section Sys
variable (s : State) (f : Sys → Sys)
@[simp] theorem State.modSys_hw : (s.modSys f).hw = s.hw := rfl
@[simp] theorem State.modSys_pcie : (s.modSys f).pcie = s.pcie := rfl
@[simp] theorem State.modSys_loft : (s.modSys f).loft = s.loft := rfl
@[simp] theorem State.modSys_err : (s.modSys f).err = s.err := rfl
@[simp] theorem State.modSys_core : (s.modSys f).core = { s.core with sys := f s.core.sys } := rfl
@[simp] theorem State.modSys_out : (s.modSys f).out = s.out := rfl
@[simp] theorem State.modSys_free : (s.modSys f).free = s.free := rfl
@[simp] theorem State.modSys_pending : (s.modSys f).pending = s.pending := rfl
end Sys

section Hat
variable (s : State) (f : Hatches → Hatches)
@[simp] theorem State.modHat_hw : (s.modHat f).hw = s.hw := rfl
@[simp] theorem State.modHat_pcie : (s.modHat f).pcie = s.pcie := rfl
@[simp] theorem State.modHat_loft : (s.modHat f).loft = s.loft := rfl
@[simp] theorem State.modHat_err : (s.modHat f).err = s.err := rfl
@[simp] theorem State.modHat_core : (s.modHat f).core = { s.core with hat := f s.core.hat } := rfl
@[simp] theorem State.modHat_out : (s.modHat f).out = s.out := rfl
@[simp] theorem State.modHat_free : (s.modHat f).free = s.free := rfl
@[simp] theorem State.modHat_pending : (s.modHat f).pending = s.pending := rfl
end Hat

section Ring
variable (s : State) (f : Rings → Rings)
@[simp] theorem State.modRing_hw : (s.modRing f).hw = s.hw := rfl
@[simp] theorem State.modRing_pcie : (s.modRing f).pcie = s.pcie := rfl
@[simp] theorem State.modRing_loft : (s.modRing f).loft = s.loft := rfl
@[simp] theorem State.modRing_err : (s.modRing f).err = s.err := rfl
@[simp] theorem State.modRing_core : (s.modRing f).core = { s.core with ring := f s.core.ring } := rfl
@[simp] theorem State.modRing_out : (s.modRing f).out = s.out := rfl
@[simp] theorem State.modRing_free : (s.modRing f).free = s.free := rfl
@[simp] theorem State.modRing_pending : (s.modRing f).pending = s.pending := rfl
end Ring

section Work
variable (s : State) (f : Work → Work)
@[simp] theorem State.modWork_hw : (s.modWork f).hw = s.hw := rfl
@[simp] theorem State.modWork_pcie : (s.modWork f).pcie = s.pcie := rfl
@[simp] theorem State.modWork_loft : (s.modWork f).loft = s.loft := rfl
@[simp] theorem State.modWork_err : (s.modWork f).err = s.err := rfl
@[simp] theorem State.modWork_core : (s.modWork f).core = { s.core with work := f s.core.work } := rfl
@[simp] theorem State.modWork_out : (s.modWork f).out = s.out := rfl
@[simp] theorem State.modWork_free : (s.modWork f).free = s.free := rfl
@[simp] theorem State.modWork_pending : (s.modWork f).pending = s.pending := rfl
end Work

section Chans
variable (s : State) (f : List Chan → List Chan)
@[simp] theorem State.modChans_hw : (s.modChans f).hw = s.hw := rfl
@[simp] theorem State.modChans_pcie : (s.modChans f).pcie = s.pcie := rfl
@[simp] theorem State.modChans_loft : (s.modChans f).loft = s.loft := rfl
@[simp] theorem State.modChans_err : (s.modChans f).err = s.err := rfl
@[simp] theorem State.modChans_core : (s.modChans f).core = { s.core with chans := f s.core.chans } := rfl
@[simp] theorem State.modChans_out : (s.modChans f).out = s.out := rfl
@[simp] theorem State.modChans_free : (s.modChans f).free = s.free := rfl
@[simp] theorem State.modChans_pending : (s.modChans f).pending = s.pending := rfl
end Chans

section Map
variable (s : State) (f : MapSt → MapSt)
@[simp] theorem State.modMap_hw : (s.modMap f).hw = s.hw := rfl
@[simp] theorem State.modMap_pcie : (s.modMap f).pcie = s.pcie := rfl
@[simp] theorem State.modMap_loft : (s.modMap f).loft = s.loft := rfl
@[simp] theorem State.modMap_err : (s.modMap f).err = s.err := rfl
@[simp] theorem State.modMap_core : (s.modMap f).core = { s.core with map := f s.core.map } := rfl
@[simp] theorem State.modMap_out : (s.modMap f).out = s.out := rfl
@[simp] theorem State.modMap_free : (s.modMap f).free = s.free := rfl
@[simp] theorem State.modMap_pending : (s.modMap f).pending = s.pending := rfl
end Map

section Time
variable (s : State) (f : Time → Time)
@[simp] theorem State.modTime_hw : (s.modTime f).hw = s.hw := rfl
@[simp] theorem State.modTime_pcie : (s.modTime f).pcie = s.pcie := rfl
@[simp] theorem State.modTime_loft : (s.modTime f).loft = s.loft := rfl
@[simp] theorem State.modTime_err : (s.modTime f).err = s.err := rfl
@[simp] theorem State.modTime_core : (s.modTime f).core = { s.core with time := f s.core.time } := rfl
@[simp] theorem State.modTime_out : (s.modTime f).out = s.out := rfl
@[simp] theorem State.modTime_free : (s.modTime f).free = s.free := rfl
@[simp] theorem State.modTime_pending : (s.modTime f).pending = s.pending := rfl
end Time

section Air
variable (s : State) (f : Air → Air)
@[simp] theorem State.modAir_hw : (s.modAir f).hw = s.hw := rfl
@[simp] theorem State.modAir_pcie : (s.modAir f).pcie = s.pcie := rfl
@[simp] theorem State.modAir_loft : (s.modAir f).loft = s.loft := rfl
@[simp] theorem State.modAir_err : (s.modAir f).err = s.err := rfl
@[simp] theorem State.modAir_core : (s.modAir f).core = { s.core with air := f s.core.air } := rfl
@[simp] theorem State.modAir_out : (s.modAir f).out = s.out := rfl
@[simp] theorem State.modAir_free : (s.modAir f).free = s.free := rfl
@[simp] theorem State.modAir_pending : (s.modAir f).pending = s.pending := rfl
end Air

section Scu
variable (s : State) (f : Scu → Scu)
@[simp] theorem State.modScu_hw : (s.modScu f).hw = s.hw := rfl
@[simp] theorem State.modScu_pcie : (s.modScu f).pcie = s.pcie := rfl
@[simp] theorem State.modScu_loft : (s.modScu f).loft = s.loft := rfl
@[simp] theorem State.modScu_err : (s.modScu f).err = s.err := rfl
@[simp] theorem State.modScu_core : (s.modScu f).core = { s.core with scu := f s.core.scu } := rfl
@[simp] theorem State.modScu_out : (s.modScu f).out = s.out := rfl
@[simp] theorem State.modScu_free : (s.modScu f).free = s.free := rfl
@[simp] theorem State.modScu_pending : (s.modScu f).pending = s.pending := rfl
end Scu

section Fus
variable (s : State) (f : Fus → Fus)
@[simp] theorem State.modFus_hw : (s.modFus f).hw = s.hw := rfl
@[simp] theorem State.modFus_pcie : (s.modFus f).pcie = s.pcie := rfl
@[simp] theorem State.modFus_loft : (s.modFus f).loft = s.loft := rfl
@[simp] theorem State.modFus_err : (s.modFus f).err = s.err := rfl
@[simp] theorem State.modFus_core : (s.modFus f).core = { s.core with fus := f s.core.fus } := rfl
@[simp] theorem State.modFus_out : (s.modFus f).out = s.out := rfl
@[simp] theorem State.modFus_free : (s.modFus f).free = s.free := rfl
@[simp] theorem State.modFus_pending : (s.modFus f).pending = s.pending := rfl
end Fus

section Tiers
variable (s : State) (f : Tiers → Tiers)
@[simp] theorem State.modTiers_hw : (s.modTiers f).hw = s.hw := rfl
@[simp] theorem State.modTiers_pcie : (s.modTiers f).pcie = s.pcie := rfl
@[simp] theorem State.modTiers_loft : (s.modTiers f).loft = s.loft := rfl
@[simp] theorem State.modTiers_err : (s.modTiers f).err = s.err := rfl
@[simp] theorem State.modTiers_core : (s.modTiers f).core = { s.core with tiers := f s.core.tiers } := rfl
@[simp] theorem State.modTiers_out : (s.modTiers f).out = s.out := rfl
@[simp] theorem State.modTiers_free : (s.modTiers f).free = s.free := rfl
@[simp] theorem State.modTiers_pending : (s.modTiers f).pending = s.pending := rfl
end Tiers

section Fab
variable (s : State) (f : Fabric → Fabric)
@[simp] theorem State.modFab_hw : (s.modFab f).hw = s.hw := rfl
@[simp] theorem State.modFab_pcie : (s.modFab f).pcie = s.pcie := rfl
@[simp] theorem State.modFab_loft : (s.modFab f).loft = s.loft := rfl
@[simp] theorem State.modFab_err : (s.modFab f).err = s.err := rfl
@[simp] theorem State.modFab_core : (s.modFab f).core = { s.core with fab := f s.core.fab } := rfl
@[simp] theorem State.modFab_out : (s.modFab f).out = s.out := rfl
@[simp] theorem State.modFab_free : (s.modFab f).free = s.free := rfl
@[simp] theorem State.modFab_pending : (s.modFab f).pending = s.pending := rfl
end Fab

section Sec
variable (s : State) (f : Sec → Sec)
@[simp] theorem State.modSec_hw : (s.modSec f).hw = s.hw := rfl
@[simp] theorem State.modSec_pcie : (s.modSec f).pcie = s.pcie := rfl
@[simp] theorem State.modSec_loft : (s.modSec f).loft = s.loft := rfl
@[simp] theorem State.modSec_err : (s.modSec f).err = s.err := rfl
@[simp] theorem State.modSec_core : (s.modSec f).core = { s.core with sec := f s.core.sec } := rfl
@[simp] theorem State.modSec_out : (s.modSec f).out = s.out := rfl
@[simp] theorem State.modSec_free : (s.modSec f).free = s.free := rfl
@[simp] theorem State.modSec_pending : (s.modSec f).pending = s.pending := rfl
end Sec

section Link
variable (s : State) (f : Link → Link)
@[simp] theorem State.modLink_hw : (s.modLink f).hw = s.hw := rfl
@[simp] theorem State.modLink_pcie : (s.modLink f).pcie = s.pcie := rfl
@[simp] theorem State.modLink_loft : (s.modLink f).loft = s.loft := rfl
@[simp] theorem State.modLink_err : (s.modLink f).err = s.err := rfl
@[simp] theorem State.modLink_core : (s.modLink f).core = { s.core with link := f s.core.link } := rfl
@[simp] theorem State.modLink_out : (s.modLink f).out = s.out := rfl
@[simp] theorem State.modLink_free : (s.modLink f).free = s.free := rfl
@[simp] theorem State.modLink_pending : (s.modLink f).pending = s.pending := rfl
end Link

section Pow
variable (s : State) (f : Pow → Pow)
@[simp] theorem State.modPow_hw : (s.modPow f).hw = s.hw := rfl
@[simp] theorem State.modPow_pcie : (s.modPow f).pcie = s.pcie := rfl
@[simp] theorem State.modPow_loft : (s.modPow f).loft = s.loft := rfl
@[simp] theorem State.modPow_err : (s.modPow f).err = s.err := rfl
@[simp] theorem State.modPow_core : (s.modPow f).core = { s.core with pow := f s.core.pow } := rfl
@[simp] theorem State.modPow_out : (s.modPow f).out = s.out := rfl
@[simp] theorem State.modPow_free : (s.modPow f).free = s.free := rfl
@[simp] theorem State.modPow_pending : (s.modPow f).pending = s.pending := rfl
end Pow

section Obs
variable (s : State) (f : Watch → Watch)
@[simp] theorem State.modObs_hw : (s.modObs f).hw = s.hw := rfl
@[simp] theorem State.modObs_pcie : (s.modObs f).pcie = s.pcie := rfl
@[simp] theorem State.modObs_loft : (s.modObs f).loft = s.loft := rfl
@[simp] theorem State.modObs_err : (s.modObs f).err = s.err := rfl
@[simp] theorem State.modObs_core : (s.modObs f).core = { s.core with obs := f s.core.obs } := rfl
@[simp] theorem State.modObs_out : (s.modObs f).out = s.out := rfl
@[simp] theorem State.modObs_free : (s.modObs f).free = s.free := rfl
@[simp] theorem State.modObs_pending : (s.modObs f).pending = s.pending := rfl
end Obs

section Rest
variable (s : State)
@[simp] theorem State.modLoft_hw (f : Loft → Loft) : (s.modLoft f).hw = s.hw := rfl
@[simp] theorem State.modLoft_pcie (f : Loft → Loft) : (s.modLoft f).pcie = s.pcie := rfl
@[simp] theorem State.modLoft_loft (f : Loft → Loft) : (s.modLoft f).loft = f s.loft := rfl
@[simp] theorem State.modLoft_err (f : Loft → Loft) : (s.modLoft f).err = s.err := rfl
@[simp] theorem State.modLoft_core (f : Loft → Loft) : (s.modLoft f).core = s.core := rfl
@[simp] theorem State.modLoft_out (f : Loft → Loft) : (s.modLoft f).out = s.out := rfl
@[simp] theorem State.modLoft_free (f : Loft → Loft) : (s.modLoft f).free = s.free := rfl
@[simp] theorem State.modLoft_pending (f : Loft → Loft) : (s.modLoft f).pending = s.pending := rfl
@[simp] theorem State.modHw_hw (f : Hw → Hw) : (s.modHw f).hw = f s.hw := rfl
@[simp] theorem State.modHw_pcie (f : Hw → Hw) : (s.modHw f).pcie = s.pcie := rfl
@[simp] theorem State.modHw_loft (f : Hw → Hw) : (s.modHw f).loft = s.loft := rfl
@[simp] theorem State.modHw_err (f : Hw → Hw) : (s.modHw f).err = s.err := rfl
@[simp] theorem State.modHw_core (f : Hw → Hw) : (s.modHw f).core = s.core := rfl
@[simp] theorem State.modHw_out (f : Hw → Hw) : (s.modHw f).out = s.out := rfl
@[simp] theorem State.modHw_free (f : Hw → Hw) : (s.modHw f).free = s.free := rfl
@[simp] theorem State.modHw_pending (f : Hw → Hw) : (s.modHw f).pending = s.pending := rfl
@[simp] theorem State.emit_hw (o : Out) : (s.emit o).hw = s.hw := rfl
@[simp] theorem State.emit_pcie (o : Out) : (s.emit o).pcie = s.pcie := rfl
@[simp] theorem State.emit_loft (o : Out) : (s.emit o).loft = s.loft := rfl
@[simp] theorem State.emit_err (o : Out) : (s.emit o).err = s.err := rfl
@[simp] theorem State.emit_core (o : Out) : (s.emit o).core = s.core := rfl
@[simp] theorem State.emit_out (o : Out) : (s.emit o).out = s.out ++ [o] := rfl
@[simp] theorem State.emit_free (o : Out) : (s.emit o).free = s.free := rfl
@[simp] theorem State.emit_pending (o : Out) : (s.emit o).pending = s.pending := rfl
@[simp] theorem State.modChan_hw (ch : Nat) (f : Chan → Chan) : (s.modChan ch f).hw = s.hw := rfl
@[simp] theorem State.modChan_pcie (ch : Nat) (f : Chan → Chan) : (s.modChan ch f).pcie = s.pcie := rfl
@[simp] theorem State.modChan_loft (ch : Nat) (f : Chan → Chan) : (s.modChan ch f).loft = s.loft := rfl
@[simp] theorem State.modChan_err (ch : Nat) (f : Chan → Chan) : (s.modChan ch f).err = s.err := rfl
@[simp] theorem State.modChan_core (ch : Nat) (f : Chan → Chan) : (s.modChan ch f).core = { s.core with chans := updAt s.core.chans ch f } := rfl
@[simp] theorem State.modChan_out (ch : Nat) (f : Chan → Chan) : (s.modChan ch f).out = s.out := rfl
@[simp] theorem State.modChan_free (ch : Nat) (f : Chan → Chan) : (s.modChan ch f).free = s.free := rfl
@[simp] theorem State.modChan_pending (ch : Nat) (f : Chan → Chan) : (s.modChan ch f).pending = s.pending := rfl
@[simp] theorem State.modInst_hw (ch i : Nat) (f : Inst → Inst) : (s.modInst ch i f).hw = s.hw := rfl
@[simp] theorem State.modInst_pcie (ch i : Nat) (f : Inst → Inst) : (s.modInst ch i f).pcie = s.pcie := rfl
@[simp] theorem State.modInst_loft (ch i : Nat) (f : Inst → Inst) : (s.modInst ch i f).loft = s.loft := rfl
@[simp] theorem State.modInst_err (ch i : Nat) (f : Inst → Inst) : (s.modInst ch i f).err = s.err := rfl
@[simp] theorem State.modInst_core (ch i : Nat) (f : Inst → Inst) : (s.modInst ch i f).core = { s.core with chans := updAt s.core.chans ch (fun c => { c with insts := NMap.upd c.insts i f }) } := rfl
@[simp] theorem State.modInst_out (ch i : Nat) (f : Inst → Inst) : (s.modInst ch i f).out = s.out := rfl
@[simp] theorem State.modInst_free (ch i : Nat) (f : Inst → Inst) : (s.modInst ch i f).free = s.free := rfl
@[simp] theorem State.modInst_pending (ch i : Nat) (f : Inst → Inst) : (s.modInst ch i f).pending = s.pending := rfl
@[simp] theorem State.modSess_hw (sid : Nat) (f : Session → Session) : (s.modSess sid f).hw = s.hw := rfl
@[simp] theorem State.modSess_pcie (sid : Nat) (f : Session → Session) : (s.modSess sid f).pcie = s.pcie := rfl
@[simp] theorem State.modSess_loft (sid : Nat) (f : Session → Session) : (s.modSess sid f).loft = s.loft := rfl
@[simp] theorem State.modSess_err (sid : Nat) (f : Session → Session) : (s.modSess sid f).err = s.err := rfl
@[simp] theorem State.modSess_core (sid : Nat) (f : Session → Session) : (s.modSess sid f).core = { s.core with work := { s.core.work with sess := NMap.upd s.core.work.sess sid f } } := rfl
@[simp] theorem State.modSess_out (sid : Nat) (f : Session → Session) : (s.modSess sid f).out = s.out := rfl
@[simp] theorem State.modSess_free (sid : Nat) (f : Session → Session) : (s.modSess sid f).free = s.free := rfl
@[simp] theorem State.modSess_pending (sid : Nat) (f : Session → Session) : (s.modSess sid f).pending = s.pending := rfl
@[simp] theorem State.modCtl_hw (h : Nat) (f : HatchCtl → HatchCtl) : (s.modCtl h f).hw = s.hw := rfl
@[simp] theorem State.modCtl_pcie (h : Nat) (f : HatchCtl → HatchCtl) : (s.modCtl h f).pcie = s.pcie := rfl
@[simp] theorem State.modCtl_loft (h : Nat) (f : HatchCtl → HatchCtl) : (s.modCtl h f).loft = s.loft := rfl
@[simp] theorem State.modCtl_err (h : Nat) (f : HatchCtl → HatchCtl) : (s.modCtl h f).err = s.err := rfl
@[simp] theorem State.modCtl_core (h : Nat) (f : HatchCtl → HatchCtl) : (s.modCtl h f).core = { s.core with hat := { s.core.hat with ctl := updAt s.core.hat.ctl h f } } := rfl
@[simp] theorem State.modCtl_out (h : Nat) (f : HatchCtl → HatchCtl) : (s.modCtl h f).out = s.out := rfl
@[simp] theorem State.modCtl_free (h : Nat) (f : HatchCtl → HatchCtl) : (s.modCtl h f).free = s.free := rfl
@[simp] theorem State.modCtl_pending (h : Nat) (f : HatchCtl → HatchCtl) : (s.modCtl h f).pending = s.pending := rfl
@[simp] theorem State.modArea_hw (a : Nat) (f : Area → Area) : (s.modArea a f).hw = s.hw := rfl
@[simp] theorem State.modArea_pcie (a : Nat) (f : Area → Area) : (s.modArea a f).pcie = s.pcie := rfl
@[simp] theorem State.modArea_loft (a : Nat) (f : Area → Area) : (s.modArea a f).loft = s.loft := rfl
@[simp] theorem State.modArea_err (a : Nat) (f : Area → Area) : (s.modArea a f).err = s.err := rfl
@[simp] theorem State.modArea_core (a : Nat) (f : Area → Area) : (s.modArea a f).core = { s.core with ring := { s.core.ring with areas := updAt s.core.ring.areas a f } } := rfl
@[simp] theorem State.modArea_out (a : Nat) (f : Area → Area) : (s.modArea a f).out = s.out := rfl
@[simp] theorem State.modArea_free (a : Nat) (f : Area → Area) : (s.modArea a f).free = s.free := rfl
@[simp] theorem State.modArea_pending (a : Nat) (f : Area → Area) : (s.modArea a f).pending = s.pending := rfl
@[simp] theorem State.bump_hw (a n : Nat) : (s.bump a n).hw = s.hw := rfl
@[simp] theorem State.bump_pcie (a n : Nat) : (s.bump a n).pcie = s.pcie := rfl
@[simp] theorem State.bump_loft (a n : Nat) : (s.bump a n).loft = s.loft := rfl
@[simp] theorem State.bump_err (a n : Nat) : (s.bump a n).err = s.err := rfl
@[simp] theorem State.bump_core (a n : Nat) : (s.bump a n).core = { s.core with obs := { s.core.obs with counters := NMap.bump s.core.obs.counters a n } } := rfl
@[simp] theorem State.bump_out (a n : Nat) : (s.bump a n).out = s.out := rfl
@[simp] theorem State.bump_free (a n : Nat) : (s.bump a n).free = s.free := rfl
@[simp] theorem State.bump_pending (a n : Nat) : (s.bump a n).pending = s.pending := rfl
@[simp] theorem State.setCtr_hw (a n : Nat) : (s.setCtr a n).hw = s.hw := rfl
@[simp] theorem State.setCtr_pcie (a n : Nat) : (s.setCtr a n).pcie = s.pcie := rfl
@[simp] theorem State.setCtr_loft (a n : Nat) : (s.setCtr a n).loft = s.loft := rfl
@[simp] theorem State.setCtr_err (a n : Nat) : (s.setCtr a n).err = s.err := rfl
@[simp] theorem State.setCtr_core (a n : Nat) : (s.setCtr a n).core = { s.core with obs := { s.core.obs with counters := NMap.set s.core.obs.counters a n } } := rfl
@[simp] theorem State.setCtr_out (a n : Nat) : (s.setCtr a n).out = s.out := rfl
@[simp] theorem State.setCtr_free (a n : Nat) : (s.setCtr a n).free = s.free := rfl
@[simp] theorem State.setCtr_pending (a n : Nat) : (s.setCtr a n).pending = s.pending := rfl
end Rest

end Sys2Proof.Machine
end

