-- ==== Sys2Proof/Laws/Store.lean ====
section
/-! SUPPORT. The laws of byte memory and of the finite maps: a read after a write, and the canonical form that every operation keeps. -/
namespace Sys2Proof.Machine

/-! ### Reading after writing -/

theorem Mem.read_eq (m : Mem) (x : Nat) : Mem.read m x = ((m.find? (fun c => c.1 == x)).map (·.2)).getD 0 := by
  unfold Mem.read; split <;> simp [*]

theorem Mem.find_filter (m : Mem) (p : Host.Cell → Bool) (x : Nat) (h : ∀ c, c.1 = x → p c = true) :
    (m.filter p).find? (fun c => c.1 == x) = m.find? (fun c => c.1 == x) := by
  rw [List.find?_filter]
  congr 1
  funext c
  by_cases hc : c.1 = x
  · simp [hc, h c hc]
  · simp [hc]

theorem Mem.find_filter_none (m : Mem) (p : Host.Cell → Bool) (x : Nat) (h : ∀ c, c.1 = x → p c = false) :
    (m.filter p).find? (fun c => c.1 == x) = none := by
  rw [List.find?_eq_none]
  intro c hc
  have hp := (List.mem_filter.1 hc).2
  intro e
  simp [h c (by simpa using e)] at hp

theorem Mem.find_cells_lt (bs : List Byte) (a x : Nat) (h : x < a ∨ a + bs.length ≤ x) :
    (Mem.cells a bs).find? (fun c => c.1 == x) = none := by
  induction bs generalizing a with
  | nil => rfl
  | cons b t ih =>
    simp only [List.length_cons] at h
    have h' : (Mem.cells (a + 1) t).find? (fun c => c.1 == x) = none := ih (a + 1) (by omega)
    simp only [Mem.cells]
    split
    · exact h'
    · rw [List.find?_cons_of_neg (by simp; omega)]; exact h'

theorem Mem.read_cells (bs : List Byte) (a i : Nat) (h : i < bs.length) :
    Mem.read (Mem.cells a bs) (a + i) = bs[i] := by
  induction bs generalizing a i with
  | nil => simp at h
  | cons b t ih =>
    cases i with
    | zero =>
      have hn : (Mem.cells (a + 1) t).find? (fun c => c.1 == a) = none := Mem.find_cells_lt t (a + 1) a (by omega)
      simp only [Mem.read_eq, Mem.cells, Nat.add_zero]
      split <;> rename_i hb
      · simp [hn, hb]
      · simp
    | succ i =>
      simp only [List.length_cons] at h
      have e : a + (i + 1) = a + 1 + i := by omega
      have hi := ih (a + 1) i (by omega)
      simp only [Mem.read_eq] at hi ⊢
      rw [e]
      simp only [Mem.cells, List.getElem_cons_succ]
      split
      · exact hi
      · rw [List.find?_cons_of_neg (by simp; omega)]; exact hi

/-- A write leaves every byte outside its range alone. -/
theorem Mem.read_write_of_outside (m : Mem) (a x : Nat) (bs : List Byte) (h : x < a ∨ a + bs.length ≤ x) :
    Mem.read (Mem.write m a bs) x = Mem.read m x := by
  have hc := Mem.find_cells_lt bs a x h
  simp only [Mem.read_eq, Mem.write, List.find?_append, hc]
  rcases h with h | h
  · rw [Mem.find_filter m (fun c => decide (c.1 < a)) x (by intro c hc; simp [hc, h]),
      Mem.find_filter_none m (fun c => decide (a + bs.length ≤ c.1)) x (by intro c hc; simp [hc]; omega)]
    simp
  · rw [Mem.find_filter_none m (fun c => decide (c.1 < a)) x (by intro c hc; simp [hc]; omega),
      Mem.find_filter m (fun c => decide (a + bs.length ≤ c.1)) x (by intro c hc; simp [hc, h])]
    simp

/-- A byte that a write laid reads back. -/
theorem Mem.read_write_of_inside (m : Mem) (a i : Nat) (bs : List Byte) (h : i < bs.length) :
    Mem.read (Mem.write m a bs) (a + i) = bs[i] := by
  have hc := Mem.read_cells bs a i h
  simp only [Mem.read_eq] at hc
  simp only [Mem.read_eq, Mem.write, List.find?_append]
  rw [Mem.find_filter_none m (fun c => decide (c.1 < a)) (a + i) (by intro c hc; simp [hc]),
    Mem.find_filter_none m (fun c => decide (a + bs.length ≤ c.1)) (a + i) (by intro c hc; simp [hc]; omega)]
  simpa using hc

theorem Mem.length_bytes (m : Mem) (a n : Nat) : (Mem.bytes m a n).length = n := by simp [Mem.bytes]

/-- Bytes within a range that a write laid. -/
theorem Mem.bytes_write (m : Mem) (a o n : Nat) (bs : List Byte) (h : o + n ≤ bs.length) :
    Mem.bytes (Mem.write m a bs) (a + o) n = (bs.drop o).take n := by
  apply List.ext_getElem
  · simp [Mem.bytes]; omega
  · intro i h1 h2
    simp only [Mem.bytes, List.getElem_map, List.getElem_range, List.getElem_take, List.getElem_drop]
    simp only [Mem.bytes, List.length_map, List.length_range] at h1
    have := Mem.read_write_of_inside m a (o + i) bs (by omega)
    rw [← this]; congr 1; omega

theorem Mem.read_clear (m : Mem) (a n x : Nat) :
    Mem.read (Mem.clear m a n) x = if a ≤ x ∧ x < a + n then 0 else Mem.read m x := by
  simp only [Mem.read_eq, Mem.clear]
  split <;> rename_i h
  · rw [Mem.find_filter_none m _ x (by intro c hc; simp [hc]; omega)]; rfl
  · rw [Mem.find_filter m _ x (by intro c hc; simp [hc]; omega)]

/-! ### The canonical form -/

theorem risingKeys_iff {α : Type} (l : List (Nat × α)) : risingKeys l = true ↔ l.Pairwise (fun a b => a.1 < b.1) := by
  induction l with
  | nil => simp [risingKeys]
  | cons a t ih =>
    cases t with
    | nil => simp [risingKeys]
    | cons b u =>
      simp only [risingKeys, Bool.and_eq_true, decide_eq_true_eq, ih]
      rw [List.pairwise_cons (a := a)]
      constructor
      · rintro ⟨h, hp⟩
        refine ⟨?_, hp⟩
        intro c hc
        rcases List.mem_cons.1 hc with rfl | hc
        · exact h
        · exact Nat.lt_trans h (List.rel_of_pairwise_cons hp hc)
      · rintro ⟨h, hp⟩
        exact ⟨h b (List.mem_cons_self ..), hp⟩

theorem Memory.wf_iff (m : Mem) :
    Memory.wf m = true ↔ m.Pairwise (fun a b => a.1 < b.1) ∧ ∀ c ∈ m, c.2 ≠ 0 := by
  simp [Memory.wf, risingKeys_iff]

theorem Mem.cells_mem (bs : List Byte) (a : Nat) :
    ∀ c ∈ Mem.cells a bs, a ≤ c.1 ∧ c.1 < a + bs.length ∧ c.2 ≠ 0 := by
  induction bs generalizing a with
  | nil => simp [Mem.cells]
  | cons b t ih =>
    intro c hc
    simp only [Mem.cells] at hc
    simp only [List.length_cons]
    split at hc
    · have := ih (a + 1) c hc; exact ⟨by omega, by omega, this.2.2⟩
    · rcases List.mem_cons.1 hc with rfl | hc
      · exact ⟨Nat.le_refl _, by simp, by assumption⟩
      · have := ih (a + 1) c hc; exact ⟨by omega, by omega, this.2.2⟩

theorem Mem.cells_pairwise (bs : List Byte) (a : Nat) : (Mem.cells a bs).Pairwise (fun a b => a.1 < b.1) := by
  induction bs generalizing a with
  | nil => simp [Mem.cells]
  | cons b t ih =>
    simp only [Mem.cells]
    split
    · exact ih (a + 1)
    · refine List.pairwise_cons.2 ⟨?_, ih (a + 1)⟩
      intro c hc
      have := (Mem.cells_mem t (a + 1) c hc).1
      show a < c.1
      omega

/-- A write keeps the canonical form. -/
theorem Memory.wf_write (m : Mem) (a : Nat) (bs : List Byte) (h : Memory.wf m = true) : Memory.wf (Mem.write m a bs) = true := by
  rw [Memory.wf_iff] at h ⊢
  obtain ⟨hp, hz⟩ := h
  simp only [Mem.write]
  refine ⟨?_, ?_⟩
  · rw [List.pairwise_append]
    refine ⟨hp.filter _, ?_, ?_⟩
    · rw [List.pairwise_append]
      refine ⟨Mem.cells_pairwise bs a, hp.filter _, ?_⟩
      intro c hc d hd
      have := Mem.cells_mem bs a c hc
      have hd := (List.mem_filter.1 hd).2
      simp only [decide_eq_true_eq] at hd
      omega
    · intro c hc d hd
      have hc := (List.mem_filter.1 hc).2
      simp only [decide_eq_true_eq] at hc
      rcases List.mem_append.1 hd with hd | hd
      · have := Mem.cells_mem bs a d hd; omega
      · have hd := (List.mem_filter.1 hd).2
        simp only [decide_eq_true_eq] at hd
        omega
  · intro c hc
    rcases List.mem_append.1 hc with hc | hc
    · exact hz c ((List.mem_filter.1 hc).1)
    · rcases List.mem_append.1 hc with hc | hc
      · exact (Mem.cells_mem bs a c hc).2.2
      · exact hz c ((List.mem_filter.1 hc).1)

/-- Clearing keeps the canonical form. -/
theorem Memory.wf_clear (m : Mem) (a n : Nat) (h : Memory.wf m = true) : Memory.wf (Mem.clear m a n) = true := by
  rw [Memory.wf_iff] at h ⊢
  exact ⟨h.1.filter _, fun c hc => h.2 c ((List.mem_filter.1 hc).1)⟩

theorem Memory.wf_nil : Memory.wf [] = true := rfl

/-! ### Finite maps -/

theorem NMap.mem_set {α : Type} (m : NMap α) (k : Nat) (v : α) : ∀ c ∈ NMap.set m k v, c = (k, v) ∨ c ∈ m := by
  induction m with
  | nil => simp [NMap.set]
  | cons a t ih =>
    obtain ⟨j, w⟩ := a
    intro c hc
    simp only [NMap.set] at hc
    split at hc
    · simpa using hc
    · split at hc
      · simp only [List.mem_cons] at hc ⊢
        rcases hc with h | h <;> simp [h]
      · simp only [List.mem_cons] at hc ⊢
        rcases hc with h | h
        · simp [h]
        · rcases ih c h with h | h <;> simp [h]

/-- Setting a key keeps the keys rising. -/
theorem risingKeys_set {α : Type} (m : NMap α) (k : Nat) (v : α) (h : risingKeys m = true) : risingKeys (NMap.set m k v) = true := by
  rw [risingKeys_iff] at h ⊢
  induction m with
  | nil => simp [NMap.set]
  | cons a t ih =>
    obtain ⟨j, w⟩ := a
    rw [List.pairwise_cons] at h
    simp only [NMap.set]
    split
    · refine List.pairwise_cons.2 ⟨?_, List.pairwise_cons.2 h⟩
      intro c hc
      rcases List.mem_cons.1 hc with rfl | hc
      · assumption
      · have := h.1 c hc; simp only at this ⊢; omega
    · split
      · subst_vars; exact List.pairwise_cons.2 ⟨fun c hc => h.1 c hc, h.2⟩
      · refine List.pairwise_cons.2 ⟨?_, ih h.2⟩
        intro c hc
        rcases NMap.mem_set t k v c hc with rfl | hc
        · simp only; omega
        · exact h.1 c hc

theorem risingKeys_erase {α : Type} (m : NMap α) (k : Nat) (h : risingKeys m = true) : risingKeys (NMap.erase m k) = true := by
  rw [risingKeys_iff] at h ⊢
  exact h.filter _

/-- The key set reads back. -/
theorem NMap.get_set {α : Type} (m : NMap α) (k : Nat) (v : α) : NMap.get? (NMap.set m k v) k = some v := by
  induction m with
  | nil => simp [NMap.set, NMap.get?]
  | cons a t ih =>
    obtain ⟨j, w⟩ := a
    simp only [NMap.set]
    split
    · simp [NMap.get?]
    · split
      · simp [NMap.get?]
      · have h1 : ¬ j = k := by omega
        have h2 : ¬ k < j := by omega
        simp [NMap.get?, h1, h2, ih]

/-- Every other key reads as before. -/
theorem NMap.get_set_other {α : Type} (m : NMap α) (k j : Nat) (v : α) (h : j ≠ k) :
    NMap.get? (NMap.set m k v) j = NMap.get? m j := by
  induction m with
  | nil => simp [NMap.set, NMap.get?]; omega
  | cons a t ih =>
    obtain ⟨i, w⟩ := a
    simp only [NMap.set]
    split
    · by_cases hj : j < k
      · have : j < i := by omega
        have h1 : ¬ k = j := by omega
        have h2 : ¬ i = j := by omega
        simp [NMap.get?, hj, this, h1, h2]
      · have h1 : ¬ k = j := by omega
        simp [NMap.get?, hj, h1]
    · split
      · rename_i hk
        subst hk
        have h1 : ¬ k = j := by omega
        simp [NMap.get?, h1]
      · simp only [NMap.get?, ih]

end Sys2Proof.Machine
end

