-- ==== Sys2Proof/Laws/Frame.lean ====
section
/-! SUPPORT. What no command but a few changes: the strapped pins, the loft's
pages, log length and write counts, the waiting commands, the clock and admission of the
control loop and of the thermal loop, and TIME_INC. `frame` gathers these; one
lemma for each operation over the state, one for each meaning that leaves them,
and the `sound_` lemmas for the few operations that change them. -/

open Sys2Proof Sys2Proof.Machine

namespace Sys2Proof.Machine
set_option linter.unusedTactic false
set_option linter.unreachableTactic false

set_option linter.unusedSimpArgs false

/-- The parts of the state that almost no command changes. -/
def frame (s : State) : (Nat × Nat × Nat) × (Mem × Nat × NMap Nat) × List Instr × (Nat × Nat × Nat × Nat) × W64 :=
  ((s.hw.devidPins, s.hw.bootPins, s.hw.capPins), (s.loft.pages, s.loft.log.length, s.loft.writes), s.pending,
   (s.core.pow.ctlMhz, s.core.pow.ctlAdm, s.core.pow.thMhz, s.core.pow.thAdm), s.core.time.inc)

theorem frame_foldl {α : Type} (g : State → α → State) (l : List α) (s : State) (h : ∀ s x, frame (g s x) = frame s) :
    frame (List.foldl g s l) = frame s := by
  induction l generalizing s with
  | nil => rfl
  | cons a l ih => rw [List.foldl_cons, ih, h]
@[simp] theorem frame_pcie (s : State) (p : Pcie) : frame { s with pcie := p } = frame s := rfl
@[simp] theorem frame_err (s : State) (p : Err) : frame { s with err := p } = frame s := rfl
@[simp] theorem frame_out (s : State) (p : List Out) : frame { s with out := p } = frame s := rfl
@[simp] theorem frame_free (s : State) (p : Nat) : frame { s with free := p } = frame s := rfl
theorem frame_ite_of {c : Prop} [Decidable c] {a b s : State} (ha : frame a = frame s) (hb : frame b = frame s) :
    frame (if c then a else b) = frame s := by split <;> assumption
theorem frame_ite (c : Prop) [Decidable c] (a b : State) : frame (if c then a else b) = if c then frame a else frame b := by split <;> rfl
@[simp] theorem frame_modSys (s : State) (f : Sys → Sys)  : frame (State.modSys s f) = frame s := by
  unfold State.modSys
  rfl

@[simp] theorem frame_modHat (s : State) (f : Hatches → Hatches)  : frame (State.modHat s f) = frame s := by
  unfold State.modHat
  rfl

@[simp] theorem frame_modRing (s : State) (f : Rings → Rings)  : frame (State.modRing s f) = frame s := by
  unfold State.modRing
  rfl

@[simp] theorem frame_modWork (s : State) (f : Work → Work)  : frame (State.modWork s f) = frame s := by
  unfold State.modWork
  rfl

@[simp] theorem frame_modChans (s : State) (f : List Chan → List Chan)  : frame (State.modChans s f) = frame s := by
  unfold State.modChans
  rfl

@[simp] theorem frame_modMap (s : State) (f : MapSt → MapSt)  : frame (State.modMap s f) = frame s := by
  unfold State.modMap
  rfl

@[simp] theorem frame_modTime (s : State) (f : Time → Time) (h : ∀ t, (f t).inc = t.inc) : frame (s.modTime f) = frame s := by
  simp [frame, State.modTime, h]

@[simp] theorem frame_modAir (s : State) (f : Air → Air)  : frame (State.modAir s f) = frame s := by
  unfold State.modAir
  rfl

@[simp] theorem frame_modScu (s : State) (f : Scu → Scu)  : frame (State.modScu s f) = frame s := by
  unfold State.modScu
  rfl

@[simp] theorem frame_modFus (s : State) (f : Fus → Fus)  : frame (State.modFus s f) = frame s := by
  unfold State.modFus
  rfl

@[simp] theorem frame_modTiers (s : State) (f : Tiers → Tiers)  : frame (State.modTiers s f) = frame s := by
  unfold State.modTiers
  rfl

@[simp] theorem frame_modFab (s : State) (f : Fabric → Fabric)  : frame (State.modFab s f) = frame s := by
  unfold State.modFab
  rfl

@[simp] theorem frame_modSec (s : State) (f : Sec → Sec)  : frame (State.modSec s f) = frame s := by
  unfold State.modSec
  rfl

@[simp] theorem frame_addKeys (s : State) (domain gen : Nat) : frame (State.addKeys s domain gen) = frame s := by
  unfold State.addKeys
  simp

@[simp] theorem frame_dropKeys (s : State) (f : Nat → Nat → Bool) : frame (State.dropKeys s f) = frame s := by
  unfold State.dropKeys
  simp

@[simp] theorem frame_modLink (s : State) (f : Link → Link)  : frame (State.modLink s f) = frame s := by
  unfold State.modLink
  rfl

@[simp] theorem frame_modPow (s : State) (f : Pow → Pow)
    (h : ∀ p, ((f p).ctlMhz, (f p).ctlAdm, (f p).thMhz, (f p).thAdm) = (p.ctlMhz, p.ctlAdm, p.thMhz, p.thAdm)) : frame (s.modPow f) = frame s := by
  have := h s.core.pow
  simp only [Prod.mk.injEq] at this
  simp [frame, State.modPow, this]

@[simp] theorem frame_modObs (s : State) (f : Watch → Watch)  : frame (State.modObs s f) = frame s := by
  unfold State.modObs
  rfl

@[simp] theorem frame_modLoft (s : State) (f : Loft → Loft) (h : ∀ l, ((f l).pages, (f l).log.length, (f l).writes) = (l.pages, l.log.length, l.writes)) :
    frame (s.modLoft f) = frame s := by
  have := h s.loft
  simp only [Prod.mk.injEq] at this
  simp [frame, State.modLoft, this]

@[simp] theorem frame_modHw (s : State) (f : Hw → Hw) (h : ∀ l, ((f l).devidPins, (f l).bootPins, (f l).capPins) = (l.devidPins, l.bootPins, l.capPins)) :
    frame (s.modHw f) = frame s := by
  have := h s.hw
  simp only [Prod.mk.injEq] at this
  simp [frame, State.modHw, this]

@[simp] theorem frame_emit (s : State) (o : Out)  : frame (State.emit s o) = frame s := by
  unfold State.emit
  rfl

@[simp] theorem frame_draw (s : State)  : frame (State.draw s).2 = frame s := by
  unfold State.draw
  rfl

@[simp] theorem frame_modChan (s : State) (ch : Nat) (f : Chan → Chan)  : frame (State.modChan s ch f) = frame s := by
  unfold State.modChan
  rfl

@[simp] theorem frame_modInst (s : State) (ch : Nat) (i : Nat) (f : Inst → Inst)  : frame (State.modInst s ch i f) = frame s := by
  unfold State.modInst
  rfl

@[simp] theorem frame_modSess (s : State) (sid : Nat) (f : Session → Session)  : frame (State.modSess s sid f) = frame s := by
  unfold State.modSess
  rfl

@[simp] theorem frame_modCtl (s : State) (h : Nat) (f : HatchCtl → HatchCtl)  : frame (State.modCtl s h f) = frame s := by
  unfold State.modCtl
  rfl

@[simp] theorem frame_modArea (s : State) (a : Nat) (f : Area → Area)  : frame (State.modArea s a f) = frame s := by
  unfold State.modArea
  rfl

@[simp] theorem frame_bump (s : State) (addr : Nat) (n : Nat)  : frame (State.bump s addr n) = frame s := by
  unfold State.bump
  rfl

@[simp] theorem frame_setCtr (s : State) (addr : Nat) (v : Nat)  : frame (State.setCtr s addr v) = frame s := by
  unfold State.setCtr
  rfl

@[simp] theorem frame_traceRec (s : State) (type : Nat) (src : Nat) (payload : List Byte) (maskSrc : optParam Nat src)  : frame (State.traceRec s type src payload maskSrc) = frame s := by
  unfold State.traceRec
  simp [frame_ite, frame_foldl, *]

@[simp] theorem frame_msi (s : State) (v : Nat) : frame (s.msi v) = frame s := by
  unfold State.msi; dsimp only; split <;> rfl

@[simp] theorem frame_putEntry (s : State) (e : List Byte)  : frame (State.putEntry s e) = frame s := by
  unfold State.putEntry
  simp [frame_ite, frame_foldl, *]

@[simp] theorem frame_drainEvents (n : Nat) (s : State) : frame (State.drainEvents n s) = frame s := by
  induction n generalizing s with
  | zero => rfl
  | succ n ih =>
    unfold State.drainEvents
    split
    · rfl
    · split
      · rfl
      · rw [ih]; simp

@[simp] theorem frame_putEvent (l : List (List Byte)) (s : State) : frame (State.putEvent l s) = frame s := by
  induction l generalizing s with
  | nil => rfl
  | cons e rest ih =>
    unfold State.putEvent
    split
    · rw [ih]; simp
    · split
      · rw [ih]; simp
      · simp

@[simp] theorem frame_event (s : State) (type : Nat) (parts : List (List Byte))  : frame (State.event s type parts) = frame s := by
  unfold State.event
  simp [frame_ite, frame_foldl, *]

@[simp] theorem frame_setErr (s : State) (idx bitNo flags source sid page : Nat) :
    frame (s.setErr idx bitNo flags source sid page) = frame s := by
  unfold State.setErr
  dsimp only
  refine (frame_ite _ _ _).trans ?_
  rw [frame_ite]
  simp

@[simp] theorem frame_err1 (s : State) (idx : Nat) (bitNo : Nat) (source : optParam Nat 255) (sid : optParam Nat 65535) (page : optParam Nat 4294967295)  : frame (State.err1 s idx bitNo source sid page) = frame s := by
  unfold State.err1
  simp [frame_ite, frame_foldl, *]

@[simp] theorem frame_takeOff (s : State) (r : Req)  : frame (State.takeOff s r) = frame s := by
  unfold State.takeOff
  simp [frame_ite, frame_foldl, *]

@[simp] theorem frame_placeWith (s : State) (h : Nat) (status : Nat) (payload : List Byte) (accepted : Bool) (raise : Bool)  : frame (State.placeWith s h status payload accepted raise) = frame s := by
  unfold State.placeWith
  simp [frame_ite, frame_foldl, *]

@[simp] theorem frame_place (s : State) (h : Nat) (status : Nat) (payload : optParam (List Byte) [])  : frame (State.place s h status payload) = frame s := by
  unfold State.place
  simp [frame_ite, frame_foldl, *]

@[simp] theorem frame_accept (s : State) (h : Nat) (j : Job)  : frame (State.accept s h j) = frame s := by
  unfold State.accept
  simp [frame_ite, frame_foldl, *]

@[simp] theorem frame_serve (op h : Nat) (body : Req → State → State) (s : State) (hb : ∀ r t, frame (body r t) = frame t) :
    frame (serve op h body s) = frame s := by
  unfold serve
  split
  · rfl
  · dsimp only
    split
    · rfl
    · split
      · simp
      · split
        · simp
        · split
          · simp
          · rw [hb]; split <;> simp

@[simp] theorem frame_areaIrq (s : State) (n : Nat)  : frame (State.areaIrq s n) = frame s := by
  unfold State.areaIrq
  simp [frame_ite, frame_foldl, *]

@[simp] theorem frame_putRecord (s : State) (n : Nat) (rec_ : List Byte)  : frame (State.putRecord s n rec_) = frame s := by
  unfold State.putRecord
  simp [frame_ite, frame_foldl, *]

@[simp] theorem frame_tick (s : State) : frame (tick s) = frame s := by
  unfold tick
  split
  · dsimp only
    refine (frame_modTime _ _ fun t => ?_).trans ?_
    · split <;> rfl
    · split <;> simp
  · rfl

@[simp] theorem frame_provisionalAll (s : State) (f : Nat → Session → Bool)  : frame (State.provisionalAll s f) = frame s := by
  unfold State.provisionalAll
  rfl

@[simp] theorem frame_guarded (s : State) (h : Nat) (checks : List (Option Nat)) (act : State → State) (h3 : ∀ a0, frame (act a0) = frame a0) : frame (State.guarded s h checks act) = frame s := by
  unfold State.guarded
  repeat' (first | rfl | (simp [frame_ite, frame_foldl, *]; done) | split | dsimp only | (simp [frame_ite, takeFrame_frame ‹takeFrame _ _ = some (_, _)›]; done) | (simp [frame_ite, touchShelf_frame ‹touchShelf _ _ = some _›]; done) | (refine (frame_foldl _ _ _ fun _ _ => ?_).trans ?_))

@[simp] theorem frame_dma (s : State) (addr : Nat) (data : List Byte)  : frame (State.dma s addr data) = frame s := by
  unfold State.dma
  rfl

@[simp] theorem frame_dmaFault (s : State) (poisoned : Bool) (sid : optParam Nat 65535)  : frame (State.dmaFault s poisoned sid) = frame s := by
  unfold State.dmaFault
  simp [frame_ite, frame_foldl, *]

@[simp] theorem frame_withDma (s : State) (h : Nat) (addr : Nat) (n : Nat) (d : Dma) (sid : optParam Nat 65535) (k : List Byte → State → State) (h6 : ∀ a0 a1, frame (k a0 a1) = frame a1) : frame (State.withDma s h addr n d sid k) = frame s := by
  unfold State.withDma
  repeat' (first | rfl | (simp [frame_ite, frame_foldl, *]; done) | split | dsimp only | (simp [frame_ite, takeFrame_frame ‹takeFrame _ _ = some (_, _)›]; done) | (simp [frame_ite, touchShelf_frame ‹touchShelf _ _ = some _›]; done) | (refine (frame_foldl _ _ _ fun _ _ => ?_).trans ?_))

@[simp] theorem frame_record (s : State) (i : RecIn) : frame (s.record i).2 = frame s := by
  unfold State.record
  by_cases h : poseKept i.status = true
  · simp only [h, if_true]; exact frame_ite_of (frame_err1 _ _ _ _ _ _) rfl
  · simp only [h, if_false]; exact frame_ite_of ((frame_err1 _ _ _ _ _ _).trans (frame_draw s)) (frame_draw s)

@[simp] theorem frame_recordDelivered (s : State) (sid : Nat)  : frame (State.recordDelivered s sid) = frame s := by
  unfold State.recordDelivered
  rfl

@[simp] theorem frame_releaseSlot (s : State) (area : Nat)  : frame (State.releaseSlot s area) = frame s := by
  unfold State.releaseSlot
  rfl

@[simp] theorem frame_sealRecord (s : State) (area : Nat) (sid : Nat) (rec_ : List Byte)  : frame (State.sealRecord s area sid rec_).2 = frame s := by
  unfold State.sealRecord
  repeat' (first | rfl | (simp [frame_ite, frame_foldl, *]; done) | split | dsimp only | (simp [frame_ite, takeFrame_frame ‹takeFrame _ _ = some (_, _)›]; done) | (simp [frame_ite, touchShelf_frame ‹touchShelf _ _ = some _›]; done) | (refine (frame_foldl _ _ _ fun _ _ => ?_).trans ?_))

@[simp] theorem frame_deliver (s : State) (area : Nat) (i : RecIn)  : frame (State.deliver s area i) = frame s := by
  unfold State.deliver
  simp [frame_ite, frame_foldl, *]

@[simp] theorem frame_deliverFree (s : State) (area : Nat) (i : RecIn)  : frame (State.deliverFree s area i) = frame s := by
  unfold State.deliverFree
  simp [frame_ite, frame_foldl, *]

theorem touchShelf_frame {s u : State} {sid : Nat} (h : touchShelf s sid = some u) : frame u = frame s := by
  unfold touchShelf at h
  dsimp only at h
  split at h
  · cases h; rfl
  · split at h <;> cases h; rfl
@[simp] theorem frame_touchShelf_getD (s : State) (sid : Nat) : frame ((touchShelf s sid).getD s) = frame s := by
  cases h : touchShelf s sid with
  | none => rfl
  | some u => exact touchShelf_frame h
@[simp] theorem frame_checkpoint (s : State) (sid : Nat) : frame (s.checkpoint sid) = frame s := rfl

@[simp] theorem frame_dropInst (s : State) (ch : Nat) (i : Nat)  : frame (State.dropInst s ch i) = frame s := by
  unfold State.dropInst
  rfl

@[simp] theorem frame_modBatch (s : State) (b : Nat) (f : Batch → Batch)  : frame (State.modBatch s b f) = frame s := by
  unfold State.modBatch
  rfl

@[simp] theorem frame_flushItems (b : Nat) (l : List (Nat × Item)) (before : List Item) (s : State) :
    frame (State.flushItems b l before s) = frame s := by
  induction l generalizing before s with
  | nil => rfl
  | cons e rest ih =>
    obtain ⟨i, it⟩ := e
    unfold State.flushItems
    dsimp only
    split
    · split
      · exact ih _ _
      · rw [ih]; split <;> simp
    · exact ih _ _

@[simp] theorem frame_endItem (s : State) (b : Nat) (i : Nat) (st : Nat) (hflags : optParam Nat 0) (saturated : optParam Bool false) (version : optParam Nat 0)  : frame (State.endItem s b i st hflags saturated version) = frame s := by
  unfold State.endItem
  repeat' (first | rfl | (simp [frame_ite, frame_foldl, *]; done) | split | dsimp only | (simp [frame_ite, takeFrame_frame ‹takeFrame _ _ = some (_, _)›]; done) | (simp [frame_ite, touchShelf_frame ‹touchShelf _ _ = some _›]; done) | (refine (frame_foldl _ _ _ fun _ _ => ?_).trans ?_))

@[simp] theorem frame_endOrigin (s : State) (o : Origin) (st : Nat)  : frame (State.endOrigin s o st) = frame s := by
  unfold State.endOrigin
  repeat' (first | rfl | (simp [frame_ite, frame_foldl, *]; done) | split | dsimp only | (simp [frame_ite, takeFrame_frame ‹takeFrame _ _ = some (_, _)›]; done) | (simp [frame_ite, touchShelf_frame ‹touchShelf _ _ = some _›]; done) | (refine (frame_foldl _ _ _ fun _ _ => ?_).trans ?_))

@[simp] theorem frame_enqueue (s : State) (ch : Nat) (w : Waiting)  : frame (State.enqueue s ch w) = frame s := by
  unfold State.enqueue
  rfl

@[simp] theorem frame_dropQueued (s : State) (f : Waiting → Bool) (st : Nat)  : frame (State.dropQueued s f st) = frame s := by
  unfold State.dropQueued
  simp [frame_ite, frame_foldl, *]

@[simp] theorem frame_moveQueued (s : State) (sid : Nat) (ch : Nat)  : frame (State.moveQueued s sid ch) = frame s := by
  unfold State.moveQueued
  simp [frame_ite, frame_foldl, *]

@[simp] theorem frame_beginClose (s : State) (sid : Nat)  : frame (State.beginClose s sid) = frame s := by
  unfold State.beginClose
  simp [frame_ite, frame_foldl, *]

@[simp] theorem frame_dropSym (s : State) (k : Nat) (reason : Nat)  : frame (State.dropSym s k reason) = frame s := by
  unfold State.dropSym
  repeat' (first | rfl | (simp [frame_ite, frame_foldl, *]; done) | split | dsimp only | (simp [frame_ite, takeFrame_frame ‹takeFrame _ _ = some (_, _)›]; done) | (simp [frame_ite, touchShelf_frame ‹touchShelf _ _ = some _›]; done) | (refine (frame_foldl _ _ _ fun _ _ => ?_).trans ?_))

@[simp] theorem frame_dropAssembling (s : State) (f : Nat → Bool)  : frame (State.dropAssembling s f) = frame s := by
  unfold State.dropAssembling
  simp [frame_ite, frame_foldl, *]

@[simp] theorem frame_freeSession (s : State) (sid : Nat)  : frame (State.freeSession s sid) = frame s := by
  unfold State.freeSession
  simp [frame_ite, frame_foldl, *]

@[simp] theorem frame_setPage (s : State) (p : Nat) (x : Page)  : frame (State.setPage s p x) = frame s := by
  unfold State.setPage
  rfl

@[simp] theorem frame_modPage (s : State) (p : Nat) (f : Page → Page)  : frame (State.modPage s p f) = frame s := by
  unfold State.modPage
  repeat' (first | rfl | (simp [frame_ite, frame_foldl, *]; done) | split | dsimp only | (simp [frame_ite, takeFrame_frame ‹takeFrame _ _ = some (_, _)›]; done) | (simp [frame_ite, touchShelf_frame ‹touchShelf _ _ = some _›]; done) | (refine (frame_foldl _ _ _ fun _ _ => ?_).trans ?_))

theorem takeFrame_frame {s : State} {near : Bool} {f : Nat} {u : State} (h : takeFrame s near = some (f, u)) : frame u = frame s := by
  unfold takeFrame at h
  dsimp only at h
  split at h <;> split at h
  all_goals first
    | (simp only [Option.some.injEq, Prod.mk.injEq] at h; rw [← h.2]; rfl)
    | (split at h
       · simp only [Option.some.injEq, Prod.mk.injEq] at h; rw [← h.2]; rfl
       · cases h)
@[simp] theorem frame_freeFrame (s : State) (near : Bool) (f : Nat) : frame (State.freeFrame s near f) = frame s := by
  unfold State.freeFrame
  split
  · rfl
  · split <;> rfl

theorem allocPage_frame {x : Page} {s u : State} {p : Nat} (h : allocPage s x = some (p, u)) : frame u = frame s := by
  have last (t : State) (f : Nat) (near : Bool) (ht : frame t = frame s)
      (h : (match t.core.tiers.freePages with
        | p :: l => some (p, ((t.modTiers (fun t => { t with freePages := l })).modTiers (fun t => { t with freed := NMap.erase t.freed p })).setPage p
              { x with near := near, frame := f, hint := (placement s x.hint).1 })
        | [] => if t.core.tiers.nextPage < rangePages t then
            some (t.core.tiers.nextPage, ((t.modTiers (fun u => { u with nextPage := t.core.tiers.nextPage + 1 })).modTiers
              (fun u => { u with freed := NMap.erase u.freed t.core.tiers.nextPage })).setPage t.core.tiers.nextPage
              { x with near := near, frame := f, hint := (placement s x.hint).1 }) else none) = some (p, u)) : frame u = frame s := by
    split at h
    · simp only [Option.some.injEq, Prod.mk.injEq] at h; rw [← h.2, ← ht]; simp
    · split at h
      · simp only [Option.some.injEq, Prod.mk.injEq] at h; rw [← h.2, ← ht]; simp
      · cases h
  unfold allocPage at h
  dsimp only at h
  rcases h1 : takeFrame s (placement s x.hint).2 with _ | ⟨f, t⟩
  · rcases h2 : takeFrame s (!(placement s x.hint).2) with _ | ⟨f, t⟩
    · rw [h1, h2] at h; cases h
    · rw [h1, h2] at h
      refine last _ f _ ?_ h
      split <;> simp [takeFrame_frame h2]
  · rw [h1] at h
    refine last _ f _ ?_ h
    split <;> simp [takeFrame_frame h1]
theorem allocPages_frame {n : Nat} {x : Page} {s u : State} {l : List Nat} (h : allocPages n x s = some (l, u)) : frame u = frame s := by
  induction n generalizing s l u with
  | zero => simp only [allocPages, Option.some.injEq, Prod.mk.injEq] at h; rw [h.2]
  | succ n ih =>
    unfold allocPages at h
    split at h
    · cases h
    · rename_i p t hp
      split at h
      · cases h
      · rename_i l' u' hl
        simp only [Option.some.injEq, Prod.mk.injEq] at h
        rw [← h.2, ih hl, allocPage_frame hp]
@[simp] theorem frame_freePage (s : State) (p : Nat) : frame (s.freePage p) = frame s := by
  unfold State.freePage
  split
  · rfl
  · simp

@[simp] theorem frame_retireFrame (s : State) (near : Bool) (f : Nat)  : frame (State.retireFrame s near f) = frame s := by
  unfold State.retireFrame
  simp [frame_ite, frame_foldl, *]

@[simp] theorem frame_layAreas (s : State) : frame s.layAreas = frame s := by
  unfold State.layAreas; exact frame_modTiers _ _

@[simp] theorem frame_useTable (s : State) (img : List Byte)  : frame (State.useTable s img) = frame s := by
  unfold State.useTable
  rfl

@[simp] theorem frame_modStat (s : State) (id : Nat) (f : ReqStat → ReqStat)  : frame (State.modStat s id f) = frame s := by
  unfold State.modStat
  rfl

@[simp] theorem frame_modArb (s : State) (a : Nat) (f : Arb → Arb)  : frame (State.modArb s a f) = frame s := by
  unfold State.modArb
  rfl

@[simp] theorem frame_tear (s : State) (granule : Nat) (id : Nat)  : frame (State.tear s granule id) = frame s := by
  unfold State.tear
  rfl

@[simp] theorem frame_repair (s : State) (granule : Nat)  : frame (State.repair s granule) = frame s := by
  unfold State.repair
  rfl

@[simp] theorem frame_sideband (s : State) (ids : List Nat)  : frame (State.sideband s ids) = frame s := by
  unfold State.sideband
  simp [frame_ite, frame_foldl, *]

@[simp] theorem frame_unmask (s : State) (id : Nat)  : frame (State.unmask s id) = frame s := by
  unfold State.unmask
  rfl

@[simp] theorem frame_modMp (s : State) (p : Nat) (f : MpPort → MpPort)  : frame (State.modMp s p f) = frame s := by
  unfold State.modMp
  rfl

@[simp] theorem frame_linkState (s : State) (p : Nat) (up : Bool)  : frame (State.linkState s p up) = frame s := by
  unfold State.linkState
  simp [frame_ite, frame_foldl, *]

@[simp] theorem frame_updateDist (s : State)  : frame (State.updateDist s) = frame s := by
  unfold State.updateDist
  simp [frame_ite, frame_foldl, *]

@[simp] theorem frame_judgeStrap (s : State)  : frame (State.judgeStrap s) = frame s := by
  unfold State.judgeStrap
  simp [frame_ite, frame_foldl, *]

@[simp] theorem frame_portUp (s : State) (p : Nat)  : frame (State.portUp s p) = frame s := by
  unfold State.portUp
  simp [frame_ite, frame_foldl, *]

@[simp] theorem frame_portDown (s : State) (p : Nat) (st : MpState)  : frame (State.portDown s p st) = frame s := by
  unfold State.portDown
  simp [frame_ite, frame_foldl, *]

@[simp] theorem frame_trainBegin (s : State) (p : Nat)  : frame (State.trainBegin s p) = frame s := by
  unfold State.trainBegin
  rfl

@[simp] theorem frame_trainFail (s : State) (p : Nat)  : frame (State.trainFail s p) = frame s := by
  unfold State.trainFail
  simp [frame_ite, frame_foldl, *]

@[simp] theorem frame_decideLinks (s : State) (mask : Nat)  : frame (State.decideLinks s mask) = frame s := by
  unfold State.decideLinks
  simp [frame_ite, frame_foldl, *]

@[simp] theorem frame_sendObject (s : State) (p : Nat) (type : Nat) (payload : List Byte)  : frame (State.sendObject s p type payload) = frame s := by
  unfold State.sendObject
  rfl

@[simp] theorem frame_sendUp (s : State) (type : Nat) (payload : List Byte)  : frame (State.sendUp s type payload) = frame s := by
  unfold State.sendUp
  repeat' (first | rfl | (simp [frame_ite, frame_foldl, *]; done) | split | dsimp only | (simp [frame_ite, takeFrame_frame ‹takeFrame _ _ = some (_, _)›]; done) | (simp [frame_ite, touchShelf_frame ‹touchShelf _ _ = some _›]; done) | (refine (frame_foldl _ _ _ fun _ _ => ?_).trans ?_))

@[simp] theorem frame_sendDown (s : State) (type : Nat) (payload : List Byte)  : frame (State.sendDown s type payload) = frame s := by
  unfold State.sendDown
  simp [frame_ite, frame_foldl, *]

@[simp] theorem frame_mapEvent (s : State) (word : Nat) (moved : Nat)  : frame (State.mapEvent s word moved) = frame s := by
  unfold State.mapEvent
  simp [frame_ite, frame_foldl, *]

@[simp] theorem frame_reachTorn (s : State) (granule : Nat) (req : Nat)  : frame (State.reachTorn s granule req) = frame s := by
  unfold State.reachTorn
  repeat' (first | rfl | (simp [frame_ite, frame_foldl, *]; done) | split | dsimp only | (simp [frame_ite, takeFrame_frame ‹takeFrame _ _ = some (_, _)›]; done) | (simp [frame_ite, touchShelf_frame ‹touchShelf _ _ = some _›]; done) | (refine (frame_foldl _ _ _ fun _ _ => ?_).trans ?_))

@[simp] theorem frame_lockFor (s : State) (id beats : Nat) : frame (State.lockFor s id beats) = frame s := by
  unfold State.lockFor
  simp

@[simp] theorem frame_lockRoot (s : State) : frame (State.lockRoot s) = frame s := by
  unfold State.lockRoot
  simp

@[simp] theorem frame_restoreRoot (s : State) : frame (State.restoreRoot s) = frame s := by
  unfold State.restoreRoot
  repeat' (first | rfl | (simp [frame_ite, frame_foldl, *]; done) | split | dsimp only | (simp [frame_ite, takeFrame_frame ‹takeFrame _ _ = some (_, _)›]; done) | (simp [frame_ite, touchShelf_frame ‹touchShelf _ _ = some _›]; done) | (refine (frame_foldl _ _ _ fun _ _ => ?_).trans ?_))

@[simp] theorem frame_commitMap (s : State) (pin : Nat) (d : MapData) (changed : List Nat) : frame (State.commitMap s pin d changed) = frame s := by
  unfold State.commitMap
  simp [frame_ite, frame_foldl, *]

@[simp] theorem frame_forgetMap (s : State) : frame (State.forgetMap s) = frame s := by
  unfold State.forgetMap
  rfl

@[simp] theorem frame_swapRootTo (s : State) (pin : Nat) (d : MapData) (changed : List Nat) (word : Nat) (moved : Nat)  : frame (State.swapRootTo s pin d changed word moved) = frame s := by
  unfold State.swapRootTo
  simp [frame_ite, frame_foldl, *]

@[simp] theorem frame_swapRoot (s : State) (d : MapData) (changed : List Nat) (word : Nat) (moved : Nat)  : frame (State.swapRoot s d changed word moved) = frame s := by
  unfold State.swapRoot
  simp [frame_ite, frame_foldl, *]

@[simp] theorem frame_loseCommit (s : State) : frame (State.loseCommit s) = frame s := by
  unfold State.loseCommit
  repeat' (first | rfl | (simp [frame_ite, frame_foldl, *]; done) | split | dsimp only | (simp [frame_ite, takeFrame_frame ‹takeFrame _ _ = some (_, _)›]; done) | (simp [frame_ite, touchShelf_frame ‹touchShelf _ _ = some _›]; done) | (refine (frame_foldl _ _ _ fun _ _ => ?_).trans ?_))

@[simp] theorem frame_modJob (s : State) (j : Nat) (f : MapJob → MapJob)  : frame (State.modJob s j f) = frame s := by
  unfold State.modJob
  rfl

@[simp] theorem frame_grant (s : State) (r : TileLock)  : frame (State.grant s r) = frame s := by
  unfold State.grant
  rfl

@[simp] theorem frame_releaseLock (s : State) (j : Nat)  : frame (State.releaseLock s j) = frame s := by
  unfold State.releaseLock
  simp [frame_ite, frame_foldl, *]

@[simp] theorem frame_stopJob (s : State) (j : Nat)  : frame (State.stopJob s j) = frame s := by
  unfold State.stopJob
  simp [frame_ite, frame_foldl, *]

@[simp] theorem frame_endJob (s : State) (j : Nat) (f : MapJob → MapJob)  : frame (State.endJob s j f) = frame s := by
  unfold State.endJob
  repeat' (first | rfl | (simp [frame_ite, frame_foldl, *]; done) | split | dsimp only | (simp [frame_ite, takeFrame_frame ‹takeFrame _ _ = some (_, _)›]; done) | (simp [frame_ite, touchShelf_frame ‹touchShelf _ _ = some _›]; done) | (refine (frame_foldl _ _ _ fun _ _ => ?_).trans ?_))

@[simp] theorem frame_abandonJob (s : State) (j : Nat)  : frame (State.abandonJob s j) = frame s := by
  unfold State.abandonJob
  simp [frame_ite, frame_foldl, *]

@[simp] theorem frame_answerJob (s : State) (j : Nat)  : frame (State.answerJob s j) = frame s := by
  unfold State.answerJob
  repeat' (first | rfl | (simp [frame_ite, frame_foldl, *]; done) | split | dsimp only | (simp [frame_ite, takeFrame_frame ‹takeFrame _ _ = some (_, _)›]; done) | (simp [frame_ite, touchShelf_frame ‹touchShelf _ _ = some _›]; done) | (refine (frame_foldl _ _ _ fun _ _ => ?_).trans ?_))

@[simp] theorem frame_commitJob (s : State) (j : Nat) (ownerFaults : Bool)  : frame (State.commitJob s j ownerFaults) = frame s := by
  unfold State.commitJob
  repeat' (first | rfl | (simp [frame_ite, frame_foldl, *]; done) | split | dsimp only | (simp [frame_ite, takeFrame_frame ‹takeFrame _ _ = some (_, _)›]; done) | (simp [frame_ite, touchShelf_frame ‹touchShelf _ _ = some _›]; done) | (refine (frame_foldl _ _ _ fun _ _ => ?_).trans ?_))

@[simp] theorem frame_relocFree (s : State) (sid : Nat) : frame (State.relocFree s sid) = frame s := by
  unfold State.relocFree
  simp

@[simp] theorem frame_loseRequests (s : State) (f : Nat → Bool) : frame (State.loseRequests s f) = frame s := by
  unfold State.loseRequests
  simp [frame_ite, frame_foldl, *]

@[simp] theorem frame_yieldArrays (s : State) (ch : Nat) : frame (State.yieldArrays s ch) = frame s := by
  unfold State.yieldArrays
  simp [frame_ite, frame_foldl, *]

@[simp] theorem frame_beginLoad (s : State)  : frame (State.beginLoad s) = frame s := by
  unfold State.beginLoad
  simp [frame_ite, frame_foldl, *]

@[simp] theorem frame_mapLoadBody (d : Dma) (r : Req) (s : State)  : frame (mapLoadBody d r s) = frame s := by
  unfold mapLoadBody
  simp [frame_ite, frame_foldl, *]

@[simp] theorem frame_endLoad (s : State) (hatch : Nat) (version : Nat) (d : Option MapData)  : frame (State.endLoad s hatch version d) = frame s := by
  unfold State.endLoad
  simp [frame_ite, frame_foldl, *]

@[simp] theorem frame_mapLoadEnds (s : State) (hatch : Nat) (d : Dma) : frame (s.mapLoadEnds hatch d) = frame s := by
  unfold State.mapLoadEnds
  split
  · dsimp only; split <;> (rw [frame_endLoad]; simp)
  · rfl

@[simp] theorem frame_mapSaveBody (r : Req) (s : State)  : frame (mapSaveBody r s) = frame s := by
  unfold mapSaveBody
  simp [frame_ite, frame_foldl, *]

@[simp] theorem frame_mapInfoBody (r : Req) (s : State)  : frame (mapInfoBody r s) = frame s := by
  unfold mapInfoBody
  simp [frame_ite, frame_foldl, *]

@[simp] theorem frame_setOrigin (s : State) (lat : Int) (lon : Int) (height : Int)  : frame (State.setOrigin s lat lon height) = frame s := by
  unfold State.setOrigin
  rfl

@[simp] theorem frame_mapOriginSetBody (r : Req) (s : State)  : frame (mapOriginSetBody r s) = frame s := by
  unfold mapOriginSetBody
  simp [frame_ite, frame_foldl, *]

@[simp] theorem frame_formJob (s : State) (g : Nat) (x : MapJob) : frame (s.formJob g x).1 = frame s := by
  unfold State.formJob; dsimp only; split <;> simp
@[simp] theorem frame_mapOptimiseBody (r : Req) (s : State) : frame (mapOptimiseBody r s) = frame s := by
  unfold mapOptimiseBody
  dsimp only
  refine frame_guarded _ _ _ _ fun t => ?_
  simp [frame_ite]

@[simp] theorem frame_refresh (s : State) (ch : Nat)  : frame (State.refresh s ch) = frame s := by
  unfold State.refresh
  rfl

@[simp] theorem frame_modEngine (s : State) (ch : Nat) (e : Nat) (f : Engine → Engine)  : frame (State.modEngine s ch e f) = frame s := by
  unfold State.modEngine
  rfl

@[simp] theorem frame_finishStep (s : State) (ch : Nat) (i : Nat) (k : Nat) (t : GStep)  : frame (State.finishStep s ch i k t) = frame s := by
  unfold State.finishStep
  rfl

@[simp] theorem frame_skipRest (s : State) (ch : Nat) (i : Nat) (status : Option Nat)  : frame (State.skipRest s ch i status) = frame s := by
  unfold State.skipRest
  repeat' (first | rfl | (simp [frame_ite, frame_foldl, *]; done) | split | dsimp only | (simp [frame_ite, takeFrame_frame ‹takeFrame _ _ = some (_, _)›]; done) | (simp [frame_ite, touchShelf_frame ‹touchShelf _ _ = some _›]; done) | (refine (frame_foldl _ _ _ fun _ _ => ?_).trans ?_))

@[simp] theorem frame_breakStep (s : State) (ch : Nat) (e : Nat) (status : Nat)  : frame (State.breakStep s ch e status) = frame s := by
  unfold State.breakStep
  repeat' (first | rfl | (simp [frame_ite, frame_foldl, *]; done) | split | dsimp only | (simp [frame_ite, takeFrame_frame ‹takeFrame _ _ = some (_, _)›]; done) | (simp [frame_ite, touchShelf_frame ‹touchShelf _ _ = some _›]; done) | (refine (frame_foldl _ _ _ fun _ _ => ?_).trans ?_))

@[simp] theorem frame_breakTake (s : State) (ch i : Nat) : frame (State.breakTake s ch i) = frame s := by
  unfold State.breakTake
  simp

@[simp] theorem frame_noteClamp (s : State) (ch i : Nat) (x : Inst) (t : GStep) : frame (State.noteClamp s ch i x t) = frame s := by
  unfold State.noteClamp
  simp [frame_ite, frame_foldl, *]

@[simp] theorem frame_endEarly (s : State) (ch : Nat) (i : Nat) (status : Nat)  : frame (State.endEarly s ch i status) = frame s := by
  unfold State.endEarly
  simp [frame_ite, frame_foldl, *]

@[simp] theorem frame_createInst (s : State) (ch : Nat) (i : Nat) (w : Waiting)  : frame (State.createInst s ch i w) = frame s := by
  unfold State.createInst
  repeat' (first | rfl | (simp [frame_ite, frame_foldl, *]; done) | split | dsimp only | (simp [frame_ite, takeFrame_frame ‹takeFrame _ _ = some (_, _)›]; done) | (simp [frame_ite, touchShelf_frame ‹touchShelf _ _ = some _›]; done) | (refine (frame_foldl _ _ _ fun _ _ => ?_).trans ?_))

@[simp] theorem frame_pinCrates (s : State) (before : Nat)  : frame (State.pinCrates s before) = frame s := by
  unfold State.pinCrates
  simp [frame_ite, frame_foldl, *]

@[simp] theorem frame_crateLoadBody (r : Req) (s : State)  : frame (crateLoadBody r s) = frame s := by
  unfold crateLoadBody
  simp [frame_ite, frame_foldl, *]

@[simp] theorem frame_dropPages (s : State) (ps : List Nat)  : frame (State.dropPages s ps) = frame s := by
  unfold State.dropPages
  simp [frame_ite, frame_foldl, *]

@[simp] theorem frame_crateFails (s : State) (hatch : Nat) (n : Nat) (st : Nat)  : frame (State.crateFails s hatch n st) = frame s := by
  unfold State.crateFails
  simp [frame_ite, frame_foldl, *]

@[simp] theorem frame_crateLoadEnds (s : State) (hatch : Nat) (d : Dma) : frame (s.crateLoadEnds hatch d) = frame s := by
  have last (t : State) (n : Nat) (hint : Nat) (len : Nat) (data h : List Byte) (before : Nat) (c : List Byte → List Nat → Crate) (ps : List Nat)
      (ht : frame t = frame s) :
      frame (match allocPages n { near := true, frame := 0, hint := hint, use := 1, obj := len } (t.dropPages ps) with
        | none => t.place hatch 0x11
        | some (ps, u) => match crateBody h data with
          | none => t.crateFails hatch len 0x30
          | some p => ((u.modWork (fun w => { w with crates := NMap.set w.crates len (c p ps) })).pinCrates before).place hatch 0x00
              ((c p ps).measurement.take 16)) = frame s := by
    split
    · simp [ht]
    · rename_i h
      split
      · simp [ht]
      · rw [frame_place _ _ _ _]; simp [allocPages_frame h, ht]
  unfold State.crateLoadEnds
  split
  · dsimp only
    split
    · simp
    · split
      · simp
      · refine frame_ite_of (by simp) ?_
        · exact last _ _ _ _ _ _ _ (fun p ps => { header := _, measurement := _, body := p, state := 1, pages := ps }) _ (by simp)
  · rfl

@[simp] theorem frame_crateUnloadBody (r : Req) (s : State)  : frame (crateUnloadBody r s) = frame s := by
  unfold crateUnloadBody
  simp [frame_ite, frame_foldl, *]

@[simp] theorem frame_crateInfoBody (r : Req) (s : State)  : frame (crateInfoBody r s) = frame s := by
  unfold crateInfoBody
  simp [frame_ite, frame_foldl, *]

@[simp] theorem frame_cratePoisoned (s : State) (n : Nat) (page : Nat)  : frame (State.cratePoisoned s n page) = frame s := by
  unfold State.cratePoisoned
  simp [frame_ite, frame_foldl, *]

@[simp] theorem frame_moveFrame (s : State) (p : Nat) (near : Bool)  : frame (State.moveFrame s p near) = frame s := by
  unfold State.moveFrame
  repeat' (first | rfl | (simp [frame_ite, frame_foldl, *]; done) | split | dsimp only | (simp [frame_ite, takeFrame_frame ‹takeFrame _ _ = some (_, _)›]; done) | (simp [frame_ite, touchShelf_frame ‹touchShelf _ _ = some _›]; done) | (refine (frame_foldl _ _ _ fun _ _ => ?_).trans ?_))

@[simp] theorem frame_rewritePage (s : State) (p : Nat)  : frame (State.rewritePage s p) = frame s := by
  unfold State.rewritePage
  repeat' (first | rfl | (simp [frame_ite, frame_foldl, *]; done) | split | dsimp only | (simp [frame_ite, takeFrame_frame ‹takeFrame _ _ = some (_, _)›]; done) | (simp [frame_ite, touchShelf_frame ‹touchShelf _ _ = some _›]; done) | (refine (frame_foldl _ _ _ fun _ _ => ?_).trans ?_))

@[simp] theorem frame_restoreSession (s : State) (sid : Nat)  : frame (State.restoreSession s sid) = frame s := by
  unfold State.restoreSession
  simp [frame_ite, frame_foldl, *]

@[simp] theorem frame_poisonCrate (s : State) (n : Nat) (page : Nat)  : frame (State.poisonCrate s n page) = frame s := by
  unfold State.poisonCrate
  simp [frame_ite, frame_foldl, *]

@[simp] theorem frame_loseCkpts (s : State) (ps : List Nat)  : frame (State.loseCkpts s ps) = frame s := by
  unfold State.loseCkpts
  rfl

@[simp] theorem frame_loseMapPages (s : State) (ps : List Nat)  : frame (State.loseMapPages s ps) = frame s := by
  unfold State.loseMapPages
  simp [frame_ite, frame_foldl, *]

@[simp] theorem frame_losePatches (s : State) (ps : List Nat)  : frame (State.losePatches s ps) = frame s := by
  unfold State.losePatches
  rfl

@[simp] theorem frame_loseTracks (s : State) (ps : List Nat)  : frame (State.loseTracks s ps) = frame s := by
  unfold State.loseTracks
  rfl

@[simp] theorem frame_loseRadio (s : State) (ps : List Nat)  : frame (State.loseRadio s ps) = frame s := by
  unfold State.loseRadio
  simp [frame_ite, frame_foldl, *]

@[simp] theorem frame_loseCopies (s : State) (ps : List Nat)  : frame (State.loseCopies s ps) = frame s := by
  unfold State.loseCopies
  simp [frame_ite, frame_foldl, *]

@[simp] theorem frame_loseScratch (s : State) (ps : List Nat)  : frame (State.loseScratch s ps) = frame s := by
  unfold State.loseScratch
  simp [frame_ite, frame_foldl, *]

@[simp] theorem frame_firmwareFault (s : State) : frame s.firmwareFault = frame s := by
  unfold State.firmwareFault
  dsimp only
  rw [frame_modLoft _ _ (by simp [setAt]), frame_modSys]
  exact frame_foldl _ _ _ fun _ _ => by simp

@[simp] theorem frame_ownersAct (s : State) (use : Nat) (obj : Nat) (ps : List Nat)  : frame (State.ownersAct s use obj ps) = frame s := by
  unfold State.ownersAct
  simp [frame_ite, frame_foldl, *]

@[simp] theorem frame_poisonPage (s : State) (p : Nat)  : frame (State.poisonPage s p) = frame s := by
  unfold State.poisonPage
  repeat' (first | rfl | (simp [frame_ite, frame_foldl, *]; done) | split | dsimp only | (simp [frame_ite, takeFrame_frame ‹takeFrame _ _ = some (_, _)›]; done) | (simp [frame_ite, touchShelf_frame ‹touchShelf _ _ = some _›]; done) | (refine (frame_foldl _ _ _ fun _ _ => ?_).trans ?_))

@[simp] theorem frame_corrected (s : State) (near : Bool) (f : Nat) (n : Nat)  : frame (State.corrected s near f n) = frame s := by
  unfold State.corrected
  repeat' (first | rfl | (simp [frame_ite, frame_foldl, *]; done) | split | dsimp only | (simp [frame_ite, takeFrame_frame ‹takeFrame _ _ = some (_, _)›]; done) | (simp [frame_ite, touchShelf_frame ‹touchShelf _ _ = some _›]; done) | (refine (frame_foldl _ _ _ fun _ _ => ?_).trans ?_))

@[simp] theorem frame_uncorrectable (s : State) (near : Bool) (f : Nat) (req : Nat)  : frame (State.uncorrectable s near f req) = frame s := by
  unfold State.uncorrectable
  repeat' (first | rfl | (simp [frame_ite, frame_foldl, *]; done) | split | dsimp only | (simp [frame_ite, takeFrame_frame ‹takeFrame _ _ = some (_, _)›]; done) | (simp [frame_ite, touchShelf_frame ‹touchShelf _ _ = some _›]; done) | (refine (frame_foldl _ _ _ fun _ _ => ?_).trans ?_))

@[simp] theorem frame_beginDestroy (s : State) (ctx : Nat)  : frame (State.beginDestroy s ctx) = frame s := by
  unfold State.beginDestroy
  simp [frame_ite, frame_foldl, *]

@[simp] theorem frame_integrityEvent (s : State) (stale : Bool) (ps : List Nat)  : frame (State.integrityEvent s stale ps) = frame s := by
  unfold State.integrityEvent
  simp [frame_ite, frame_foldl, *]

@[simp] theorem frame_readUnified (s : State) (req : Nat) (addr : Nat) (finding : ReadFinding)  : frame (State.readUnified s req addr finding).2 = frame s := by
  unfold State.readUnified
  cases hp : pageAt s (addr / 65536)
  · simp only [hp]
    (repeat' split) <;> first | rfl | simp only [frame_integrityEvent]
  · simp only [hp]
    cases finding <;> dsimp only <;> (repeat' split) <;>
      first | rfl | simp only [frame_reachTorn, frame_uncorrectable, frame_corrected, frame_integrityEvent]

@[simp] theorem frame_repairTorn (s : State) (granule : Nat)  : frame (State.repairTorn s granule) = frame s := by
  unfold State.repairTorn
  repeat' (first | rfl | (simp [frame_ite, frame_foldl, *]; done) | split | dsimp only | (simp [frame_ite, takeFrame_frame ‹takeFrame _ _ = some (_, _)›]; done) | (simp [frame_ite, touchShelf_frame ‹touchShelf _ _ = some _›]; done) | (refine (frame_foldl _ _ _ fun _ _ => ?_).trans ?_))

@[simp] theorem frame_readEnds (s : State) (id : Nat) (e : ReadEnd) : frame (State.readEnds s id e) = frame s := by
  unfold State.readEnds
  simp [frame_ite, frame_foldl, *]

@[simp] theorem frame_dropFarAccesses (s : State) : frame (State.dropFarAccesses s) = frame s := by
  unfold State.dropFarAccesses
  repeat' (first | rfl | (simp [frame_ite, frame_foldl, *]; done) | split | dsimp only | (simp [frame_ite, takeFrame_frame ‹takeFrame _ _ = some (_, _)›]; done) | (simp [frame_ite, touchShelf_frame ‹touchShelf _ _ = some _›]; done) | (refine (frame_foldl _ _ _ fun _ _ => ?_).trans ?_))

@[simp] theorem frame_cellarFails (s : State) : frame s.cellarFails = frame s := by
  unfold State.cellarFails
  dsimp only
  rw [frame_modLoft _ _ (by simp [setAt]), frame_modSys, frame_modMap, frame_foldl _ _ _ fun _ _ => by simp]
  simp

@[simp] theorem frame_storeFails (s : State)  : frame (State.storeFails s) = frame s := by
  unfold State.storeFails
  simp [frame_ite, frame_foldl, *]

@[simp] theorem frame_bar2 (s : State) (addr len : Nat) (f : ReadFinding) : frame (s.bar2 addr len f) = frame s := by
  unfold State.bar2
  dsimp only
  split
  · simp
  · split <;> simp

@[simp] theorem frame_migrate (damaged stalled : List Nat) (heated : Bool) (s : State) (p : Nat)  : frame (State.migrate damaged stalled heated s p) = frame s := by
  unfold State.migrate
  repeat' (first | rfl | (simp [frame_ite, frame_foldl, *]; done) | split | dsimp only | (simp [frame_ite, takeFrame_frame ‹takeFrame _ _ = some (_, _)›]; done) | (simp [frame_ite, touchShelf_frame ‹touchShelf _ _ = some _›]; done) | (refine (frame_foldl _ _ _ fun _ _ => ?_).trans ?_))

@[simp] theorem frame_refillReserve (damaged stalled : List Nat) (n : Nat) (s : State) : frame (State.refillReserve damaged stalled n s).2 = frame s := by
  induction n generalizing s with
  | zero => rfl
  | succ n ih =>
    unfold State.refillReserve
    split
    · rfl
    · split
      · rw [ih]; simp
      · rfl

@[simp] theorem frame_promote (damaged stalled : List Nat) (n : Nat) (s : State) : frame (State.promote damaged stalled n s) = frame s := by
  induction n using Nat.strongRecOn generalizing s with
  | _ n ih =>
    cases n with
    | zero => rw [State.promote]
    | succ n =>
      rw [State.promote]
      split
      · rfl
      · split
        · rw [ih n (by omega)]; simp
        · split
          · split
            · rfl
            · rw [ih (n - 1) (by omega)]; simp
          · rfl

@[simp] theorem frame_lockFault (s : State) (id : Nat)  : frame (State.lockFault s id) = frame s := by
  unfold State.lockFault
  simp [frame_ite, frame_foldl, *]

@[simp] theorem frame_arrive (a : Nat) (s : State) (r : Nat × ArbRequest)  : frame (State.arrive a s r) = frame s := by
  unfold State.arrive
  repeat' (first | rfl | (simp [frame_ite, frame_foldl, *]; done) | split | dsimp only | (simp [frame_ite, takeFrame_frame ‹takeFrame _ _ = some (_, _)›]; done) | (simp [frame_ite, touchShelf_frame ‹touchShelf _ _ = some _›]; done) | (refine (frame_foldl _ _ _ fun _ _ => ?_).trans ?_))

@[simp] theorem frame_warm (s : State) (addr : Nat)  : frame (State.warm s addr) = frame s := by
  unfold State.warm
  simp [frame_ite, frame_foldl, *]

@[simp] theorem frame_countBlock (s : State) (k : Nat)  : frame (State.countBlock s k) = frame s := by
  unfold State.countBlock
  simp [frame_ite, frame_foldl, *]

@[simp] theorem frame_writeLeaf (s : State) (l : Nat)  : frame (State.writeLeaf s l) = frame s := by
  unfold State.writeLeaf
  simp [frame_ite, frame_foldl, *]

@[simp] theorem frame_writeLevel2 (s : State) (n : Nat)  : frame (State.writeLevel2 s n) = frame s := rfl

@[simp] theorem frame_writeLines (s : State) (k : Nat)  : frame (State.writeLines s k) = frame s := by
  unfold State.writeLines
  simp [frame_ite, frame_foldl, *]

@[simp] theorem frame_writeBlock (s : State) (k : Nat)  : frame (State.writeBlock s k) = frame s := by
  unfold State.writeBlock
  simp [frame_ite, frame_foldl, *]

@[simp] theorem frame_writeCellar (s : State) (addr : Nat) (beats : Nat)  : frame (State.writeCellar s addr beats) = frame s := by
  unfold State.writeCellar
  repeat' (first | rfl | (simp [frame_ite, frame_foldl, *]; done) | split | dsimp only | (simp [frame_ite, takeFrame_frame ‹takeFrame _ _ = some (_, _)›]; done) | (simp [frame_ite, touchShelf_frame ‹touchShelf _ _ = some _›]; done) | (refine (frame_foldl _ _ _ fun _ _ => ?_).trans ?_))

@[simp] theorem frame_access (s : State) (id : Nat) (addr : Nat) (beats : Nat) (write : Bool) (finding : ReadFinding)  : frame (State.access s id addr beats write finding) = frame s := by
  unfold State.access
  simp [frame_ite, frame_foldl, *]

@[simp] theorem frame_noteGrant (s : State) (w : ArbWait) (beats : Nat) (slot : Bool)  : frame (State.noteGrant s w beats slot) = frame s := by
  unfold State.noteGrant
  rfl

@[simp] theorem frame_unwait (s : State) (a : Nat) (w : ArbWait)  : frame (State.unwait s a w) = frame s := by
  unfold State.unwait
  rfl

@[simp] theorem frame_grantBurst (s : State) (a : Nat) (w : ArbWait) (slot : Bool)  : frame (State.grantBurst s a w slot) = frame s := by
  unfold State.grantBurst
  repeat' (first | rfl | (simp [frame_ite, frame_foldl, *]; done) | split | dsimp only | (simp [frame_ite, takeFrame_frame ‹takeFrame _ _ = some (_, _)›]; done) | (simp [frame_ite, touchShelf_frame ‹touchShelf _ _ = some _›]; done) | (refine (frame_foldl _ _ _ fun _ _ => ?_).trans ?_))

@[simp] theorem frame_background (s : State) (a : Nat)  : frame (State.background s a) = frame s := by
  unfold State.background
  repeat' (first | rfl | (simp [frame_ite, frame_foldl, *]; done) | split | dsimp only | (simp [frame_ite, takeFrame_frame ‹takeFrame _ _ = some (_, _)›]; done) | (simp [frame_ite, touchShelf_frame ‹touchShelf _ _ = some _›]; done) | (refine (frame_foldl _ _ _ fun _ _ => ?_).trans ?_))

@[simp] theorem frame_lockBeats (s : State) (a : Nat)  : frame (State.lockBeats s a) = frame s := by
  unfold State.lockBeats
  repeat' (first | rfl | (simp [frame_ite, frame_foldl, *]; done) | split | dsimp only | (simp [frame_ite, takeFrame_frame ‹takeFrame _ _ = some (_, _)›]; done) | (simp [frame_ite, touchShelf_frame ‹touchShelf _ _ = some _›]; done) | (refine (frame_foldl _ _ _ fun _ _ => ?_).trans ?_))

@[simp] theorem frame_beginLock (s : State) (a : Nat) (w : ArbWait) (g : Nat) (total : Nat)  : frame (State.beginLock s a w g total) = frame s := by
  unfold State.beginLock
  simp [frame_ite, frame_foldl, *]

@[simp] theorem frame_decide1 (s : State) (a : Nat)  : frame (State.decide1 s a) = frame s := by
  unfold State.decide1
  repeat' (first | rfl | (simp [frame_ite, frame_foldl, *]; done) | split | dsimp only | (simp [frame_ite, takeFrame_frame ‹takeFrame _ _ = some (_, _)›]; done) | (simp [frame_ite, touchShelf_frame ‹touchShelf _ _ = some _›]; done) | (refine (frame_foldl _ _ _ fun _ _ => ?_).trans ?_))

@[simp] theorem frame_breakBurst (s : State) (a : Nat) (gone : Nat) (w : ArbWait)  : frame (State.breakBurst s a gone w) = frame s := by
  unfold State.breakBurst
  repeat' (first | rfl | (simp [frame_ite, frame_foldl, *]; done) | split | dsimp only | (simp [frame_ite, takeFrame_frame ‹takeFrame _ _ = some (_, _)›]; done) | (simp [frame_ite, touchShelf_frame ‹touchShelf _ _ = some _›]; done) | (refine (frame_foldl _ _ _ fun _ _ => ?_).trans ?_))

@[simp] theorem frame_sessionOpenBody (r : Req) (s : State)  : frame (sessionOpenBody r s) = frame s := by
  unfold sessionOpenBody
  simp [frame_ite, frame_foldl, *]

@[simp] theorem frame_sessionCloseBody (r : Req) (s : State)  : frame (sessionCloseBody r s) = frame s := by
  unfold sessionCloseBody
  simp [frame_ite, frame_foldl, *]

@[simp] theorem frame_sessionConfigBody (r : Req) (s : State)  : frame (sessionConfigBody r s) = frame s := by
  unfold sessionConfigBody
  simp [frame_ite, frame_foldl, *]

@[simp] theorem frame_sessionSensorBody (d : Dma) (r : Req) (s : State) : frame (sessionSensorBody d r s) = frame s := by
  unfold sessionSensorBody
  dsimp only
  refine frame_guarded _ _ _ _ fun t => ?_
  split
  · refine frame_withDma _ _ _ _ _ _ _ fun b u => ?_
    split
    · split <;> simp
    · simp
  · split <;> simp

@[simp] theorem frame_sessionQueryBody (r : Req) (s : State)  : frame (sessionQueryBody r s) = frame s := by
  unfold sessionQueryBody
  dsimp only
  refine frame_guarded _ _ _ _ fun t => ?_
  split <;> simp

@[simp] theorem frame_sessionCheckpointBody (r : Req) (s : State)  : frame (sessionCheckpointBody r s) = frame s := by
  unfold sessionCheckpointBody
  dsimp only
  refine frame_guarded _ _ _ _ fun t => ?_
  split <;> simp

@[simp] theorem frame_sessionMoveBody (r : Req) (s : State)  : frame (sessionMoveBody r s) = frame s := by
  unfold sessionMoveBody
  simp [frame_ite, frame_foldl, *]

@[simp] theorem frame_resume (s : State) (sid : Nat) (ch : Nat) (st : SessState)  : frame (State.resume s sid ch st) = frame s := by
  unfold State.resume
  repeat' (first | rfl | (simp [frame_ite, frame_foldl, *]; done) | split | dsimp only | (simp [frame_ite, takeFrame_frame ‹takeFrame _ _ = some (_, _)›]; done) | (simp [frame_ite, touchShelf_frame ‹touchShelf _ _ = some _›]; done) | (refine (frame_foldl _ _ _ fun _ _ => ?_).trans ?_))

@[simp] theorem frame_failureMoved (s : State) (sid d : Nat) : frame (s.failureMoved sid d) = frame s := by
  unfold State.failureMoved
  refine (frame_foldl _ _ _ fun _ _ => frame_place _ _ _ _).trans ?_
  split <;> simp

@[simp] theorem frame_roleMoved (s : State) (sid c : Nat) (before : SessState) : frame (s.roleMoved sid c before) = frame s := by
  unfold State.roleMoved
  dsimp only
  repeat' split
  all_goals simp

@[simp] theorem frame_streamBindBody (r : Req) (s : State)  : frame (streamBindBody r s) = frame s := by
  unfold streamBindBody
  simp [frame_ite, frame_foldl, *]

@[simp] theorem frame_streamUnbindBody (r : Req) (s : State)  : frame (streamUnbindBody r s) = frame s := by
  unfold streamUnbindBody
  simp [frame_ite, frame_foldl, *]

@[simp] theorem frame_capQueryBody (r : Req) (s : State)  : frame (capQueryBody r s) = frame s := by
  unfold capQueryBody
  simp [frame_ite, frame_foldl, *]

@[simp] theorem frame_devStateBody (r : Req) (s : State)  : frame (devStateBody r s) = frame s := by
  unfold devStateBody
  simp [frame_ite, frame_foldl, *]

@[simp] theorem frame_powerCapBody (r : Req) (s : State)  : frame (powerCapBody r s) = frame s := by
  unfold powerCapBody
  simp [frame_ite, frame_foldl, *]

@[simp] theorem frame_eventRingSetBody (r : Req) (s : State)  : frame (eventRingSetBody r s) = frame s := by
  unfold eventRingSetBody
  simp [frame_ite, frame_foldl, *]

@[simp] theorem frame_channelRoleBody (r : Req) (s : State)  : frame (channelRoleBody r s) = frame s := by
  unfold channelRoleBody
  simp [frame_ite, frame_foldl, *]

@[simp] theorem frame_coreResetBody (r : Req) (s : State)  : frame (coreResetBody r s) = frame s := by
  unfold coreResetBody
  simp [frame_ite, frame_foldl, *]

@[simp] theorem frame_echoBody (r : Req) (s : State)  : frame (echoBody r s) = frame s := by
  unfold echoBody
  simp [frame_ite, frame_foldl, *]

@[simp] theorem frame_telemetryBody (r : Req) (s : State)  : frame (telemetryBody r s) = frame s := by
  unfold telemetryBody
  simp [frame_ite, frame_foldl, *]

@[simp] theorem frame_channelTestBody (r : Req) (s : State)  : frame (channelTestBody r s) = frame s := by
  unfold channelTestBody
  simp [frame_ite, frame_foldl, *]

@[simp] theorem frame_enterItems (b dl : Nat) (l : List (Nat × Item)) (s : State) : frame (State.enterItems b dl l s) = frame s := by
  induction l generalizing s with
  | nil => rfl
  | cons e rest ih =>
    obtain ⟨i, it⟩ := e
    unfold State.enterItems
    split
    · rfl
    · dsimp only
      rw [ih]
      split
      · simp
      · split <;> simp

@[simp] theorem frame_batchSubmitBody (d : Dma) (r : Req) (s : State) : frame (batchSubmitBody d r s) = frame s := by
  unfold batchSubmitBody
  dsimp only
  refine frame_guarded _ _ _ _ fun t => frame_withDma _ _ _ _ _ _ _ fun b u => frame_guarded _ _ _ _ fun v => ?_
  rw [frame_enterItems]
  split <;> simp

@[simp] theorem frame_resultAreaSetBody (r : Req) (s : State)  : frame (resultAreaSetBody r s) = frame s := by
  unfold resultAreaSetBody
  simp [frame_ite, frame_foldl, *]

@[simp] theorem frame_graphLoadBody (r : Req) (s : State)  : frame (graphLoadBody r s) = frame s := by
  unfold graphLoadBody
  simp [frame_ite, frame_foldl, *]

@[simp] theorem frame_graphLoadEnds (s : State) (hatch : Nat) (d : Dma)  : frame (State.graphLoadEnds s hatch d) = frame s := by
  unfold State.graphLoadEnds
  repeat' (first | rfl | (simp [frame_ite, frame_foldl, *]; done) | split | dsimp only | (simp [frame_ite, takeFrame_frame ‹takeFrame _ _ = some (_, _)›]; done) | (simp [frame_ite, touchShelf_frame ‹touchShelf _ _ = some _›]; done) | (refine (frame_foldl _ _ _ fun _ _ => ?_).trans ?_))

@[simp] theorem frame_graphUnloadBody (r : Req) (s : State)  : frame (graphUnloadBody r s) = frame s := by
  unfold graphUnloadBody
  simp [frame_ite, frame_foldl, *]

@[simp] theorem frame_removeEvent (s : State) (idx : Nat)  : frame (State.removeEvent s idx) = frame s := by
  unfold State.removeEvent
  repeat' (first | rfl | (simp [frame_ite, frame_foldl, *]; done) | split | dsimp only | (simp [frame_ite, takeFrame_frame ‹takeFrame _ _ = some (_, _)›]; done) | (simp [frame_ite, touchShelf_frame ‹touchShelf _ _ = some _›]; done) | (refine (frame_foldl _ _ _ fun _ _ => ?_).trans ?_))

@[simp] theorem frame_removeEvents (s : State) (f : EvEntry → Bool)  : frame (State.removeEvents s f) = frame s := by
  unfold State.removeEvents
  simp [frame_ite, frame_foldl, *]

@[simp] theorem frame_launch (s : State) (p : Nat) (slot : Nat) (q : Nat)  : frame (State.launch s p slot q) = frame s := by
  unfold State.launch
  repeat' (first | rfl | (simp [frame_ite, frame_foldl, *]; done) | split | dsimp only | (simp [frame_ite, takeFrame_frame ‹takeFrame _ _ = some (_, _)›]; done) | (simp [frame_ite, touchShelf_frame ‹touchShelf _ _ = some _›]; done) | (refine (frame_foldl _ _ _ fun _ _ => ?_).trans ?_))

@[simp] theorem frame_pinAction (s : State) (pin : Nat) (level : Nat) (w : Nat) (q : Nat)  : frame (State.pinAction s pin level w q) = frame s := by
  unfold State.pinAction
  simp [frame_ite, frame_foldl, *]

@[simp] theorem frame_cycleSession (s : State) (slot : Nat) (key : Nat) (dl : Nat) (p : Nat × Session)  : frame (State.cycleSession s slot key dl p) = frame s := by
  unfold State.cycleSession
  simp [frame_ite, frame_foldl, *]

@[simp] theorem frame_cycle (s : State) (arg : Nat) (q : Nat)  : frame (State.cycle s arg q) = frame s := by
  unfold State.cycle
  repeat' (first | rfl | (simp [frame_ite, frame_foldl, *]; done) | split | dsimp only | (simp [frame_ite, takeFrame_frame ‹takeFrame _ _ = some (_, _)›]; done) | (simp [frame_ite, touchShelf_frame ‹touchShelf _ _ = some _›]; done) | (refine (frame_foldl _ _ _ fun _ _ => ?_).trans ?_))

@[simp] theorem frame_act (s : State) (e : EvEntry)  : frame (State.act s e) = frame s := by
  unfold State.act
  simp [frame_ite, frame_foldl, *]

@[simp] theorem frame_latchTime (s : State)  : frame (State.latchTime s) = frame s := by
  unfold State.latchTime
  rfl

@[simp] theorem frame_readLower (s : State) (a : Nat)  : frame (State.readLower s a) = frame s := by
  unfold State.readLower
  simp [frame_ite, frame_foldl, *]

@[simp] theorem frame_readUpper (s : State) (a : Nat)  : frame (State.readUpper s a) = frame s := by
  unfold State.readUpper
  rfl

@[simp] theorem frame_read32 (s : State) (a : Nat) : frame (State.read32 s a) = frame s := by
  unfold State.read32
  simp [frame_ite, frame_foldl, *]

@[simp] theorem frame_barRead (s : State) (off width : Nat) : frame (State.barRead s off width) = frame s := by
  unfold State.barRead
  simp [frame_ite, frame_foldl, *]

@[simp] theorem frame_halfWrite (s : State) (a : Nat) (upper : Bool) (v : Nat) (cur : Nat)  : frame (State.halfWrite s a upper v cur).2 = frame s := by
  unfold State.halfWrite
  repeat' (first | rfl | (simp [frame_ite, frame_foldl, *]; done) | split | dsimp only | (simp [frame_ite, takeFrame_frame ‹takeFrame _ _ = some (_, _)›]; done) | (simp [frame_ite, touchShelf_frame ‹touchShelf _ _ = some _›]; done) | (refine (frame_foldl _ _ _ fun _ _ => ?_).trans ?_))

@[simp] theorem frame_setClockQ (s : State) (q : ClockQ)  : frame (State.setClockQ s q) = frame s := by
  unfold State.setClockQ
  simp [frame_ite, frame_foldl, *]

@[simp] theorem frame_setStep (s : State) (v : Int)  : frame (State.setStep s v) = frame s := by
  unfold State.setStep
  simp [frame_ite, frame_foldl, *]

@[simp] theorem frame_clearErr (s : State) (i : Nat) (v : Nat)  : frame (State.clearErr s i v) = frame s := by
  unfold State.clearErr
  simp [frame_ite, frame_foldl, *]

@[simp] theorem frame_setAreaRd (s : State) (n : Nat) (v : Nat)  : frame (State.setAreaRd s n v) = frame s := by
  unfold State.setAreaRd
  rfl

@[simp] theorem frame_setEvRd (s : State) (v : Nat)  : frame (State.setEvRd s v) = frame s := by
  unfold State.setEvRd
  simp [frame_ite, frame_foldl, *]

@[simp] theorem frame_setPps (s : State) (v : Nat)  : frame (State.setPps s v) = frame s := by
  unfold State.setPps
  rfl

@[simp] theorem frame_writeCap (s : State) (n : Nat) (v : Nat)  : frame (State.writeCap s n v) = frame s := by
  unfold State.writeCap
  rfl

@[simp] theorem frame_writeMsix (s : State) (o : Nat) (v : Nat)  : frame (State.writeMsix s o v) = frame s := by
  unfold State.writeMsix
  simp [frame_ite, frame_foldl, *]

@[simp] theorem frame_writeHatch (s : State) (a : Nat) (bs : List Byte)  : frame (State.writeHatch s a bs) = frame s := by
  unfold State.writeHatch
  simp [frame_ite, frame_foldl, *]

@[simp] theorem frame_setVector (s : State) (n : Nat) (v : Nat)  : frame (State.setVector s n v) = frame s := by
  unfold State.setVector
  rfl

@[simp] theorem frame_setOwn (s : State) (n : Nat) (v : Nat)  : frame (State.setOwn s n v) = frame s := by
  unfold State.setOwn
  simp [frame_ite, frame_foldl, *]

@[simp] theorem frame_writeCtl (s : State) (n : Nat) (v : Nat)  : frame (State.writeCtl s n v) = frame s := by
  unfold State.writeCtl
  simp [frame_ite, frame_foldl, *]

@[simp] theorem frame_writeStatus (s : State) (v : Nat)  : frame (State.writeStatus s v) = frame s := by
  unfold State.writeStatus
  rfl

@[simp] theorem frame_clearDone (s : State) (v : Nat)  : frame (State.clearDone s v) = frame s := by
  unfold State.clearDone
  rfl

@[simp] theorem frame_writeArbStat (s : State) (n : Nat) (v : Nat)  : frame (State.writeArbStat s n v) = frame s := by
  unfold State.writeArbStat
  rfl

@[simp] theorem frame_modPtp (s : State) (p : Nat) (f : PtpPort → PtpPort)  : frame (State.modPtp s p f) = frame s := by
  unfold State.modPtp
  rfl

@[simp] theorem frame_setPtpState (s : State) (p : Nat) (st : PtpState)  : frame (State.setPtpState s p st) = frame s := by
  unfold State.setPtpState
  simp [frame_ite, frame_foldl, *]

@[simp] theorem frame_restartPtp (s : State) (p : Nat)  : frame (State.restartPtp s p) = frame s := by
  unfold State.restartPtp
  simp [frame_ite, frame_foldl, *]

@[simp] theorem frame_decidePorts (s : State)  : frame (State.decidePorts s) = frame s := by
  unfold State.decidePorts
  repeat' (first | rfl | (simp [frame_ite, frame_foldl, *]; done) | split | dsimp only | (simp [frame_ite, takeFrame_frame ‹takeFrame _ _ = some (_, _)›]; done) | (simp [frame_ite, touchShelf_frame ‹touchShelf _ _ = some _›]; done) | (refine (frame_foldl _ _ _ fun _ _ => ?_).trans ?_))

@[simp] theorem frame_judgeClock (s : State) (off : Int) (up : Bool)  : frame (State.judgeClock s off up) = frame s := by
  unfold State.judgeClock
  simp [frame_ite, frame_foldl, *]

@[simp] theorem frame_measure (s : State) (p : Nat) (t1 : Int) (t2 : Int) (cs : Int)  : frame (State.measure s p t1 t2 cs) = frame s := by
  unfold State.measure
  repeat' (first | rfl | (simp [frame_ite, frame_foldl, *]; done) | split | dsimp only | (simp [frame_ite, takeFrame_frame ‹takeFrame _ _ = some (_, _)›]; done) | (simp [frame_ite, touchShelf_frame ‹touchShelf _ _ = some _›]; done) | (refine (frame_foldl _ _ _ fun _ _ => ?_).trans ?_))

@[simp] theorem frame_pushStamp (s : State) (p : Nat) (kind : Nat) (seq : Nat) (t : Nat)  : frame (State.pushStamp s p kind seq t) = frame s := by
  unfold State.pushStamp
  simp [frame_ite, frame_foldl, *]

@[simp] theorem frame_sendEth (s : State) (p : Nat) (f : List Byte)  : frame (State.sendEth s p f) = frame s := by
  unfold State.sendEth
  simp [frame_ite, frame_foldl, *]

@[simp] theorem frame_timeStatusBody (r : Req) (s : State)  : frame (timeStatusBody r s) = frame s := by
  unfold timeStatusBody
  simp [frame_ite, frame_foldl, *]

@[simp] theorem frame_loseRefs (s : State) (f : Ref → Bool)  : frame (State.loseRefs s f) = frame s := by
  unfold State.loseRefs
  rfl

@[simp] theorem frame_setEpoch (s : State) (mu : Nat) (e : Int)  : frame (State.setEpoch s mu e) = frame s := by
  unfold State.setEpoch
  simp [frame_ite, frame_foldl, *]

@[simp] theorem frame_airEpochSetBody (r : Req) (s : State)  : frame (airEpochSetBody r s) = frame s := by
  unfold airEpochSetBody
  simp [frame_ite, frame_foldl, *]

@[simp] theorem frame_setPtpPort (s : State) (p : Nat) (b : List Byte)  : frame (State.setPtpPort s p b) = frame s := by
  unfold State.setPtpPort
  simp [frame_ite, frame_foldl, *]

@[simp] theorem frame_ptpPortSetBody (r : Req) (s : State)  : frame (ptpPortSetBody r s) = frame s := by
  unfold ptpPortSetBody
  simp [frame_ite, frame_foldl, *]

@[simp] theorem frame_eventAddBody (r : Req) (s : State)  : frame (eventAddBody r s) = frame s := by
  unfold eventAddBody
  simp [frame_ite, frame_foldl, *]

@[simp] theorem frame_eventRemoveBody (r : Req) (s : State)  : frame (eventRemoveBody r s) = frame s := by
  unfold eventRemoveBody
  simp [frame_ite, frame_foldl, *]

@[simp] theorem frame_tevSetBody (r : Req) (s : State)  : frame (tevSetBody r s) = frame s := by
  unfold tevSetBody
  simp [frame_ite, frame_foldl, *]

@[simp] theorem frame_launchQueueBody (d : Dma) (r : Req) (s : State)  : frame (launchQueueBody d r s) = frame s := by
  unfold launchQueueBody
  simp [frame_ite, frame_foldl, *]

@[simp] theorem frame_writeRecord (s : State) : frame s.writeRecord = frame s := by
  unfold State.writeRecord
  rw [frame_modLoft _ _ (by simp [setAt])]

@[simp] theorem frame_modRecord (s : State) (f : StartRec → StartRec)  : frame (State.modRecord s f) = frame s := by
  unfold State.modRecord
  simp [frame_ite, frame_foldl, *]

@[simp] theorem frame_noteStep (s : State) (n : Nat) (outcome : Nat) (reason : Nat)  : frame (State.noteStep s n outcome reason) = frame s := by
  unfold State.noteStep
  simp [frame_ite, frame_foldl, *]

@[simp] theorem frame_remedy (s : State) (f : Remedies → Remedies)  : frame (State.remedy s f) = frame s := by
  unfold State.remedy
  rfl

@[simp] theorem frame_enterSafe (s : State) (step : Nat)  : frame (State.enterSafe s step) = frame s := by
  unfold State.enterSafe
  simp [frame_ite, frame_foldl, *]

@[simp] theorem frame_requiredFails (s : State) (n : Nat) (reason : Nat)  : frame (State.requiredFails s n reason) = frame s := by
  unfold State.requiredFails
  simp [frame_ite, frame_foldl, *]

@[simp] theorem frame_acceptImage (s : State) (img : List Byte) (source : Nat)  : frame (State.acceptImage s img source) = frame s := by
  unfold State.acceptImage
  simp [frame_ite, frame_foldl, *]

@[simp] theorem frame_enterStep (s : State) (n : Nat)  : frame (State.enterStep s n) = frame s := by
  unfold State.enterStep
  simp [frame_ite, frame_foldl, *]

@[simp] theorem frame_stepDone (s : State) (n : Nat) (outcome : Nat) (reason : optParam Nat 0)  : frame (State.stepDone s n outcome reason) = frame s := by
  unfold State.stepDone
  simp [frame_ite, frame_foldl, *]

@[simp] theorem frame_endSt7 (s : State) (mask : Nat) (reason : Nat)  : frame (State.endSt7 s mask reason) = frame s := by
  unfold State.endSt7
  simp [frame_ite, frame_foldl, *]

@[simp] theorem frame_endSt9 (s : State) : frame s.endSt9 = frame s := by
  unfold State.endSt9
  dsimp only
  rw [frame_foldl _ _ _ fun _ _ => by simp, frame_noteStep, frame_modSys, frame_modPow _ _ (by simp), frame_modMap, frame_modFus, frame_layAreas, frame_modLink]
  split <;> split <;> split <;> simp

@[simp] theorem frame_endSt8 (s : State)  : frame (State.endSt8 s) = frame s := by
  unfold State.endSt8
  repeat' (first | rfl | (simp [frame_ite, frame_foldl, *]; done) | split | dsimp only | (simp [frame_ite, takeFrame_frame ‹takeFrame _ _ = some (_, _)›]; done) | (simp [frame_ite, touchShelf_frame ‹touchShelf _ _ = some _›]; done) | (refine (frame_foldl _ _ _ fun _ _ => ?_).trans ?_))

@[simp] theorem frame_endSt2 (s : State) (f : StepFinding)  : frame (State.endSt2 s f) = frame s := by
  unfold State.endSt2
  simp [frame_ite, frame_foldl, *]

@[simp] theorem frame_endStep (s : State) (f : StepFinding) (timeout : Bool) : frame (s.endStep f timeout) = frame s := by
  unfold State.endStep
  dsimp only
  split
  · by_cases h : (f.mask != 0) = true <;> simp only [h, if_true, if_false] <;> (split <;> simp)
  · split <;> simp
  · split
    · split <;> simp
    · simp
  · split
    · simp
    · split <;> simp
  · split
    · simp
    · split <;> simp
  · simp
  · simp
  · split <;> simp
  · split <;> simp
  · rfl

@[simp] theorem frame_bootLoadBody (d : Dma) (r : Req) (s : State)  : frame (bootLoadBody d r s) = frame s := by
  unfold bootLoadBody
  simp [frame_ite, frame_foldl, *]

@[simp] theorem frame_answer (s : State) (h : Nat) (addr : Nat) (b : List Byte)  : frame (State.answer s h addr b) = frame s := by
  unfold State.answer
  simp [frame_ite, frame_foldl, *]

@[simp] theorem frame_counterSnapshotBody (r : Req) (s : State)  : frame (counterSnapshotBody r s) = frame s := by
  unfold counterSnapshotBody
  simp [frame_ite, frame_foldl, *]

@[simp] theorem frame_latchCounters (s : State)  : frame (State.latchCounters s) = frame s := by
  unfold State.latchCounters
  rfl

@[simp] theorem frame_traceSync (s : State)  : frame (State.traceSync s) = frame s := by
  unfold State.traceSync
  simp [frame_ite, frame_foldl, *]

@[simp] theorem frame_traceOff (s : State)  : frame (State.traceOff s) = frame s := by
  unfold State.traceOff
  rfl

@[simp] theorem frame_traceSetBody (r : Req) (s : State)  : frame (traceSetBody r s) = frame s := by
  unfold traceSetBody
  simp [frame_ite, frame_foldl, *]

@[simp] theorem frame_errDetailReadBody (r : Req) (s : State)  : frame (errDetailReadBody r s) = frame s := by
  unfold errDetailReadBody
  simp [frame_ite, frame_foldl, *]

@[simp] theorem frame_aer (s : State) (uncorr : W32) (corr : W32)  : frame (State.aer s uncorr corr) = frame s := by
  unfold State.aer
  simp [frame_ite, frame_foldl, *]

@[simp] theorem frame_loftReadBody (r : Req) (s : State)  : frame (loftReadBody r s) = frame s := by
  unfold loftReadBody
  simp [frame_ite, frame_foldl, *]

@[simp] theorem frame_startLogReadBody (r : Req) (s : State)  : frame (startLogReadBody r s) = frame s := by
  unfold startLogReadBody
  simp [frame_ite, frame_foldl, *]

@[simp] theorem frame_modScuChain (s : State) (c : Nat) (f : Chain → Chain)  : frame (State.modScuChain s c f) = frame s := by
  unfold State.modScuChain
  rfl

@[simp] theorem frame_scuChainSetBody (r : Req) (s : State)  : frame (scuChainSetBody r s) = frame s := by
  unfold scuChainSetBody
  simp [frame_ite, frame_foldl, *]

@[simp] theorem frame_scuCoeffLoadBody (d : Dma) (r : Req) (s : State)  : frame (scuCoeffLoadBody d r s) = frame s := by
  unfold scuCoeffLoadBody
  simp [frame_ite, frame_foldl, *]

@[simp] theorem frame_scuChainRunBody (r : Req) (s : State)  : frame (scuChainRunBody r s) = frame s := by
  unfold scuChainRunBody
  simp [frame_ite, frame_foldl, *]

@[simp] theorem frame_soundingBindBody (r : Req) (s : State)  : frame (soundingBindBody r s) = frame s := by
  unfold soundingBindBody
  simp [frame_ite, frame_foldl, *]

@[simp] theorem frame_soundingUnbindBody (r : Req) (s : State)  : frame (soundingUnbindBody r s) = frame s := by
  unfold soundingUnbindBody
  simp [frame_ite, frame_foldl, *]

@[simp] theorem frame_dropRefs (s : State) (f : Nat → Binding → Bool)  : frame (State.dropRefs s f) = frame s := by
  unfold State.dropRefs
  rfl

@[simp] theorem frame_antennaSetBody (d : Dma) (r : Req) (s : State) : frame (antennaSetBody d r s) = frame s := by
  unfold antennaSetBody
  dsimp only
  refine frame_guarded _ _ _ _ fun t => frame_withDma _ _ _ _ _ _ _ fun b u => ?_
  split
  · simp
  · rw [frame_place, frame_foldl _ _ _ fun _ _ => by simp]; simp

@[simp] theorem frame_certReadBody (r : Req) (s : State)  : frame (certReadBody r s) = frame s := by
  unfold certReadBody
  simp [frame_ite, frame_foldl, *]

@[simp] theorem frame_attestBody (r : Req) (s : State)  : frame (attestBody r s) = frame s := by
  unfold attestBody
  simp [frame_ite, frame_foldl, *]

@[simp] theorem frame_contextCreateBody (d : Dma) (r : Req) (s : State) : frame (contextCreateBody d r s) = frame s := by
  unfold contextCreateBody
  dsimp only
  refine frame_guarded _ _ _ _ fun t => frame_withDma _ _ _ _ _ _ _ fun b u => ?_
  split
  · simp
  · rw [frame_place _ _ _ _, frame_dma, frame_foldl _ _ _ fun _ _ => by simp]; simp

@[simp] theorem frame_endContext (s : State) (ctx : Nat)  : frame (State.endContext s ctx) = frame s := by
  unfold State.endContext
  simp [frame_ite, frame_foldl, *]

@[simp] theorem frame_contextDestroyBody (r : Req) (s : State)  : frame (contextDestroyBody r s) = frame s := by
  unfold contextDestroyBody
  simp [frame_ite, frame_foldl, *]

@[simp] theorem frame_modeProceed (s : State)  : frame (State.modeProceed s) = frame s := by
  unfold State.modeProceed
  simp [frame_ite, frame_foldl, *]

@[simp] theorem frame_confEnterBody (r : Req) (s : State)  : frame (confEnterBody r s) = frame s := by
  unfold confEnterBody
  simp [frame_ite, frame_foldl, *]

@[simp] theorem frame_confExitBody (r : Req) (s : State)  : frame (confExitBody r s) = frame s := by
  unfold confExitBody
  simp [frame_ite, frame_foldl, *]

@[simp] theorem frame_switchMode (s : State) (conf : Bool)  : frame (State.switchMode s conf) = frame s := by
  unfold State.switchMode
  simp [frame_ite, frame_foldl, *]

@[simp] theorem frame_keyRotateBody (r : Req) (s : State)  : frame (keyRotateBody r s) = frame s := by
  unfold keyRotateBody
  simp [frame_ite, frame_foldl, *]

@[simp] theorem frame_sweepPage (gen : Nat) (s : State) (p : Nat)  : frame (State.sweepPage gen s p) = frame s := by
  unfold State.sweepPage
  simp [frame_ite, frame_foldl, *]

@[simp] theorem frame_giveAway (s : State) (failure : Bool) (sid : Nat)  : frame (State.giveAway s failure sid) = frame s := by
  unfold State.giveAway
  repeat' (first | rfl | (simp [frame_ite, frame_foldl, *]; done) | split | dsimp only | (simp [frame_ite, takeFrame_frame ‹takeFrame _ _ = some (_, _)›]; done) | (simp [frame_ite, touchShelf_frame ‹touchShelf _ _ = some _›]; done) | (refine (frame_foldl _ _ _ fun _ _ => ?_).trans ?_))

@[simp] theorem frame_loseMapWork (s : State) (ch : Nat)  : frame (State.loseMapWork s ch) = frame s := by
  unfold State.loseMapWork
  simp [frame_ite, frame_foldl, *]

@[simp] theorem frame_loseInstances (s : State) (ch : Nat)  : frame (State.loseInstances s ch) = frame s := by
  unfold State.loseInstances
  simp [frame_ite, frame_foldl, *]

@[simp] theorem frame_loseGraphs (s : State) (ch : Nat)  : frame (State.loseGraphs s ch) = frame s := by
  unfold State.loseGraphs
  simp [frame_ite, frame_foldl, *]

@[simp] theorem frame_ensureOrdinary (s : State)  : frame (State.ensureOrdinary s) = frame s := by
  unfold State.ensureOrdinary
  repeat' (first | rfl | (simp [frame_ite, frame_foldl, *]; done) | split | dsimp only | (simp [frame_ite, takeFrame_frame ‹takeFrame _ _ = some (_, _)›]; done) | (simp [frame_ite, touchShelf_frame ‹touchShelf _ _ = some _›]; done) | (refine (frame_foldl _ _ _ fun _ _ => ?_).trans ?_))

@[simp] theorem frame_giveAll (s : State) (failure : Bool) (sids : List Nat)  : frame (State.giveAll s failure sids) = frame s := by
  unfold State.giveAll
  simp [frame_ite, frame_foldl, *]

@[simp] theorem frame_ensureMap (s : State)  : frame (State.ensureMap s) = frame s := by
  unfold State.ensureMap
  simp [frame_ite, frame_foldl, *]

@[simp] theorem frame_channelFails (s : State) (ch : Nat) (bitNo : Nat) (flags : Nat)  : frame (State.channelFails s ch bitNo flags) = frame s := by
  unfold State.channelFails
  simp [frame_ite, frame_foldl, *]

@[simp] theorem frame_failChannel (s : State) (ch : Nat) (cause : Nat) (engine : Nat)  : frame (State.failChannel s ch cause engine) = frame s := by
  unfold State.failChannel
  simp [frame_ite, frame_foldl, *]

@[simp] theorem frame_shelfRead (s : State) (ch i : Nat) (f : ShelfFinding) : frame (s.shelfRead ch i f).2 = frame s := by
  cases f <;> unfold State.shelfRead <;> dsimp only <;> (try split) <;> simp

@[simp] theorem frame_clearEngines (s : State) (all : Bool)  : frame (State.clearEngines s all) = frame s := by
  unfold State.clearEngines
  rfl

@[simp] theorem frame_nextTurn (s : State)  : frame (State.nextTurn s) = frame s := by
  unfold State.nextTurn
  rfl

@[simp] theorem frame_relocEnds (s : State) (r : MapReq) (out : List Byte) : frame (State.relocEnds s r out) = frame s := by
  unfold State.relocEnds
  repeat' (first | rfl | (simp [frame_ite, frame_foldl, *]; done) | split | dsimp only | (simp [frame_ite, takeFrame_frame ‹takeFrame _ _ = some (_, _)›]; done) | (simp [frame_ite, touchShelf_frame ‹touchShelf _ _ = some _›]; done) | (refine (frame_foldl _ _ _ fun _ _ => ?_).trans ?_))

@[simp] theorem frame_nextPart (s : State) (mc : Nat) (r : MapReq)  : frame (State.nextPart s mc r) = frame s := by
  unfold State.nextPart
  rfl

@[simp] theorem frame_takeReloc (s : State) (mc : Nat) (r : MapReq) : frame (State.takeReloc s mc r) = frame s := by
  unfold State.takeReloc
  repeat' (first | rfl | (simp [frame_ite, frame_foldl, *]; done) | split | dsimp only | (simp [frame_ite, takeFrame_frame ‹takeFrame _ _ = some (_, _)›]; done) | (simp [frame_ite, touchShelf_frame ‹touchShelf _ _ = some _›]; done) | (refine (frame_foldl _ _ _ fun _ _ => ?_).trans ?_))

@[simp] theorem frame_judgeClosure (s : State) (mc kf cand : Nat) (k : Kf) (v : Verdict) : frame (State.judgeClosure s mc kf cand k v) = frame s := by
  unfold State.judgeClosure
  repeat' (first | rfl | (simp [frame_ite, frame_foldl, *]; done) | split | dsimp only | (simp [frame_ite, takeFrame_frame ‹takeFrame _ _ = some (_, _)›]; done) | (simp [frame_ite, touchShelf_frame ‹touchShelf _ _ = some _›]; done) | (refine (frame_foldl _ _ _ fun _ _ => ?_).trans ?_))

@[simp] theorem frame_takeClosure (s : State) (mc : Nat) (r : MapReq) (kf : Nat) : frame (State.takeClosure s mc r kf) = frame s := by
  unfold State.takeClosure
  repeat' (first | rfl | (simp [frame_ite, frame_foldl, *]; done) | split | dsimp only | (simp [frame_ite, takeFrame_frame ‹takeFrame _ _ = some (_, _)›]; done) | (simp [frame_ite, touchShelf_frame ‹touchShelf _ _ = some _›]; done) | (refine (frame_foldl _ _ _ fun _ _ => ?_).trans ?_))

@[simp] theorem frame_modCtx (s : State) (sid : Nat) (f : SessCtx → SessCtx)  : frame (State.modCtx s sid f) = frame s := by
  unfold State.modCtx
  rfl

@[simp] theorem frame_traceStep (s : State) (type : Nat) (ch : Nat) (code : Nat) (i : Nat) (x : Inst) (items : Nat)  : frame (State.traceStep s type ch code i x items) = frame s := by
  unfold State.traceStep
  simp [frame_ite, frame_foldl, *]

@[simp] theorem frame_countThinned (s : State) (ch : Nat) (sid : Nat)  : frame (State.countThinned s ch sid) = frame s := by
  unfold State.countThinned
  rfl

@[simp] theorem frame_unqueue (s : State) (ch : Nat) (w : Waiting)  : frame (State.unqueue s ch w) = frame s := by
  unfold State.unqueue
  rfl

@[simp] theorem frame_startInst (s : State) (ch : Nat) (i : Nat) (w : Waiting) (cost : Nat)  : frame (State.startInst s ch i w cost) = frame s := by
  unfold State.startInst
  repeat' (first | rfl | (simp [frame_ite, frame_foldl, *]; done) | split | dsimp only | (simp [frame_ite, takeFrame_frame ‹takeFrame _ _ = some (_, _)›]; done) | (simp [frame_ite, touchShelf_frame ‹touchShelf _ _ = some _›]; done) | (refine (frame_foldl _ _ _ fun _ _ => ?_).trans ?_))

@[simp] theorem frame_onlyRecords (s : State) (ch : Nat) (i : Nat)  : frame (State.onlyRecords s ch i) = frame s := by
  unfold State.onlyRecords
  repeat' (first | rfl | (simp [frame_ite, frame_foldl, *]; done) | split | dsimp only | (simp [frame_ite, takeFrame_frame ‹takeFrame _ _ = some (_, _)›]; done) | (simp [frame_ite, touchShelf_frame ‹touchShelf _ _ = some _›]; done) | (refine (frame_foldl _ _ _ fun _ _ => ?_).trans ?_))

@[simp] theorem frame_dispatch (ch e n : Nat) (s : State) : frame (State.dispatch ch e n s) = frame s := by
  induction n generalizing s with
  | zero => rfl
  | succ n ih =>
    unfold State.dispatch
    split
    · rfl
    · split
      · rfl
      · split
        · rw [ih]; simp
        · split
          · rw [ih]; simp
          · split
            · rfl
            · dsimp only; (repeat' (first | rfl | (simp [frame_ite, frame_foldl]; done) | split))

@[simp] theorem frame_classify (s : State) (sid : Nat) (tc : Nat) (body : List Byte)  : frame (State.classify s sid tc body) = frame s := by
  unfold State.classify
  repeat' (first | rfl | (simp [frame_ite, frame_foldl, *]; done) | split | dsimp only | (simp [frame_ite, takeFrame_frame ‹takeFrame _ _ = some (_, _)›]; done) | (simp [frame_ite, touchShelf_frame ‹touchShelf _ _ = some _›]; done) | (refine (frame_foldl _ _ _ fun _ _ => ?_).trans ?_))

@[simp] theorem frame_firstClock (s : State) (sid : Nat) (arrival : Nat) (stamps samples : List Nat) : frame (State.firstClock s sid arrival stamps samples) = frame s := by
  unfold State.firstClock
  repeat' (first | rfl | (simp [frame_ite, frame_foldl, *]; done) | split | dsimp only | (simp [frame_ite, takeFrame_frame ‹takeFrame _ _ = some (_, _)›]; done) | (simp [frame_ite, touchShelf_frame ‹touchShelf _ _ = some _›]; done) | (refine (frame_foldl _ _ _ fun _ _ => ?_).trans ?_))

@[simp] theorem frame_takeSamples (s : State) (ch : Nat) (i : Nat) (x : Inst) (kind : Nat) (frame_ stamp : Option Nat) (recs : List (List Byte)) : frame (State.takeSamples s ch i x kind frame_ stamp recs) = frame s := by
  unfold State.takeSamples
  repeat' (first | rfl | (simp [frame_ite, frame_foldl, *]; done) | split | dsimp only | (simp [frame_ite, takeFrame_frame ‹takeFrame _ _ = some (_, _)›]; done) | (simp [frame_ite, touchShelf_frame ‹touchShelf _ _ = some _›]; done) | (refine (frame_foldl _ _ _ fun _ _ => ?_).trans ?_))

@[simp] theorem frame_unadmit (s : State) (x : Inst) : frame (State.unadmit s x) = frame s := by
  unfold State.unadmit
  repeat' (first | rfl | (simp [frame_ite, frame_foldl, *]; done) | split | dsimp only | (simp [frame_ite, takeFrame_frame ‹takeFrame _ _ = some (_, _)›]; done) | (simp [frame_ite, touchShelf_frame ‹touchShelf _ _ = some _›]; done) | (refine (frame_foldl _ _ _ fun _ _ => ?_).trans ?_))

@[simp] theorem frame_dmaInEnds (s : State) (ch : Nat) (i : Nat) (d : Dma)  : frame (State.dmaInEnds s ch i d) = frame s := by
  unfold State.dmaInEnds
  repeat' (first | rfl | (simp [frame_ite, frame_foldl, *]; done) | split | dsimp only | (simp [frame_ite, takeFrame_frame ‹takeFrame _ _ = some (_, _)›]; done) | (simp [frame_ite, touchShelf_frame ‹touchShelf _ _ = some _›]; done) | (refine (frame_foldl _ _ _ fun _ _ => ?_).trans ?_))

@[simp] theorem frame_correctSession (s : State) (sid : Nat) (version : Nat)  : frame (State.correctSession s sid version).2 = frame s := by
  unfold State.correctSession
  repeat' (first | rfl | (simp [frame_ite, frame_foldl, *]; done) | split | dsimp only | (simp [frame_ite, takeFrame_frame ‹takeFrame _ _ = some (_, _)›]; done) | (simp [frame_ite, touchShelf_frame ‹touchShelf _ _ = some _›]; done) | (refine (frame_foldl _ _ _ fun _ _ => ?_).trans ?_))

@[simp] theorem frame_relocOver (s : State) (ch : Nat) (i : Nat) (x : Inst)  : frame (State.relocOver s ch i x) = frame s := by
  unfold State.relocOver
  repeat' (first | rfl | (simp [frame_ite, frame_foldl, *]; done) | split | dsimp only | (simp [frame_ite, takeFrame_frame ‹takeFrame _ _ = some (_, _)›]; done) | (simp [frame_ite, touchShelf_frame ‹touchShelf _ _ = some _›]; done) | (refine (frame_foldl _ _ _ fun _ _ => ?_).trans ?_))

@[simp] theorem frame_insertParcelOf (s : State) (x : Inst) (g : Slot)  : frame (State.insertParcelOf s x g) = frame s := by
  unfold State.insertParcelOf
  repeat' (first | rfl | (simp [frame_ite, frame_foldl, *]; done) | split | dsimp only | (simp [frame_ite, takeFrame_frame ‹takeFrame _ _ = some (_, _)›]; done) | (simp [frame_ite, touchShelf_frame ‹touchShelf _ _ = some _›]; done) | (refine (frame_foldl _ _ _ fun _ _ => ?_).trans ?_))

@[simp] theorem frame_returnContext (s : State) (x : Inst)  : frame (State.returnContext s x) = frame s := by
  unfold State.returnContext
  repeat' (first | rfl | (simp [frame_ite, frame_foldl, *]; done) | split | dsimp only | (simp [frame_ite, takeFrame_frame ‹takeFrame _ _ = some (_, _)›]; done) | (simp [frame_ite, touchShelf_frame ‹touchShelf _ _ = some _›]; done) | (refine (frame_foldl _ _ _ fun _ _ => ?_).trans ?_))

@[simp] theorem frame_jobSolved (s : State) (j : Nat)  : frame (State.jobSolved s j) = frame s := by
  unfold State.jobSolved
  repeat' (first | rfl | (simp [frame_ite, frame_foldl, *]; done) | split | dsimp only | (simp [frame_ite, takeFrame_frame ‹takeFrame _ _ = some (_, _)›]; done) | (simp [frame_ite, touchShelf_frame ‹touchShelf _ _ = some _›]; done) | (refine (frame_foldl _ _ _ fun _ _ => ?_).trans ?_))

@[simp] theorem frame_carryKeypoints (s : State) (sid : Nat) (key : Bool) (o : ImagingOut) (frameAt : Option Int)  : frame (State.carryKeypoints s sid key o frameAt) = frame s := by
  unfold State.carryKeypoints
  rfl

@[simp] theorem frame_untake (s : State) (sid : Nat) (x : Inst) : frame (State.untake s sid x) = frame s := by
  unfold State.untake
  simp [frame_ite, frame_foldl, *]

@[simp] theorem frame_worked (s : State) (ch : Nat) (e : Nat)  : frame (State.worked s ch e) = frame s := by
  unfold State.worked
  rfl

@[simp] theorem frame_runImaging (s : State) (ch : Nat) (i : Nat) (x : Inst) (g : Slot) (t : GStep)  : frame (State.runImaging s ch i x g t) = frame s := by
  unfold State.runImaging
  repeat' (first | rfl | (simp [frame_ite, frame_foldl, *]; done) | split | dsimp only | (simp [frame_ite, takeFrame_frame ‹takeFrame _ _ = some (_, _)›]; done) | (simp [frame_ite, touchShelf_frame ‹touchShelf _ _ = some _›]; done) | (refine (frame_foldl _ _ _ fun _ _ => ?_).trans ?_))

@[simp] theorem frame_fuFaults (s : State) (ch : Nat) (i : Nat) (sid : Nat) (bad : Nat) (sat : Bool)  : frame (State.fuFaults s ch i sid bad sat) = frame s := by
  unfold State.fuFaults
  simp [frame_ite, frame_foldl, *]

@[simp] theorem frame_runPredict (s : State) (ch : Nat) (i : Nat) (x : Inst) (g : Slot) (t : GStep)  : frame (State.runPredict s ch i x g t) = frame s := by
  unfold State.runPredict
  repeat' (first | rfl | (simp [frame_ite, frame_foldl, *]; done) | split | dsimp only | (simp [frame_ite, takeFrame_frame ‹takeFrame _ _ = some (_, _)›]; done) | (simp [frame_ite, touchShelf_frame ‹touchShelf _ _ = some _›]; done) | (refine (frame_foldl _ _ _ fun _ _ => ?_).trans ?_))

@[simp] theorem frame_runGrid (s : State) (ch : Nat) (i : Nat) (x : Inst) (g : Slot) (t : GStep)  : frame (State.runGrid s ch i x g t) = frame s := by
  unfold State.runGrid
  repeat' (first | rfl | (simp [frame_ite, frame_foldl, *]; done) | split | dsimp only | (simp [frame_ite, takeFrame_frame ‹takeFrame _ _ = some (_, _)›]; done) | (simp [frame_ite, touchShelf_frame ‹touchShelf _ _ = some _›]; done) | (refine (frame_foldl _ _ _ fun _ _ => ?_).trans ?_))

@[simp] theorem frame_runTracks (s : State) (ch : Nat) (i : Nat) (x : Inst) (t : GStep)  : frame (State.runTracks s ch i x t) = frame s := by
  unfold State.runTracks
  repeat' (first | rfl | (simp [frame_ite, frame_foldl, *]; done) | split | dsimp only | (simp [frame_ite, takeFrame_frame ‹takeFrame _ _ = some (_, _)›]; done) | (simp [frame_ite, touchShelf_frame ‹touchShelf _ _ = some _›]; done) | (refine (frame_foldl _ _ _ fun _ _ => ?_).trans ?_))

@[simp] theorem frame_taFlags (s : State) (ch : Nat) (nans : Nat) (sat : Bool) (sid : Nat)  : frame (State.taFlags s ch nans sat sid) = frame s := by
  unfold State.taFlags
  simp [frame_ite, frame_foldl, *]

@[simp] theorem frame_runTensor (s : State) (ch : Nat) (i : Nat) (x : Inst) (g : Slot) (t : GStep) (lateTile : Bool)  : frame (State.runTensor s ch i x g t lateTile) = frame s := by
  unfold State.runTensor
  repeat' (first | rfl | (simp [frame_ite, frame_foldl, *]; done) | split | dsimp only | (simp [frame_ite, takeFrame_frame ‹takeFrame _ _ = some (_, _)›]; done) | (simp [frame_ite, touchShelf_frame ‹touchShelf _ _ = some _›]; done) | (refine (frame_foldl _ _ _ fun _ _ => ?_).trans ?_))

@[simp] theorem frame_queueEstimate (s : State) (ch : Nat) (m : Sounding) (e : List Byte)  : frame (State.queueEstimate s ch m e) = frame s := by
  unfold State.queueEstimate
  repeat' (first | rfl | (simp [frame_ite, frame_foldl, *]; done) | split | dsimp only | (simp [frame_ite, takeFrame_frame ‹takeFrame _ _ = some (_, _)›]; done) | (simp [frame_ite, touchShelf_frame ‹touchShelf _ _ = some _›]; done) | (refine (frame_foldl _ _ _ fun _ _ => ?_).trans ?_))

@[simp] theorem frame_setRef (s : State) (i : Nat) (r : Option Ref)  : frame (State.setRef s i r) = frame s := by
  unfold State.setRef
  rfl

@[simp] theorem frame_runRadio (s : State) (ch : Nat) (i : Nat) (x : Inst) (g : Slot) (t : GStep)  : frame (State.runRadio s ch i x g t) = frame s := by
  unfold State.runRadio
  simp [frame_ite, frame_foldl, *]

@[simp] theorem frame_voteAgainst (s : State) (sid : Nat) (a : Nat)  : frame (State.voteAgainst s sid a) = frame s := by
  unfold State.voteAgainst
  simp [frame_ite, frame_foldl, *]

@[simp] theorem frame_completeSym (s : State) (k : Nat) (bufferError : Bool)  : frame (State.completeSym s k bufferError) = frame s := by
  unfold State.completeSym
  repeat' (first | rfl | (simp [frame_ite, frame_foldl, *]; done) | split | dsimp only | (simp [frame_ite, takeFrame_frame ‹takeFrame _ _ = some (_, _)›]; done) | (simp [frame_ite, touchShelf_frame ‹touchShelf _ _ = some _›]; done) | (refine (frame_foldl _ _ _ fun _ _ => ?_).trans ?_))

@[simp] theorem frame_startSym (s : State) (port : Nat) (bi : Nat) (b : Binding) (m : UMsg) (start : Rat) (sfn : Nat)  : frame (State.startSym s port bi b m start sfn) = frame s := by
  unfold State.startSym
  rfl

@[simp] theorem frame_storeSection (s : State) (k : Nat) (b : Binding) (eaxc : Nat) (x : Section) (bufferError : Bool)  : frame (State.storeSection s k b eaxc x bufferError) = frame s := by
  unfold State.storeSection
  cases NMap.get? s.core.scu.syms k
  · rfl
  · simp only []
    split
    · exact frame_dropSym _ _ _
    · split
      · exact (frame_completeSym _ _ _).trans rfl
      · rfl

@[simp] theorem frame_takeSection (s : State) (port : Nat) (bi : Nat) (b : Binding) (m : UMsg) (start : Rat) (sfn : Nat) (x : Section) (bufferError : Bool)  : frame (State.takeSection s port bi b m start sfn x bufferError) = frame s := by
  unfold State.takeSection
  dsimp only
  (repeat' split) <;> simp

@[simp] theorem frame_pruneIntake (s : State)  : frame (State.pruneIntake s) = frame s := by
  unfold State.pruneIntake
  rfl

@[simp] theorem frame_intakeSection (port : Nat) (m : UMsg) (start : Rat) (sfn : Nat) (bufferError stale : Bool) (s : State) (x : Section)  : frame (State.intakeSection port m start sfn bufferError stale s x) = frame s := by
  unfold State.intakeSection
  simp [frame_ite, frame_foldl, *]

@[simp] theorem frame_intakeMsg (s : State) (port : Nat) (m : UMsg) (bufferError : Bool)  : frame (State.intakeMsg s port m bufferError) = frame s := by
  unfold State.intakeMsg
  dsimp only
  split
  · split <;> simp
  · rw [frame_foldl _ _ _ fun _ _ => frame_intakeSection ..]; simp

@[simp] theorem frame_finishSym (s : State) (k : Nat) (y : Sym) (b : Binding)  : frame (State.finishSym s k y b) = frame s := by
  unfold State.finishSym
  repeat' (first | rfl | (simp [frame_ite, frame_foldl, *]; done) | split | dsimp only | (simp [frame_ite, takeFrame_frame ‹takeFrame _ _ = some (_, _)›]; done) | (simp [frame_ite, touchShelf_frame ‹touchShelf _ _ = some _›]; done) | (refine (frame_foldl _ _ _ fun _ _ => ?_).trans ?_))

@[simp] theorem frame_rebuildNext (s : State) (k : Nat) (y : Sym) (b : Binding) (e : SymEl)  : frame (State.rebuildNext s k y b e) = frame s := by
  unfold State.rebuildNext
  repeat' (first | rfl | (simp [frame_ite, frame_foldl, *]; done) | split | dsimp only | (simp [frame_ite, takeFrame_frame ‹takeFrame _ _ = some (_, _)›]; done) | (simp [frame_ite, touchShelf_frame ‹touchShelf _ _ = some _›]; done) | (refine (frame_foldl _ _ _ fun _ _ => ?_).trans ?_))

@[simp] theorem frame_loseUploads (s : State)  : frame (State.loseUploads s) = frame s := by
  unfold State.loseUploads
  simp [frame_ite, frame_foldl, *]

@[simp] theorem frame_askLocks (s : State)  : frame (State.askLocks s) = frame s := by
  unfold State.askLocks
  simp [frame_ite, frame_foldl, *]

@[simp] theorem frame_dropGone (s : State)  : frame (State.dropGone s) = frame s := by
  unfold State.dropGone
  rfl

@[simp] theorem frame_askBatches (s : State)  : frame (State.askBatches s) = frame s := by
  unfold State.askBatches
  simp [frame_ite, frame_foldl, *]

@[simp] theorem frame_loseTimeLink (s : State) (old : LinkView) : frame (State.loseTimeLink s old) = frame s := by
  unfold State.loseTimeLink
  repeat' (first | rfl | (simp [frame_ite, frame_foldl, *]; done) | split | dsimp only | (simp [frame_ite, takeFrame_frame ‹takeFrame _ _ = some (_, _)›]; done) | (simp [frame_ite, touchShelf_frame ‹touchShelf _ _ = some _›]; done) | (refine (frame_foldl _ _ _ fun _ _ => ?_).trans ?_))

@[simp] theorem frame_settle (s : State) (old : LinkView)  : frame (State.settle s old) = frame s := by
  unfold State.settle
  simp [frame_ite, frame_foldl, *]

@[simp] theorem frame_tellDevices (s : State) (anew : Bool)  : frame (State.tellDevices s anew) = frame s := by
  unfold State.tellDevices
  simp [frame_ite, frame_foldl, *]

@[simp] theorem frame_linkLost (s : State) (p : Nat) (st : MpState)  : frame (State.linkLost s p st) = frame s := by
  unfold State.linkLost
  simp [frame_ite, frame_foldl, *]

@[simp] theorem frame_takeMapBack (s : State)  : frame (State.takeMapBack s) = frame s := by
  unfold State.takeMapBack
  repeat' (first | rfl | (simp [frame_ite, frame_foldl, *]; done) | split | dsimp only | (simp [frame_ite, takeFrame_frame ‹takeFrame _ _ = some (_, _)›]; done) | (simp [frame_ite, touchShelf_frame ‹touchShelf _ _ = some _›]; done) | (refine (frame_foldl _ _ _ fun _ _ => ?_).trans ?_))

@[simp] theorem frame_systemInfoBody (r : Req) (s : State)  : frame (systemInfoBody r s) = frame s := by
  unfold systemInfoBody
  simp [frame_ite, frame_foldl, *]

@[simp] theorem frame_deltaIntervalSetBody (r : Req) (s : State)  : frame (deltaIntervalSetBody r s) = frame s := by
  unfold deltaIntervalSetBody
  simp [frame_ite, frame_foldl, *]

@[simp] theorem frame_linkRetrainBody (r : Req) (s : State)  : frame (linkRetrainBody r s) = frame s := by
  unfold linkRetrainBody
  simp [frame_ite, frame_foldl, *]

@[simp] theorem frame_trainedUp (s : State) (p : Nat)  : frame (State.trainedUp s p) = frame s := by
  unfold State.trainedUp
  simp [frame_ite, frame_foldl, *]

@[simp] theorem frame_endJoiner (s : State) (p : Nat)  : frame (State.endJoiner s p) = frame s := by
  unfold State.endJoiner
  repeat' (first | rfl | (simp [frame_ite, frame_foldl, *]; done) | split | dsimp only | (simp [frame_ite, takeFrame_frame ‹takeFrame _ _ = some (_, _)›]; done) | (simp [frame_ite, touchShelf_frame ‹touchShelf _ _ = some _›]; done) | (refine (frame_foldl _ _ _ fun _ _ => ?_).trans ?_))

@[simp] theorem frame_rewriteAsked (s : State) (b : List Byte)  : frame (State.rewriteAsked s b) = frame s := by
  unfold State.rewriteAsked
  simp [frame_ite, frame_foldl, *]

@[simp] theorem frame_endCatchUp (s : State) (p : Nat) (b : List Byte)  : frame (State.endCatchUp s p b) = frame s := by
  unfold State.endCatchUp
  simp [frame_ite, frame_foldl, *]

@[simp] theorem frame_batchDown (s : State) (ports : List Nat) (b : List Byte)  : frame (State.batchDown s ports b) = frame s := by
  unfold State.batchDown
  repeat' (first | rfl | (simp [frame_ite, frame_foldl, *]; done) | split | dsimp only | (simp [frame_ite, takeFrame_frame ‹takeFrame _ _ = some (_, _)›]; done) | (simp [frame_ite, touchShelf_frame ‹touchShelf _ _ = some _›]; done) | (refine (frame_foldl _ _ _ fun _ _ => ?_).trans ?_))

@[simp] theorem frame_parcelUp (s : State) (b : List Byte)  : frame (State.parcelUp s b) = frame s := by
  unfold State.parcelUp
  simp [frame_ite, frame_foldl, *]

theorem applyBatch_frame {s u : State} {b : List Byte} (h : applyBatch s b = some u) : frame u = frame s := by
  unfold applyBatch at h
  dsimp only at h
  split at h
  · cases h; split <;> simp
  · split at h
    · cases h
    · cases h; simp
theorem commitUp_frame {s u : State} {b : List Byte} (h : commitUp s b = some u) : frame u = frame s := by
  unfold commitUp at h
  dsimp only at h
  split at h
  · cases h; rfl
  · split at h
    · cases h
    · cases h; simp
theorem takeObject_frame {s u : State} {e : Nat × Nat × List Byte} (h : takeObject s e = some u) : frame u = frame s := by
  unfold takeObject at h
  split at h
  · exact applyBatch_frame h
  · split at h
    · exact commitUp_frame h
    · cases h; simp
@[simp] theorem frame_takeWaiting (n : Nat) (s : State) : frame (State.takeWaiting n s) = frame s := by
  induction n generalizing s with
  | zero => rfl
  | succ n ih =>
    unfold State.takeWaiting
    split
    · rfl
    · split
      · rfl
      · rename_i h
        rw [ih]; simp [takeObject_frame h]

@[simp] theorem frame_offerObject (s : State) (e : Nat × Nat × List Byte)  : frame (State.offerObject s e) = frame s := by
  unfold State.offerObject
  simp [frame_ite, frame_foldl, *]

@[simp] theorem frame_joinAsked (s : State) (p : Nat) (dev : Nat) (v : Nat) (b : List Byte)  : frame (State.joinAsked s p dev v b) = frame s := by
  unfold State.joinAsked
  repeat' (first | rfl | (simp [frame_ite, frame_foldl, *]; done) | split | dsimp only | (simp [frame_ite, takeFrame_frame ‹takeFrame _ _ = some (_, _)›]; done) | (simp [frame_ite, touchShelf_frame ‹touchShelf _ _ = some _›]; done) | (refine (frame_foldl _ _ _ fun _ _ => ?_).trans ?_))

@[simp] theorem frame_control (s : State) (p : Nat) (b : List Byte)  : frame (State.control s p b) = frame s := by
  unfold State.control
  repeat' (first | rfl | (simp [frame_ite, frame_foldl, *]; done) | split | dsimp only | (simp [frame_ite, takeFrame_frame ‹takeFrame _ _ = some (_, _)›]; done) | (simp [frame_ite, touchShelf_frame ‹touchShelf _ _ = some _›]; done) | (refine (frame_foldl _ _ _ fun _ _ => ?_).trans ?_))

@[simp] theorem frame_wholeObject (s : State) (p : Nat) (type : Nat) (b : List Byte)  : frame (State.wholeObject s p type b) = frame s := by
  unfold State.wholeObject
  simp [frame_ite, frame_foldl, *]

@[simp] theorem frame_rejectFrame (s : State) (p : Nat)  : frame (State.rejectFrame s p) = frame s := by
  unfold State.rejectFrame
  simp [frame_ite, frame_foldl, *]

@[simp] theorem frame_linkMeasure (s : State) (p : Nat) (payload : List Byte) (t2 : Option Int) (t3 : Option Int)  : frame (State.linkMeasure s p payload t2 t3) = frame s := by
  unfold State.linkMeasure
  repeat' (first | rfl | (simp [frame_ite, frame_foldl, *]; done) | split | dsimp only | (simp [frame_ite, takeFrame_frame ‹takeFrame _ _ = some (_, _)›]; done) | (simp [frame_ite, touchShelf_frame ‹touchShelf _ _ = some _›]; done) | (refine (frame_foldl _ _ _ fun _ _ => ?_).trans ?_))

@[simp] theorem frame_timeFrame (s : State) (p : Nat) (stamp : Nat) (payload : List Byte)  : frame (State.timeFrame s p stamp payload) = frame s := by
  unfold State.timeFrame
  simp [frame_ite, frame_foldl, *]

@[simp] theorem frame_dataFrame (s : State) (p : Nat) (f : List Byte)  : frame (State.dataFrame s p f) = frame s := by
  unfold State.dataFrame
  simp [frame_ite, frame_foldl, *]

@[simp] theorem frame_noteSender (s : State) (p : Nat) (f : List Byte)  : frame (State.noteSender s p f) = frame s := by
  unfold State.noteSender
  simp [frame_ite, frame_foldl, *]

@[simp] theorem frame_countLoop (s : State) (ch : Nat) (sid : Nat) (r : LoopRun)  : frame (State.countLoop s ch sid r) = frame s := by
  unfold State.countLoop
  simp [frame_ite, frame_foldl, *]

@[simp] theorem frame_onWork (s : State) (ch : Nat) (i : Nat) (sid : Nat) (f : SessCtx → SessCtx)  : frame (State.onWork s ch i sid f) = frame s := by
  unfold State.onWork
  repeat' (first | rfl | (simp [frame_ite, frame_foldl, *]; done) | split | dsimp only | (simp [frame_ite, takeFrame_frame ‹takeFrame _ _ = some (_, _)›]; done) | (simp [frame_ite, touchShelf_frame ‹touchShelf _ _ = some _›]; done) | (refine (frame_foldl _ _ _ fun _ _ => ?_).trans ?_))

@[simp] theorem frame_takeWindow (s : State) (ch : Nat) (i : Nat) (sid : Nat) (w : Window)  : frame (State.takeWindow s ch i sid w) = frame s := by
  unfold State.takeWindow
  simp [frame_ite, frame_foldl, *]

@[simp] theorem frame_putSe (s : State) (sid : Nat) (se : SeStruct)  : frame (State.putSe s sid se) = frame s := by
  unfold State.putSe
  rfl

@[simp] theorem frame_refuse (s : State) (ch : Nat) (i : Nat) (sid : Nat) (t : GStep) (y : Session) (w : Window) (cycles : Nat) (factors : Nat)  : frame (State.refuse s ch i sid t y w cycles factors) = frame s := by
  unfold State.refuse
  simp [frame_ite, frame_foldl, *]

@[simp] theorem frame_solve (s : State) (ch : Nat) (i : Nat) (sid : Nat) (x : Inst) (t : GStep) (y : Session) (e : JobIn) (w : Window) (bad : Nat) (j : SolveJob) (cycles : Nat) (loadAt : Nat) (deadline : Int) (timing : List IterTiming)  : frame (State.solve s ch i sid x t y e w bad j cycles loadAt deadline timing) = frame s := by
  unfold State.solve
  simp [frame_ite, frame_foldl, *]

@[simp] theorem frame_runSession (s : State) (ch : Nat) (i : Nat) (x : Inst) (g : Slot) (t : GStep) (loadAt : Nat) (timing : List IterTiming) (sid : Nat) (y : Session)  : frame (State.runSession s ch i x g t loadAt timing sid y) = frame s := by
  unfold State.runSession
  simp [frame_ite, frame_foldl, *]

@[simp] theorem frame_runMapJob (s : State) (ch i j : Nat) (x : Inst) (t : GStep) (loadAt : Nat) (timing : List IterTiming) :
    frame (s.runMapJob ch i j x t loadAt timing) = frame s := by
  have first (c : Prop) [Decidable c] (a : Nat) : frame (if c then s.bump a 1 else s) = frame s := by split <;> simp
  unfold State.runMapJob
  split
  · rfl
  · dsimp only
    refine (frame_ite _ _ _).trans ?_
    split
    · rw [frame_modInst, frame_modJob, frame_bump, first]
    · rw [frame_modInst, frame_modJob, frame_countLoop, first]

@[simp] theorem frame_runSolver (s : State) (ch i : Nat) (x : Inst) (g : Slot) (t : GStep) (loadAt : Nat) (timing : List IterTiming) :
    frame (s.runSolver ch i x g t loadAt timing) = frame s := by
  unfold State.runSolver
  split
  · exact frame_runMapJob _ _ _ _ _ _ _ _
  · exact frame_runSession _ _ _ _ _ _ _ _ _ _
  · exact frame_modInst _ _ _ _

@[simp] theorem frame_withFetchWord (s : State) (nbits : Nat) (w : Nat)  : frame (State.withFetchWord s nbits w) = frame s := by
  unfold State.withFetchWord
  rfl

/-! ### The meanings that leave the frame -/

theorem frame_execMapLoad (hatch : Nat) (data : List Byte) (s : State) {t : State} (h : execMapLoad hatch data s = .next t) : frame t = frame s := by
  unfold execMapLoad at h
  cases h
  simp [frame_ite, frame_foldl]

theorem frame_execMapLoadDone (hatch : Nat) (data : List Byte) (s : State) {t : State} (h : execMapLoadDone hatch data s = .next t) : frame t = frame s := by
  unfold execMapLoadDone at h
  cases h
  simp [frame_ite, frame_foldl]

theorem frame_execMapSave (hatch : Nat) (s : State) {t : State} (h : execMapSave hatch s = .next t) : frame t = frame s := by
  unfold execMapSave at h
  cases h
  simp [frame_ite, frame_foldl]

theorem frame_execMapSaveDone (hatch : Nat) (s : State) {t : State} (h : execMapSaveDone hatch s = .next t) : frame t = frame s := by
  unfold execMapSaveDone at h
  cases h
  repeat' (first | rfl | (simp [frame_ite, frame_foldl]; done) | split | dsimp only | (simp [frame_ite, takeFrame_frame ‹takeFrame _ _ = some (_, _)›]; done) | (simp [frame_ite, touchShelf_frame ‹touchShelf _ _ = some _›]; done) | (refine (frame_foldl _ _ _ fun _ _ => ?_).trans ?_))

theorem frame_execMapInfo (hatch : Nat) (s : State) {t : State} (h : execMapInfo hatch s = .next t) : frame t = frame s := by
  unfold execMapInfo at h
  cases h
  simp [frame_ite, frame_foldl]

theorem frame_execMapOriginSet (hatch : Nat) (s : State) {t : State} (h : execMapOriginSet hatch s = .next t) : frame t = frame s := by
  unfold execMapOriginSet at h
  cases h
  simp [frame_ite, frame_foldl]

theorem frame_execMapOptimise (hatch : Nat) (s : State) {t : State} (h : execMapOptimise hatch s = .next t) : frame t = frame s := by
  unfold execMapOptimise at h
  cases h
  simp [frame_ite, frame_foldl]

theorem frame_execMapOptimiseDone (hatch : Nat) (s : State) {t : State} (h : execMapOptimiseDone hatch s = .next t) : frame t = frame s := by
  unfold execMapOptimiseDone at h
  cases h
  repeat' (first | rfl | (simp [frame_ite, frame_foldl]; done) | split | dsimp only | (simp [frame_ite, takeFrame_frame ‹takeFrame _ _ = some (_, _)›]; done) | (simp [frame_ite, touchShelf_frame ‹touchShelf _ _ = some _›]; done) | (refine (frame_foldl _ _ _ fun _ _ => ?_).trans ?_))

theorem frame_execCrateLoad (hatch : Nat) (s : State) {t : State} (h : execCrateLoad hatch s = .next t) : frame t = frame s := by
  unfold execCrateLoad at h
  cases h
  simp [frame_ite, frame_foldl]

theorem frame_execCrateLoadDone (hatch : Nat) (data : List Byte) (s : State) {t : State} (h : execCrateLoadDone hatch data s = .next t) : frame t = frame s := by
  unfold execCrateLoadDone at h
  cases h
  simp [frame_ite, frame_foldl]

theorem frame_execCrateUnload (hatch : Nat) (s : State) {t : State} (h : execCrateUnload hatch s = .next t) : frame t = frame s := by
  unfold execCrateUnload at h
  cases h
  simp [frame_ite, frame_foldl]

theorem frame_execCrateInfo (hatch : Nat) (s : State) {t : State} (h : execCrateInfo hatch s = .next t) : frame t = frame s := by
  unfold execCrateInfo at h
  cases h
  simp [frame_ite, frame_foldl]

theorem frame_execBar2Read (addr : Nat) (len : Nat) (finding : ReadFinding) (s : State) {t : State} (h : execBar2Read addr len finding s = .next t) : frame t = frame s := by
  unfold execBar2Read at h
  cases h
  simp [frame_ite, frame_foldl]

theorem frame_execBar2Write (x0 : Nat) (s : State) {t : State} (h : execBar2Write x0 s = .next t) : frame t = frame s := by
  unfold execBar2Write at h
  cases h
  simp [frame_ite, frame_foldl]

theorem frame_execHeatDecay (s : State) {t : State} (h : execHeatDecay s = .next t) : frame t = frame s := by
  unfold execHeatDecay at h
  cases h
  simp [frame_ite, frame_foldl]

theorem frame_execMigrationEpoch (finding : EpochFinding) (s : State) {t : State} (h : execMigrationEpoch finding s = .next t) : frame t = frame s := by
  unfold execMigrationEpoch at h
  cases h
  simp [frame_ite, frame_foldl]

theorem frame_execPatrolScrubRead (x0 : Nat) (finding : ScrubFinding) (s : State) {t : State} (h : execPatrolScrubRead x0 finding s = .next t) : frame t = frame s := by
  unfold execPatrolScrubRead at h
  cases h
  repeat' (first | rfl | (simp [frame_ite, frame_foldl]; done) | split | dsimp only | (simp [frame_ite, takeFrame_frame ‹takeFrame _ _ = some (_, _)›]; done) | (simp [frame_ite, touchShelf_frame ‹touchShelf _ _ = some _›]; done) | (refine (frame_foldl _ _ _ fun _ _ => ?_).trans ?_))

theorem frame_execLateAccess (requester : Nat) (store : Bool) (cause : LateCause) (s : State) {t : State} (h : execLateAccess requester store cause s = .next t) : frame t = frame s := by
  unfold execLateAccess at h
  cases h
  simp [frame_ite, frame_foldl]

theorem frame_execControllerRetrain (store : Bool) (controller : Nat) (s : State) {t : State} (h : execControllerRetrain store controller s = .next t) : frame t = frame s := by
  unfold execControllerRetrain at h
  cases h
  simp [frame_ite, frame_foldl]

theorem frame_execRetrainEnd (store : Bool) (controller : Nat) (ok : Bool) (s : State) {t : State} (h : execRetrainEnd store controller ok s = .next t) : frame t = frame s := by
  unfold execRetrainEnd at h
  cases h
  simp [frame_ite, frame_foldl]

theorem frame_execArbiterDecision (arbiter : Nat) (gone : Nat) (requests : List (Nat × ArbRequest)) (s : State) {t : State} (h : execArbiterDecision arbiter gone requests s = .next t) : frame t = frame s := by
  unfold execArbiterDecision at h
  cases h
  repeat' (first | rfl | (simp [frame_ite, frame_foldl]; done) | split | dsimp only | (simp [frame_ite, takeFrame_frame ‹takeFrame _ _ = some (_, _)›]; done) | (simp [frame_ite, touchShelf_frame ‹touchShelf _ _ = some _›]; done) | (refine (frame_foldl _ _ _ fun _ _ => ?_).trans ?_))

theorem frame_execStarvation (arbiter : Nat) (requester : Nat) (s : State) {t : State} (h : execStarvation arbiter requester s = .next t) : frame t = frame s := by
  unfold execStarvation at h
  cases h
  simp [frame_ite, frame_foldl]

theorem frame_execSessionOpen (hatch : Nat) (s : State) {t : State} (h : execSessionOpen hatch s = .next t) : frame t = frame s := by
  unfold execSessionOpen at h
  cases h
  simp [frame_ite, frame_foldl]

theorem frame_execSessionClose (hatch : Nat) (s : State) {t : State} (h : execSessionClose hatch s = .next t) : frame t = frame s := by
  unfold execSessionClose at h
  cases h
  simp [frame_ite, frame_foldl]

theorem frame_execSessionCloseDone (hatch : Nat) (s : State) {t : State} (h : execSessionCloseDone hatch s = .next t) : frame t = frame s := by
  unfold execSessionCloseDone at h
  cases h
  repeat' (first | rfl | (simp [frame_ite, frame_foldl]; done) | split | dsimp only | (simp [frame_ite, takeFrame_frame ‹takeFrame _ _ = some (_, _)›]; done) | (simp [frame_ite, touchShelf_frame ‹touchShelf _ _ = some _›]; done) | (refine (frame_foldl _ _ _ fun _ _ => ?_).trans ?_))

theorem frame_execSessionConfig (hatch : Nat) (s : State) {t : State} (h : execSessionConfig hatch s = .next t) : frame t = frame s := by
  unfold execSessionConfig at h
  cases h
  simp [frame_ite, frame_foldl]

theorem frame_execSessionSensor (hatch : Nat) (data : List Byte) (s : State) {t : State} (h : execSessionSensor hatch data s = .next t) : frame t = frame s := by
  unfold execSessionSensor at h
  cases h
  simp [frame_ite, frame_foldl]

theorem frame_execSessionQuery (hatch : Nat) (s : State) {t : State} (h : execSessionQuery hatch s = .next t) : frame t = frame s := by
  unfold execSessionQuery at h
  cases h
  simp [frame_ite, frame_foldl]

theorem frame_execSessionCheckpoint (hatch : Nat) (s : State) {t : State} (h : execSessionCheckpoint hatch s = .next t) : frame t = frame s := by
  unfold execSessionCheckpoint at h
  cases h
  simp [frame_ite, frame_foldl]

theorem frame_execSessionMove (hatch : Nat) (s : State) {t : State} (h : execSessionMove hatch s = .next t) : frame t = frame s := by
  unfold execSessionMove at h
  cases h
  simp [frame_ite, frame_foldl]

theorem frame_execSessionMoveDone (hatch : Nat) (s : State) {t : State} (h : execSessionMoveDone hatch s = .next t) : frame t = frame s := by
  unfold execSessionMoveDone at h
  cases h
  repeat' (first | rfl | (simp [frame_ite, frame_foldl]; done) | split | dsimp only | (simp [frame_ite, takeFrame_frame ‹takeFrame _ _ = some (_, _)›]; done) | (simp [frame_ite, touchShelf_frame ‹touchShelf _ _ = some _›]; done) | (refine (frame_foldl _ _ _ fun _ _ => ?_).trans ?_))

theorem frame_execStreamBind (hatch : Nat) (s : State) {t : State} (h : execStreamBind hatch s = .next t) : frame t = frame s := by
  unfold execStreamBind at h
  cases h
  simp [frame_ite, frame_foldl]

theorem frame_execStreamUnbind (hatch : Nat) (s : State) {t : State} (h : execStreamUnbind hatch s = .next t) : frame t = frame s := by
  unfold execStreamUnbind at h
  cases h
  simp [frame_ite, frame_foldl]

theorem frame_execCheckpointTimer (sid : Nat) (s : State) {t : State} (h : execCheckpointTimer sid s = .next t) : frame t = frame s := by
  unfold execCheckpointTimer at h
  cases h
  repeat' (first | rfl | (simp [frame_ite, frame_foldl]; done) | split | dsimp only | (simp [frame_ite, takeFrame_frame ‹takeFrame _ _ = some (_, _)›]; done) | (simp [frame_ite, touchShelf_frame ‹touchShelf _ _ = some _›]; done) | (refine (frame_foldl _ _ _ fun _ _ => ?_).trans ?_))

theorem frame_execFailureMoveDone (sid : Nat) (s : State) {t : State} (h : execFailureMoveDone sid s = .next t) : frame t = frame s := by
  unfold execFailureMoveDone at h
  cases h
  split
  · split <;> simp
  · rfl

theorem frame_execCapQuery (hatch : Nat) (s : State) {t : State} (h : execCapQuery hatch s = .next t) : frame t = frame s := by
  unfold execCapQuery at h
  cases h
  simp [frame_ite, frame_foldl]

theorem frame_execDevState (hatch : Nat) (s : State) {t : State} (h : execDevState hatch s = .next t) : frame t = frame s := by
  unfold execDevState at h
  cases h
  simp [frame_ite, frame_foldl]

theorem frame_execPowerCap (hatch : Nat) (s : State) {t : State} (h : execPowerCap hatch s = .next t) : frame t = frame s := by
  unfold execPowerCap at h
  cases h
  simp [frame_ite, frame_foldl]

theorem frame_execEventRingSet (hatch : Nat) (s : State) {t : State} (h : execEventRingSet hatch s = .next t) : frame t = frame s := by
  unfold execEventRingSet at h
  cases h
  simp [frame_ite, frame_foldl]

theorem frame_execChannelRole (hatch : Nat) (s : State) {t : State} (h : execChannelRole hatch s = .next t) : frame t = frame s := by
  unfold execChannelRole at h
  cases h
  simp [frame_ite, frame_foldl]

theorem frame_execCoreReset (hatch : Nat) (s : State) {t : State} (h : execCoreReset hatch s = .next t) : frame t = frame s := by
  unfold execCoreReset at h
  cases h
  simp [frame_ite, frame_foldl]

theorem frame_execEcho (hatch : Nat) (s : State) {t : State} (h : execEcho hatch s = .next t) : frame t = frame s := by
  unfold execEcho at h
  cases h
  simp [frame_ite, frame_foldl]

theorem frame_execTelemetry (hatch : Nat) (s : State) {t : State} (h : execTelemetry hatch s = .next t) : frame t = frame s := by
  unfold execTelemetry at h
  cases h
  simp [frame_ite, frame_foldl]

theorem frame_execChannelTest (hatch : Nat) (s : State) {t : State} (h : execChannelTest hatch s = .next t) : frame t = frame s := by
  unfold execChannelTest at h
  cases h
  simp [frame_ite, frame_foldl]

theorem frame_execBatchSubmit (hatch : Nat) (data : List Byte) (s : State) {t : State} (h : execBatchSubmit hatch data s = .next t) : frame t = frame s := by
  unfold execBatchSubmit at h
  cases h
  simp [frame_ite, frame_foldl]

theorem frame_execBatchComplete (hatch : Nat) (s : State) {t : State} (h : execBatchComplete hatch s = .next t) : frame t = frame s := by
  unfold execBatchComplete at h
  cases h
  repeat' (first | rfl | (simp [frame_ite, frame_foldl]; done) | split | dsimp only | (simp [frame_ite, takeFrame_frame ‹takeFrame _ _ = some (_, _)›]; done) | (simp [frame_ite, touchShelf_frame ‹touchShelf _ _ = some _›]; done) | (refine (frame_foldl _ _ _ fun _ _ => ?_).trans ?_))

theorem frame_execResultAreaSet (hatch : Nat) (s : State) {t : State} (h : execResultAreaSet hatch s = .next t) : frame t = frame s := by
  unfold execResultAreaSet at h
  cases h
  simp [frame_ite, frame_foldl]

theorem frame_execResultIrqTimer (area : Nat) (s : State) {t : State} (h : execResultIrqTimer area s = .next t) : frame t = frame s := by
  unfold execResultIrqTimer at h
  cases h
  simp [frame_ite, frame_foldl]

theorem frame_execGraphLoad (hatch : Nat) (s : State) {t : State} (h : execGraphLoad hatch s = .next t) : frame t = frame s := by
  unfold execGraphLoad at h
  cases h
  simp [frame_ite, frame_foldl]

theorem frame_execGraphLoadDone (hatch : Nat) (data : List Byte) (s : State) {t : State} (h : execGraphLoadDone hatch data s = .next t) : frame t = frame s := by
  unfold execGraphLoadDone at h
  cases h
  simp [frame_ite, frame_foldl]

theorem frame_execGraphUnload (hatch : Nat) (s : State) {t : State} (h : execGraphUnload hatch s = .next t) : frame t = frame s := by
  unfold execGraphUnload at h
  cases h
  simp [frame_ite, frame_foldl]

theorem frame_execGraphUnloadDone (hatch : Nat) (s : State) {t : State} (h : execGraphUnloadDone hatch s = .next t) : frame t = frame s := by
  unfold execGraphUnloadDone at h
  cases h
  repeat' (first | rfl | (simp [frame_ite, frame_foldl]; done) | split | dsimp only | (simp [frame_ite, takeFrame_frame ‹takeFrame _ _ = some (_, _)›]; done) | (simp [frame_ite, touchShelf_frame ‹touchShelf _ _ = some _›]; done) | (refine (frame_foldl _ _ _ fun _ _ => ?_).trans ?_))

theorem frame_execEventFire (index : Nat) (s : State) {t : State} (h : execEventFire index s = .next t) : frame t = frame s := by
  unfold execEventFire at h
  cases h
  repeat' (first | rfl | (simp [frame_ite, frame_foldl]; done) | split | dsimp only | (simp [frame_ite, takeFrame_frame ‹takeFrame _ _ = some (_, _)›]; done) | (simp [frame_ite, touchShelf_frame ‹touchShelf _ _ = some _›]; done) | (refine (frame_foldl _ _ _ fun _ _ => ?_).trans ?_))

theorem frame_execTevPulseEnd (pin : Nat) (s : State) {t : State} (h : execTevPulseEnd pin s = .next t) : frame t = frame s := by
  unfold execTevPulseEnd at h
  cases h
  repeat' (first | rfl | (simp [frame_ite, frame_foldl]; done) | split | dsimp only | (simp [frame_ite, takeFrame_frame ‹takeFrame _ _ = some (_, _)›]; done) | (simp [frame_ite, touchShelf_frame ‹touchShelf _ _ = some _›]; done) | (refine (frame_foldl _ _ _ fun _ _ => ?_).trans ?_))

theorem frame_execPpsOutEdge (s : State) {t : State} (h : execPpsOutEdge s = .next t) : frame t = frame s := by
  unfold execPpsOutEdge at h
  cases h
  repeat' (first | rfl | (simp [frame_ite, frame_foldl]; done) | split | dsimp only | (simp [frame_ite, takeFrame_frame ‹takeFrame _ _ = some (_, _)›]; done) | (simp [frame_ite, touchShelf_frame ‹touchShelf _ _ = some _›]; done) | (refine (frame_foldl _ _ _ fun _ _ => ?_).trans ?_))

theorem frame_execCaptureEdge (source : Nat) (rising : Bool) (s : State) {t : State} (h : execCaptureEdge source rising s = .next t) : frame t = frame s := by
  unfold execCaptureEdge at h
  cases h
  simp [frame_ite, frame_foldl]

theorem frame_execOwnSet (hatch : Nat) (value : Nat) (s : State) {t : State} (h : execOwnSet hatch value s = .next t) : frame t = frame s := by
  unfold execOwnSet at h
  cases h
  simp [frame_ite, frame_foldl]

theorem frame_execVectorWrite (hatch : Nat) (value : Nat) (s : State) {t : State} (h : execVectorWrite hatch value s = .next t) : frame t = frame s := by
  unfold execVectorWrite at h
  cases h
  simp [frame_ite, frame_foldl]

theorem frame_execPatienceExpiry (hatch : Nat) (s : State) {t : State} (h : execPatienceExpiry hatch s = .next t) : frame t = frame s := by
  unfold execPatienceExpiry at h
  cases h
  simp [frame_ite, frame_foldl]

theorem frame_execRareaRdWrite (area : Nat) (value : Nat) (s : State) {t : State} (h : execRareaRdWrite area value s = .next t) : frame t = frame s := by
  unfold execRareaRdWrite at h
  cases h
  simp [frame_ite, frame_foldl]

theorem frame_execEvringRdWrite (value : Nat) (s : State) {t : State} (h : execEvringRdWrite value s = .next t) : frame t = frame s := by
  unfold execEvringRdWrite at h
  cases h
  simp [frame_ite, frame_foldl]

theorem frame_execErrClear (index : Nat) (value : Nat) (s : State) {t : State} (h : execErrClear index value s = .next t) : frame t = frame s := by
  unfold execErrClear at h
  cases h
  simp [frame_ite, frame_foldl]

theorem frame_execTimeDtRead (half : Half) (s : State) {t : State} (h : execTimeDtRead half s = .next t) : frame t = frame s := by
  unfold execTimeDtRead at h
  cases h
  repeat' (first | rfl | (simp [frame_ite, frame_foldl]; done) | split | dsimp only | (simp [frame_ite, takeFrame_frame ‹takeFrame _ _ = some (_, _)›]; done) | (simp [frame_ite, touchShelf_frame ‹touchShelf _ _ = some _›]; done) | (refine (frame_foldl _ _ _ fun _ _ => ?_).trans ?_))

theorem frame_execMeasSeqRead (s : State) {t : State} (h : execMeasSeqRead s = .next t) : frame t = frame s := by
  unfold execMeasSeqRead at h
  cases h
  simp [frame_ite, frame_foldl]

theorem frame_execLinkMeasSeqRead (s : State) {t : State} (h : execLinkMeasSeqRead s = .next t) : frame t = frame s := by
  unfold execLinkMeasSeqRead at h
  cases h
  simp [frame_ite, frame_foldl]

theorem frame_execHalfReadLatch (r : BarRead) (s : State) {t : State} (h : execHalfReadLatch r s = .next t) : frame t = frame s := by
  cases h
  simp

theorem frame_execCapturePop (source : Nat) (value : Nat) (s : State) {t : State} (h : execCapturePop source value s = .next t) : frame t = frame s := by
  unfold execCapturePop at h
  cases h
  simp [frame_ite, frame_foldl]

theorem frame_execPpsCtlWrite (value : Nat) (s : State) {t : State} (h : execPpsCtlWrite value s = .next t) : frame t = frame s := by
  unfold execPpsCtlWrite at h
  cases h
  simp [frame_ite, frame_foldl]

theorem frame_execPtpMessageSend (port : Nat) (kind : PtpSend) (s : State) {t : State} (h : execPtpMessageSend port kind s = .next t) : frame t = frame s := by
  unfold execPtpMessageSend at h
  cases h
  repeat' (first | rfl | (simp [frame_ite, frame_foldl]; done) | split | dsimp only | (simp [frame_ite, takeFrame_frame ‹takeFrame _ _ = some (_, _)›]; done) | (simp [frame_ite, touchShelf_frame ‹touchShelf _ _ = some _›]; done) | (refine (frame_foldl _ _ _ fun _ _ => ?_).trans ?_))

theorem frame_execPtpFrameRx (port : Nat) (x1 : List Byte) (stamp : Nat) (s : State) {t : State} (h : execPtpFrameRx port x1 stamp s = .next t) : frame t = frame s := by
  unfold execPtpFrameRx at h
  cases h
  repeat' (first | rfl | (simp [frame_ite, frame_foldl]; done) | split | dsimp only | (simp [frame_ite, takeFrame_frame ‹takeFrame _ _ = some (_, _)›]; done) | (simp [frame_ite, touchShelf_frame ‹touchShelf _ _ = some _›]; done) | (refine (frame_foldl _ _ _ fun _ _ => ?_).trans ?_))

theorem frame_execPtpAnnounceTimeout (port : Nat) (s : State) {t : State} (h : execPtpAnnounceTimeout port s = .next t) : frame t = frame s := by
  unfold execPtpAnnounceTimeout at h
  cases h
  simp [frame_ite, frame_foldl]

theorem frame_execHoldoverTimeout (s : State) {t : State} (h : execHoldoverTimeout s = .next t) : frame t = frame s := by
  unfold execHoldoverTimeout at h
  cases h
  simp [frame_ite, frame_foldl]

theorem frame_execClockClassTimer (s : State) {t : State} (h : execClockClassTimer s = .next t) : frame t = frame s := by
  unfold execClockClassTimer at h
  cases h
  repeat' (first | rfl | (simp [frame_ite, frame_foldl]; done) | split | dsimp only | (simp [frame_ite, takeFrame_frame ‹takeFrame _ _ = some (_, _)›]; done) | (simp [frame_ite, touchShelf_frame ‹touchShelf _ _ = some _›]; done) | (refine (frame_foldl _ _ _ fun _ _ => ?_).trans ?_))

theorem frame_execTimeStatus (hatch : Nat) (s : State) {t : State} (h : execTimeStatus hatch s = .next t) : frame t = frame s := by
  unfold execTimeStatus at h
  cases h
  simp [frame_ite, frame_foldl]

theorem frame_execAirEpochSet (hatch : Nat) (s : State) {t : State} (h : execAirEpochSet hatch s = .next t) : frame t = frame s := by
  unfold execAirEpochSet at h
  cases h
  simp [frame_ite, frame_foldl]

theorem frame_execPtpPortSet (hatch : Nat) (s : State) {t : State} (h : execPtpPortSet hatch s = .next t) : frame t = frame s := by
  unfold execPtpPortSet at h
  cases h
  simp [frame_ite, frame_foldl]

theorem frame_execEventAdd (hatch : Nat) (s : State) {t : State} (h : execEventAdd hatch s = .next t) : frame t = frame s := by
  unfold execEventAdd at h
  cases h
  simp [frame_ite, frame_foldl]

theorem frame_execEventRemove (hatch : Nat) (s : State) {t : State} (h : execEventRemove hatch s = .next t) : frame t = frame s := by
  unfold execEventRemove at h
  cases h
  simp [frame_ite, frame_foldl]

theorem frame_execTevSet (hatch : Nat) (s : State) {t : State} (h : execTevSet hatch s = .next t) : frame t = frame s := by
  unfold execTevSet at h
  cases h
  simp [frame_ite, frame_foldl]

theorem frame_execLaunchQueue (hatch : Nat) (data : List Byte) (s : State) {t : State} (h : execLaunchQueue hatch data s = .next t) : frame t = frame s := by
  unfold execLaunchQueue at h
  cases h
  simp [frame_ite, frame_foldl]

theorem frame_execStartStepEnd (finding : StepFinding) (s : State) {t : State} (h : execStartStepEnd finding s = .next t) : frame t = frame s := by
  unfold execStartStepEnd at h
  cases h
  simp [frame_ite, frame_foldl]

theorem frame_execStartStepTimeout (finding : StepFinding) (s : State) {t : State} (h : execStartStepTimeout finding s = .next t) : frame t = frame s := by
  unfold execStartStepTimeout at h
  cases h
  simp [frame_ite, frame_foldl]

theorem frame_execBootLoad (hatch : Nat) (data : List Byte) (s : State) {t : State} (h : execBootLoad hatch data s = .next t) : frame t = frame s := by
  unfold execBootLoad at h
  cases h
  simp [frame_ite, frame_foldl]

theorem frame_execEpLinkDown (port : Nat) (s : State) {t : State} (h : execEpLinkDown port s = .next t) : frame t = frame s := by
  unfold execEpLinkDown at h
  cases h
  rfl

theorem frame_execEpLinkUp (port : Nat) (s : State) {t : State} (h : execEpLinkUp port s = .next t) : frame t = frame s := by
  unfold execEpLinkUp at h
  cases h
  simp [frame_ite, frame_foldl]

theorem frame_execPowerLimiterWindow (deciWatts : Nat) (s : State) {t : State} (h : execPowerLimiterWindow deciWatts s = .next t) : frame t = frame s := by
  unfold execPowerLimiterWindow at h
  cases h
  simp [frame_ite, frame_foldl]

theorem frame_execCounterSnapshot (hatch : Nat) (s : State) {t : State} (h : execCounterSnapshot hatch s = .next t) : frame t = frame s := by
  unfold execCounterSnapshot at h
  cases h
  simp [frame_ite, frame_foldl]

theorem frame_execCounterLatch (s : State) {t : State} (h : execCounterLatch s = .next t) : frame t = frame s := by
  unfold execCounterLatch at h
  cases h
  simp [frame_ite, frame_foldl]

theorem frame_execTraceSet (hatch : Nat) (s : State) {t : State} (h : execTraceSet hatch s = .next t) : frame t = frame s := by
  unfold execTraceSet at h
  cases h
  simp [frame_ite, frame_foldl]

theorem frame_execTraceSync (s : State) {t : State} (h : execTraceSync s = .next t) : frame t = frame s := by
  unfold execTraceSync at h
  cases h
  simp [frame_ite, frame_foldl]

theorem frame_execErrDetailRead (hatch : Nat) (s : State) {t : State} (h : execErrDetailRead hatch s = .next t) : frame t = frame s := by
  unfold execErrDetailRead at h
  cases h
  simp [frame_ite, frame_foldl]

theorem frame_execUnsupportedRequest (s : State) {t : State} (h : execUnsupportedRequest s = .next t) : frame t = frame s := by
  unfold execUnsupportedRequest at h
  cases h
  simp [frame_ite, frame_foldl]

theorem frame_execUnexpectedCompletion (s : State) {t : State} (h : execUnexpectedCompletion s = .next t) : frame t = frame s := by
  unfold execUnexpectedCompletion at h
  cases h
  simp [frame_ite, frame_foldl]

theorem frame_execLinkLayerError (error : LinkError) (s : State) {t : State} (h : execLinkLayerError error s = .next t) : frame t = frame s := by
  unfold execLinkLayerError at h
  cases h
  repeat' (first | rfl | (simp [frame_ite, frame_foldl]; done) | split | dsimp only | (simp [frame_ite, takeFrame_frame ‹takeFrame _ _ = some (_, _)›]; done) | (simp [frame_ite, touchShelf_frame ‹touchShelf _ _ = some _›]; done) | (refine (frame_foldl _ _ _ fun _ _ => ?_).trans ?_))

theorem frame_execLoftRead (hatch : Nat) (s : State) {t : State} (h : execLoftRead hatch s = .next t) : frame t = frame s := by
  unfold execLoftRead at h
  cases h
  simp [frame_ite, frame_foldl]

theorem frame_execStartLogRead (hatch : Nat) (s : State) {t : State} (h : execStartLogRead hatch s = .next t) : frame t = frame s := by
  unfold execStartLogRead at h
  cases h
  simp [frame_ite, frame_foldl]

theorem frame_execScuChainSet (hatch : Nat) (s : State) {t : State} (h : execScuChainSet hatch s = .next t) : frame t = frame s := by
  unfold execScuChainSet at h
  cases h
  simp [frame_ite, frame_foldl]

theorem frame_execScuCoeffLoad (hatch : Nat) (data : List Byte) (s : State) {t : State} (h : execScuCoeffLoad hatch data s = .next t) : frame t = frame s := by
  unfold execScuCoeffLoad at h
  cases h
  simp [frame_ite, frame_foldl]

theorem frame_execScuChainRun (hatch : Nat) (s : State) {t : State} (h : execScuChainRun hatch s = .next t) : frame t = frame s := by
  unfold execScuChainRun at h
  cases h
  simp [frame_ite, frame_foldl]

theorem frame_execChainStopDone (hatch : Nat) (s : State) {t : State} (h : execChainStopDone hatch s = .next t) : frame t = frame s := by
  unfold execChainStopDone at h
  cases h
  repeat' (first | rfl | (simp [frame_ite, frame_foldl]; done) | split | dsimp only | (simp [frame_ite, takeFrame_frame ‹takeFrame _ _ = some (_, _)›]; done) | (simp [frame_ite, touchShelf_frame ‹touchShelf _ _ = some _›]; done) | (refine (frame_foldl _ _ _ fun _ _ => ?_).trans ?_))

theorem frame_execSoundingBind (hatch : Nat) (s : State) {t : State} (h : execSoundingBind hatch s = .next t) : frame t = frame s := by
  unfold execSoundingBind at h
  cases h
  simp [frame_ite, frame_foldl]

theorem frame_execSoundingUnbind (hatch : Nat) (s : State) {t : State} (h : execSoundingUnbind hatch s = .next t) : frame t = frame s := by
  unfold execSoundingUnbind at h
  cases h
  simp [frame_ite, frame_foldl]

theorem frame_execAntennaSet (hatch : Nat) (data : List Byte) (s : State) {t : State} (h : execAntennaSet hatch data s = .next t) : frame t = frame s := by
  unfold execAntennaSet at h
  cases h
  simp [frame_ite, frame_foldl]

theorem frame_execCertRead (hatch : Nat) (s : State) {t : State} (h : execCertRead hatch s = .next t) : frame t = frame s := by
  unfold execCertRead at h
  cases h
  simp [frame_ite, frame_foldl]

theorem frame_execAttest (hatch : Nat) (s : State) {t : State} (h : execAttest hatch s = .next t) : frame t = frame s := by
  unfold execAttest at h
  cases h
  simp [frame_ite, frame_foldl]

theorem frame_execContextCreate (hatch : Nat) (data : List Byte) (s : State) {t : State} (h : execContextCreate hatch data s = .next t) : frame t = frame s := by
  unfold execContextCreate at h
  cases h
  simp [frame_ite, frame_foldl]

theorem frame_execContextDestroy (hatch : Nat) (s : State) {t : State} (h : execContextDestroy hatch s = .next t) : frame t = frame s := by
  unfold execContextDestroy at h
  cases h
  simp [frame_ite, frame_foldl]

theorem frame_execContextDestroyDone (hatch : Nat) (s : State) {t : State} (h : execContextDestroyDone hatch s = .next t) : frame t = frame s := by
  unfold execContextDestroyDone at h
  cases h
  repeat' (first | rfl | (simp [frame_ite, frame_foldl]; done) | split | dsimp only | (simp [frame_ite, takeFrame_frame ‹takeFrame _ _ = some (_, _)›]; done) | (simp [frame_ite, touchShelf_frame ‹touchShelf _ _ = some _›]; done) | (refine (frame_foldl _ _ _ fun _ _ => ?_).trans ?_))

theorem frame_execConfEnter (hatch : Nat) (s : State) {t : State} (h : execConfEnter hatch s = .next t) : frame t = frame s := by
  unfold execConfEnter at h
  cases h
  simp [frame_ite, frame_foldl]

theorem frame_execConfExit (hatch : Nat) (s : State) {t : State} (h : execConfExit hatch s = .next t) : frame t = frame s := by
  unfold execConfExit at h
  cases h
  simp [frame_ite, frame_foldl]

theorem frame_execModeSwitchDone (hatch : Nat) (s : State) {t : State} (h : execModeSwitchDone hatch s = .next t) : frame t = frame s := by
  unfold execModeSwitchDone at h
  cases h
  repeat' (first | rfl | (simp [frame_ite, frame_foldl]; done) | split | dsimp only | (simp [frame_ite, takeFrame_frame ‹takeFrame _ _ = some (_, _)›]; done) | (simp [frame_ite, touchShelf_frame ‹touchShelf _ _ = some _›]; done) | (refine (frame_foldl _ _ _ fun _ _ => ?_).trans ?_))

theorem frame_execKeyRotate (hatch : Nat) (s : State) {t : State} (h : execKeyRotate hatch s = .next t) : frame t = frame s := by
  unfold execKeyRotate at h
  cases h
  simp [frame_ite, frame_foldl]

theorem frame_execGenerationSweep (ctx : Nat) (s : State) {t : State} (h : execGenerationSweep ctx s = .next t) : frame t = frame s := by
  unfold execGenerationSweep at h
  cases h
  repeat' (first | rfl | (simp [frame_ite, frame_foldl]; done) | split | dsimp only | (simp [frame_ite, takeFrame_frame ‹takeFrame _ _ = some (_, _)›]; done) | (simp [frame_ite, touchShelf_frame ‹touchShelf _ _ = some _›]; done) | (refine (frame_foldl _ _ _ fun _ _ => ?_).trans ?_))

theorem frame_execKeyRotateDone (hatch : Nat) (s : State) {t : State} (h : execKeyRotateDone hatch s = .next t) : frame t = frame s := by
  unfold execKeyRotateDone at h
  cases h
  repeat' (first | rfl | (simp [frame_ite, frame_foldl]; done) | split | dsimp only | (simp [frame_ite, takeFrame_frame ‹takeFrame _ _ = some (_, _)›]; done) | (simp [frame_ite, touchShelf_frame ‹touchShelf _ _ = some _›]; done) | (refine (frame_foldl _ _ _ fun _ _ => ?_).trans ?_))

theorem frame_execChannelFailure (ch : Nat) (cause : Nat) (engine : Nat) (s : State) {t : State} (h : execChannelFailure ch cause engine s = .next t) : frame t = frame s := by
  unfold execChannelFailure at h
  cases h
  simp [frame_ite, frame_foldl]

theorem frame_execSelfTestSlice (ch : Nat) (pass : Bool) (s : State) {t : State} (h : execSelfTestSlice ch pass s = .next t) : frame t = frame s := by
  unfold execSelfTestSlice at h
  cases h
  simp [frame_ite, frame_foldl]

theorem frame_execEngineHang (ch : Nat) (engine : Nat) (s : State) {t : State} (h : execEngineHang ch engine s = .next t) : frame t = frame s := by
  unfold execEngineHang at h
  cases h
  repeat' (first | rfl | (simp [frame_ite, frame_foldl]; done) | split | dsimp only | (simp [frame_ite, takeFrame_frame ‹takeFrame _ _ = some (_, _)›]; done) | (simp [frame_ite, touchShelf_frame ‹touchShelf _ _ = some _›]; done) | (refine (frame_foldl _ _ _ fun _ _ => ?_).trans ?_))

theorem frame_execSharedBlockRestored (ch : Nat) (slot : Nat) (s : State) {t : State} (h : execSharedBlockRestored ch slot s = .next t) : frame t = frame s := by
  unfold execSharedBlockRestored at h
  cases h
  simp [frame_ite, frame_foldl]

theorem frame_execTurnClose (s : State) {t : State} (h : execTurnClose s = .next t) : frame t = frame s := by
  unfold execTurnClose at h
  cases h
  simp [frame_ite, frame_foldl]

theorem frame_execTurnDrainLimit (s : State) {t : State} (h : execTurnDrainLimit s = .next t) : frame t = frame s := by
  unfold execTurnDrainLimit at h
  cases h
  repeat' (first | rfl | (simp [frame_ite, frame_foldl]; done) | split | dsimp only | (simp [frame_ite, takeFrame_frame ‹takeFrame _ _ = some (_, _)›]; done) | (simp [frame_ite, touchShelf_frame ‹touchShelf _ _ = some _›]; done) | (refine (frame_foldl _ _ _ fun _ _ => ?_).trans ?_))

theorem frame_execScrubBegin (s : State) {t : State} (h : execScrubBegin s = .next t) : frame t = frame s := by
  unfold execScrubBegin at h
  cases h
  repeat' (first | rfl | (simp [frame_ite, frame_foldl]; done) | split | dsimp only | (simp [frame_ite, takeFrame_frame ‹takeFrame _ _ = some (_, _)›]; done) | (simp [frame_ite, touchShelf_frame ‹touchShelf _ _ = some _›]; done) | (refine (frame_foldl _ _ _ fun _ _ => ?_).trans ?_))

theorem frame_execScrubEnd (s : State) {t : State} (h : execScrubEnd s = .next t) : frame t = frame s := by
  unfold execScrubEnd at h
  cases h
  repeat' (first | rfl | (simp [frame_ite, frame_foldl]; done) | split | dsimp only | (simp [frame_ite, takeFrame_frame ‹takeFrame _ _ = some (_, _)›]; done) | (simp [frame_ite, touchShelf_frame ‹touchShelf _ _ = some _›]; done) | (refine (frame_foldl _ _ _ fun _ _ => ?_).trans ?_))

theorem frame_execMapRequest (ch : Nat) (kind : MapReqKind) (s : State) {t : State} (h : execMapRequest ch kind s = .next t) : frame t = frame s := by
  unfold execMapRequest at h
  cases h
  repeat' (first | rfl | (simp [frame_ite, frame_foldl]; done) | split | dsimp only | (simp [frame_ite, takeFrame_frame ‹takeFrame _ _ = some (_, _)›]; done) | (simp [frame_ite, touchShelf_frame ‹touchShelf _ _ = some _›]; done) | (refine (frame_foldl _ _ _ fun _ _ => ?_).trans ?_))

theorem frame_execInsertionBatch (ownerFaults : Bool) (s : State) {t : State} (h : execInsertionBatch ownerFaults s = .next t) : frame t = frame s := by
  unfold execInsertionBatch at h
  cases h
  simp [frame_ite, frame_foldl]

theorem frame_execLoopClosureSearch (kf : Nat) (s : State) {t : State} (h : execLoopClosureSearch kf s = .next t) : frame t = frame s := by
  unfold execLoopClosureSearch at h
  cases h
  repeat' (first | rfl | (simp [frame_ite, frame_foldl]; done) | split | dsimp only | (simp [frame_ite, takeFrame_frame ‹takeFrame _ _ = some (_, _)›]; done) | (simp [frame_ite, touchShelf_frame ‹touchShelf _ _ = some _›]; done) | (refine (frame_foldl _ _ _ fun _ _ => ?_).trans ?_))

theorem frame_execLoopClosureCommit (job : Nat) (s : State) {t : State} (h : execLoopClosureCommit job s = .next t) : frame t = frame s := by
  unfold execLoopClosureCommit at h
  cases h
  repeat' (first | rfl | (simp [frame_ite, frame_foldl]; done) | split | dsimp only | (simp [frame_ite, takeFrame_frame ‹takeFrame _ _ = some (_, _)›]; done) | (simp [frame_ite, touchShelf_frame ‹touchShelf _ _ = some _›]; done) | (refine (frame_foldl _ _ _ fun _ _ => ?_).trans ?_))

theorem frame_execMapJobStart (job : Nat) (s : State) {t : State} (h : execMapJobStart job s = .next t) : frame t = frame s := by
  unfold execMapJobStart at h
  cases h
  repeat' (first | rfl | (simp [frame_ite, frame_foldl]; done) | split | dsimp only | (simp [frame_ite, takeFrame_frame ‹takeFrame _ _ = some (_, _)›]; done) | (simp [frame_ite, touchShelf_frame ‹touchShelf _ _ = some _›]; done) | (refine (frame_foldl _ _ _ fun _ _ => ?_).trans ?_))

theorem frame_execMapCommit (job : Nat) (ownerFaults : Bool) (s : State) {t : State} (h : execMapCommit job ownerFaults s = .next t) : frame t = frame s := by
  unfold execMapCommit at h
  cases h
  repeat' (first | rfl | (simp [frame_ite, frame_foldl]; done) | split | dsimp only | (simp [frame_ite, takeFrame_frame ‹takeFrame _ _ = some (_, _)›]; done) | (simp [frame_ite, touchShelf_frame ‹touchShelf _ _ = some _›]; done) | (refine (frame_foldl _ _ _ fun _ _ => ?_).trans ?_))

theorem frame_execInstanceCreate (ch : Nat) (slot : Nat) (s : State) {t : State} (h : execInstanceCreate ch slot s = .next t) : frame t = frame s := by
  unfold execInstanceCreate at h
  cases h
  repeat' (first | rfl | (simp [frame_ite, frame_foldl]; done) | split | dsimp only | (simp [frame_ite, takeFrame_frame ‹takeFrame _ _ = some (_, _)›]; done) | (simp [frame_ite, touchShelf_frame ‹touchShelf _ _ = some _›]; done) | (refine (frame_foldl _ _ _ fun _ _ => ?_).trans ?_))

theorem frame_execStepDispatch (ch : Nat) (engine : Nat) (shelf : ShelfFinding) (s : State) {t : State} (h : execStepDispatch ch engine shelf s = .next t) : frame t = frame s := by
  unfold execStepDispatch at h
  cases h
  repeat' (first | rfl | (simp [frame_ite, frame_foldl]; done) | split | dsimp only | (simp [frame_ite, takeFrame_frame ‹takeFrame _ _ = some (_, _)›]; done) | (simp [frame_ite, touchShelf_frame ‹touchShelf _ _ = some _›]; done) | (refine (frame_foldl _ _ _ fun _ _ => ?_).trans ?_))

theorem frame_execStepEnded (ch : Nat) (engine : Nat) (s : State) {t : State} (h : execStepEnded ch engine s = .next t) : frame t = frame s := by
  unfold execStepEnded at h
  cases h
  repeat' (first | rfl | (simp [frame_ite, frame_foldl]; done) | split | dsimp only | (simp [frame_ite, takeFrame_frame ‹takeFrame _ _ = some (_, _)›]; done) | (simp [frame_ite, touchShelf_frame ‹touchShelf _ _ = some _›]; done) | (refine (frame_foldl _ _ _ fun _ _ => ?_).trans ?_))

theorem frame_execDmaIn (ch : Nat) (inst : Nat) (data : List Byte) (s : State) {t : State} (h : execDmaIn ch inst data s = .next t) : frame t = frame s := by
  unfold execDmaIn at h
  cases h
  simp [frame_ite, frame_foldl]

theorem frame_execCtxTake (ch : Nat) (inst : Nat) (shelf : ShelfFinding) (s : State) {t : State} (h : execCtxTake ch inst shelf s = .next t) : frame t = frame s := by
  unfold execCtxTake at h
  cases h
  repeat' (first | rfl | (simp [frame_ite, frame_foldl]; done) | split | dsimp only | (simp [frame_ite, takeFrame_frame ‹takeFrame _ _ = some (_, _)›]; done) | (simp [frame_ite, touchShelf_frame ‹touchShelf _ _ = some _›]; done) | (refine (frame_foldl _ _ _ fun _ _ => ?_).trans ?_))

theorem frame_execRelocOutcome (ch : Nat) (inst : Nat) (s : State) {t : State} (h : execRelocOutcome ch inst s = .next t) : frame t = frame s := by
  unfold execRelocOutcome at h
  cases h
  repeat' (first | rfl | (simp [frame_ite, frame_foldl]; done) | split | dsimp only | (simp [frame_ite, takeFrame_frame ‹takeFrame _ _ = some (_, _)›]; done) | (simp [frame_ite, touchShelf_frame ‹touchShelf _ _ = some _›]; done) | (refine (frame_foldl _ _ _ fun _ _ => ?_).trans ?_))

theorem frame_execRelocWaitTimeout (ch : Nat) (inst : Nat) (s : State) {t : State} (h : execRelocWaitTimeout ch inst s = .next t) : frame t = frame s := by
  unfold execRelocWaitTimeout at h
  cases h
  repeat' (first | rfl | (simp [frame_ite, frame_foldl]; done) | split | dsimp only | (simp [frame_ite, takeFrame_frame ‹takeFrame _ _ = some (_, _)›]; done) | (simp [frame_ite, touchShelf_frame ‹touchShelf _ _ = some _›]; done) | (refine (frame_foldl _ _ _ fun _ _ => ?_).trans ?_))

theorem frame_execCtxTakeDeadline (ch : Nat) (inst : Nat) (s : State) {t : State} (h : execCtxTakeDeadline ch inst s = .next t) : frame t = frame s := by
  unfold execCtxTakeDeadline at h
  cases h
  repeat' (first | rfl | (simp [frame_ite, frame_foldl]; done) | split | dsimp only | (simp [frame_ite, takeFrame_frame ‹takeFrame _ _ = some (_, _)›]; done) | (simp [frame_ite, touchShelf_frame ‹touchShelf _ _ = some _›]; done) | (refine (frame_foldl _ _ _ fun _ _ => ?_).trans ?_))

theorem frame_execCtxPeek (ch : Nat) (inst : Nat) (s : State) {t : State} (h : execCtxPeek ch inst s = .next t) : frame t = frame s := by
  unfold execCtxPeek at h
  cases h
  repeat' (first | rfl | (simp [frame_ite, frame_foldl]; done) | split | dsimp only | (simp [frame_ite, takeFrame_frame ‹takeFrame _ _ = some (_, _)›]; done) | (simp [frame_ite, touchShelf_frame ‹touchShelf _ _ = some _›]; done) | (refine (frame_foldl _ _ _ fun _ _ => ?_).trans ?_))

theorem frame_execResult (ch : Nat) (inst : Nat) (s : State) {t : State} (h : execResult ch inst s = .next t) : frame t = frame s := by
  unfold execResult at h
  cases h
  repeat' (first | rfl | (simp [frame_ite, frame_foldl]; done) | split | dsimp only | (simp [frame_ite, takeFrame_frame ‹takeFrame _ _ = some (_, _)›]; done) | (simp [frame_ite, touchShelf_frame ‹touchShelf _ _ = some _›]; done) | (refine (frame_foldl _ _ _ fun _ _ => ?_).trans ?_))

theorem frame_execTierStallLimit (ch : Nat) (engine : Nat) (s : State) {t : State} (h : execTierStallLimit ch engine s = .next t) : frame t = frame s := by
  unfold execTierStallLimit at h
  cases h
  repeat' (first | rfl | (simp [frame_ite, frame_foldl]; done) | split | dsimp only | (simp [frame_ite, takeFrame_frame ‹takeFrame _ _ = some (_, _)›]; done) | (simp [frame_ite, touchShelf_frame ‹touchShelf _ _ = some _›]; done) | (refine (frame_foldl _ _ _ fun _ _ => ?_).trans ?_))

theorem dmaBodies_frame (p : Bool) : ∀ e ∈ dmaBodies (.failed p), ∀ r t, frame (e.2 r t) = frame t := by
  intro e he r t
  simp only [dmaBodies, List.mem_cons, List.not_mem_nil, or_false] at he
  rcases he with rfl | rfl | rfl | rfl | rfl | rfl | rfl | rfl | rfl
  all_goals try simp
  unfold loftStoreBody
  dsimp only
  exact frame_guarded _ _ _ _ fun t => by simp [State.withDma]
@[simp] theorem frame_dmaCommandFails (s : State) (h : Nat) (p : Bool) : frame (s.dmaCommandFails h p) = frame s := by
  unfold State.dmaCommandFails
  split
  · split <;> simp
  · split <;> simp
  · split <;> simp
  · split
    · rename_i e he
      exact frame_serve _ _ _ _ (dmaBodies_frame p e (List.mem_of_find?_eq_some he))
    · rfl
theorem frame_execDmaCompletionTimeout (target : DmaTarget) (poisoned : Bool) (s : State) {t : State}
    (h : execDmaCompletionTimeout target poisoned s = .next t) : frame t = frame s := by
  unfold execDmaCompletionTimeout at h
  cases h
  (repeat' (first | rfl | (simp; done) | split))

theorem frame_execImagingStep (ch : Nat) (shelf : ShelfFinding) (s : State) {t : State} (h : execImagingStep ch shelf s = .next t) : frame t = frame s := by
  unfold execImagingStep at h
  cases h
  repeat' (first | rfl | (simp [frame_ite, frame_foldl]; done) | split | dsimp only | (simp [frame_ite, takeFrame_frame ‹takeFrame _ _ = some (_, _)›]; done) | (simp [frame_ite, touchShelf_frame ‹touchShelf _ _ = some _›]; done) | (refine (frame_foldl _ _ _ fun _ _ => ?_).trans ?_))

theorem frame_execHypothesiseAndVerify (ch : Nat) (s : State) {t : State} (h : execHypothesiseAndVerify ch s = .next t) : frame t = frame s := by
  unfold execHypothesiseAndVerify at h
  cases h
  repeat' (first | rfl | (simp [frame_ite, frame_foldl]; done) | split | dsimp only | (simp [frame_ite, takeFrame_frame ‹takeFrame _ _ = some (_, _)›]; done) | (simp [frame_ite, touchShelf_frame ‹touchShelf _ _ = some _›]; done) | (refine (frame_foldl _ _ _ fun _ _ => ?_).trans ?_))

theorem frame_execEpipolarGather (ch : Nat) (s : State) {t : State} (h : execEpipolarGather ch s = .next t) : frame t = frame s := by
  unfold execEpipolarGather at h
  cases h
  repeat' (first | rfl | (simp [frame_ite, frame_foldl]; done) | split | dsimp only | (simp [frame_ite, takeFrame_frame ‹takeFrame _ _ = some (_, _)›]; done) | (simp [frame_ite, touchShelf_frame ‹touchShelf _ _ = some _›]; done) | (refine (frame_foldl _ _ _ fun _ _ => ?_).trans ?_))

theorem frame_execPredict (ch : Nat) (s : State) {t : State} (h : execPredict ch s = .next t) : frame t = frame s := by
  unfold execPredict at h
  cases h
  repeat' (first | rfl | (simp [frame_ite, frame_foldl]; done) | split | dsimp only | (simp [frame_ite, takeFrame_frame ‹takeFrame _ _ = some (_, _)›]; done) | (simp [frame_ite, touchShelf_frame ‹touchShelf _ _ = some _›]; done) | (refine (frame_foldl _ _ _ fun _ _ => ?_).trans ?_))

theorem frame_execGrid (ch : Nat) (s : State) {t : State} (h : execGrid ch s = .next t) : frame t = frame s := by
  unfold execGrid at h
  cases h
  repeat' (first | rfl | (simp [frame_ite, frame_foldl]; done) | split | dsimp only | (simp [frame_ite, takeFrame_frame ‹takeFrame _ _ = some (_, _)›]; done) | (simp [frame_ite, touchShelf_frame ‹touchShelf _ _ = some _›]; done) | (refine (frame_foldl _ _ _ fun _ _ => ?_).trans ?_))

theorem frame_execTracks (ch : Nat) (s : State) {t : State} (h : execTracks ch s = .next t) : frame t = frame s := by
  unfold execTracks at h
  cases h
  repeat' (first | rfl | (simp [frame_ite, frame_foldl]; done) | split | dsimp only | (simp [frame_ite, takeFrame_frame ‹takeFrame _ _ = some (_, _)›]; done) | (simp [frame_ite, touchShelf_frame ‹touchShelf _ _ = some _›]; done) | (refine (frame_foldl _ _ _ fun _ _ => ?_).trans ?_))

theorem frame_execObsExpire (ctx : Nat) (group : Nat) (s : State) {t : State} (h : execObsExpire ctx group s = .next t) : frame t = frame s := by
  unfold execObsExpire at h
  cases h
  simp [frame_ite, frame_foldl]

@[simp] theorem frame_takeSplit (s : State) (ch m n k : Nat) : frame (State.takeSplit s ch m n k) = frame s := by
  unfold State.takeSplit
  simp [frame_ite, frame_foldl, *]

theorem frame_execSplitRequest (ch : Nat) (m : Nat) (n : Nat) (k : Nat) (s : State) {t : State} (h : execSplitRequest ch m n k s = .next t) : frame t = frame s := by
  unfold execSplitRequest at h
  cases h
  simp [frame_ite, frame_foldl]

theorem frame_execSplitResult (ch : Nat) (a : List W32) (b : List W32) (lateChunks : Nat) (s : State) {t : State} (h : execSplitResult ch a b lateChunks s = .next t) : frame t = frame s := by
  unfold execSplitResult at h
  cases h
  repeat' (first | rfl | (simp [frame_ite, frame_foldl]; done) | split | dsimp only | (simp [frame_ite, takeFrame_frame ‹takeFrame _ _ = some (_, _)›]; done) | (simp [frame_ite, touchShelf_frame ‹touchShelf _ _ = some _›]; done) | (refine (frame_foldl _ _ _ fun _ _ => ?_).trans ?_))

theorem frame_execTensorStep (ch : Nat) (lateTile : Bool) (shelf : ShelfFinding) (s : State) {t : State} (h : execTensorStep ch lateTile shelf s = .next t) : frame t = frame s := by
  unfold execTensorStep at h
  cases h
  repeat' (first | rfl | (simp [frame_ite, frame_foldl]; done) | split | dsimp only | (simp [frame_ite, takeFrame_frame ‹takeFrame _ _ = some (_, _)›]; done) | (simp [frame_ite, touchShelf_frame ‹touchShelf _ _ = some _›]; done) | (refine (frame_foldl _ _ _ fun _ _ => ?_).trans ?_))

theorem frame_execWeightTileArrival (ch : Nat) (s : State) {t : State} (h : execWeightTileArrival ch s = .next t) : frame t = frame s := by
  unfold execWeightTileArrival at h
  cases h
  repeat' (first | rfl | (simp [frame_ite, frame_foldl]; done) | split | dsimp only | (simp [frame_ite, takeFrame_frame ‹takeFrame _ _ = some (_, _)›]; done) | (simp [frame_ite, touchShelf_frame ‹touchShelf _ _ = some _›]; done) | (refine (frame_foldl _ _ _ fun _ _ => ?_).trans ?_))

theorem frame_execRadio (ch : Nat) (s : State) {t : State} (h : execRadio ch s = .next t) : frame t = frame s := by
  unfold execRadio at h
  cases h
  repeat' (first | rfl | (simp [frame_ite, frame_foldl]; done) | split | dsimp only | (simp [frame_ite, takeFrame_frame ‹takeFrame _ _ = some (_, _)›]; done) | (simp [frame_ite, touchShelf_frame ‹touchShelf _ _ = some _›]; done) | (refine (frame_foldl _ _ _ fun _ _ => ?_).trans ?_))

theorem frame_execAnchorQuarantineEnd (array : Nat) (s : State) {t : State} (h : execAnchorQuarantineEnd array s = .next t) : frame t = frame s := by
  unfold execAnchorQuarantineEnd at h
  cases h
  repeat' (first | rfl | (simp [frame_ite, frame_foldl]; done) | split | dsimp only | (simp [frame_ite, takeFrame_frame ‹takeFrame _ _ = some (_, _)›]; done) | (simp [frame_ite, touchShelf_frame ‹touchShelf _ _ = some _›]; done) | (refine (frame_foldl _ _ _ fun _ _ => ?_).trans ?_))

theorem frame_execQuarantineEnd (sid : Nat) (source : Nat) (s : State) {t : State} (h : execQuarantineEnd sid source s = .next t) : frame t = frame s := by
  unfold execQuarantineEnd at h
  cases h
  repeat' (first | rfl | (simp [frame_ite, frame_foldl]; done) | split | dsimp only | (simp [frame_ite, takeFrame_frame ‹takeFrame _ _ = some (_, _)›]; done) | (simp [frame_ite, touchShelf_frame ‹touchShelf _ _ = some _›]; done) | (refine (frame_foldl _ _ _ fun _ _ => ?_).trans ?_))

theorem frame_execEpFrameRx (port : Nat) (x1 : List Byte) (bufferError : Bool) (s : State) {t : State} (h : execEpFrameRx port x1 bufferError s = .next t) : frame t = frame s := by
  unfold execEpFrameRx at h
  cases h
  repeat' (first | rfl | (simp [frame_ite, frame_foldl]; done) | split | dsimp only | (simp [frame_ite, takeFrame_frame ‹takeFrame _ _ = some (_, _)›]; done) | (simp [frame_ite, touchShelf_frame ‹touchShelf _ _ = some _›]; done) | (refine (frame_foldl _ _ _ fun _ _ => ?_).trans ?_))

theorem frame_execSymbolIncomplete (symbol : Nat) (s : State) {t : State} (h : execSymbolIncomplete symbol s = .next t) : frame t = frame s := by
  unfold execSymbolIncomplete at h
  cases h
  repeat' (first | rfl | (simp [frame_ite, frame_foldl]; done) | split | dsimp only | (simp [frame_ite, takeFrame_frame ‹takeFrame _ _ = some (_, _)›]; done) | (simp [frame_ite, touchShelf_frame ‹touchShelf _ _ = some _›]; done) | (refine (frame_foldl _ _ _ fun _ _ => ?_).trans ?_))

theorem frame_execElementRebuild (symbol : Nat) (s : State) {t : State} (h : execElementRebuild symbol s = .next t) : frame t = frame s := by
  unfold execElementRebuild at h
  cases h
  repeat' (first | rfl | (simp [frame_ite, frame_foldl]; done) | split | dsimp only | (simp [frame_ite, takeFrame_frame ‹takeFrame _ _ = some (_, _)›]; done) | (simp [frame_ite, touchShelf_frame ‹touchShelf _ _ = some _›]; done) | (refine (frame_foldl _ _ _ fun _ _ => ?_).trans ?_))

theorem frame_execTestInjectionBlock (chain : Nat) (s : State) {t : State} (h : execTestInjectionBlock chain s = .next t) : frame t = frame s := by
  unfold execTestInjectionBlock at h
  cases h
  refine frame_ite_of ?_ rfl
  dsimp only
  generalize runChain _ _ _ = o
  generalize peakIndex _ _ = n
  by_cases h : o.sat = true <;> simp [h]

theorem frame_execRefTimeout (binding : Nat) (s : State) {t : State} (h : execRefTimeout binding s = .next t) : frame t = frame s := by
  unfold execRefTimeout at h
  cases h
  simp [frame_ite, frame_foldl]

theorem frame_execSystemInfo (hatch : Nat) (s : State) {t : State} (h : execSystemInfo hatch s = .next t) : frame t = frame s := by
  unfold execSystemInfo at h
  cases h
  simp [frame_ite, frame_foldl]

theorem frame_execDeltaIntervalSet (hatch : Nat) (s : State) {t : State} (h : execDeltaIntervalSet hatch s = .next t) : frame t = frame s := by
  unfold execDeltaIntervalSet at h
  cases h
  simp [frame_ite, frame_foldl]

theorem frame_execLinkRetrain (hatch : Nat) (s : State) {t : State} (h : execLinkRetrain hatch s = .next t) : frame t = frame s := by
  unfold execLinkRetrain at h
  cases h
  simp [frame_ite, frame_foldl]

theorem frame_execLinkRetrainTimeout (hatch : Nat) (s : State) {t : State} (h : execLinkRetrainTimeout hatch s = .next t) : frame t = frame s := by
  unfold execLinkRetrainTimeout at h
  cases h
  repeat' (first | rfl | (simp [frame_ite, frame_foldl]; done) | split | dsimp only | (simp [frame_ite, takeFrame_frame ‹takeFrame _ _ = some (_, _)›]; done) | (simp [frame_ite, touchShelf_frame ‹touchShelf _ _ = some _›]; done) | (refine (frame_foldl _ _ _ fun _ _ => ?_).trans ?_))

theorem frame_execMpSignalPoll (port : Nat) (signal : Bool) (s : State) {t : State} (h : execMpSignalPoll port signal s = .next t) : frame t = frame s := by
  unfold execMpSignalPoll at h
  cases h
  simp [frame_ite, frame_foldl]

theorem frame_execMpRetryTimer (port : Nat) (s : State) {t : State} (h : execMpRetryTimer port s = .next t) : frame t = frame s := by
  unfold execMpRetryTimer at h
  cases h
  simp [frame_ite, frame_foldl]

theorem frame_execMpTrainingEnd (port : Nat) (hello : Hello) (s : State) {t : State} (h : execMpTrainingEnd port hello s = .next t) : frame t = frame s := by
  unfold execMpTrainingEnd at h
  cases h
  simp [frame_ite, frame_foldl]

theorem frame_execMpSignalLost (port : Nat) (s : State) {t : State} (h : execMpSignalLost port s = .next t) : frame t = frame s := by
  unfold execMpSignalLost at h
  cases h
  simp [frame_ite, frame_foldl]

theorem frame_execMpFrameSend (port : Nat) (s : State) {t : State} (h : execMpFrameSend port s = .next t) : frame t = frame s := by
  unfold execMpFrameSend at h
  cases h
  simp [frame_ite, frame_foldl]

theorem frame_execMpFrameRx (port : Nat) (x1 : List Byte) (stamp : Nat) (s : State) {t : State} (h : execMpFrameRx port x1 stamp s = .next t) : frame t = frame s := by
  unfold execMpFrameRx at h
  cases h
  repeat' (first | rfl | (simp [frame_ite, frame_foldl]; done) | split | dsimp only | (simp [frame_ite, takeFrame_frame ‹takeFrame _ _ = some (_, _)›]; done) | (simp [frame_ite, touchShelf_frame ‹touchShelf _ _ = some _›]; done) | (refine (frame_foldl _ _ _ fun _ _ => ?_).trans ?_))

theorem frame_execDeltaBatchTick (s : State) {t : State} (h : execDeltaBatchTick s = .next t) : frame t = frame s := by
  unfold execDeltaBatchTick at h
  cases h
  simp [frame_ite, frame_foldl]

theorem frame_execMapLockGrant (s : State) {t : State} (h : execMapLockGrant s = .next t) : frame t = frame s := by
  unfold execMapLockGrant at h
  cases h
  repeat' (first | rfl | (simp [frame_ite, frame_foldl]; done) | split | dsimp only | (simp [frame_ite, takeFrame_frame ‹takeFrame _ _ = some (_, _)›]; done) | (simp [frame_ite, touchShelf_frame ‹touchShelf _ _ = some _›]; done) | (refine (frame_foldl _ _ _ fun _ _ => ?_).trans ?_))

theorem frame_execCatchUp (port : Nat) (s : State) {t : State} (h : execCatchUp port s = .next t) : frame t = frame s := by
  unfold execCatchUp at h
  cases h
  repeat' (first | rfl | (simp [frame_ite, frame_foldl]; done) | split | dsimp only | (simp [frame_ite, takeFrame_frame ‹takeFrame _ _ = some (_, _)›]; done) | (simp [frame_ite, touchShelf_frame ‹touchShelf _ _ = some _›]; done) | (refine (frame_foldl _ _ _ fun _ _ => ?_).trans ?_))

theorem frame_execSolverStep (ch : Nat) (loadAt : Nat) (timing : List IterTiming) (shelf : ShelfFinding) (s : State) {t : State} (h : execSolverStep ch loadAt timing shelf s = .next t) : frame t = frame s := by
  unfold execSolverStep at h
  cases h
  split
  · rfl
  · simp only [frame_ite]
    split
    all_goals (repeat' split) <;> simp

/-! ### What changes the frame: resets, stores, the power loop -/

theorem sound_of_frame {s t : State} (h : frame t = frame s) (hs : Sound s) : Sound t := by
  simp only [frame, Prod.mk.injEq] at h
  obtain ⟨⟨h1, h2, h3⟩, ⟨h4, h5, h6⟩, -, ⟨h7, h8, h9, h10⟩, h11⟩ := h
  obtain ⟨a, b, c, d, e⟩ := hs
  refine ⟨?_, ?_, ?_, ?_, ?_⟩
  · simpa [Hw.good, h1, h2, h3] using a
  · simpa [Loft.good, h4, h5, h6] using b
  · simpa [Pow.legal, h7, h8, h9, h10] using c
  · rw [h11]; exact d
  · rw [h11]; exact e

theorem sound_coreReset {s : State} (hs : Sound s) (why : Nat) : Sound (s.coreReset why) :=
  ⟨hs.pins, hs.loft, by show Pow.legal { } = true; decide,
    by show incMin ≤ (0x000000019999999A : W64).toNat; decide, by show (0x000000019999999A : W64).toNat ≤ incMax; decide⟩

theorem sound_startBegin {s : State} (hs : Sound s) (why : Nat) : Sound (s.startBegin why) := by
  refine ⟨hs.pins, ?_, hs.power, hs.incLow, hs.incHigh⟩
  have h := hs.loft
  have hl : (s.startBegin why).loft.log.length ≤ 512 := by
    show (List.take 512 _).length ≤ 512
    exact List.length_take_le _ _
  simp only [Loft.good, Bool.and_eq_true, decide_eq_true_eq] at h ⊢
  exact ⟨⟨h.1.1, hl⟩, h.2⟩

theorem sound_holdReset {s : State} (hs : Sound s) (why : Nat) : Sound (s.holdReset why) := by
  unfold State.holdReset
  split
  · exact hs
  · exact hs
  · exact sound_coreReset hs _
  · exact sound_coreReset hs _

theorem sound_selfReset {s : State} (hs : Sound s) (why : Nat) : Sound (s.selfReset why) :=
  sound_startBegin (sound_coreReset hs why) why

theorem sound_setInc {s : State} (hs : Sound s) (v : Nat) : Sound (s.setInc v) := by
  unfold State.setInc
  dsimp only
  have key : ∀ c, incMin ≤ c → c ≤ incMax → Sound (s.modTime (fun t => { t with inc := BitVec.ofNat 64 c })) := by
    intro c h1 h2
    have : (BitVec.ofNat 64 c).toNat = c := by
      simp only [BitVec.toNat_ofNat, incMax] at h2 ⊢; omega
    exact ⟨hs.pins, hs.loft, hs.power, by simpa [State.modTime, this] using h1, by simpa [State.modTime, this] using h2⟩
  have low : incMin ≤ (if v % 2 ^ 40 < incMin then incMin else if incMax < v % 2 ^ 40 then incMax else v % 2 ^ 40) := by
    split <;> (try split) <;> simp only [incMin, incMax] at * <;> omega
  have high : (if v % 2 ^ 40 < incMin then incMin else if incMax < v % 2 ^ 40 then incMax else v % 2 ^ 40) ≤ incMax := by
    split <;> (try split) <;> simp only [incMin, incMax] at * <;> omega
  generalize (if v % 2 ^ 40 < incMin then incMin else if incMax < v % 2 ^ 40 then incMax else v % 2 ^ 40) = c at low high
  split
  · exact key c low high
  · exact sound_of_frame (frame_err1 _ _ _ _ _ _) (key c low high)

theorem sound_ite {c : Prop} [Decidable c] {s t : State} (hs : Sound s) (ht : Sound t) : Sound (if c then s else t) := by
  split <;> assumption

theorem sound_halfWrite {s : State} (hs : Sound s) (b : Nat) (u : Bool) (v cur : Nat) (f : Nat → State → State)
    (h : ∀ w t, Sound t → Sound (f w t)) :
    Sound (match s.halfWrite b u v cur with
      | (some w, t) => f w t
      | (none, t) => t) := by
  have half : Sound (s.halfWrite b u v cur).2 := sound_of_frame (frame_halfWrite _ _ _ _ _) hs
  split
  · rename_i w t e; rw [e] at half; exact h _ _ half
  · rename_i t e; rw [e] at half; exact half

theorem sound_write32 {s : State} (hs : Sound s) (a v : Nat) : Sound (s.write32 a v) := by
  unfold State.write32
  refine sound_ite (sound_of_frame (by simp) hs) (sound_ite (sound_of_frame (by simp) hs) (sound_ite (sound_of_frame (by simp) hs)
    (sound_ite (sound_of_frame (by simp) hs) (sound_ite ?_ (sound_ite (sound_of_frame (by simp) hs) (sound_ite (sound_of_frame (by simp) hs)
      (sound_ite (sound_of_frame (by simp) hs) (sound_ite ?_ (sound_ite ?_ (sound_ite (sound_of_frame (by simp) hs)
        (sound_ite (sound_of_frame (by simp) hs) (sound_ite (sound_of_frame (by simp) hs) hs))))))))))))
  · exact sound_halfWrite hs _ _ _ _ (fun w t => t.clearDone w) fun w t ht => sound_of_frame (frame_clearDone _ _) ht
  · exact sound_halfWrite hs _ _ _ _ (fun w t => t.setInc w) fun w t ht => sound_setInc ht _
  · exact sound_halfWrite hs _ _ _ _ (fun w t => t.setStep (asSigned 64 w)) fun w t ht => sound_of_frame (frame_setStep _ _) ht

theorem sound_write64 {s : State} (hs : Sound s) (a v : Nat) : Sound (s.write64 a v) := by
  unfold State.write64
  split
  · exact sound_of_frame (by simp) hs
  · split
    · exact sound_setInc hs _
    · split
      · exact sound_of_frame (by simp) hs
      · exact hs

theorem sound_barWrite {s : State} (hs : Sound s) (a width v : Nat) : Sound (s.barWrite a width v) := by
  unfold State.barWrite
  exact sound_ite hs (sound_ite (sound_of_frame (by simp) hs) (sound_ite (sound_ite (sound_write32 hs _ _) hs)
    (sound_ite (sound_ite hs (sound_ite (sound_write64 hs _ _) (sound_write32 (sound_write32 hs _ _) _ _))) hs)))

/-- Storing a page keeps the loft good. -/
theorem sound_loftStore {s : State} (hs : Sound s) (d : Dma) (good : Bool) (h : Nat) : Sound (serve 0x0A03 h (loftStoreBody d good) s) := by
  have bump (m : NMap Nat) (k n : Nat) (hm : risingKeys m = true) : risingKeys (NMap.bump m k n) = true := by
    unfold NMap.bump
    split
    · exact hm
    · exact risingKeys_set _ _ _ hm
  have body (r : Req) (t : State) (ht : Sound t) : Sound (loftStoreBody d good r t) := by
    unfold loftStoreBody
    dsimp only
    unfold State.guarded
    split
    · exact sound_of_frame (by simp) ht
    · unfold State.withDma
      dsimp only
      split
      rotate_left
      · exact sound_of_frame (by simp) ht
      · have h1 := ht.loft
        simp only [Loft.good, Bool.and_eq_true, decide_eq_true_eq] at h1
        have hb := bump t.loft.writes (r.u8 0) 1 h1.2
        split
        · refine sound_of_frame (frame_place _ _ _ _) ⟨ht.pins, ?_, ht.power, ht.incLow, ht.incHigh⟩
          simp only [Loft.good, Bool.and_eq_true, decide_eq_true_eq]
          exact ⟨⟨Memory.wf_write _ _ _ h1.1.1, h1.1.2⟩, hb⟩
        · refine sound_of_frame ((frame_place _ _ _ _).trans (frame_err1 _ _ _ _ _ _)) ⟨ht.pins, ?_, ht.power, ht.incLow, ht.incHigh⟩
          simp only [Loft.good, Bool.and_eq_true, decide_eq_true_eq]
          exact ⟨⟨h1.1.1, h1.1.2⟩, hb⟩
  unfold serve
  split
  · exact hs
  · dsimp only
    split
    · exact hs
    · split
      · exact sound_of_frame (by simp) hs
      · split
        · exact sound_of_frame (by simp) hs
        · split
          · exact sound_of_frame (by simp) hs
          · exact body _ _ (sound_of_frame (by split <;> simp) hs)

theorem legal_loop (p : Pow) (dw cap : Nat) (h : p.legal = true) : (p.loop dw cap).legal = true := by
  simp only [Pow.legal, Bool.and_eq_true, decide_eq_true_eq, beq_iff_eq] at h
  unfold Pow.loop
  dsimp only
  repeat' split
  all_goals (simp only [Pow.legal, Bool.and_eq_true, decide_eq_true_eq, beq_iff_eq]; omega)

theorem legal_measure (p : Pow) (dw mhz now : Nat) (h : p.legal = true) : (p.measure dw mhz now).legal = true := by
  unfold Pow.measure; dsimp only; split <;> exact h

theorem legal_thermal (p : Pow) (tj : Int) (h : p.legal = true) : (p.thermal tj).legal = true := by
  simp only [Pow.legal, Bool.and_eq_true, decide_eq_true_eq, beq_iff_eq] at h
  unfold Pow.thermal
  dsimp only
  repeat' split
  all_goals (simp only [Pow.legal, Bool.and_eq_true, decide_eq_true_eq, beq_iff_eq]; omega)

theorem sound_modPow {s : State} (hs : Sound s) (f : Pow → Pow) (h : (f s.core.pow).legal = true) : Sound (s.modPow f) :=
  ⟨hs.pins, hs.loft, h, hs.incLow, hs.incHigh⟩
theorem sound_modHw {s : State} (hs : Sound s) (f : Hw → Hw) (h : (f s.hw).good = true) : Sound (s.modHw f) :=
  ⟨h, hs.loft, hs.power, hs.incLow, hs.incHigh⟩

end Sys2Proof.Machine
end

