-- ==== Sys2Proof/Laws/Hatch.lean ====
section
/-! SUPPORT. What the shared operations of the hatches do: trace records, interrupts, taking a request, placing a response. -/
namespace Sys2Proof.Machine

/-- A trace record moves only the trace's own fields. -/
theorem traceRec_eq (s : State) (type src : Nat) (p : List Byte) (m : Nat) :
    ∃ b q n l, s.traceRec type src p m = s.modObs (fun o => { o with buf := b, seq := q, sent := n, lost := l }) := by
  have same : s = s.modObs (fun o => { o with buf := s.core.obs.buf, seq := s.core.obs.seq, sent := s.core.obs.sent, lost := s.core.obs.lost }) := rfl
  simp only [State.traceRec]
  generalize (s.core.obs.trace && !s.core.sys.conf && _) = w
  cases w
  · exact ⟨_, _, _, _, same⟩
  · simp only [if_true]
    split
    · exact ⟨_, _, _, _, rfl⟩
    · exact ⟨_, _, _, _, rfl⟩

section Trace
variable (s : State) (type src : Nat) (p : List Byte) (m : Nat)
@[simp] theorem traceRec_hw : (s.traceRec type src p m).hw = s.hw := by obtain ⟨_, _, _, _, h⟩ := traceRec_eq s type src p m; rw [h]; rfl
@[simp] theorem traceRec_pcie : (s.traceRec type src p m).pcie = s.pcie := by obtain ⟨_, _, _, _, h⟩ := traceRec_eq s type src p m; rw [h]; rfl
@[simp] theorem traceRec_loft : (s.traceRec type src p m).loft = s.loft := by obtain ⟨_, _, _, _, h⟩ := traceRec_eq s type src p m; rw [h]; rfl
@[simp] theorem traceRec_err : (s.traceRec type src p m).err = s.err := by obtain ⟨_, _, _, _, h⟩ := traceRec_eq s type src p m; rw [h]; rfl
@[simp] theorem traceRec_out : (s.traceRec type src p m).out = s.out := by obtain ⟨_, _, _, _, h⟩ := traceRec_eq s type src p m; rw [h]; rfl
@[simp] theorem traceRec_free : (s.traceRec type src p m).free = s.free := by obtain ⟨_, _, _, _, h⟩ := traceRec_eq s type src p m; rw [h]; rfl
@[simp] theorem traceRec_pending : (s.traceRec type src p m).pending = s.pending := by obtain ⟨_, _, _, _, h⟩ := traceRec_eq s type src p m; rw [h]; rfl
@[simp] theorem traceRec_hat : (s.traceRec type src p m).core.hat = s.core.hat := by obtain ⟨_, _, _, _, h⟩ := traceRec_eq s type src p m; rw [h]; rfl
end Trace

/-- An interrupt is a message or a pending bit. -/
theorem msi_eq (s : State) (v : Nat) :
    s.msi v = { s with pcie := { s.pcie with pba := (s.msi v).pcie.pba }, out := (s.msi v).out } := by
  unfold State.msi; dsimp only; split <;> rfl

theorem msi_out (s : State) (v : Nat) : ∃ l, (s.msi v).out = s.out ++ l ∧ ∀ o ∈ l, ∃ v a d, o = Out.msi v a d := by
  unfold State.msi; dsimp only; split
  · exact ⟨[], by simp⟩
  · exact ⟨_, rfl, by simp⟩

section Msi
variable (s : State) (v : Nat)
@[simp] theorem msi_hw : (s.msi v).hw = s.hw := by rw [msi_eq]
@[simp] theorem msi_table : (s.msi v).pcie.table = s.pcie.table := by rw [msi_eq]
@[simp] theorem msi_loft : (s.msi v).loft = s.loft := by rw [msi_eq]
@[simp] theorem msi_err : (s.msi v).err = s.err := by rw [msi_eq]
@[simp] theorem msi_core : (s.msi v).core = s.core := by rw [msi_eq]
@[simp] theorem msi_free : (s.msi v).free = s.free := by rw [msi_eq]
@[simp] theorem msi_pending : (s.msi v).pending = s.pending := by rw [msi_eq]
end Msi

/-! ### Lists changed at one place -/

theorem getD_updAt_self {α : Type} (l : List α) (i : Nat) (f : α → α) (d : α) (h : i < l.length) :
    (updAt l i f).getD i d = f (l.getD i d) := by
  simp [updAt, List.getD, h]

theorem getD_updAt_other {α : Type} (l : List α) (i j : Nat) (f : α → α) (d : α) (h : j ≠ i) :
    (updAt l i f).getD j d = l.getD j d := by
  have : ¬ i = j := fun e => h e.symm
  simp [updAt, List.getD, this]

theorem length_updAt {α : Type} (l : List α) (i : Nat) (f : α → α) : (updAt l i f).length = l.length := by simp [updAt]

/-! ### Responses -/

theorem leBytes_length (n v : Nat) : (leBytes n v).length = n := by
  induction n generalizing v with
  | zero => rfl
  | succ n ih => simp [leBytes, ih]

theorem padTo_length (n : Nat) (l : List Byte) : (padTo n l).length = n := by
  simp only [padTo, bytesAt, List.drop_zero, List.length_append, List.length_take, List.length_replicate]; omega

/-- The bytes of a response: the header's five bytes, status, length, DT, and the body of 240 bytes. -/
def responseBytes (head : List Byte) (status len dt : Nat) (body : List Byte) : List Byte :=
  head ++ leBytes 1 status ++ leBytes 2 len ++ leBytes 8 dt ++ padTo 240 body

theorem responseBytes_length (head : List Byte) (status len dt : Nat) (body : List Byte) (h : head.length = 5) :
    (responseBytes head status len dt body).length = 256 := by
  simp [responseBytes, leBytes_length, padTo_length, h]

/-- The body that a response holds: sealed when the request was. -/
def responseBody (s : State) (h status : Nat) (payload : List Byte) : List Byte :=
  let c := ctlAt s h
  let head := Mem.bytes s.core.hat.mem (256 * h) 5
  match c.sealCtr with
  | some n =>
    let nonce := leBytes 8 n ++ leBytes 1 h ++ [1, 0, 0]
    let hdr := head ++ leBytes 1 status ++ leBytes 2 (payload.length + 28) ++ leBytes 8 (dtOf s)
    nonce ++ gcmSeal (NMap.getD s.core.sec.contexts (fieldAt head 4 1) {}).kOut nonce hdr payload
  | none => payload

/-- Placing a response, said in one: the hatch's bytes and control change, a trace record is made, and the vector may be raised. -/
theorem placeWith_eq (s : State) (h status : Nat) (payload : List Byte) (acc raise : Bool) :
    s.placeWith h status payload acc raise =
      (let b := responseBody s h status payload
       let t := (s.modHat (fun a =>
         { a with mem := Mem.write a.mem (256 * h) (responseBytes (Mem.bytes s.core.hat.mem (256 * h) 5) status b.length (dtOf s) b)
                  done := a.done ||| (1#64 <<< h) })).modCtl h
           (fun c => { c with own := false, pend := acc, job := if acc then c.job else none })
       let u := t.traceRec 0x40 h (leBytes 2 (fieldAt (Mem.bytes s.core.hat.mem (256 * h) 5) 0 2) ++ leBytes 1 status ++ [0])
       if raise then u.msi (ctlAt u h).vector else u) := by
  unfold State.placeWith responseBody responseBytes
  rfl

/-! ### A command's own part, between taking and answering -/

/-- A state on the way from s to the response in hatch h: as `Kept` says, with the hatch's bytes still those of the request. -/
structure Laid (s : State) (h : Nat) (c : Core) (u : State) : Prop where
  kept : Kept s h c u
  mem : u.core.hat.mem = s.core.hat.mem
  dt : dtOf u = dtOf s
  lt : h < u.core.hat.ctl.length
  lt64 : h < 64

theorem length_le_of_own (s : State) (h : Nat) (ho : (ctlAt s h).own = true) : h < s.core.hat.ctl.length := by
  refine Nat.lt_of_not_le fun hl => ?_
  simp [ctlAt, List.getD, List.getElem?_eq_none hl] at ho

/-- What taking a request does (R90, R97): it leaves its queue, and its IRQ and its sealing are kept. -/
theorem takeOff_eq (s : State) (r : Req) : ∃ b e n l, s.takeOff r =
    ((s.modHat (fun a =>
      { a with queueM := a.queueM.filter (· != r.h), queueG := a.queueG.filter (· != r.h), ownAt := NMap.erase a.ownAt r.h })).modCtl r.h
      (fun c => { c with
        irq := bit r.flags 0
        sealCtr := if bit r.flags 1 && r.ctx != 0 && ctxExists s r.ctx then some (fieldAt r.payload 0 8) else none
        job := none })).modObs (fun o => { o with buf := b, seq := e, sent := n, lost := l }) := by
  unfold State.takeOff
  exact traceRec_eq _ _ _ _ _

theorem ctlAt_modCtl (s : State) (h g : Nat) (f : HatchCtl → HatchCtl) (hg : g ≠ h) : ctlAt (s.modCtl h f) g = ctlAt s g := by
  simp only [ctlAt, State.modCtl_core]; exact getD_updAt_other _ _ _ _ _ hg

theorem ctlAt_modCtl_self (s : State) (h : Nat) (f : HatchCtl → HatchCtl) (hl : h < s.core.hat.ctl.length) :
    ctlAt (s.modCtl h f) h = f (ctlAt s h) := by
  simp only [ctlAt, State.modCtl_core]; exact getD_updAt_self _ _ _ _ hl

theorem laid_takeOff (s : State) (h : Nat) (hc : canTake s h = true) : Laid s h s.core (s.takeOff (reqOf s h)) := by
  simp only [canTake, Bool.and_eq_true, decide_eq_true_eq] at hc
  obtain ⟨⟨⟨h64, ho⟩, -⟩, -⟩ := hc
  have hl := length_le_of_own s h ho
  obtain ⟨b, e, n, l, ht⟩ := takeOff_eq s (reqOf s h)
  rw [ht]
  refine ⟨⟨rfl, rfl, rfl, rfl, rfl, rfl, rfl, ?_, fun a _ => rfl, ⟨[], by simp⟩⟩, rfl, rfl, ?_, h64⟩
  · intro g hg
    have hr : (reqOf s h).h = h := rfl
    simp only [ctlAt, State.modObs_core, State.modCtl_core, hr]
    rw [getD_updAt_other _ _ _ _ _ hg]; rfl
  · simpa [length_updAt] using hl

theorem Laid.modCtl {s u : State} {h : Nat} {c : Core} (f : HatchCtl → HatchCtl) (l : Laid s h c u) : Laid s h c (u.modCtl h f) := by
  obtain ⟨k, hm, hd, hl, h64⟩ := l
  refine ⟨⟨k.hw, k.loft, k.err, k.table, k.free, k.queue, ?_, ?_, k.bytes, k.out⟩, hm, hd, ?_, h64⟩
  · have := k.core
    simp only [State.modCtl_core]
    conv => lhs; rw [this]
  · intro g hg; rw [ctlAt_modCtl _ _ _ _ hg]; exact k.others g hg
  · simpa [length_updAt] using hl

/-- From the request to the command's own part. -/
theorem laid_taken (s : State) (h : Nat) (hc : canTake s h = true) : Laid s h s.core (taken s h) := by
  unfold taken
  split
  · exact (laid_takeOff s h hc).modCtl _
  · exact laid_takeOff s h hc

theorem canTake_of_takes {s : State} {h op : Nat} {p : List Byte} (ht : takes s h op p = true) : canTake s h = true := by
  simp only [takes, Bool.and_eq_true] at ht; exact ht.1.1.1.1

/-- Serving a request that passes checks 1 to 5 of R83 in time runs the command's own part. -/
theorem serve_takes {s : State} {h op : Nat} {p : List Byte} (body : Req → State → State) (ht : takes s h op p = true) :
    serve op h body s = body (requestIn s h p) (taken s h) := by
  simp only [takes, Bool.and_eq_true, Bool.or_eq_true, beq_iff_eq, decide_eq_true_eq, Option.isNone_iff_eq_none] at ht
  obtain ⟨⟨⟨⟨hc, ho⟩, hp⟩, hf⟩, hq⟩ := ht
  have hpat : ((reqOf s h).patience != 0 && decide ((reqOf s h).patience < dtOf s)) = false := by
    rcases hp with hp | hp
    · simp [hp]
    · have : ¬ (reqOf s h).patience < dtOf s := by omega
      simp [this]
  simp only [serve, hc, ho, hf, hq, hpat, taken, requestIn, Bool.not_true, bne_self_eq_false, Bool.false_and]
  simp

theorem getLsbD_done (d : W64) (h : Nat) (hh : h < 64) : (d ||| (1#64 <<< h)).getLsbD h = true := by
  simp [hh]

/-- Placing a response. -/
theorem Laid.placeWith {s u : State} {h : Nat} {c : Core} (l : Laid s h c u) (status : Nat) (payload : List Byte) (acc raise : Bool)
    (hs : acc = (status == 0x01)) :
    Answered s h status payload (u.placeWith h status payload acc raise) ∧ Kept s h c (u.placeWith h status payload acc raise) ∧
    (acc = true → jobAt (u.placeWith h status payload acc raise) h = jobAt u h) := by
  obtain ⟨k, hm, hd, hl, h64⟩ := l
  rw [placeWith_eq]
  simp only []
  generalize hb : responseBody u h status payload = body
  generalize ht : (u.modHat _).modCtl h _ = t
  generalize hx : leBytes 2 (fieldAt (Mem.bytes u.core.hat.mem (256 * h) 5) 0 2) ++ leBytes 1 status ++ [0] = x
  obtain ⟨b, e, n, lo, hr⟩ := traceRec_eq t 0x40 h x h
  have hlen := responseBytes_length (Mem.bytes u.core.hat.mem (256 * h) 5) status body.length (dtOf u) body (Mem.length_bytes _ _ _)
  -- the state before the interrupt
  have main : ∀ v : State, v = t.traceRec 0x40 h x h →
      Answered s h status payload v ∧ Kept s h c v ∧ (acc = true → jobAt v h = jobAt u h) := by
    intro v hv
    rw [hr, ← ht] at hv
    have hmem : v.core.hat.mem = Mem.write u.core.hat.mem (256 * h)
        (responseBytes (Mem.bytes u.core.hat.mem (256 * h) 5) status body.length (dtOf u) body) := by rw [hv]; rfl
    have hctl : ctlAt v h = { ctlAt u h with own := false, pend := acc, job := if acc then (ctlAt u h).job else none } := by
      rw [hv]
      show ctlAt ((u.modHat _).modCtl h _) h = _
      rw [ctlAt_modCtl_self _ _ _ (by simpa using hl)]; rfl
    have hseal : (ctlAt v h).sealCtr = none → body = payload := by
      intro hn
      rw [hctl] at hn
      rw [← hb]; unfold responseBody; simp only at hn ⊢; rw [hn]
    have hat : ∀ o n, o + n ≤ 256 → Mem.bytes v.core.hat.mem (256 * h + o) n =
        ((responseBytes (Mem.bytes u.core.hat.mem (256 * h) 5) status body.length (dtOf u) body).drop o).take n := by
      intro o n hon
      rw [hmem]; exact Mem.bytes_write _ _ _ _ _ (by omega)
    have l5 : (Mem.bytes u.core.hat.mem (256 * h) 5).length = 5 := Mem.length_bytes _ _ _
    have l1 := leBytes_length 1 status
    have l2 := leBytes_length 2 body.length
    have l8 := leBytes_length 8 (dtOf u)
    have lp := padTo_length 240 body
    have z5 : ∀ n, 5 ≤ n → (Mem.bytes u.core.hat.mem (256 * h) 5).drop n = [] := fun n hn => List.drop_eq_nil_of_le (by omega)
    have z1 : ∀ n, 1 ≤ n → (leBytes 1 status).drop n = [] := fun n hn => List.drop_eq_nil_of_le (by omega)
    have z2 : ∀ n, 2 ≤ n → (leBytes 2 body.length).drop n = [] := fun n hn => List.drop_eq_nil_of_le (by omega)
    have z8 : ∀ n, 8 ≤ n → (leBytes 8 (dtOf u)).drop n = [] := fun n hn => List.drop_eq_nil_of_le (by omega)
    refine ⟨⟨?_, ?_, ?_, ?_, ?_, ?_, ?_, ?_⟩, ⟨?_, ?_, ?_, ?_, ?_, ?_, ?_, ?_, ?_, ?_⟩, ?_⟩
    · rw [hctl]
    · rw [hctl]; exact hs
    · rw [hv]; exact getLsbD_done _ _ h64
    · have := hat 0 5 (by omega)
      rw [Nat.add_zero] at this
      rw [this, ← hm]
      simp [responseBytes, l5]
    · have h5 : 5 < (responseBytes (Mem.bytes u.core.hat.mem (256 * h) 5) status body.length (dtOf u) body).length := by omega
      rw [hmem, Mem.read_write_of_inside _ _ _ _ h5]
      simp [responseBytes, l5, leBytes]
    · rw [hat 8 8 (by omega), ← hd]
      simp [responseBytes, l5, l1, l2, l8, List.drop_append, z5, z1]
    · intro hn
      rw [hat 6 2 (by omega), ← hseal hn]
      simp [responseBytes, l5, l1, l2, List.drop_append, z5]
    · intro hn
      rw [hat 16 240 (by omega), ← hseal hn]
      simp [responseBytes, l5, l1, l2, l8, List.drop_append, z5, z1, z2]
      exact lp.le
    · rw [hv]; exact k.hw
    · rw [hv]; exact k.loft
    · rw [hv]; exact k.err
    · rw [hv]; exact k.table
    · rw [hv]; exact k.free
    · rw [hv]; exact k.queue
    · rw [hv]
      have := k.core
      simp only [State.modObs_core, State.modCtl_core, State.modHat_core]
      conv => lhs; rw [this]
    · intro g hg
      rw [← k.others g hg, hv]
      show ctlAt ((u.modHat _).modCtl h _) g = _
      rw [ctlAt_modCtl _ _ _ _ hg]; rfl
    · intro a ha
      rw [hmem, Mem.read_write_of_outside _ _ _ _ (by omega), hm]
    · rw [hv]; exact k.out
    · intro ha
      simp only [jobAt]
      rw [hctl, ha]; rfl
  split
  · obtain ⟨ha, hk, hj⟩ := main _ rfl
    obtain ⟨lm, hlm, hm'⟩ := msi_out (t.traceRec 0x40 h x h) (ctlAt (t.traceRec 0x40 h x h) h).vector
    obtain ⟨l0, hl0, hm0⟩ := hk.out
    have hc : ∀ v, (((t.traceRec 0x40 h x h).msi v).core) = (t.traceRec 0x40 h x h).core := fun v => msi_core _ _
    refine ⟨⟨?_, ?_, ?_, ?_, ?_, ?_, ?_, ?_⟩, ⟨?_, ?_, ?_, ?_, ?_, ?_, ?_, ?_, ?_, ?_⟩, ?_⟩
    · simpa [ctlAt, hc] using ha.own
    · simpa [ctlAt, hc] using ha.pending
    · simpa [hc] using ha.done
    · simpa [hc] using ha.header
    · simpa [hc] using ha.status
    · simpa [hc] using ha.dt
    · simpa [ctlAt, hc] using ha.length
    · simpa [ctlAt, hc] using ha.payload
    · simpa using hk.hw
    · simpa using hk.loft
    · simpa using hk.err
    · simpa using hk.table
    · simpa using hk.free
    · simpa using hk.queue
    · rw [hc]; exact hk.core
    · intro g hg; have := hk.others g hg; simpa [ctlAt, hc] using this
    · intro a ha'; rw [hc]; exact hk.bytes a ha'
    · refine ⟨l0 ++ lm, by rw [hlm, hl0, List.append_assoc], ?_⟩
      intro o ho
      rcases List.mem_append.1 ho with ho | ho
      · exact hm0 o ho
      · exact hm' o ho
    · intro hacc; have := hj hacc; simpa [jobAt, ctlAt, hc] using this
  · exact main _ rfl

theorem Laid.place {s u : State} {h : Nat} {c : Core} (l : Laid s h c u) (status : Nat) (payload : List Byte) (hs : status ≠ 0x01) :
    Responds s h status payload c (.next (u.place h status payload)) := by
  have := l.placeWith status payload false (ctlAt u h).irq (by simp [hs])
  exact ⟨_, rfl, this.1, this.2.1⟩

theorem Laid.accept {s u : State} {h : Nat} {c : Core} (l : Laid s h c u) (j : Job) : Accepts s h j c (.next (u.accept h j)) := by
  have hl := l.lt
  have := (l.modCtl (fun c => { c with job := some j })).placeWith 0x01 [] true (ctlAt u h).irq rfl
  refine ⟨_, rfl, this.1, ?_, this.2.1⟩
  have hj := this.2.2 rfl
  simp only [State.accept]
  rw [hj]
  simp only [jobAt]
  rw [ctlAt_modCtl_self _ _ _ hl]

/-! ### Changes of one group of the core, on the way to a response -/

section Groups
variable {s u : State} {h : Nat} {c : Core}
theorem Laid.sys_eq (l : Laid s h c u) : u.core.sys = c.sys := by rw [l.kept.core]
theorem Laid.ring_eq (l : Laid s h c u) : u.core.ring = c.ring := by rw [l.kept.core]
theorem Laid.work_eq (l : Laid s h c u) : u.core.work = c.work := by rw [l.kept.core]
theorem Laid.chans_eq (l : Laid s h c u) : u.core.chans = c.chans := by rw [l.kept.core]
theorem Laid.map_eq (l : Laid s h c u) : u.core.map = c.map := by rw [l.kept.core]
theorem Laid.air_eq (l : Laid s h c u) : u.core.air = c.air := by rw [l.kept.core]
theorem Laid.scu_eq (l : Laid s h c u) : u.core.scu = c.scu := by rw [l.kept.core]
theorem Laid.fus_eq (l : Laid s h c u) : u.core.fus = c.fus := by rw [l.kept.core]
theorem Laid.tiers_eq (l : Laid s h c u) : u.core.tiers = c.tiers := by rw [l.kept.core]
theorem Laid.fab_eq (l : Laid s h c u) : u.core.fab = c.fab := by rw [l.kept.core]
theorem Laid.sec_eq (l : Laid s h c u) : u.core.sec = c.sec := by rw [l.kept.core]
theorem Laid.link_eq (l : Laid s h c u) : u.core.link = c.link := by rw [l.kept.core]
theorem Laid.pow_eq (l : Laid s h c u) : u.core.pow = c.pow := by rw [l.kept.core]
theorem Laid.time_eq (l : Laid s h c u) : u.core.time = c.time := by rw [l.kept.core]
theorem Laid.counters_eq (l : Laid s h c u) : u.core.obs.counters = c.obs.counters := by rw [l.kept.core]
theorem Laid.modSys (f : Sys → Sys) (l : Laid s h c u) : Laid s h { c with sys := f c.sys } (u.modSys f) := by
  obtain ⟨k, hm, hd, hl, h64⟩ := l
  refine ⟨⟨k.hw, k.loft, k.err, k.table, k.free, k.queue, ?_, k.others, k.bytes, k.out⟩, hm, hd, hl, h64⟩
  have := k.core
  simp only [State.modSys_core]
  conv => lhs; rw [this]
theorem Laid.modRing (f : Rings → Rings) (l : Laid s h c u) : Laid s h { c with ring := f c.ring } (u.modRing f) := by
  obtain ⟨k, hm, hd, hl, h64⟩ := l
  refine ⟨⟨k.hw, k.loft, k.err, k.table, k.free, k.queue, ?_, k.others, k.bytes, k.out⟩, hm, hd, hl, h64⟩
  have := k.core
  simp only [State.modRing_core]
  conv => lhs; rw [this]
theorem Laid.modWork (f : Work → Work) (l : Laid s h c u) : Laid s h { c with work := f c.work } (u.modWork f) := by
  obtain ⟨k, hm, hd, hl, h64⟩ := l
  refine ⟨⟨k.hw, k.loft, k.err, k.table, k.free, k.queue, ?_, k.others, k.bytes, k.out⟩, hm, hd, hl, h64⟩
  have := k.core
  simp only [State.modWork_core]
  conv => lhs; rw [this]
theorem Laid.modChans (f : List Chan → List Chan) (l : Laid s h c u) : Laid s h { c with chans := f c.chans } (u.modChans f) := by
  obtain ⟨k, hm, hd, hl, h64⟩ := l
  refine ⟨⟨k.hw, k.loft, k.err, k.table, k.free, k.queue, ?_, k.others, k.bytes, k.out⟩, hm, hd, hl, h64⟩
  have := k.core
  simp only [State.modChans_core]
  conv => lhs; rw [this]
theorem Laid.modMap (f : MapSt → MapSt) (l : Laid s h c u) : Laid s h { c with map := f c.map } (u.modMap f) := by
  obtain ⟨k, hm, hd, hl, h64⟩ := l
  refine ⟨⟨k.hw, k.loft, k.err, k.table, k.free, k.queue, ?_, k.others, k.bytes, k.out⟩, hm, hd, hl, h64⟩
  have := k.core
  simp only [State.modMap_core]
  conv => lhs; rw [this]
theorem Laid.modAir (f : Air → Air) (l : Laid s h c u) : Laid s h { c with air := f c.air } (u.modAir f) := by
  obtain ⟨k, hm, hd, hl, h64⟩ := l
  refine ⟨⟨k.hw, k.loft, k.err, k.table, k.free, k.queue, ?_, k.others, k.bytes, k.out⟩, hm, hd, hl, h64⟩
  have := k.core
  simp only [State.modAir_core]
  conv => lhs; rw [this]
theorem Laid.modScu (f : Scu → Scu) (l : Laid s h c u) : Laid s h { c with scu := f c.scu } (u.modScu f) := by
  obtain ⟨k, hm, hd, hl, h64⟩ := l
  refine ⟨⟨k.hw, k.loft, k.err, k.table, k.free, k.queue, ?_, k.others, k.bytes, k.out⟩, hm, hd, hl, h64⟩
  have := k.core
  simp only [State.modScu_core]
  conv => lhs; rw [this]
theorem Laid.modFus (f : Fus → Fus) (l : Laid s h c u) : Laid s h { c with fus := f c.fus } (u.modFus f) := by
  obtain ⟨k, hm, hd, hl, h64⟩ := l
  refine ⟨⟨k.hw, k.loft, k.err, k.table, k.free, k.queue, ?_, k.others, k.bytes, k.out⟩, hm, hd, hl, h64⟩
  have := k.core
  simp only [State.modFus_core]
  conv => lhs; rw [this]
theorem Laid.modTiers (f : Tiers → Tiers) (l : Laid s h c u) : Laid s h { c with tiers := f c.tiers } (u.modTiers f) := by
  obtain ⟨k, hm, hd, hl, h64⟩ := l
  refine ⟨⟨k.hw, k.loft, k.err, k.table, k.free, k.queue, ?_, k.others, k.bytes, k.out⟩, hm, hd, hl, h64⟩
  have := k.core
  simp only [State.modTiers_core]
  conv => lhs; rw [this]
theorem Laid.modFab (f : Fabric → Fabric) (l : Laid s h c u) : Laid s h { c with fab := f c.fab } (u.modFab f) := by
  obtain ⟨k, hm, hd, hl, h64⟩ := l
  refine ⟨⟨k.hw, k.loft, k.err, k.table, k.free, k.queue, ?_, k.others, k.bytes, k.out⟩, hm, hd, hl, h64⟩
  have := k.core
  simp only [State.modFab_core]
  conv => lhs; rw [this]
theorem Laid.modSec (f : Sec → Sec) (l : Laid s h c u) : Laid s h { c with sec := f c.sec } (u.modSec f) := by
  obtain ⟨k, hm, hd, hl, h64⟩ := l
  refine ⟨⟨k.hw, k.loft, k.err, k.table, k.free, k.queue, ?_, k.others, k.bytes, k.out⟩, hm, hd, hl, h64⟩
  have := k.core
  simp only [State.modSec_core]
  conv => lhs; rw [this]
theorem Laid.modLink (f : Link → Link) (l : Laid s h c u) : Laid s h { c with link := f c.link } (u.modLink f) := by
  obtain ⟨k, hm, hd, hl, h64⟩ := l
  refine ⟨⟨k.hw, k.loft, k.err, k.table, k.free, k.queue, ?_, k.others, k.bytes, k.out⟩, hm, hd, hl, h64⟩
  have := k.core
  simp only [State.modLink_core]
  conv => lhs; rw [this]
theorem Laid.modPow (f : Pow → Pow) (l : Laid s h c u) : Laid s h { c with pow := f c.pow } (u.modPow f) := by
  obtain ⟨k, hm, hd, hl, h64⟩ := l
  refine ⟨⟨k.hw, k.loft, k.err, k.table, k.free, k.queue, ?_, k.others, k.bytes, k.out⟩, hm, hd, hl, h64⟩
  have := k.core
  simp only [State.modPow_core]
  conv => lhs; rw [this]
end Groups

end Sys2Proof.Machine
end

