-- ==== Sys2Proof/WellFormed.lean ====
section
/-! DEFINITION. Which commands are well formed: every operand within the range the spec gives it (hatches R80, areas R59,
channels and ports R3, BAR0 offsets and widths R81, R17, error registers R525). The meanings are total: they also answer
ill-formed operands, with no effect on what the operand does not name. -/
namespace Sys2Proof

/-- A hatch number, R80. -/
def hatchOk (h : Nat) : Bool := decide (h < 64)
/-- Widths of a host access: 1, 2, 4 or 8 bytes. -/
def okWidth (w : Nat) : Bool := w == 1 || w == 2 || w == 4 || w == 8
/-- OWN_SET of a HATCH_CTL value (R84). -/
def ownSetBit (v : Nat) : Bool := v.testBit 2
/-- A value fits the half, or the whole, of a 64-bit register (R16). -/
def halfOk (h : Half) (v : Nat) : Bool :=
  match h with
  | .full => decide (v < 2 ^ 64)
  | .lower => decide (v < 2 ^ 32)
  | .upper => decide (v < 2 ^ 32)

/-- The check of each command's operands. -/
def Instr.wellFormed : Instr → Bool
  | .hatchWrite off width value => decide (off + width ≤ 0x4000) && okWidth width && decide (value < 2 ^ (8 * width))
  | .ownSet hatch value => hatchOk hatch && decide (value < 2 ^ 32) && ownSetBit value
  | .vectorWrite hatch value => hatchOk hatch && decide (value < 2 ^ 32) && !ownSetBit value
  | .patienceExpiry hatch => hatchOk hatch
  | .capQuery hatch => hatchOk hatch
  | .devState hatch => hatchOk hatch
  | .powerCap hatch => hatchOk hatch
  | .eventRingSet hatch => hatchOk hatch
  | .channelRole hatch => hatchOk hatch
  | .coreReset hatch => hatchOk hatch
  | .coreResetTimer => true
  | .echo hatch => hatchOk hatch
  | .bootLoad hatch _ => hatchOk hatch
  | .telemetry hatch => hatchOk hatch
  | .channelTest hatch => hatchOk hatch
  | .sessionOpen hatch => hatchOk hatch
  | .sessionClose hatch => hatchOk hatch
  | .sessionCloseDone hatch => hatchOk hatch
  | .sessionConfig hatch => hatchOk hatch
  | .sessionSensor hatch _ => hatchOk hatch
  | .sessionQuery hatch => hatchOk hatch
  | .sessionCheckpoint hatch => hatchOk hatch
  | .sessionMove hatch => hatchOk hatch
  | .sessionMoveDone hatch => hatchOk hatch
  | .streamBind hatch => hatchOk hatch
  | .streamUnbind hatch => hatchOk hatch
  | .batchSubmit hatch _ => hatchOk hatch
  | .batchComplete hatch => hatchOk hatch
  | .resultAreaSet hatch => hatchOk hatch
  | .rareaRdWrite area value => decide (area < 16) && decide (value < 2 ^ 32)
  | .resultIrqTimer area => decide (area < 16)
  | .evringRdWrite value => decide (value < 2 ^ 32)
  | .mapLoad hatch _ => hatchOk hatch
  | .mapLoadDone hatch _ => hatchOk hatch
  | .mapSave hatch => hatchOk hatch
  | .mapSaveDone hatch => hatchOk hatch
  | .mapInfo hatch => hatchOk hatch
  | .mapOriginSet hatch => hatchOk hatch
  | .mapOptimise hatch => hatchOk hatch
  | .mapOptimiseDone hatch => hatchOk hatch
  | .crateLoad hatch => hatchOk hatch
  | .crateLoadDone hatch _ => hatchOk hatch
  | .crateUnload hatch => hatchOk hatch
  | .crateInfo hatch => hatchOk hatch
  | .graphLoad hatch => hatchOk hatch
  | .graphLoadDone hatch _ => hatchOk hatch
  | .graphUnload hatch => hatchOk hatch
  | .graphUnloadDone hatch => hatchOk hatch
  | .timeStatus hatch => hatchOk hatch
  | .airEpochSet hatch => hatchOk hatch
  | .ptpPortSet hatch => hatchOk hatch
  | .eventAdd hatch => hatchOk hatch
  | .eventRemove hatch => hatchOk hatch
  | .tevSet hatch => hatchOk hatch
  | .launchQueue hatch _ => hatchOk hatch
  | .scuChainSet hatch => hatchOk hatch
  | .scuCoeffLoad hatch _ => hatchOk hatch
  | .scuChainRun hatch => hatchOk hatch
  | .chainStopDone hatch => hatchOk hatch
  | .soundingBind hatch => hatchOk hatch
  | .soundingUnbind hatch => hatchOk hatch
  | .antennaSet hatch _ => hatchOk hatch
  | .certRead hatch => hatchOk hatch
  | .attest hatch => hatchOk hatch
  | .contextCreate hatch _ => hatchOk hatch
  | .contextDestroy hatch => hatchOk hatch
  | .contextDestroyDone hatch => hatchOk hatch
  | .confEnter hatch => hatchOk hatch
  | .confExit hatch => hatchOk hatch
  | .modeSwitchDone hatch => hatchOk hatch
  | .keyRotate hatch => hatchOk hatch
  | .keyRotateDone hatch => hatchOk hatch
  | .counterSnapshot hatch => hatchOk hatch
  | .traceSet hatch => hatchOk hatch
  | .errDetailRead hatch => hatchOk hatch
  | .loftRead hatch => hatchOk hatch
  | .loftStore hatch _ _ => hatchOk hatch
  | .startLogRead hatch => hatchOk hatch
  | .systemInfo hatch => hatchOk hatch
  | .deltaIntervalSet hatch => hatchOk hatch
  | .linkRetrain hatch => hatchOk hatch
  | .linkRetrainTimeout hatch => hatchOk hatch
  | .errClear index value => decide (index < 16) && decide (value < 2 ^ 32)
  | .timeDtRead _ => true
  | .measSeqRead => true
  | .linkMeasSeqRead => true
  | .halfReadLatch r => decide (r.off + r.width ≤ 0x4000000) && okWidth r.width
  | .timeIncWrite half value => halfOk half value
  | .timeStepWrite half value => halfOk half value
  | .capturePop source value => decide (source < 5) && decide (value < 2 ^ 32)
  | .ppsCtlWrite value => decide (value < 2 ^ 32)
  | .registerWrite off width value _ => decide (off + width ≤ 0x400000) && okWidth width && decide (value < 2 ^ (8 * width))
  | .bar2Read _ len _ => decide (0 < len)
  | .bar2Write _ => true
  | .unsupportedRequest => true
  | .dmaCompletionTimeout _ _ => true
  | .powerOn => true
  | .resetN => true
  | .perstN => true
  | .refclkStop => true
  | .watchdogReset => true
  | .startStepEnd _ => true
  | .startStepTimeout _ => true
  | .recoveryReset => true
  | .strapChange devid _ bootSrc => decide (devid < 8) && decide (bootSrc < 4)
  | .pwrCapSample pins => decide (pins < 4)
  | .powerWindow _ => true
  | .powerLimiterWindow _ => true
  | .thermalSample _ _ => true
  | .checkpointTimer sid => decide (sid < 16384)
  | .instanceCreate ch slot => decide (ch < 8) && decide (slot < 64)
  | .stepDispatch ch engine _ => decide (ch < 8) && decide (engine < 6)
  | .stepEnded ch engine => decide (ch < 8) && decide (engine < 6)
  | .dmaIn ch _ _ => decide (ch < 8)
  | .imagingStep ch _ => decide (ch < 8)
  | .hypothesiseAndVerify ch => decide (ch < 8)
  | .epipolarGather ch => decide (ch < 8)
  | .tensorStep ch _ _ => decide (ch < 8)
  | .weightTileArrival ch => decide (ch < 8)
  | .tierStallLimit ch engine => decide (ch < 8) && decide (engine < 6)
  | .splitRequest ch _ _ _ => decide (ch < 8)
  | .splitResult ch _ _ _ => decide (ch < 8)
  | .solverStep ch _ _ _ => decide (ch < 8)
  | .predict ch => decide (ch < 8)
  | .grid ch => decide (ch < 8)
  | .radio ch => decide (ch < 8)
  | .tracks ch => decide (ch < 8)
  | .ctxTake ch _ _ => decide (ch < 8)
  | .relocOutcome ch _ => decide (ch < 8)
  | .relocWaitTimeout ch _ => decide (ch < 8)
  | .ctxPeek ch _ => decide (ch < 8)
  | .result ch _ => decide (ch < 8)
  | .selfTestSlice ch _ => decide (ch < 8)
  | .channelFailure ch _ engine => decide (ch < 8) && decide (engine < 6)
  | .engineHang ch engine => decide (ch < 8) && decide (engine < 6)
  | .mapRequest ch _ => decide (ch < 8)
  | .insertionBatch _ => true
  | .loopClosureSearch _ => true
  | .loopClosureCommit _ => true
  | .mapJobStart _ => true
  | .mapCommit _ _ => true
  | .eventFire _ => true
  | .tevPulseEnd pin => decide (pin < 4)
  | .ppsOutEdge => true
  | .captureEdge source _ => decide (source < 5)
  | .ptpFrameRx port _ _ => decide (port < 2)
  | .ptpMessageSend port _ => decide (port < 2)
  | .ptpAnnounceTimeout port => decide (port < 2)
  | .holdoverTimeout => true
  | .clockClassTimer => true
  | .epFrameRx port _ _ => decide (port < 2)
  | .symbolIncomplete _ => true
  | .elementRebuild _ => true
  | .testInjectionBlock chain => decide (chain < 32)
  | .refTimeout _ => true
  | .quarantineEnd _ source => decide (source < 2)
  | .anchorQuarantineEnd array => decide (array < 8)
  | .obsExpire _ _ => true
  | .migrationEpoch _ => true
  | .heatDecay => true
  | .patrolScrubRead _ _ => true
  | .lateAccess requester _ _ => decide (requester < 56)
  | .controllerRetrain _ controller => decide (controller < 16)
  | .retrainEnd _ controller _ => decide (controller < 16)
  | .arbiterDecision arbiter _ _ => decide (arbiter < 24)
  | .starvation arbiter requester => decide (arbiter < 24) && decide (requester < 56)
  | .turnClose => true
  | .turnDrainLimit => true
  | .scrubBegin => true
  | .scrubEnd => true
  | .counterLatch => true
  | .traceSync => true
  | .mpSignalPoll port _ => decide (port < 4)
  | .mpTrainingEnd port _ => decide (port < 4)
  | .mpRetryTimer port => decide (port < 4)
  | .mpSignalLost port => decide (port < 4)
  | .mpFrameSend port => decide (port < 4)
  | .mpFrameRx port _ _ => decide (port < 4)
  | .deltaBatchTick => true
  | .mapLockGrant => true
  | .catchUp port => decide (port < 4)
  | .powerLoss _ => true
  | .resetRelease => true
  | .refclkReturn => true
  | .epLinkDown port => decide (port < 2)
  | .epLinkUp port => decide (port < 2)
  | .ctxTakeDeadline ch _ => decide (ch < 8)
  | .failureMoveDone sid => decide (sid < 16384)
  | .generationSweep _ => true
  | .sharedBlockRestored ch slot => decide (ch < 8) && decide (slot < 64)
  | .unexpectedCompletion => true
  | .linkLayerError _ => true

end Sys2Proof
end

