-- ==== Sys2Proof/Tests/Slice0.lean ====
section
/-! SUPPORT. The author's own tests: the ill-formed operands that WellFormed refuses, and for each statement of Obligations.lean
small states and requests that meet its hypotheses, each with one step taken on them. Expected results are written out from the
rules of spec/ that the statement cites. -/
open Sys2Proof Sys2Proof.Machine
namespace Sys2Proof.Tests
set_option Elab.async false

/-! ### Ill-formed operands -/

theorem test_wf_hatch : (Instr.capQuery 64).wellFormed = false ∧ (Instr.capQuery 63).wellFormed = true := by decide
theorem test_wf_hatchWrite : (Instr.hatchWrite 0x3FFE 4 0).wellFormed = false ∧ (Instr.hatchWrite 0 3 0).wellFormed = false ∧
    (Instr.hatchWrite 0 1 256).wellFormed = false ∧ (Instr.hatchWrite 0x3FFC 4 0xFFFFFFFF).wellFormed = true := by decide
theorem test_wf_ownSet : (Instr.ownSet 0 0).wellFormed = false ∧ (Instr.ownSet 64 4).wellFormed = false ∧
    (Instr.ownSet 0 (2 ^ 32 + 4)).wellFormed = false ∧ (Instr.ownSet 63 4).wellFormed = true := by decide
theorem test_wf_vectorWrite : (Instr.vectorWrite 0 4).wellFormed = false ∧ (Instr.vectorWrite 0 (2 ^ 32)).wellFormed = false ∧
    (Instr.vectorWrite 63 0x3F00).wellFormed = true := by decide
theorem test_wf_area : (Instr.rareaRdWrite 16 0).wellFormed = false ∧ (Instr.rareaRdWrite 0 (2 ^ 32)).wellFormed = false ∧
    (Instr.rareaRdWrite 15 0).wellFormed = true ∧ (Instr.resultIrqTimer 16).wellFormed = false ∧
    (Instr.evringRdWrite (2 ^ 32)).wellFormed = false := by decide
theorem test_wf_errClear : (Instr.errClear 16 0).wellFormed = false ∧ (Instr.errClear 15 (2 ^ 32)).wellFormed = false ∧
    (Instr.errClear 15 1).wellFormed = true := by decide
theorem test_wf_half : (Instr.timeIncWrite .lower (2 ^ 32)).wellFormed = false ∧ (Instr.timeStepWrite .full (2 ^ 64)).wellFormed = false ∧
    (Instr.timeStepWrite .upper (2 ^ 32)).wellFormed = false ∧ (Instr.timeIncWrite .full (2 ^ 40)).wellFormed = true ∧
    (Instr.halfReadLatch ⟨0x4000000, 4⟩).wellFormed = false ∧ (Instr.halfReadLatch ⟨2, 3⟩).wellFormed = false := by decide
theorem test_wf_register : (Instr.registerWrite 0x3FFFFE 4 0 false).wellFormed = false ∧
    (Instr.registerWrite 0 3 0 false).wellFormed = false ∧ (Instr.registerWrite 0 1 256 false).wellFormed = false ∧
    (Instr.capturePop 5 0).wellFormed = false ∧ (Instr.ppsCtlWrite (2 ^ 32)).wellFormed = false ∧
    (Instr.bar2Read 0 0 .clean).wellFormed = false := by decide
theorem test_wf_numbers : (Instr.strapChange 8 false 0).wellFormed = false ∧ (Instr.strapChange 0 false 4).wellFormed = false ∧
    (Instr.pwrCapSample 4).wellFormed = false ∧ (Instr.checkpointTimer 16384).wellFormed = false ∧
    (Instr.instanceCreate 8 0).wellFormed = false ∧ (Instr.instanceCreate 0 64).wellFormed = false ∧
    (Instr.stepEnded 0 6).wellFormed = false ∧ (Instr.tevPulseEnd 4).wellFormed = false ∧ (Instr.captureEdge 5 true).wellFormed = false ∧
    (Instr.ptpAnnounceTimeout 2).wellFormed = false ∧ (Instr.testInjectionBlock 32).wellFormed = false ∧
    (Instr.quarantineEnd 0 2).wellFormed = false ∧ (Instr.anchorQuarantineEnd 8).wellFormed = false ∧
    (Instr.lateAccess 56 false .migration).wellFormed = false ∧ (Instr.controllerRetrain true 16).wellFormed = false ∧
    (Instr.arbiterDecision 24 0 []).wellFormed = false ∧ (Instr.mpFrameSend 4).wellFormed = false ∧
    (Instr.failureMoveDone 16384).wellFormed = false := by decide

/-! ### Small states and what is asked of the next -/

/-- What the next state is asked; a fault or a refusal meets nothing. -/
def after (o : Host.Outcome State Fault Refusal) (f : State → Bool) : Bool :=
  match o with
  | .next t => f t
  | _ => false

/-- The response of `Answered`, as a test. -/
def answered (s : State) (h status : Nat) (payload : List Byte) (t : State) : Bool :=
  let c := ctlAt t h
  !c.own && c.pend == (status == 1) && t.core.hat.done.getLsbD h &&
  Mem.bytes t.core.hat.mem (256 * h) 5 == Mem.bytes s.core.hat.mem (256 * h) 5 &&
  Mem.read t.core.hat.mem (256 * h + 5) == BitVec.ofNat 8 status && Mem.bytes t.core.hat.mem (256 * h + 8) 8 == leBytes 8 (dtOf s) &&
  Mem.bytes t.core.hat.mem (256 * h + 6) 2 == leBytes 2 payload.length && Mem.bytes t.core.hat.mem (256 * h + 16) payload.length == payload

/-- Nothing of the core but the hatches and the trace differs from c, and nothing outside it but messages sent. -/
def kept (s : State) (h : Nat) (c : Core) (t : State) : Bool :=
  t.hw == s.hw && t.loft == s.loft && t.err == s.err && t.pcie.table == s.pcie.table && t.free == s.free && t.pending == s.pending &&
  t.core == { c with
    hat := t.core.hat
    obs := { c.obs with buf := t.core.obs.buf, seq := t.core.obs.seq, sent := t.core.obs.sent, lost := t.core.obs.lost } } &&
  setAt t.core.hat.ctl h {} == setAt s.core.hat.ctl h {} &&
  Mem.clear t.core.hat.mem (256 * h) 256 == Mem.clear s.core.hat.mem (256 * h) 256 &&
  t.out.take s.out.length == s.out && (t.out.drop s.out.length).all (fun o => match o with
    | .msi _ _ _ => true
    | _ => false)

/-- `Responds`, as a test. -/
def responds (s : State) (h status : Nat) (payload : List Byte) (c : Core) (o : Host.Outcome State Fault Refusal) : Bool :=
  after o (fun t => answered s h status payload t && kept s h c t)
/-- `Accepts`, as a test. -/
def accepts (s : State) (h : Nat) (j : Job) (c : Core) (o : Host.Outcome State Fault Refusal) : Bool :=
  after o (fun t => answered s h 1 [] t && jobAt t h == some j && kept s h c t)
/-- A counter shows n more. -/
def counted (s : State) (addr n : Nat) (t : State) : Bool :=
  NMap.getD t.core.obs.counters addr 0 == NMap.getD s.core.obs.counters addr 0 + n

/-- A HYN-968 in service at DT 5 s: channel 7 is the map channel, the device keeps its own map, and nothing else is set. -/
def live : State :=
  { core := {
      sys := { phase := .ready, step := 10 }
      chans := (List.range 8).map (fun n => { inService := true, mapRole := n == 7 })
      time := { acc := BitVec.ofNat 96 (5000000000 * 2 ^ 32) }
      link := { decided := true } } }

/-- A request laid in hatch h and handed over (R82, R90). -/
def askAs (s : State) (h op ctx flags patience : Nat) (p : List Byte) : State :=
  (s.modHat (fun a =>
    { a with
      mem := Mem.write a.mem (256 * h) (leBytes 2 op ++ leBytes 2 7 ++ leBytes 1 ctx ++ leBytes 1 flags ++ leBytes 2 p.length ++ leBytes 8 patience ++ p)
      queueM := if h < 8 then [h] else []
      queueG := if h < 8 then [] else [h] })).modCtl h (fun c => { c with own := true })
/-- The same for context 0, without an interrupt, with no limit of patience. -/
def ask (s : State) (h op : Nat) (p : List Byte) : State := askAs s h op 0 0 0 p
/-- A job waiting for its end in hatch h (R88). -/
def working (s : State) (h : Nat) (j : Job) : State := s.modCtl h (fun c => { c with pend := true, job := some j })
/-- DT moved on to a number of ns. -/
def atDt (s : State) (ns : Nat) : State := s.modTime (fun t => { t with acc := BitVec.ofNat 96 (ns * 2 ^ 32) })

/-! ### The queue -/

theorem test_step_front : after (step { live with pending := [.rareaRdWrite 3 9, .heatDecay] })
    (fun t => t.pending == [.heatDecay] && (areaAt t 3).rd == 9) = true := by decide +kernel
theorem test_step_idle : after (step State.reset) (fun t => t == State.reset) = true := by decide +kernel

/-! ### Reports and the commands on the device -/

/-- FailedRequestsDoNothing: a request 1 ns past its patience; an unknown opcode; a short payload; a class M opcode in hatch 8; a
command that safe mode does not answer. -/
theorem test_failed_requests :
    (let s := askAs live 9 0x0101 0 0 4999999999 []
     (canTake s 9 && (reqOf s 9).op == 0x0101 && decide ((reqOf s 9).patience < dtOf s) &&
       responds s 9 0x16 [] s.core (exec (.capQuery 9) s)) = true) ∧
    (let s := ask live 9 0x0BFF []
     (canTake s 9 && requestFailure s (reqOf s 9) == some 0x10 && responds s 9 0x10 [] s.core (exec (.echo 9) s)) = true) ∧
    (let s := ask live 2 0x0103 [1]
     (canTake s 2 && requestFailure s (reqOf s 2) == some 0x11 && responds s 2 0x11 [] s.core (exec (.powerCap 2) s)) = true) ∧
    (let s := ask live 8 0x0103 [90, 0]
     (canTake s 8 && requestFailure s (reqOf s 8) == some 0x15 && responds s 8 0x15 [] s.core (exec (.powerCap 8) s)) = true) ∧
    (let s := ask (live.modSys (fun y => { y with phase := .safe })) 2 0x0103 [90, 0]
     (canTake s 2 && requestFailure s (reqOf s 2) == some 0x14 && responds s 2 0x14 [] s.core (exec (.powerCap 2) s)) = true) := by
  decide +kernel

/-- ReportCommandsOnlyAnswer. -/
theorem test_reports :
    (let s := ask live 63 0x0101 []
     (takes s 63 0x0101 [] && responds s 63 0 (capBlock s) s.core (exec (.capQuery 63) s)) = true) ∧
    (let s := ask live 9 0x0102 []
     (takes s 9 0x0102 [] && responds s 9 0 (devStateBlock s) s.core (exec (.devState 9) s)) = true) ∧
    (let s := ask live 9 0x0107 [1, 2, 3]
     (takes s 9 0x0107 [1, 2, 3] && responds s 9 0 [1, 2, 3] s.core (exec (.echo 9) s)) = true) ∧
    (let s := ask live 9 0x0109 []
     (takes s 9 0x0109 [] && responds s 9 0 (telemetryBlock s) s.core (exec (.telemetry 9) s)) = true) ∧
    (let s := ask live 9 0x0601 []
     (takes s 9 0x0601 [] && responds s 9 0 (timeStatusBlock s) s.core (exec (.timeStatus 9) s)) = true) ∧
    (let s := ask live 9 0x0503 [31]
     (takes s 9 0x0503 [31] && responds s 9 0 (crateInfoBlock none) s.core (exec (.crateInfo 9) s)) = true) ∧
    (let s := ask (live.modMap (fun m => { m with pin := 5 })) 9 0x0403 []
     (takes s 9 0x0403 [] && after (exec (.mapInfo 9) s) (fun t => Mem.read t.core.hat.mem (256 * 9 + 6) == 32 && kept s 9 s.core t)) = true) := by
  decide +kernel

/-- ReadOutCommandsWriteHostMemory, but for ATTEST's signature, which a secret key makes. -/
theorem test_read_out :
    (let p := leBytes 8 0x10000 ++ leBytes 4 16
     takes (ask live 9 0x0901 p) 9 0x0901 p = true) ∧
    (let p := leBytes 8 0x10000 ++ leBytes 4 528
     takes (ask live 9 0x0903 p) 9 0x0903 p = true) ∧
    (let p := leBytes 1 63 ++ leBytes 7 0 ++ leBytes 8 0x10000
     takes (ask live 1 0x0A01 p) 1 0x0A01 p = true) ∧
    (let p := leBytes 1 0 ++ leBytes 7 0 ++ leBytes 8 0x10000
     let s := ask live 1 0x0A01 p
     (takes s 1 0x0A01 p && after (exec (.loftRead 1) s) (fun t => answered s 1 0 [] t && t.out.length == 1)) = true) ∧
    (let p := leBytes 8 0x10000 ++ leBytes 4 16
     let s := ask live 1 0x0A04 p
     let u := s.emit (.dmaWrite 0x10000 (fitParts 16 (startLogParts s)))
     (takes s 1 0x0A04 p && responds u 1 0 (leBytes 4 (fitParts 16 (startLogParts s)).length) s.core (exec (.startLogRead 1) s)) = true) ∧
    (let p := leBytes 8 0x10000 ++ leBytes 4 2048
     takes (ask live 9 0x0801 p) 9 0x0801 p = true) ∧
    (let p := leBytes 8 0x10000 ++ leBytes 4 2048 ++ leBytes 4 0 ++ leBytes 16 1
     let s := ask live 9 0x0802 p
     (takes s 9 0x0802 p && !s.core.sec.selfTestBad) = true) ∧
    (let s := ask live 9 0x0B01 []
     (takes s 9 0x0B01 [] && after (exec (.systemInfo 9) s) (fun t =>
       Mem.bytes t.core.hat.mem (256 * 9 + 6) 2 == [8, 0] && Mem.read t.core.hat.mem (256 * 9 + 16) == 1 && kept s 9 s.core t)) = true) := by
  decide +kernel

/-- PowerCapStoresTheHatchCap: a value of the column, 0, and a value outside it. -/
theorem test_powerCap :
    (let s := ask (live.modPow (fun p => { p with pinCap := 60, hatchCap := 140 })) 0 0x0103 [90, 0]
     (takes s 0 0x0103 [90, 0] && fieldAt [90, 0] 0 2 == pinCapOf .hyn968 1 &&
       responds s 0 0 [60, 0, 60, 0, 90, 0] { s.core with pow := { s.core.pow with hatchCap := 90 } } (exec (.powerCap 0) s)) = true) ∧
    (let s := ask live 0 0x0103 [0, 0]
     (takes s 0 0x0103 [0, 0] && responds s 0 0 [140, 0, 140, 0, 140, 0] s.core (exec (.powerCap 0) s)) = true) ∧
    (let s := ask live 0 0x0103 [91, 0]
     (takes s 0 0x0103 [91, 0] && responds s 0 0x11 [] s.core (exec (.powerCap 0) s)) = true) := by
  decide +kernel

/-- DeviceCommandsTakeEffect. -/
theorem test_device :
    (let p := leBytes 8 0x1000 ++ leBytes 4 1024 ++ [63]
     let s := ask live 7 0x0104 p
     (takes s 7 0x0104 p && ringSize 1024 65536 1024 && after (exec (.eventRingSet 7) s) (fun t =>
       answered s 7 0 [] t && t.core.ring.evBase == 0x1000 && t.core.ring.evSize == 1024 && t.core.ring.evWr == 0)) = true) ∧
    (let s := ask live 0 0x0105 [6, 1]
     (takes s 0 0x0105 [6, 1] && channelCheck s 6 == none && decide ((mapChans s).length < mapChMax s) && !hasMapJob s 6 &&
       responds s 0 0 [] { s.core with chans := updAt s.core.chans 6 (fun x => { x with mapRole := true }) }
         (exec (.channelRole 0) s)) = true) ∧
    (let s := ask live 0 0x0106 []
     (takes s 0 0x0106 [] && responds s 0 0 [] { s.core with sys := { s.core.sys with coreResetAt := some 5001000000 } }
       (exec (.coreReset 0) s)) = true) ∧
    (let s := ask live 0 0x010A [0, 2]
     (takes s 0 0x010A [0, 2] && channelCheck s 0 == none && after (exec (.channelTest 0) s) (fun t =>
       answered s 0 0 [0] t && (chanAt t 0).testMode == 2)) = true) ∧
    (let p := leBytes 8 0x1000 ++ leBytes 4 65792
     takes (ask (live.modSys (fun y => { y with phase := .starting, step := 2, hostSource := true })) 0 0x0108 p) 0 0x0108 p = true) := by
  decide +kernel

/-! ### Sessions -/

/-- With result area 2 of 256 records set. -/
def areas : State := live.modRing (fun r => { r with areas := updAt r.areas 2 (fun _ => { base := 0x2000, size := 256, vector := 5, coalN := 4, coalUs := 10 }) })
/-- With a session of context 0 in a state besides. -/
def withSession (s : State) (sid chan : Nat) (st : SessState) : State :=
  s.modWork (fun w => { w with sess := NMap.set w.sess sid { (openedSession 0 chan 0 1 3 2) with state := st } })
def sessions : State := withSession (withSession areas 0 0 .normal) 1 1 .provisional

/-- SessionOpenPicksLowest: SIDs 0 and 1 and channels 0 and 1 are in use. -/
theorem test_sessionOpen_picks : pickSid sessions 0xFFFF = some 2 ∧ pickSid sessions 1 = none ∧ pickSid sessions 16383 = some 16383 ∧
    pickChannel sessions = some 2 ∧ pickChannel (sessions.modChan 2 (fun c => { c with testMode := 1 })) = some 3 := by decide +kernel

theorem test_sessionOpen :
    (let p := leBytes 2 0xFFFF ++ [1, 255, 3, 2]
     let s := ask sessions 8 0x0201 p
     (takes s 8 0x0201 p && areaSet s 2 && pickChannel s == some 2 &&
       responds s 8 0 [2, 0, 2] (s.core.withSess (NMap.set s.core.work.sess 2 (openedSession 0 2 5000000000 1 3 2))) (exec (.sessionOpen 8) s)) = true) ∧
    (let p := leBytes 2 16383 ++ [3, 6, 3, 2]
     let s := ask sessions 8 0x0201 p
     (takes s 8 0x0201 p && channelCheck s 6 == none && !(chanAt s 6).mapRole && pickSid s 16383 == some 16383 &&
       after (exec (.sessionOpen 8) s) (fun t => answered s 8 0 [255, 63, 6] t && (sessAt t 16383).isSome)) = true) := by
  decide +kernel

/-- SESSION_CONFIG of every field, at the ends of their ranges. -/
theorem test_sessionConfig :
    (let p := leBytes 2 0 ++ leBytes 2 0x7F ++ [3, 9, 2, 1] ++ leBytes 2 10000 ++ leBytes 2 1 ++ leBytes 2 10000 ++ leBytes 2 18000 ++ leBytes 2 1
     let s := ask (sessions.modSess 0 (fun x => { x with ctx := { x.ctx with lateDiscard := true } })) 8 0x0203 p
     (takes s 8 0x0203 p && !held (taken s 8) (.sid 0) && areaSet s 2 && after (exec (.sessionConfig 8) s) (fun t =>
       (sessAt t 0).map (fun y => (y.ctx.cfg, y.ctx.lateDiscard)) == some (({ cls := 3, group := 9, area := 2, horizonMs := 10000, latencyMs := 1, exitPos := 10000, exitHead := 18000, exitSigma := 1 } : SessCfg), false) && Mem.bytes t.core.hat.mem (256 * 8 + 5) 2 == [0, 18] &&
       kept s 8 { s.core with work := t.core.work } t)) = true) := by
  decide +kernel

/-- A request of SESSION_SENSOR for session 0's slot 3, of a type, with FX and a model for the rest. -/
def sensorAsk (type : Nat) (fx : Nat) : List Byte :=
  leBytes 2 0 ++ [3, BitVec.ofNat 8 type] ++ leBytes 2 640 ++ leBytes 2 480 ++ leBytes 4 fx ++ leBytes 4 0x43FA0000 ++ leBytes 76 0 ++ leBytes 4 0

theorem test_sessionSensor :
    (let p := sensorAsk 5 0
     let s := ask sessions 8 0x0204 p
     (takes s 8 0x0204 p && fieldAt p 3 1 == 5 && sensorOk (sensorOf (requestIn s 8 p) []) &&
       after (exec (.sessionSensor 8 []) s) (fun t => answered s 8 0 [] t &&
         (sessAt t 0).map (fun y => (y.ctx.sensors.getD 3 {}).type) == some 5)) = true) ∧
    (let p := sensorAsk 1 0x7FC00000
     let s := ask sessions 8 0x0204 p
     (takes s 8 0x0204 p && !sensorOk (sensorOf (requestIn s 8 p) []) &&
       responds s 8 0x11 [] s.core (exec (.sessionSensor 8 []) s)) = true) ∧
    (let p := sensorAsk 3 0
     let s := ask sessions 8 0x0204 p
     (takes s 8 0x0204 p && !bulkSealed s 0 && !sensorOk (sensorOf (requestIn s 8 p) (padTo 2048 []))) = true) := by
  decide +kernel

theorem test_sessionQuery :
    (let s := ask sessions 8 0x0205 [1, 0]
     (takes s 8 0x0205 [1, 0] && areaFree (areaAt s 2) == 256 && after (exec (.sessionQuery 8) s) (fun t =>
       answered s 8 0 [0, 0, 0, 0, 1] t && (areaAt t 2).wr == 1 && (areaAt t 2).reserved == 0)) = true) := by
  decide +kernel

theorem test_sessionCheckpoint :
    (let s := ask sessions 8 0x0206 [1, 0]
     (takes s 8 0x0206 [1, 0] && after (exec (.sessionCheckpoint 8) s) (fun t =>
       answered s 8 0 (leBytes 8 5000000000) t && (sessAt t 1).map (fun y => (y.nextSlot, y.lastCkpt, (y.ckpts.getD 0 none).isSome)) ==
         some (1, 5000000000, true))) = true) := by
  decide +kernel

/-- SESSION_CLOSE of an open session, and of one that moves. -/
theorem test_sessionClose :
    (let s := ask sessions 8 0x0202 [1, 0]
     (takes s 8 0x0202 [1, 0] && !held (taken s 8) (.sid 1) && after (exec (.sessionClose 8) s) (fun t =>
       answered s 8 1 [] t && jobAt t 8 == some (.sessionClose 1) && (sessAt t 1).map (·.state) == some .closing)) = true) ∧
    (let s := ask (withSession areas 4 1 .moving) 8 0x0202 [4, 0]
     (takes s 8 0x0202 [4, 0] && after (exec (.sessionClose 8) s) (fun t =>
       answered s 8 1 [] t && jobAt t 8 == some (.sessionClose 4) && (sessAt t 4).map (·.closeAfter) == some true)) = true) := by
  decide +kernel
theorem test_sessionCloseDone :
    (let s := working (withSession areas 4 1 .closing) 63 (.sessionClose 4)
     (jobAt s 63 == some (.sessionClose 4) && closeReady s 4 && after (exec (.sessionCloseDone 63) s) (fun t =>
       answered s 63 0 [] t && t.core.work.sess == [])) = true) := by
  decide +kernel
theorem test_sessionMove :
    (let s := ask sessions 8 0x0207 [0, 0, 1]
     (takes s 8 0x0207 [0, 0, 1] && channelCheck s 1 == none && after (exec (.sessionMove 8) s) (fun t =>
       answered s 8 1 [] t && jobAt t 8 == some (.sessionMove 0 1) &&
       (sessAt t 0).map (fun y => (y.state, y.before, y.moveTo)) == some (.moving, .normal, some (1, false)))) = true) ∧
    (let s := ask sessions 8 0x0207 [1, 0, 1]
     (takes s 8 0x0207 [1, 0, 1] && responds s 8 0 [] s.core (exec (.sessionMove 8) s)) = true) := by
  decide +kernel
theorem test_sessionMoveDone :
    (let m := (withSession areas 0 0 .moving).modSess 0 (fun x => { x with before := .normal, moveTo := some (1, false) })
     let s := working m 8 (.sessionMove 0 1)
     (sessInsts s 0 == [] && (ordinaryChans s).contains 1 && after (exec (.sessionMoveDone 8) s) (fun t => answered s 8 0 [] t &&
       (sessAt t 0).map (fun y => (y.state, y.chan, y.oweMoved)) == some (.normal, 1, true))) = true) ∧
    (let m := (withSession areas 0 0 .moving).modSess 0 (fun x => { x with before := .normal, moveTo := some (7, false) })
     let s := working m 8 (.sessionMove 0 7)
     (!(ordinaryChans s).contains 7 && after (exec (.sessionMoveDone 8) s) (fun t => answered s 8 0x3F [] t &&
       (sessAt t 0).map (·.chan) == some 0)) = true) := by
  decide +kernel
/-- Page 7 holds session contexts, and the granule of a session's context in it is torn, if the area's layout puts it there. -/
def tornPage (sid : Nat) : State :=
  sessions.modTiers (fun t => { t with
    torn := [(16 * 7 + contextGranule sid, (9, false))]
    pages := [(7, { near := true, frame := 4, hint := 0, use := 2 })] })
theorem test_torn (h : Config.objectOn 2 1 7 = true) : tornRead (tornPage 1) 1 = some (16 * 7 + contextGranule 1) := by
  have hg : contextGranule 1 < 16 := Nat.mod_lt _ (by decide)
  have hd : (16 * 7 + contextGranule 1) / 16 = 7 := by omega
  have hm : (16 * 7 + contextGranule 1) % 16 = contextGranule 1 := by omega
  simp [tornRead, tornContext, tornPage, sessions, State.modTiers, pageAt, NMap.get?, hd, hm, h]
  decide
theorem test_failureMoveDone :
    (let m := (withSession areas 0 0 .moving).modSess 0 (fun x => { x with moveTo := some (3, true), exitCount := 4 })
     after (exec (.failureMoveDone 0) m) (fun t => (sessAt t 0).map (fun y => (y.state, y.chan, y.exitCount)) == some (.provisional, 3, 0)) = true) ∧
    (let m := (withSession areas 0 0 .moving).modSess 0 (fun x => { x with before := .normal, moveTo := some (1, false) })
     (jobAt m 8 == none && after (exec (.failureMoveDone 0) m) (fun t => (sessAt t 0).map (fun y => (y.state, y.chan, y.moveTo, y.oweMoved)) ==
       some (.normal, 1, none, true))) = true) ∧
    after (exec (.checkpointTimer 1) sessions) (fun t => (sessAt t 1).map (fun y => (y.nextSlot, y.lastCkpt)) == some (1, 5000000000)) = true := by
  decide +kernel

/-! ### Streams, batches, result areas -/

/-- A graph for tests: DMA_IN into block 0, CTX_TAKE, RESULT; of a kind. -/
def step0 : GStep := { engine := 1, streaming := false, itemsMax := 1, countBlk := 0xFFFF, countOff := 0, param := [], crate := 255, progOff := 0,
                       ins := [], outs := [{ first := 0, count := 1 }] }
def graph0 (kind : Nat) : Graph :=
  { kind := kind, instances := 2, blocks := 2, shared := 0, crateMask := 0, image := [],
    steps := [step0, { step0 with engine := 8, ins := [{ first := 0, count := 1 }], outs := [{ first := 1, count := 1 }] },
              { step0 with engine := 9, ins := [{ first := 1, count := 1 }], outs := [] }] }
/-- The graph resident in slot 3 of channels 0 to 6. -/
def graphs (s : State) (kind : Nat) : State :=
  s.modWork (fun w => { w with graphs := (List.range 7).map (fun c => (slotKey c 3, { graph := graph0 kind, mask := 0x7F })) })

theorem test_streamBind :
    (let s := ask (graphs areas 1) 8 0x0208 [255, 1, 3, 0, 0, 0]
     (takes s 8 0x0208 [255, 1, 3, 0, 0, 0] && residentAll s 3 1 && !held (taken s 8) (.graph 3) &&
       responds s 8 0 [] (s.core.withStreams [(255, { kind := 1, graph := 3, deadlineMs := 50 })]) (exec (.streamBind 8) s)) = true) ∧
    (let s := ask (areas.modWork (fun w => { w with streams := [(5, { kind := 1, graph := 3, deadlineMs := 50 })] })) 8 0x0209 [5]
     (takes s 8 0x0209 [5] && responds s 8 0 [] (s.core.withStreams []) (exec (.streamUnbind 8) s)) = true) := by
  decide +kernel

/-- Two items of stream 5 for session 0, each wanting a record. -/
def itemBytes (addr : Nat) : List Byte := leBytes 8 addr ++ leBytes 4 640 ++ leBytes 2 0 ++ [5, 1] ++ leBytes 8 4000000000 ++ leBytes 8 0
/-- BATCH_SUBMIT of them into area 2, and into an area with one slot free. -/
theorem test_batchSubmit :
    (let p := leBytes 8 0x4000 ++ leBytes 2 2 ++ [2, 0] ++ leBytes 4 77 ++ leBytes 8 0
     let s := ask sessions 8 0x0301 p
     (takes s 8 0x0301 p && areaSet s 2 && !bulkSealed s 0 && after (exec (.batchSubmit 8 (itemBytes 0x5000 ++ itemBytes 0x6000)) s) (fun t =>
       answered s 8 1 [] t && jobAt t 8 == some (.batch 0) && t.core.work.nextBatch == 1 &&
       (batchAt t 0).map (fun y => (y.items.map (·.bytes), y.cookie, y.area, y.hatch)) ==
         some ([itemBytes 0x5000, itemBytes 0x6000], 77, 2, 8))) = true) ∧
    (let p := leBytes 8 0x4000 ++ leBytes 2 2 ++ [2, 0] ++ leBytes 4 77 ++ leBytes 8 0
     let s := ask (sessions.modArea 2 (fun a => { a with reserved := 255 })) 8 0x0301 p
     (takes s 8 0x0301 p && responds (s.emit (.dmaRead 0x4000 64)) 8 0x13 [] s.core
       (exec (.batchSubmit 8 (itemBytes 0x5000 ++ itemBytes 0x6000)) s)) = true) := by
  decide +kernel

/-- A batch whose two items ended with POISONED and DEADLINE. -/
def batch0 : Batch :=
  { hatch := 8, ctx := 0, area := 2, flags := 0, cookie := 77, deadline := 0,
    items := [{ bytes := itemBytes 0x5000, status := some 0x31, written := true }, { bytes := itemBytes 0x6000, status := some 0x20, written := true }] }
theorem test_batchComplete :
    batchStatus batch0 = 0x31 ∧
    (let s := working (sessions.modWork (fun w => { w with batches := [(4, batch0)] })) 8 (.batch 4)
     (batchAt s 4 == some batch0 && responds s 8 0x31 (batchCounts batch0) { s.core with work := { s.core.work with batches := [] } }
       (exec (.batchComplete 8) s)) = true) := by
  decide +kernel

theorem test_resultAreaSet :
    (let p := [15, 255] ++ leBytes 2 1024 ++ leBytes 4 1048576 ++ leBytes 8 0x3000 ++ leBytes 4 10000
     let s := ask live 8 0x0302 p
     (takes s 8 0x0302 p && ringSize 256 1048576 1048576 && responds (s.emit (.dmaWrite 0x3000 (leBytes 4 0))) 8 0 [] (s.core.withArea 15
       { base := 0x3000, size := 1048576, vector := 255, coalN := 1024, coalUs := 10000 }) (exec (.resultAreaSet 8) s)) = true) ∧
    (let p := [2, 0] ++ leBytes 2 0 ++ leBytes 4 0 ++ leBytes 8 0 ++ leBytes 4 0
     let s := ask areas 8 0x0302 p
     (takes s 8 0x0302 p && responds s 8 0 [] (s.core.withArea 2 {}) (exec (.resultAreaSet 8) s)) = true) ∧
    (let p := [2, 0] ++ leBytes 2 0 ++ leBytes 4 0 ++ leBytes 8 0 ++ leBytes 4 0
     let s := ask (areas.modArea 2 (fun a => { a with reserved := 1 })) 8 0x0302 p
     (takes s 8 0x0302 p && responds s 8 0x13 [] s.core (exec (.resultAreaSet 8) s)) = true) := by
  decide +kernel

/-- Ring counts, and a coalescing timer that ends now, its vector masked and not. -/
theorem test_rings :
    after (exec (.rareaRdWrite 15 7) live) (fun t => (areaAt t 15).rd == 7) = true ∧
    (let s := live.modRing (fun r => { r with evBase := 0x1000, evSize := 1024, evWr := 1024, evRd := 0, evHeld := [[1], [2]] })
     after (exec (.evringRdWrite 1) s) (fun t => t.core.ring.evHeld == [[2]] && evFree t.core.ring == 0) = true) ∧
    (let s := areas.modArea 2 (fun a => { a with since := 1, firstAt := 4999990000 })
     after (exec (.resultIrqTimer 2) s) (fun t => (areaAt t 2).since == 0 && t.pcie.pba.getLsbD 5 && t.out == []) = true) ∧
    (let s := areas.modArea 2 (fun a => { a with since := 1, firstAt := 4999990000 })
     let s := { s with pcie := { s.pcie with table := updAt s.pcie.table 5 (fun _ => { addr := 0xFEE00000, data := 9, ctrl := 0 }) } }
     after (exec (.resultIrqTimer 2) s) (fun t => (areaAt t 2).since == 0 && t.out == [.msi 5 0xFEE00000 9]) = true) := by
  decide +kernel

/-! ### The map -/

/-- A map-job graph in slot 5 of the map channel, and a region of 64 MiB. -/
def mapped : State :=
  ((live.modWork (fun w => { w with graphs := [(slotKey 7 5, { graph := { graph0 0x82 with steps := [{ step0 with engine := 9 }] }, mask := 0x80 })] })).modMap
    (fun m => { m with region := 67108864, pin := 9 }))
/-- A keyframe at the map's origin, without keypoints. -/
def kf0 : Kf :=
  { dt := 1, width := 80, height := 60, pos := [0, 0, 0], quat := [0x3F800000, 0, 0, 0], cam := [0, 0, 0, 0], prev := 0xFFFFFFFF,
    relT := [0, 0, 0], relQ := [0x3F800000, 0, 0, 0], place := List.replicate 512 100, kps := [] }
def oneKf (s : State) : State := s.modMap (fun m => { m with data := { m.data with kfs := [(0, kf0)], nextKf := 1 } })
/-- The header of an empty image. -/
def emptyHeader : List Byte :=
  padTo 256 (leBytes 4 0x48594D01 ++ leBytes 2 1 ++ List.replicate 42 0 ++ leBytes 8 256 ++ leBytes 8 0 ++ leBytes 8 256 ++ leBytes 8 0)

theorem test_mapLoad :
    (let p := leBytes 8 0x1000 ++ leBytes 8 256 ++ leBytes 4 30
     let s := ask mapped 0 0x0401 p
     (takes s 0 0x0401 p && isKeeper s && mapHeaderOk (padTo 256 emptyHeader) 256 && mapFits s (padTo 256 emptyHeader) &&
       after (exec (.mapLoad 0 emptyHeader) s) (fun t => answered s 0 1 [] t && jobAt t 0 == some (.mapLoad 0x1000 256 30) &&
         !t.core.map.inService)) = true) ∧
    (let p := leBytes 8 0x1000 ++ leBytes 8 256 ++ leBytes 4 30
     let s := ask mapped 0 0x0401 p
     (takes s 0 0x0401 p && !mapHeaderOk (padTo 256 []) 256 && responds (s.emit (.dmaRead 0x1000 256)) 0 0x11 [] s.core
       (exec (.mapLoad 0 []) s)) = true) ∧
    (let p := leBytes 8 0x1000 ++ leBytes 8 256 ++ leBytes 4 30
     let s := ask (mapped.modLink (fun l => { l with decided := false })) 0 0x0401 p
     (takes s 0 0x0401 p && !isKeeper s && responds s 0 0x15 [] s.core (exec (.mapLoad 0 emptyHeader) s)) = true) := by
  decide +kernel
theorem test_mapLoadDone :
    (let s := working (mapped.modMap (fun m => { m with inService := false })) 0 (.mapLoad 0x1000 256 30)
     (running s && jobAt s 0 == some (.mapLoad 0x1000 256 30)) = true) := by decide +kernel
theorem test_mapSave :
    (let p := leBytes 8 0x1000 ++ leBytes 8 256
     let s := ask mapped 0 0x0402 p
     (takes s 0 0x0402 p && imageLen s.core.map.data == 256 && accepts s 0 (.mapSave 0x1000 256 9) s.core (exec (.mapSave 0) s)) = true) ∧
    jobAt (working mapped 0 (.mapSave 0x1000 256 9)) 0 = some (.mapSave 0x1000 256 9) := by
  decide +kernel
theorem test_mapOriginSet :
    (let p := leInt 8 90000000000 ++ leInt 8 (-180000000000) ++ leInt 4 5
     let s := ask mapped 0 0x0404 p
     (takes s 0 0x0404 p && isKeeper s && originOk (intAt p 0 8) (intAt p 8 8) && liveKfs s.core.map.data == [] &&
       after (exec (.mapOriginSet 0) s) (fun t => answered s 0 0 [] t && t.core.map.data.lat == 90000000000 &&
         t.core.map.data.lon == -180000000000 && t.core.map.data.height == 5 && t.core.map.version == 9)) = true) ∧
    (let p := leInt 8 90000000001 ++ leInt 8 0 ++ leInt 4 5
     let s := ask mapped 0 0x0404 p
     (takes s 0 0x0404 p && !originOk (intAt p 0 8) (intAt p 8 8) && responds s 0 0x11 [] s.core (exec (.mapOriginSet 0) s)) = true) ∧
    (let p := leInt 8 0 ++ leInt 8 0 ++ leInt 4 5
     let s := ask (mapped.modLink (fun l => { l with decided := false })) 0 0x0404 p
     (takes s 0 0x0404 p && !isKeeper s && after (exec (.mapOriginSet 0) s) (fun t => (ctlAt t 0).own &&
       jobAt t 0 == some (.mapOrigin p))) = true) ∧
    (let p := leInt 8 0 ++ leInt 8 0 ++ leInt 4 5
     let s := ask sessions 0 0x0404 p
     (takes s 0 0x0404 p && responds s 0 0x13 [] s.core (exec (.mapOriginSet 0) s)) = true) := by
  decide +kernel
theorem test_mapOptimise :
    (let p := [255, 0] ++ leBytes 2 0 ++ leBytes 4 0 ++ leBytes 8 9000000000
     let s := ask mapped 0 0x0405 p
     (takes s 0 0x0405 p && minBy (fun n => ((chanAt s n).queue).length) (mapChans s) == some 7 && (mapGraphSlot s).isSome &&
       decide (jobsOn s 7 1 < 8)) = true) := by
  decide +kernel
/-- Jobs for tile 100: one waiting, one solved. -/
def waitingJob : MapJob := { kind := 1, hatch := some 0, chan := 7, deadline := 6000000000, cap := 0, tiles := [100], kfs := [0] }
def solvedJob : MapJob := { waitingJob with phase := 2, poses := [(0, f64Bytes [0x3FF0000000000000, 0, 0] ++ f32Bytes [0x3F800000, 0, 0, 0])] }
def withJob (s : State) (x : MapJob) : State := s.modMap (fun m => { m with jobs := [(3, x)], nextJob := 4 })
theorem test_mapOptimiseDone :
    (let x := { waitingJob with phase := 4, status := 0x00, iters := 5 }
     let s := working (withJob mapped x) 0 (.mapOptimise 3)
     (jobOf s 3 == some x && responds s 0 0 (optimiseResponse x) { s.core with map := { s.core.map with jobs := [] } }
       (exec (.mapOptimiseDone 0) s)) = true) ∧
    (let x := { waitingJob with deadline := 4999999999 }
     let s := working (withJob mapped x) 0 (.mapOptimise 3)
     (!hasLock s 3 && after (exec (.mapOptimiseDone 0) s) (fun t => answered s 0 0x20 (optimiseResponse (x.mark 4)) t &&
       jobOf t 3 == none && t.core.map.version == 9)) = true) := by
  decide +kernel

/-- A parcel at the map's origin, due since 500 ms have passed. -/
def parcels : State := mapped.modMap (fun m => { m with parcels := [{ kf := kf0, version := 9, sid := 1, dev := 0 }] })
theorem test_insertionBatch :
    insertDue parcels = true ∧
    after (exec (.insertionBatch false) parcels) (fun t => t.core.map.version == 10 && t.core.map.data.kfs.map (·.1) == [0] &&
      t.core.map.search == [0] && t.core.map.parcels == [] && counted parcels (mapCtr 0) 1 t) = true ∧
    after (exec (.insertionBatch true) parcels) (fun t => t.core.map.version == 9 && t.core.map.rootTorn && t.core.map.data == {} &&
      t.core.map.parcels == [] && counted parcels (mapCtr 5) 1 t) = true ∧
    (let s := mapped.modMap (fun m => { m with parcels := [{ kf := { kf0 with pos := [0x40B0000000000000, 0, 0] }, version := 9, sid := 1, dev := 0 }] })
     (insertDue s && after (exec (.insertionBatch false) s) (fun t => t.core.map.version == 9 && t.core.map.parcels == [] &&
       counted s (mapCtr 1) 1 t)) = true) := by
  decide +kernel

/-- A lock or a request of this device for job 3 on its tile. -/
def lock3 : TileLock := { devid := 0, job := 3, tiles := [100] }
theorem test_mapJobStart :
    (let s := (withJob mapped waitingJob).modLink (fun l => { l with locks := [lock3] })
     (hasLock s 3 && after (exec (.mapJobStart 3) s) (fun t => (jobOf t 3).map (·.phase) == some 1)) = true) ∧
    (let s := (withJob mapped waitingJob).modLink (fun l => { l with requests := [lock3] })
     (!hasLock s 3 && nextGrant s == some lock3 && !mapOwed s && ownLock s 3 lock3 && after (exec (.mapJobStart 3) s) (fun t =>
       (jobOf t 3).map (·.phase) == some 1 && t.core.link.locks == [lock3])) = true) ∧
    (let s := (withJob mapped waitingJob).modLink (fun l => { l with requests := [lock3], locks := [{ lock3 with devid := 2 }] })
     (!hasLock s 3 && nextGrant s == none && after (exec (.mapJobStart 3) s) (fun t =>
       (jobOf t 3).map (fun x => (x.phase, x.waited)) == some (0, true) && counted s (mapCtr 6) 1 t)) = true) := by
  decide +kernel
theorem test_mapCommit :
    (let s := (withJob (oneKf mapped) solvedJob).modLink (fun l => { l with locks := [lock3] })
     decide (shadowUsed s + mutablePages (jobPages s.core.map.data solvedJob) ≤ shadowPages s) = true ∧
     after (exec (.mapCommit 3 true) s) (fun t => t.core.map.version == 9 && t.core.map.rootTorn && t.core.link.locks == []) = true) ∧
    (let s := (withJob (oneKf mapped) { solvedJob with kind := 2, hatch := none, switch := 0 }).modLink (fun l => { l with locks := [lock3] })
     (switchLow s { solvedJob with kind := 2, hatch := none, switch := 0 } && after (exec (.loopClosureCommit 3) s) (fun t =>
       t.core.map.version == 9 && jobOf t 3 == none && counted s (mapCtr 12) 1 t)) = true) ∧
    (let x := { solvedJob with kind := 2, hatch := none }
     let s := withJob (oneKf mapped) x
     switchLow s x = false ∧ decide (shadowUsed s + mutablePages (jobPages s.core.map.data x) ≤ shadowPages s) = true) := by
  decide +kernel

/-- An instance of a graph on channel 0 that waits for a relocalisation. -/
def inst0 : Inst :=
  { slot := 3, origin := .item 0 0, ctx := 0, sid := some 0, arrival := 4000000000, deadline := 6000000000, mapVersion := 9,
    steps := [.waiting, .waiting, .waiting] }
def req0 : MapReq := { kind := .placeSearch, sid := 0, ch := 0, inst := 2, place := List.replicate 512 100, query := [], prior := none }
def searching (s : State) : State :=
  ((s.modChan 0 (fun c => { c with insts := [(2, inst0)] })).modChan 7 (fun c => { c with requests := [req0] }))
theorem test_searches :
    (let s := (oneKf mapped).modMap (fun m => { m with search := [0] })
     ((mapChans s).head? == some 7 && mapGraphSlot s == some 5 && after (exec (.loopClosureSearch 0) s) (fun t =>
       t.core.map.search == [] && t.core.map.version == 9)) = true) ∧
    (let s := searching mapped
     after (exec (.mapRequest 7 .placeSearch) s) (fun t => (chanAt t 7).requests == [] &&
       (instAt t 0 2).map (·.relocOut) == some (some [])) = true) := by
  decide +kernel

/-! ### Crates and graphs -/

theorem test_crates :
    (let p := [31] ++ leBytes 7 0 ++ leBytes 8 0x1000 ++ leBytes 8 512
     let s := ask live 0 0x0501 p
     (takes s 0 0x0501 p && !held (taken s 0) (.crate 31) && accepts s 0 (.crateLoad 31 0x1000 512) s.core (exec (.crateLoad 0) s)) = true) ∧
    (let s := working live 0 (.crateLoad 31 0x1000 512)
     (crateHeadStatus s (bytesAt (padTo 512 []) 0 512) 512 == some 0x11 && after (exec (.crateLoadDone 0 []) s) (fun t => answered s 0 0x11 [] t &&
       t.core.work == s.core.work)) = true) ∧
    (let s := ask (live.modWork (fun w => { w with crates := [(4, { header := [], measurement := [], body := [], state := 1, pages := [] })] })) 0 0x0502 [4]
     (takes s 0 0x0502 [4] && !crateUsed s 4 && after (exec (.crateUnload 0) s) (fun t => answered s 0 0 [] t && crateAt t 4 == none)) = true) := by
  decide +kernel

theorem test_graphs :
    (let p := [63, 1] ++ leBytes 6 0 ++ leBytes 8 0x1000 ++ leBytes 4 64
     let s := ask live 0 0x0504 p
     (takes s 0 0x0504 p && !held (taken s 0) (.graph 63) && !slotTaken s 63 1 && accepts s 0 (.graphLoad 63 1 0x1000 64) s.core
       (exec (.graphLoad 0) s)) = true) ∧
    (let s := working live 0 (.graphLoad 63 1 0x1000 64)
     (!graphOk s (padTo 64 []) && responds (s.emit (.dmaRead 0x1000 64)) 0 0x11 [] s.core (exec (.graphLoadDone 0 []) s)) = true) ∧
    (let s := ask (graphs live 1) 0 0x0505 [3, 0x7F]
     (takes s 0 0x0505 [3, 0x7F] && !held (taken s 0) (.graph 3) && after (exec (.graphUnload 0) s) (fun t => answered s 0 1 [] t &&
       jobAt t 0 == some (.graphUnload 3 0x7F) && residentAt t 6 3 == none)) = true) ∧
    (let s := working ((graphs live 1).modWork (fun w => { w with graphs := w.graphs.map (fun e => (e.1, { e.2 with resident := false })) })) 0 (.graphUnload 3 0x7F)
     after (exec (.graphUnloadDone 0) s) (fun t => answered s 0 0 [] t && graphAt t 0 3 == none && graphAt t 6 3 == none) = true) := by
  decide +kernel

/-- An image of R152 of kind 1 with one instance of two blocks: DMA_IN into block 0, CTX_TAKE from it into block 1, RESULT. Its CHECK
is the CRC-32 of IEEE 802.3, computed outside the model. -/
def stepEntry (engine : Nat) (ins outs : List Nat) : List Byte :=
  let range (b : Nat) : List Byte := leBytes 2 b ++ leBytes 2 1 ++ leBytes 4 0
  padTo 128 (leBytes 1 engine ++ leBytes 1 0 ++ leBytes 1 ins.length ++ leBytes 1 outs.length ++ leBytes 4 1 ++ leBytes 2 0xFFFF ++
    List.replicate 8 0 ++ leBytes 1 0xFF ++ List.replicate 13 0 ++ padTo 64 (ins.flatMap range) ++ outs.flatMap range)
def graphImage : List Byte :=
  padTo 64 (leBytes 4 0x48594701 ++ leBytes 2 1 ++ [1, 1] ++ leBytes 2 3 ++ leBytes 2 2 ++ leBytes 4 0 ++ leBytes 4 0 ++ leBytes 4 64 ++
    leBytes 4 448 ++ leBytes 4 0 ++ leBytes 4 0 ++ leBytes 4 0xC0D48A69) ++ stepEntry 1 [] [0] ++ stepEntry 8 [0] [1] ++ stepEntry 9 [1] []
set_option maxRecDepth 20000 in
theorem test_graphLoadDone :
    (let s := working live 0 (.graphLoad 63 0x81 0x1000 448)
     (graphOk s (padTo 448 graphImage) && after (exec (.graphLoadDone 0 graphImage) s) (fun t => answered s 0 0 [] t &&
       (graphAt t 0 63).isSome && (graphAt t 7 63).isSome && graphAt t 1 63 == none)) = true) := by
  decide +kernel

/-! ### Time -/

theorem test_airEpochSet :
    (let p := [3] ++ leBytes 7 0 ++ leInt 8 (-10239999999)
     let s := ask (live.modAir (fun a => { a with events := [(2, { next := 40000000000, period := 0, sfn := 0, action := 3, arg := 1 })] })) 0 0x0602 p
     (takes s 0 0x0602 p && epochOk (intAt p 8 8) && risingKeys s.core.air.events && after (exec (.airEpochSet 0) s) (fun t =>
       answered s 0 0 [] t && t.core.air.mu == 3 && t.core.air.epoch == -10239999999 && t.core.air.events == [])) = true) := by
  decide +kernel
theorem test_ptpPortSet :
    (let p := [1, 2, 43, 2] ++ leInt 4 (-7)
     let s := ask live 0 0x0603 p
     (takes s 0 0x0603 p && ptpFieldOk p && rolesOk 2 (ptpPortAt s 0).role && after (exec (.ptpPortSet 0) s) (fun t => answered s 0 0 [] t &&
       (ptpPortAt t 1).role == 2 && (ptpPortAt t 1).domain == 43 && (ptpPortAt t 1).stepMode == 2 && (ptpPortAt t 1).asym == -7)) = true) ∧
    (let p := [0, 0, 0, 0] ++ leInt 4 0
     let s := ask (live.modAir (fun a => { a with ports := [{ role := 1, state := .listening }, {}] })) 0 0x0603 p
     (takes s 0 0x0603 p && ptpFieldOk p && rolesOk 0 0 && after (exec (.ptpPortSet 0) s) (fun t => answered s 0 0 [] t &&
       (ptpPortAt t 0).role == 0 && (ptpPortAt t 0).state == .disabled)) = true) := by
  decide +kernel
/-- EVENT_ADD of a radio action at frame 1023, subframe 9, slot 1, symbol 13 with period 1,024. -/
theorem test_eventAdd :
    (let p := leBytes 2 1023 ++ [9, 1, 13, 3] ++ leBytes 2 1024 ++ leBytes 4 39999999 ++ leBytes 4 0x80000001
     let s := ask live 0 0x0604 p
     let next := firstInstant s 1023 9 1 13 1024 39999999
     (takes s 0 0x0604 p && argOk 3 0x80000001 && firstOf (actionChecks s 3 0x80000001) == none &&
       NMap.lowestFree s.core.air.events 65536 == some 0 && responds s 0 0 [0, 0]
         (s.core.withEvents [(0, { next := next, period := 1024, sfn := sfnOf s next, action := 3, arg := 0x80000001 })])
         (exec (.eventAdd 0) s)) = true) := by
  decide +kernel
/-- A table with a launch entry, a pin entry and a close-window entry. -/
def events : State :=
  live.modAir (fun a => { a with
    events := [(2, { next := 40000000000, period := 0, sfn := 5, action := 5, arg := 0x103 }),
               (3, { next := 40000000001, period := 1, sfn := 0, action := 6, arg := 0x11 }),
               (4, { next := 40000000002, period := 2, sfn := 0, action := 1, arg := 0x0007 })]
    launch := [(67, [1, 2])]
    tev := [{}, { mode := 3 }, {}, {}] })
theorem test_eventRemove :
    (let s := ask events 0 0x0605 [2, 0]
     (takes s 0 0x0605 [2, 0] && NMap.has s.core.air.events 2 && after (exec (.eventRemove 0) s) (fun t => answered s 0 0 [] t &&
       t.core.air.events.map (·.1) == [3, 4] && t.core.air.launch == [])) = true) ∧
    (let s := ask events 0 0x0605 [4, 0]
     (takes s 0 0x0605 [4, 0] && after (exec (.eventRemove 0) s) (fun t => answered s 0 0 [] t &&
       t.core.air.events.map (·.1) == [2, 3] && t.core.air.launch == [(67, [1, 2])])) = true) := by
  decide +kernel
theorem test_tevSet :
    (let s := ask live 0 0x0606 [3, 0]
     (takes s 0 0x0606 [3, 0] && responds s 0 0 [] s.core (exec (.tevSet 0) s)) = true) ∧
    (let s := ask live 0 0x0606 [3, 3]
     (takes s 0 0x0606 [3, 3] && responds (s.emit (.tevEdge 3 20000000000 false)) 0 0 []
       { s.core with air := { s.core.air with tev := [{}, {}, {}, { mode := 3 }] } } (exec (.tevSet 0) s)) = true) := by
  decide +kernel
theorem test_launchQueue :
    (let p := [1, 63] ++ leBytes 2 64 ++ leBytes 4 0 ++ leBytes 8 0x1000
     let s := ask live 8 0x0607 p
     (takes s 8 0x0607 p && responds (s.emit (.dmaRead 0x1000 60)) 8 0 [] (s.core.withLaunch [(127, padTo 60 [9])])
       (exec (.launchQueue 8 [9]) s)) = true) ∧
    (let p := [1, 63] ++ leBytes 2 64 ++ leBytes 4 0 ++ leBytes 8 0x1000
     let s := ask live 8 0x0607 p
     (takes s 8 0x0607 p && jobAt s 8 == none && after (exec (.dmaCompletionTimeout (.command 8) false) s) (fun t => answered s 8 0x30 [] t &&
       t.core.air.launch == [] && t.pcie.aerUncorr.getLsbD 14)) = true) := by
  decide +kernel

/-! ### The sample conditioning unit -/

theorem test_scuChains :
    (let p := [31, 1, 2, 0, 15, 0, 15, 96]
     let s := ask live 0 0x0701 p
     (takes s 0 0x0701 p && !held (taken s 0) (.chain 31) && after (exec (.scuChainSet 0) s) (fun t => answered s 0 0 [] t &&
       (scuChain t 31).shifts == [15, 0, 15] && (scuChain t 31).fir.length == 96 && (scuChain t 31).port == 1)) = true) ∧
    (let p := [31, 4, 1] ++ leBytes 5 0 ++ leBytes 8 0x1000
     let s := ask live 0 0x0702 p
     (takes s 0 0x0702 p && after (exec (.scuCoeffLoad 0 [0xFE, 0xFF]) s) (fun t => answered s 0 0 [] t && (scuChain t 31).fir == [-2])) = true) ∧
    (let p := [31, 3, 0] ++ leBytes 5 0 ++ leBytes 8 0x1000
     let s := ask live 0 0x0702 p
     (takes s 0 0x0702 p && responds s 0 0 [] (s.core.withChain 31 (fun x => x)) (exec (.scuCoeffLoad 0 []) s)) = true) := by
  decide +kernel
theorem test_scuChainRun :
    (let s := ask live 0 0x0703 [31, 1, 1]
     (takes s 0 0x0703 [31, 1, 1] && after (exec (.scuChainRun 0) s) (fun t => answered s 0 0 [] t && (scuChain t 31).run &&
       (scuChain t 31).owner == 1)) = true) ∧
    (let s := ask (live.modScuChain 31 (fun x => { x with run := true })) 0 0x0703 [31, 0, 0]
     (takes s 0 0x0703 [31, 0, 0] && s.core.scu.chains.length == 32 && after (exec (.scuChainRun 0) s) (fun t => (ctlAt t 0).own &&
       jobAt t 0 == some (.chainStop 31) && (scuChain t 31).stopping)) = true) ∧
    (let s := working (live.modScuChain 31 (fun x => { x with run := true, stopping := true })) 0 (.chainStop 31)
     (jobAt s 0 == some (.chainStop 31) && after (exec (.chainStopDone 0) s) (fun t => answered s 0 0 [] t && !(scuChain t 31).run)) = true) := by
  decide +kernel
def bindAsk : List Byte := leBytes 2 0 ++ [1, 0] ++ leBytes 2 5 ++ leBytes 2 1 ++ leBytes 2 272 ++ [8, 7] ++ leBytes 2 2560 ++ leBytes 2 2559 ++
  leBytes 4 1 ++ [13, 1]
def binding0 : Binding :=
  { sid := 0, port := 1, eaxc := 5, prb := 1, nprb := 272, comb := 8, combOff := 7, period := 2560, slotOff := 2559, chainMask := 1, sym := 13, nsym := 1 }
theorem test_soundings :
    (let s := ask sessions 0 0x0704 bindAsk
     (takes s 0 0x0704 bindAsk && bindOk s (requestIn s 0 bindAsk) && NMap.lowestFree s.core.scu.bindings 16384 == some 0 &&
       responds s 0 0 [0, 0] (s.core.withBindings [(0, binding0)]) (exec (.soundingBind 0) s)) = true) ∧
    (let s := ask (sessions.modScu (fun u => { u with bindings := [(9, binding0)] })) 0 0x0705 [9, 0]
     (takes s 0 0x0705 [9, 0] && after (exec (.soundingUnbind 0) s) (fun t => answered s 0 0 [] t && t.core.scu.bindings == [])) = true) := by
  decide +kernel
/-- ANTENNA_SET of array 7 with one element; and with a table whose count differs. -/
def antennaAsk : List Byte := [7, 1] ++ leBytes 18 0 ++ leBytes 2 0x4000 ++ leBytes 6 0 ++ leBytes 4 0 ++ leBytes 8 0x1000
def antennaTable (n : Nat) : List Byte := leBytes 2 1 ++ leBytes 2 n ++ leBytes 12 0 ++ leBytes 2 5 ++ [1, 0] ++ leBytes 28 0
theorem test_antennaSet :
    (let s := ask live 0 0x0706 antennaAsk
     (takes s 0 0x0706 antennaAsk && unitQuat ((List.range 4).map (fun i => intAt antennaAsk (0x14 + 2 * i) 2)) &&
       eaxcUnique s 7 (antennaOf (requestIn s 0 antennaAsk) (padTo 48 (antennaTable 1))) &&
       after (exec (.antennaSet 0 (antennaTable 1)) s) (fun t => answered s 0 0 [] t && (antennaAt t 7).elements.map (·.eaxc) == [5])) = true) ∧
    (let s := ask live 0 0x0706 antennaAsk
     (takes s 0 0x0706 antennaAsk && responds (s.emit (.dmaRead 0x1000 48)) 0 0x11 [] s.core (exec (.antennaSet 0 (antennaTable 2)) s)) = true) := by
  decide +kernel

/-! ### Security -/

/-- A tenant context 3, its page sweep idle. -/
def tenant : State := live.modSec (fun c => { c with contexts := [(0, {}), (3, { gen := 255 })] })
theorem test_contextCreate :
    (let p := leBytes 8 0x1000 ++ leBytes 8 (2 ^ 63 + 256)
     let s := ask live 0 0x0803 p
     (takes s 0 0x0803 p && (bitsSet (fieldAt p 8 8) 64).all (fun g => (ctlAt s g).assigned == 0) && freeContext s == some 1 &&
       !agreementOk (padTo 256 []) && after (exec (.contextCreate 0 []) s) (fun t => answered s 0 0x11 [] t && t.core.sec == s.core.sec &&
         t.free == s.free + 1)) = true) := by
  decide +kernel
theorem test_contextDestroy :
    (let s := ask tenant 0 0x0804 [3]
     (takes s 0 0x0804 [3] && !held (taken s 0) (.ctx 3) && after (exec (.contextDestroy 0) s) (fun t => answered s 0 1 [] t &&
       jobAt t 0 == some (.contextDestroy 3) && (NMap.getD t.core.sec.contexts 3 {}).dying)) = true) ∧
    (let s := working (tenant.modSec (fun c => { c with contexts := [(0, {}), (3, { dying := true, scrubbed := true })] })) 0 (.contextDestroy 3)
     (jobAt s 0 == some (.contextDestroy 3) && (NMap.getD s.core.sec.contexts 3 {}).scrubbed && after (exec (.contextDestroyDone 0) s) (fun t =>
       answered s 0 0 [] t && NMap.get? t.core.sec.contexts 3 == none)) = true) := by
  decide +kernel
/-- The device in confidential mode. -/
def secret (s : State) : State := s.modSys (fun y => { y with conf := true })
theorem test_mode :
    (let s := ask (secret live) 0 0x0805 []
     (takes s 0 0x0805 [] && responds s 0 0 [] s.core (exec (.confEnter 0) s)) = true) ∧
    (let s := ask live 0 0x0805 []
     (takes s 0 0x0805 [] && after (exec (.confEnter 0) s) (fun t => answered s 0 1 [] t && jobAt t 0 == some .confEnter)) = true) ∧
    (let s := ask live 0 0x0806 []
     (takes s 0 0x0806 [] && responds s 0 0 [] s.core (exec (.confExit 0) s)) = true) ∧
    (let s := ask (secret live) 0 0x0806 []
     (takes s 0 0x0806 [] && after (exec (.confExit 0) s) (fun t => answered s 0 1 [] t && jobAt t 0 == some .confExit)) = true) := by
  decide +kernel
theorem test_modeSwitchDone :
    (let s := working (live.modSec (fun c => { c with scrubFor := some .mode })) 0 .confEnter
     (jobAt s 0 == some .confEnter && after (exec (.modeSwitchDone 0) s) (fun t => answered s 0 0 [] t && t.core.sys.conf &&
       t.core.sec.turnBegan == 5000000000)) = true) ∧
    (let s := working ((secret live).modSec (fun c => { c with scrubFor := some .mode })) 0 .confExit
     (jobAt s 0 == some .confExit && after (exec (.modeSwitchDone 0) s) (fun t => answered s 0 0 [] t && !t.core.sys.conf)) = true) := by
  decide +kernel
theorem test_keys :
    (let s := ask tenant 0 0x0807 [3]
     (takes s 0 0x0807 [3] && !held (taken s 0) (.ctx 3) && after (exec (.keyRotate 0) s) (fun t => answered s 0 1 [] t &&
       jobAt t 0 == some (.keyRotate 3) && (NMap.getD t.core.sec.contexts 3 {}).gen == 1 &&
       (NMap.getD t.core.sec.contexts 3 {}).sweep == some 0)) = true) ∧
    (let s := working tenant 0 (.keyRotate 3)
     (jobAt s 0 == some (.keyRotate 3) && responds s 0 0 [255] s.core (exec (.keyRotateDone 0) s)) = true) ∧
    (let s := tenant.modSec (fun c => { c with contexts := [(0, {}), (3, { sweep := some (rangePages live), lastSweep := 4999000000 })] })
     (after (exec (.generationSweep 3) s) (fun t => (NMap.getD t.core.sec.contexts 3 {}).sweep == none &&
       t.core.tiers == s.core.tiers)) = true) := by
  decide +kernel

/-! ### Observation -/

theorem test_trace :
    (let s := ask live 0 0x0902 [255, 0, 0, 0, 1]
     (takes s 0 0x0902 [255, 0, 0, 0, 1] && after (exec (.traceSet 0) s) (fun t => answered s 0 0 [] t && t.core.obs.trace &&
       t.core.obs.mask == 255 && t.core.obs.lastSync == 5000000000)) = true) ∧
    (let s := ask (live.modObs (fun o => { o with trace := true, mask := 1 })) 0 0x0902 [255, 0, 0, 0, 1]
     (takes s 0 0x0902 [255, 0, 0, 0, 1] && after (exec (.traceSet 0) s) (fun t => answered s 0 0 [] t && t.core.obs.mask == 255)) = true) ∧
    (let s := ask (live.modObs (fun o => { o with trace := true, mask := 1 })) 0 0x0902 [255, 0, 0, 0, 0]
     (takes s 0 0x0902 [255, 0, 0, 0, 0] && after (exec (.traceSet 0) s) (fun t => answered s 0 0 [] t && !t.core.obs.trace)) = true) ∧
    (let s := ask (secret live) 0 0x0902 [255, 0, 0, 0, 1]
     (takes s 0 0x0902 [255, 0, 0, 0, 1] && responds s 0 0x15 [] s.core (exec (.traceSet 0) s)) = true) ∧
    (let s := live.modObs (fun o => { o with trace := true, mask := 0, buf := [[1], [2]], lost := 3, lastSync := 4999000000 })
     after (exec .traceSync s) (fun t => t.out == [.trace [1], .trace [2]] && t.core.obs.buf.length == 2 && t.core.obs.lost == 0 &&
       t.core.obs.lastSync == 5000000000) = true) := by
  decide +kernel
theorem test_counterLatch :
    (let s := (secret live).modObs (fun o => { o with counters := [(timeCtr 0 0, 5000)], latchDt := 4990000000 })
     after (exec .counterLatch s) (fun t => t.core.obs.latchDt == 5000000000 && NMap.getD t.core.obs.latch (timeCtr 0 0) 0 == 4096) = true) := by
  decide +kernel
/-- ERR_CHAN1 with bits 7, 9 and 0 set: writing 1 to bit 7 clears CAUSE with it. -/
theorem test_errClear :
    (let s := { live with err := { live.err with regs := setAt live.err.regs 9 { bits := 0x281, firstDt := 8, firstInfo := 9 } } }
     (errPresent s 9 && s.err.regs.length == 16 && after (exec (.errClear 9 0x80) s) (fun t =>
       (t.err.regs.getD 9 {}).bits == 1 && (t.err.regs.getD 9 {}).firstDt == 8)) = true ∧
     after (exec (.errClear 9 0x81) s) (fun t => (t.err.regs.getD 9 {}) == {}) = true) := by
  decide +kernel
theorem test_loftStore :
    (let p := [31] ++ leBytes 7 0 ++ leBytes 8 0x1000
     let s := ask live 0 0x0A03 p
     (takes s 0 0x0A03 p && after (exec (.loftStore 0 [7, 8] true) s) (fun t => answered s 0 0 [1, 0, 0, 0] t &&
       Mem.read t.loft.pages (4096 * 31 + 1) == 8)) = true) ∧
    (let p := [31] ++ leBytes 7 0 ++ leBytes 8 0x1000
     let s := ask live 0 0x0A03 p
     (takes s 0 0x0A03 p && after (exec (.loftStore 0 [7, 8] false) s) (fun t => answered s 0 0x30 [] t && t.loft.pages == [] &&
       (t.err.regs.getD 0 {}).bits.getLsbD 10)) = true) := by
  decide +kernel

/-! ### Registers of BAR0 -/

theorem test_hatchWrite :
    after (exec (.hatchWrite 0x3FFC 4 0x01020304) live) (fun t => Mem.bytes t.core.hat.mem 0x3FFC 4 == [4, 3, 2, 1]) = true ∧
    after (exec (.hatchWrite 0x3FF8 8 0x0807060501020304) live) (fun t => Mem.bytes t.core.hat.mem 0x3FF8 8 == [4, 3, 2, 1, 5, 6, 7, 8]) = true ∧
    after (exec (.hatchWrite 0x0900 4 1) (ask live 9 0x0101 [])) (fun t => t.core.sys.hatchProto &&
      t.core.hat == (ask live 9 0x0101 []).core.hat) = true ∧
    after (exec (.hatchWrite 0x0902 4 1) live) (fun t => t == live) = true ∧
    (hatchShut (ask live 9 0x0101 []) 9 && after (exec (.hatchWrite 0x08FE 4 1) (ask live 9 0x0101 [])) (fun t => t.core.sys.hatchProto &&
      t.core.hat == (ask live 9 0x0101 []).core.hat)) = true := by
  decide +kernel
theorem test_ownSet :
    after (exec (.ownSet 63 0x0504) live) (fun t => (ctlAt t 63).own && (ctlAt t 63).vector == 5 && t.core.hat.queueG == [63]) = true ∧
    after (exec (.ownSet 0 0x3F04) (working live 0 .confEnter)) (fun t => t.core.sys.hatchProto && !(ctlAt t 0).own) = true ∧
    after (exec (.vectorWrite 63 0x3F00) live) (fun t => (ctlAt t 63).vector == 63 && !(ctlAt t 63).own) = true := by
  decide +kernel
theorem test_patienceExpiry :
    (let s := askAs live 9 0x0101 0 0 4999999999 []
     ((ctlAt s 9).own && s.core.hat.queueG == [9] && responds s 9 0x16 [] s.core (exec (.patienceExpiry 9) s)) = true) := by
  decide +kernel

theorem test_latching :
    after (exec (.timeDtRead .lower) live) (fun t => t.out == [.readData (leBytes 4 (5000000000 % 2 ^ 32)) false] &&
      NMap.get? t.core.ring.latch 0x20000 == some 1) = true ∧
    (let s := live.modRing (fun r => { r with latch := [(0x20000, 7)] })
     after (exec (.timeDtRead .upper) s) (fun t => t.out == [.readData [7, 0, 0, 0] false] && t.core.ring.latch == []) = true) ∧
    after (exec (.timeDtRead .full) live) (fun t => t.out == [.readData (leBytes 8 5000000000) false]) = true ∧
    (let s := live.modTime (fun t => { t with measSeq := 4, measOffset := 5, measPath := 6, measT2 := 7 })
     after (exec .measSeqRead s) (fun t => t.out == [.readData [4, 0, 0, 0] false] && t.core.time.measLatch == [5, 6, 7]) = true) ∧
    (let s := live.modLink (fun l => { l with seq := 4, offset := 5, path := 6 })
     after (exec .linkMeasSeqRead s) (fun t => t.out == [.readData [4, 0, 0, 0] false] && t.core.link.latch == [5, 6]) = true) ∧
    (is64 0x20018 && after (exec (.halfReadLatch ⟨0x20018, 4⟩) live) (fun t => t.out == [.readData [0x9A, 0x99, 0x99, 0x99] false] &&
      NMap.get? t.core.ring.latch 0x20018 == some 1)) = true ∧
    (let s := live.modRing (fun r => { r with latch := [(0x20018, 9)] })
     after (exec (.halfReadLatch ⟨0x2001C, 4⟩) s) (fun t => t.out == [.readData [9, 0, 0, 0] false] && t.core.ring.latch == []) = true) ∧
    (endpointUp live && after (exec (.halfReadLatch ⟨0x20019, 2⟩) live) (fun t => t.out == [.readData [0x99, 0x99] false])) = true ∧
    (let s := live.modTime (fun t => { t with measSeq := 4, measOffset := 5, measPath := 6, measT2 := 7 })
     after (exec (.halfReadLatch ⟨0x20040, 8⟩) s) (fun t => t.core.time.measLatch == [5, 6, 7]) = true) := by
  decide +kernel

theorem test_timeInc :
    after (exec (.timeIncWrite .full incMin) live) (fun t => t.core.time.inc == BitVec.ofNat 64 incMin && t.err == live.err) = true ∧
    after (exec (.timeIncWrite .full (incMax + 1)) live) (fun t => t.core.time.inc == BitVec.ofNat 64 incMax &&
      (t.err.regs.getD 1 {}).bits.getLsbD 0) = true ∧
    after (exec (.timeIncWrite .lower 0x9999999A) live) (fun t => t.core.ring.held == [(0x20018, 0x9999999A)] &&
      t.core.time.inc == live.core.time.inc) = true ∧
    after (exec (.timeIncWrite .upper 1) (live.modRing (fun r => { r with held := [(0x20018, 0x9999999B)] }))) (fun t =>
      t.core.ring.held == [] && t.core.time.inc == 0x19999999B) = true := by
  decide +kernel
theorem test_timeStep :
    after (exec (.timeStepWrite .full (2 ^ 64 - 5)) live) (fun t => t.core.time.stepNs == some (-5) && t.core.time.stepped &&
      t.core.time.clockQ == .freeRun) = true ∧
    after (exec (.timeStepWrite .full 5) sessions) (fun t => t.core.time == sessions.core.time && (t.err.regs.getD 1 {}).bits.getLsbD 1) = true := by
  decide +kernel
theorem test_capture_pps :
    (let s := live.modAir (fun a => { a with caps := setAt a.caps 4 { q := [8, 9], ovf := true } })
     after (exec (.capturePop 4 0x10100) s) (fun t => t.core.air.caps.getD 4 {} == { q := [9], ovf := false }) = true) ∧
    after (exec (.ppsCtlWrite 0xFFFFFFFF) live) (fun t => t.core.air.ppsCtl == 0x1FFF0003 && t.core.air.ppsLast == some 5000000000 &&
      t.core.air.ppsHigh == none) = true := by
  decide +kernel

/-! ### Links -/

/-- A hello that passes R481 at a device of FW_VERSION 0. -/
def hello0 : Hello :=
  { locked := true, part := .hyn968, stepping := 0xB0, fwMajor := 0, devid := 2, keeperEn := false, mapVersion := 0, mapEmpty := true,
    numerology := 1, epoch := 0, authentic := true, inTime := true }
/-- Port 3 in a state. -/
def port (s : State) (m : MpPort) : State := s.modLink (fun l => { l with ports := setAt l.ports 3 m })

theorem test_linkCommands :
    (let s := ask live 0 0x0B02 [16, 39]
     (takes s 0 0x0B02 [16, 39] && isKeeper s && responds s 0 0 []
       { s.core with link := { s.core.link with deltaMs := 10000, lastTick := 0 } } (exec (.deltaIntervalSet 0) s)) = true) ∧
    (let s := ask (live.modLink (fun l => { l with decided := false })) 0 0x0B02 [16, 39]
     (takes s 0 0x0B02 [16, 39] && !isKeeper s && responds s 0 0x15 [] s.core (exec (.deltaIntervalSet 0) s)) = true) ∧
    (let s := ask live 0 0x0B02 [17, 39]
     (takes s 0 0x0B02 [17, 39] && responds s 0 0x11 [] s.core (exec (.deltaIntervalSet 0) s)) = true) ∧
    (let s := ask (port live { state := .held }) 0 0x0B03 [3]
     (takes s 0 0x0B03 [3] && responds s 0 0x15 [] s.core (exec (.linkRetrain 0) s)) = true) ∧
    (let s := ask live 0 0x0B03 [3]
     (takes s 0 0x0B03 [3] && after (exec (.linkRetrain 0) s) (fun t => answered s 0 1 [] t && (mpAt t 3).state == .training &&
       jobAt t 0 == some (.linkRetrain 3 6000000000))) = true) ∧
    (let s := working live 0 (.linkRetrain 3 4999999999)
     (jobAt s 0 == some (.linkRetrain 3 4999999999) && responds s 0 0x20 [0] s.core (exec (.linkRetrainTimeout 0) s)) = true) := by
  decide +kernel
theorem test_ports :
    (linksRun live && after (exec (.mpSignalPoll 3 true) live) (fun t => (mpAt t 3).state == .training && mpAt t 2 == mpAt live 2)) = true ∧
    after (exec (.mpSignalPoll 3 false) live) (fun t => t == live) = true ∧
    after (exec (.mpRetryTimer 3) (port live { state := .failed, since := 4000000000 })) (fun t => (mpAt t 3).state == .training) = true ∧
    (let s := port live { state := .training }
     (helloOk s hello0 && after (exec (.mpTrainingEnd 3 hello0) s) (fun t => (mpAt t 3).state == .up && (mpAt t 3).hello == some hello0)) = true ∧
     (!helloOk s { hello0 with fwMajor := 1 } && after (exec (.mpTrainingEnd 3 { hello0 with fwMajor := 1 }) s) (fun t =>
       (mpAt t 3).state == .failed && counted s (linkPortCtr 3 0) 1 t)) = true ∧
     after (exec (.mpTrainingEnd 3 { hello0 with devid := 0 }) s) (fun t => (mpAt t 3).state == .failed) = true) ∧
    (let s := (port live { state := .training }).modLink (fun l => { l with decided := false })
     after (exec (.mpTrainingEnd 3 hello0) s) (fun t => (mpAt t 3).state == .training && (mpAt t 3).trained) = true) ∧
    (let s := port live { state := .up, hello := some hello0 }
     after (exec (.mpSignalLost 3) s) (fun t => (mpAt t 3).state == .absent && (mpAt t 3).hello == none) = true) := by
  decide +kernel
/-- FramesOnLinks: a port that is UP; a frame of a wrong length is rejected. -/
def linked : State := port live { state := .up, hello := some hello0, kIn := List.replicate 16 1, kOut := List.replicate 16 2 }
theorem test_frames :
    linked.core.link.ports.length = 4 ∧ (mpAt linked 3).state = .up ∧
    after (exec (.mpFrameRx 3 [1, 2, 3] 9) linked) (fun t => counted linked (linkPortCtr 3 1) 1 t && (mpAt t 3).rxCtr == 0) = true := by
  decide +kernel
theorem test_keeper :
    (let s := live.modMap (fun m => { m with dirty := [0], pin := 8, batchFrom := 7 })
     (isKeeper s && !mapOwed s && decide (s.core.link.lastTick < dtOf s / (1000000 * s.core.link.deltaMs)) && s.core.map.inService) = true) ∧
    after (exec .deltaBatchTick live) (fun t => t.core.link.lastTick == 100) = true ∧
    (let s := live.modLink (fun l => { l with requests := [lock3] })
     (nextGrant s == some lock3 && after (exec .mapLockGrant s) (fun t => t.core.link.locks == [lock3] && t.core.map == s.core.map)) = true) ∧
    after (exec .mapLockGrant live) (fun t => t == live) = true ∧
    (let j : Joiner := { port := 3, dev := 2, since := none }
     let s := linked.modLink (fun l => { l with catchUp := [j] })
     (!mapOwed s && s.core.link.catchUp.find? (fun k => k.port == 3 && !k.started) == some j &&
       (mpAt s 3).hello.map (·.devid) == some j.dev) = true) ∧
    (let j : Joiner := { port := 3, dev := 2, since := some 0 }
     let s := linked.modLink (fun l => { l with catchUp := [j] })
     (isKeeper s && logReaches s 0 && after (exec (.catchUp 3) s) (fun t => t.core.link.catchUp == [])) = true) := by
  decide +kernel

/-! ### The bus -/

theorem test_registerWrite :
    after (exec (.registerWrite 0x20018 4 1 true) live) (fun t => t == withAer live (0x1000, 0)) = true ∧
    (let s := live.modSys (fun y => { y with evtLost := true, hatchProto := true })
     after (exec (.registerWrite 0x4208 4 0x200 false) s) (fun t => t.core.sys.evtLost && !t.core.sys.hatchProto) = true) ∧
    (let s := live.modHat (fun a => { a with done := 5 })
     after (exec (.registerWrite 0x4200 8 4 false) s) (fun t => t.core.hat.done == 1) = true) ∧
    after (exec (.registerWrite 0x83F8 4 77 false) live) (fun t => (t.pcie.table.getD 63 {}).data == 77) = true ∧
    after (exec (.registerWrite 0x4210 4 1 false) live) (fun t => t == live) = true := by
  decide +kernel
/-- A device with its memory allocated: one page of the store room, in frame 4, that holds nothing. -/
def paged : State :=
  live.modTiers (fun t => { t with
    ranges := [{ first := 100, count := 1, near := true, frame := 0, hint := 0, secret := true, use := 11 }]
    pages := [(7, { near := true, frame := 4, hint := 0, secret := false })]
    range := 300
    nextPage := 200
    nextNear := 10 })
theorem test_bar2 :
    after (exec (.bar2Write 9) live) (fun t => counted live (tierCtr 9) 1 t) = true ∧
    after (exec (.bar2Read 0 8 .clean) (secret live)) (fun t => t.out == [.readData (List.replicate 8 0) false] &&
      counted (secret live) (tierCtr 9) 1 t) = true ∧
    (pageSealed paged 7 = false ∧ (pageAt paged 7).isSome = true ∧ genLive paged 7 ((pageAt paged 7).getD { near := true, frame := 0, hint := 0 }) = true ∧
      7 * 65536 + 8 ≤ 65536 * rangePages paged) ∧
    (pageBlank paged 7 && after (exec (.bar2Read (7 * 65536) 2 .clean) paged) (fun t => t.out == [.readData [0, 0] false] && t.free == 1)) = true := by
  decide +kernel
theorem test_aer :
    endpointUp live = true ∧ after (exec .unsupportedRequest live) (fun t => t.out == [.unsupported] && t.pcie.aerUncorr == 0x100000) = true ∧
    after (exec .unexpectedCompletion live) (fun t => t.pcie.aerUncorr == 0x10000 && t.pcie.aerCorr == 0x2000) = true ∧
    after (exec (.linkLayerError .malformedTlp) live) (fun t => t.pcie.aerUncorr == 0x40000) = true ∧
    (let s := working live 0 (.crateLoad 31 0x1000 512)
     after (exec (.dmaCompletionTimeout (.command 0) true) s) (fun t => answered s 0 0x30 [] t && t.core.work == s.core.work &&
       t.pcie.aerUncorr.getLsbD 12) = true) := by
  decide +kernel

/-! ### Resets and the start -/

/-- The device has begun a start, or is held in reset. -/
def restarted (s : State) (why : Nat) (t : State) : Bool :=
  t.core.sys.phase == .starting && t.core.sys.step == 1 && t.core.sys.cause == why && t.loft.log.head? == some t.core.sys.record &&
  t.core.sys.record.startNo == s.loft.nextStart && t.core.work == {} && t.core.hat == {} && t.err == s.err && t.pcie == s.pcie
def heldInReset (s : State) (why : Nat) (t : State) : Bool :=
  t.core.sys.phase == .inReset && t.core.sys.cause == why && !running t && t.loft.pages == s.loft.pages && t.err == s.err && t.core.work == {} &&
  t.core.hat == {}
theorem test_powerOn :
    after (exec .powerOn State.reset) (fun t => t.core.sys.phase == .starting && t.core.sys.step == 1 && t.core.sys.cause == 0 &&
      t.loft.log.head? == some t.core.sys.record && t.core.sys.record.startNo == 0) = true ∧
    (let s := State.reset.modHw (fun h => { h with resetN := false })
     after (exec .powerOn s) (fun t => t.core.sys.phase == .st0) = true) := by
  decide +kernel
theorem test_pins :
    after (exec .resetN sessions) (fun t => heldInReset sessions 1 t && !t.hw.resetN && t.pcie == sessions.pcie) = true ∧
    after (exec .perstN sessions) (fun t => heldInReset sessions 2 t && !t.hw.perstN) = true ∧
    after (exec .refclkStop sessions) (fun t => heldInReset sessions 1 t && !t.hw.refclk) = true := by
  decide +kernel
theorem test_release :
    (let s := (State.reset.modHw (fun h => { h with resetN := false })).modSys (fun y => { y with phase := .inReset, cause := 1 })
     (s.core.work == {} && s.core.hat == {} && after (exec .resetRelease s) (fun t => restarted s 1 t && t.hw.resetN && t.hw.perstN)) = true) ∧
    (let s := (State.reset.modHw (fun h => { h with refclk := false })).modSys (fun y => { y with phase := .inReset, cause := 1 })
     after (exec .refclkReturn s) (fun t => restarted s 1 t && t.hw.refclk) = true) ∧
    after (exec (.powerLoss false) sessions) (fun t => t.core.sys.phase == .unpowered && !t.hw.rails && t.core.work == {}) = true ∧
    (let s := { live with loft := { live.loft with pages := [(8, 1), (4096, 9)], lastStore := some (1, [5], 5000000000) } }
     after (exec (.powerLoss true) s) (fun t => t.loft.pages == [(8, 1), (4096, 5)]) = true) := by
  decide +kernel
theorem test_selfResets :
    after (exec .watchdogReset sessions) (fun t => restarted sessions 5 t) = true ∧
    (let s := sessions.modSys (fun y => { y with coreResetAt := some 5000000000 })
     after (exec .coreResetTimer s) (fun t => restarted s 3 t) = true) ∧
    (let s := sessions.modSys (fun y => { y with coreResetAt := some 5000000001 })
     after (exec .coreResetTimer s) (fun t => t == s) = true) ∧
    (let s := sessions.modSys (fun y => { y with recoveryAt := some 5000000000 })
     after (exec .recoveryReset s) (fun t => restarted s 4 t) = true) := by
  decide +kernel
theorem test_straps :
    after (exec (.strapChange 7 true 3) live) (fun t => t.hw.devidPins == 7 && t.hw.keeperPin && t.hw.bootPins == 3) = true ∧
    after (exec (.epLinkUp 1) live) (fun t => t.hw.epUp == [false, true]) = true ∧
    after (exec (.epLinkDown 1) (live.modHw (fun h => { h with epUp := [true, true] }))) (fun t => t.hw.epUp == [true, false]) = true := by
  decide +kernel

/-- A start that has reached a step, and a finding of it that passes. -/
def starting (n : Nat) : State := live.modSys (fun y => { y with phase := .starting, step := n, stepBegan := 1000000000 })
def passes : StepFinding := { ok := true, reason := 0, mask := 0, source := 0, image := [] }
theorem test_startSteps :
    ([1, 3, 4, 5, 6].all (fun n => stepping (starting n) && after (exec (.startStepEnd passes) (starting n)) (fun t =>
      t.core.sys.step == n + 1 && t.core.sys.phase == .starting))) = true := by
  decide +kernel
theorem test_startEnds :
    after (exec (.startStepEnd passes) (starting 7)) (fun t => t.core.sys.step == 8 && (chanAt t 7).inService) = true ∧
    after (exec (.startStepEnd passes) (starting 8)) (fun t => t.core.sys.step == 9) = true ∧
    (let s := starting 2
     (!imageOk s [] && after (exec (.startStepEnd passes) s) (fun t => t.core.sys.recoveryAt == some 5010000000)) = true) := by
  decide +kernel
theorem test_startReady :
    after (exec (.startStepEnd passes) (starting 9)) (fun t => t.core.sys.phase == .ready && t.core.sys.record.final == 0 &&
      t.core.sys.record.dtReady == 5000000000 && t.core.link.deltaMs == 50 && t.core.map.inService) = true := by
  decide +kernel
theorem test_startTimeouts :
    ([4, 5, 6].all (fun n => after (exec (.startStepTimeout passes) (starting n)) (fun t => t.core.sys.step == n + 1))) = true ∧
    after (exec (.startStepTimeout passes) ((starting 8).modSys (fun y => { y with stepBegan := 0 }))) (fun t => t.core.sys.step == 8) = true ∧
    after (exec (.startStepTimeout passes) (starting 3)) (fun t => t.core.sys.recoveryAt == some 5010000000 && t.core.sys.record.final == 2) = true ∧
    after (exec (.startStepTimeout passes) (starting 1)) (fun t => t.core.sys.recoveryAt == some 5010000000 && t.core.sys.record.final == 2) = true := by
  decide +kernel

/-! ### Power and heat -/

theorem test_pinCap :
    after (exec (.pwrCapSample 1) live) (fun t => t.core.pow.pinSample == 1 && t.core.pow.pinNext == 140 && t.core.pow.pinCap == 140) = true ∧
    after (exec (.pwrCapSample 1) (live.modPow (fun p => { p with pinSample := 1 }))) (fun t => t.core.pow.pinNext == 90 && t.core.pow.pinCap == 140) = true := by
  decide +kernel
/-- The windows of R39: above the cap; above it at 400 MHz; the hundredth calm window; a calm window; one that is neither. -/
theorem test_powerWindow :
    after (exec (.powerWindow 1401) live) (fun t => t.core.pow.ctlMhz == 1500 && t.core.pow.ctlAdm == 8) = true ∧
    after (exec (.powerWindow 1401) (live.modPow (fun p => { p with ctlMhz := 400 }))) (fun t => t.core.pow.ctlMhz == 400 && t.core.pow.ctlAdm == 7) = true ∧
    after (exec (.powerWindow 1350) (live.modPow (fun p => { p with ctlMhz := 400, ctlAdm := 7, calm := 99 }))) (fun t =>
      t.core.pow.ctlAdm == 8 && t.core.pow.ctlMhz == 400) = true ∧
    after (exec (.powerWindow 1350) (live.modPow (fun p => { p with ctlMhz := 400, calm := 99 }))) (fun t => t.core.pow.ctlMhz == 500) = true ∧
    after (exec (.powerWindow 1351) (live.modPow (fun p => { p with ctlMhz := 400, calm := 99 }))) (fun t => t.core.pow.ctlMhz == 400 &&
      t.core.pow.calm == 0) = true := by
  decide +kernel
theorem test_limiter_heat :
    after (exec (.powerLimiterWindow 1401) live) (fun t => t.core.pow.limiter && counted live (devCtr 0) 1 t) = true ∧
    after (exec (.powerLimiterWindow 1400) live) (fun t => t == live) = true ∧
    after (exec (.thermalSample 412 391) (live.modPow (fun p => { p with thSince := 99 }))) (fun t => t.core.pow.alert && t.core.pow.thMhz == 1500 &&
      t.core.pow.throttle) = true ∧
    after (exec (.thermalSample 440 391) live) (fun t => t.core.pow.hot && t.core.pow.tj == 440 && t.core.pow.tStore == 391) = true := by
  decide +kernel

/-! ### Memory and its arbiters -/

theorem test_migration :
    (let s := paged.modTiers (fun t => { t with lastEpoch := 4999000000 })
     (s.core.tiers.cellar == 0 && after (exec (.migrationEpoch ⟨[], []⟩) s) (fun t => t.core.tiers.lastEpoch == 5000000000)) = true) ∧
    (let s := paged.modTiers (fun t => { t with cellar := 64, lastEpoch := 4999000000, pages := [(7, { near := false, frame := 4, hint := 1 })] })
     (!(statAt s 51).masked && (takeFrame s true).isSome && after (exec (.migrationEpoch ⟨[], []⟩) s) (fun t =>
       (pageAt t 7).map (·.near) == some true && counted s (tierCtr 0) 1 t)) = true) := by
  decide +kernel
theorem test_heat_scrub :
    (let s := paged.modTiers (fun t => { t with lastDecay := 0, pages := [(7, { near := true, frame := 4, hint := 0, heat := 9 })] })
     after (exec .heatDecay (atDt s 8000000)) (fun t => (pageAt t 7).map (·.heat) == some 4 && t.core.tiers.lastDecay == 8000000) = true) ∧
    after (exec (.patrolScrubRead (frameKey true 4) .clean) paged) (fun t => t == paged) = true ∧
    after (exec (.patrolScrubRead (frameKey true 4) (.corrected 16)) paged) (fun t => counted paged (tierCtr 4) 16 t &&
      t.core.tiers.retired == [frameKey true 4]) = true ∧
    (pageOfFrame paged true 4 == some 7 && after (exec (.patrolScrubRead (frameKey true 4) .uncorrectable) paged) (fun t =>
      t.core.tiers.retired == [frameKey true 4] && (pageAt t 7).map (·.poison) == some true)) = true := by
  decide +kernel
theorem test_lateAccess :
    after (exec (.lateAccess 55 true .tierFault) live) (fun t => (statAt t 55).lateF == 1 && statAt t 54 == statAt live 54) = true ∧
    after (exec (.lateAccess 0 true .contention) live) (fun t => (statAt t 0).lateC == 1) = true := by
  decide +kernel
theorem test_controllers :
    after (exec (.controllerRetrain true 15) live) (fun t => NMap.get? t.core.tiers.retrain (controllerKey true 15) == some 5000000000 &&
      (t.err.regs.getD 0 {}).bits.getLsbD 2) = true ∧
    (let s := live.modTiers (fun t => { t with retrain := [(controllerKey true 15, 4999000000)] })
     after (exec (.retrainEnd true 15 true) s) (fun t => t.core.tiers.retrain == []) = true ∧
     after (exec (.retrainEnd true 15 false) s) (fun t => t.loft.remedies.storeConservative && t.core.sys.recoveryAt == some 5000000000) = true) ∧
    (let s := live.modTiers (fun t => { t with cellar := 256, retrain := [(controllerKey false 7, 4999000000)] })
     after (exec (.retrainEnd false 7 false) s) (fun t => t.loft.remedies.cellarSkip && t.core.tiers.cellar == 0) = true) := by
  decide +kernel
/-- Requester 9 owns slot 255 of the table and waits at arbiter 0 for page 7. -/
def arbiters (w : List ArbWait) (ptr : Nat) : State :=
  paged.modFab (fun f => { f with owners := List.replicate 255 255 ++ [9], arbs := setAt f.arbs 0 { ptr := ptr, waiting := w } })
def wait9 : ArbWait := { req := 9, since := 4999000000, what := .burst (7 * 65536) 64 false .clean }
theorem test_arbiter :
    (let s := arbiters [] 255
     (arbServes s 0 && after (exec (.arbiterDecision 0 0 []) s) (fun t => (arbAt t 0).ptr == 0 && (arbAt t 0).turn == [0])) = true) ∧
    (let s := arbiters [wait9] 255
     (arbServes s 0 && requesterLive s 9 && genLive s 7 ((pageAt s 7).getD { near := true, frame := 0, hint := 0 }) &&
       after (exec (.arbiterDecision 0 0 []) s) (fun t => (arbAt t 0).ptr == 0 && (arbAt t 0).waiting == [] && (statAt t 9).slotGrants == 1 &&
         (statAt t 9).beats == arbBeats wait9.what)) = true) ∧
    (let s := arbiters [wait9] 0
     after (exec (.arbiterDecision 0 0 []) s) (fun t => (arbAt t 0).ptr == 1 && (arbAt t 0).waiting == [] && (arbAt t 0).burst == some wait9 &&
       (statAt t 9).background == 1) = true) ∧
    (let s := arbiters [{ wait9 with what := .lock 112 17 }] 255
     after (exec (.arbiterDecision 0 0 []) s) (fun t => (arbAt t 0).waiting == [] && (arbAt t 0).lock == some (9, 112, 16, 17) &&
       (statAt t 9).taken == 1 && (statAt t 9).lockHeld) = true) ∧
    (let s := (arbiters [{ wait9 with what := .lock 112 16 }] 255).modArb 0 (fun b => { b with turn := [257] })
     after (exec (.arbiterDecision 0 0 []) s) (fun t => (arbAt t 0).waiting == (arbAt s 0).waiting && (statAt t 9).deferred == 1) = true) ∧
    (let s := arbiters [{ wait9 with since := 4999949999 }] 0
     (oldestOf (arbAt s 0) 9 (fun _ => true) == some { wait9 with since := 4999949999 } && after (exec (.starvation 0 9) s) (fun t =>
       (statAt t 9).starving && (statAt t 9).starved)) = true) := by
  decide +kernel

/-! ### Turns and scrubs -/

/-- Confidential mode, context 0 holds the turn, and an item of context 3 waits on channel 0. -/
def wait0 : Waiting := { slot := 3, origin := .cycleTrack 5, ctx := 3, sid := none, arrival := 0, deadline := 6000000000 }
def turns : State := (secret tenant).modChan 0 (fun c => { c with queue := [wait0] })
theorem test_turnClose :
    (waitingContexts turns == [3] && after (exec .turnClose turns) (fun t => t.core.sec.turnClosed == some 5000000000 && t.core.sec.holder == 0)) = true := by
  decide +kernel
theorem test_turnDrain :
    (let s := ((graphs (secret tenant) 0x81).modChan 0 (fun c => { c with insts := [(2, { inst0 with ctx := 0, steps := [.ended, .waiting, .waiting] })] })).modSec
       (fun c => { c with turnClosed := some 4997999999 })
     (turnInsts s 0 true == [(0, 2)] && after (exec .turnDrainLimit s) (fun t => (instAt t 0 2).map (·.status) == some (some 0x20))) = true) := by
  decide +kernel
theorem test_scrubs :
    (let s := tenant.modSec (fun c => { c with contexts := [(0, {}), (3, { dying := true })] })
     (hatchesWith s isModeJob == [] && scrubDue s == some (.destroy 3) && after (exec .scrubBegin s) (fun t => t.core.sys.scrub &&
       t.core.sec.scrubFor == some (.destroy 3) && t.core.sec.scrubBegan == 5000000000)) = true) ∧
    (let s := (turns.modSys (fun y => { y with scrub := true })).modSec (fun c => { c with scrubFor := some .turn, turnClosed := some 4998000000 })
     after (exec .scrubEnd s) (fun t => !t.core.sys.scrub && t.core.sec.turnClosed == none && t.core.sec.holder == 3 && counted s (secCtr 4) 1 t) = true) ∧
    (let s := working ((tenant.modSys (fun y => { y with scrub := true })).modSec (fun c => { c with
       scrubFor := some (.destroy 3), contexts := [(0, {}), (3, { dying := true })] })) 0 (.contextDestroy 3)
     (held s (.ctx 3) && after (exec .scrubEnd s) (fun t => (NMap.getD t.core.sec.contexts 3 {}).scrubbed && !t.core.sys.scrub)) = true) := by
  decide +kernel

/-! ### The sequencer -/

/-- Session 0's batch 4 of one item of 32 bytes, and an instance for it on channel 0 in the graph of slot 3, of a kind. -/
def item0 : List Byte := leBytes 8 0x5000 ++ leBytes 4 32 ++ leBytes 2 0 ++ [5, 1] ++ leBytes 8 4000000000 ++ leBytes 8 0
def inFlight (kind : Nat) (steps : List StepSt) : State :=
  (((graphs sessions kind).modWork (fun w => { w with
    batches := [(4, { hatch := 8, ctx := 0, area := 2, flags := 0, cookie := 0, deadline := 0, items := [{ bytes := item0 }] })] })).modArea 2
      (fun a => { a with reserved := 1 })).modChan 0 (fun c => { c with insts := [(2, { inst0 with origin := .item 4 0, steps := steps })] })
def queued (kind : Nat) (o : Origin) (sid : Option Nat) : State :=
  (inFlight kind []).modChan 0 (fun c => { c with insts := [], queue := [{ slot := 3, origin := o, ctx := 0, sid := sid, arrival := 0, deadline := 6000000000 }] })
theorem test_instanceCreate :
    (let s := queued 0x81 (.cycleTrack 5) none
     (freeInst s 0 3 == some 0 && after (exec (.instanceCreate 0 3) s) (fun t => (instAt t 0 0).map (fun y => (y.origin, y.tags, y.mem)) ==
       some (.cycleTrack 5, [], []) && (chanAt t 0).queue == [])) = true) ∧
    (let s := queued 4 (.item 4 0) (some 0)
     (graphAdmits s (graph0 4) 0 && after (exec (.instanceCreate 0 3) s) (fun t => (instAt t 0 0).map (·.origin) == some (.item 4 0))) = true) ∧
    (let s := (queued 1 (.item 4 0) (some 0)).modSess 0 (fun x => { x with ctx := { x.ctx with sensors := [{ type := 1, width := 6000, height := 6000 }, {}, {}, {}] } })
     (after (exec (.instanceCreate 0 3) s) (fun t => (itemAt t 4 0).map (·.status) == some (some 0x24) && (chanAt t 0).queue == [])) = true) := by
  decide +kernel

/-- A graph with a vision step between DMA_IN and CTX_TAKE. -/
def veGraph (engine : Nat) (param : List Byte) : Graph :=
  { graph0 1 with
    blocks := 3
    steps := [step0, { step0 with engine := engine, param := param, ins := [{ first := 0, count := 1 }], outs := [{ first := 1, count := 1 }] },
              { step0 with engine := 8, ins := [{ first := 1, count := 1 }], outs := [{ first := 2, count := 1 }] },
              { step0 with engine := 9, ins := [{ first := 2, count := 1 }], outs := [] }] }
def engineState (engine : Nat) (param : List Byte) (steps : List StepSt) : State :=
  (sessions.modWork (fun w => { w with
    graphs := [(slotKey 0 3, { graph := veGraph engine param, mask := 1 })]
    batches := [(4, { hatch := 8, ctx := 0, area := 2, flags := 0, cookie := 0, deadline := 0, items := [{ bytes := item0 }] })] })).modChan 0
      (fun c => { c with insts := [(2, { inst0 with origin := .item 4 0, tags := [0], steps := steps })] })
/-- Engine e of channel 0 at work on that step. -/
def atStep (s : State) (e : Nat) (worked : Bool) (stall : Option Nat) : State :=
  s.modChan 0 (fun c => { c with engines := updAt c.engines e (fun _ => { run := some (2, 1), worked := worked, stall := stall, lastMove := 4000000000 }) })
theorem test_stepDispatch :
    (let s := engineState 3 [] [.ended, .ready 0, .waiting, .waiting]
     ((bestCand (candidates (s.refresh 0) 0 0)).map (fun c => (c.inst, c.step)) == some (2, 1) && after (exec (.stepDispatch 0 0 .clean) s) (fun t =>
       ((chanAt t 0).engines.getD 0 {}).run == some (2, 1) && ((chanAt t 0).engines.getD 0 {}).lastMove == 5000000000)) = true) := by
  decide +kernel
theorem test_stepEnded :
    (let s := atStep (engineState 3 [] [.ended, .running, .waiting, .waiting]) 0 true none
     ((runningStep s 0 0).isSome && after (exec (.stepEnded 0 0) s) (fun t => ((chanAt t 0).engines.getD 0 {}).run == none &&
       (instAt t 0 2).map (fun y => (y.steps.getD 1 .skipped, y.tags)) == some (.ended, [0, 1]))) = true) := by
  decide +kernel
theorem test_stallLimit :
    (let s := atStep (engineState 6 [] [.ended, .running, .waiting, .waiting]) 3 false (some 4997999999)
     ((runningStep s 0 3).isSome && after (exec (.tierStallLimit 0 3) s) (fun t => ((chanAt t 0).engines.getD 3 {}).run == none &&
       (instAt t 0 2).map (·.status) == some (some 0x20))) = true) := by
  decide +kernel
/-- DMA_IN of one inertial record; of a payload that is no whole record; of one whose read failed. -/
theorem test_dmaIn :
    (let s := inFlight 4 [.ready 0, .waiting, .waiting]
     ((seqStep (s.refresh 0) 0 2 1).isSome && (checkedPayload 4 0 [{}, {}, {}, {}] (padTo 32 [1])).isSome && after (exec (.dmaIn 0 2 [1]) s) (fun t =>
       (instAt t 0 2).map (·.tags) == some [0] && t.out.contains (.dmaRead 0x5000 32))) = true) ∧
    (let s := (inFlight 4 [.ready 0, .waiting, .waiting]).modBatch 4 (fun y => { y with items := [{ bytes := overlay item0 8 (leBytes 4 33) }] })
     ((checkedPayload 4 0 [{}, {}, {}, {}] (padTo 33 [1])).isNone && after (exec (.dmaIn 0 2 [1]) s) (fun t =>
       (instAt t 0 2).map (·.status) == some (some 0x11))) = true) ∧
    (let s := inFlight 4 [.ready 0, .waiting, .waiting]
     after (exec (.dmaCompletionTimeout (.item 0 2) false) s) (fun t => (instAt t 0 2).map (·.status) == some (some 0x30)) = true) := by
  decide +kernel
theorem test_ctxTake :
    (let s := (inFlight 4 [.ended, .ready 0, .waiting]).modInst 0 2 (fun x => { x with tags := [0] })
     ((seqStep (s.refresh 0) 0 2 8).isSome && !heldElsewhere (s.refresh 0) 0 2 0 && (touchShelf (s.refresh 0) 0).isSome &&
       after (exec (.ctxTake 0 2 .clean) s) (fun t => (instAt t 0 2).map (fun y => (y.holds, y.work.isSome, y.tags)) == some (true, true, [0, 1]) &&
         t.core.work.shelf == [0])) = true) ∧
    (let s := (inFlight 4 [.ended, .ready 0, .waiting]).modInst 0 2 (fun x => { x with tags := [0], deadline := 4999999999 })
     after (exec (.ctxTake 0 2 .clean) s) (fun t => (instAt t 0 2).map (·.status) == some (some 0x20)) = true) := by
  decide +kernel
theorem test_ctxPeek :
    (let s := (engineState 10 [] [.ended, .ready 0, .waiting, .waiting]).modInst 0 2 (fun x => { x with deadline := 4999999999 })
     ((seqStep (s.refresh 0) 0 2 10).isSome && after (exec (.ctxPeek 0 2) s) (fun t => (instAt t 0 2).map (·.status) == some (some 0x20))) = true) ∧
    (let s := engineState 10 [] [.ended, .ready 0, .waiting, .waiting]
     (seqStep (s.refresh 0) 0 2 10).isSome = true) := by
  decide +kernel
theorem test_result :
    (let s := (inFlight 4 [.ended, .skipped, .ready 0]).modInst 0 2 (fun x => { x with status := some 0x11 })
     ((seqStep (s.refresh 0) 0 2 9).isSome && after (exec (.result 0 2) s) (fun t => instAt t 0 2 == none &&
       (itemAt t 4 0).map (·.status) == some (some 0x11))) = true) := by
  decide +kernel
/-- A CTX_TAKE that waits for a relocalisation, its outcome come or not. -/
def relocating (out : Option (List Byte)) : State :=
  (inFlight 4 [.ended, .running, .waiting]).modInst 0 2 (fun x => { x with tags := [0], relocWait := some (4000000000, 4999999999), relocOut := out })
theorem test_relocalisations :
    (let s := relocating (some [])
     ((waitingTake s 0 2).isSome && after (exec (.relocOutcome 0 2) s) (fun t => (instAt t 0 2).map (fun y => (y.relocWait, y.tags)) == some (none, [0, 1]) &&
       counted s (mapCtr 8) 1 t)) = true) ∧
    (let s := relocating none
     (after (exec (.relocWaitTimeout 0 2) s) (fun t => (instAt t 0 2).map (·.relocWait) == some none && counted s (mapCtr 9) 1 t)) = true) ∧
    (let s := (relocating none).modInst 0 2 (fun x => { x with deadline := 4999999999 })
     (after (exec (.ctxTakeDeadline 0 2) s) (fun t => (instAt t 0 2).map (·.status) == some (some 0x20))) = true) := by
  decide +kernel

/-! ### Failures -/

theorem test_failures :
    (let s := inFlight 4 [.ended, .waiting, .waiting]
     ((serviceChans s).contains 0 && after (exec (.channelFailure 0 2 4) s) (fun t => !(chanAt t 0).inService && (chanAt t 0).insts == [] &&
       (t.err.regs.getD 8 {}).bits.getLsbD 7)) = true) ∧
    (let s := atDt (atStep (engineState 3 [] [.ended, .running, .waiting, .waiting]) 0 false none) 4010000001
     (idleSince s 0 0 == some 4000000000 && after (exec (.engineHang 0 0) s) (fun t => !(chanAt t 0).inService)) = true ∧
     after (exec (.engineHang 0 0) (atDt s 4010000000)) (fun t => (chanAt t 0).inService) = true) ∧
    (let s := live.modChan 0 (fun c => { c with testMode := 1 })
     after (exec (.selfTestSlice 0 false) s) (fun t => !(chanAt t 0).inService) = true ∧
     after (exec (.selfTestSlice 0 true) s) (fun t => t == s.modChan 0 (fun c => { c with lastSlice := 5000000000 }) &&
       after (exec (.selfTestSlice 0 false) t) (fun u => u == t)) = true) ∧
    (let s := (graphs live 4).modWork (fun w => { w with graphs := w.graphs.map (fun e => (e.1, { e.2 with restoring := [4] })) })
     after (exec (.sharedBlockRestored 0 3) s) (fun t => (graphAt t 0 3).map (·.restoring) == some []) = true) := by
  decide +kernel

/-! ### Engines -/

/-- Engine e at work on the step of a code, with a parameter block. -/
def atEngine (e code : Nat) (param : List Byte) : State := atStep (engineState code param [.ended, .running, .waiting, .waiting]) e false none
/-- Engine e has done its step's work. -/
def did (ch e : Nat) (t : State) : Bool := ((chanAt t ch).engines.getD e {}).worked

theorem test_vision :
    (let s := atEngine 0 2 []
     ((atWork s 0 0 2).isSome && (runningStep s 0 0).any (fun r => (itemOf s r.2.1).isSome && (r.2.1.sid.bind (sessAt s)).isSome)) = true) ∧
    (let s := atEngine 0 3 []
     ((atWork s 0 0 3).isSome && after (exec (.hypothesiseAndVerify 0) s) (did 0 0)) = true) ∧
    (let s := atEngine 1 4 []
     ((atWork s 0 1 4).isSome && after (exec (.epipolarGather 0) s) (fun t => did 0 1 t && !did 0 0 t)) = true) := by
  decide +kernel

/-- A crate of one ready page for the tensor step of engineState. -/
def withCrate (s : State) : State :=
  (s.modWork (fun w => { w with crates := [(255, { header := [], measurement := [], body := List.replicate 256 0, state := 1, pages := [7] })] }))
/-- The same with a program of one layer whose weights take a byte more than a tile. -/
def twoTiles (s : State) : State :=
  let b := overlay (overlay (overlay (List.replicate 256 0) 6 [1]) 0xC [0x20]) 0x34 (leBytes 4 524289)
  s.modWork (fun w => { w with crates := [(255, { header := [], measurement := [], body := b, state := 1, pages := [7] })] })
theorem test_tensor :
    (let s := withCrate (atEngine 2 5 [])
     ((atWork s 0 2 5).isSome && (crateAt s 255).any (fun c => !needsPoisoned s 0 c { step0 with engine := 5 }) &&
       after (exec (.tensorStep 0 false .clean) s) (did 0 2)) = true) ∧
    (let s := twoTiles (atEngine 2 5 [])
     (after (exec (.tensorStep 0 true .clean) s) (fun t => ((chanAt t 0).engines.getD 2 {}).stall == some 5000000000 && !did 0 2 t &&
         counted s (chanCtr 0 7) 1 t && ((chanAt t 0).engines.getD 2 {}).ta.todo == [{ layer := 0, off := 524288, len := 1 }])) = true) ∧
    (let s := atStep live 2 false (some 4998000000)
     after (exec (.weightTileArrival 0) s) (fun t => ((chanAt t 0).engines.getD 2 {}).stall == none &&
       ((chanAt t 0).engines.getD 2 {}).lastMove == 5000000000) = true) ∧
    (let s := live.modChan 0 (fun c => { c with engines := updAt (updAt c.engines 3 (fun _ => { run := some (0, 0) })) 2 (fun _ => { run := some (1, 0) }) })
     (splitShapeOk 1 128 64 && splitShapeOk 128 1 4096 && !splitShapeOk 129 1 64 && !splitShapeOk 1 1 65 &&
       after (exec (.splitRequest 0 1 128 64) s) (fun t => (chanAt t 0).split == some { m := 1, n := 128, k := 64, yielded := true } &&
         counted s (chanCtr 0 8) 1 t)) = true) ∧
    (let s := live.modChan 0 (fun c => { c with split := some { m := 1, n := 1, k := 64, yielded := false } })
     after (exec (.splitResult 0 (List.replicate 64 0x3F800000) (List.replicate 64 0x40000000) 3) s) (fun t => (chanAt t 0).split == none &&
       (chanAt t 0).exch.result == [0x43000000] && counted s (chanCtr 0 9) 3 t) = true) := by
  decide +kernel

/-- The solver's step of an instance whose clique was late at 4.998 s; of a map job. -/
def mapSolve (stall : Option Nat) : State :=
  (withJob (atStep (engineState 6 [] [.ended, .running, .waiting, .waiting]) 3 false stall) { waitingJob with phase := 1 }).modInst 0 2 (fun x =>
    { x with origin := .mapJob 3 })
theorem test_solver :
    (let s := mapSolve (some 4998000000)
     ((atWork s 0 3 6).isSome && (jobOf s 3).isSome && (instAt s 0 2).map (·.origin) == some (.mapJob 3)) = true) ∧
    (let s := mapSolve (some 4997999999)
     ((atWork s 0 3 6).isSome && after (exec (.solverStep 0 0 [] .clean) s) (fun t => ((chanAt t 0).engines.getD 3 {}).run == none &&
       (instAt t 0 2).map (·.status) == some (some 0x20))) = true) := by
  decide +kernel

/-- The fusion engine at work on an operation. -/
def fuses (op : Nat) : State := atEngine 4 7 [BitVec.ofNat 8 op]
theorem test_fusion :
    (let s := fuses 1
     (fuStep s 0 1).any (fun r => (viewOf s r.2.2.1 r.2.1).isSome && (itemOf s r.2.1).isSome && (r.2.1.sid.bind (sessAt s)).isSome) = true) ∧
    (let s := (fuses 2).modInst 0 2 (fun x => { x with work := some { solved := some {} } })
     ((fuStep s 0 2).any (fun r => (viewOf s r.2.2.1 r.2.1).isSome && (workCtx s r.2.1).solved.isSome) && gridSlot s 0 == none &&
       gridSlot (s.modFus (fun f => { f with patchSlots := 1 })) 0 == some 0 &&
       after (exec (.grid 0) s) (fun t => did 0 4 t && counted s (chanCtr 0 28) 1 t)) = true) ∧
    (let s := fuses 3
     ((fuStep s 0 3).isSome && (runningStep s 0 4).any (fun r => (stepItems r.2.1 r.2.2.2.2).1 == 1)) = true) ∧
    (let s := (fuses 4).modInst 0 2 (fun x => { x with origin := .cycleTrack 5 })
     ((fuStep s 0 4).isSome && after (exec (.tracks 0) s) (fun t => did 0 4 t && NMap.get? t.core.fus.tracks 5 == some [])) = true) := by
  decide +kernel
theorem test_fusionTimes :
    (let s := live.modFus (fun f => { f with obsQ := [(5, [{ chan := 0, sid := 0, t := 3999999999, obs := [] }, { chan := 0, sid := 0, t := 4000000000, obs := [] }])] })
     (!tracksCycle s 0 5 && after (exec (.obsExpire 0 5) s) (fun t => (NMap.getD t.core.fus.obsQ 5 []).map (·.t) == [4000000000] &&
       counted s (chanCtr 0 30) 1 t)) = true) ∧
    (let s := sessions.modSess 0 (fun y => { y with ctx := { y.ctx with quarCamera := some 5000000000, quarOdometry := some 5000000000 } })
     (after (exec (.quarantineEnd 0 0) s) (fun t => (sessAt t 0).map (fun y => (y.ctx.quarCamera, y.ctx.history.getD 0 0)) == some (none, 0x3F800000)) &&
      after (exec (.quarantineEnd 0 1) s) (fun t => (sessAt t 0).map (fun y => (y.ctx.quarOdometry, y.ctx.history.getD 1 0)) == some (none, 0x3F800000))) =
       true) ∧
    (let s := live.modScu (fun u => { u with quarEnd := setAt u.quarEnd 7 (some 5000000000), votes := setAt u.votes 7 [(1, 2)] })
     (arrayQuarantined s 7 && after (exec (.anchorQuarantineEnd 7) s) (fun t => !arrayQuarantined t 7 && t.core.scu.votes.getD 7 [] == [])) = true) := by
  decide +kernel

/-! ### The event table and PTP -/

/-- One entry due exactly now. -/
def fires (action arg period : Nat) (s : State) : State :=
  s.modAir (fun a => { a with events := [(7, { next := 20000000000, period := period, sfn := 0, action := action, arg := arg })] })
def epsUp (s : State) : State := { s with hw := { s.hw with epUp := [true, true] } }
theorem test_eventFire :
    after (exec (.eventFire 7) (fires 1 0x0105 2 live)) (fun t => NMap.get? t.core.air.closes (256 + 5) == some 20000000000 &&
      (NMap.get? t.core.air.events 7).map (·.next) == some 20080000000) = true ∧
    after (exec (.eventFire 7) (fires 4 0x80000001 0 live)) (fun t => t.core.air.events == [] &&
      (scuChain t 31).windows == [(20000000000, none)] && (scuChain t 0).windows == [(20000000000, none)] && (scuChain t 1).windows == []) = true ∧
    (let s := fires 3 0x1 0 (live.modScuChain 0 (fun c => c.openWindow 5))
     after (exec (.eventFire 7) s) (fun t => (scuChain t 0).windows == [(5, some 20000000000)]) = true) ∧
    after (exec (.eventFire 7) (fires 5 0x13F 0 live)) (fun t => counted live (timeCtr 1 2) 1 t && t.out == []) = true ∧
    (let s := fires 5 0x13F 0 (epsUp (live.modAir (fun a => { a with launch := [(127, [1, 2])] })))
     after (exec (.eventFire 7) s) (fun t => t.out == [.ethFrame 1 20000000000 ([1, 2] ++ leBytes 4 (crc32 [1, 2]).toNat)] &&
       t.core.air.launch == []) = true) := by
  decide +kernel
theorem test_eventPins :
    after (exec (.eventFire 7) (fires 6 0x03 0 live)) (fun t => !(t.core.air.tev.getD 3 {}).level) = true ∧
    after (exec (.eventFire 7) (fires 6 0x10 0 live)) (fun t => (t.core.air.tev.getD 0 {}).level) = true ∧
    after (exec (.eventFire 7) (fires 6 0x20 0 live)) (fun t => (t.core.air.tev.getD 0 {}).level) = true ∧
    after (exec (.eventFire 7) (fires 6 0x31 0 live)) (fun t => (t.core.air.tev.getD 1 {}).level) = true ∧
    after (exec (.tevPulseEnd 1) (live.modAir (fun a => { a with tev := setAt a.tev 1 { mode := 3, level := true, pulseEnd := some 20000000000 } })))
      (fun t => t.out == [.tevEdge 1 20000000000 false] && t.core.air.tev.getD 1 {} == { mode := 3 }) = true := by
  decide +kernel
/-- A tracking cycle of group 5 of context 0 in graph slot 3, its home the channel of the group. -/
theorem test_eventCycle :
    (let s := fires 2 (5 + 2 ^ 16 * 0x7F + 2 ^ 24 * 3) 0 (graphs sessions 0x81)
     ((homeOf s 5).any (fun h => (residentAt s h 3).isSome && slotAdmits s h 3 0 && after (exec (.eventFire 7) s) (fun t =>
       (chanAt t h).queue.map (fun w => (w.origin, w.slot, w.deadline)) == [(.cycleTrack 5, 3, 5010000000)]))) = true) := by
  decide +kernel
theorem test_pps :
    after (exec .ppsOutEdge (live.modAir (fun a => { a with ppsHigh := some 5000000000 }))) (fun t => t.core.air.ppsHigh == none &&
      t.out == [.ppsEdge 5000000000 false]) = true ∧
    (let s := live.modAir (fun a => { a with ppsCtl := 0x00640001, ppsLast := some 4999999999 })
     (ppsBoundary s 1 == 5000000000 && after (exec .ppsOutEdge s) (fun t => t.out == [.ppsEdge 5000000000 true] &&
       t.core.air.ppsHigh == some 5000100000)) = true) ∧
    (let s := live.modAir (fun a => { a with ppsCtl := 0x1FFF0002, ppsLast := some 4999999999, epoch := 10000000 })
     after (exec .ppsOutEdge s) (fun t => t.core.air.ppsHigh == some 5005000000) = true) := by
  decide +kernel
/-- A capture 40 quarters after the last one, 39 after it, and into a full queue. -/
def captured (l : Option Nat) (n : Nat) : State := live.modAir (fun a => { a with caps := setAt a.caps 0 { last := l, q := List.replicate n 1 } })
theorem test_capture :
    captures live 0 true = true ∧ captures live 0 false = false ∧ captures live 4 true = false ∧
    after (exec (.captureEdge 0 true) (captured (some 19999999960) 15)) (fun t => (t.core.air.caps.getD 0 {}).q ==
      List.replicate 15 1 ++ [20000000000] && !(t.core.air.caps.getD 0 {}).ovf) = true ∧
    after (exec (.captureEdge 0 true) (captured (some 19999999961) 15)) (fun t => (t.core.air.caps.getD 0 {}).q == List.replicate 15 1) = true ∧
    after (exec (.captureEdge 0 true) (captured none 16)) (fun t => (t.core.air.caps.getD 0 {}).ovf) = true := by
  decide +kernel

/-- Port 0 in a state of PTP, with its link up. -/
def ptp (x : PtpPort) : State := epsUp (live.modAir (fun a => { a with ports := [{ x with role := 2 }, {}] }))
theorem test_ptpSend :
    (let s := ptp { state := .master }
     (after (exec (.ptpMessageSend 0 .sync) s) (fun t => (ptpPortAt t 0).seq == 1 && t.out.length == 1 && (ptpPortAt t 0).egress == []) &&
      after (exec (.ptpMessageSend 0 .announce) s) (fun t => (ptpPortAt t 0).seq == 1 && t.out.length == 1)) = true) ∧
    (let s := ptp { state := .master, stepMode := 2, seq := 65535 }
     after (exec (.ptpMessageSend 0 .sync) s) (fun t => (ptpPortAt t 0).seq == 0 && (ptpPortAt t 0).egress == [(0, 65535, 5000000000 * 65536)]) = true) ∧
    (let s := ptp { state := .master, stepMode := 2, egress := [(0, 9, 65536)] }
     after (exec (.ptpMessageSend 0 .followUp) s) (fun t => (ptpPortAt t 0).egress == [] && t.out.length == 1) = true) ∧
    (let s := ptp { state := .slave }
     after (exec (.ptpMessageSend 0 .delayReq) s) (fun t => (ptpPortAt t 0).delayReq == some (0, 5000000000 * 65536) &&
       (ptpPortAt t 0).egress == [(1, 0, 5000000000 * 65536)]) = true) := by
  decide +kernel
/-- A PTP frame of domain 24: type, flags, sequence number and body. -/
def ptpIn (type flags seq : Nat) (body : List Byte) : List Byte :=
  beBytes 6 0x011B19000000 ++ beBytes 6 1 ++ beBytes 2 0x88F7 ++ beBytes 1 type ++ [2] ++ beBytes 2 (34 + body.length) ++ [24, 0] ++
  beBytes 2 flags ++ beBytes 8 0 ++ beBytes 4 0 ++ beBytes 10 77 ++ beBytes 2 seq ++ [0, 0] ++ body
/-- Stamps of one second, and of one second and 100 ns. -/
def t1 : List Byte := beBytes 6 1 ++ beBytes 4 0
def t1p : Nat := 1000000100 * 65536
theorem test_ptpRx :
    (let s := ptp { state := .slave }
     after (exec (.ptpFrameRx 0 [1] 5) s) (fun t => t == s.bump (timeCtr 0 0) 1) = true) ∧
    (let s := ptp { state := .listening }
     (ptpGood s 0 (ptpIn 11 0 0 (t1 ++ List.replicate 20 0)) && after (exec (.ptpFrameRx 0 (ptpIn 11 0 0 (t1 ++ List.replicate 20 0)) 5) s) (fun t =>
       (ptpPortAt t 0).announce == some (5000000000, ptpIn 11 0 0 (t1 ++ List.replicate 20 0)))) = true) ∧
    (let s := ptp { state := .master }
     (ptpGood s 0 (ptpIn 1 0 0 t1) && after (exec (.ptpFrameRx 0 (ptpIn 1 0 0 t1) 5) s) (fun t => t.out.length == 1)) = true) ∧
    (let s := ptp { state := .slave }
     (ptpGood s 0 (ptpIn 0 0x200 3 t1) && after (exec (.ptpFrameRx 0 (ptpIn 0 0x200 3 t1) 5) s) (fun t =>
       (ptpPortAt t 0).sync == some (3, 0, 5, 0, false))) = true) ∧
    (let s := ptp { state := .uncalibrated, delay := some (0, 300 * 65536, 0), asym := 65536 }
     (ptpGood s 0 (ptpIn 0 0 3 t1) && after (exec (.ptpFrameRx 0 (ptpIn 0 0 3 t1) t1p) s) (fun t => (ptpPortAt t 0).state == .slave &&
       t.core.time.measSeq == 1 && t.core.time.measPath == 200 * 65536 && t.core.time.measOffset == BitVec.ofInt 64 (-101 * 65536))) = true) ∧
    (let s := ptp { state := .slave, delayReq := some (9, 70) }
     (ptpGood s 0 (ptpIn 9 0 9 (t1 ++ beBytes 10 0))) = true) := by
  decide +kernel
theorem test_ptpTimers :
    (let s := ptp { state := .slave, heard := 4624999999, announce := some (4624999999, []), delay := some (1, 2, 3) }
     after (exec (.ptpAnnounceTimeout 0) s) (fun t => (ptpPortAt t 0).announce == none && (ptpPortAt t 0).delay == none &&
       (ptpPortAt t 0).heard == 5000000000) = true ∧
     after (exec (.ptpAnnounceTimeout 0) (s.modPtp 0 (fun x => { x with heard := 4625000000 }))) (fun t => (ptpPortAt t 0).heard == 4625000000) = true) ∧
    (let s := live.modTime (fun t => { t with clockQ := .locked, lastMeas := some 3999999999 })
     after (exec .holdoverTimeout s) (fun t => t.core.time.clockQ == .holdover && t.core.time.holdSince == some 5000000000 &&
       (t.err.regs.getD 1 {}).bits.getLsbD 5) = true) ∧
    (let s := atDt (live.modTime (fun t => { t with clockQ := .holdover, holdSince := some 1 })) 1000000000001
     after (exec .clockClassTimer s) (fun t => t.core.time.hold165) = true) := by
  decide +kernel

/-! ### Soundings -/

/-- A frame of one section with PRBs 1 and 2 at 9 bits, of eAxC 5, frame 0, the first symbol that binding 1 takes. -/
def frame0 (eth : Nat) : List Byte :=
  let u := beBytes 2 5 ++ beBytes 1 0 ++ beBytes 1 0x80 ++ beBytes 1 0x10 ++ beBytes 1 0 ++ beBytes 2 0 ++
    beBytes 4 (2 ^ 8 * 1 + 2) ++ [0x91, 0] ++ List.replicate 56 0
  List.replicate 12 0 ++ beBytes 2 eth ++ [0x10, 0] ++ beBytes 2 u.length ++ u
def element0 : Element := { eaxc := 5, enabled := true, offset := [0, 0, 0], delay := 0, phase := 0, gain := 0x1000 }
def bound1 : Binding := { binding0 with comb := 2, combOff := 0, period := 1, slotOff := 0, sym := 0 }
/-- Binding 1 on port 1, a running chain 0, and its array's symbol in assembly; DT is 5.12 s, a start of frame 0. -/
def sym1 : Sym :=
  { binding := 1, bound := bound1, sid := 0, port := 1, sfn := 512, subframe := 0, slot := 0, symbol := 0, air := 20480000000, tAir := 5120000000,
    mu := 1, first := 1, els := [{ array := 0, element := 0, chain := 0, def_ := element0 }], began := 5119967999 }
def radio (y : Sym) : State :=
  atDt ((epsUp sessions).modScu (fun u => { u with
    chains := setAt u.chains 0 { run := true, port := 1 }
    bindings := [(1, bound1)]
    arrays := setAt u.arrays 0 { mask := 0xFFFF, elements := [element0] }
    syms := [(3, y)] })) 5120000000
theorem test_epFrames :
    after (exec (.epFrameRx 1 (frame0 0x0800) false) (radio sym1)) (fun t => counted (radio sym1) (scuPortCtr 1 1) 1 t) = true ∧
    after (exec (.epFrameRx 1 ((frame0 0xAEFE).take 40) false) (radio sym1)) (fun t => counted (radio sym1) (scuPortCtr 1 0) 1 t) = true ∧
    (let s := atDt (radio { sym1 with phase := 1 }) 5122000001
     (dtExact s - (airStart s { eaxc := 5, frameId := 0, subframe := 0, slot := 0, symbol := 0, sections := [] }).1 == 2000001 &&
       after (exec (.epFrameRx 1 (frame0 0xAEFE) false) s) (fun t => counted s (scuPortCtr 1 2) 1 t &&
         after (exec (.epFrameRx 1 (frame0 0xAEFE) false) t) (fun u => counted s (scuPortCtr 1 2) 1 u))) = true) := by
  decide +kernel
theorem test_section :
    (let s := radio sym1
     (symOf s.pruneIntake 1 20480000000 == some (3, sym1) && (matchingElements s bound1).any (fun z => z.2.2.eaxc == 5) &&
       after (exec (.epFrameRx 1 (frame0 0xAEFE) false) s) (fun t =>
         (NMap.get? t.core.scu.syms 3).map (fun y => y.els.map (fun e => e.prbs.map (fun q => (q.1, q.2.1, q.2.2.length)))) ==
           some [[(1, 9, 28), (2, 9, 28)]] && t.core.scu.held == [0, 56])) = true) ∧
    (let s := radio { sym1 with phase := 1 }
     after (exec (.epFrameRx 1 (frame0 0xAEFE) false) s) (fun t => t.core.scu.held == [0, 0]) = true) := by
  decide +kernel
/-- R340: 56 bytes into an ingress FIFO that holds 65,500 do not fit; 8 ns later they do. -/
theorem test_ingressFifo :
    (let s (at_ : Nat) := (radio sym1).modScu (fun u => { u with fifo := [(0, 0), (65500, at_)] })
     after (exec (.epFrameRx 1 (frame0 0xAEFE) false) (s 5120000000)) (fun t => t.core.scu.syms == [] && t.core.scu.held == [0, 0] &&
       counted (radio sym1) (scuPortCtr 1 8) 1 t) &&
     after (exec (.epFrameRx 1 (frame0 0xAEFE) false) (s 5119999992)) (fun t => t.core.scu.held == [0, 56] &&
       t.core.scu.fifo == [(0, 0), (65492, 5120000000)])) = true := by
  decide +kernel
theorem test_symbols :
    (let s := radio sym1
     after (exec (.symbolIncomplete 3) s) (fun t => t.core.scu.syms == [] && t.core.scu.gone == [(1, 20480000000)] &&
       counted s (scuPortCtr 1 7) 1 t && counted s (scuPortCtr 1 9) 1 t) = true ∧
     after (exec (.symbolIncomplete 3) (atDt s 5119999999)) (fun t => t.core.scu.gone == []) = true) ∧
    (let s := (radio { sym1 with phase := 1, els := sym1.els ++ sym1.els }).modScuChain 0 (fun c => { c with run := false })
     after (exec (.elementRebuild 3) s) (fun t => (NMap.get? t.core.scu.syms 3).map (fun y => (y.built, y.delivered)) == some (1, 0) &&
       counted s (scuPortCtr 1 6) 1 t &&
       after (exec (.elementRebuild 3) t) (fun u => u.core.scu.gone == [(1, 20480000000)])) = true) := by
  decide +kernel
theorem test_references :
    (let s := live.modScu (fun u => { u with bindings := [(9, { binding0 with ref := some { rho := 1, tauLast := 0, lastValid := 3999999999, array := 0 } })] })
     after (exec (.refTimeout 9) s) (fun t => t.core.scu.bindings == [(9, binding0)]) = true ∧
     after (exec (.refTimeout 9) (atDt s 4999999999)) (fun t => (bindingAt t 9).any (fun b => b.ref.isSome)) = true) ∧
    (let s := live.modScuChain 31 (fun c => { c with run := true, owner := 1 })
     ((scuChain s 31).run && (scuChain s 31).owner == 1 && NMap.get? s.core.scu.lastTest 31 == none) = true) := by
  decide +kernel

/-- R221 by hand: 1 m/s² for 1 s moves by half a metre and 1 m/s, which leaves only the velocity residual of 1; no motion leaves none. -/
theorem test_coast :
    (let still : Val := { type := 2, s := List.replicate 9 0 }
     let moved : Val := { type := 2, pose := { t := ⟨1 / 2, 0, 0⟩ }, s := [1, 0, 0, 0, 0, 0, 0, 0, 0] }
     coastRes 1 still moved = [0, 1, 0, 0, 0, 0] ∧ coastRes 1 still still = [0, 0, 0, 0, 0, 0]) := by decide +kernel

/-! ### Rules of the spec -/

theorem test_pinCapApplied :
    after (exec (.pwrCapSample 3) live) (fun t => after (exec (.pwrCapSample 3) t) (fun u => after (exec (.powerWindow 100) u) (fun w =>
      w.core.pow.pinCap == 60))) = true := by decide +kernel
theorem test_areaCounters :
    after (exec (.rareaRdWrite 15 0xFFFFFFFF) live) (fun t => (areaAt t 15).rd == 0xFFFFFFFF &&
      after (exec (.halfReadLatch ⟨0x403C, 4⟩) t) (fun u => u.out == [.readData [255, 255, 255, 255] false])) = true ∧
    areaFree { size := 256, rd := 0xFFFFFFFF, wr := 3, reserved := 2 } = 250 ∧
    (let p := [2, 255] ++ leBytes 2 1 ++ leBytes 4 256 ++ leBytes 8 0x3000 ++ leBytes 4 1
     let s := ask (sessions.modArea 2 (fun a => { a with reserved := 1 })) 8 0x0302 p
     (takes s 8 0x0302 p && ringSize 256 1048576 256 && responds s 8 0x13 [] s.core (exec (.resultAreaSet 8) s)) = true) := by
  decide +kernel
theorem test_symbolStart : airOf 3 7 (7 + 10240000000 * (-1) + symStart 3 1023 9 7 13) =
    { sfn := 1023, subframe := 9, slot := 7, symbol := 13, offset := 0 } := by decide +kernel
theorem test_assignment : assignment [[some 5, some 3], [none, some 1], [none, none]] 2 = [some 0, some 1, none] := by decide +kernel

/-- States that are sound, a step between them, and a state that is not. -/
theorem test_sound : live.hw.good = true ∧ live.loft.good = true ∧ live.core.pow.legal = true ∧ incMin ≤ live.core.time.inc.toNat ∧
    live.core.time.inc.toNat ≤ incMax ∧ (live.modPow (fun p => { p with ctlMhz := 450 })).core.pow.legal = false := by decide +kernel
theorem test_soundStep : after (step { live with pending := [.strapChange 7 true 3] }) (fun t => t.hw.good && t.core.pow.legal) = true := by
  decide +kernel

end Sys2Proof.Tests
end

section
/-! The pin cap and the hatch cap (R36 to R38): POWER_CAP on its three kinds of value, and the pins' way to the control loop. -/
namespace Sys2Proof.Machine

/-! ### Checks and dispatch -/

/-- One check in front of a command's own part. -/
theorem guarded_need (s : State) (h st : Nat) (ok : Bool) (act : State → State) :
    s.guarded h [need ok st] act = if ok then act s else s.place h st := by
  cases ok <;> rfl

theorem exec_powerCap (h : Nat) (s : State) : exec (.powerCap h) s = .next (serve 0x0103 h powerCapBody s) := rfl

theorem exec_pwrCapSample (pins : Nat) (s : State) : exec (.pwrCapSample pins) s = execPwrCapSample pins s := rfl

theorem exec_powerWindow (dw : Nat) (s : State) : exec (.powerWindow dw) s = execPowerWindow dw s := rfl

/-! ### The column of R36 -/

/-- No cap of the column is 0, the value with which POWER_CAP only reports. -/
theorem pinCapOf_ne_zero (p : Part) (i : Nat) : pinCapOf p i ≠ 0 := by
  unfold pinCapOf
  repeat' split
  all_goals decide

theorem inColumn_iff (p : Part) (w : Nat) :
    (List.range 4).any (fun i => pinCapOf p i == w) = true ↔ ∃ i < 4, pinCapOf p i = w := by
  simp only [List.any_eq_true, List.mem_range, beq_iff_eq]

/-! ### POWER_CAP's own part -/

/-- POWER_CAP's response: the effective cap, the pin cap and the hatch cap (R37). -/
def capReport (p : Pow) : List Byte := leBytes 2 (min p.pinCap p.hatchCap) ++ leBytes 2 p.pinCap ++ leBytes 2 p.hatchCap

section Body
variable {r : Req} {s : State}

theorem powerCapBody_zero (h0 : r.u16 0 = 0) : powerCapBody r s = s.place r.h 0x00 (capReport s.core.pow) := by
  simp only [powerCapBody, guarded_need, h0, beq_self_eq_true, Bool.true_or, if_true]
  rfl

theorem powerCapBody_column {i : Nat} (hi : i < 4) (hw : r.u16 0 = pinCapOf s.hw.part i) :
    powerCapBody r s =
      (s.modPow (fun p => { p with hatchCap := r.u16 0 })).place r.h 0x00 (capReport { s.core.pow with hatchCap := r.u16 0 }) := by
  have hne : (r.u16 0 == 0) = false := by rw [hw]; exact beq_false_of_ne (pinCapOf_ne_zero _ _)
  have hcol := (inColumn_iff s.hw.part (r.u16 0)).2 ⟨i, hi, hw.symm⟩
  simp only [powerCapBody, guarded_need, hne, hcol, Bool.or_true, if_true, Bool.false_eq_true, if_false]
  rfl

theorem powerCapBody_other (h0 : r.u16 0 ≠ 0) (hw : ∀ i < 4, r.u16 0 ≠ pinCapOf s.hw.part i) :
    powerCapBody r s = s.place r.h 0x11 := by
  have hcol := mt (inColumn_iff s.hw.part (r.u16 0)).1 (fun ⟨i, hi, h⟩ => hw i hi h.symm)
  simp only [powerCapBody, guarded_need, beq_false_of_ne h0, Bool.false_or, if_neg hcol]

end Body

/-- Settles O5: the hatch cap after a core reset is the package limit by definition, and each kind of value has its equation for
POWER_CAP's own part, which runs on the taken request and places one response. -/
theorem powerCapStoresTheHatchCap : Obligations.PowerCapStoresTheHatchCap := by
  unfold Obligations.PowerCapStoresTheHatchCap
  refine ⟨fun _ _ => rfl, fun s h p ht => ?_⟩
  have laid := laid_taken s h (canTake_of_takes ht)
  have hpart : (taken s h).hw.part = s.hw.part := by rw [laid.kept.hw]
  rw [exec_powerCap, serve_takes powerCapBody ht]
  refine ⟨fun i hi hw => ?column, fun h0 => ?zero, fun h0 hw => ?other⟩
  case column =>
    rw [← hpart] at hw
    rw [powerCapBody_column (r := requestIn s h p) hi hw, laid.pow_eq]
    exact (laid.modPow _).place 0x00 _ (by decide)
  case zero =>
    rw [powerCapBody_zero (r := requestIn s h p) h0, laid.pow_eq]
    exact laid.place 0x00 _ (by decide)
  case other =>
    rw [← hpart] at hw
    rw [powerCapBody_other (r := requestIn s h p) h0 hw]
    exact laid.place 0x11 [] (by decide)

/-! ### From the pins to the loop (R38) -/

@[simp] theorem loop_pinCap (p : Pow) (dw cap : Nat) : (p.loop dw cap).pinCap = p.pinCap := by
  unfold Pow.loop
  dsimp only
  repeat' split
  all_goals rfl

@[simp] theorem measure_pinCap (p : Pow) (dw mhz now : Nat) : (p.measure dw mhz now).pinCap = p.pinCap := by
  simp only [Pow.measure, apply_ite Pow.pinCap, ite_self]

@[simp] theorem traceRec_pow (s : State) (type src : Nat) (p : List Byte) (m : Nat) :
    (s.traceRec type src p m).core.pow = s.core.pow := by
  obtain ⟨_, _, _, _, h⟩ := traceRec_eq s type src p m
  rw [h]; rfl

/-- After ST9 a sample of the pins is kept, and the second of two like samples gives the next pin cap. -/
theorem pwrCapSample_ready {s : State} (hr : running s = true) (hp : s.core.sys.phase = .ready) (pins : Nat) :
    ∃ t, exec (.pwrCapSample pins) s = .next t ∧ running t = true ∧ t.core.sys.phase = .ready ∧ t.hw.part = s.hw.part ∧
      t.core.pow.pinSample = pins % 4 ∧
      (s.core.pow.pinSample = pins % 4 → t.core.pow.pinNext = pinCapOf s.hw.part (pins % 4)) := by
  have hr' : running (s.modHw (fun h => { h with capPins := pins % 4 })) = true := hr
  simp only [exec_pwrCapSample, execPwrCapSample, State.modHw_core, hp, hr', beq_self_eq_true, Bool.and_self, if_true]
  refine ⟨_, rfl, hr, hp, rfl, rfl, fun hs => ?_⟩
  simp [hs]

/-- A window of the control loop applies the next pin cap. -/
theorem powerWindow_ready {s : State} (hr : running s = true) (hp : s.core.sys.phase = .ready) (dw : Nat) :
    ∃ t, exec (.powerWindow dw) s = .next t ∧ t.core.pow.pinCap = s.core.pow.pinNext := by
  simp only [exec_powerWindow, execPowerWindow, hp, hr, beq_self_eq_true, Bool.and_self, if_true]
  exact ⟨_, rfl, by simp⟩

/-- Settles O53: the table by evaluation; the first sample is kept, the second is like it and gives the next pin cap, and the
window applies that. -/
theorem pinCapsFollowTheTable : Obligations.PinCapsFollowTheTable := by
  unfold Obligations.PinCapsFollowTheTable
  refine ⟨by decide, by decide, fun s v dw hr hp hv => ?_⟩
  obtain ⟨t, ht, hrt, hpt, hpart, hsample, -⟩ := pwrCapSample_ready hr hp v
  obtain ⟨u, hu, hru, hpu, -, -, hnext⟩ := pwrCapSample_ready hrt hpt v
  obtain ⟨w, hw, hcap⟩ := powerWindow_ready hru hpu dw
  refine ⟨t, u, w, ht, hu, hw, ?_⟩
  rw [hcap, hnext hsample, hpart, Nat.mod_eq_of_lt hv]

end Sys2Proof.Machine
end

section
/-! Result areas (R60): RD_COUNT at its BAR0 offset, the free slots, and RESULT_AREA_SET on an area that holds reserved slots. -/
namespace Sys2Proof.Machine

theorem exec_rareaRdWrite (n v : Nat) (s : State) : exec (.rareaRdWrite n v) s = execRareaRdWrite n v s := rfl

theorem exec_registerWrite (off width v : Nat) (poisoned : Bool) (s : State) :
    exec (.registerWrite off width v poisoned) s = execRegisterWrite off width v poisoned s := rfl

theorem exec_halfReadLatch (r : BarRead) (s : State) : exec (.halfReadLatch r) s = .next (s.barRead r.off r.width) := rfl

theorem exec_resultAreaSet (h : Nat) (s : State) : exec (.resultAreaSet h) s = .next (serve 0x0302 h resultAreaSetBody s) := rfl

/-! ### Checks in order -/

theorem guarded_cons_of_pass {s : State} {h st : Nat} {ok : Bool} (hok : ok = true) (l : List (Option Nat)) (act : State → State) :
    s.guarded h (need ok st :: l) act = s.guarded h l act := by
  subst hok; rfl

theorem guarded_cons_of_fail {s : State} {h st : Nat} {ok : Bool} (hok : ok = false) (l : List (Option Nat)) (act : State → State) :
    s.guarded h (need ok st :: l) act = s.place h st := by
  subst hok; rfl

/-! ### RD_COUNT: what the state holds -/

theorem areaAt_modArea_self {s : State} {n : Nat} (hn : n < s.core.ring.areas.length) (f : Area → Area) :
    areaAt (s.modArea n f) n = f (areaAt s n) := by
  simp only [areaAt, State.modArea_core]
  exact getD_updAt_self _ _ _ _ hn

theorem areaAt_setAreaRd_rd {s : State} {n : Nat} (hn : n < s.core.ring.areas.length) (v : Nat) :
    (areaAt (s.setAreaRd n v) n).rd = BitVec.ofNat 32 v := by
  rw [State.setAreaRd, areaAt_modArea_self hn]

/-! ### RD_COUNT: its offset in BAR0 -/

/-- A word's own bytes are read at its aligned offset. -/
theorem barBytes_aligned (s : State) {a : Nat} (ha : a % 4 = 0) : barBytes s a 4 = leBytes 4 (bar0Word s a).toNat := by
  have hbase : a / 4 * 4 = a := by omega
  simp only [barBytes, ha, hbase]
  rfl

/-- No 64-bit register lies below HATCH_DONE. -/
theorem is64_of_lt {a : Nat} (ha : a < 0x4200) : is64 a = false := by
  have hbelow : ∀ b, 0x4200 ≤ b → decide (b ≤ a) = false := fun b hb => decide_eq_false (by omega)
  simp [is64, hbelow]
  omega

/-- A read of a 32-bit register below HATCH_DONE answers with its word and does nothing else. -/
theorem read32_of_lt (s : State) {a : Nat} (ha : a % 4 = 0) (hlt : a < 0x4200) :
    s.read32 a = s.emit (.readData (leBytes 4 (bar0Word s a).toNat) false) := by
  have hlatch : (a == 0x20040) = false ∧ (a == 0x20208) = false := ⟨beq_false_of_ne (by omega), beq_false_of_ne (by omega)⟩
  simp [State.read32, is64_of_lt hlt, is64_of_lt (show a - 4 < 0x4200 by omega), hlatch, barBytes_aligned s ha]

theorem barRead_word {s : State} (hr : running s = true) (he : endpointUp s = true) {a : Nat} (ha : a % 4 = 0) :
    s.barRead a 4 = s.read32 a := by
  simp [State.barRead, hr, he, ha]

theorem barWrite_word {s : State} (hr : running s = true) {a v : Nat} (ha : a % 4 = 0) (hhatch : 0x4000 ≤ a) (hv : v < 2 ^ 32) :
    s.barWrite a 4 v = s.write32 a v := by
  have hnot : decide (a < 0x4000) = false := decide_eq_false (by omega)
  have hword : v % 4294967296 = v := Nat.mod_eq_of_lt hv
  simp [State.barWrite, hr, ha, hnot, hword]

section RareaRd
variable (s : State) {n : Nat} (hn : n < 16)
include hn

theorem bar0Word_rareaRd : bar0Word s (0x4000 + 4 * n) = (areaAt s n).rd := by
  have hlow : ¬ 0x4000 + 4 * n < 0x4000 := by omega
  have hhigh : 0x4000 + 4 * n < 0x4040 := by omega
  have hindex : (0x4000 + 4 * n - 0x4000) / 4 = n := by omega
  rw [bar0Word, if_neg hlow, if_pos hhigh, hindex, BitVec.ofNat_toNat, BitVec.setWidth_eq]

theorem write32_rareaRd (v : Nat) : s.write32 (0x4000 + 4 * n) v = s.setAreaRd n v := by
  have hlow : ¬ 0x4000 + 4 * n < 0x4000 := by omega
  have hhigh : 0x4000 + 4 * n < 0x4040 := by omega
  have hindex : (0x4000 + 4 * n - 0x4000) / 4 = n := by omega
  rw [State.write32, if_neg hlow, if_pos hhigh, hindex]

variable {s}

theorem exec_registerWrite_rareaRd (hr : running s = true) {v : Nat} (hv : v < 2 ^ 32) :
    exec (.registerWrite (0x4000 + 4 * n) 4 v false) s = .next (s.setAreaRd n v) := by
  simp only [exec_registerWrite, execRegisterWrite, Bool.false_eq_true, if_false]
  rw [barWrite_word hr (by omega) (by omega) hv, write32_rareaRd s hn]

theorem exec_halfReadLatch_rareaRd (hr : running s = true) (he : endpointUp s = true) :
    exec (.halfReadLatch ⟨0x4000 + 4 * n, 4⟩) s = .next (s.emit (.readData (leBytes 4 (areaAt s n).rd.toNat) false)) := by
  have haligned : (0x4000 + 4 * n) % 4 = 0 := by omega
  rw [exec_halfReadLatch, barRead_word hr he haligned, read32_of_lt s haligned (by omega), bar0Word_rareaRd s hn]

end RareaRd

/-! ### Free slots -/

/-- The difference of the counts modulo 2³² is the number of records not yet consumed, however often the counts have wrapped. -/
theorem areaFree_of_ahead {a : Area} {k : Nat} (hk : k < 2 ^ 32) (hw : a.wr = a.rd + BitVec.ofNat 32 k) :
    areaFree a = a.size - k - a.reserved := by
  have hdiff : (a.wr - a.rd).toNat = k := by
    rw [hw, BitVec.add_comm, BitVec.add_sub_cancel, BitVec.toNat_ofNat, Nat.mod_eq_of_lt hk]
  rw [areaFree, hdiff, Nat.sub_add_eq]

/-! ### RESULT_AREA_SET -/

/-- The checks of R111 on the arguments pass, and the reserved slots fail the next one. -/
theorem resultAreaSetBody_reserved {r : Req} {s : State} (ha : r.u8 0 < 16) (hv : r.u8 1 ≤ 63 ∨ r.u8 1 = 255)
    (hsize : r.u32 4 = 0 ∨ 1 ≤ r.u16 2 ∧ r.u16 2 ≤ 1024 ∧ ringSize 256 1048576 (r.u32 4) = true ∧ r.u64 8 % 4096 = 0 ∧
      1 ≤ r.u32 16 ∧ r.u32 16 ≤ 10000)
    (hres : (areaAt s (r.u8 0)).reserved ≠ 0) : resultAreaSetBody r s = s.place r.h 0x13 := by
  unfold resultAreaSetBody
  rw [guarded_cons_of_pass, guarded_cons_of_pass, guarded_cons_of_fail]
  · simp [hres]
  · simpa [and_assoc] using hsize
  · simpa [ha] using hv

/-- Settles O55: the write of RD_COUNT and its register's offset reach one update, which a read there shows; the counts differ by
the records not consumed; and the taken request meets the area as it stood. -/
theorem areaCountersAndSlots : Obligations.AreaCountersAndSlots := by
  unfold Obligations.AreaCountersAndSlots
  refine ⟨by decide, fun s n v hr he hn hlen hv => ?rdCount, fun a k hk hs hw => areaFree_of_ahead (by omega) hw,
    fun s h p ht ha hvec hsize hres => ?reserved⟩
  case rdCount =>
    have hrd := areaAt_setAreaRd_rd (s := s) (hlen ▸ hn) v
    have hread := exec_halfReadLatch_rareaRd (s := s.setAreaRd n v) hn hr he
    rw [hrd, BitVec.toNat_ofNat, Nat.mod_eq_of_lt hv] at hread
    refine ⟨_, _, ?_, exec_registerWrite_rareaRd hn hr hv, hread, rfl, hrd⟩
    rw [exec_rareaRdWrite, execRareaRdWrite, if_pos hr]
  case reserved =>
    have laid := laid_taken s h (canTake_of_takes ht)
    have hres' : (areaAt (taken s h) (fieldAt p 0 1)).reserved ≠ 0 := by rwa [areaAt, laid.ring_eq]
    rw [exec_resultAreaSet, serve_takes resultAreaSetBody ht,
      resultAreaSetBody_reserved (r := requestIn s h p) ha hvec hsize hres']
    exact laid.place 0x13 [] (by decide)

end Sys2Proof.Machine
end

section
/-! The default slot table (R415): the image's bytes as R413 lays them out, the pattern of each quarter, the shares and the classes. -/
namespace Sys2Proof.Machine

/-! ### Single elements of a list of bytes and of a tabled function -/

theorem getD_map_range {α : Type} {m i : Nat} (f : Nat → α) (d : α) (hi : i < m) : ((List.range m).map f).getD i d = f i := by
  simp [List.getD, hi]

theorem fieldAt_one (bs : List Byte) (off : Nat) : fieldAt bs off 1 = (bs.getD off 0).toNat := by
  cases h : bs.drop off with
  | nil => simp [fieldAt, bytesAt, leNat, h, List.getD, List.drop_eq_nil_iff.1 h]
  | cons b l =>
    have hb : bs[off]? = some b := by rw [← List.head?_drop, h, List.head?_cons]
    simp [fieldAt, bytesAt, leNat, h, List.getD, hb]

theorem getD_padTo {n i : Nat} (bs : List Byte) (hi : i < n) : (padTo n bs).getD i 0 = bs.getD i 0 := by
  simp only [padTo, bytesAt, List.drop_zero]
  rcases lt_or_ge i bs.length with h | h
  · rw [List.getD_append _ _ _ _ (by rw [List.length_take]; omega)]
    simp [List.getD, hi]
  · rw [List.getD_append_right _ _ _ _ (by rw [List.length_take]; omega), List.getD_eq_default _ _ h,
      List.getD, List.getElem?_getD_replicate_default_eq]

/-- Past the part that is laid over it a byte string stays. -/
theorem getD_overlay_past {off i : Nat} (bs part : List Byte) (hi : off + part.length ≤ i) :
    (overlay bs off part).getD i 0 = bs.getD i 0 := by
  have hlen : (padTo off bs ++ part).length = off + part.length := by rw [List.length_append, padTo_length]
  rw [overlay, List.getD_append_right _ _ _ _ (by omega), hlen]
  simp [List.getD, Nat.add_sub_cancel' hi]

/-! ### The default image's fields (R413) -/

/-- Each owner of the table fits its byte. -/
theorem defaultOwner_lt : ∀ i < 256, defaultOwner i < 2 ^ 8 := by decide +kernel

/-- Each class of the table fits its byte. -/
theorem defaultBg_lt : ∀ id < 56, defaultBg id < 2 ^ 8 := by decide +kernel

/-- The bytes of the default image that follow its first 16: owners, classes, MIG_PAGES and PROMOTE_HEAT. -/
def defaultTable : List Byte :=
  (List.range 256).map (fun i => BitVec.ofNat 8 (defaultOwner i)) ++
    ((List.range 56).map (fun i => BitVec.ofNat 8 (defaultBg i)) ++ (leBytes 2 256 ++ leBytes 1 24))

theorem getD_defaultImage {i : Nat} (hi : 0x10 + i < 4096) : defaultImage.getD (0x10 + i) 0 = defaultTable.getD i 0 := by
  have hhead : (leBytes 4 0x48594101 ++ leBytes 2 1 ++ leBytes 2 50 ++ leBytes 4 0 ++ leBytes 4 0).length = 0x10 := rfl
  have hskip := List.getD_append_right _ defaultTable 0 (0x10 + i) (by rw [hhead]; exact Nat.le_add_right _ _)
  rw [hhead, Nat.add_sub_cancel_left] at hskip
  rw [defaultImage, getD_overlay_past _ _ (by rw [leBytes_length]; omega), getD_padTo _ hi, ← hskip]
  simp only [defaultTable, List.append_assoc]

theorem defaultImage_owner {i : Nat} (hi : i < 256) : fieldAt defaultImage (0x10 + i) 1 = defaultOwner i := by
  rw [fieldAt_one, getD_defaultImage (by omega), defaultTable, List.getD_append _ _ _ _ (by simpa using hi), getD_map_range _ _ hi,
    BitVec.toNat_ofNat, Nat.mod_eq_of_lt (defaultOwner_lt i hi)]

theorem defaultImage_bg {i : Nat} (hi : i < 56) : fieldAt defaultImage (0x110 + i) 1 = defaultBg i := by
  have hoff : 0x110 + i = 0x10 + (256 + i) := by omega
  rw [fieldAt_one, hoff, getD_defaultImage (by omega), defaultTable, List.getD_append_right _ _ _ _ (by simp), List.length_map,
    List.length_range, Nat.add_sub_cancel_left, List.getD_append _ _ _ _ (by simpa using hi), getD_map_range _ _ hi,
    BitVec.toNat_ofNat, Nat.mod_eq_of_lt (defaultBg_lt i hi)]

theorem owners_defaultImage : (fabricOf defaultImage).owners = (List.range 256).map defaultOwner :=
  List.map_congr_left fun _ hi => defaultImage_owner (List.mem_range.1 hi)

theorem bg_defaultImage : (fabricOf defaultImage).bg = (List.range 56).map defaultBg :=
  List.map_congr_left fun _ hi => defaultImage_bg (List.mem_range.1 hi)

/-! ### The pattern of a quarter, and the classes of a channel -/

/-- The owner of slot 8n + k of quarter q. -/
theorem defaultOwner_slot (q : Nat) {n k : Nat} (hn : n < 8) (hk : k < 8) :
    defaultOwner (64 * q + 8 * n + k) =
      match k with
      | 0 => 6 * n
      | 1 => 50
      | 2 => 6 * n + 3
      | 3 => [48, 49, 52, 53, 54, 55, 255, 255].getD n 0
      | 4 => if q % 2 = 0 then 6 * n + 1 else 6 * n + 2
      | 5 => if n % 2 = 0 then 51 else 255
      | 6 => if q % 2 = 0 then 6 * n + 4 else 6 * n + 5
      | _ => 255 := by
  have hquarter : (64 * q + 8 * n + k) / 64 = q := by omega
  have hslot : (64 * q + 8 * n + k) % 64 = 8 * n + k := by omega
  have hgroup : (8 * n + k) / 8 = n := by omega
  have hplace : (8 * n + k) % 8 = k := by omega
  simp only [defaultOwner, hquarter, hslot, hgroup, hplace, beq_iff_eq]
  match k, hk with
  | 0, _ | 1, _ | 2, _ | 4, _ | 6, _ => simp
  | 3, _ => interval_cases n <;> rfl
  | 5, _ | 7, _ => simp; split_ifs <;> omega

/-- The class of requester k of channel n. -/
theorem defaultBg_channel {n k : Nat} (hn : n < 8) (hk : k < 6) :
    defaultBg (6 * n + k) = if k = 3 ∨ k = 5 then 0 else if k = 1 then 2 else 1 := by
  have hplace : (6 * n + k) % 6 = k := by omega
  simp [defaultBg, hplace, show 6 * n + k < 48 by omega]

/-- Settles O54: the image's bytes give back the two tables; a slot's owner and a channel's classes follow from their places, and
the shares are counted over the 256 slots. -/
theorem defaultSlotTable : Obligations.DefaultSlotTable := by
  unfold Obligations.DefaultSlotTable
  simp only [owners_defaultImage, bg_defaultImage]
  refine ⟨fun q n hq hn => ?pattern, by decide +kernel, by decide +kernel, by decide +kernel, by decide +kernel, by decide +kernel,
    fun n hn => ?classes, rfl, rfl, rfl, rfl, fun i hlow hhigh => ?ports⟩
  case pattern =>
    have own (k : Nat) (hk : k < 8 := by decide) :=
      (getD_map_range defaultOwner 0 (show 64 * q + 8 * n + k < 256 by omega)).trans (defaultOwner_slot q hn hk)
    exact ⟨own 0, own 2, own 4, own 6, own 1, own 7, own 5, own 3⟩
  case classes =>
    have bg (k : Nat) (hk : k < 6 := by decide) :=
      (getD_map_range defaultBg 9 (show 6 * n + k < 56 by omega)).trans (defaultBg_channel hn hk)
    exact ⟨bg 3, bg 5, bg 0, bg 2, bg 4, bg 1⟩
  case ports => interval_cases i <;> rfl

end Sys2Proof.Machine
end

section
/-! What every command keeps: each leaves the frame alone but for the few that stand outside it, whose own effects are given one by one. -/
namespace Sys2Proof.Machine

/-! ### The commands that leave the frame alone -/

/-- The commands that leave the frame alone: all but resets, pins, writes that may reach TIME_INC, stores of the loft, and the power loop. -/
def Instr.leavesFrame : Instr → Bool
  | .hatchWrite _ _ _ | .registerWrite _ _ _ _ | .timeIncWrite _ _ | .timeStepWrite _ _ => false
  | .coreResetTimer | .watchdogReset | .recoveryReset | .powerOn | .powerLoss _ => false
  | .resetN | .perstN | .refclkStop | .resetRelease | .refclkReturn => false
  | .strapChange _ _ _ | .pwrCapSample _ | .powerWindow _ | .thermalSample _ _ | .loftStore _ _ _ => false
  | _ => true

theorem frame_exec {s t : State} : ∀ c : Instr, Instr.leavesFrame c = true → exec c s = .next t → frame t = frame s
  | .hatchWrite _ _ _, h, _ => by cases h
  | .ownSet hatch value, _, e => frame_execOwnSet hatch value _ e
  | .vectorWrite hatch value, _, e => frame_execVectorWrite hatch value _ e
  | .patienceExpiry hatch, _, e => frame_execPatienceExpiry hatch _ e
  | .capQuery hatch, _, e => frame_execCapQuery hatch _ e
  | .devState hatch, _, e => frame_execDevState hatch _ e
  | .powerCap hatch, _, e => frame_execPowerCap hatch _ e
  | .eventRingSet hatch, _, e => frame_execEventRingSet hatch _ e
  | .channelRole hatch, _, e => frame_execChannelRole hatch _ e
  | .coreReset hatch, _, e => frame_execCoreReset hatch _ e
  | .coreResetTimer, h, _ => by cases h
  | .echo hatch, _, e => frame_execEcho hatch _ e
  | .bootLoad hatch data, _, e => frame_execBootLoad hatch data _ e
  | .telemetry hatch, _, e => frame_execTelemetry hatch _ e
  | .channelTest hatch, _, e => frame_execChannelTest hatch _ e
  | .sessionOpen hatch, _, e => frame_execSessionOpen hatch _ e
  | .sessionClose hatch, _, e => frame_execSessionClose hatch _ e
  | .sessionCloseDone hatch, _, e => frame_execSessionCloseDone hatch _ e
  | .sessionConfig hatch, _, e => frame_execSessionConfig hatch _ e
  | .sessionSensor hatch data, _, e => frame_execSessionSensor hatch data _ e
  | .sessionQuery hatch, _, e => frame_execSessionQuery hatch _ e
  | .sessionCheckpoint hatch, _, e => frame_execSessionCheckpoint hatch _ e
  | .sessionMove hatch, _, e => frame_execSessionMove hatch _ e
  | .sessionMoveDone hatch, _, e => frame_execSessionMoveDone hatch _ e
  | .streamBind hatch, _, e => frame_execStreamBind hatch _ e
  | .streamUnbind hatch, _, e => frame_execStreamUnbind hatch _ e
  | .batchSubmit hatch data, _, e => frame_execBatchSubmit hatch data _ e
  | .batchComplete hatch, _, e => frame_execBatchComplete hatch _ e
  | .resultAreaSet hatch, _, e => frame_execResultAreaSet hatch _ e
  | .rareaRdWrite area value, _, e => frame_execRareaRdWrite area value _ e
  | .resultIrqTimer area, _, e => frame_execResultIrqTimer area _ e
  | .evringRdWrite value, _, e => frame_execEvringRdWrite value _ e
  | .mapLoad hatch data, _, e => frame_execMapLoad hatch data _ e
  | .mapLoadDone hatch data, _, e => frame_execMapLoadDone hatch data _ e
  | .mapSave hatch, _, e => frame_execMapSave hatch _ e
  | .mapSaveDone hatch, _, e => frame_execMapSaveDone hatch _ e
  | .mapInfo hatch, _, e => frame_execMapInfo hatch _ e
  | .mapOriginSet hatch, _, e => frame_execMapOriginSet hatch _ e
  | .mapOptimise hatch, _, e => frame_execMapOptimise hatch _ e
  | .mapOptimiseDone hatch, _, e => frame_execMapOptimiseDone hatch _ e
  | .crateLoad hatch, _, e => frame_execCrateLoad hatch _ e
  | .crateLoadDone hatch data, _, e => frame_execCrateLoadDone hatch data _ e
  | .crateUnload hatch, _, e => frame_execCrateUnload hatch _ e
  | .crateInfo hatch, _, e => frame_execCrateInfo hatch _ e
  | .graphLoad hatch, _, e => frame_execGraphLoad hatch _ e
  | .graphLoadDone hatch data, _, e => frame_execGraphLoadDone hatch data _ e
  | .graphUnload hatch, _, e => frame_execGraphUnload hatch _ e
  | .graphUnloadDone hatch, _, e => frame_execGraphUnloadDone hatch _ e
  | .timeStatus hatch, _, e => frame_execTimeStatus hatch _ e
  | .airEpochSet hatch, _, e => frame_execAirEpochSet hatch _ e
  | .ptpPortSet hatch, _, e => frame_execPtpPortSet hatch _ e
  | .eventAdd hatch, _, e => frame_execEventAdd hatch _ e
  | .eventRemove hatch, _, e => frame_execEventRemove hatch _ e
  | .tevSet hatch, _, e => frame_execTevSet hatch _ e
  | .launchQueue hatch data, _, e => frame_execLaunchQueue hatch data _ e
  | .scuChainSet hatch, _, e => frame_execScuChainSet hatch _ e
  | .scuCoeffLoad hatch data, _, e => frame_execScuCoeffLoad hatch data _ e
  | .scuChainRun hatch, _, e => frame_execScuChainRun hatch _ e
  | .chainStopDone hatch, _, e => frame_execChainStopDone hatch _ e
  | .soundingBind hatch, _, e => frame_execSoundingBind hatch _ e
  | .soundingUnbind hatch, _, e => frame_execSoundingUnbind hatch _ e
  | .antennaSet hatch data, _, e => frame_execAntennaSet hatch data _ e
  | .certRead hatch, _, e => frame_execCertRead hatch _ e
  | .attest hatch, _, e => frame_execAttest hatch _ e
  | .contextCreate hatch data, _, e => frame_execContextCreate hatch data _ e
  | .contextDestroy hatch, _, e => frame_execContextDestroy hatch _ e
  | .contextDestroyDone hatch, _, e => frame_execContextDestroyDone hatch _ e
  | .confEnter hatch, _, e => frame_execConfEnter hatch _ e
  | .confExit hatch, _, e => frame_execConfExit hatch _ e
  | .modeSwitchDone hatch, _, e => frame_execModeSwitchDone hatch _ e
  | .keyRotate hatch, _, e => frame_execKeyRotate hatch _ e
  | .keyRotateDone hatch, _, e => frame_execKeyRotateDone hatch _ e
  | .counterSnapshot hatch, _, e => frame_execCounterSnapshot hatch _ e
  | .traceSet hatch, _, e => frame_execTraceSet hatch _ e
  | .errDetailRead hatch, _, e => frame_execErrDetailRead hatch _ e
  | .loftRead hatch, _, e => frame_execLoftRead hatch _ e
  | .loftStore _ _ _, h, _ => by cases h
  | .startLogRead hatch, _, e => frame_execStartLogRead hatch _ e
  | .systemInfo hatch, _, e => frame_execSystemInfo hatch _ e
  | .deltaIntervalSet hatch, _, e => frame_execDeltaIntervalSet hatch _ e
  | .linkRetrain hatch, _, e => frame_execLinkRetrain hatch _ e
  | .linkRetrainTimeout hatch, _, e => frame_execLinkRetrainTimeout hatch _ e
  | .errClear index value, _, e => frame_execErrClear index value _ e
  | .timeDtRead half, _, e => frame_execTimeDtRead half _ e
  | .measSeqRead, _, e => frame_execMeasSeqRead _ e
  | .linkMeasSeqRead, _, e => frame_execLinkMeasSeqRead _ e
  | .halfReadLatch r, _, e => frame_execHalfReadLatch r _ e
  | .timeIncWrite _ _, h, _ => by cases h
  | .timeStepWrite _ _, h, _ => by cases h
  | .capturePop source value, _, e => frame_execCapturePop source value _ e
  | .ppsCtlWrite value, _, e => frame_execPpsCtlWrite value _ e
  | .registerWrite _ _ _ _, h, _ => by cases h
  | .bar2Read addr len finding, _, e => frame_execBar2Read addr len finding _ e
  | .bar2Write addr, _, e => frame_execBar2Write addr _ e
  | .unsupportedRequest, _, e => frame_execUnsupportedRequest _ e
  | .dmaCompletionTimeout target poisoned, _, e => frame_execDmaCompletionTimeout target poisoned _ e
  | .powerOn, h, _ => by cases h
  | .resetN, h, _ => by cases h
  | .perstN, h, _ => by cases h
  | .refclkStop, h, _ => by cases h
  | .watchdogReset, h, _ => by cases h
  | .startStepEnd finding, _, e => frame_execStartStepEnd finding _ e
  | .startStepTimeout finding, _, e => frame_execStartStepTimeout finding _ e
  | .recoveryReset, h, _ => by cases h
  | .strapChange _ _ _, h, _ => by cases h
  | .pwrCapSample _, h, _ => by cases h
  | .powerWindow _, h, _ => by cases h
  | .powerLimiterWindow deciWatts, _, e => frame_execPowerLimiterWindow deciWatts _ e
  | .thermalSample _ _, h, _ => by cases h
  | .checkpointTimer sid, _, e => frame_execCheckpointTimer sid _ e
  | .instanceCreate ch slot, _, e => frame_execInstanceCreate ch slot _ e
  | .stepDispatch ch engine shelf, _, e => frame_execStepDispatch ch engine shelf _ e
  | .stepEnded ch engine, _, e => frame_execStepEnded ch engine _ e
  | .dmaIn ch inst data, _, e => frame_execDmaIn ch inst data _ e
  | .imagingStep ch shelf, _, e => frame_execImagingStep ch shelf _ e
  | .hypothesiseAndVerify ch, _, e => frame_execHypothesiseAndVerify ch _ e
  | .epipolarGather ch, _, e => frame_execEpipolarGather ch _ e
  | .tensorStep ch lateTile shelf, _, e => frame_execTensorStep ch lateTile shelf _ e
  | .weightTileArrival ch, _, e => frame_execWeightTileArrival ch _ e
  | .tierStallLimit ch engine, _, e => frame_execTierStallLimit ch engine _ e
  | .splitRequest ch m n k, _, e => frame_execSplitRequest ch m n k _ e
  | .splitResult ch a b lateChunks, _, e => frame_execSplitResult ch a b lateChunks _ e
  | .solverStep ch loadAt timing shelf, _, e => frame_execSolverStep ch loadAt timing shelf _ e
  | .predict ch, _, e => frame_execPredict ch _ e
  | .grid ch, _, e => frame_execGrid ch _ e
  | .radio ch, _, e => frame_execRadio ch _ e
  | .tracks ch, _, e => frame_execTracks ch _ e
  | .ctxTake ch inst shelf, _, e => frame_execCtxTake ch inst shelf _ e
  | .relocOutcome ch inst, _, e => frame_execRelocOutcome ch inst _ e
  | .relocWaitTimeout ch inst, _, e => frame_execRelocWaitTimeout ch inst _ e
  | .ctxPeek ch inst, _, e => frame_execCtxPeek ch inst _ e
  | .result ch inst, _, e => frame_execResult ch inst _ e
  | .selfTestSlice ch pass, _, e => frame_execSelfTestSlice ch pass _ e
  | .channelFailure ch cause engine, _, e => frame_execChannelFailure ch cause engine _ e
  | .engineHang ch engine, _, e => frame_execEngineHang ch engine _ e
  | .mapRequest ch kind, _, e => frame_execMapRequest ch kind _ e
  | .insertionBatch ownerFaults, _, e => frame_execInsertionBatch ownerFaults _ e
  | .loopClosureSearch kf, _, e => frame_execLoopClosureSearch kf _ e
  | .loopClosureCommit job, _, e => frame_execLoopClosureCommit job _ e
  | .mapJobStart job, _, e => frame_execMapJobStart job _ e
  | .mapCommit job ownerFaults, _, e => frame_execMapCommit job ownerFaults _ e
  | .eventFire index, _, e => frame_execEventFire index _ e
  | .tevPulseEnd pin, _, e => frame_execTevPulseEnd pin _ e
  | .ppsOutEdge, _, e => frame_execPpsOutEdge _ e
  | .captureEdge source rising, _, e => frame_execCaptureEdge source rising _ e
  | .ptpFrameRx port frame stamp, _, e => frame_execPtpFrameRx port frame stamp _ e
  | .ptpMessageSend port kind, _, e => frame_execPtpMessageSend port kind _ e
  | .ptpAnnounceTimeout port, _, e => frame_execPtpAnnounceTimeout port _ e
  | .holdoverTimeout, _, e => frame_execHoldoverTimeout _ e
  | .clockClassTimer, _, e => frame_execClockClassTimer _ e
  | .epFrameRx port frame bufferError, _, e => frame_execEpFrameRx port frame bufferError _ e
  | .symbolIncomplete symbol, _, e => frame_execSymbolIncomplete symbol _ e
  | .elementRebuild symbol, _, e => frame_execElementRebuild symbol _ e
  | .testInjectionBlock chain, _, e => frame_execTestInjectionBlock chain _ e
  | .refTimeout binding, _, e => frame_execRefTimeout binding _ e
  | .quarantineEnd sid source, _, e => frame_execQuarantineEnd sid source _ e
  | .anchorQuarantineEnd array, _, e => frame_execAnchorQuarantineEnd array _ e
  | .obsExpire ctx group, _, e => frame_execObsExpire ctx group _ e
  | .migrationEpoch finding, _, e => frame_execMigrationEpoch finding _ e
  | .heatDecay, _, e => frame_execHeatDecay _ e
  | .patrolScrubRead frame finding, _, e => frame_execPatrolScrubRead frame finding _ e
  | .lateAccess requester store cause, _, e => frame_execLateAccess requester store cause _ e
  | .controllerRetrain store controller, _, e => frame_execControllerRetrain store controller _ e
  | .retrainEnd store controller ok, _, e => frame_execRetrainEnd store controller ok _ e
  | .arbiterDecision arbiter gone requests, _, e => frame_execArbiterDecision arbiter gone requests _ e
  | .starvation arbiter requester, _, e => frame_execStarvation arbiter requester _ e
  | .turnClose, _, e => frame_execTurnClose _ e
  | .turnDrainLimit, _, e => frame_execTurnDrainLimit _ e
  | .scrubBegin, _, e => frame_execScrubBegin _ e
  | .scrubEnd, _, e => frame_execScrubEnd _ e
  | .counterLatch, _, e => frame_execCounterLatch _ e
  | .traceSync, _, e => frame_execTraceSync _ e
  | .mpSignalPoll port signal, _, e => frame_execMpSignalPoll port signal _ e
  | .mpTrainingEnd port hello, _, e => frame_execMpTrainingEnd port hello _ e
  | .mpRetryTimer port, _, e => frame_execMpRetryTimer port _ e
  | .mpSignalLost port, _, e => frame_execMpSignalLost port _ e
  | .mpFrameSend port, _, e => frame_execMpFrameSend port _ e
  | .mpFrameRx port frame stamp, _, e => frame_execMpFrameRx port frame stamp _ e
  | .deltaBatchTick, _, e => frame_execDeltaBatchTick _ e
  | .mapLockGrant, _, e => frame_execMapLockGrant _ e
  | .catchUp port, _, e => frame_execCatchUp port _ e
  | .powerLoss _, h, _ => by cases h
  | .resetRelease, h, _ => by cases h
  | .refclkReturn, h, _ => by cases h
  | .epLinkDown port, _, e => frame_execEpLinkDown port _ e
  | .epLinkUp port, _, e => frame_execEpLinkUp port _ e
  | .ctxTakeDeadline ch inst, _, e => frame_execCtxTakeDeadline ch inst _ e
  | .failureMoveDone sid, _, e => frame_execFailureMoveDone sid _ e
  | .generationSweep ctx, _, e => frame_execGenerationSweep ctx _ e
  | .sharedBlockRestored ch slot, _, e => frame_execSharedBlockRestored ch slot _ e
  | .unexpectedCompletion, _, e => frame_execUnexpectedCompletion _ e
  | .linkLayerError error, _, e => frame_execLinkLayerError error _ e
theorem exec_next (c : Instr) (s : State) : ∃ t, exec c s = .next t := by
  cases c <;> exact ⟨_, rfl⟩

theorem next_inj {s t : State} (h : (.next s : Host.Outcome State Fault Refusal) = .next t) : s = t := by
  cases h; rfl

/-! ### Predicates of the frame on the way through shared operations -/

/-- A predicate that looks only at the frame is kept by serving a request whose own part keeps it. -/
theorem serve_keeps {P : State → Prop} (hframe : ∀ {s t : State}, frame t = frame s → P s → P t) {op h : Nat}
    {body : Req → State → State} (hbody : ∀ r t, P t → P (body r t)) {s : State} (hs : P s) : P (serve op h body s) := by
  unfold serve
  dsimp only
  split
  · exact hs
  split
  · exact hs
  split
  · exact hframe (by simp) hs
  split
  · exact hframe (by simp) hs
  split
  · exact hframe (by simp) hs
  · exact hbody _ _ (hframe (by split <;> simp) hs)

theorem holds_ite {α : Type} {P : α → Prop} {c : Prop} [Decidable c] {a b : α} (ha : P a) (hb : P b) : P (if c then a else b) :=
  iteInduction (fun _ => ha) (fun _ => hb)

section BarWrites
variable {P : State → Prop} (hframe : ∀ {s t : State}, frame t = frame s → P s → P t) (hinc : ∀ {s : State} (v : Nat), P s → P (s.setInc v))
include hframe hinc

theorem write32_keeps (a v : Nat) {s : State} (hs : P s) : P (s.write32 a v) := by
  have half (b : Nat) (u : Bool) (cur : Nat) (f : Nat → State → State) (hf : ∀ w t, P t → P (f w t)) :
      P (match s.halfWrite b u v cur with
        | (some w, t) => f w t
        | (none, t) => t) := by
    have h2 : P (s.halfWrite b u v cur).2 := hframe (frame_halfWrite _ _ _ _ _) hs
    split
    · rename_i w t e; rw [e] at h2; exact hf _ _ h2
    · rename_i t e; rw [e] at h2; exact h2
  unfold State.write32
  refine holds_ite (hframe (by simp) hs) <| holds_ite (hframe (by simp) hs) <| holds_ite (hframe (by simp) hs) <|
    holds_ite (hframe (by simp) hs) <| holds_ite ?done <| holds_ite (hframe (by simp) hs) <| holds_ite (hframe (by simp) hs) <|
    holds_ite (hframe (by simp) hs) <| holds_ite ?inc <| holds_ite ?step <| holds_ite (hframe (by simp) hs) <| holds_ite (hframe (by simp) hs) <|
    holds_ite (hframe (by simp) hs) hs
  case done => exact half _ _ _ (fun w t => t.clearDone w) fun _ _ ht => hframe (by simp) ht
  case inc => exact half _ _ _ (fun w t => t.setInc w) fun _ _ ht => hinc _ ht
  case step => exact half _ _ _ (fun w t => t.setStep (asSigned 64 w)) fun _ _ ht => hframe (by simp) ht

theorem write64_keeps (a v : Nat) {s : State} (hs : P s) : P (s.write64 a v) := by
  unfold State.write64
  exact holds_ite (hframe (by simp) hs) (holds_ite (hinc _ hs) (holds_ite (hframe (by simp) hs) hs))

theorem barWrite_keeps (a width v : Nat) {s : State} (hs : P s) : P (s.barWrite a width v) := by
  have word (a v : Nat) {s : State} (hs : P s) : P (s.write32 a v) := write32_keeps hframe hinc a v hs
  unfold State.barWrite
  exact holds_ite hs <| holds_ite (hframe (by simp) hs) <| holds_ite (holds_ite (word _ _ hs) hs) <|
    holds_ite (holds_ite hs (holds_ite (write64_keeps hframe hinc _ _ hs) (word _ _ (word _ _ hs)))) hs

end BarWrites

/-! ### What outlasts resets: the strapped pins, the loft's pages and write counts, the queue -/

/-- The part of the frame that resets and writes of BAR0 leave alone. -/
def lasting (s : State) : (Nat × Nat × Nat) × (Mem × NMap Nat) × List Instr :=
  ((s.hw.devidPins, s.hw.bootPins, s.hw.capPins), (s.loft.pages, s.loft.writes), s.pending)

theorem lasting_of_frame {s t : State} (h : frame t = frame s) : lasting t = lasting s := by
  simp only [frame, Prod.mk.injEq] at h
  obtain ⟨⟨hdev, hboot, hcap⟩, ⟨hpages, -, hwrites⟩, hqueue, -⟩ := h
  simp [lasting, hdev, hboot, hcap, hpages, hwrites, hqueue]

theorem lasting_setInc (s : State) (v : Nat) : lasting (s.setInc v) = lasting s := by
  unfold State.setInc
  dsimp only
  generalize (if v % 2 ^ 40 < incMin then incMin else if incMax < v % 2 ^ 40 then incMax else v % 2 ^ 40) = c
  split
  · rfl
  · exact (lasting_of_frame (frame_err1 _ _ _ _ _ _)).trans rfl

theorem lasting_barWrite (s : State) (a width v : Nat) : lasting (s.barWrite a width v) = lasting s :=
  barWrite_keeps (P := fun t => lasting t = lasting s) (fun h ht => (lasting_of_frame h).trans ht)
    (fun v ht => (lasting_setInc _ v).trans ht) a width v rfl

@[simp] theorem lasting_coreReset (s : State) (why : Nat) : lasting (s.coreReset why) = lasting s := rfl

@[simp] theorem lasting_startBegin (s : State) (why : Nat) : lasting (s.startBegin why) = lasting s := rfl

@[simp] theorem lasting_selfReset (s : State) (why : Nat) : lasting (s.selfReset why) = lasting s := rfl

@[simp] theorem lasting_holdReset (s : State) (why : Nat) : lasting (s.holdReset why) = lasting s := by
  unfold State.holdReset
  split <;> rfl

/-! ### Settling O58 -/

/-- The commands that leave the lasting part alone. -/
def Instr.keepsLasting : Instr → Bool
  | .strapChange _ _ _ | .pwrCapSample _ | .loftStore _ _ _ | .powerLoss _ => false
  | _ => true

theorem lasting_powerOn {s t : State} (h : exec .powerOn s = .next t) : lasting t = lasting s := by
  cases h
  dsimp only
  split
  · split <;> rfl
  · split <;> rfl
  · rfl

theorem lasting_powerWindow (dw : Nat) {s t : State} (h : exec (.powerWindow dw) s = .next t) : lasting t = lasting s := by
  cases h
  dsimp only
  split
  · exact (lasting_of_frame (frame_traceRec _ _ _ _ _)).trans rfl
  · rfl

/-- A timer of a reset: the reset once it is due. -/
theorem lasting_resetTimer (s : State) (due : Option Nat) (why : Nat) :
    lasting (match due with
      | some d => if running s && decide (d ≤ dtOf s) then s.selfReset why else s
      | none => s) = lasting s := by
  cases due with
  | none => rfl
  | some d => exact holds_ite (P := fun t => lasting t = lasting s) rfl rfl

theorem lasting_exec {c : Instr} {s t : State} (hc : Instr.keepsLasting c = true) (h : exec c s = .next t) :
    lasting t = lasting s := by
  have both {p : Prop} [Decidable p] {a b : State} (ha : lasting a = lasting s) (hb : lasting b = lasting s) :
      lasting (if p then a else b) = lasting s := holds_ite (P := fun t => lasting t = lasting s) ha hb
  by_cases hf : Instr.leavesFrame c = true
  · exact lasting_of_frame (frame_exec c hf h)
  cases c with
  | hatchWrite off w v => cases h; exact both (lasting_barWrite _ _ _ _) rfl
  | registerWrite off w v poisoned => cases h; exact both rfl (lasting_barWrite _ _ _ _)
  | timeIncWrite half v => cases h; cases half <;> exact lasting_barWrite _ _ _ _
  | timeStepWrite half v => cases h; cases half <;> exact lasting_barWrite _ _ _ _
  | coreResetTimer => cases h; exact lasting_resetTimer s s.core.sys.coreResetAt 3
  | recoveryReset => cases h; exact lasting_resetTimer s s.core.sys.recoveryAt 4
  | watchdogReset => cases h; exact both rfl rfl
  | powerOn => exact lasting_powerOn h
  | resetN => cases h; exact lasting_holdReset _ _
  | perstN => cases h; exact lasting_holdReset _ _
  | refclkStop => cases h; exact lasting_holdReset _ _
  | resetRelease => cases h; exact both rfl rfl
  | refclkReturn => cases h; exact both rfl rfl
  | powerWindow dw => exact lasting_powerWindow dw h
  | thermalSample tj ts => cases h; exact both rfl rfl
  | strapChange _ _ _ | pwrCapSample _ | loftStore _ _ _ | powerLoss _ => cases hc
  | _ => exact absurd rfl hf

/-- The pins' levels and the queue: what a store of the loft leaves of the lasting part. -/
def pinsAndQueue (s : State) : (Nat × Nat × Nat) × List Instr := ((lasting s).1, s.pending)

theorem pinsAndQueue_of_frame {s t : State} (h : frame t = frame s) : pinsAndQueue t = pinsAndQueue s := by
  have hl := lasting_of_frame h
  simp only [lasting, Prod.mk.injEq] at hl
  obtain ⟨⟨hdev, hboot, hcap⟩, -, hqueue⟩ := hl
  simp [pinsAndQueue, lasting, hdev, hboot, hcap, hqueue]

theorem pinsAndQueue_loftStoreBody (d : Dma) (good : Bool) (r : Req) (s : State) :
    pinsAndQueue (loftStoreBody d good r s) = pinsAndQueue s := by
  unfold loftStoreBody State.guarded State.withDma
  dsimp only
  split
  · exact pinsAndQueue_of_frame (by simp)
  split
  · exact holds_ite (P := fun t => pinsAndQueue t = pinsAndQueue s) ((pinsAndQueue_of_frame (frame_place _ _ _ _)).trans rfl)
      ((pinsAndQueue_of_frame ((frame_place _ _ _ _).trans (frame_err1 _ _ _ _ _ _))).trans rfl)
  · exact pinsAndQueue_of_frame (by simp)

theorem pinsAndQueue_loftStore (h : Nat) (data : List Byte) (good : Bool) {s t : State}
    (ht : exec (.loftStore h data good) s = .next t) : pinsAndQueue t = pinsAndQueue s := by
  cases ht
  exact serve_keeps (P := fun t => pinsAndQueue t = pinsAndQueue s) (fun hf ht => (pinsAndQueue_of_frame hf).trans ht)
    (fun r t ht => (pinsAndQueue_loftStoreBody _ _ r t).trans ht) rfl

theorem pinsAndQueue_powerLoss (old : Bool) {s t : State} (ht : exec (.powerLoss old) s = .next t) :
    pinsAndQueue t = pinsAndQueue s ∧ t.loft.writes = s.loft.writes := by
  cases ht
  dsimp only
  split
  · split <;> exact ⟨rfl, rfl⟩
  · exact ⟨rfl, rfl⟩

/-- Settles O58: a command that leaves the lasting part alone does all that is asked; of the other four each has its own effect. -/
theorem onlyStoresChangeTheLoft : Obligations.OnlyStoresChangeTheLoft := by
  unfold Obligations.OnlyStoresChangeTheLoft
  intro c s
  obtain ⟨t, ht⟩ := exec_next c s
  refine ⟨t, ht, ?_⟩
  by_cases hc : Instr.keepsLasting c = true
  · have h := lasting_exec hc ht
    simp only [lasting, Prod.mk.injEq] at h
    obtain ⟨⟨hdev, hboot, hcap⟩, ⟨hpages, hwrites⟩, hqueue⟩ := h
    exact ⟨hqueue, fun _ => ⟨hdev, hboot⟩, fun _ => hcap, fun _ _ => hpages, fun _ => hwrites⟩
  cases c with
  | strapChange d k b => cases ht; exact ⟨rfl, fun h => absurd rfl (h d k b), fun _ => rfl, fun _ _ => rfl, fun _ => rfl⟩
  | pwrCapSample v =>
    cases ht
    dsimp only
    split <;> exact ⟨rfl, fun _ => ⟨rfl, rfl⟩, fun h => absurd rfl (h v), fun _ _ => rfl, fun _ => rfl⟩
  | loftStore h d g =>
    have hkept := pinsAndQueue_loftStore h d g ht
    simp only [pinsAndQueue, lasting, Prod.mk.injEq] at hkept
    obtain ⟨⟨hdev, hboot, hcap⟩, hqueue⟩ := hkept
    exact ⟨hqueue, fun _ => ⟨hdev, hboot⟩, fun _ => hcap, fun hl _ => absurd rfl (hl h d g), fun hl => absurd rfl (hl h d g)⟩
  | powerLoss b =>
    have hkept := pinsAndQueue_powerLoss b ht
    simp only [pinsAndQueue, lasting, Prod.mk.injEq] at hkept
    obtain ⟨⟨⟨hdev, hboot, hcap⟩, hqueue⟩, hwrites⟩ := hkept
    exact ⟨hqueue, fun _ => ⟨hdev, hboot⟩, fun _ => hcap, fun _ hl => absurd rfl (hl b), fun _ => hwrites⟩
  | _ => exact absurd rfl hc

/-! ### Settling O59 -/

theorem sound_powerOn {s t : State} (hs : Sound s) (h : exec .powerOn s = .next t) : Sound t := by
  have fresh : Sound ((({ s with pcie := {}, err := {} } : State).coreReset 0).modHw (fun h => { h with rails := true })) :=
    have cleared : Sound { s with pcie := {}, err := {} } := ⟨hs.pins, hs.loft, hs.power, hs.incLow, hs.incHigh⟩
    sound_modHw (sound_coreReset cleared 0) _ hs.pins
  cases h
  dsimp only
  split
  · exact sound_ite (sound_startBegin fresh 0) (sound_of_frame (frame_modSys _ _) fresh)
  · exact sound_ite (sound_startBegin fresh 0) (sound_of_frame (frame_modSys _ _) fresh)
  · exact hs

theorem sound_powerLoss (old : Bool) {s t : State} (hs : Sound s) (h : exec (.powerLoss old) s = .next t) : Sound t := by
  have down (u : State) (hu : Sound u) :
      Sound (((u.coreReset 0).modHw (fun h => { h with rails := false })).modSys (fun y => { y with phase := .unpowered })) :=
    sound_of_frame (frame_modSys _ _) (sound_modHw (sound_coreReset hu 0) _ hu.pins)
  have restored (p : Nat) (bs : List Byte) : Sound (s.modLoft (fun l => { l with pages := Mem.write l.pages (4096 * p) bs })) := by
    have hl := hs.loft
    simp only [Loft.good, Bool.and_eq_true] at hl
    obtain ⟨⟨hpages, hlog⟩, hwrites⟩ := hl
    refine ⟨hs.pins, ?_, hs.power, hs.incLow, hs.incHigh⟩
    simp only [Loft.good, Bool.and_eq_true]
    exact ⟨⟨Memory.wf_write _ _ _ hpages, hlog⟩, hwrites⟩
  cases h
  dsimp only
  split
  · exact down _ (sound_ite (restored _ _) hs)
  · exact down _ hs

theorem sound_modPow_loop {s : State} (hs : Sound s) (dw mhz now cap : Nat) :
    Sound (s.modPow (fun p => (p.measure dw mhz now).loop dw cap)) :=
  sound_modPow hs _ (legal_loop _ _ _ (legal_measure _ _ _ _ hs.power))

theorem sound_limiterOff {s : State} (hs : Sound s) : Sound (s.modPow (fun p => { p with limiter := false })) :=
  sound_modPow hs _ hs.power

theorem sound_powerWindow (dw : Nat) {s t : State} (hs : Sound s) (h : exec (.powerWindow dw) s = .next t) : Sound t := by
  have applied : Sound (s.modPow (fun p => { p with pinCap := p.pinNext })) := sound_modPow hs _ hs.power
  cases h
  dsimp only
  split
  · exact sound_of_frame (frame_traceRec _ _ _ _ _) (sound_limiterOff (sound_modPow_loop applied _ _ _ _))
  · exact hs

theorem sound_thermalSample (tj ts : Int) {s t : State} (hs : Sound s) (h : exec (.thermalSample tj ts) s = .next t) : Sound t := by
  cases h
  refine sound_ite hs (sound_modPow hs _ ?_)
  dsimp only
  split
  · exact legal_thermal _ _ hs.power
  · exact hs.power

theorem sound_pwrCapSample (pins : Nat) {s t : State} (hs : Sound s) (h : exec (.pwrCapSample pins) s = .next t) : Sound t := by
  have sampled : Sound (s.modHw (fun h => { h with capPins := pins % 4 })) := by
    refine sound_modHw hs _ ?_
    have hp := hs.pins
    simp only [Hw.good, Bool.and_eq_true, decide_eq_true_eq] at hp ⊢
    obtain ⟨⟨hdev, hboot⟩, -⟩ := hp
    exact ⟨⟨hdev, hboot⟩, Nat.mod_lt _ (by decide)⟩
  cases h
  exact sound_ite (sound_modPow sampled _ hs.power) sampled

theorem sound_strapChange (d : Nat) (k : Bool) (b : Nat) {s t : State} (hs : Sound s) (h : exec (.strapChange d k b) s = .next t) :
    Sound t := by
  cases h
  refine sound_modHw hs _ ?_
  have hp := hs.pins
  simp only [Hw.good, Bool.and_eq_true, decide_eq_true_eq] at hp ⊢
  exact ⟨⟨Nat.mod_lt _ (by decide), Nat.mod_lt _ (by decide)⟩, hp.2⟩

/-- A timer of a reset: the reset once it is due. -/
theorem sound_resetTimer {s : State} (hs : Sound s) (due : Option Nat) (why : Nat) :
    Sound (match due with
      | some d => if running s && decide (d ≤ dtOf s) then s.selfReset why else s
      | none => s) := by
  cases due with
  | none => exact hs
  | some d => exact sound_ite (sound_selfReset hs why) hs

theorem sound_exec {c : Instr} {s t : State} (hs : Sound s) (h : exec c s = .next t) : Sound t := by
  have pin (f : Hw → Hw) (hf : (f s.hw).good = s.hw.good) : Sound (s.modHw f) := sound_modHw hs f (hf.trans hs.pins)
  by_cases hf : Instr.leavesFrame c = true
  · exact sound_of_frame (frame_exec c hf h) hs
  cases c with
  | hatchWrite off w v => cases h; exact sound_ite (sound_barWrite hs _ _ _) hs
  | registerWrite off w v poisoned => cases h; exact sound_ite ⟨hs.pins, hs.loft, hs.power, hs.incLow, hs.incHigh⟩ (sound_barWrite hs _ _ _)
  | timeIncWrite half v => cases h; cases half <;> exact sound_barWrite hs _ _ _
  | timeStepWrite half v => cases h; cases half <;> exact sound_barWrite hs _ _ _
  | coreResetTimer => cases h; exact sound_resetTimer hs s.core.sys.coreResetAt 3
  | recoveryReset => cases h; exact sound_resetTimer hs s.core.sys.recoveryAt 4
  | watchdogReset => cases h; exact sound_ite (sound_selfReset hs 5) hs
  | powerOn => exact sound_powerOn hs h
  | powerLoss old => exact sound_powerLoss old hs h
  | resetN => cases h; exact sound_holdReset (pin _ rfl) _
  | perstN => cases h; exact sound_holdReset (sound_of_frame (frame_pcie _ _) (pin _ rfl)) _
  | refclkStop => cases h; exact sound_holdReset (pin _ rfl) _
  | resetRelease => cases h; exact sound_ite (sound_startBegin (pin _ rfl) _) (pin _ rfl)
  | refclkReturn => cases h; exact sound_ite (sound_startBegin (pin _ rfl) _) (pin _ rfl)
  | strapChange d k b => exact sound_strapChange d k b hs h
  | pwrCapSample pins => exact sound_pwrCapSample pins hs h
  | powerWindow dw => exact sound_powerWindow dw hs h
  | thermalSample tj ts => exact sound_thermalSample tj ts hs h
  | loftStore hatch data good => cases h; exact sound_loftStore hs _ _ _
  | _ => exact absurd rfl hf

/-- Settles O59: a tick keeps the frame, and every command keeps a sound state sound, the queue's front being no part of soundness. -/
theorem stepKeepsStatesSound : Obligations.StepKeepsStatesSound := by
  unfold Obligations.StepKeepsStatesSound
  intro s t hs h
  unfold step at h
  split at h
  · cases h; exact sound_of_frame (frame_tick s) hs
  · rename_i rest _
    have front : Sound { s with pending := rest } := ⟨hs.pins, hs.loft, hs.power, hs.incLow, hs.incHigh⟩
    exact sound_exec front h

/-! ### The front of the queue, and the state after reset -/

/-- Settles O1: a step on a queue with a front is that command on the state with the queue's rest, by definition. -/
theorem stepRunsTheFrontCommand : Obligations.StepRunsTheFrontCommand := by
  unfold Obligations.StepRunsTheFrontCommand
  intro c rest s hq
  rw [step, hq]

/-- Settles O60: each part is a fact about the one closed state. -/
theorem resetIsSound : Obligations.ResetIsSound := by
  unfold Obligations.ResetIsSound
  refine ⟨⟨by decide, by decide, by decide, by decide, by decide⟩, rfl, rfl, by decide, rfl, rfl, by decide, rfl, rfl⟩

end Sys2Proof.Machine
end

section
/-! What the shared operations leave alone: a function of the state that looks at none of the places an operation writes has the same
value after it. Responses follow for states in which more than one group of the core has moved. -/
namespace Sys2Proof.Machine

/-! ### Taking a request -/

/-- s with other hatches and another trace: all that taking a request moves. -/
def State.withHatTrace (s : State) (a : Hatches) (b : List (List Byte)) (e n l : Nat) : State :=
  { s with core := { s.core with hat := a, obs := { s.core.obs with buf := b, seq := e, sent := n, lost := l } } }

theorem taken_eq (s : State) (h : Nat) : ∃ a b e n l, taken s h = s.withHatTrace a b e n l := by
  obtain ⟨b, e, n, l, ht⟩ := takeOff_eq s (reqOf s h)
  unfold taken
  split
  · rw [ht]; exact ⟨_, b, e, n, l, rfl⟩
  · rw [ht]; exact ⟨_, b, e, n, l, rfl⟩

/-- What looks neither at the hatches nor at the trace sees nothing of the taking. -/
theorem taken_unseen {α : Type} (F : State → α) (hF : ∀ (s : State) (a b e n l), F (s.withHatTrace a b e n l) = F s) (s : State) (h : Nat) :
    F (taken s h) = F s := by
  obtain ⟨a, b, e, n, l, ht⟩ := taken_eq s h
  rw [ht, hF]

theorem taken_out (s : State) (h : Nat) : (taken s h).out = s.out := taken_unseen State.out (fun _ _ _ _ _ _ => rfl) s h

/-! ### Noise: messages, events, trace records, sticky errors -/

/-- F looks at no output, no pending bit of MSI-X, not at the event ring's writing, and not at the trace. -/
structure Deaf {α : Type} (F : State → α) : Prop where
  emit : ∀ s o, F (s.emit o) = F s
  pba : ∀ s b, F { s with pcie := { s.pcie with pba := b } } = F s
  ring : ∀ s w l, F (s.modRing (fun r => { r with evWr := w, evHeld := l })) = F s
  lost : ∀ s b, F (s.modSys (fun y => { y with evtLost := b })) = F s
  trace : ∀ s b q n l, F (s.modObs (fun o => { o with buf := b, seq := q, sent := n, lost := l })) = F s

section Deaf
variable {α : Type} {F : State → α} (hF : Deaf F)
include hF

theorem Deaf.msi (s : State) (v : Nat) : F (s.msi v) = F s := by
  unfold State.msi
  dsimp only
  split
  · exact hF.pba _ _
  · exact hF.emit _ _

theorem Deaf.traceRec (s : State) (type src : Nat) (p : List Byte) (m : Nat) : F (s.traceRec type src p m) = F s := by
  obtain ⟨b, q, n, l, h⟩ := traceRec_eq s type src p m
  rw [h]
  exact hF.trace _ _ _ _ _

theorem Deaf.putEntry (s : State) (e : List Byte) : F (s.putEntry e) = F s := by
  have laid (s : State) (o p : Out) (w : W32) : F (((s.emit o).modRing (fun r => { r with evWr := w })).emit p) = F s := by
    rw [hF.emit]
    exact (hF.ring (s.emit o) w s.core.ring.evHeld).trans (hF.emit _ _)
  unfold State.putEntry
  dsimp only
  split
  · exact (hF.msi _ _).trans (laid _ _ _ _)
  · exact laid _ _ _ _

theorem Deaf.putEvent : ∀ (l : List (List Byte)) (s : State), F (State.putEvent l s) = F s
  | [], _ => rfl
  | e :: l, s => by
    unfold State.putEvent
    split
    · exact (Deaf.putEvent l _).trans (hF.putEntry s e)
    · split
      · exact (Deaf.putEvent l _).trans (hF.ring s s.core.ring.evWr _)
      · exact hF.lost _ _

theorem Deaf.event (s : State) (type : Nat) (parts : List (List Byte)) : F (s.event type parts) = F s := hF.putEvent _ s

theorem Deaf.setErr (herr : ∀ s e, F { s with err := e } = F s) (s : State) (idx bitNo flags source sid page : Nat) :
    F (s.setErr idx bitNo flags source sid page) = F s := by
  unfold State.setErr
  dsimp only
  refine holds_ite (P := fun t => F t = F s) rfl (holds_ite (P := fun t => F t = F s) rfl ?_)
  rw [hF.traceRec, hF.event, herr]

theorem Deaf.err1 (herr : ∀ s e, F { s with err := e } = F s) (s : State) (idx bitNo source sid page : Nat) :
    F (s.err1 idx bitNo source sid page) = F s := hF.setErr herr _ _ _ _ _ _ _

end Deaf

/-! ### The core under the noise -/

/-- The core without its hatches, without what the event ring has written, and without the trace. -/
def quiet (s : State) : Core :=
  { s.core with
    sys := { s.core.sys with evtLost := false }
    hat := {}
    ring := { s.core.ring with evWr := 0, evHeld := [] }
    obs := { s.core.obs with buf := [], seq := 0, sent := 0, lost := 0 } }

theorem deaf_quiet : Deaf quiet :=
  ⟨fun _ _ => rfl, fun _ _ => rfl, fun _ _ _ => rfl, fun _ _ => rfl, fun _ _ _ _ _ => rfl⟩
theorem deaf_hat : Deaf (fun s => s.core.hat) :=
  ⟨fun _ _ => rfl, fun _ _ => rfl, fun _ _ _ => rfl, fun _ _ => rfl, fun _ _ _ _ _ => rfl⟩

section Quiet
variable (s : State)
@[simp] theorem quiet_emit (o : Out) : quiet (s.emit o) = quiet s := rfl
@[simp] theorem quiet_dma (a : Nat) (b : List Byte) : quiet (s.dma a b) = quiet s := rfl
@[simp] theorem quiet_modHat (f : Hatches → Hatches) : quiet (s.modHat f) = quiet s := rfl
@[simp] theorem quiet_modCtl (h : Nat) (f : HatchCtl → HatchCtl) : quiet (s.modCtl h f) = quiet s := rfl
@[simp] theorem quiet_msi (v : Nat) : quiet (s.msi v) = quiet s := deaf_quiet.msi s v
@[simp] theorem quiet_traceRec (type src : Nat) (p : List Byte) (m : Nat) : quiet (s.traceRec type src p m) = quiet s :=
  deaf_quiet.traceRec s type src p m
@[simp] theorem quiet_event (type : Nat) (parts : List (List Byte)) : quiet (s.event type parts) = quiet s := deaf_quiet.event s type parts
@[simp] theorem quiet_err1 (i b src sid pg : Nat) : quiet (s.err1 i b src sid pg) = quiet s := deaf_quiet.err1 (fun _ _ => rfl) s i b src sid pg
@[simp] theorem quiet_setErr (i b fl src sid pg : Nat) : quiet (s.setErr i b fl src sid pg) = quiet s :=
  deaf_quiet.setErr (fun _ _ => rfl) s i b fl src sid pg
@[simp] theorem quiet_taken (h : Nat) : quiet (taken s h) = quiet s := taken_unseen quiet (fun _ _ _ _ _ _ => rfl) s h
@[simp] theorem quiet_placeWith (h st : Nat) (p : List Byte) (acc raise : Bool) : quiet (s.placeWith h st p acc raise) = quiet s := by
  rw [placeWith_eq]
  dsimp only
  split <;> simp
@[simp] theorem quiet_place (h st : Nat) (p : List Byte) : quiet (s.place h st p) = quiet s := quiet_placeWith _ _ _ _ _ _
@[simp] theorem quiet_accept (h : Nat) (j : Job) : quiet (s.accept h j) = quiet s := by simp [State.accept]
@[simp] theorem event_hat (type : Nat) (parts : List (List Byte)) : (s.event type parts).core.hat = s.core.hat := deaf_hat.event s type parts
@[simp] theorem err1_hat (i b src sid pg : Nat) : (s.err1 i b src sid pg).core.hat = s.core.hat := deaf_hat.err1 (fun _ _ => rfl) s i b src sid pg
@[simp] theorem setErr_hat (i b fl src sid pg : Nat) : (s.setErr i b fl src sid pg).core.hat = s.core.hat :=
  deaf_hat.setErr (fun _ _ => rfl) s i b fl src sid pg
end Quiet

section QuietGroups
variable {s t : State} (h : quiet t = quiet s)
include h
theorem work_of_quiet : t.core.work = s.core.work := (congrArg Core.work h : (quiet t).work = (quiet s).work)
theorem chans_of_quiet : t.core.chans = s.core.chans := (congrArg Core.chans h : (quiet t).chans = (quiet s).chans)
theorem map_of_quiet : t.core.map = s.core.map := (congrArg Core.map h : (quiet t).map = (quiet s).map)
theorem time_of_quiet : t.core.time = s.core.time := (congrArg Core.time h : (quiet t).time = (quiet s).time)
theorem dtOf_of_quiet : dtOf t = dtOf s := by rw [dtOf, dtOf, time_of_quiet h]
end QuietGroups

/-! ### Responses on any state -/

/-- The request of s in hatch h is untouched in u: u may be answered. -/
structure Open (s : State) (h : Nat) (u : State) : Prop where
  mem : u.core.hat.mem = s.core.hat.mem
  dt : dtOf u = dtOf s
  lt : h < u.core.hat.ctl.length
  lt64 : h < 64

theorem Laid.open_ {s u : State} {h : Nat} {c : Core} (l : Laid s h c u) : Open s h u := ⟨l.mem, l.dt, l.lt, l.lt64⟩

theorem open_taken {s : State} {h op : Nat} {p : List Byte} (ht : takes s h op p = true) : Open s h (taken s h) :=
  (laid_taken s h (canTake_of_takes ht)).open_

/-- A change outside the hatches and the DT counter. -/
theorem Open.step {s u v : State} {h : Nat} (o : Open s h u) (hhat : v.core.hat = u.core.hat) (htime : v.core.time = u.core.time) :
    Open s h v :=
  ⟨by rw [hhat, o.mem], by rw [dtOf, htime]; exact o.dt, by rw [hhat]; exact o.lt, o.lt64⟩

theorem Open.laid {s u : State} {h : Nat} (o : Open s h u) : Laid u h u.core u :=
  ⟨⟨rfl, rfl, rfl, rfl, rfl, rfl, rfl, fun _ _ => rfl, fun _ _ => rfl, [], by simp⟩, rfl, rfl, o.lt, o.lt64⟩

theorem Answered.of_open {s u t : State} {h st : Nat} {pl : List Byte} (o : Open s h u) (a : Answered u h st pl t) : Answered s h st pl t :=
  ⟨a.own, a.pending, a.done, by rw [a.header, o.mem], a.status, by rw [a.dt, o.dt], a.length, a.payload⟩

theorem Open.answered_place {s u : State} {h : Nat} (o : Open s h u) (st : Nat) (pl : List Byte) (hs : st ≠ 0x01) :
    Answered s h st pl (u.place h st pl) :=
  Answered.of_open o (o.laid.placeWith st pl false (ctlAt u h).irq (by simp [hs])).1

theorem Open.kept_place {s u : State} {h : Nat} (o : Open s h u) (st : Nat) (pl : List Byte) (hs : st ≠ 0x01) :
    Kept u h u.core (u.place h st pl) :=
  (o.laid.placeWith st pl false (ctlAt u h).irq (by simp [hs])).2.1

theorem Open.answered_accept {s u : State} {h : Nat} (o : Open s h u) (j : Job) :
    Answered s h 0x01 [] (u.accept h j) ∧ jobAt (u.accept h j) h = some j ∧ Kept u h u.core (u.accept h j) := by
  obtain ⟨t, ht, ha, hj, hk⟩ := o.laid.accept j
  cases next_inj ht
  exact ⟨Answered.of_open o ha, hj, hk⟩

/-- An output before the response, from a state that has sent out as much as s. -/
theorem Laid.emit {s u : State} {h : Nat} {c : Core} (l : Laid s h c u) (hout : u.out = s.out) (o : Out) : Laid (s.emit o) h c (u.emit o) := by
  obtain ⟨k, hm, hd, hl, h64⟩ := l
  exact ⟨⟨k.hw, k.loft, k.err, k.table, k.free, k.queue, k.core, k.others, k.bytes, [], by simp [hout]⟩, hm, hd, hl, h64⟩

theorem Laid.draw {s u : State} {h : Nat} {c : Core} (l : Laid s h c u) : Laid { s with free := s.free + 1 } h c { u with free := u.free + 1 } := by
  obtain ⟨k, hm, hd, hl, h64⟩ := l
  exact ⟨⟨k.hw, k.loft, k.err, k.table, by rw [k.free], k.queue, k.core, k.others, k.bytes, k.out⟩, hm, hd, hl, h64⟩

/-! ### Checks in front of a command's own part -/

@[simp] theorem need_eq_none {ok : Bool} {st : Nat} : need ok st = none ↔ ok = true := by cases ok <;> simp [need]

/-- One check in front: it passes as its condition holds. -/
theorem guarded_of {s : State} {h st : Nat} {c : Prop} [Decidable c] (hc : c) (act : State → State) :
    s.guarded h [need (decide c) st] act = act s := by
  rw [guarded_need, if_pos (decide_eq_true hc)]

theorem guarded_pass {s : State} {h : Nat} {l : List (Option Nat)} (hl : ∀ c ∈ l, c = none) (act : State → State) :
    s.guarded h l act = act s := by
  have hnone : firstOf l = none := List.findSome?_eq_none_iff.2 hl
  rw [State.guarded, hnone]

/-! ### Fields of byte strings -/

theorem leNat_leBytes (n v : Nat) : leNat (leBytes n v) = v % 256 ^ n := by
  induction n generalizing v with
  | zero => simp [leBytes, leNat, Nat.mod_one]
  | succ n ih =>
    have hpow : 256 ^ (n + 1) = 256 * 256 ^ n := Nat.pow_succ'
    rw [leBytes, leNat, ih, BitVec.toNat_ofNat, hpow]
    exact Nat.mod_mul.symm

theorem bytesAt_append_skip (a b : List Byte) (off n : Nat) : bytesAt (a ++ b) (a.length + off) n = bytesAt b off n := by
  have hpast : a.drop (a.length + off) = [] := List.drop_eq_nil_of_le (Nat.le_add_right _ _)
  simp [bytesAt, List.drop_append, hpast]

theorem bytesAt_append_front {a : List Byte} {n : Nat} (b : List Byte) (h : a.length = n) : bytesAt (a ++ b) 0 n = a := by
  subst h
  simp [bytesAt]

/-- The field that stands behind n bytes. -/
theorem fieldAt_append_skip {a : List Byte} {k : Nat} (b : List Byte) (ha : a.length = k) (off n : Nat) :
    fieldAt (a ++ b) (k + off) n = fieldAt b off n := by
  subst ha
  rw [fieldAt, fieldAt, bytesAt_append_skip]

theorem fieldAt_leBytes_front (n v : Nat) (b : List Byte) : fieldAt (leBytes n v ++ b) 0 n = v % 256 ^ n := by
  rw [fieldAt, bytesAt_append_front b (leBytes_length n v), leNat_leBytes]

theorem fieldAt_leBytes (n v : Nat) : fieldAt (leBytes n v) 0 n = v % 256 ^ n := by
  simpa using fieldAt_leBytes_front n v []

/-! ### Requests that fail (R83, R89) -/

theorem serve_of_canTake {op h : Nat} {s : State} (body : Req → State → State) (hc : canTake s h = true)
    (hop : (reqOf s h).op = op ∨ opInfo s (reqOf s h).op = none) :
    serve op h body s =
      if (reqOf s h).patience != 0 && decide ((reqOf s h).patience < dtOf s) then (s.takeOff (reqOf s h)).place h 0x16
      else match requestFailure s (reqOf s h) with
        | some st => (s.takeOff (reqOf s h)).place h st
        | none =>
          match openPayload s (reqOf s h) with
          | none => ((s.takeOff (reqOf s h)).err1 3 3 h).place h 0x30
          | some p => body { reqOf s h with payload := p }
              (if bit (reqOf s h).flags 1 then
                (s.takeOff (reqOf s h)).modCtl h (fun c => { c with lastCtr := fieldAt (reqOf s h).payload 0 8 })
              else s.takeOff (reqOf s h)) := by
  have hother : ((reqOf s h).op != op && (opInfo s (reqOf s h).op).isSome) = false := by
    rcases hop with hop | hop <;> simp [hop]
  simp only [serve, hc, hother, Bool.not_true, Bool.false_eq_true, if_false] <;> rfl

theorem requestFailure_ne_accepted {s : State} {r : Req} {st : Nat} (hf : requestFailure s r = some st) : st ≠ 0x01 := by
  unfold requestFailure at hf
  split at hf
  · cases hf; decide
  · dsimp only at hf
    split_ifs at hf <;> cases hf <;> decide

/-- Settles O2: with patience run out, or a check failed, the taken request is answered and nothing else. -/
theorem failedRequestsDoNothing : Obligations.FailedRequestsDoNothing := by
  unfold Obligations.FailedRequestsDoNothing
  intro op h body s hc hop
  have laid := laid_takeOff s h hc
  rw [serve_of_canTake body hc hop]
  refine ⟨fun ⟨hne, hlt⟩ => ?late, fun st hin hf => ?failed⟩
  case late =>
    rw [if_pos (by simp [hne, hlt])]
    exact laid.place 0x16 [] (by decide)
  case failed =>
    rw [if_neg (by simp; omega), hf]
    exact laid.place st [] (requestFailure_ne_accepted hf)

/-! ### Reports -/

theorem exec_capQuery (h : Nat) (s : State) : exec (.capQuery h) s = .next (serve 0x0101 h capQueryBody s) := rfl
theorem exec_devState (h : Nat) (s : State) : exec (.devState h) s = .next (serve 0x0102 h devStateBody s) := rfl
theorem exec_echo (h : Nat) (s : State) : exec (.echo h) s = .next (serve 0x0107 h echoBody s) := rfl
theorem exec_telemetry (h : Nat) (s : State) : exec (.telemetry h) s = .next (serve 0x0109 h telemetryBody s) := rfl
theorem exec_timeStatus (h : Nat) (s : State) : exec (.timeStatus h) s = .next (serve 0x0601 h timeStatusBody s) := rfl
theorem exec_crateInfo (h : Nat) (s : State) : exec (.crateInfo h) s = .next (serve 0x0503 h crateInfoBody s) := rfl
theorem exec_mapInfo (h : Nat) (s : State) : exec (.mapInfo h) s = .next (serve 0x0403 h mapInfoBody s) := rfl

/-- A command whose own part only places DONE with a block of the state. -/
theorem responds_report {s : State} {h op : Nat} {p : List Byte} (block : State → List Byte)
    (hb : ∀ (s : State) (a b e n l), block (s.withHatTrace a b e n l) = block s) (ht : takes s h op p = true) :
    Responds s h 0x00 (block s) s.core (.next (serve op h (fun r s => s.place r.h 0x00 (block s)) s)) := by
  rw [serve_takes _ ht, ← taken_unseen block hb s h]
  exact (laid_taken s h (canTake_of_takes ht)).place 0x00 _ (by decide)

section Block
variable {s : State} {h op : Nat} {p : List Byte}

/-- A block written to host memory and DONE with its length: nothing else moves. -/
theorem responds_answer (ht : takes s h op p = true) (addr : Nat) (b : List Byte) :
    Responds (s.emit (.dmaWrite addr b)) h 0x00 (leBytes 4 b.length) s.core (.next ((taken s h).answer h addr b)) :=
  ((laid_taken s h (canTake_of_takes ht)).emit (taken_out s h) _).place 0x00 _ (by decide)

end Block

/-! ### Blocks that the model writes out in a command's own part -/

/-- MAP_INFO's block (R300). -/
def mapInfoBlock (s : State) : List Byte :=
  leBytes 4 s.core.map.version.toNat ++ (leBytes 4 (mapTiles s.core.map.data).length ++ (leBytes 4 (liveKfs s.core.map.data).length ++
    (leBytes 4 0 ++ (leBytes 8 (liveLms s.core.map.data).length ++ leBytes 8 (imageLen s.core.map.data)))))

theorem mapInfoBody_eq (r : Req) (s : State) : mapInfoBody r s = s.place r.h 0x00 (mapInfoBlock s) := by
  simp only [mapInfoBody, mapInfoBlock, List.append_assoc]

/-- SYSTEM_INFO's block (R484): the devices, their mask, the keeper, the ports that are up, the map version. -/
def systemInfoBlock (s : State) : List Byte :=
  leBytes 1 (systemDevs s).length ++ ((leBytes 1 (toMask ((systemDevs s).map (·.1))) ++
    (leBytes 1 ((keeperDevid s).getD s.core.sys.devid) ++ leBytes 1 (mpUp s))) ++ leBytes 4 s.core.map.version.toNat)

theorem systemInfoBody_eq (r : Req) (s : State) : systemInfoBody r s = s.place r.h 0x00 (systemInfoBlock s) := by
  simp only [systemInfoBody, systemInfoBlock, List.append_assoc]

theorem version_field (m : MapSt) : m.version.toNat % 256 ^ 4 = m.version.toNat := Nat.mod_eq_of_lt m.version.isLt

/-- Settles O3: each report's own part places its block, which sees nothing of the taking. -/
theorem reportCommandsOnlyAnswer : Obligations.ReportCommandsOnlyAnswer := by
  unfold Obligations.ReportCommandsOnlyAnswer
  intro s h p
  refine ⟨responds_report capBlock fun _ _ _ _ _ _ => rfl, responds_report devStateBlock fun _ _ _ _ _ _ => rfl, fun ht => ?echo,
    responds_report telemetryBlock fun _ _ _ _ _ _ => rfl, responds_report timeStatusBlock fun _ _ _ _ _ _ => rfl,
    fun ht hn => ?crate, fun ht => ?map⟩
  case echo =>
    rw [exec_echo, serve_takes echoBody ht]
    exact (laid_taken s h (canTake_of_takes ht)).place 0x00 _ (by decide)
  case crate =>
    rw [exec_crateInfo, serve_takes crateInfoBody ht, crateInfoBody, guarded_of (c := (requestIn s h p).u8 0 ≤ 31) hn,
      taken_unseen (crateAt · ((requestIn s h p).u8 0)) (fun _ _ _ _ _ _ => rfl) s h]
    exact (laid_taken s h (canTake_of_takes ht)).place 0x00 _ (by decide)
  case map =>
    refine ⟨mapInfoBlock s, by simp [mapInfoBlock, leBytes_length], ?_, ?_⟩
    · rw [mapInfoBlock, fieldAt_leBytes_front, version_field]
    · rw [exec_mapInfo, funext₂ mapInfoBody_eq]
      exact responds_report mapInfoBlock (fun _ _ _ _ _ _ => rfl) ht

theorem exec_counterSnapshot (h : Nat) (s : State) : exec (.counterSnapshot h) s = .next (serve 0x0901 h counterSnapshotBody s) := rfl
theorem exec_errDetailRead (h : Nat) (s : State) : exec (.errDetailRead h) s = .next (serve 0x0903 h errDetailReadBody s) := rfl
theorem exec_loftRead (h : Nat) (s : State) : exec (.loftRead h) s = .next (serve 0x0A01 h loftReadBody s) := rfl
theorem exec_startLogRead (h : Nat) (s : State) : exec (.startLogRead h) s = .next (serve 0x0A04 h startLogReadBody s) := rfl
theorem exec_certRead (h : Nat) (s : State) : exec (.certRead h) s = .next (serve 0x0801 h certReadBody s) := rfl
theorem exec_attest (h : Nat) (s : State) : exec (.attest h) s = .next (serve 0x0802 h attestBody s) := rfl
theorem exec_systemInfo (h : Nat) (s : State) : exec (.systemInfo h) s = .next (serve 0x0B01 h systemInfoBody s) := rfl

theorem certBytes_length_le : certBytes.length ≤ 2048 := List.length_take_le _ _

/-- Settles O4: each block sees nothing of the taking, is written once, and DONE follows with its length. -/
theorem readOutCommandsWriteHostMemory : Obligations.ReadOutCommandsWriteHostMemory := by
  unfold Obligations.ReadOutCommandsWriteHostMemory
  intro s h p
  refine ⟨fun ht hlen => ?counters, fun ht hlen => ?errors, fun ht hpage => ?loft, fun ht hlen => ?log, fun ht hlen => ?cert,
    fun ht hself hlen => ?attest, fun ht => ?system⟩
  case counters =>
    rw [exec_counterSnapshot, serve_takes counterSnapshotBody ht, counterSnapshotBody, guarded_of (c := 16 ≤ (requestIn s h p).u32 8) hlen,
      taken_unseen snapshotParts (fun _ _ _ _ _ _ => rfl) s h]
    exact responds_answer ht _ _
  case errors =>
    rw [exec_errDetailRead, serve_takes errDetailReadBody ht, errDetailReadBody, guarded_of (c := 528 ≤ (requestIn s h p).u32 8) hlen,
      taken_unseen errParts (fun _ _ _ _ _ _ => rfl) s h]
    exact responds_answer ht _ _
  case loft =>
    rw [exec_loftRead, serve_takes loftReadBody ht, loftReadBody, guarded_of (c := (requestIn s h p).u8 0 ≤ 63) hpage,
      taken_unseen (loftShown · ((requestIn s h p).u8 0)) (fun _ _ _ _ _ _ => rfl) s h]
    exact ((laid_taken s h (canTake_of_takes ht)).emit (taken_out s h) _).place 0x00 [] (by decide)
  case log =>
    rw [exec_startLogRead, serve_takes startLogReadBody ht, startLogReadBody, guarded_of (c := 16 ≤ (requestIn s h p).u32 8) hlen,
      taken_unseen startLogParts (fun _ _ _ _ _ _ => rfl) s h]
    exact responds_answer ht _ _
  case cert =>
    rw [exec_certRead, serve_takes certReadBody ht, certReadBody, guarded_of (c := certBytes.length ≤ (requestIn s h p).u32 8) (certBytes_length_le.trans hlen)]
    exact responds_answer ht _ _
  case attest =>
    have hbody : reportBody (taken s h) (reqOf s h).ctx (fieldAt p 12 4) (bytesAt p 16 16) =
        reportBody s (reqOf s h).ctx (fieldAt p 12 4) (bytesAt p 16 16) :=
      taken_unseen (reportBody · _ _ _) (fun _ _ _ _ _ _ => rfl) s h
    have hok : (taken s h).core.sec.selfTestBad = false := (taken_unseen (·.core.sec.selfTestBad) (fun _ _ _ _ _ _ => rfl) s h).trans hself
    have hdraw : (taken s h).free = s.free := taken_unseen State.free (fun _ _ _ _ _ _ => rfl) s h
    have hserial : serialBytes { taken s h with free := s.free + 1 } = serialBytes s := taken_unseen serialBytes (fun _ _ _ _ _ _ => rfl) s h
    have laid := (laid_taken s h (canTake_of_takes ht)).draw
    rw [hdraw] at laid
    rw [exec_attest, serve_takes attestBody ht, attestBody]
    simp only [Req.u32, requestIn, hbody]
    rw [guarded_pass (by simpa [hok] using hlen)]
    simp only [State.draw, hdraw, hserial]
    exact (laid.emit (taken_out s h) _).place 0x00 _ (by decide)
  case system =>
    refine ⟨systemInfoBlock s, by simp [systemInfoBlock, leBytes_length], fieldAt_leBytes_front _ _ _, ?_, ?_⟩
    · have hskip := fieldAt_append_skip (leBytes 4 s.core.map.version.toNat) (a := leBytes 1 (systemDevs s).length ++
        (leBytes 1 (toMask ((systemDevs s).map (·.1))) ++ (leBytes 1 ((keeperDevid s).getD s.core.sys.devid) ++ leBytes 1 (mpUp s))))
        (by simp [leBytes_length]) 0 4 (k := 4)
      rw [systemInfoBlock, ← List.append_assoc, hskip, fieldAt_leBytes, version_field]
    · rw [exec_systemInfo, funext₂ systemInfoBody_eq]
      exact responds_report systemInfoBlock (fun _ _ _ _ _ _ => rfl) ht

end Sys2Proof.Machine
end

section
/-! Outputs, sticky errors and held events on the way to a response; then the commands on the device itself (R101 to R107, R513, R514). -/
namespace Sys2Proof.Machine

/-! ### Outputs only grow -/

section Outputs
variable (s : State)

theorem out_prefix_emit (o : Out) : s.out <+: (s.emit o).out := ⟨[o], rfl⟩

theorem out_prefix_msi (v : Nat) : s.out <+: (s.msi v).out := by
  obtain ⟨l, hl, -⟩ := msi_out s v
  exact ⟨l, hl.symm⟩

theorem out_prefix_putEntry (e : List Byte) : s.out <+: (s.putEntry e).out := by
  have laid (o p : Out) (f : Rings → Rings) : s.out <+: (((s.emit o).modRing f).emit p).out := ⟨[o, p], by simp⟩
  unfold State.putEntry
  dsimp only
  split
  · exact (laid _ _ _).trans (out_prefix_msi _ _)
  · exact laid _ _ _

theorem out_prefix_drainEvents : ∀ (n : Nat) (s : State), s.out <+: (State.drainEvents n s).out
  | 0, s => List.prefix_rfl
  | n + 1, s => by
    unfold State.drainEvents
    split
    · exact List.prefix_rfl
    · split
      · exact List.prefix_rfl
      · exact (out_prefix_putEntry (s.modRing _) _).trans (out_prefix_drainEvents n _)

theorem out_prefix_putEvent : ∀ (l : List (List Byte)) (s : State), s.out <+: (State.putEvent l s).out
  | [], s => List.prefix_rfl
  | e :: l, s => by
    unfold State.putEvent
    split
    · exact (out_prefix_putEntry s e).trans (out_prefix_putEvent l _)
    · split
      · exact (List.prefix_rfl (l := s.out)).trans (out_prefix_putEvent l (s.modRing _))
      · exact List.prefix_rfl

theorem out_prefix_event (type : Nat) (parts : List (List Byte)) : s.out <+: (s.event type parts).out := out_prefix_putEvent _ s

theorem out_prefix_event_of {s t : State} (h : t.out = s.out) (type : Nat) (parts : List (List Byte)) : s.out <+: (t.event type parts).out :=
  h ▸ out_prefix_event t type parts

theorem out_prefix_setErr (idx bitNo flags source sid page : Nat) : s.out <+: (s.setErr idx bitNo flags source sid page).out := by
  unfold State.setErr
  dsimp only
  refine holds_ite (P := fun t : State => s.out <+: t.out) List.prefix_rfl
    (holds_ite (P := fun t : State => s.out <+: t.out) List.prefix_rfl ?_)
  rw [traceRec_out]
  refine out_prefix_event_of ?_ _ _
  rfl

theorem out_prefix_err1 (idx bitNo source sid page : Nat) : s.out <+: (s.err1 idx bitNo source sid page).out :=
  out_prefix_setErr s _ _ _ _ _ _

theorem out_prefix_placeWith (h st : Nat) (pl : List Byte) (acc raise : Bool) : s.out <+: (s.placeWith h st pl acc raise).out := by
  rw [placeWith_eq]
  dsimp only
  split
  · refine List.IsPrefix.trans ?_ (out_prefix_msi _ _)
    rw [traceRec_out]
    exact List.prefix_rfl
  · rw [traceRec_out]
    exact List.prefix_rfl

theorem out_prefix_place (h st : Nat) (pl : List Byte) : s.out <+: (s.place h st pl).out := out_prefix_placeWith _ _ _ _ _ _

theorem mem_out_of_emit {o : Out} {t : State} (h : (s.emit o).out <+: t.out) : o ∈ t.out :=
  h.subset (by simp)

end Outputs

/-! ### Held events are written without touching the rest -/

theorem Deaf.drainEvents {α : Type} {F : State → α} (hF : Deaf F) : ∀ (n : Nat) (s : State), F (State.drainEvents n s) = F s
  | 0, _ => rfl
  | n + 1, s => by
    unfold State.drainEvents
    split
    · rfl
    · split
      · rfl
      · rw [hF.drainEvents n, hF.putEntry]
        exact hF.ring s s.core.ring.evWr _

theorem drainEvents_nil {s : State} (h : s.core.ring.evHeld = []) (n : Nat) : State.drainEvents n s = s := by
  cases n with
  | zero => rfl
  | succ n => rw [State.drainEvents, h]

@[simp] theorem quiet_drainEvents (s : State) (n : Nat) : quiet (State.drainEvents n s) = quiet s := deaf_quiet.drainEvents n s
@[simp] theorem drainEvents_hat (s : State) (n : Nat) : (State.drainEvents n s).core.hat = s.core.hat := deaf_hat.drainEvents n s

/-! ### What a response says depends on the hatches alone -/

theorem Answered.of_hat {s t u : State} {h st : Nat} {pl : List Byte} (a : Answered s h st pl t) (hu : u.core.hat = t.core.hat) :
    Answered s h st pl u := by
  have hctl : ctlAt u h = ctlAt t h := by rw [ctlAt, hu, ctlAt]
  exact ⟨by rw [hctl, a.own], by rw [hctl, a.pending], by rw [hu, a.done], by rw [hu, a.header], by rw [hu, a.status], by rw [hu, a.dt],
    by rw [hctl, hu]; exact a.length, by rw [hctl, hu]; exact a.payload⟩

theorem Kept.modSys {s t : State} {h : Nat} {c : Core} (k : Kept s h c t) (f : Sys → Sys) :
    Kept s h { c with sys := f c.sys } (t.modSys f) := by
  refine ⟨k.hw, k.loft, k.err, k.table, k.free, k.queue, ?_, k.others, k.bytes, k.out⟩
  have hcore := k.core
  simp only [State.modSys_core]
  conv => lhs; rw [hcore]

/-- What looks neither at the hatches, nor at the trace, nor at outputs and pending bits of MSI-X sees nothing of a response. -/
theorem place_unseen {α : Type} (F : State → α)
    (hF : ∀ (s : State) (a b e n l o m), F ({ s with out := o, pcie := { s.pcie with pba := m } } |>.withHatTrace a b e n l) = F s)
    (s : State) (h st : Nat) (pl : List Byte) : F (s.place h st pl) = F s := by
  rw [State.place, placeWith_eq]
  dsimp only
  obtain ⟨b, e, n, l, ht⟩ := traceRec_eq _ 0x40 h _ _
  rw [ht]
  split
  · rw [msi_eq]
    exact hF s _ b e n l _ _
  · exact hF s _ b e n l s.out s.pcie.pba

@[simp] theorem place_phase (s : State) (h st : Nat) (pl : List Byte) : (s.place h st pl).core.sys.phase = s.core.sys.phase :=
  place_unseen (·.core.sys.phase) (fun _ _ _ _ _ _ _ _ => rfl) s h st pl

@[simp] theorem place_ring (s : State) (h st : Nat) (pl : List Byte) : (s.place h st pl).core.ring = s.core.ring :=
  place_unseen (·.core.ring) (fun _ _ _ _ _ _ _ _ => rfl) s h st pl

/-! ### A sticky error bit is set -/

theorem deaf_err : Deaf State.err := ⟨fun _ _ => rfl, fun _ _ => rfl, fun _ _ _ => rfl, fun _ _ => rfl, fun _ _ _ _ _ => rfl⟩

@[simp] theorem place_err (s : State) (h st : Nat) (pl : List Byte) : (s.place h st pl).err = s.err :=
  place_unseen State.err (fun _ _ _ _ _ _ _ _ => rfl) s h st pl

/-- One flag below bit 32 of a register that the part has, none of a channel, stands after an occurrence. -/
theorem err1_sets {s : State} {idx b : Nat} (hp : errPresent s idx = true) (hlow : idx < 8) (hb : b < 32) (hlen : idx < s.err.regs.length)
    (source sid page : Nat) : ((s.err1 idx b source sid page).err.regs.getD idx {}).bits.getLsbD b = true := by
  have hflag : (BitVec.ofNat 32 (2 ^ b)).getLsbD b = true := by
    rw [BitVec.getLsbD_ofNat, Nat.testBit_two_pow_self, decide_eq_true hb]; rfl
  have hchan : decide (8 ≤ idx) = false := decide_eq_false (by omega)
  unfold State.err1 State.setErr
  simp only [hp, hchan, Bool.not_true, Bool.false_eq_true, if_false, Bool.false_and]
  generalize BitVec.ofNat 32 (2 ^ b) = flag at hflag
  split
  case isTrue hold =>
    rw [Bool.and_eq_true, beq_iff_eq] at hold
    have hbit := congrArg (BitVec.getLsbD · b) hold.1
    simpa [hflag, hb, BitVec.getLsbD_eq_getElem] using hbit
  case isFalse =>
    rw [traceRec_err, deaf_err.event]
    simp [setAt, List.getD, hlen, hflag, -BitVec.getLsbD_eq_getElem]

/-! ### The event ring (R101, R103) -/

section Taken
variable {s : State} {h op : Nat} {p : List Byte} {body : Req → State → State}

/-- A taken request's command answers what its own part makes of the state. -/
theorem next_of_takes (ht : takes s h op p = true) {t : State} (hb : body (requestIn s h p) (taken s h) = t) :
    (.next (serve op h body s) : Host.Outcome State Fault Refusal) = .next t := by
  rw [serve_takes body ht, hb]

theorem responds_of_takes (ht : takes s h op p = true) {t : State} (hb : body (requestIn s h p) (taken s h) = t) {st : Nat} {pl : List Byte}
    {c : Core} {u : State} (hr : Responds u h st pl c (.next t)) : Responds u h st pl c (.next (serve op h body s)) := by
  rwa [next_of_takes ht hb]

theorem laid_of_takes (ht : takes s h op p = true) : Laid s h s.core (taken s h) := laid_taken s h (canTake_of_takes ht)

end Taken

/-- One check in front, which passes. -/
theorem guarded_true {s : State} {h st : Nat} {ok : Bool} (hok : ok = true) (act : State → State) : s.guarded h [need ok st] act = act s := by
  rw [guarded_need, if_pos hok]

/-- The ring as EVENT_RING_SET sets it, and its count in host memory. -/
def ringSet (r : Req) (s : State) : State :=
  (s.modRing (fun g => { g with evBase := r.u64 0, evSize := r.u32 8, evVector := r.u8 12, evWr := 0, evRd := 0 })).emit
    (.dmaWrite (r.u64 0) (leBytes 4 0))

theorem eventRingSetBody_ok {r : Req} {s : State} (hv : r.u8 12 ≤ 63) (ha : r.u64 0 % 4096 = 0) (hs : ringSize 1024 65536 (r.u32 8) = true) :
    eventRingSetBody r s = State.drainEvents 4096 ((ringSet r s).place r.h 0x00) :=
  guarded_true (by simp [hv, ha, hs]) _

theorem open_ringSet {s u : State} {h : Nat} (o : Open s h u) (r : Req) : Open s h (ringSet r u) := o.step rfl rfl

/-! ### Tests of channels (R107) -/

theorem toProvisional_not_normal (x : Session) : x.toProvisional.state ≠ .normal := by
  unfold Session.toProvisional
  split <;> simp_all

theorem toProvisional_chan (x : Session) : x.toProvisional.chan = x.chan := by
  unfold Session.toProvisional
  split <;> rfl

/-- Sessions of a test that all enter PROVISIONAL are none of them NORMAL. -/
theorem provisionalAll_not_normal (s : State) (ch : Nat) :
    ∀ e ∈ (s.provisionalAll (fun _ x => x.chan == ch)).core.work.sess, e.2.chan = ch → e.2.state ≠ .normal := by
  intro e he hch
  simp only [State.provisionalAll, State.modWork_core, List.mem_map] at he
  obtain ⟨q, -, rfl⟩ := he
  by_cases hq : q.2.chan = ch
  · simpa [hq] using toProvisional_not_normal q.2
  · simp [hq] at hch

/-- What CHANNEL_ROLE asks of the state. -/
def RoleFree (c role : Nat) (s : State) : Prop :=
  channelCheck s c = none ∧ (role = 1 → ((mapChans s).filter (· != c)).length < mapChMax s ∧ (chanAt s c).testMode = 0) ∧
    sessionsOn s c = [] ∧ (∀ e ∈ s.core.work.sess, e.2.moveTo ≠ some (c, true)) ∧ hasMapJob s c = false

theorem channelRoleBody_ok {r : Req} {s : State} (hrole : r.u8 1 ≤ 1) (hfree : RoleFree (r.u8 0) (r.u8 1) s) :
    channelRoleBody r s = (s.modChan (r.u8 0) (fun x => { x with mapRole := r.u8 1 == 1 })).place r.h 0x00 := by
  obtain ⟨hch, hmap, hsess, hmove, hjob⟩ := hfree
  unfold channelRoleBody
  dsimp only
  refine guarded_pass ?_ _
  simp only [List.forall_mem_cons, need_eq_none, hch, hsess, hjob]
  rcases Nat.le_one_iff_eq_zero_or_eq_one.1 hrole with h0 | h1
  · simpa [h0] using hmove
  · obtain ⟨hcount, htest⟩ := hmap h1
    simpa [h1, hcount, htest] using hmove

/-- What CHANNEL_TEST leaves of a state in which it begins mode m of channel c. -/
def tested (c m : Nat) (s : State) : State :=
  let old := (chanAt s c).testMode
  let s := s.modChan c (fun x => { x with testMode := m, lastSlice := if m == 1 && old != 1 then dtOf s else x.lastSlice })
  if m != 0 && m != old then s.provisionalAll (fun _ x => x.chan == c)
  else if m == 0 && old != 0 then
    s.modWork (fun w => { w with sess := w.sess.map (fun p => (p.1, if p.2.chan == c then { p.2 with exitCount := 0 } else p.2)) })
  else s

theorem channelTestBody_ok {r : Req} {s : State}
    (hok : channelCheck s (r.u8 0) = none ∧ (chanAt s (r.u8 0)).mapRole = false) (hmode : r.u8 1 ≤ 2) :
    channelTestBody r s = (tested (r.u8 0) (r.u8 1) s).place r.h 0x00 (leBytes 1 (chanAt s (r.u8 0)).testMode) := by
  unfold channelTestBody
  dsimp only
  refine guarded_pass ?_ _
  simp [hok.1, hok.2, hmode]

theorem tested_chans (c m : Nat) (s : State) : (tested c m s).core.chans = updAt s.core.chans c (fun x =>
    { x with testMode := m, lastSlice := if m = 1 ∧ (chanAt s c).testMode ≠ 1 then dtOf s else x.lastSlice }) := by
  unfold tested
  simp only [Bool.and_eq_true, beq_iff_eq, bne_iff_ne]
  split
  · rfl
  · split <;> rfl

theorem tested_hat (c m : Nat) (s : State) : (tested c m s).core.hat = s.core.hat ∧ (tested c m s).core.time = s.core.time := by
  unfold tested
  dsimp only
  split
  · exact ⟨rfl, rfl⟩
  · split <;> exact ⟨rfl, rfl⟩

/-- A mode that begins leaves no session of the channel NORMAL. -/
theorem tested_not_normal {c m : Nat} {s : State} (hm : m ≠ 0) (hnew : m ≠ (chanAt s c).testMode) :
    ∀ e ∈ (tested c m s).core.work.sess, e.2.chan = c → e.2.state ≠ .normal := by
  unfold tested
  rw [if_pos (by simp [hm, hnew])]
  exact provisionalAll_not_normal _ c

/-! ### BOOT_LOAD (R513, R514) -/

/-- A BOOT_LOAD that passes check 1 of R83 finds a boot ROM that serves it (R93). -/
theorem bootServed_of_takes {s : State} {h : Nat} {p : List Byte} (ht : takes s h 0x0108 p = true) : bootServed s = true := by
  simp only [takes, Bool.and_eq_true, beq_iff_eq, Option.isNone_iff_eq_none] at ht
  obtain ⟨⟨⟨⟨-, hop⟩, -⟩, hfail⟩, -⟩ := ht
  by_contra hb
  have hunknown : opInfo s 0x0108 = none := by simp [opInfo, Bool.eq_false_iff.2 hb]
  simp [requestFailure, hop, hunknown] at hfail

theorem phase_of_bootServed {s : State} (hb : bootServed s = true) : s.core.sys.phase = .safe ∨ s.core.sys.phase = .starting := by
  simp only [bootServed, Bool.or_eq_true, Bool.and_eq_true, beq_iff_eq] at hb
  tauto

/-- A start that goes on with an image taken from the host: ST2 ends and ST3 begins. -/
def booted (img : List Byte) (s : State) : State :=
  let safe := s.core.sys.phase == .safe
  let s := if safe then s.modSys (fun y => { y with phase := .starting, step := 2, record := { y.record with final := 0xFF } }) else s
  (s.acceptImage img 2).stepDone 2 (if safe || (s.loft.remedies.flashSwap && s.core.sys.bootSrc != 1) then 3 else 0)
    (if safe then 0 else s.core.sys.record.reason.getD 2 0)

theorem booted_sys (img : List Byte) {s : State} (hphase : s.core.sys.phase = .safe ∨ s.core.sys.phase = .starting) :
    (booted img s).core.hat = s.core.hat ∧ (booted img s).out = s.out ∧ (booted img s).core.sys.phase = .starting ∧
      (booted img s).core.sys.step = 3 ∧ (booted img s).core.sys.fwMeas = sm3 img := by
  rcases hphase with h | h <;> simp [booted, h, State.stepDone, State.enterStep, State.noteStep, State.modRecord, State.writeRecord,
    State.acceptImage]

theorem bootLoadBody_ok {r : Req} {s : State} (img : List Byte)
    (hok : s.core.sec.selfTestBad = false ∧ 65792 ≤ r.u32 8 ∧ r.u32 8 ≤ 8388608) :
    bootLoadBody (.ok img) r s =
      if imageOk s (padTo (r.u32 8) img) then booted (padTo (r.u32 8) img) ((s.emit (.dmaRead (r.u64 0) (r.u32 8))).place r.h 0x00)
      else ((s.emit (.dmaRead (r.u64 0) (r.u32 8))).err1 3 7 2).place r.h 0x30 := by
  obtain ⟨hself, hlow, hhigh⟩ := hok
  unfold bootLoadBody
  dsimp only
  rw [guarded_pass (by simp [hself, hlow, hhigh])]
  simp only [booted, place_phase]
  rfl

/-- Settles O6: each command's own part, and what its response leaves of it. -/
theorem deviceCommandsTakeEffect : Obligations.DeviceCommandsTakeEffect := by
  unfold Obligations.DeviceCommandsTakeEffect
  intro s h p
  refine ⟨fun ht hv ha hs => ?ring, fun ht hch hrole hmap hsess hmove hjob => ?role, fun ht => ?reset, fun ht hch hmap hmode => ?test,
    fun img ht hself hlow hhigh => ?boot⟩
  case ring =>
    have opened := open_ringSet (open_taken ht) (requestIn s h p)
    have hring : quiet (State.drainEvents 4096 ((ringSet (requestIn s h p) (taken s h)).place h 0x00)) =
        quiet (ringSet (requestIn s h p) (taken s h)) := by simp
    have hout : (ringSet (requestIn s h p) (taken s h)).out <+:
        (State.drainEvents 4096 ((ringSet (requestIn s h p) (taken s h)).place h 0x00)).out :=
      (out_prefix_place _ _ _ _).trans (out_prefix_drainEvents _ _)
    refine ⟨State.drainEvents 4096 ((ringSet (requestIn s h p) (taken s h)).place h 0x00), next_of_takes ht (eventRingSetBody_ok hv ha hs),
      (opened.answered_place 0x00 [] (by decide)).of_hat (drainEvents_hat _ _),
      congrArg (·.ring.evBase) hring,      congrArg (·.ring.evSize) hring, congrArg (·.ring.evVector) hring, congrArg (·.ring.evRd) hring, mem_out_of_emit _ hout, fun hnone => ?_⟩
    have hheld : ((ringSet (requestIn s h p) (taken s h)).place h 0x00).core.ring.evHeld = [] := by
      rw [place_ring]
      exact (taken_unseen (·.core.ring.evHeld) (fun _ _ _ _ _ _ => rfl) s h).trans hnone
    rw [drainEvents_nil hheld, place_ring]
    rfl
  case role =>
    have hfree : RoleFree (fieldAt p 0 1) (fieldAt p 1 1) (taken s h) :=
      (taken_unseen (RoleFree (fieldAt p 0 1) (fieldAt p 1 1)) (fun _ _ _ _ _ _ => rfl) s h).mpr ⟨hch, hmap, hsess, hmove, hjob⟩
    exact responds_of_takes ht (channelRoleBody_ok hrole hfree) (((laid_of_takes ht).modChans _).place 0x00 [] (by decide))
  case reset =>
    have answer := (open_taken ht).answered_place 0x00 [] (by decide)
    have hset := ((laid_of_takes ht).place 0x00 [] (by decide))
    obtain ⟨t, hplaced, -, kept⟩ := hset
    cases next_inj hplaced
    refine ⟨_, next_of_takes ht rfl, answer.of_hat rfl, ?_⟩
    rw [← (open_taken ht).dt]
    exact kept.modSys fun y => { y with coreResetAt := some (y.coreResetAt.getD (dtOf (taken s h) + 1000000)) }
  case test =>
    have hok : channelCheck (taken s h) (fieldAt p 0 1) = none ∧ (chanAt (taken s h) (fieldAt p 0 1)).mapRole = false :=
      (taken_unseen (fun u => channelCheck u (fieldAt p 0 1) = none ∧ (chanAt u (fieldAt p 0 1)).mapRole = false)
        (fun _ _ _ _ _ _ => rfl) s h).mpr ⟨hch, hmap⟩
    have hold : chanAt (taken s h) (fieldAt p 0 1) = chanAt s (fieldAt p 0 1) :=
      taken_unseen (chanAt · (fieldAt p 0 1)) (fun _ _ _ _ _ _ => rfl) s h
    have hbody : channelTestBody (requestIn s h p) (taken s h) = (tested (fieldAt p 0 1) (fieldAt p 1 1) (taken s h)).place h 0x00
        (leBytes 1 (chanAt (taken s h) (fieldAt p 0 1)).testMode) := channelTestBody_ok (r := requestIn s h p) hok hmode
    rw [hold] at hbody
    obtain ⟨hhat, htime⟩ := tested_hat (fieldAt p 0 1) (fieldAt p 1 1) (taken s h)
    have opened := (open_taken ht).step hhat htime
    have hquiet := quiet_place (tested (fieldAt p 0 1) (fieldAt p 1 1) (taken s h)) h 0x00 (leBytes 1 (chanAt s (fieldAt p 0 1)).testMode)
    refine ⟨_, next_of_takes ht hbody, opened.answered_place 0x00 _ (by decide), ?_, fun hne hnew => ?_⟩
    · rw [chans_of_quiet hquiet, tested_chans, hold, (open_taken ht).dt, chans_of_quiet (quiet_taken s h)]
    · rw [work_of_quiet hquiet]
      exact tested_not_normal hne (by rwa [hold])
  case boot =>
    have hok : (taken s h).core.sec.selfTestBad = false ∧ 65792 ≤ (requestIn s h p).u32 8 ∧ (requestIn s h p).u32 8 ≤ 8388608 :=
      ⟨(taken_unseen (·.core.sec.selfTestBad) (fun _ _ _ _ _ _ => rfl) s h).trans hself, hlow, hhigh⟩
    have himg : imageOk (taken s h) (padTo (fieldAt p 8 4) img) = imageOk s (padTo (fieldAt p 8 4) img) :=
      taken_unseen (imageOk · _) (fun _ _ _ _ _ _ => rfl) s h
    have hphase : (((taken s h).emit (.dmaRead (fieldAt p 0 8) (fieldAt p 8 4))).place h 0x00).core.sys.phase = .safe ∨
        (((taken s h).emit (.dmaRead (fieldAt p 0 8) (fieldAt p 8 4))).place h 0x00).core.sys.phase = .starting := by
      rw [place_phase, State.emit_core, taken_unseen (·.core.sys.phase) (fun _ _ _ _ _ _ => rfl) s h]
      exact phase_of_bootServed (bootServed_of_takes ht)
    have hbody := bootLoadBody_ok img hok
    rw [show padTo ((requestIn s h p).u32 8) img = padTo (fieldAt p 8 4) img from rfl, himg] at hbody
    have read := (open_taken ht).step (v := (taken s h).emit (.dmaRead (fieldAt p 0 8) (fieldAt p 8 4))) rfl rfl
    refine ⟨_, next_of_takes ht hbody, ?read, fun himgok => ?accepted, fun himgbad => ?refused⟩
    case read =>
      split
      · obtain ⟨-, hout, -⟩ := booted_sys (padTo (fieldAt p 8 4) img) hphase
        have sent := mem_out_of_emit (taken s h) (o := .dmaRead (fieldAt p 0 8) (fieldAt p 8 4)) (out_prefix_place _ h 0x00 [])
        rw [← hout] at sent
        exact sent
      · exact mem_out_of_emit _ ((out_prefix_err1 _ _ _ _ _ _).trans (out_prefix_place _ _ _ _))
    case accepted =>
      rw [if_pos himgok]
      obtain ⟨hhat, -, hstart, hstep, hmeas⟩ := booted_sys (padTo (fieldAt p 8 4) img) hphase
      exact ⟨(read.answered_place 0x00 [] (by decide)).of_hat hhat, hstart, hstep, hmeas⟩
    case refused =>
      rw [if_neg (by simp [himgbad])]
      refine ⟨(read.step (err1_hat _ _ _ _ _ _) (time_of_quiet (quiet_err1 _ _ _ _ _ _))).answered_place 0x30 [] (by decide), fun hlen => ?_⟩
      rw [place_err]
      have herr : (taken s h).err = s.err := taken_unseen State.err (fun _ _ _ _ _ _ => rfl) s h
      exact err1_sets (s := (taken s h).emit (.dmaRead (fieldAt p 0 8) (fieldAt p 8 4))) (by simp [errPresent]) (by decide) (by decide)
        (by rw [State.emit_err, herr, hlen]; decide) _ _ _

end Sys2Proof.Machine
end

section
/-! The 0x02xx commands (R46 to R50, R75, R108, R109): what SESSION_OPEN picks, and what each command leaves of the sessions. -/
namespace Sys2Proof.Machine

/-! ### What SESSION_OPEN picks (R46, R107) -/

theorem minBy_le {f : Nat → Nat} : ∀ {l : List Nat} {c : Nat}, minBy f l = some c → c ∈ l ∧ ∀ d ∈ l, f c ≤ f d
  | [], _, h => by simp [minBy] at h
  | a :: l, c, h => by
    unfold minBy at h
    split at h
    case h_1 hnone =>
      cases h
      cases l with
      | nil => simp
      | cons b l =>
        simp only [minBy] at hnone
        split at hnone
        · cases hnone
        · split at hnone <;> cases hnone
    case h_2 b hb =>
      obtain ⟨hmem, hle⟩ := minBy_le hb
      split at h <;> cases h
      · exact ⟨by simp, List.forall_mem_cons.2 ⟨le_rfl, fun d hd => le_trans ‹_› (hle d hd)⟩⟩
      · exact ⟨List.mem_cons_of_mem _ hmem, List.forall_mem_cons.2 ⟨by omega, hle⟩⟩

/-- Of a rising list, no element below the one picked has the same value. -/
theorem minBy_lowest {f : Nat → Nat} : ∀ {l : List Nat} {c : Nat}, l.Pairwise (· < ·) → minBy f l = some c → ∀ d ∈ l, f c = f d → c ≤ d
  | [], _, _, h => by simp [minBy] at h
  | a :: l, c, hl, h => by
    obtain ⟨hlow, hrest⟩ := List.pairwise_cons.1 hl
    have hleast := (minBy_le h).2
    unfold minBy at h
    split at h
    case h_1 =>
      cases h
      exact List.forall_mem_cons.2 ⟨fun _ => le_rfl, fun d hd _ => (hlow d hd).le⟩
    case h_2 b hb =>
      split at h <;> cases h
      · exact List.forall_mem_cons.2 ⟨fun _ => le_rfl, fun d hd _ => (hlow d hd).le⟩
      · exact List.forall_mem_cons.2 ⟨fun he => absurd he.ge ‹_›, minBy_lowest hrest hb⟩

theorem ordinaryChans_rising (s : State) : (ordinaryChans s).Pairwise (· < ·) := (List.pairwise_lt_range.filter _).filter _

/-- Settles O7: the least of a rising list, and the first number that is no key. -/
theorem sessionOpenPicksLowest : Obligations.SessionOpenPicksLowest := by
  unfold Obligations.SessionOpenPicksLowest
  intro s
  refine ⟨fun n hn => ?sid, fun n hn => ?named, fun c l hc hl => ?chan⟩
  case sid =>
    obtain ⟨hfree, hlt, htaken⟩ := List.find?_range_eq_some.1 (hn : NMap.lowestFree s.core.work.sess (maxSessions s) = some n)
    exact ⟨List.mem_range.1 hlt, by simpa [NMap.has, sessAt] using hfree, by simpa [NMap.has, sessAt] using htaken⟩
  case named => simp [pickSid, hn]
  case chan =>
    have hpick : minBy (fun c => (sessionsOn s c).length) l = some c ∧ l.Pairwise (· < ·) := by
      rcases hl with ⟨rfl, hne⟩ | ⟨rfl, hnil⟩
      · exact ⟨by simpa [pickChannel, fewestSessions, hne] using hc, (ordinaryChans_rising s).filter _⟩
      · exact ⟨by simpa [pickChannel, fewestSessions, hnil] using hc, ordinaryChans_rising s⟩
    obtain ⟨hmin, hrise⟩ := hpick
    exact ⟨(minBy_le hmin).1, fun d hd => ⟨(minBy_le hmin).2 d hd, minBy_lowest hrise hmin d hd⟩⟩

/-! ### Sessions in the table -/

theorem NMap.upd_eq_set {α : Type} {m : NMap α} {k : Nat} {v : α} (h : NMap.get? m k = some v) (f : α → α) :
    NMap.upd m k f = NMap.set m k (f v) := by
  simp [NMap.upd, h]

theorem NMap.get_upd {α : Type} {m : NMap α} {k : Nat} {v : α} (h : NMap.get? m k = some v) (f : α → α) :
    NMap.get? (NMap.upd m k f) k = some (f v) := by
  rw [NMap.upd_eq_set h, NMap.get_set]

theorem modSess_eq {s : State} {sid : Nat} {x : Session} (hx : sessAt s sid = some x) (f : Session → Session) :
    s.modSess sid f = s.modWork (fun w => { w with sess := NMap.set w.sess sid (f x) }) := by
  simp only [State.modSess, State.modWork, NMap.upd_eq_set (m := s.core.work.sess) hx]

/-- A context brought into the common shelf, or not: the list of the shelf is all that moves. -/
theorem touchShelf_getD_eq (s : State) (sid : Nat) : ∃ l, (touchShelf s sid).getD s = s.modWork (fun w => { w with shelf := l }) := by
  unfold touchShelf
  dsimp only
  split
  · exact ⟨_, rfl⟩
  · split
    · exact ⟨_, rfl⟩
    · exact ⟨s.core.work.shelf, rfl⟩

theorem touchShelf_work {s u : State} (hw : u.core.work = s.core.work) (hc : u.core.chans = s.core.chans) (sid : Nat) :
    ((touchShelf u sid).getD u).core.work = ((touchShelf s sid).getD s).core.work := by
  have hheld : ctxHeld u = ctxHeld s := by
    funext n
    rw [ctxHeld, ctxHeld, hc, sessAt, sessAt, hw]
  unfold touchShelf
  simp only [hw, hheld]
  split
  · rw [Option.getD_some, Option.getD_some, State.modWork_core, State.modWork_core, hw]
  · split
    · rw [Option.getD_some, Option.getD_some, State.modWork_core, State.modWork_core, hw]
    · exact hw

/-- What a command on a session asks: it is not free, it belongs to the context, and no command holds it (R43, R45, R91). -/
def SessionFree (s : State) (sid ctx : Nat) (x : Session) : Prop := sessAt s sid = some x ∧ x.owner = ctx ∧ held s (.sid sid) = false

theorem sessionChecks_none {s : State} {r : Req} {sid : Nat} {x : Session} (hfree : SessionFree s sid r.ctx x) :
    ∀ c ∈ sessionChecks s r sid, c = none := by
  obtain ⟨hx, howner, hheld⟩ := hfree
  simp [sessionChecks, hx, howner, hheld]

theorem sessionFree_taken {s : State} {h sid ctx : Nat} {x : Session} (hx : sessAt s sid = some x) (howner : x.owner = ctx)
    (hheld : held (taken s h) (.sid sid) = false) : SessionFree (taken s h) sid ctx x :=
  ⟨(taken_unseen (sessAt · sid) (fun _ _ _ _ _ _ => rfl) s h).trans hx, howner, hheld⟩

/-! ### Commands on sessions that end at once -/

theorem sessionOpenBody_ok {r : Req} {s : State} {n c : Nat}
    (hok : r.u8 2 ≤ 3 ∧ areaSet s (r.u8 5) = true ∧ (r.u16 0 = 0xFFFF ∨ r.u16 0 < maxSessions s)) (hn : pickSid s (r.u16 0) = some n)
    (hc : r.u8 3 = 255 ∧ pickChannel s = some c ∨ r.u8 3 = c ∧ channelCheck s c = none ∧ (chanAt s c).mapRole = false) :
    sessionOpenBody r s = (s.modWork (fun w =>
        { w with sess := NMap.set w.sess n (openedSession r.ctx c (dtOf s) (r.u8 2) (r.u8 4) (r.u8 5)) })).place r.h 0x00 (leBytes 2 n ++ leBytes 1 c) := by
  obtain ⟨hcls, harea, hsid⟩ := hok
  have hsid' : (r.u16 0 == 0xFFFF || decide (r.u16 0 < maxSessions s)) = true := by simpa using hsid
  unfold sessionOpenBody
  dsimp only
  rcases hc with ⟨h255, hpick⟩ | ⟨rfl, hcheck, hmap⟩
  · rw [guarded_pass (by simp [h255, hpick, hn, hcls, harea, hsid'])]
    simp [h255, hpick, hn, openedSession]
  · have hne : r.u8 3 ≠ 255 := by
      intro he
      simp [channelCheck, he] at hcheck
    rw [guarded_pass (by simp [hne, hcheck, hmap, hn, hcls, harea, hsid'])]
    simp [hne, hn, openedSession]

/-- The settings of a session after SESSION_CONFIG: each field as VALID says (R108). -/
def configured (r : Req) (x : Session) : Session :=
  { x with ctx := { x.ctx with
      cfg :=
        { cls := if bit (r.u16 2) 0 then r.u8 4 else x.ctx.cfg.cls
          group := if bit (r.u16 2) 1 then r.u8 5 else x.ctx.cfg.group
          area := if bit (r.u16 2) 2 then r.u8 6 else x.ctx.cfg.area
          horizonMs := if bit (r.u16 2) 3 then r.u16 8 else x.ctx.cfg.horizonMs
          latencyMs := if bit (r.u16 2) 4 then r.u16 0xA else x.ctx.cfg.latencyMs
          exitPos := if bit (r.u16 2) 5 then r.u16 0xC else x.ctx.cfg.exitPos
          exitHead := if bit (r.u16 2) 5 then r.u16 0xE else x.ctx.cfg.exitHead
          exitSigma := if bit (r.u16 2) 5 then r.u16 0x10 else x.ctx.cfg.exitSigma }
      lateDiscard := x.ctx.lateDiscard && !(bit (r.u16 2) 6 && bit (r.u8 7) 0) } }

/-- The ranges that SESSION_CONFIG asks of the fields it takes (R108). -/
def ConfigFits (r : Req) (s : State) : Prop :=
  (bit (r.u16 2) 0 = true → r.u8 4 ≤ 3) ∧ (bit (r.u16 2) 2 = true → areaSet s (r.u8 6) = true) ∧
  (bit (r.u16 2) 3 = true → 100 ≤ r.u16 8 ∧ r.u16 8 ≤ 10000) ∧ (bit (r.u16 2) 4 = true → 1 ≤ r.u16 10 ∧ r.u16 10 ≤ 10000) ∧
  (bit (r.u16 2) 5 = true → 1 ≤ r.u16 12 ∧ r.u16 12 ≤ 10000 ∧ 1 ≤ r.u16 14 ∧ r.u16 14 ≤ 18000 ∧ 1 ≤ r.u16 16 ∧ r.u16 16 ≤ 10000)

/-- Fields taken one after another are fields taken each on its own. -/
theorem fields_taken (c : SessCfg) (v0 v1 v2 v3 v4 v5 : Bool) (cls group area horizon latency pos head sigma : Nat) :
    (let c := if v0 then { c with cls := cls } else c
     let c := if v1 then { c with group := group } else c
     let c := if v2 then { c with area := area } else c
     let c := if v3 then { c with horizonMs := horizon } else c
     let c := if v4 then { c with latencyMs := latency } else c
     if v5 then { c with exitPos := pos, exitHead := head, exitSigma := sigma } else c) =
    { cls := if v0 then cls else c.cls
      group := if v1 then group else c.group
      area := if v2 then area else c.area
      horizonMs := if v3 then horizon else c.horizonMs
      latencyMs := if v4 then latency else c.latencyMs
      exitPos := if v5 then pos else c.exitPos
      exitHead := if v5 then head else c.exitHead
      exitSigma := if v5 then sigma else c.exitSigma } := by
  cases v0 <;> cases v1 <;> cases v2 <;> cases v3 <;> cases v4 <;> cases v5 <;> rfl

theorem sessionConfigBody_ok {r : Req} {s : State} {x : Session} (hfree : SessionFree s (r.u16 0) r.ctx x) (hfits : ConfigFits r s) :
    sessionConfigBody r s = (((touchShelf s (r.u16 0)).getD s).modWork (fun w =>
      { w with sess := NMap.set w.sess (r.u16 0) (configured r x) })).place r.h 0x00 (configLayout (r.u16 0) (configured r x).ctx.cfg) := by
  obtain ⟨h0, h2, h3, h4, h5⟩ := hfits
  obtain ⟨l, hl⟩ := touchShelf_getD_eq s (r.u16 0)
  have hx : sessAt ((touchShelf s (r.u16 0)).getD s) (r.u16 0) = some x := by rw [hl]; exact hfree.1
  unfold sessionConfigBody
  refine (guarded_pass ?checks _).trans ?_
  case checks =>
    refine List.forall_mem_append.2 ⟨sessionChecks_none hfree, ?_⟩
    simp only [List.forall_mem_singleton, need_eq_none, Bool.and_eq_true, Bool.or_eq_true, Bool.not_eq_true', decide_eq_true_eq]
    generalize bit (r.u16 2) 0 = v0, bit (r.u16 2) 2 = v2, bit (r.u16 2) 3 = v3, bit (r.u16 2) 4 = v4, bit (r.u16 2) 5 = v5 at *
    grind
  · rw [modSess_eq hx]
    have hset : ∀ y, (((touchShelf s (r.u16 0)).getD s).modWork (fun w => { w with sess := NMap.set w.sess (r.u16 0) y })).place r.h 0x00
        (configLayout (r.u16 0) ((sessAt (((touchShelf s (r.u16 0)).getD s).modWork (fun w =>
          { w with sess := NMap.set w.sess (r.u16 0) y })) (r.u16 0)).getD {}).ctx.cfg) =
        (((touchShelf s (r.u16 0)).getD s).modWork (fun w => { w with sess := NMap.set w.sess (r.u16 0) y })).place r.h 0x00
          (configLayout (r.u16 0) y.ctx.cfg) := fun y => by
      simp only [sessAt, State.modWork_core, NMap.get_set, Option.getD_some]
    refine (hset _).trans ?_
    have hcfg := fields_taken x.ctx.cfg (bit (r.u16 2) 0) (bit (r.u16 2) 1) (bit (r.u16 2) 2) (bit (r.u16 2) 3) (bit (r.u16 2) 4)
      (bit (r.u16 2) 5) (r.u8 4) (r.u8 5) (r.u8 6) (r.u16 8) (r.u16 0xA) (r.u16 0xC) (r.u16 0xE) (r.u16 0x10)
    unfold configured
    rw [← hcfg]

theorem touchShelf_sess (s : State) (sid : Nat) : ((touchShelf s sid).getD s).core.work.sess = s.core.work.sess := by
  obtain ⟨l, hl⟩ := touchShelf_getD_eq s sid
  rw [hl]
  rfl

/-- The context of a session comes into the shelf after the request is taken as it would before. -/
theorem Laid.touch {s b u : State} {h : Nat} (l : Laid b h s.core u) (sid : Nat) :
    Laid b h ((touchShelf s sid).getD s).core ((touchShelf u sid).getD u) := by
  have hwork := touchShelf_work l.work_eq l.chans_eq sid
  obtain ⟨ls, hs⟩ := touchShelf_getD_eq s sid
  obtain ⟨lu, hu⟩ := touchShelf_getD_eq u sid
  have hshelf : lu = ls := by
    rw [hs, hu] at hwork
    exact congrArg Work.shelf hwork
  rw [hs, hu, hshelf]
  exact l.modWork fun w => { w with shelf := ls }

/-- A change of one session of the table. -/
theorem Laid.modSess {b u : State} {h : Nat} {c : Core} (l : Laid b h c u) {sid : Nat} {x : Session}
    (hx : NMap.get? c.work.sess sid = some x) (f : Session → Session) :
    Laid b h (c.withSess (NMap.set c.work.sess sid (f x))) (u.modSess sid f) := by
  rw [modSess_eq (by rw [sessAt, l.work_eq, hx])]
  exact l.modWork fun w => { w with sess := NMap.set w.sess sid (f x) }

/-- What SESSION_SENSOR does with a calibration and its mesh. -/
def sensorSet (r : Req) (mesh : List Byte) (s : State) : State :=
  if sensorOk (sensorOf r mesh) then
    (((touchShelf s (r.u16 0)).getD s).modSess (r.u16 0) (fun y =>
      { y with ctx := { y.ctx with sensors := setAt y.ctx.sensors (r.u8 2) (sensorOf r mesh) } })).place r.h 0x00
  else s.place r.h 0x11

theorem padTo_padTo (n : Nat) (l : List Byte) : padTo n (padTo n l) = padTo n l := by
  simp [padTo, bytesAt]

theorem sessionSensorBody_ok {r : Req} {s : State} {x : Session} (data : List Byte) (hfree : SessionFree s (r.u16 0) r.ctx x)
    (hslot : r.u8 2 ≤ 3 ∧ r.u8 3 ≤ 6) (hopen : r.u8 3 = 3 → bulkSealed s r.ctx = false) :
    sessionSensorBody (.ok data) r s = if r.u8 3 = 3 then sensorSet r (padTo 2048 data) (s.emit (.dmaRead (r.u64 0x58) 2048))
      else sensorSet r [] s := by
  unfold sessionSensorBody
  refine (guarded_pass ?_ _).trans ?_
  · refine List.forall_mem_append.2 ⟨sessionChecks_none hfree, ?_⟩
    simp [hslot.1, hslot.2]
  · by_cases h3 : r.u8 3 = 3
    · have hsealed := hopen h3
      have hread : bulkSealed (s.emit (.dmaRead (r.u64 0x58) 2048)) r.ctx = false := hsealed
      simp only [h3, beq_self_eq_true, if_true, State.withDma, hostLen, hsealed, Bool.false_eq_true, if_false, bulkData, hread, padTo_padTo]
      rfl
    · simp only [h3, beq_iff_eq, if_false]
      rfl

theorem responds_calibrated {s b u : State} {r : Req} {x : Session} (l : Laid b r.h s.core u) (hx : sessAt s (r.u16 0) = some x)
    (mesh : List Byte) :
    (sensorOk (sensorOf r mesh) = true →
      Responds b r.h 0x00 [] (((touchShelf s (r.u16 0)).getD s).core.withSess (NMap.set s.core.work.sess (r.u16 0)
        { x with ctx := { x.ctx with sensors := setAt x.ctx.sensors (r.u8 2) (sensorOf r mesh) } })) (.next (sensorSet r mesh u))) ∧
    (sensorOk (sensorOf r mesh) = false → Responds b r.h 0x11 [] s.core (.next (sensorSet r mesh u))) := by
  refine ⟨fun hok => ?_, fun hbad => ?_⟩
  · have hset := (l.touch (r.u16 0)).modSess (sid := r.u16 0) (x := x) (by rw [touchShelf_sess]; exact hx) (fun y =>
      { y with ctx := { y.ctx with sensors := setAt y.ctx.sensors (r.u8 2) (sensorOf r mesh) } })
    rw [touchShelf_sess] at hset
    rw [sensorSet, if_pos hok]
    exact hset.place 0x00 [] (by decide)
  · rw [sensorSet, if_neg (by simp [hbad])]
    exact l.place 0x11 [] (by decide)

/-! ### A record into a reserved slot -/

/-- Writing a record draws free values and sets the sticky bit of a value that saturates; nothing else. -/
theorem Deaf.record {α : Type} {F : State → α} (hF : Deaf F) (herr : ∀ s e, F { s with err := e } = F s)
    (hfree : ∀ s n, F { s with free := n } = F s) (s : State) (i : RecIn) : F (s.record i).2 = F s := by
  have drawn : F s.draw.2 = F s := hfree s _
  unfold State.record
  by_cases h : poseKept i.status = true
  · simp only [h, if_true]
    exact holds_ite (P := fun t => F t = F s) (hF.err1 herr _ _ _ _ _ _) rfl
  · simp only [h]
    exact holds_ite (P := fun t => F t = F s) ((hF.err1 herr _ _ _ _ _ _).trans drawn) drawn

theorem sealRecord_unseen {α : Type} {F : State → α} (hsec : ∀ (s : State) (g : NMap Tenant → NMap Tenant),
      F (s.modSec (fun c => { c with contexts := g c.contexts })) = F s)
    (s : State) (area sid : Nat) (b : List Byte) : F (s.sealRecord area sid b).2 = F s := by
  unfold State.sealRecord
  dsimp only
  split
  · dsimp only
    exact hsec s (fun m => NMap.upd m _ (fun t => { t with recCtr := t.recCtr + 1 }))
  · rfl

/-- What a delivery leaves of the parts that commands look at afterwards. -/
def delivered (s : State) : Hatches × Time × List Area := (s.core.hat, s.core.time, s.core.ring.areas)

theorem deaf_delivered : Deaf delivered :=
  ⟨fun _ _ => rfl, fun _ _ => rfl, fun _ _ _ => rfl, fun _ _ => rfl, fun _ _ _ _ _ => rfl⟩

section
variable {s : State} {n : Nat}

theorem areaAt_msi (v : Nat) : areaAt (s.msi v) n = areaAt s n := by rw [areaAt, msi_core, areaAt]

theorem areaAt_emit (o : Out) : areaAt (s.emit o) n = areaAt s n := rfl

/-- What a record's interrupt leaves: it counts records alone. -/
theorem areaIrq_area (hn : n < s.core.ring.areas.length) : (areaAt (s.areaIrq n) n).wr = (areaAt s n).wr ∧
    (areaAt (s.areaIrq n) n).reserved = (areaAt s n).reserved := by
  unfold State.areaIrq
  dsimp only
  split
  · rw [areaAt_msi, areaAt_modArea_self hn]
    exact ⟨rfl, rfl⟩
  · exact ⟨rfl, rfl⟩

theorem areaIrq_hat : (s.areaIrq n).core.hat = s.core.hat ∧ (s.areaIrq n).core.time = s.core.time := by
  unfold State.areaIrq
  dsimp only
  split
  · rw [msi_core]
    exact ⟨rfl, rfl⟩
  · exact ⟨rfl, rfl⟩

theorem putRecord_area (hn : n < s.core.ring.areas.length) (b : List Byte) :
    (areaAt (s.putRecord n b) n).wr = (areaAt s n).wr + 1 ∧ (areaAt (s.putRecord n b) n).reserved = (areaAt s n).reserved := by
  have hlen (o : Out) (f : Area → Area) (p : Out) : n < (((s.emit o).modArea n f).emit p).core.ring.areas.length := by
    simpa [length_updAt] using hn
  unfold State.putRecord
  dsimp only
  rw [(areaIrq_area (hlen _ _ _)).1, (areaIrq_area (hlen _ _ _)).2, areaAt_emit, areaAt_modArea_self (s := s.emit _) hn]
  exact ⟨rfl, rfl⟩

theorem putRecord_hat (b : List Byte) : (s.putRecord n b).core.hat = s.core.hat ∧ (s.putRecord n b).core.time = s.core.time := by
  unfold State.putRecord
  dsimp only
  exact ⟨areaIrq_hat.1, areaIrq_hat.2⟩

/-- A delivered record takes its reserved slot (R56, R60). -/
theorem deliver_area (hn : n < s.core.ring.areas.length) (i : RecIn) :
    (s.deliver n i).core.hat = s.core.hat ∧ (s.deliver n i).core.time = s.core.time ∧
      (areaAt (s.deliver n i) n).wr = (areaAt s n).wr + 1 ∧ (areaAt (s.deliver n i) n).reserved = (areaAt s n).reserved - 1 := by
  have hrec : delivered (s.record i).2 = delivered s := deaf_delivered.record (fun _ _ => rfl) (fun _ _ => rfl) s i
  have hseal : delivered ((s.record i).2.sealRecord n i.sid (s.record i).1).2 = delivered s :=
    (sealRecord_unseen (F := delivered) (fun _ _ => rfl) _ n i.sid _).trans hrec
  unfold State.deliver
  dsimp only
  generalize (s.record i).2.sealRecord n i.sid (s.record i).1 = q at hseal
  obtain ⟨b, u⟩ := q
  simp only [delivered, Prod.mk.injEq] at hseal
  obtain ⟨hhat, htime, hareas⟩ := hseal
  have hlen : n < u.core.ring.areas.length := by rw [hareas]; exact hn
  have hslot : areaAt (u.releaseSlot n) n = { areaAt s n with reserved := (areaAt s n).reserved - 1 } := by
    rw [State.releaseSlot, areaAt_modArea_self hlen, areaAt, areaAt, hareas]
  obtain ⟨hwr, hres⟩ := putRecord_area (s := u.releaseSlot n) (n := n) (by simpa [State.releaseSlot, length_updAt] using hlen) b
  exact ⟨(putRecord_hat b).1.trans hhat, (putRecord_hat b).2.trans htime, by rw [hslot] at hwr; exact hwr, by rw [hslot] at hres; exact hres⟩

end

/-! ### Torn contexts (R427) -/

theorem Deaf.reachTorn {α : Type} {F : State → α} (hF : Deaf F) (herr : ∀ s e, F { s with err := e } = F s)
    (htiers : ∀ s f, F (s.modTiers f) = F s) (hfab : ∀ s f, F (s.modFab f) = F s) (s : State) (g req : Nat) : F (s.reachTorn g req) = F s := by
  unfold State.reachTorn
  split
  · rfl
  · exact holds_ite (P := fun t => F t = F s) (hfab s _) ((hF.err1 herr _ _ _ _ _ _).trans ((htiers _ _).trans (hfab s _)))

/-- A read of a context by firmware: torn, it is reached; whole, it comes into the shelf. -/
def contextRead (s : State) (sid : Nat) : State :=
  match tornRead s sid with
  | some g => s.reachTorn g 49
  | none => (touchShelf s sid).getD s

theorem contextRead_delivered (s : State) (sid : Nat) : delivered (contextRead s sid) = delivered s := by
  unfold contextRead
  split
  · exact deaf_delivered.reachTorn (fun _ _ => rfl) (fun _ _ => rfl) (fun _ _ => rfl) s _ _
  · obtain ⟨l, hl⟩ := touchShelf_getD_eq s sid
    rw [hl]
    rfl

/-- What SESSION_QUERY leaves before its response (R75). -/
def queried (sid : Nat) (x : Session) (s : State) : State :=
  let s := s.modArea x.ctx.cfg.area (fun y => { y with reserved := y.reserved + 1 })
  (contextRead s sid).deliver x.ctx.cfg.area
    { kind := 2, status := if (tornRead s sid).isSome then 0x21 else 0, sid := sid,
      version := (contextRead s sid).core.map.version.toNat, torn := (tornRead s sid).isSome }

theorem sessionQueryBody_ok {r : Req} {s : State} {x : Session} (hfree : SessionFree s (r.u16 0) r.ctx x)
    (hroom : areaFree (areaAt s x.ctx.cfg.area) ≠ 0) (hn : x.ctx.cfg.area < s.core.ring.areas.length) :
    sessionQueryBody r s = (queried (r.u16 0) x s).place r.h 0x00
      (leBytes 4 (areaAt s x.ctx.cfg.area).wr.toNat ++ leBytes 1 (stateCode x.state)) := by
  have hx : (sessAt s (r.u16 0)).getD {} = x := by rw [hfree.1, Option.getD_some]
  have hwr : (areaAt (s.modArea x.ctx.cfg.area (fun y => { y with reserved := y.reserved + 1 })) x.ctx.cfg.area).wr =
      (areaAt s x.ctx.cfg.area).wr := by rw [areaAt_modArea_self hn]
  simp only [sessionQueryBody, hx]
  rw [guarded_pass]
  · simp only [hwr]
    rfl
  · refine List.forall_mem_append.2 ⟨sessionChecks_none hfree, ?_⟩
    simpa using hroom

theorem queried_area {s : State} {x : Session} (sid : Nat) (hn : x.ctx.cfg.area < s.core.ring.areas.length) :
    (queried sid x s).core.hat = s.core.hat ∧ (queried sid x s).core.time = s.core.time ∧
      (areaAt (queried sid x s) x.ctx.cfg.area).wr = (areaAt s x.ctx.cfg.area).wr + 1 ∧
      (areaAt (queried sid x s) x.ctx.cfg.area).reserved = (areaAt s x.ctx.cfg.area).reserved := by
  have hread := contextRead_delivered (s.modArea x.ctx.cfg.area (fun y => { y with reserved := y.reserved + 1 })) sid
  simp only [delivered, Prod.mk.injEq] at hread
  obtain ⟨hhat, htime, hareas⟩ := hread
  have harea : areaAt (contextRead (s.modArea x.ctx.cfg.area (fun y => { y with reserved := y.reserved + 1 })) sid) x.ctx.cfg.area =
      { areaAt s x.ctx.cfg.area with reserved := (areaAt s x.ctx.cfg.area).reserved + 1 } := by
    rw [areaAt, hareas]
    exact areaAt_modArea_self hn _
  obtain ⟨dhat, dtime, dwr, dres⟩ := deliver_area (s := contextRead (s.modArea x.ctx.cfg.area (fun y => { y with reserved := y.reserved + 1 })) sid)
    (n := x.ctx.cfg.area) (by rw [hareas]; simpa [length_updAt] using hn)
    { kind := 2, status := if (tornRead (s.modArea x.ctx.cfg.area (fun y => { y with reserved := y.reserved + 1 })) sid).isSome then 0x21 else 0,
      sid := sid, version := (contextRead (s.modArea x.ctx.cfg.area (fun y => { y with reserved := y.reserved + 1 })) sid).core.map.version.toNat,
      torn := (tornRead (s.modArea x.ctx.cfg.area (fun y => { y with reserved := y.reserved + 1 })) sid).isSome }
  rw [harea] at dwr dres
  exact ⟨dhat.trans hhat, dtime.trans htime, dwr, dres⟩

/-! ### Checkpoints (R47) -/

/-- A session with a checkpoint more. -/
def checkpointed (x : Session) (now : Nat) : Session :=
  { x with ckpts := setAt x.ckpts x.nextSlot (some { dt := now, ctx := x.ctx, pinned := x.pinned }), nextSlot := 1 - x.nextSlot, lastCkpt := now }

theorem sessionCheckpointBody_ok {r : Req} {s : State} {x : Session} (hfree : SessionFree s (r.u16 0) r.ctx x) :
    (tornRead s (r.u16 0) = none → sessionCheckpointBody r s =
      (((touchShelf s (r.u16 0)).getD s).checkpoint (r.u16 0)).place r.h 0x00 (leBytes 8 (dtOf s))) ∧
    (∀ g, tornRead s (r.u16 0) = some g → sessionCheckpointBody r s = (s.reachTorn g 49).place r.h 0x21) := by
  unfold sessionCheckpointBody
  refine ⟨fun hnone => ?_, fun g hg => ?_⟩
  · refine (guarded_pass (sessionChecks_none hfree) _).trans ?_
    rw [hnone]
  · refine (guarded_pass (sessionChecks_none hfree) _).trans ?_
    rw [hg]

theorem checkpoint_sess {s : State} {sid : Nat} {x : Session} (hx : sessAt s sid = some x) :
    (((touchShelf s sid).getD s).checkpoint sid).core.work.sess = NMap.set s.core.work.sess sid (checkpointed x (dtOf s)) := by
  obtain ⟨l, hl⟩ := touchShelf_getD_eq s sid
  rw [State.checkpoint, modSess_eq (x := x) (by rw [hl]; exact hx), hl]
  rfl

theorem checkpoint_rest (s : State) (sid : Nat) :
    (((touchShelf s sid).getD s).checkpoint sid).core.hat = s.core.hat ∧ (((touchShelf s sid).getD s).checkpoint sid).core.time = s.core.time ∧
      (((touchShelf s sid).getD s).checkpoint sid).out = s.out := by
  obtain ⟨l, hl⟩ := touchShelf_getD_eq s sid
  rw [hl]
  exact ⟨rfl, rfl, rfl⟩

/-- Hatches, time and sessions, which an access to a torn granule leaves alone. -/
theorem reachTorn_rest (s : State) (g req : Nat) : ((s.reachTorn g req).core.hat, (s.reachTorn g req).core.time, (s.reachTorn g req).core.work) =
    (s.core.hat, s.core.time, s.core.work) :=
  Deaf.reachTorn (F := fun s => (s.core.hat, s.core.time, s.core.work))
    ⟨fun _ _ => rfl, fun _ _ => rfl, fun _ _ _ => rfl, fun _ _ => rfl, fun _ _ _ _ _ => rfl⟩ (fun _ _ => rfl) (fun _ _ => rfl) (fun _ _ => rfl) s g req

theorem exec_sessionOpen (h : Nat) (s : State) : exec (.sessionOpen h) s = .next (serve 0x0201 h sessionOpenBody s) := rfl

/-- Settles O8: each command's own part, and what its response leaves of it. -/
theorem sessionCommandsTakeEffect : Obligations.SessionCommandsTakeEffect := by
  unfold Obligations.SessionCommandsTakeEffect
  intro s h p
  refine ⟨fun n c ht hcls harea hsid hn hc => ?opened, fun x ht hx howner hheld h0 h2 h3 h4 h5 => ?config,
    fun x data base mesh ht hx howner hheld hslot htype hbase => ?sensor, fun x ht hx howner hheld hn hroom => ?query,
    fun x ht hx howner hheld => ?checkpoint⟩
  case opened =>
    have hpick : pickSid (taken s h) (fieldAt p 0 2) = some n := (taken_unseen (pickSid · _) (fun _ _ _ _ _ _ => rfl) s h).trans hn
    have hok : fieldAt p 2 1 ≤ 3 ∧ areaSet (taken s h) (fieldAt p 5 1) = true ∧ (fieldAt p 0 2 = 0xFFFF ∨ fieldAt p 0 2 < maxSessions (taken s h)) :=
      (taken_unseen (fun u => fieldAt p 2 1 ≤ 3 ∧ areaSet u (fieldAt p 5 1) = true ∧ (fieldAt p 0 2 = 0xFFFF ∨ fieldAt p 0 2 < maxSessions u))
        (fun _ _ _ _ _ _ => rfl) s h).mpr ⟨hcls, harea, hsid⟩
    have hchan : fieldAt p 3 1 = 255 ∧ pickChannel (taken s h) = some c ∨
        fieldAt p 3 1 = c ∧ channelCheck (taken s h) c = none ∧ (chanAt (taken s h) c).mapRole = false :=
      (taken_unseen (fun u => fieldAt p 3 1 = 255 ∧ pickChannel u = some c ∨ fieldAt p 3 1 = c ∧ channelCheck u c = none ∧ (chanAt u c).mapRole = false)
        (fun _ _ _ _ _ _ => rfl) s h).mpr hc
    have hset := ((laid_of_takes ht).modWork (fun w =>
      { w with sess := NMap.set w.sess n (openedSession (reqOf s h).ctx c (dtOf s) (fieldAt p 2 1) (fieldAt p 4 1) (fieldAt p 5 1)) })).place 0x00
        (leBytes 2 n ++ leBytes 1 c) (by decide)
    have hbody := sessionOpenBody_ok (r := requestIn s h p) hok hpick hchan
    rw [(open_taken ht).dt] at hbody
    exact responds_of_takes ht hbody hset
  case config =>
    have hfits : ConfigFits (requestIn s h p) (taken s h) :=
      (taken_unseen (ConfigFits (requestIn s h p)) (fun _ _ _ _ _ _ => rfl) s h).mpr ⟨h0, h2, h3, h4, h5⟩
    obtain ⟨l, hl⟩ := touchShelf_getD_eq s (fieldAt p 0 2)
    have hset := ((laid_of_takes ht).touch (fieldAt p 0 2)).modWork (fun w =>
      { w with sess := NMap.set w.sess (fieldAt p 0 2) (configured (requestIn s h p) x) })
    rw [hl] at hset
    obtain ⟨t, hplaced, ha, hk⟩ := hset.place 0x00 (configLayout (fieldAt p 0 2) (configured (requestIn s h p) x).ctx.cfg) (by decide)
    have hwork := congrArg Core.work hk.core
    refine ⟨t, next_of_takes ht ((sessionConfigBody_ok (r := requestIn s h p) (sessionFree_taken hx howner hheld) hfits).trans
        (next_inj hplaced)),
      congrArg Work.sess hwork, configLayout (fieldAt p 0 2) (configured (requestIn s h p) x).ctx.cfg, ?_, ?_⟩
    · simp [configLayout, leBytes_length]
    · refine ⟨_, rfl, ha, ?_⟩
      rw [hwork]
      exact hk
  case sensor =>
    have hopen : (requestIn s h p).u8 3 = 3 → bulkSealed (taken s h) (requestIn s h p).ctx = false := fun h3 => by
      rcases hbase with ⟨hne, -⟩ | ⟨-, hsealed, -⟩
      · exact absurd h3 hne
      · exact (taken_unseen (bulkSealed · _) (fun _ _ _ _ _ _ => rfl) s h).trans hsealed
    have hbody := sessionSensorBody_ok (r := requestIn s h p) data (sessionFree_taken hx howner hheld) ⟨hslot, htype⟩ hopen
    rcases hbase with ⟨hne, hb, hm⟩ | ⟨heq, -, hb, hm⟩ <;> rw [hb, hm]
    · have hbody := hbody.trans (if_neg hne)
      obtain ⟨hgood, hbad⟩ := responds_calibrated (r := requestIn s h p) (laid_of_takes ht) hx []
      exact ⟨fun hok => responds_of_takes ht hbody (hgood hok), fun hno => responds_of_takes ht hbody (hbad hno)⟩
    · have hbody := hbody.trans (if_pos heq)
      obtain ⟨hgood, hbad⟩ := responds_calibrated (r := requestIn s h p)
        ((laid_of_takes ht).emit (taken_out s h) (.dmaRead (fieldAt p 0x58 8) 2048)) hx (padTo 2048 data)
      exact ⟨fun hok => responds_of_takes ht hbody (hgood hok), fun hno => responds_of_takes ht hbody (hbad hno)⟩
  case query =>
    have hareas : areaAt (taken s h) x.ctx.cfg.area = areaAt s x.ctx.cfg.area := taken_unseen (areaAt · _) (fun _ _ _ _ _ _ => rfl) s h
    have hlen : x.ctx.cfg.area < (taken s h).core.ring.areas.length := by
      rw [taken_unseen (·.core.ring.areas) (fun _ _ _ _ _ _ => rfl) s h]
      exact hn
    obtain ⟨hhat, htime, hwr, hres⟩ := queried_area (fieldAt p 0 2) hlen
    have hbody := sessionQueryBody_ok (r := requestIn s h p) (sessionFree_taken hx howner hheld) (by rw [hareas]; exact hroom) hlen
    rw [hareas] at hbody hwr hres
    refine ⟨_, next_of_takes ht hbody, ((open_taken ht).step hhat htime).answered_place 0x00 _ (by decide), ?_, ?_⟩
    · rw [areaAt, place_ring]
      exact hwr
    · rw [areaAt, place_ring]
      exact hres
  case checkpoint =>
    have hfree : SessionFree (taken s h) ((requestIn s h p).u16 0) (requestIn s h p).ctx x := sessionFree_taken hx howner hheld
    have htorn : tornRead (taken s h) (fieldAt p 0 2) = tornRead s (fieldAt p 0 2) := taken_unseen (tornRead · _) (fun _ _ _ _ _ _ => rfl) s h
    obtain ⟨hwhole, hreach⟩ := sessionCheckpointBody_ok hfree
    refine ⟨fun hnone => ?_, fun g hg => ?_⟩
    · obtain ⟨hhat, htime, -⟩ := checkpoint_rest (taken s h) (fieldAt p 0 2)
      have hbody := hwhole (htorn.trans hnone)
      rw [(open_taken ht).dt] at hbody
      refine ⟨_, next_of_takes ht hbody, ((open_taken ht).step hhat htime).answered_place 0x00 _ (by decide), ?_⟩
      rw [work_of_quiet (quiet_place _ _ _ _)]
      refine (checkpoint_sess hfree.1).trans ?_
      rw [(open_taken ht).dt, work_of_quiet (quiet_taken s h)]
      rfl
    · have hrest := reachTorn_rest (taken s h) g 49
      simp only [Prod.mk.injEq] at hrest
      obtain ⟨hhat, htime, hwork⟩ := hrest
      refine ⟨_, next_of_takes ht (hreach g (htorn.trans hg)), ((open_taken ht).step hhat htime).answered_place 0x21 [] (by decide), ?_⟩
      rw [work_of_quiet (quiet_place _ _ _ _), hwork, work_of_quiet (quiet_taken s h)]

end Sys2Proof.Machine
end

section
/-! Closes, moves and checkpoints of sessions (R47 to R49, R523), with what the end of an item leaves alone. -/
namespace Sys2Proof.Machine

theorem foldl_unseen {α β : Type} {F : State → α} {f : State → β → State} (hf : ∀ s b, F (f s b) = F s) (l : List β) (s : State) :
    F (l.foldl f s) = F s := by
  induction l generalizing s with
  | nil => rfl
  | cons b l ih => exact (ih _).trans (hf s b)

/-! ### The end of an item (R56, R57) -/

/-- F sees nothing of what the delivery of a record moves: result areas, owed flags, record counters, and the noise. -/
structure Undelivered {α : Type} (F : State → α) : Prop where
  deaf : Deaf F
  err : ∀ s e, F { s with err := e } = F s
  free : ∀ s n, F { s with free := n } = F s
  sec : ∀ (s : State) (g : NMap Tenant → NMap Tenant),
      F (s.modSec (fun c => { c with contexts := g c.contexts })) = F s
  area : ∀ s n f, F (s.modArea n f) = F s
  paid : ∀ s sid, F (s.recordDelivered sid) = F s

section Undelivered
variable {α : Type} {F : State → α} (hF : Undelivered F)
include hF

theorem Undelivered.areaIrq (s : State) (n : Nat) : F (s.areaIrq n) = F s := by
  unfold State.areaIrq
  dsimp only
  split
  · rw [hF.deaf.msi, hF.area]
  · rfl

theorem Undelivered.putRecord (s : State) (n : Nat) (b : List Byte) : F (s.putRecord n b) = F s := by
  unfold State.putRecord
  dsimp only
  rw [hF.areaIrq, hF.deaf.emit, hF.area, hF.deaf.emit]

theorem Undelivered.record (s : State) (i : RecIn) (area : Nat) (b : List Byte) : F ((s.record i).2.sealRecord area i.sid b).2 = F s := by
  rw [sealRecord_unseen hF.sec, hF.deaf.record hF.err hF.free]

theorem Undelivered.deliver (s : State) (n : Nat) (i : RecIn) : F (s.deliver n i) = F s := by
  unfold State.deliver
  dsimp only
  rw [hF.paid, hF.putRecord, State.releaseSlot, hF.area, hF.record]

end Undelivered

/-- F sees nothing of what the end of an item moves: the delivery of its record, and the items of batches but for their bytes. -/
structure Unrecorded {α : Type} (F : State → α) : Prop where
  deaf : Deaf F
  err : ∀ s e, F { s with err := e } = F s
  free : ∀ s n, F { s with free := n } = F s
  sec : ∀ (s : State) (g : NMap Tenant → NMap Tenant),
      F (s.modSec (fun c => { c with contexts := g c.contexts })) = F s
  area : ∀ s n f, F (s.modArea n f) = F s
  batch : ∀ s b i g, (∀ e : Item, (g e).bytes = e.bytes) → F (s.modBatch b (fun y => { y with items := updAt y.items i g })) = F s
  paid : ∀ s sid, F (s.recordDelivered sid) = F s

section Unrecorded
variable {α : Type} {F : State → α} (hF : Unrecorded F)
include hF

theorem Unrecorded.undelivered : Undelivered F := ⟨hF.deaf, hF.err, hF.free, hF.sec, hF.area, hF.paid⟩

theorem Unrecorded.flushItems (b : Nat) : ∀ (l : List (Nat × Item)) (before : List Item) (s : State), F (State.flushItems b l before s) = F s
  | [], _, _ => rfl
  | (i, it) :: l, before, s => by
    unfold State.flushItems
    dsimp only
    split
    · split
      · exact Unrecorded.flushItems b l _ s
      · rw [Unrecorded.flushItems b l]
        refine (hF.batch _ b i (fun e => { e with written := true }) fun _ => rfl).trans ?_
        split
        · exact hF.undelivered.deliver _ _ _
        · rfl
    · exact Unrecorded.flushItems b l _ s

theorem Unrecorded.endItem (s : State) (b i st hflags : Nat) (sat : Bool) (v : Nat) : F (s.endItem b i st hflags sat v) = F s := by
  have hbytes (e : Item) : (if e.status.isSome then e else
      { e with status := some st, hflags := hflags, saturated := sat, version := v }).bytes = e.bytes := by split <;> rfl
  unfold State.endItem
  dsimp only
  split
  · rw [hF.flushItems, hF.batch _ _ _ _ hbytes]
  · exact hF.batch _ _ _ _ hbytes

theorem Unrecorded.endOrigin (s : State) (o : Origin) (st : Nat) : F (s.endOrigin o st) = F s := by
  cases o with
  | item b i => exact hF.endItem _ _ _ _ _ _ _
  | symbol _ => rfl
  | cycleSolve _ => rfl
  | cycleTrack _ => rfl
  | mapJob _ => rfl

end Unrecorded

/-! ### One session through the end of items -/

theorem NMap.get_upd_other {α : Type} (m : NMap α) {k j : Nat} (f : α → α) (h : j ≠ k) : NMap.get? (NMap.upd m k f) j = NMap.get? m j := by
  unfold NMap.upd
  split
  · exact NMap.get_set_other m k j _ h
  · rfl

theorem NMap.get_upd_self {α : Type} (m : NMap α) (k : Nat) (f : α → α) : NMap.get? (NMap.upd m k f) k = (NMap.get? m k).map f := by
  cases h : NMap.get? m k with
  | some v => exact NMap.get_upd h f
  | none =>
    have hupd : NMap.upd m k f = m := by rw [NMap.upd, h]
    rw [hupd, h, Option.map_none]

theorem sessAt_modSess (s : State) (sid : Nat) (f : Session → Session) : sessAt (s.modSess sid f) sid = (sessAt s sid).map f :=
  NMap.get_upd_self s.core.work.sess sid f

theorem sessAt_modSess_other (s : State) {sid n : Nat} (f : Session → Session) (h : n ≠ sid) : sessAt (s.modSess sid f) n = sessAt s n :=
  NMap.get_upd_other s.core.work.sess f h

/-- What of a session no record's delivery touches. -/
theorem unrecorded_session {β : Type} (g : Session → β)
    (hg : ∀ x a b c d e, g { x with oweMoved := a, oweMode := b, oweLate := c, oweMap := d, tOut := e } = g x) (sid : Nat) :
    Unrecorded (fun s => (sessAt s sid).map g) where
  deaf := ⟨fun _ _ => rfl, fun _ _ => rfl, fun _ _ _ => rfl, fun _ _ => rfl, fun _ _ _ _ _ => rfl⟩
  err _ _ := rfl
  free _ _ := rfl
  sec _ _ := rfl
  area _ _ _ := rfl
  batch _ _ _ _ _ := rfl
  paid s n := by
    rw [State.recordDelivered]
    by_cases hn : sid = n
    · subst hn
      rw [sessAt_modSess, Option.map_map]
      congr 1
      funext x
      exact hg x false false false false _
    · rw [sessAt_modSess_other _ _ hn]

/-- Hatches, time and channels, which the end of an item leaves alone. -/
def placeAndWork (s : State) : Hatches × Time × List Chan := (s.core.hat, s.core.time, s.core.chans)

theorem unrecorded_placeAndWork : Unrecorded placeAndWork :=
  ⟨⟨fun _ _ => rfl, fun _ _ => rfl, fun _ _ _ => rfl, fun _ _ => rfl, fun _ _ _ _ _ => rfl⟩, fun _ _ => rfl, fun _ _ => rfl, fun _ _ => rfl,
    fun _ _ _ => rfl, fun _ _ _ _ _ => rfl, fun _ _ => rfl⟩

/-! ### Closing (R49) -/

theorem dropQueued_unseen {α : Type} {F : State → α} (hF : Unrecorded F) (s : State) (f : Waiting → Bool) (st : Nat) :
    F (s.dropQueued f st) = F (s.modChans (fun l => l.map (fun c => { c with queue := c.queue.filter (fun w => !f w) }))) :=
  foldl_unseen (fun s _ => hF.endOrigin s _ st) _ _

theorem beginClose_rest (s : State) (sid : Nat) : (s.beginClose sid).core.hat = s.core.hat ∧ (s.beginClose sid).core.time = s.core.time ∧
    (s.beginClose sid).core.chans = s.core.chans.map (fun c => { c with queue := c.queue.filter (fun w => !(w.sid == some sid)) }) := by
  have h := dropQueued_unseen unrecorded_placeAndWork (s.modSess sid (fun x =>
    { x with before := if x.isNormal then .normal else .provisional, state := .closing, closeAfter := false })) (fun w => w.sid == some sid) 0x11
  simp only [placeAndWork, Prod.mk.injEq] at h
  exact h

theorem beginClose_closing {s : State} {sid : Nat} {x : Session} (hx : sessAt s sid = some x) :
    ∃ y, sessAt (s.beginClose sid) sid = some y ∧ y.state = .closing := by
  have h := dropQueued_unseen (unrecorded_session Session.state (fun _ _ _ _ _ _ => rfl) sid) (s.modSess sid (fun x =>
    { x with before := if x.isNormal then .normal else .provisional, state := .closing, closeAfter := false })) (fun w => w.sid == some sid) 0x11
  have hstate : (sessAt (s.beginClose sid) sid).map Session.state = some .closing := by
    refine h.trans ?_
    change (sessAt (s.modSess sid _) sid).map Session.state = _
    rw [sessAt_modSess, hx]
    rfl
  simpa [Option.map_eq_some_iff] using hstate

theorem beginClose_queues (s : State) (sid : Nat) : ∀ c ∈ (s.beginClose sid).core.chans, ∀ w ∈ c.queue, w.sid ≠ some sid := by
  rw [(beginClose_rest s sid).2.2]
  intro c hc w hw
  obtain ⟨c', -, rfl⟩ := List.mem_map.1 hc
  simpa using (List.mem_filter.1 hw).2

/-- A hatch with a job is one of the hatches. -/
theorem open_of_job {s : State} {h : Nat} {j : Job} (hh : h < 64) (hj : jobAt s h = some j) : Open s h s := by
  refine ⟨rfl, rfl, ?_, hh⟩
  by_contra hlen
  have hnone : ctlAt s h = {} := by simp [ctlAt, List.getD, List.getElem?_eq_none (Nat.le_of_not_lt hlen)]
  simp [jobAt, hnone] at hj

/-- What the drop of symbols leaves alone. -/
theorem dropSym_unseen {α : Type} {F : State → α} (hF : Deaf F) (hscu : ∀ s m g l, F (s.modScu (fun u => { u with syms := m, gone := g, held := l })) = F s)
    (hobs : ∀ s c, F (s.modObs (fun o => { o with counters := c })) = F s) (s : State) (k reason : Nat) : F (s.dropSym k reason) = F s := by
  unfold State.dropSym
  split
  · rfl
  · rw [hF.traceRec]
    exact (hobs _ _).trans ((hobs _ _).trans (hscu s _ _ _))

/-- Hatches, time and sessions with their shelf. -/
def placeAndTable (s : State) : Hatches × Time × Work := (s.core.hat, s.core.time, s.core.work)

/-- The same with the sounding bindings. -/
def placeTableBindings (s : State) : (Hatches × Time × Work) × NMap Binding := (placeAndTable s, s.core.scu.bindings)

theorem deaf_placeTableBindings : Deaf placeTableBindings :=
  ⟨fun _ _ => rfl, fun _ _ => rfl, fun _ _ _ => rfl, fun _ _ => rfl, fun _ _ _ _ _ => rfl⟩

theorem dropAssembling_rest (s : State) (f : Nat → Bool) : placeTableBindings (s.dropAssembling f) = placeTableBindings s :=
  foldl_unseen (fun u k => dropSym_unseen deaf_placeTableBindings (fun _ _ _ _ => rfl) (fun _ _ => rfl) u k 5) _ s

theorem freeSession_rest (s : State) (sid : Nat) : (s.freeSession sid).core.hat = s.core.hat ∧ (s.freeSession sid).core.time = s.core.time ∧
    (s.freeSession sid).core.work =
      { s.core.work with sess := NMap.erase s.core.work.sess sid, shelf := s.core.work.shelf.filter (· != sid) } ∧
    (s.freeSession sid).core.scu.bindings = s.core.scu.bindings.filter (fun b => b.2.sid != sid) := by
  unfold State.freeSession
  dsimp only
  have h := dropAssembling_rest (((s.modWork (fun w => { w with sess := NMap.erase w.sess sid, shelf := w.shelf.filter (· != sid) })).modFus
    (fun f => { f with
      patches := f.patches.filter (fun p => p.2.sid != sid)
      tracks := f.tracks.map (fun p => (p.1, p.2.filter (fun t => t.client != some sid))) })).modMap
    (fun m => { m with lastOf := NMap.erase m.lastOf (16384 * s.core.sys.devid + sid) }))
    (((s.core.scu.bindings.filter (fun b => b.2.sid == sid)).map (·.1)).contains ·)
  simp only [placeTableBindings, placeAndTable, Prod.mk.injEq] at h
  obtain ⟨⟨hhat, htime, hwork⟩, hbind⟩ := h
  exact ⟨hhat, htime, hwork, congrArg (List.filter (fun b : Nat × Binding => b.2.sid != sid)) hbind⟩

/-! ### Moves (R48, R107, R523) -/

/-- The session that goes on after a move. -/
def resumed (x : Session) (ch : Nat) (st : SessState) (test : Bool) : Session :=
  let y := { x with chan := ch, state := st, moveTo := none }
  if test then y.toProvisional else y

theorem toProvisional_rest (x : Session) : x.toProvisional.moveTo = x.moveTo ∧ x.toProvisional.ctx = x.ctx ∧ x.toProvisional.chan = x.chan ∧
    x.toProvisional.oweMoved = x.oweMoved ∧ x.toProvisional.closeAfter = x.closeAfter ∧ x.toProvisional.radioQ = x.radioQ := by
  unfold Session.toProvisional
  split <;> exact ⟨rfl, rfl, rfl, rfl, rfl, rfl⟩

theorem resumed_rest (x : Session) (ch : Nat) (st : SessState) (test : Bool) : (resumed x ch st test).moveTo = none ∧
    (resumed x ch st test).ctx = x.ctx ∧ (resumed x ch st test).chan = ch ∧ (resumed x ch st test).oweMoved = x.oweMoved ∧
    (resumed x ch st test).closeAfter = x.closeAfter ∧ (resumed x ch st test).radioQ = x.radioQ := by
  unfold resumed
  dsimp only
  split
  · exact toProvisional_rest _
  · exact ⟨rfl, rfl, rfl, rfl, rfl, rfl⟩

theorem moveQueued_rest (s : State) (sid ch : Nat) : placeAndTable (s.moveQueued sid ch) = placeAndTable s :=
  foldl_unseen (F := placeAndTable) (f := fun s w => s.enqueue ch w) (fun _ _ => rfl) _ _

/-- A session of which no close waits resumes: its entry is the resumed one, hatches and time stay. -/
theorem resume_open {s : State} {sid : Nat} {x : Session} (hx : sessAt s sid = some x) (hclose : x.closeAfter = false) (ch : Nat) (st : SessState) :
    sessAt (s.resume sid ch st) sid = some (resumed x ch st ((chanAt s ch).testMode != 0)) ∧
      (s.resume sid ch st).core.hat = s.core.hat ∧ (s.resume sid ch st).core.time = s.core.time := by
  have hrest := moveQueued_rest (s.modSess sid (fun x => resumed x ch st ((chanAt s ch).testMode != 0))) sid ch
  simp only [placeAndTable, Prod.mk.injEq] at hrest
  obtain ⟨hhat, htime, hwork⟩ := hrest
  have hsess : sessAt ((s.modSess sid (fun x => resumed x ch st ((chanAt s ch).testMode != 0))).moveQueued sid ch) sid =
      some (resumed x ch st ((chanAt s ch).testMode != 0)) := by
    rw [sessAt, hwork]
    exact (sessAt_modSess s sid _).trans (by rw [hx]; rfl)
  have hstay : s.resume sid ch st = (s.modSess sid (fun x => resumed x ch st ((chanAt s ch).testMode != 0))).moveQueued sid ch := by
    unfold State.resume
    change (match sessAt ((s.modSess sid (fun x => resumed x ch st ((chanAt s ch).testMode != 0))).moveQueued sid ch) sid with
      | some x => if x.closeAfter then State.beginClose _ sid else _
      | none => _) = _
    rw [hsess]
    exact if_neg (by rw [(resumed_rest x ch st _).2.2.2.2.1, hclose]; decide)
  rw [hstay]
  exact ⟨hsess, hhat, htime⟩

/-- The session that goes on from its checkpoint after a failure move (R523). -/
def failureRestored (x : Session) : Session := { x.restored with radioQ := [], reloc := false, lastImage := [] }

theorem failureRestored_rest (x : Session) : (failureRestored x).oweMoved = true ∧ (failureRestored x).exitCount = 0 ∧
    (failureRestored x).radioQ = [] ∧ (failureRestored x).closeAfter = x.closeAfter ∧
    (∀ k, latestCkpt x = some k → (failureRestored x).ctx = { k.ctx with
      late := x.ctx.late, discarded := x.ctx.discarded, thinned := x.ctx.thinned, lateDiscard := x.ctx.lateDiscard }) := by
  refine ⟨rfl, rfl, rfl, rfl, fun k hk => ?_⟩
  rw [failureRestored, Session.restored, hk]

theorem resumed_provisional (x : Session) (ch : Nat) (test : Bool) : (resumed x ch .provisional test).state = .provisional ∧
    (x.exitCount = 0 → (resumed x ch .provisional test).exitCount = 0) := by
  unfold resumed Session.toProvisional
  cases test <;> simp

theorem foldl_place_work (hs : List Nat) (st : Nat) (s : State) : (hs.foldl (fun s h => s.place h st) s).core.work = s.core.work :=
  foldl_unseen (F := fun s => s.core.work) (f := fun s h => s.place h st) (fun _ _ => work_of_quiet (quiet_place _ _ _ _)) hs s

theorem failureMoved_sess {s : State} {sid d : Nat} {x : Session} (hx : sessAt s sid = some x) (hclose : x.closeAfter = false) :
    ∃ test, sessAt (s.failureMoved sid d) sid = some (resumed (failureRestored x)
      (if (ordinaryChans s).contains d then d else (fewestSessions s (ordinaryChans s)).getD d) .provisional test) := by
  unfold State.failureMoved
  dsimp only
  generalize (if (ordinaryChans s).contains d = true then d else (fewestSessions s (ordinaryChans s)).getD d) = c
  rw [sessAt, foldl_place_work]
  have hset : sessAt (s.modSess sid (fun y => failureRestored y)) sid = some (failureRestored x) := by rw [sessAt_modSess, hx]; rfl
  refine ⟨_, (resume_open ?_ ((failureRestored_rest x).2.2.2.1.trans hclose) c .provisional).1⟩
  change sessAt (match tornContext (s.modSess sid (fun y => failureRestored y)) sid with | some g => _ | none => _) sid = _
  split
  · exact hset
  · exact hset

theorem hatchesWith_nil {s : State} {f : Job → Bool} (h : ∀ g j, g < 64 → jobAt s g = some j → f j = false) : hatchesWith s f = [] := by
  refine List.filter_eq_nil_iff.2 fun g hg => ?_
  have hg := List.mem_range.1 hg
  split
  · rename_i j hj
    simp [h g j hg hj]
  · simp

/-- A move for the map role, not asked for by a command, whose target is ordinary still ends as one asked for does (R22, R48). -/
theorem roleMoved_ready {s : State} {sid c : Nat} (before : SessState) (hidle : sessInsts s sid = [])
    (hasked : ∀ g d, g < 64 → jobAt s g ≠ some (.sessionMove sid d)) (hc : c ∈ ordinaryChans s) :
    s.roleMoved sid c before = (s.modSess sid (fun y => { y with oweMoved := true })).resume sid c before := by
  unfold State.roleMoved
  dsimp only
  rw [hatchesWith_nil, hidle]
  · simp [hc]
  · intro g j hg hj
    split
    · rename_i n d
      refine beq_false_of_ne fun hn => hasked g d hg ?_
      rw [hj, hn]
    · rfl

/-! ### The statement -/

theorem accepts_of_takes {s : State} {h op : Nat} {p : List Byte} {body : Req → State → State} (ht : takes s h op p = true) {t : State}
    (hb : body (requestIn s h p) (taken s h) = t) {j : Job} {c : Core} {u : State} (ha : Accepts u h j c (.next t)) :
    Accepts u h j c (.next (serve op h body s)) := by
  rwa [next_of_takes ht hb]

theorem sessionCloseBody_idle {r : Req} {s : State} {x : Session} (hfree : SessionFree s (r.u16 0) r.ctx x) (hm : x.state ≠ .moving)
    (hc : x.state ≠ .closing) : sessionCloseBody r s = (s.beginClose (r.u16 0)).accept r.h (.sessionClose (r.u16 0)) := by
  obtain ⟨hx, howner, hheld⟩ := hfree
  unfold sessionCloseBody
  simp only [hx, Option.getD_some]
  rw [guarded_pass (by simp [howner, hheld, hm, hc])]
  simp [hm]

theorem sessionCloseBody_moving {r : Req} {s : State} {x : Session} (hx : sessAt s (r.u16 0) = some x) (howner : x.owner = r.ctx)
    (hm : x.state = .moving) (hc : x.closeAfter = false) :
    sessionCloseBody r s = (s.modSess (r.u16 0) (fun y => { y with closeAfter := true })).accept r.h (.sessionClose (r.u16 0)) := by
  unfold sessionCloseBody
  simp only [hx, Option.getD_some]
  rw [guarded_pass (by simp [howner, hm, hc])]
  simp [hm, hc]

theorem sessionMoveBody_ok {r : Req} {s : State} {x : Session} (hfree : SessionFree s (r.u16 0) r.ctx x) (hm : x.state ≠ .moving)
    (hc : x.state ≠ .closing) (hchan : channelCheck s (r.u8 2) = none ∧ (chanAt s (r.u8 2)).mapRole = false) :
    sessionMoveBody r s = if x.chan = r.u8 2 then s.place r.h 0x00 else
      (s.modSess (r.u16 0) (fun y => { y with before := y.state, state := .moving, moveTo := some (r.u8 2, false) })).accept r.h
        (.sessionMove (r.u16 0) (r.u8 2)) := by
  have hchecks := sessionChecks_none hfree
  obtain ⟨hx, -, -⟩ := hfree
  unfold sessionMoveBody
  simp only [hx, Option.getD_some]
  rw [guarded_pass]
  · simp
  · simp only [List.forall_mem_append]
    exact ⟨⟨by simp [hchan.1], hchecks⟩, by simp [hchan.2, hm, hc]⟩

theorem sessionCloseDone_ready {s : State} {h sid : Nat} (hj : jobAt s h = some (.sessionClose sid)) (hr : closeReady s sid = true) :
    exec (.sessionCloseDone h) s = .next ((s.freeSession sid).place h 0x00) := by
  change execSessionCloseDone h s = _
  simp [execSessionCloseDone, hj, hr]

theorem sessionMoveDone_ready {s : State} {h sid c : Nat} {x : Session} (hj : jobAt s h = some (.sessionMove sid c)) (hx : sessAt s sid = some x)
    (hto : x.moveTo = some (c, false)) (hidle : sessInsts s sid = []) :
    exec (.sessionMoveDone h) s = .next (if (ordinaryChans s).contains c then
        ((s.modSess sid (fun y => { y with oweMoved := true })).resume sid c x.before).place h 0x00
      else (s.resume sid x.chan x.before).place h 0x3F) := by
  change execSessionMoveDone h s = _
  simp [execSessionMoveDone, hj, hx, hto, hidle]

theorem checkpointTimer_live {s : State} {sid : Nat} {x : Session} (hx : sessAt s sid = some x) (hlive : x.state = .provisional ∨ x.state = .normal) :
    (tornRead s sid = none → exec (.checkpointTimer sid) s = .next (((touchShelf s sid).getD s).checkpoint sid)) ∧
      ∀ g, tornRead s sid = some g → exec (.checkpointTimer sid) s = .next (s.reachTorn g 49) := by
  have hlive' : (x.state == .provisional || x.state == .normal) = true := by simpa using hlive
  refine ⟨fun hnone => ?_, fun g hg => ?_⟩
  · change execCheckpointTimer sid s = _
    simp [execCheckpointTimer, hx, hlive', hnone]
  · change execCheckpointTimer sid s = _
    simp [execCheckpointTimer, hx, hlive', hg]

/-- Settles O9: closes and moves as they are taken and as they end, and the timer of checkpoints. -/
theorem closesMovesAndCheckpoints : Obligations.ClosesMovesAndCheckpoints := by
  unfold Obligations.ClosesMovesAndCheckpoints
  intro s h p
  refine ⟨fun x ht hx howner hm hc hheld => ?close, fun x ht hx howner hm hc => ?late, fun sid hh hj hr => ?closed,
    fun x ht hx howner hm hc hheld hchan hmap => ?move, fun sid c x hh hj hx hto hidle hclose => ?moved,
    fun sid c x hx hto hclose => ?failed, fun sid c x hx hto hclose hidle hasked hc => ?role, fun sid x hx hlive => ?timer⟩
  case close =>
    have hfree : SessionFree (taken s h) (fieldAt p 0 2) (reqOf s h).ctx x := sessionFree_taken hx howner hheld
    obtain ⟨hhat, htime, -⟩ := beginClose_rest (taken s h) (fieldAt p 0 2)
    obtain ⟨y, hy, hclosing⟩ := beginClose_closing hfree.1
    obtain ⟨ha, hjob, -⟩ := ((open_taken ht).step hhat htime).answered_accept (.sessionClose (fieldAt p 0 2))
    have hquiet := quiet_accept ((taken s h).beginClose (fieldAt p 0 2)) h (.sessionClose (fieldAt p 0 2))
    refine ⟨((taken s h).beginClose (fieldAt p 0 2)).accept h (.sessionClose (fieldAt p 0 2)), y,
      next_of_takes ht (sessionCloseBody_idle (r := requestIn s h p) hfree hm hc), ha, hjob, ?_, hclosing, ?_⟩
    · rw [sessAt, work_of_quiet hquiet]
      exact hy
    · rw [chans_of_quiet hquiet]
      exact beginClose_queues _ _
  case late =>
    have hset := ((laid_of_takes ht).modSess (sid := fieldAt p 0 2) hx (fun y => { y with closeAfter := true })).accept (.sessionClose (fieldAt p 0 2))
    have hx' : sessAt (taken s h) (fieldAt p 0 2) = some x := (taken_unseen (sessAt · _) (fun _ _ _ _ _ _ => rfl) s h).trans hx
    exact accepts_of_takes ht (sessionCloseBody_moving (r := requestIn s h p) hx' howner hm hc) hset
  case closed =>
    obtain ⟨hhat, htime, hwork, hbind⟩ := freeSession_rest s sid
    have hquiet := quiet_place (s.freeSession sid) h 0x00 []
    refine ⟨_, sessionCloseDone_ready hj hr, ((open_of_job hh hj).step hhat htime).answered_place 0x00 [] (by decide), ?_, ?_, ?_⟩
    · rw [work_of_quiet hquiet, hwork]
    · rw [work_of_quiet hquiet, hwork]
    · rw [← hbind]
      exact congrArg (·.scu.bindings) hquiet
  case move =>
    have hfree : SessionFree (taken s h) (fieldAt p 0 2) (reqOf s h).ctx x := sessionFree_taken hx howner hheld
    have hto : channelCheck (taken s h) (fieldAt p 2 1) = none ∧ (chanAt (taken s h) (fieldAt p 2 1)).mapRole = false :=
      (taken_unseen (fun u => channelCheck u (fieldAt p 2 1) = none ∧ (chanAt u (fieldAt p 2 1)).mapRole = false) (fun _ _ _ _ _ _ => rfl) s h).mpr
        ⟨hchan, hmap⟩
    have hbody := sessionMoveBody_ok (r := requestIn s h p) hfree hm hc hto
    refine ⟨fun hne => ?_, fun heq => ?_⟩
    · have hset := ((laid_of_takes ht).modSess (sid := fieldAt p 0 2) hx (fun y =>
        { y with before := y.state, state := .moving, moveTo := some (fieldAt p 2 1, false) })).accept (.sessionMove (fieldAt p 0 2) (fieldAt p 2 1))
      exact accepts_of_takes ht (hbody.trans (if_neg hne)) hset
    · exact responds_of_takes ht (hbody.trans (if_pos heq)) ((laid_of_takes ht).place 0x00 [] (by decide))
  case moved =>
    have opened := open_of_job hh hj
    rw [sessionMoveDone_ready hj hx hto hidle]
    by_cases hc : c ∈ ordinaryChans s
    · have hset : sessAt (s.modSess sid (fun y => { y with oweMoved := true })) sid = some { x with oweMoved := true } := by rw [sessAt_modSess, hx]; rfl
      obtain ⟨hy, hhat, htime⟩ := resume_open hset hclose c x.before
      obtain ⟨hmove, hctx, hch, howe, -, -⟩ := resumed_rest { x with oweMoved := true } c x.before
        ((chanAt (s.modSess sid (fun y => { y with oweMoved := true })) c).testMode != 0)
      rw [if_pos (by simpa using hc)]
      refine ⟨_, _, rfl, ?_, hmove, hctx, fun _ => ⟨(opened.step hhat htime).answered_place 0x00 [] (by decide), hch, howe, fun htest => ?_⟩,
        fun hno => absurd hc hno⟩
      · rw [sessAt, work_of_quiet (quiet_place _ _ _ _)]
        exact hy
      · have hplain : ((chanAt (s.modSess sid (fun y => { y with oweMoved := true })) c).testMode != 0) = false :=
          bne_eq_false_iff_eq.2 htest
        rw [hplain]
        rfl
    · obtain ⟨hy, hhat, htime⟩ := resume_open hx hclose x.chan x.before
      obtain ⟨hmove, hctx, hch, -, -, -⟩ := resumed_rest x x.chan x.before ((chanAt s x.chan).testMode != 0)
      rw [if_neg (by simpa using hc)]
      refine ⟨_, _, rfl, ?_, hmove, hctx, fun hyes => absurd hyes hc, fun _ => ⟨(opened.step hhat htime).answered_place 0x3F [] (by decide), hch⟩⟩
      rw [sessAt, work_of_quiet (quiet_place _ _ _ _)]
      exact hy
  case failed =>
    obtain ⟨test, hy⟩ := failureMoved_sess (s := s) (d := c) hx hclose
    obtain ⟨hmove, hctx, hch, howe, -, hradio⟩ := resumed_rest (failureRestored x)
      (if (ordinaryChans s).contains c then c else (fewestSessions s (ordinaryChans s)).getD c) .provisional test
    obtain ⟨hstate, hexit⟩ := resumed_provisional (failureRestored x)
      (if (ordinaryChans s).contains c then c else (fewestSessions s (ordinaryChans s)).getD c) test
    obtain ⟨rowe, rexit, rradio, -, rctx⟩ := failureRestored_rest x
    have hstep : exec (.failureMoveDone sid) s = .next (s.failureMoved sid c) := by
      change execFailureMoveDone sid s = _
      simp [execFailureMoveDone, hx, hto]
    refine ⟨_, _, hstep, hy, ?_, hstate, hmove, howe.trans rowe, hexit rexit, hradio.trans rradio, fun k hk => hctx.trans (rctx k hk)⟩
    rw [hch]
    simp
  case role =>
    have hset : sessAt (s.modSess sid (fun y => { y with oweMoved := true })) sid = some { x with oweMoved := true } := by rw [sessAt_modSess, hx]; rfl
    obtain ⟨hy, -, -⟩ := resume_open hset hclose c x.before
    obtain ⟨hmove, hctx, hch, howe, -, -⟩ := resumed_rest { x with oweMoved := true } c x.before
      ((chanAt (s.modSess sid (fun y => { y with oweMoved := true })) c).testMode != 0)
    have hstep : exec (.failureMoveDone sid) s = .next ((s.modSess sid (fun y => { y with oweMoved := true })).resume sid c x.before) := by
      change execFailureMoveDone sid s = _
      simp [execFailureMoveDone, hx, hto, roleMoved_ready x.before hidle hasked hc]
    exact ⟨_, _, hstep, hy, hch, hmove, hctx, howe⟩
  case timer =>
    obtain ⟨hwhole, htorn⟩ := checkpointTimer_live hx hlive
    refine ⟨fun hnone => ?_, fun g hg => ?_⟩
    · obtain ⟨hhat, -, hout⟩ := checkpoint_rest s sid
      exact ⟨_, hwhole hnone, hhat, hout, checkpoint_sess hx⟩
    · have hrest := reachTorn_rest s g 49
      simp only [Prod.mk.injEq] at hrest
      obtain ⟨hhat, -, hwork⟩ := hrest
      exact ⟨_, htorn g hg, hhat, by rw [hwork]⟩

end Sys2Proof.Machine
end

section
/-! The 0x03xx commands and streams (R50, R54 to R60, R110, R111): batches taken and completed, areas set, ring counts and timers. -/
namespace Sys2Proof.Machine

/-! ### Streams (R50) -/

theorem streamBindBody_ok {r : Req} {s : State}
    (hargs : r.u8 0 < maxStreams s ∧ 1 ≤ r.u8 1 ∧ r.u8 1 ≤ 6 ∧ r.u8 2 ≤ 63 ∧ r.u16 4 ≤ 1000)
    (hfree : NMap.has s.core.work.streams (r.u8 0) = false ∧ held s (.graph (r.u8 2)) = false) (hgraph : residentAll s (r.u8 2) (r.u8 1) = true) :
    streamBindBody r s = (s.modWork (fun w =>
      { w with streams := NMap.set w.streams (r.u8 0) { kind := r.u8 1, graph := r.u8 2, deadlineMs := if r.u16 4 = 0 then 50 else r.u16 4 } })).place r.h 0x00 := by
  obtain ⟨hid, hk1, hk6, hg, hms⟩ := hargs
  unfold streamBindBody
  dsimp only
  rw [guarded_pass (by simp [hid, hk1, hk6, hg, hms, hfree.1, hfree.2, hgraph])]
  simp

theorem streamUnbindBody_ok {r : Req} {s : State} (hid : r.u8 0 < maxStreams s)
    (hidle : NMap.has s.core.work.streams (r.u8 0) = false ∨
      ∀ b ∈ s.core.work.batches, ∀ i ∈ b.2.items, i.stream = r.u8 0 → i.status ≠ none) :
    streamUnbindBody r s = (s.modWork (fun w => { w with streams := NMap.erase w.streams (r.u8 0) })).place r.h 0x00 := by
  unfold streamUnbindBody
  dsimp only
  have hok : (!NMap.has s.core.work.streams (r.u8 0) ||
      !s.core.work.batches.any (fun b => b.2.items.any (fun i => i.stream == r.u8 0 && i.status.isNone))) = true := by
    rcases hidle with hnone | hended
    · simp [hnone]
    · rw [Bool.or_eq_true]
      right
      simpa using hended
  rw [guarded_pass (by simpa [hid] using hok)]

/-! ### Batches (R54 to R57) -/

/-- What of a batch stays from its acceptance on. -/
def Batch.terms (y : Batch) : List (List Byte) × Nat × Nat × Nat := (y.items.map (·.bytes), y.cookie, y.area, y.hatch)

theorem map_updAt_same {α β : Type} {g : α → α} {f : α → β} (h : ∀ a, f (g a) = f a) (l : List α) (i : Nat) : (updAt l i g).map f = l.map f := by
  refine List.ext_getElem? fun j => ?_
  rw [updAt, List.getElem?_map, List.getElem?_map, List.getElem?_modify]
  cases l[j]? with
  | none => rfl
  | some a => by_cases hj : i = j <;> simp [hj, h]

theorem batchAt_modBatch (s : State) (b : Nat) (f : Batch → Batch) : batchAt (s.modBatch b f) b = (batchAt s b).map f :=
  NMap.get_upd_self s.core.work.batches b f

theorem unrecorded_terms (b : Nat) : Unrecorded (fun s => (batchAt s b).map Batch.terms) where
  deaf := ⟨fun _ _ => rfl, fun _ _ => rfl, fun _ _ _ => rfl, fun _ _ => rfl, fun _ _ _ _ _ => rfl⟩
  err _ _ := rfl
  free _ _ := rfl
  sec _ _ := rfl
  area _ _ _ := rfl
  paid _ _ := rfl
  batch s n i g hg := by
    by_cases hn : b = n
    · subst hn
      rw [batchAt_modBatch, Option.map_map]
      congr 1
      funext y
      simp [Batch.terms, map_updAt_same hg]
    · exact congrArg _ (NMap.get_upd_other s.core.work.batches _ hn)

/-- The entry of items into queues moves what their ends move, the queues and the counters. -/
theorem enterItems_unseen {α : Type} {F : State → α} (hF : Unrecorded F) (hchans : ∀ s f, F (s.modChans f) = F s)
    (hobs : ∀ s f, F (s.modObs f) = F s) (b dl : Nat) : ∀ (l : List (Nat × Item)) (s : State), F (State.enterItems b dl l s) = F s
  | [], _ => rfl
  | (i, it) :: l, s => by
    unfold State.enterItems
    dsimp only
    split
    · rfl
    · rw [enterItems_unseen hF hchans hobs b dl l]
      split
      · exact hF.endItem _ _ _ _ _ _ _
      · exact holds_ite (P := fun t => F t = F s) ((hF.endItem _ _ _ _ _ _ _).trans (hobs _ _)) (hchans _ _)

theorem unrecorded_hat : Unrecorded (fun s => s.core.hat) :=
  ⟨deaf_hat, fun _ _ => rfl, fun _ _ => rfl, fun _ _ => rfl, fun _ _ _ => rfl, fun _ _ _ _ _ => rfl, fun _ _ => rfl⟩

theorem unrecorded_nextBatch : Unrecorded (fun s => s.core.work.nextBatch) :=
  ⟨⟨fun _ _ => rfl, fun _ _ => rfl, fun _ _ _ => rfl, fun _ _ => rfl, fun _ _ _ _ _ => rfl⟩, fun _ _ => rfl, fun _ _ => rfl, fun _ _ => rfl,
    fun _ _ _ => rfl, fun _ _ _ _ _ => rfl, fun _ _ => rfl⟩

/-- A batch in the table, its area with slots reserved for it. -/
def batchReserved (r : Req) (items : List Item) (s : State) : State :=
  (s.modArea (r.u8 10) (fun x => { x with reserved := x.reserved + (items.filter (·.wanted)).length })).modWork (fun w =>
    { w with
      batches := NMap.set w.batches s.core.work.nextBatch
        { hatch := r.h, ctx := r.ctx, area := r.u8 10, flags := r.u8 11, cookie := r.u32 12, deadline := r.u64 16, reqCtr := reqCounter s r.h,
          items := items }
      nextBatch := s.core.work.nextBatch + 1 })

/-- A batch as its items are entered: its hatch says ACCEPTED. -/
def batchTaken (r : Req) (items : List Item) (s : State) : State := (batchReserved r items s).accept r.h (.batch s.core.work.nextBatch)

/-- The items of an open batch. -/
def plainItems (n : Nat) (data : List Byte) : List Item := (records 32 (padTo (32 * n) data)).map (fun b => { bytes := b })

theorem batchSubmitBody_ok {r : Req} {s : State} (data : List Byte)
    (hargs : r.u64 0 % 32 = 0 ∧ 1 ≤ r.u16 8 ∧ r.u16 8 ≤ 1024) (harea : areaSet s (r.u8 10) = true) (hopen : bulkSealed s r.ctx = false) :
    batchSubmitBody (.ok data) r s =
      if ((plainItems (r.u16 8) data).filter (·.wanted)).length ≤ areaFree (areaAt s (r.u8 10)) then
        State.enterItems s.core.work.nextBatch (r.u64 16) ((plainItems (r.u16 8) data).zipIdx.map (fun p => (p.2, p.1)))
          (batchTaken r (plainItems (r.u16 8) data) (s.emit (.dmaRead (r.u64 0) (32 * r.u16 8))))
      else (s.emit (.dmaRead (r.u64 0) (32 * r.u16 8))).place r.h 0x13 := by
  obtain ⟨halign, hlow, hhigh⟩ := hargs
  unfold batchSubmitBody
  dsimp only
  rw [guarded_pass (by simp [halign, hlow, hhigh, harea])]
  have hitems : itemsOf (s.emit (.dmaRead (r.u64 0) (32 * r.u16 8))) r (r.u16 8) (padTo (32 * r.u16 8) data) = plainItems (r.u16 8) data := by
    have hread : bulkSealed (s.emit (.dmaRead (r.u64 0) (32 * r.u16 8))) r.ctx = false := hopen
    rw [itemsOf, hread, padTo_padTo]
    rfl
  have hgood : ((plainItems (r.u16 8) data).any (fun i => i.status.isSome)) = false := by simp [plainItems]
  simp only [State.withDma, hostLen, hopen, Bool.false_eq_true, if_false, hitems, hgood, guarded_need, decide_eq_true_eq]
  rfl

/-- Of a batch taken, its queue entries apart: its terms, the count of batches, and the hatch with its job. -/
theorem batchAt_batchTaken (r : Req) (items : List Item) (s : State) : batchAt (batchTaken r items s) s.core.work.nextBatch =
    some { hatch := r.h, ctx := r.ctx, area := r.u8 10, flags := r.u8 11, cookie := r.u32 12, deadline := r.u64 16, reqCtr := reqCounter s r.h,
           items := items } := by
  rw [batchAt, batchTaken, work_of_quiet (quiet_accept _ _ _)]
  exact NMap.get_set _ _ _

theorem nextBatch_batchTaken (r : Req) (items : List Item) (s : State) :
    (batchTaken r items s).core.work.nextBatch = s.core.work.nextBatch + 1 := by
  rw [batchTaken, work_of_quiet (quiet_accept _ _ _)]
  rfl

theorem le_foldl_max : ∀ (l : List Nat) (a : Nat), a ≤ l.foldl max a ∧ ∀ c ∈ l, c ≤ l.foldl max a
  | [], _ => by simp
  | b :: l, a => by
    obtain ⟨ha, hl⟩ := le_foldl_max l (max a b)
    exact ⟨(le_max_left a b).trans ha, List.forall_mem_cons.2 ⟨(le_max_right a b).trans ha, hl⟩⟩

theorem foldl_max_mem : ∀ (l : List Nat) (a : Nat), l.foldl max a = a ∨ l.foldl max a ∈ l
  | [], _ => .inl rfl
  | b :: l, a => by
    rw [List.foldl_cons]
    rcases foldl_max_mem l (max a b) with h | h
    · rw [h]
      rcases max_choice a b with hm | hm <;> simp [hm]
    · exact .inr (List.mem_cons_of_mem _ h)

theorem batchStatus_code (y : Batch) : batchStatus y = 0 ∨ 0x20 ≤ batchStatus y ∧ ∃ i ∈ y.items, i.status = some (batchStatus y) := by
  rcases foldl_max_mem ((batchStatuses y).filter (fun c => decide (0x20 ≤ c))) 0 with h | h
  · exact .inl h
  · right
    obtain ⟨hmem, hcode⟩ := List.mem_filter.1 h
    exact ⟨of_decide_eq_true hcode, List.mem_filterMap.1 hmem⟩

theorem batchStatus_ne_accepted (y : Batch) : batchStatus y ≠ 0x01 := by
  rcases batchStatus_code y with h | ⟨h, -⟩ <;> omega

theorem batchComplete_ended {s : State} {h b : Nat} {y : Batch} (hj : jobAt s h = some (.batch b)) (hy : batchAt s b = some y)
    (hall : ∀ i ∈ y.items, i.written = true) :
    exec (.batchComplete h) s = .next ((s.modWork (fun w => { w with batches := NMap.erase w.batches b })).placeWith h (batchStatus y)
      (batchCounts y) false (bit y.flags 0)) := by
  have hwritten : y.items.all (·.written) = true := by simpa using hall
  change execBatchComplete h s = _
  simp [execBatchComplete, hj, hy, hwritten]

/-! ### Result areas (R111) -/

/-- An area as RESULT_AREA_SET leaves it. -/
def areaOfRequest (r : Req) : Area :=
  if r.u32 4 = 0 then {} else { base := r.u64 8, size := r.u32 4, vector := r.u8 1, coalN := r.u16 2, coalUs := r.u32 16 }

theorem resultAreaSetBody_ok {r : Req} {s : State} (ha : r.u8 0 < 16 ∧ (r.u8 1 ≤ 63 ∨ r.u8 1 = 255)) (hres : (areaAt s (r.u8 0)).reserved = 0)
    (hargs : r.u32 4 ≠ 0 ∧ 1 ≤ r.u16 2 ∧ r.u16 2 ≤ 1024 ∧ ringSize 256 1048576 (r.u32 4) = true ∧ r.u64 8 % 4096 = 0 ∧ 1 ≤ r.u32 16 ∧
        r.u32 16 ≤ 10000 ∨
      r.u32 4 = 0 ∧ ∀ e ∈ s.core.work.sess, e.2.ctx.cfg.area ≠ r.u8 0) :
    resultAreaSetBody r s = (if r.u32 4 = 0 then s.modArea (r.u8 0) (fun _ => areaOfRequest r)
      else (s.modArea (r.u8 0) (fun _ => areaOfRequest r)).emit (.dmaWrite (r.u64 8) (leBytes 4 0))).place r.h 0x00 := by
  obtain ⟨hlow, hvec⟩ := ha
  have hvec' : (decide (r.u8 1 ≤ 63) || r.u8 1 == 255) = true := by simpa using hvec
  unfold resultAreaSetBody
  dsimp only
  rcases hargs with ⟨hsize, hn1, hn2, hring, halign, hu1, hu2⟩ | ⟨hsize, hfree⟩
  · rw [guarded_pass (by simp [hlow, hvec', hres, hsize, hn1, hn2, hring, halign, hu1, hu2])]
    simp [hsize, areaOfRequest]
  · have hunused : s.core.work.sess.any (fun p => p.2.ctx.cfg.area == r.u8 0) = false := by simpa using hfree
    rw [guarded_pass (by simp [hlow, hvec', hres, hsize, hunused])]
    simp [hsize, areaOfRequest]

/-- A batch whose items have been entered: the hatch says ACCEPTED, and the batch is in the table with its terms. -/
theorem entered_batch {s u : State} {r : Req} (o : Open s r.h u) (items : List Item) (b dl : Nat) (l : List (Nat × Item))
    (hb : u.core.work.nextBatch = b) :
    ∃ y, Answered s r.h 0x01 [] (State.enterItems b dl l (batchTaken r items u)) ∧
      jobAt (State.enterItems b dl l (batchTaken r items u)) r.h = some (.batch b) ∧
      (State.enterItems b dl l (batchTaken r items u)).core.work.nextBatch = b + 1 ∧
      batchAt (State.enterItems b dl l (batchTaken r items u)) b = some y ∧
      y.items.map (·.bytes) = items.map (·.bytes) ∧ y.cookie = r.u32 12 ∧ y.area = r.u8 10 ∧ y.hatch = r.h := by
  subst hb
  have hunseen {α : Type} {F : State → α} (hF : Unrecorded F) (hchans : ∀ s f, F (s.modChans f) = F s) (hobs : ∀ s f, F (s.modObs f) = F s) :=
    enterItems_unseen hF hchans hobs u.core.work.nextBatch dl l (batchTaken r items u)
  have hterms := hunseen (unrecorded_terms u.core.work.nextBatch) (fun _ _ => rfl) (fun _ _ => rfl)
  have hhat := hunseen unrecorded_hat (fun _ _ => rfl) (fun _ _ => rfl)
  have hcount := hunseen unrecorded_nextBatch (fun _ _ => rfl) (fun _ _ => rfl)
  rw [batchAt_batchTaken r items u, Option.map_some, Option.map_eq_some_iff] at hterms
  obtain ⟨y, hy, hkept⟩ := hterms
  simp only [Batch.terms, Prod.mk.injEq] at hkept
  obtain ⟨hbytes, hcookie, harea, hhatch⟩ := hkept
  obtain ⟨ha, hjob, -⟩ := (o.step (v := batchReserved r items u) rfl rfl).answered_accept (.batch u.core.work.nextBatch)
  exact ⟨y, ha.of_hat hhat, (congrArg (fun a : Hatches => (a.ctl.getD r.h {}).job) hhat).trans hjob,
    hcount.trans (nextBatch_batchTaken r items u), hy, hbytes, hcookie, harea, hhatch⟩

/-- An area set in a state that has sent out as much as s. -/
theorem responds_areaSet {s u : State} {r : Req} (l : Laid s r.h s.core u) (hout : u.out = s.out) :
    Responds (if r.u32 4 = 0 then s else s.emit (.dmaWrite (r.u64 8) (leBytes 4 0))) r.h 0x00 []
      (s.core.withArea (r.u8 0) (areaOfRequest r))
      (.next ((if r.u32 4 = 0 then u.modArea (r.u8 0) (fun _ => areaOfRequest r)
        else (u.modArea (r.u8 0) (fun _ => areaOfRequest r)).emit (.dmaWrite (r.u64 8) (leBytes 4 0))).place r.h 0x00)) := by
  have hset := l.modRing (fun g => { g with areas := updAt g.areas (r.u8 0) (fun _ => areaOfRequest r) })
  split
  · exact hset.place 0x00 [] (by decide)
  · exact (hset.emit hout _).place 0x00 [] (by decide)

/-- Settles O10: each command's own part, and what the entry of items and the response leave of it. -/
theorem streamsBatchesAndAreas : Obligations.StreamsBatchesAndAreas := by
  unfold Obligations.StreamsBatchesAndAreas
  intro s h p
  refine ⟨fun ht hid hk1 hk6 hg hms hnew hheld hres => ?bind, fun ht hid hidle => ?unbind, fun data ht halign hlow hhigh harea hopen => ?submit,
    fun b y hh hj hy hall => ?complete, fun ht ha hv hres hargs => ?area⟩
  case bind =>
    have hargs : fieldAt p 0 1 < maxStreams (taken s h) ∧ 1 ≤ fieldAt p 1 1 ∧ fieldAt p 1 1 ≤ 6 ∧ fieldAt p 2 1 ≤ 63 ∧ fieldAt p 4 2 ≤ 1000 :=
      ⟨(taken_unseen maxStreams (fun _ _ _ _ _ _ => rfl) s h).symm ▸ hid, hk1, hk6, hg, hms⟩
    have hnew' : NMap.has (taken s h).core.work.streams (fieldAt p 0 1) = false := by rw [work_of_quiet (quiet_taken s h)]; exact hnew
    have hgraph : residentAll (taken s h) (fieldAt p 2 1) (fieldAt p 1 1) = true :=
      (taken_unseen (residentAll · _ _) (fun _ _ _ _ _ _ => rfl) s h).trans hres
    exact responds_of_takes ht (streamBindBody_ok (r := requestIn s h p) hargs ⟨hnew', hheld⟩ hgraph)
      (((laid_of_takes ht).modWork _).place 0x00 [] (by decide))
  case unbind =>
    have hid' : fieldAt p 0 1 < maxStreams (taken s h) := (taken_unseen maxStreams (fun _ _ _ _ _ _ => rfl) s h).symm ▸ hid
    refine responds_of_takes ht (streamUnbindBody_ok (r := requestIn s h p) hid' ?_) (((laid_of_takes ht).modWork _).place 0x00 [] (by decide))
    rw [work_of_quiet (quiet_taken s h)]
    exact hidle
  case submit =>
    have harea' : areaSet (taken s h) (fieldAt p 10 1) = true := (taken_unseen (areaSet · _) (fun _ _ _ _ _ _ => rfl) s h).trans harea
    have hopen' : bulkSealed (taken s h) (reqOf s h).ctx = false := (taken_unseen (bulkSealed · _) (fun _ _ _ _ _ _ => rfl) s h).trans hopen
    have hroom : areaAt (taken s h) ((requestIn s h p).u8 10) = areaAt s (fieldAt p 10 1) := taken_unseen (areaAt · _) (fun _ _ _ _ _ _ => rfl) s h
    have hnext : (taken s h).core.work.nextBatch = s.core.work.nextBatch := by rw [work_of_quiet (quiet_taken s h)]
    have hbody := batchSubmitBody_ok (r := requestIn s h p) data ⟨halign, hlow, hhigh⟩ harea' hopen'
    rw [hnext, hroom] at hbody
    refine ⟨fun hfit => ?_, fun hfull => ?_⟩
    · have opened := (open_taken ht).step (v := (taken s h).emit (.dmaRead (fieldAt p 0 8) (32 * fieldAt p 8 2))) rfl rfl
      obtain ⟨y, ha, hjob, hcount, hy, hterms⟩ := entered_batch (r := requestIn s h p) opened (plainItems (fieldAt p 8 2) data)
        s.core.work.nextBatch (fieldAt p 16 8) ((plainItems (fieldAt p 8 2) data).zipIdx.map (fun p => (p.2, p.1))) hnext
      exact ⟨_, y, next_of_takes ht (hbody.trans (if_pos hfit)), ha, hjob, hcount, hy, hterms⟩
    · exact responds_of_takes ht (hbody.trans (if_neg (Nat.not_le.2 hfull)))
        (((laid_of_takes ht).emit (taken_out s h) _).place 0x13 [] (by decide))
  case complete =>
    rw [batchComplete_ended hj hy hall]
    have l := (open_of_job hh hj).laid.modWork (fun w => { w with batches := NMap.erase w.batches b })
    obtain ⟨ha, hk, -⟩ := l.placeWith (batchStatus y) (batchCounts y) false (bit y.flags 0) (by simpa using batchStatus_ne_accepted y)
    exact ⟨_, rfl, ha, hk⟩
  case area =>
    have hres' : (areaAt (taken s h) (fieldAt p 0 1)).reserved = 0 := by
      rw [taken_unseen (areaAt · _) (fun _ _ _ _ _ _ => rfl) s h]
      exact hres
    have hargs' := hargs
    rw [← work_of_quiet (quiet_taken s h)] at hargs'
    have hbody := resultAreaSetBody_ok (r := requestIn s h p) ⟨ha, hv⟩ hres' hargs'
    exact responds_of_takes ht hbody (responds_areaSet (r := requestIn s h p) (laid_of_takes ht) (taken_out s h))

end Sys2Proof.Machine
end

section
/-! The status and counts of a batch that has ended, ring counts, and the timer of a result area (R60, R101, R103, R110, R111). -/
namespace Sys2Proof.Machine

/-! ### The held events -/

theorem putEntry_held (s : State) (e : List Byte) : (s.putEntry e).core.ring.evHeld = s.core.ring.evHeld ∧
    (s.putEntry e).core.ring.evRd = s.core.ring.evRd := by
  unfold State.putEntry
  dsimp only
  split
  · rw [msi_core]
    exact ⟨rfl, rfl⟩
  · exact ⟨rfl, rfl⟩

/-- Held events enter the ring in order until none is left or the ring is full (R103). -/
theorem drainEvents_held : ∀ (n : Nat) (s : State), s.core.ring.evHeld.length ≤ n →
    ∃ k, (State.drainEvents n s).core.ring.evHeld = s.core.ring.evHeld.drop k ∧
      ((State.drainEvents n s).core.ring.evHeld = [] ∨ evFree (State.drainEvents n s).core.ring = 0) ∧
      (State.drainEvents n s).core.ring.evRd = s.core.ring.evRd
  | 0, s, h => ⟨0, rfl, .inl (List.length_eq_zero_iff.1 (Nat.le_zero.1 h)), rfl⟩
  | n + 1, s, h => by
    unfold State.drainEvents
    split
    case h_1 hnil => exact ⟨0, rfl, .inl hnil, rfl⟩
    case h_2 e rest hcons =>
      split
      case isTrue hfull => exact ⟨0, rfl, .inr hfull, rfl⟩
      case isFalse =>
        obtain ⟨hheld, hrd⟩ := putEntry_held (s.modRing (fun r => { r with evHeld := rest })) e
        obtain ⟨k, hk, hend, hrd'⟩ := drainEvents_held n ((s.modRing (fun r => { r with evHeld := rest })).putEntry e)
          (by rw [hheld]; rw [hcons, List.length_cons] at h; exact Nat.le_of_succ_le_succ h)
        refine ⟨k + 1, ?_, hend, hrd'.trans hrd⟩
        rw [hk, hheld, hcons]
        rfl

/-! ### A message or a pending bit (R98) -/

theorem msi_masked {s : State} {v : Nat} (hv : v < 64) (h : (s.pcie.table.getD v {}).ctrl.getLsbD 0 = true) :
    (s.msi v).out = s.out ∧ (s.msi v).pcie.pba.getLsbD v = true := by
  unfold State.msi
  rw [if_pos h]
  exact ⟨rfl, getLsbD_done s.pcie.pba v hv⟩

theorem msi_unmasked {s : State} {v : Nat} (h : (s.pcie.table.getD v {}).ctrl.getLsbD 0 = false) :
    s.msi v = s.emit (.msi v (s.pcie.table.getD v {}).addr.toNat (s.pcie.table.getD v {}).data.toNat) := by
  unfold State.msi
  rw [if_neg (by rw [h]; decide)]

theorem exec_evringRdWrite {s : State} (hr : running s = true) (v : Nat) : exec (.evringRdWrite v) s = .next (s.setEvRd v) := by
  change execEvringRdWrite v s = _
  rw [execEvringRdWrite, if_pos hr]

theorem exec_rareaRdWrite_running {s : State} (hr : running s = true) (a v : Nat) : exec (.rareaRdWrite a v) s = .next (s.setAreaRd a v) := by
  rw [exec_rareaRdWrite, execRareaRdWrite, if_pos hr]

theorem exec_resultIrqTimer_due {s : State} {a : Nat} (ha : a < 16) (hsince : 0 < (areaAt s a).since) (hv : (areaAt s a).vector ≤ 63)
    (hdue : (areaAt s a).firstAt + 1000 * (areaAt s a).coalUs ≤ dtOf s) :
    exec (.resultIrqTimer a) s = .next ((s.modArea a (fun x => { x with since := 0 })).msi (areaAt s a).vector) := by
  change execResultIrqTimer a s = _
  simp [execResultIrqTimer, ha, hsince, hv, hdue]

/-- An area that counts records is one of the areas. -/
theorem area_lt_of_since {s : State} {a : Nat} (h : 0 < (areaAt s a).since) : a < s.core.ring.areas.length := by
  by_contra hlen
  have hnone : areaAt s a = {} := by simp [areaAt, List.getD, List.getElem?_eq_none (Nat.le_of_not_lt hlen)]
  simp [hnone] at h

/-- Settles O11: the codes of a batch from its items, held events in order, and one interrupt where the time is due. -/
theorem batchStatusRingsAndTimer : Obligations.BatchStatusRingsAndTimer := by
  unfold Obligations.BatchStatusRingsAndTimer
  refine ⟨fun y _ => ⟨fun hlow => ?low, fun i hi c hc hcode => ?high, fun hne => (batchStatus_code y).resolve_left hne, ?counts⟩,
    fun s hr => ⟨fun a v => exec_rareaRdWrite_running hr a v, fun v hheld => ?ring, fun a ha hsince hv hdue => ?timer⟩⟩
  case low =>
    rcases batchStatus_code y with h | ⟨hcode, i, hi, hst⟩
    · exact h
    · exact absurd (hlow i hi _ hst) (Nat.not_lt.2 hcode)
  case high =>
    refine (le_foldl_max _ 0).2 c (List.mem_filter.2 ⟨List.mem_filterMap.2 ⟨i, hi, hc⟩, decide_eq_true hcode⟩)
  case counts => simp [batchCounts, leBytes_length]
  case ring =>
    obtain ⟨k, hk, hend, hrd⟩ := drainEvents_held 4096 (s.modRing (fun r => { r with evRd := BitVec.ofNat 32 v })) hheld
    have hwork := congrArg Core.work (quiet_drainEvents (s.modRing (fun r => { r with evRd := BitVec.ofNat 32 v })) 4096)
    exact ⟨_, k, exec_evringRdWrite hr v, hrd, hk, hend, hwork, drainEvents_hat _ _⟩
  case timer =>
    have hlen := area_lt_of_since hsince
    refine ⟨_, exec_resultIrqTimer_due ha hsince hv hdue, ?_, fun b hb => ?_, ?_⟩
    · rw [areaAt_msi, areaAt_modArea_self hlen]
    · rw [areaAt_msi, areaAt, State.modArea_core]
      exact getD_updAt_other _ _ _ _ _ hb
    · cases hmask : (s.pcie.table.getD (areaAt s a).vector {}).ctrl.getLsbD 0 with
      | true =>
        obtain ⟨hout, hpba⟩ := msi_masked (s := s.modArea a (fun x => { x with since := 0 })) (by omega) hmask
        exact .inl ⟨rfl, hout, hpba⟩
      | false =>
        rw [msi_unmasked (s := s.modArea a (fun x => { x with since := 0 })) hmask]
        exact .inr ⟨rfl, rfl, rfl⟩

end Sys2Proof.Machine
end

section
/-! Air time of a symbol's start (R373, R374), and the one-to-one assignment of observations to tracks (R282). -/
namespace Sys2Proof.Machine

/-! ### The assignment -/

/-- The rows that the columns have once every row of a batch is placed. -/
def columnRows (cs : Costs) (m : Nat) : List (Option Nat) :=
  ((List.range cs.length).foldl (assignRow cs m cs.length)
    { v := List.replicate (m + cs.length) 0, row := List.replicate (m + cs.length) none }).row

/-- A row's track column has that row. -/
theorem columnRows_of_assignment {cs : Costs} {m r j : Nat} (h : (assignment cs m).getD r none = some j) :
    j < m ∧ (columnRows cs m)[j]? = some (some r) := by
  have hr : r < cs.length := by
    by_contra hlen
    rw [List.getD_eq_default _ _ (by simpa [assignment] using hlen)] at h
    cases h
  have hcol : ((columnRows cs m).findIdx? (· == some r)).filter (fun j => decide (j < m)) = some j := by
    rw [assignment, getD_map_range _ _ hr] at h
    exact h
  obtain ⟨hfind, hj⟩ := Option.filter_eq_some_iff.1 hcol
  obtain ⟨hlt, heq, -⟩ := List.findIdx?_eq_some_iff_getElem.1 hfind
  exact ⟨of_decide_eq_true hj, by rw [List.getElem?_eq_getElem hlt, beq_iff_eq.1 heq]⟩

/-- Settles O57: two rows of one column are the one row that the column has. -/
theorem assignmentIsOneToOne : Obligations.AssignmentIsOneToOne := by
  unfold Obligations.AssignmentIsOneToOne
  intro cs m r q j
  refine ⟨by simp [assignment], fun h => ?_⟩
  obtain ⟨hj, hr⟩ := columnRows_of_assignment h
  refine ⟨hj, fun hq => ?_⟩
  obtain ⟨-, hq⟩ := columnRows_of_assignment hq
  simpa using hq.symm.trans hr

/-! ### Air time -/

theorem floor_eq_of_between {q : Rat} {n : Int} (hlow : (n : Rat) ≤ q) (hhigh : q < n + 1) : q.floor = n := by
  exact Int.floor_eq_iff.2 ⟨hlow, hhigh⟩

theorem floor_div_block {n b : Nat} {y : Rat} (hb : 0 < b) (h0 : 0 ≤ y) (hy : y < b) : ((n * b + y : Rat) / b).floor = n := by
  have hb' : (0 : Rat) < b := by exact_mod_cast hb
  refine floor_eq_of_between ?_ ?_
  · rw [le_div_iff₀ hb']; push_cast; linarith
  · rw [div_lt_iff₀ hb']; push_cast; linarith

/-- Air time from what an instant lies behind the start of its half of a subframe. -/
def airInHalf (mu sfn sub half : Nat) (r : Rat) : AirTime :=
  let q := r * tcPerNs
  let l0 : Rat := symL0 mu
  let l : Rat := symL mu
  let k : Nat := if q < l0 then 0 else 1 + ((q - l0) / l).floor.toNat
  let off := if q < l0 then q else q - l0 - (k - 1 : Nat) * l
  let n := half * 7 * 2 ^ mu + k
  { sfn := sfn, subframe := sub, slot := n / 14, symbol := n % 14, offset := off / tcPerNs }

/-- Air time from what an instant lies behind the start of its subframe, frame and cycle. -/
def airInSub (mu sfn sub : Nat) (r : Rat) : AirTime :=
  airInHalf mu sfn sub (r / 500000).floor.toNat (r - ((r / 500000).floor.toNat * 500000 : Nat))
def airInFrame (mu sfn : Nat) (r : Rat) : AirTime :=
  airInSub mu sfn (r / 1000000).floor.toNat (r - ((r / 1000000).floor.toNat * 1000000 : Nat))
def airInCycle (mu : Nat) (r : Rat) : AirTime :=
  airInFrame mu (r / 10000000).floor.toNat (r - ((r / 10000000).floor.toNat * 10000000 : Nat))

theorem airOf_eq (mu : Nat) (epoch : Int) (dt : Rat) :
    airOf mu epoch dt = airInCycle mu (dt - epoch - 10240000000 * ((dt - epoch) / 10240000000).floor) := rfl

section Block
variable {mu n sfn sub : Nat} {y : Rat} (h0 : 0 ≤ y)
include h0

theorem airInSub_half (hy : y < 500000) : airInSub mu sfn sub ((n * 500000 : Nat) + y) = airInHalf mu sfn sub n y := by
  have hfloor := floor_div_block (n := n) (b := 500000) (by decide) h0 (by exact_mod_cast hy)
  push_cast at hfloor
  rw [airInSub]
  push_cast
  rw [hfloor]
  simp

theorem airInFrame_sub (hy : y < 1000000) : airInFrame mu sfn ((n * 1000000 : Nat) + y) = airInSub mu sfn n y := by
  have hfloor := floor_div_block (n := n) (b := 1000000) (by decide) h0 (by exact_mod_cast hy)
  push_cast at hfloor
  rw [airInFrame]
  push_cast
  rw [hfloor]
  simp

theorem airInCycle_frame (hy : y < 10000000) : airInCycle mu ((n * 10000000 : Nat) + y) = airInFrame mu n y := by
  have hfloor := floor_div_block (n := n) (b := 10000000) (by decide) h0 (by exact_mod_cast hy)
  push_cast at hfloor
  rw [airInCycle]
  push_cast
  rw [hfloor]
  simp

/-- Whole cycles do not move the air time. -/
theorem airOf_cycle (epoch cycles : Int) (hy : y < 10240000000) : airOf mu epoch (epoch + 10240000000 * cycles + y) = airInCycle mu y := by
  have hfloor : ((epoch + 10240000000 * cycles + y - epoch) / 10240000000).floor = cycles := by
    refine floor_eq_of_between ?_ ?_
    · rw [le_div_iff₀ (by norm_num)]; linarith
    · rw [div_lt_iff₀ (by norm_num)]; linarith
  rw [airOf_eq, hfloor]
  congr 1
  ring

end Block

/-- Tc from the start of a half subframe to its symbol k. -/
def symTc (mu k : Nat) : Nat := if k = 0 then 0 else symL0 mu + (k - 1) * symL mu

theorem symTc_lt {mu k : Nat} (hmu : mu ≤ 3) (hk : k < 7 * 2 ^ mu) : symTc mu k < 983040 := by
  unfold symTc symL0 symL
  interval_cases mu <;> norm_num at hk ⊢ <;> split <;> omega

theorem symL_pos {mu : Nat} (hmu : mu ≤ 3) : 0 < symL mu := by
  unfold symL
  interval_cases mu <;> norm_num

theorem symL0_pos (mu : Nat) : 0 < symL0 mu := Nat.lt_of_lt_of_le (by decide) (Nat.le_add_right 1024 _)

/-- The start of symbol k of a half subframe is that symbol, without an offset. -/
theorem airInHalf_symbol {mu sfn sub half k : Nat} (hmu : mu ≤ 3) :
    airInHalf mu sfn sub half ((symTc mu k : Rat) / tcPerNs) =
      { sfn := sfn, subframe := sub, slot := (half * 7 * 2 ^ mu + k) / 14, symbol := (half * 7 * 2 ^ mu + k) % 14, offset := 0 } := by
  have htc : (symTc mu k : Rat) / tcPerNs * tcPerNs = symTc mu k := div_mul_cancel₀ _ (by norm_num [tcPerNs])
  unfold airInHalf
  rw [htc]
  by_cases hk : k = 0
  · have hpos : (0 : Rat) < symL0 mu := by exact_mod_cast symL0_pos mu
    simp [symTc, hk, hpos]
  · have hl : (symL mu : Rat) ≠ 0 := by exact_mod_cast (symL_pos hmu).ne'
    have htc : (symTc mu k : Rat) = symL0 mu + ((k - 1 : Nat) : Rat) * symL mu := by
      rw [symTc, if_neg hk]
      push_cast
      rfl
    have hnot : ¬ (symTc mu k : Rat) < symL0 mu := by
      rw [htc, not_lt]
      exact le_add_of_nonneg_right (by positivity)
    have hquot : ((symTc mu k : Rat) - symL0 mu) / symL mu = ((k - 1 : Nat) : Rat) := by
      rw [htc, add_sub_cancel_left, mul_div_cancel_right₀ _ hl]
    have hfloor : (((k - 1 : Nat) : Rat)).floor = ((k - 1 : Nat) : Int) := floor_eq_of_between (by norm_cast) (by norm_cast; omega)
    have hk1 : 1 + (k - 1) = k := by omega
    simp only [hnot, if_false, hquot, hfloor, Int.toNat_natCast, hk1]
    rw [htc]
    simp

theorem symStart_eq (mu sfn sub slot sym : Nat) : symStart mu sfn sub slot sym =
    (sfn * 10000000 : Nat) + ((sub * 1000000 : Nat) + (((slot * 14 + sym) / (7 * 2 ^ mu) * 500000 : Nat) +
      (symTc mu ((slot * 14 + sym) % (7 * 2 ^ mu)) : Rat) / tcPerNs)) := by
  unfold symStart symTc
  push_cast
  ring

/-- Settles O56: cycle, frame, subframe, half and symbol are read off one after another. -/
theorem symbolStartsAreExact : Obligations.SymbolStartsAreExact := by
  unfold Obligations.SymbolStartsAreExact
  intro mu sfn sub slot sym epoch cycles hmu hsfn hsub hslot hsym
  have hper : 0 < 7 * 2 ^ mu := by positivity
  have hn : slot * 14 + sym < 2 * (7 * 2 ^ mu) := by omega
  have hk := Nat.mod_lt (slot * 14 + sym) hper
  have hhalf : (slot * 14 + sym) / (7 * 2 ^ mu) < 2 := Nat.div_lt_of_lt_mul (by omega)
  have hback := Nat.div_add_mod (slot * 14 + sym) (7 * 2 ^ mu)
  rw [symStart_eq]
  generalize (slot * 14 + sym) / (7 * 2 ^ mu) = half at *
  generalize (slot * 14 + sym) % (7 * 2 ^ mu) = k at *
  have hnum : half * 7 * 2 ^ mu + k = slot * 14 + sym := by rw [← hback]; ring
  have htc0 : (0 : Rat) ≤ (symTc mu k : Rat) / tcPerNs := div_nonneg (by positivity) (by norm_num [tcPerNs])
  have htc1 : (symTc mu k : Rat) / tcPerNs < 500000 := by
    rw [div_lt_iff₀ (by norm_num [tcPerNs]), show (500000 : Rat) * tcPerNs = 983040 by norm_num [tcPerNs]]
    exact_mod_cast symTc_lt hmu hk
  have hhalf' : ((half * 500000 : Nat) : Rat) ≤ 500000 := by exact_mod_cast (by omega : half * 500000 ≤ 500000)
  have hsub' : ((sub * 1000000 : Nat) : Rat) ≤ 9000000 := by exact_mod_cast (by omega : sub * 1000000 ≤ 9000000)
  have hsfn' : ((sfn * 10000000 : Nat) : Rat) ≤ 10230000000 := by exact_mod_cast (by omega : sfn * 10000000 ≤ 10230000000)
  rw [airOf_cycle (by positivity) epoch cycles (by linarith), airInCycle_frame (by positivity) (by linarith),
    airInFrame_sub (by positivity) (by linarith), airInSub_half htc0 htc1, airInHalf_symbol hmu, hnum]
  congr 1 <;> omega

end Sys2Proof.Machine
end

section
/-! Accesses to BAR0 (R15 to R17, R84 to R90, R358 to R367, R388, R389, R501): what each write stores, and what each read returns and latches. -/
namespace Sys2Proof.Machine

/-! ### Hatch bytes (R86) -/

section Bar
variable {s : State} (hr : running s = true)
include hr

theorem exec_hatchWrite {off : Nat} (hoff : off < 0x4000) (w v : Nat) : exec (.hatchWrite off w v) s =
    .next (if hatchShut s (off / 256) || hatchShut s ((off + w - 1) / 256) then s.modSys (fun y => { y with hatchProto := true })
      else if w = 4 then (if off % 4 = 0 then s.write32 off (v % 2 ^ 32) else s)
      else if w = 8 then (if off % 8 = 0 then (s.write32 off (v % 2 ^ 32)).write32 (off + 4) (v / 2 ^ 32) else s)
      else s) := by
  change execHatchWrite off w v s = _
  rw [execHatchWrite, if_pos hoff, State.barWrite]
  simp [hr, hoff, is64_of_lt (show off < 0x4200 by omega)]

end Bar

theorem write32_hatch {s : State} {off : Nat} (hoff : off < 0x4000) (hopen : hatchShut s (off / 256) = false) (v : Nat) :
    s.write32 off v = s.modHat (fun a => { a with mem := Mem.write a.mem off (leBytes 4 v) }) := by
  rw [State.write32, if_pos hoff, State.writeHatch, if_neg (by simp [hopen])]

theorem hatchShut_false {s : State} {n : Nat} (ho : (ctlAt s n).own = false) (hp : (ctlAt s n).pend = false) : hatchShut s n = false := by
  simp [hatchShut, ho, hp]

theorem hatchShut_true {s : State} {n : Nat} (hn : n < 64) (h : (ctlAt s n).own = true ∨ (ctlAt s n).pend = true) : hatchShut s n = true := by
  simpa [hatchShut, hn] using h

/-! ### OWN and VECTOR (R84 to R86, R90) -/

/-- A hatch enters its group behind all but those of the same instant and a higher number (R90). -/
def joined (n now : Nat) (ownAt : NMap Nat) (l : List Nat) : List Nat :=
  let later := l.reverse.takeWhile (fun m => NMap.get? ownAt m == some now && decide (n < m))
  l.take (l.length - later.length) ++ n :: later.reverse

theorem joined_split (n now : Nat) (ownAt : NMap Nat) (l : List Nat) : ∃ a b, l = a ++ b ∧ joined n now ownAt l = a ++ n :: b ∧
    ∀ g ∈ b, n < g ∧ NMap.get? ownAt g = some now := by
  refine ⟨_, _, ?_, rfl, fun g hg => ?_⟩
  · have hrev := List.takeWhile_append_dropWhile (p := fun m => NMap.get? ownAt m == some now && decide (n < m)) (l := l.reverse)
    generalize l.reverse.takeWhile (fun m => NMap.get? ownAt m == some now && decide (n < m)) = w at *
    generalize l.reverse.dropWhile (fun m => NMap.get? ownAt m == some now && decide (n < m)) = d at *
    have hl : l = d.reverse ++ w.reverse := by rw [← List.reverse_append, hrev, List.reverse_reverse]
    subst hl
    simp
  · have hlater := List.mem_takeWhile_imp (List.mem_reverse.1 hg)
    simpa [and_comm] using hlater

theorem exec_ownSet {s : State} (hr : running s = true) {h : Nat} (hh : h < 64) (v : Nat) : exec (.ownSet h v) s = .next (s.setOwn h v) := by
  change execOwnSet h v s = _
  simp [execOwnSet, hr, hh]

theorem exec_vectorWrite {s : State} (hr : running s = true) {h : Nat} (hh : h < 64) (v : Nat) : exec (.vectorWrite h v) s = .next (s.setVector h v) := by
  change execVectorWrite h v s = _
  simp [execVectorWrite, hr, hh]

theorem setOwn_open {s : State} {h : Nat} (ho : (ctlAt s h).own = false) (hp : (ctlAt s h).pend = false) (v : Nat) :
    s.setOwn h v = (s.modCtl h (fun c => { c with own := true, vector := bits v 13 8 })).modHat (fun a =>
      { a with
        queueM := if h < 8 then joined h s.core.time.acc.toNat a.ownAt a.queueM else a.queueM
        queueG := if h < 8 then a.queueG else joined h s.core.time.acc.toNat a.ownAt a.queueG
        ownAt := NMap.set a.ownAt h s.core.time.acc.toNat }) := by
  unfold State.setOwn
  simp only [ho, hp, Bool.or_self, Bool.false_eq_true, if_false]
  rfl

theorem hatQueue_setOwn {s : State} {h : Nat} (ho : (ctlAt s h).own = false) (hp : (ctlAt s h).pend = false) (v : Nat) :
    hatQueue (s.setOwn h v) h = joined h s.core.time.acc.toNat s.core.hat.ownAt (hatQueue s h) := by
  rw [setOwn_open ho hp]
  by_cases h8 : h < 8
  · simp [hatQueue, h8]
  · simp [hatQueue, h8]

/-! ### The end of patience (R89) -/

/-- A request leaves its queue wherever it stands in it. -/
theorem laid_takeOff_of_own {s : State} {h : Nat} (hh : h < 64) (ho : (ctlAt s h).own = true) : Laid s h s.core (s.takeOff (reqOf s h)) := by
  obtain ⟨b, e, n, l, ht⟩ := takeOff_eq s (reqOf s h)
  rw [ht]
  refine ⟨⟨rfl, rfl, rfl, rfl, rfl, rfl, rfl, fun g hg => ?_, fun a _ => rfl, ⟨[], by simp⟩⟩, rfl, rfl, ?_, hh⟩
  · simp only [ctlAt, State.modObs_core, State.modCtl_core, State.modHat_core]
    exact getD_updAt_other _ _ _ _ _ hg
  · simpa [length_updAt] using length_le_of_own s h ho

theorem exec_patienceExpiry {s : State} {h : Nat} (hr : running s = true) (hh : h < 64) (ho : (ctlAt s h).own = true)
    (hq : h ∈ s.core.hat.queueM ∨ h ∈ s.core.hat.queueG) (hne : (reqOf s h).patience ≠ 0) (hlt : (reqOf s h).patience < dtOf s) :
    exec (.patienceExpiry h) s = .next ((s.takeOff (reqOf s h)).place h 0x16) := by
  have hqueued : (s.core.hat.queueM.contains h || s.core.hat.queueG.contains h) = true := by simpa using hq
  change execPatienceExpiry h s = _
  simp only [execPatienceExpiry]
  rw [if_pos]
  simp [hr, hh, ho, hne, hlt]
  simpa using hqueued

/-- Settles O25: bytes are stored or discarded with HATCH_PROTO; OWN enters the queue; patience that has passed is answered. -/
theorem hatchRegistersTakeEffect : Obligations.HatchRegistersTakeEffect := by
  unfold Obligations.HatchRegistersTakeEffect
  intro s hr
  refine ⟨fun off v hoff halign => ⟨fun ho hp => ⟨?word, fun h8 => ?double⟩, fun hshut => ?shut⟩,
    fun off w v hoff hbad => ⟨fun h1 h2 => ?none, fun hshut => ?proto⟩,
    fun h v hh hlen => ⟨fun ho hp => ?own, fun hbusy => ?busy, ?vector⟩, fun h hh ho hq hne hlt => ?patience⟩
  case word =>
    have hopen := hatchShut_false ho hp
    have hend : (off + 4 - 1) / 256 = off / 256 := by omega
    rw [exec_hatchWrite hr hoff, hend, hopen]
    simp [halign, write32_hatch hoff hopen]
  case double =>
    have hopen := hatchShut_false ho hp
    have hend : (off + 8 - 1) / 256 = off / 256 := by omega
    have hnext : (off + 4) / 256 = off / 256 := by omega
    rw [exec_hatchWrite hr hoff, hend, hopen]
    simp only [Bool.or_self, Bool.false_eq_true, if_false, h8, if_true, write32_hatch hoff hopen]
    rw [write32_hatch (by omega) (by rw [hnext]; exact hopen)]
    rfl
  case shut =>
    rw [exec_hatchWrite hr hoff, hatchShut_true (by omega) hshut]
    rfl
  case none =>
    rw [exec_hatchWrite hr hoff, h1, h2]
    rcases hbad with ⟨h4, h8⟩ | hmis
    · simp [h4, h8]
    · by_cases h4 : w = 4
      · subst h4
        simp [hmis]
      · by_cases h8 : w = 8
        · subst h8
          simp [hmis]
        · simp [h4, h8]
  case proto =>
    rw [exec_hatchWrite hr hoff, if_pos (by simpa using hshut)]
  case own =>
    obtain ⟨a, b, hl, hj, hb⟩ := joined_split h s.core.time.acc.toNat s.core.hat.ownAt (hatQueue s h)
    refine ⟨_, exec_ownSet hr hh v, ?_, ⟨a, b, hl, (hatQueue_setOwn ho hp v).trans hj, hb⟩, fun g hg => ?_, ?_, ?_⟩
    · rw [setOwn_open ho hp]
      exact ctlAt_modCtl_self s h _ (by omega)
    · rw [setOwn_open ho hp]
      exact ctlAt_modCtl s h g _ hg
    · rw [setOwn_open ho hp]
      rfl
    · rw [setOwn_open ho hp]
      rfl
  case busy =>
    rw [exec_ownSet hr hh, State.setOwn]
    simp [hbusy]
  case vector =>
    exact ⟨_, exec_vectorWrite hr hh v, ctlAt_modCtl_self s h _ (by omega), fun g hg => ctlAt_modCtl s h g _ hg, rfl⟩
  case patience =>
    rw [exec_patienceExpiry hr hh ho hq hne hlt]
    exact (laid_takeOff_of_own hh ho).place 0x16 [] (by decide)

/-! ### Reads (R16, R17, R358, R367, R501) -/

theorem NMap.get_erase_self {α : Type} (m : NMap α) (k : Nat) : NMap.get? (NMap.erase m k) k = none := by
  induction m with
  | nil => rfl
  | cons e m ih =>
    obtain ⟨j, v⟩ := e
    by_cases hj : j = k
    · subst hj
      simpa [NMap.erase] using ih
    · have hkeep : NMap.erase ((j, v) :: m) k = (j, v) :: NMap.erase m k := by simp [NMap.erase, hj]
      rw [hkeep, NMap.get?, if_neg hj]
      split
      · rfl
      · exact ih

theorem bar0Word_time {s : State} {o : Nat} (h : o < 0x10000) : bar0Word s (0x20000 + o) = BitVec.ofNat 32 (timeWord s o) := by
  have hlow : ∀ b, b ≤ 0x20000 → ¬ 0x20000 + o < b := fun b hb => by omega
  have hne : ∀ b, b < 0x20000 → ¬ (0x20000 + o == b) = true := fun b hb => by simpa using (by omega : 0x20000 + o ≠ b)
  have hnot : ∀ a b, b ≤ 0x20000 → ¬ (decide (a ≤ 0x20000 + o) && decide (0x20000 + o < b)) = true := fun a b hb => by simp; omega
  rw [bar0Word, if_neg (hlow _ (by decide)), if_neg (hlow _ (by decide)), if_neg (hne _ (by decide)), if_neg (hnot _ _ (by decide)),
    if_neg (hne _ (by decide)), if_neg (hne _ (by decide)), if_neg (hne _ (by decide)), if_neg (hnot _ _ (by decide)),
    if_neg (hne _ (by decide)), if_neg (hne _ (by decide)), if_neg (hnot _ _ (by decide)), if_pos (by simp; omega), Nat.add_sub_cancel_left]

/-- The state in which a 32-bit read of a 64-bit register's lower half has latched the upper one. -/
theorem readLower_rest {s : State} {a : Nat} (ha : a ≠ 0x20000) : s.readLower a =
    (s.modRing (fun r => { r with latch := NMap.set r.latch a (bar0Word s (a + 4)) })).emit (.readData (leBytes 4 (bar0Word s a).toNat) false) := by
  simp [State.readLower, ha]

theorem readUpper_latched {s : State} {a : Nat} {u : W32} (hu : NMap.get? s.core.ring.latch a = some u) : s.readUpper a =
    (s.modRing (fun r => { r with latch := NMap.erase r.latch a })).emit (.readData (leBytes 4 u.toNat) false) := by
  simp [State.readUpper, NMap.getD, hu]

section Word
variable {s : State} {a : Nat} (ha : a % 8 = 0)
include ha

theorem read32_lower (h64 : is64 a = true) : s.read32 a = s.readLower a := by simp [State.read32, ha, h64]

theorem read32_upper (h64 : is64 a = true) : s.read32 (a + 4) = s.readUpper a := by
  have hmod : (a + 4) % 8 = 4 := by omega
  simp [State.read32, hmod, h64]

end Word

theorem exec_halfReadLatch_word {s : State} (hr : running s = true) (he : endpointUp s = true) {a : Nat} (ha : a % 4 = 0) :
    exec (.halfReadLatch ⟨a, 4⟩) s = .next (s.read32 a) := by
  rw [exec_halfReadLatch, barRead_word hr he ha]

/-- The word of a measurement's number, which latches the measurement. -/
theorem read32_measSeq (s : State) : s.read32 0x20040 =
    (s.emit (.readData (leBytes 4 s.core.time.measSeq.toNat) false)).modTime (fun t =>
      { t with measLatch := [t.measOffset, t.measPath, t.measT2] }) := by
  have hword : bar0Word s 0x20040 = s.core.time.measSeq := by
    have htime : timeWord s 0x40 = s.core.time.measSeq.toNat := rfl
    rw [bar0Word_time (o := 0x40) (by decide), htime, BitVec.ofNat_toNat, BitVec.setWidth_eq]
  have hnot : is64 0x20040 = false := by decide
  simp [State.read32, hnot, barBytes_aligned, hword]

theorem read32_linkMeasSeq (s : State) : s.read32 0x20208 =
    (s.emit (.readData (leBytes 4 s.core.link.seq.toNat) false)).modLink (fun l => { l with latch := [l.offset, l.path] }) := by
  have hword : bar0Word s 0x20208 = s.core.link.seq := by
    have htime : timeWord s 0x208 = s.core.link.seq.toNat := rfl
    rw [bar0Word_time (o := 0x208) (by decide), htime, BitVec.ofNat_toNat, BitVec.setWidth_eq]
  have hnot : is64 0x20208 = false := by decide
  simp [State.read32, hnot, barBytes_aligned, hword]

/-- The halves of TIME_DT. -/
theorem bar0Word_dt (s : State) : bar0Word s 0x20000 = BitVec.ofNat 32 (dtOf s % 2 ^ 32) ∧
    bar0Word s (0x20000 + 4) = BitVec.ofNat 32 (dtOf s / 2 ^ 32) := by
  have hlow : timeWord s 0 = dtOf s % 2 ^ 32 := rfl
  have hhigh : timeWord s 4 = dtOf s / 2 ^ 32 % 2 ^ 32 := rfl
  refine ⟨?_, ?_⟩
  · rw [← hlow]
    exact bar0Word_time (o := 0) (by decide)
  · rw [bar0Word_time (by decide), hhigh]
    apply BitVec.eq_of_toNat_eq
    simp

/-- Settles O26: what each read returns, and what it latches or consumes. -/
theorem latchingReads : Obligations.LatchingReads := by
  unfold Obligations.LatchingReads
  intro s hr
  refine ⟨?lower, fun u hu => ?upper, ?full, ?meas, ?link, fun off w he hnarrow => ?narrow, fun he => ?wide, fun a he ha h64 hne => ?half,
    fun a u he ha h64 hu => ?rest⟩
  case lower =>
    have hexec : exec (.timeDtRead .lower) s = .next (s.readLower 0x20000) := by
      change execTimeDtRead .lower s = _
      rw [execTimeDtRead, if_pos hr]
    obtain ⟨hlow, hhigh⟩ := bar0Word_dt s.latchTime
    have hdt : dtOf s.latchTime = dtOf s := rfl
    rw [hdt] at hlow hhigh
    have hread : s.readLower 0x20000 = (s.latchTime.modRing (fun r =>
        { r with latch := NMap.set r.latch 0x20000 (BitVec.ofNat 32 (dtOf s / 2 ^ 32)) })).emit (.readData (leBytes 4 (dtOf s % 2 ^ 32)) false) := by
      have hword : (BitVec.ofNat 32 (dtOf s % 2 ^ 32)).toNat = dtOf s % 2 ^ 32 := by simp
      unfold State.readLower
      simp only [beq_self_eq_true, if_true]
      rw [hlow, hhigh, hword]
    rw [hread] at hexec
    exact ⟨_, hexec, rfl, rfl, rfl, NMap.get_set _ _ _, rfl⟩
  case upper =>
    have hexec : exec (.timeDtRead .upper) s = .next (s.readUpper 0x20000) := by
      change execTimeDtRead .upper s = _
      rw [execTimeDtRead, if_pos hr]
    rw [readUpper_latched hu] at hexec
    exact ⟨_, hexec, rfl, NMap.get_erase_self _ _, rfl⟩
  case full =>
    have hexec : exec (.timeDtRead .full) s = .next (s.latchTime.emit (.readData (leBytes 8 (dtOf s)) false)) := by
      change execTimeDtRead .full s = _
      rw [execTimeDtRead, if_pos hr]
    exact ⟨_, hexec, rfl, rfl, rfl⟩
  case meas =>
    have hexec : exec .measSeqRead s = .next (s.read32 0x20040) := by
      change execMeasSeqRead s = _
      rw [execMeasSeqRead, if_pos hr]
    rw [read32_measSeq] at hexec
    exact ⟨_, hexec, rfl, rfl⟩
  case link =>
    have hexec : exec .linkMeasSeqRead s = .next (s.read32 0x20208) := by
      change execLinkMeasSeqRead s = _
      rw [execLinkMeasSeqRead, if_pos hr]
    rw [read32_linkMeasSeq] at hexec
    exact ⟨_, hexec, rfl, rfl⟩
  case narrow =>
    rw [exec_halfReadLatch, State.barRead]
    rcases hnarrow with h | h <;> simp [he, h]
  case wide =>
    have hnot : is64 0x20040 = false ∧ is64 0x20044 = false := by decide
    have hnext (u : State) : (u.read32 0x20044).core.time = u.core.time := by simp [State.read32, hnot.1]
    refine ⟨_, rfl, ?_⟩
    simp only [State.barRead, he, hr, hnot.1]
    exact (hnext _).trans (by rw [read32_measSeq]; rfl)
  case half =>
    rw [exec_halfReadLatch_word hr he (by omega), read32_lower ha h64, readLower_rest hne]
    exact ⟨_, rfl, rfl, NMap.get_set _ _ _, rfl⟩
  case rest =>
    rw [exec_halfReadLatch_word hr he (by omega), read32_upper ha h64, readUpper_latched hu]
    exact ⟨_, rfl, rfl, NMap.get_erase_self _ _⟩

/-! ### Writes of the time registers (R359, R361, R388, R389) -/

theorem barWrite_full {s : State} (hr : running s = true) {a : Nat} (ha : a % 8 = 0) (hhatch : 0x4000 ≤ a) (h64 : is64 a = true) (v : Nat) :
    s.barWrite a 8 v = s.write64 a v := by
  have hnot : decide (a < 0x4000) = false := decide_eq_false (by omega)
  simp [State.barWrite, hr, ha, hnot, h64]

theorem barWrite_low {s : State} (hr : running s = true) {a : Nat} (ha : a % 4 = 0) (hhatch : 0x4000 ≤ a) (v : Nat) :
    s.barWrite a 4 v = s.write32 a (v % 2 ^ 32) := by
  have hnot : decide (a < 0x4000) = false := decide_eq_false (by omega)
  simp [State.barWrite, hr, ha, hnot]

/-- The increment as R359 limits it. -/
theorem setInc_eq (s : State) (v : Nat) : s.setInc v =
    if max incMin (min incMax (v % 2 ^ 40)) = v % 2 ^ 40 then
      s.modTime (fun t => { t with inc := BitVec.ofNat 64 (max incMin (min incMax (v % 2 ^ 40))) })
    else (s.modTime (fun t => { t with inc := BitVec.ofNat 64 (max incMin (min incMax (v % 2 ^ 40))) })).err1 1 0 := by
  have hclamp : (if v % 2 ^ 40 < incMin then incMin else if incMax < v % 2 ^ 40 then incMax else v % 2 ^ 40) =
      max incMin (min incMax (v % 2 ^ 40)) := by
    have hle : incMin ≤ incMax := by decide
    split
    · omega
    · split <;> omega
  unfold State.setInc
  simp only [hclamp, beq_iff_eq]

theorem setInc_time (s : State) (v : Nat) : (s.setInc v).core.time =
    { s.core.time with inc := BitVec.ofNat 64 (max incMin (min incMax (v % 2 ^ 40))) } := by
  rw [setInc_eq]
  split
  · rfl
  · rw [time_of_quiet (quiet_err1 _ _ _ _ _ _)]
    rfl

theorem setInc_held (s : State) (v : Nat) : (s.setInc v).core.ring.held = s.core.ring.held := by
  rw [setInc_eq]
  split
  · rfl
  · exact congrArg (·.ring.held) (quiet_err1 (s.modTime _) 1 0 _ _ _)

/-- One flag of ERR_TIME, which every part has. -/
theorem errTime_sets {s : State} (hlen : s.err.regs.length = 16) {b : Nat} (hb : b < 32) :
    ((s.err1 1 b).err.regs.getD 1 {}).bits.getLsbD b = true :=
  err1_sets (by simp [errPresent]) (by decide) hb (by omega) _ _ _

theorem setClockQ_time (s : State) (q : ClockQ) : (s.setClockQ q).core.time.clockQ = q ∧
    (s.setClockQ q).core.time.stepNs = s.core.time.stepNs ∧ (s.setClockQ q).core.time.stepped = s.core.time.stepped ∧
    (s.setClockQ q).core.time.acc = s.core.time.acc := by
  have hset (u : State) : ((if s.core.time.clockQ == .locked then u.err1 1 5 else u).event 0x0007 [leBytes 1 (clockCode q)]).core.time = u.core.time := by
    rw [time_of_quiet (quiet_event _ _ _)]
    split
    · rw [time_of_quiet (quiet_err1 _ _ _ _ _ _)]
    · rfl
  unfold State.setClockQ
  dsimp only
  split
  case isTrue hold => exact ⟨beq_iff_eq.1 hold, rfl, rfl, rfl⟩
  case isFalse =>
    rw [hset]
    exact ⟨rfl, rfl, rfl, rfl⟩

/-- Settles O27: each write by its register, whole or by halves. -/
theorem timeRegistersTakeEffect : Obligations.TimeRegistersTakeEffect := by
  unfold Obligations.TimeRegistersTakeEffect
  intro s hr
  have hfull (v : Nat) : exec (.timeStepWrite .full v) s = .next (s.setStep (asSigned 64 (v % 2 ^ 64))) := by
    change Host.Outcome.next (s.barWrite 0x20020 8 v) = _
    rw [barWrite_full hr (by decide) (by decide) (by decide)]
    rfl
  refine ⟨fun v => ?inc, fun v => ?low, fun v u hv hu => ?high, fun v hsess hevents hlaunch => ?step, fun v hbusy hlen => ?busy, fun n v hn => ?cap,
    fun v => ?pps⟩
  case inc =>
    have hexec : exec (.timeIncWrite .full v) s = .next (s.setInc v) := by
      change Host.Outcome.next (s.barWrite 0x20018 8 v) = _
      rw [barWrite_full hr (by decide) (by decide) (by decide)]
      rfl
    refine ⟨_, hexec, setInc_time s v, fun hmin hmax => ?_, fun hout hlen => ?_⟩
    · rw [setInc_eq, if_pos (by omega)]
      rfl
    · have hle : incMin ≤ incMax := by decide
      rw [setInc_eq, if_neg (by omega)]
      exact errTime_sets (s := s.modTime _) hlen (by decide)
  case low =>
    refine ⟨_, rfl, ?_⟩
    change s.barWrite 0x20018 4 v = _
    rw [barWrite_low hr (by decide) (by decide)]
    rfl
  case high =>
    have hexec : exec (.timeIncWrite .upper v) s =
        .next ((s.modRing (fun r => { r with held := NMap.erase r.held 0x20018 })).setInc (u.toNat + 2 ^ 32 * v)) := by
      have hmod : v % 2 ^ 32 = v := Nat.mod_eq_of_lt hv
      have hhalf : s.halfWrite 0x20018 true v s.core.time.inc.toNat =
          (some (u.toNat + 2 ^ 32 * v), s.modRing (fun r => { r with held := NMap.erase r.held 0x20018 })) := by
        rw [State.halfWrite, if_pos rfl, hu, hmod]
        rfl
      change Host.Outcome.next (s.barWrite 0x2001C 4 v) = _
      rw [barWrite_low hr (by decide) (by decide), hmod]
      change Host.Outcome.next (match s.halfWrite 0x20018 true v s.core.time.inc.toNat with | (some w, s) => s.setInc w | (none, s) => s) = _
      rw [hhalf]
    refine ⟨_, hexec, ?_, ?_⟩
    · rw [setInc_held]
      exact NMap.get_erase_self _ _
    · rw [setInc_time]
  case step =>
    have hstep : s.setStep (asSigned 64 (v % 2 ^ 64)) =
        (s.modTime (fun t => { t with stepNs := some (asSigned 64 (v % 2 ^ 64)), stepped := true, run16 := 0, run8 := 0 })).setClockQ .freeRun := by
      simp [State.setStep, hsess, hevents, hlaunch]
    obtain ⟨hq, hns, hstepped, hacc⟩ := setClockQ_time
      (s.modTime (fun t => { t with stepNs := some (asSigned 64 (v % 2 ^ 64)), stepped := true, run16 := 0, run8 := 0 })) .freeRun
    rw [hfull, hstep]
    exact ⟨_, rfl, hns, hstepped, hq, hacc⟩
  case busy =>
    have hstep : s.setStep (asSigned 64 (v % 2 ^ 64)) = s.err1 1 1 := by
      rw [State.setStep, if_neg]
      simp only [Bool.and_eq_true, List.isEmpty_iff]
      tauto
    rw [hfull, hstep]
    exact ⟨_, rfl, time_of_quiet (quiet_err1 _ _ _ _ _ _), errTime_sets hlen (by decide)⟩
  case cap =>
    have hexec : exec (.capturePop n v) s = .next (s.writeCap n v) := by
      change execCapturePop n v s = _
      rw [execCapturePop, if_pos hr]
    exact ⟨_, _, hexec, rfl, getD_updAt_self _ _ _ _ hn, fun m hm => getD_updAt_other _ _ _ _ _ hm⟩
  case pps =>
    have hexec : exec (.ppsCtlWrite v) s = .next (s.setPps v) := by
      change execPpsCtlWrite v s = _
      rw [execPpsCtlWrite, if_pos hr]
    have hmode : bits v 1 0 = v % 4 := by simp [bits]
    have hwidth : bits v 28 16 = v / 2 ^ 16 % 2 ^ 13 := by simp [bits, Nat.shiftRight_eq_div_pow]
    refine ⟨_, hexec, ?_, rfl, fun h1 h2 => ?_, rfl⟩
    · simp [State.setPps, packBits, hmode, hwidth]
    · simp [State.setPps, hmode, h1, h2]

end Sys2Proof.Machine
end

section
/-! Resets and the start (R106, R385, R502 to R516, R546, R548, R550, R553): how the device restarts, is held in reset, and advances through its start steps. -/
namespace Sys2Proof.Machine

/-! ### A start begins -/

theorem startBegin_phase (s : State) (why : Nat) : (s.startBegin why).core.sys.phase = .starting ∧ (s.startBegin why).core.sys.step = 1 ∧
    (s.startBegin why).core.sys.cause = why := ⟨rfl, rfl, rfl⟩

theorem startBegin_log (s : State) (why : Nat) : (s.startBegin why).loft.log.head? = some (s.startBegin why).core.sys.record := rfl

theorem startBegin_remedies (s : State) : (s.startBegin 0).loft.remedies = {} := rfl

/-- A start from a state that differs from s in the levels of the reset pins and the clock, with nothing of its work left (R502, R505). -/
theorem restarted_startBegin {s : State} (hwork : s.core.work = {}) (hhat : s.core.hat = {}) (rst perst clk : Bool) (why : Nat) :
    Restarted s why ((s.modHw (fun h => { h with resetN := rst, perstN := perst, refclk := clk })).startBegin why) :=
  ⟨rfl, rfl, rfl, rfl, rfl, rfl, rfl, rfl, rfl, rfl, rfl, rfl, hwork, hhat, rfl⟩

theorem restarted_selfReset (s : State) (why : Nat) : Restarted s why (s.selfReset why) :=
  ⟨rfl, rfl, rfl, rfl, rfl, rfl, rfl, rfl, rfl, rfl, rfl, rfl, rfl, rfl, rfl⟩

/-! ### The device is held in reset -/

theorem heldInReset_coreReset (s : State) (why : Nat) : HeldInReset s why (s.coreReset why) := by
  refine ⟨rfl, rfl, ?_, rfl, rfl, rfl, rfl, rfl, rfl⟩
  simp [running, State.coreReset]

theorem holdReset_eq {s : State} (h0 : s.core.sys.phase ≠ .unpowered) (h1 : s.core.sys.phase ≠ .st0) (why : Nat) :
    s.holdReset why = s.coreReset (if s.core.sys.phase = .inReset then max why s.core.sys.cause else why) := by
  unfold State.holdReset
  cases hp : s.core.sys.phase <;> simp_all

theorem heldInReset_holdReset {s u : State} (h0 : s.core.sys.phase ≠ .unpowered) (h1 : s.core.sys.phase ≠ .st0) (why : Nat)
    (hcore : u.core = s.core) (hloft : u.loft = s.loft) (herr : u.err = s.err) (hqueue : u.pending = s.pending) :
    HeldInReset s (if s.core.sys.phase = .inReset then max why s.core.sys.cause else why) (u.holdReset why) := by
  rw [holdReset_eq (by rwa [hcore]) (by rwa [hcore]), hcore]
  obtain ⟨hphase, hcause, hstop, hpages, hlog, herr', hwork, hhat, hqueue'⟩ :=
    heldInReset_coreReset u (if s.core.sys.phase = .inReset then max why s.core.sys.cause else why)
  exact ⟨hphase, hcause, hstop, by rw [hpages, hloft], by rw [hlog, hloft], by rw [herr', herr], hwork, hhat, by rw [hqueue', hqueue]⟩

theorem holdReset_pins {s : State} (h0 : s.core.sys.phase ≠ .unpowered) (h1 : s.core.sys.phase ≠ .st0) (why : Nat) :
    (s.holdReset why).hw = { s.hw with epUp := [false, false] } ∧ (s.holdReset why).pcie = s.pcie := by
  rw [holdReset_eq h0 h1]
  exact ⟨rfl, rfl⟩

/-! ### Power -/

/-- The state of a device whose rails have come up. -/
def railsUp (s : State) : State := (({ s with pcie := {}, err := {} } : State).coreReset 0).modHw (fun h => { h with rails := true })

theorem exec_powerOn {s : State} (hp : s.core.sys.phase = .unpowered ∨ s.core.sys.phase = .st0) : exec .powerOn s =
    .next (if s.hw.refclk && s.hw.resetN && s.hw.perstN then (railsUp s).startBegin 0
      else (railsUp s).modSys (fun y => { y with phase := .st0 })) := by
  change execPowerOn s = _
  rcases hp with hp | hp <;> simp only [execPowerOn, hp] <;> rfl

theorem exec_powerLoss (old : Bool) (s : State) : exec (.powerLoss old) s = execPowerLoss old s := rfl

/-- Settles O33: each pin's reset holds or restarts the device, and the supply's failure keeps the loft but for the page being written. -/
theorem pinsResetTheDevice : Obligations.PinsResetTheDevice := by
  unfold Obligations.PinsResetTheDevice
  intro s
  refine ⟨fun hp => ?on, fun h0 h1 => ⟨?rst, ?perst, ?stop⟩, fun hp hwork hhat => ⟨fun hclk => ?release, fun hrst hperst => ?ret⟩, ?fail, fun pg old hlast => ?torn⟩
  case on =>
    rw [exec_powerOn hp]
    by_cases hup : (s.hw.refclk && s.hw.resetN && s.hw.perstN) = true
    · rw [if_pos hup]
      refine ⟨_, rfl, rfl, rfl, rfl, rfl, fun _ _ _ => ⟨rfl, rfl, rfl, rfl, rfl, rfl⟩, fun hno => ?_⟩
      simp only [Bool.and_eq_true] at hup
      obtain ⟨⟨hclk, hrst⟩, hperst⟩ := hup
      simp [hclk, hrst, hperst] at hno
    · rw [if_neg hup]
      refine ⟨_, rfl, rfl, rfl, rfl, rfl, fun hclk hrst hperst => ?_, fun _ => rfl⟩
      simp [hclk, hrst, hperst] at hup
  case rst =>
    obtain ⟨hhw, hpcie⟩ := holdReset_pins (s := s.modHw (fun h => { h with resetN := false })) h0 h1 1
    exact ⟨_, rfl, by rw [hhw]; rfl, hpcie, heldInReset_holdReset h0 h1 1 rfl rfl rfl rfl⟩
  case perst =>
    obtain ⟨hhw, hpcie⟩ := holdReset_pins (s := { s.modHw (fun h => { h with perstN := false }) with pcie := {} }) h0 h1 2
    exact ⟨_, rfl, by rw [hhw]; rfl, hpcie, heldInReset_holdReset h0 h1 2 rfl rfl rfl rfl⟩
  case stop =>
    obtain ⟨hhw, hpcie⟩ := holdReset_pins (s := s.modHw (fun h => { h with refclk := false })) h0 h1 1
    exact ⟨_, rfl, by rw [hhw]; rfl, hpcie, heldInReset_holdReset h0 h1 1 rfl rfl rfl rfl⟩
  case release =>
    have hexec : exec .resetRelease s = .next ((s.modHw (fun h => { h with resetN := true, perstN := true })).startBegin s.core.sys.cause) := by
      change execResetRelease s = _
      simp [execResetRelease, hp, hclk]
    exact ⟨_, hexec, rfl, rfl, restarted_startBegin hwork hhat true true s.hw.refclk s.core.sys.cause⟩
  case ret =>
    have hexec : exec .refclkReturn s = .next ((s.modHw (fun h => { h with refclk := true })).startBegin s.core.sys.cause) := by
      change execRefclkReturn s = _
      simp [execRefclkReturn, hp, hrst, hperst]
    exact ⟨_, hexec, rfl, restarted_startBegin hwork hhat s.hw.resetN s.hw.perstN true s.core.sys.cause⟩
  case fail =>
    have hexec : exec (.powerLoss false) s =
        .next (((s.coreReset 0).modHw (fun h => { h with rails := false })).modSys (fun y => { y with phase := .unpowered })) := by
      rw [exec_powerLoss, execPowerLoss]
      cases s.loft.lastStore <;> rfl
    refine ⟨_, hexec, rfl, rfl, ?_, rfl, rfl, rfl⟩
    simp [running]
  case torn =>
    have hexec : exec (.powerLoss true) s = .next ((((s.modLoft (fun l => { l with pages := Mem.write l.pages (4096 * pg) old })).coreReset 0).modHw
        (fun h => { h with rails := false })).modSys (fun y => { y with phase := .unpowered })) := by
      rw [exec_powerLoss, execPowerLoss, hlast]
      simp
    exact ⟨_, hexec, rfl, rfl⟩

/-- Settles O34: a reset that begins by itself restarts the device at once; straps and links change their pins alone. -/
theorem selfResetsRestart : Obligations.SelfResetsRestart := by
  unfold Obligations.SelfResetsRestart
  intro s
  refine ⟨fun hr => ⟨?watchdog, fun d hd hdue => ?core, fun d hd hwait => ?wait, fun d hd hdue => ?recovery⟩, fun d k b => rfl, fun n => rfl,
    fun n hr hphase hport => ?link⟩
  case watchdog =>
    have hexec : exec .watchdogReset s = .next (s.selfReset 5) := by
      change execWatchdogReset s = _
      rw [execWatchdogReset, if_pos hr]
    exact ⟨_, hexec, restarted_selfReset s 5⟩
  case core =>
    have hexec : exec .coreResetTimer s = .next (s.selfReset 3) := by
      change execCoreResetTimer s = _
      simp [execCoreResetTimer, hd, hr, hdue]
    exact ⟨_, hexec, restarted_selfReset s 3⟩
  case wait =>
    change execCoreResetTimer s = _
    simp [execCoreResetTimer, hd, hwait]
  case recovery =>
    have hexec : exec .recoveryReset s = .next (s.selfReset 4) := by
      change execRecoveryReset s = _
      simp [execRecoveryReset, hd, hr, hdue]
    exact ⟨_, hexec, restarted_selfReset s 4⟩
  case link =>
    have hup : (s.core.sys.phase == .ready || (s.core.sys.phase == .starting && decide (6 ≤ s.core.sys.step))) = true := by simpa using hphase
    have hbit : bit s.core.sys.record.epDisabled n = false := hport
    change execEpLinkUp n s = _
    simp only [execEpLinkUp, hr, hup, hbit, Bool.not_false, Bool.and_self, if_true]

end Sys2Proof.Machine
end

section
/-! Power and heat (R38, R39, R41, R554, R557): pin samples, the windows of the control loop and of the limiter, a temperature sample. -/
namespace Sys2Proof.Machine

/-! ### One step of the control loop (R39) -/

section Loop
variable {p : Pow} {dw cap : Nat}

@[simp] theorem loop_power : (p.loop dw cap).power = p.power := by
  unfold Pow.loop
  dsimp only
  repeat' split
  all_goals rfl

theorem loop_over_clock (h : cap < dw) (hm : 400 < p.ctlMhz) : p.loop dw cap = { p with ctlMhz := p.ctlMhz - 100, calm := 0 } := by
  rw [Pow.loop, if_pos h, if_pos hm]

theorem loop_over_admission (h : cap < dw) (hm : p.ctlMhz ≤ 400) : p.loop dw cap = { p with ctlAdm := max 1 (p.ctlAdm - 1), calm := 0 } := by
  rw [Pow.loop, if_pos h, if_neg (Nat.not_lt.2 hm)]

theorem loop_between (h : dw ≤ cap) (hc : cap < dw + 50) : p.loop dw cap = { p with calm := 0 } := by
  rw [Pow.loop, if_neg (Nat.not_lt.2 h), if_neg (Nat.not_le.2 hc)]

/-- Well below the cap the loop counts a calm window, and from the hundredth on restores admission, then the clock. -/
theorem loop_calm (h : dw + 50 ≤ cap) : p.loop dw cap =
    if p.calm + 1 < 100 then { p with calm := p.calm + 1 }
    else if p.ctlAdm < 8 then { p with calm := p.calm + 1, ctlAdm := p.ctlAdm + 1 }
    else if p.ctlMhz < 1600 then { p with calm := p.calm + 1, ctlMhz := p.ctlMhz + 100 } else { p with calm := p.calm + 1 } := by
  rw [Pow.loop, if_neg (by omega), if_pos h]

theorem loop_calm_step (h : dw + 50 ≤ cap) : (p.loop dw cap).calm = p.calm + 1 ∧
    (99 ≤ p.calm → p.ctlAdm < 8 → (p.loop dw cap).ctlAdm = p.ctlAdm + 1 ∧ (p.loop dw cap).ctlMhz = p.ctlMhz) ∧
    (99 ≤ p.calm → 8 ≤ p.ctlAdm → p.ctlMhz < 1600 → (p.loop dw cap).ctlAdm = p.ctlAdm ∧ (p.loop dw cap).ctlMhz = p.ctlMhz + 100) ∧
    (p.calm < 99 → (p.loop dw cap).ctlAdm = p.ctlAdm ∧ (p.loop dw cap).ctlMhz = p.ctlMhz) := by
  rw [loop_calm h]
  refine ⟨?_, fun hc ha => ?_, fun hc ha hm => ?_, fun hc => ?_⟩
  · repeat' split
    all_goals rfl
  · rw [if_neg (by omega), if_pos ha]
    exact ⟨rfl, rfl⟩
  · rw [if_neg (by omega), if_neg (Nat.not_lt.2 ha), if_pos hm]
    exact ⟨rfl, rfl⟩
  · rw [if_pos (by omega)]
    exact ⟨rfl, rfl⟩

/-- A measurement leaves the loop's requests and the caps. -/
theorem measure_rest (mhz now : Nat) : (p.measure dw mhz now).ctlMhz = p.ctlMhz ∧ (p.measure dw mhz now).ctlAdm = p.ctlAdm ∧
    (p.measure dw mhz now).calm = p.calm ∧ (p.measure dw mhz now).power = dw := by
  unfold Pow.measure
  extract_lets sec q whole
  have hq : q.ctlMhz = p.ctlMhz ∧ q.ctlAdm = p.ctlAdm ∧ q.calm = p.calm ∧ q.power = dw := ⟨rfl, rfl, rfl, rfl⟩
  split <;> exact hq

end Loop

/-! ### The thermal rule (R557) -/

theorem thermal_sample (p : Pow) (tj : Int) : (p.thermal tj).tj = p.tj ∧ (p.thermal tj).tStore = p.tStore ∧
    (p.thermal tj).alert = p.alert ∧ (p.thermal tj).hot = p.hot := by
  unfold Pow.thermal
  extract_lets q late cool
  have hq : q.tj = p.tj ∧ q.tStore = p.tStore ∧ q.alert = p.alert ∧ q.hot = p.hot := ⟨rfl, rfl, rfl, rfl⟩
  split
  · split
    · split <;> exact hq
    · exact hq
  · split
    · have hcool : cool.tj = p.tj ∧ cool.tStore = p.tStore ∧ cool.alert = p.alert ∧ cool.hot = p.hot := by
        unfold cool
        split
        · exact hq
        · split <;> exact hq
      exact hcool
    · exact hq

theorem thermal_lowers {p : Pow} {tj : Int} (ht : 400 ≤ tj) (hs : 99 ≤ p.thSince) (hm : 400 < p.thMhz) :
    (p.thermal tj).thMhz = p.thMhz - 100 ∧ (p.thermal tj).throttle = true := by
  have hsince : 100 ≤ min 100 (p.thSince + 1) := by omega
  unfold Pow.thermal
  extract_lets q late
  rw [if_pos ht, if_pos hsince, if_pos (show 400 < q.thMhz from hm)]
  exact ⟨rfl, rfl⟩

/-- The values that a temperature sample shows at once. -/
def sampled (tj ts : Int) (p : Pow) : Pow :=
  { p with
    tj := tj
    tStore := ts
    alert := if 412 ≤ tj then true else if tj < 392 then false else p.alert
    hot := if 440 ≤ tj then true else if tj < 420 then false else p.hot }

theorem exec_thermalSample {s : State} (hr : running s = true) (tj ts : Int) : exec (.thermalSample tj ts) s =
    .next (s.modPow (fun p => if s.core.sys.phase == .ready then (sampled tj ts p).thermal tj else sampled tj ts p)) := by
  change execThermalSample tj ts s = _
  simp only [execThermalSample, hr, Bool.not_true, Bool.false_eq_true, if_false]
  rfl

theorem sampled_flags {tj ts : Int} {q : Pow} (p : Pow) (hq : q.tj = (sampled tj ts p).tj ∧ q.tStore = (sampled tj ts p).tStore ∧
      q.alert = (sampled tj ts p).alert ∧ q.hot = (sampled tj ts p).hot) :
    q.tj = tj ∧ q.tStore = ts ∧ (412 ≤ tj → q.alert = true) ∧ (tj < 392 → q.alert = false) ∧ (440 ≤ tj → q.hot = true) ∧
      (tj < 420 → q.hot = false) := by
  obtain ⟨h1, h2, h3, h4⟩ := hq
  refine ⟨h1, h2, fun h => ?_, fun h => ?_, fun h => ?_, fun h => ?_⟩
  · rw [h3, sampled, if_pos h]
  · rw [h3, sampled]
    exact (if_neg (by omega)).trans (if_pos h)
  · rw [h4, sampled, if_pos h]
  · rw [h4, sampled]
    exact (if_neg (by omega)).trans (if_pos h)

/-! ### Windows -/

/-- The loop's state after a window of 1 ms. -/
def windowed (s : State) (dw : Nat) : Pow :=
  ((Pow.measure { s.core.pow with pinCap := s.core.pow.pinNext } dw
    (tensorMhz (s.modPow (fun p => { p with pinCap := p.pinNext }))) (dtOf s)).loop dw (10 * min s.core.pow.pinNext s.core.pow.hatchCap))

theorem powerWindow_pow {s : State} (hr : running s = true) (hp : s.core.sys.phase = .ready) (dw : Nat) :
    ∃ t, exec (.powerWindow dw) s = .next t ∧ t.core.pow = { windowed s dw with limiter := false } := by
  simp only [exec_powerWindow, execPowerWindow, hp, hr, beq_self_eq_true, Bool.and_self, if_true]
  exact ⟨_, rfl, by rw [traceRec_pow]; rfl⟩

/-- R39 on the loop's requests, whatever the measurement left of the rest. -/
theorem loop_requests {m p : Pow} {dw cap : Nat} (hmhz : m.ctlMhz = p.ctlMhz) (hadm : m.ctlAdm = p.ctlAdm) (hcalm : m.calm = p.calm) :
    (cap < dw → 400 < p.ctlMhz → (m.loop dw cap).ctlMhz = p.ctlMhz - 100 ∧ (m.loop dw cap).ctlAdm = p.ctlAdm) ∧
    (cap < dw → p.ctlMhz ≤ 400 → (m.loop dw cap).ctlMhz = p.ctlMhz ∧ (m.loop dw cap).ctlAdm = max 1 (p.ctlAdm - 1)) ∧
    (dw + 50 ≤ cap → (m.loop dw cap).calm = p.calm + 1 ∧
      (99 ≤ p.calm → p.ctlAdm < 8 → (m.loop dw cap).ctlAdm = p.ctlAdm + 1 ∧ (m.loop dw cap).ctlMhz = p.ctlMhz) ∧
      (99 ≤ p.calm → 8 ≤ p.ctlAdm → p.ctlMhz < 1600 → (m.loop dw cap).ctlAdm = p.ctlAdm ∧ (m.loop dw cap).ctlMhz = p.ctlMhz + 100) ∧
      (p.calm < 99 → (m.loop dw cap).ctlAdm = p.ctlAdm ∧ (m.loop dw cap).ctlMhz = p.ctlMhz)) ∧
    (dw ≤ cap → cap < dw + 50 → (m.loop dw cap).calm = 0 ∧ (m.loop dw cap).ctlMhz = p.ctlMhz ∧ (m.loop dw cap).ctlAdm = p.ctlAdm) := by
  rw [← hmhz, ← hadm, ← hcalm]
  refine ⟨fun hover hclk => ?_, fun hover hclk => ?_, loop_calm_step, fun hlow hhigh => ?_⟩
  · rw [loop_over_clock hover hclk]
    exact ⟨rfl, rfl⟩
  · rw [loop_over_admission hover hclk]
    exact ⟨rfl, rfl⟩
  · rw [loop_between hlow hhigh]
    exact ⟨rfl, rfl, rfl⟩

theorem windowed_pinCap (s : State) (dw : Nat) : (windowed s dw).pinCap = s.core.pow.pinNext := by
  rw [windowed, loop_pinCap, measure_pinCap]

theorem windowed_power (s : State) (dw : Nat) : (windowed s dw).power = dw :=
  loop_power.trans (measure_rest _ _).2.2.2

/-- R41: a window above the package limit sets the limiter and counts it. -/
theorem exec_powerLimiterWindow {s : State} (dw : Nat) : exec (.powerLimiterWindow dw) s =
    .next (if running s && decide (10 * packageW s.hw.part < dw) && !s.core.pow.limiter then
      (s.modPow (fun p => { p with limiter := true })).bump (devCtr 0) 1 else s) := rfl

theorem pwrCapSample_pins {s : State} (hr : running s = true) (hp : s.core.sys.phase = .ready) (v : Nat) :
    ∃ t, exec (.pwrCapSample v) s = .next t ∧ t.hw.capPins = v % 4 ∧ t.core.pow.pinSample = v % 4 ∧
      t.core.pow.pinCap = s.core.pow.pinCap ∧
      (s.core.pow.pinSample = v % 4 → t.core.pow.pinNext = pinCapOf s.hw.part (v % 4)) ∧
      (s.core.pow.pinSample ≠ v % 4 → t.core.pow.pinNext = s.core.pow.pinNext) := by
  have hr' : running (s.modHw (fun h => { h with capPins := v % 4 })) = true := hr
  simp only [exec_pwrCapSample, execPwrCapSample, State.modHw_core, hp, hr', beq_self_eq_true, Bool.and_self, if_true]
  refine ⟨_, rfl, rfl, rfl, rfl, fun hs => ?_, fun hs => ?_⟩ <;> simp [hs]

theorem thermalSample_acts {s : State} (hr : running s = true) (tj ts : Int) :
    ∃ t, exec (.thermalSample tj ts) s = .next t ∧ t.core.pow.tj = tj ∧ t.core.pow.tStore = ts ∧
      (412 ≤ tj → t.core.pow.alert = true) ∧ (tj < 392 → t.core.pow.alert = false) ∧ (440 ≤ tj → t.core.pow.hot = true) ∧
      (tj < 420 → t.core.pow.hot = false) ∧
      (s.core.sys.phase = .ready → 400 ≤ tj → 99 ≤ s.core.pow.thSince → 400 < s.core.pow.thMhz →
        t.core.pow.thMhz = s.core.pow.thMhz - 100 ∧ t.core.pow.throttle = true) := by
  rw [exec_thermalSample hr]
  refine ⟨_, rfl, ?_⟩
  simp only [State.modPow_core]
  by_cases hp : s.core.sys.phase = .ready
  · rw [if_pos (by simp [hp])]
    obtain ⟨h1, h2, h3, h4, h5, h6⟩ := sampled_flags s.core.pow (thermal_sample (sampled tj ts s.core.pow) tj)
    exact ⟨h1, h2, h3, h4, h5, h6, fun _ ht hs hm => thermal_lowers ht hs hm⟩
  · rw [if_neg (by simpa using hp)]
    obtain ⟨h1, h2, h3, h4, h5, h6⟩ := sampled_flags (ts := ts) (tj := tj) s.core.pow ⟨rfl, rfl, rfl, rfl⟩
    exact ⟨h1, h2, h3, h4, h5, h6, fun hready => absurd hready hp⟩

/-- Settles O36: samples, windows and the thermal rule, case by case of the loop. -/
theorem powerAndHeatTakeEffect : Obligations.PowerAndHeatTakeEffect := by
  unfold Obligations.PowerAndHeatTakeEffect
  intro s hr
  refine ⟨fun v hp => pwrCapSample_pins hr hp v, fun dw hp => ?window, fun dw hover hoff => ?limit, fun dw hunder => ?under,
    thermalSample_acts hr⟩
  case window =>
    obtain ⟨t, ht, hpow⟩ := powerWindow_pow hr hp dw
    obtain ⟨hmhz, hadm, hcalm, -⟩ := measure_rest (p := { s.core.pow with pinCap := s.core.pow.pinNext }) (dw := dw)
      (tensorMhz (s.modPow (fun p => { p with pinCap := p.pinNext }))) (dtOf s)
    refine ⟨t, ht, ?_⟩
    rw [hpow]
    exact ⟨windowed_power s dw, rfl, windowed_pinCap s dw, loop_requests hmhz hadm hcalm⟩
  case limit =>
    rw [exec_powerLimiterWindow, if_pos (by simp [hr, hover, hoff])]
  case under =>
    rw [exec_powerLimiterWindow, if_neg (by simp [Nat.not_lt.2 hunder])]

end Sys2Proof.Machine
end

section
/-! Counters that a step raises, and what ends by time in fusion (R268, R269, R279): old observations, a source's quarantine, an array's. -/
namespace Sys2Proof.Machine

/-! ### Counters -/

theorem NMap.getD_bump_self (m : NMap Nat) (k n : Nat) : NMap.getD (NMap.bump m k n) k 0 = NMap.getD m k 0 + n := by
  unfold NMap.bump
  split
  · next h => rw [h, Nat.add_zero]
  · rw [NMap.getD, NMap.get_set, Option.getD_some]

theorem NMap.getD_bump_other (m : NMap Nat) {k j : Nat} (n : Nat) (h : j ≠ k) : NMap.getD (NMap.bump m k n) j 0 = NMap.getD m j 0 := by
  unfold NMap.bump
  split
  · rfl
  · rw [NMap.getD, NMap.get_set_other m k j _ h, NMap.getD]

theorem counted_bump (s : State) (a n : Nat) : Counted s a n (s.bump a n) := NMap.getD_bump_self _ a n

theorem counted_bump_other (s : State) {a b : Nat} (n : Nat) (h : a ≠ b) : Counted s a 0 (s.bump b n) := NMap.getD_bump_other _ n h

theorem Counted.trans {s t u : State} {a m n : Nat} (h : Counted s a m t) (h' : Counted t a n u) : Counted s a (m + n) u := by
  unfold Counted at *
  rw [h', h, Nat.add_assoc]

/-- What a fold that only counts leaves. -/
theorem foldl_bump_core {α : Type} {β : Type} (F : State → β) (hF : ∀ s o, F (s.modObs o) = F s) (a : α → Nat) (l : List α) (s : State) :
    F (l.foldl (fun s b => s.bump (a b) 1) s) = F s :=
  foldl_unseen (fun s _ => hF s _) l s

/-- A fold over batches counts each of them in its channel's counter. -/
theorem counted_foldl_bump {α : Type} (chan : α → Nat) (i : Nat) (l : List α) (s : State) (ch : Nat) :
    Counted s (chanCtr ch i) (l.filter (fun b => chan b == ch)).length (l.foldl (fun s b => s.bump (chanCtr (chan b) i) 1) s) := by
  induction l generalizing s with
  | nil => rfl
  | cons b l ih =>
    rw [List.foldl_cons, List.filter_cons]
    by_cases h : chan b = ch
    · rw [if_pos (by simp [h]), List.length_cons, Nat.add_comm]
      exact Counted.trans (h ▸ counted_bump s _ 1) (ih _)
    · rw [if_neg (by simp [h]), ← Nat.zero_add (List.length _)]
      refine Counted.trans (counted_bump_other s 1 ?_) (ih _)
      unfold chanCtr
      omega

/-! ### The ends -/

/-- The batches of a group that are older than 1,000 ms, and the others. -/
def oldBatches (s : State) (key : Nat) : List ObsBatch := (NMap.getD s.core.fus.obsQ key []).filter (fun b => decide (b.t + 1000000000 < dtOf s))
def youngBatches (s : State) (key : Nat) : List ObsBatch := (NMap.getD s.core.fus.obsQ key []).filter (fun b => decide (dtOf s ≤ b.t + 1000000000))

theorem exec_obsExpire {s : State} (hr : running s = true) {ctx group : Nat} (hc : tracksCycle s ctx group = false)
    (hold : oldBatches s (256 * ctx + group) ≠ []) : exec (.obsExpire ctx group) s =
      .next ((oldBatches s (256 * ctx + group)).foldl (fun s b => s.bump (chanCtr b.chan 30) 1)
        (s.modFus (fun f => { f with
          obsQ := if (youngBatches s (256 * ctx + group)).isEmpty then NMap.erase f.obsQ (256 * ctx + group)
            else NMap.set f.obsQ (256 * ctx + group) (youngBatches s (256 * ctx + group)) }))) := by
  have hold' : (oldBatches s (256 * ctx + group)).isEmpty = false := by simpa using hold
  change execObsExpire ctx group s = _
  unfold execObsExpire
  refine congrArg Host.Outcome.next (if_pos ?_)
  unfold oldBatches at hold'
  simp only [hr, hc, hold', Bool.not_false, Bool.and_self]

theorem exec_quarantineEnd_camera {s : State} (hr : running s = true) {sid c : Nat} {y : Session} (hy : sessAt s sid = some y)
    (hc : c ≤ dtOf s) (hq : y.ctx.quarCamera = some c) : exec (.quarantineEnd sid 0) s =
      .next (s.modCtx sid (fun c => { c with quarCamera := none, history := setAt c.history 0 0x3F800000 })) := by
  change execQuarantineEnd sid 0 s = _
  simp [execQuarantineEnd, hy, hq, hr, hc]

theorem exec_quarantineEnd_odometry {s : State} (hr : running s = true) {sid c : Nat} {y : Session} (hy : sessAt s sid = some y)
    (hc : c ≤ dtOf s) (hq : y.ctx.quarOdometry = some c) : exec (.quarantineEnd sid 1) s =
      .next (s.modCtx sid (fun c => { c with quarOdometry := none, history := setAt c.history 1 0x3F800000 })) := by
  change execQuarantineEnd sid 1 s = _
  simp [execQuarantineEnd, hy, hq, hr, hc]

theorem sessAt_modCtx {s : State} {sid : Nat} {y : Session} (h : sessAt s sid = some y) (f : SessCtx → SessCtx) :
    sessAt (s.modCtx sid f) sid = some { y with ctx := f y.ctx } :=
  (sessAt_modSess s sid _).trans (by rw [h]; rfl)

theorem sessAt_modCtx_other (s : State) {sid n : Nat} (f : SessCtx → SessCtx) (h : n ≠ sid) : sessAt (s.modCtx sid f) n = sessAt s n :=
  sessAt_modSess_other s _ h

theorem getD_setAt_self {α : Type} (l : List α) (i : Nat) (d : α) : (setAt l i d).getD i d = d := by
  unfold setAt
  by_cases h : i < l.length
  · simp [List.getD_eq_getElem?_getD, h]
  · rw [List.set_eq_of_length_le (Nat.le_of_not_lt h), List.getD_eq_default _ _ (Nat.le_of_not_lt h)]

theorem getD_setAt_other {α : Type} (l : List α) {i j : Nat} (v d : α) (h : j ≠ i) : (setAt l i v).getD j d = l.getD j d := by
  simp [setAt, List.getD_eq_getElem?_getD, List.getElem?_set_ne (Ne.symm h)]

theorem exec_anchorQuarantineEnd {s : State} (hr : running s = true) {a c : Nat} (hq : s.core.scu.quarEnd.getD a none = some c)
    (hc : c ≤ dtOf s) : exec (.anchorQuarantineEnd a) s =
      .next (s.modScu (fun u => { u with quarEnd := setAt u.quarEnd a none, votes := setAt u.votes a [] })) := by
  change execAnchorQuarantineEnd a s = _
  rw [execAnchorQuarantineEnd, hq]
  exact congrArg Host.Outcome.next (if_pos (by simp [hr, hc]))

/-- Settles O49. -/
theorem fusionTimesOut : Obligations.FusionTimesOut := by
  unfold Obligations.FusionTimesOut
  intro s hr
  refine ⟨fun ctx group hc hold => ?obs, fun sid y c hy hc => ⟨fun hq => ?camera, fun hq => ?odometry⟩, fun a c hq hc => ?anchor⟩
  case obs =>
    refine ⟨_, exec_obsExpire hr hc hold, ?_, fun ch => counted_foldl_bump ObsBatch.chan 30 _ _ ch⟩
    rw [foldl_bump_core (fun s => s.core.fus) (fun _ _ => rfl)]
    simp only [State.modFus_core, List.isEmpty_iff]
    rfl
  case camera =>
    exact ⟨_, _, exec_quarantineEnd_camera hr hy hc hq, sessAt_modCtx hy _, rfl, fun n hn => sessAt_modCtx_other s _ hn⟩
  case odometry =>
    exact ⟨_, _, exec_quarantineEnd_odometry hr hy hc hq, sessAt_modCtx hy _, rfl, fun n hn => sessAt_modCtx_other s _ hn⟩
  case anchor =>
    refine ⟨_, exec_anchorQuarantineEnd hr hq hc, ?_, getD_setAt_self _ a [], fun b hb => getD_setAt_other _ none none hb⟩
    unfold arrayQuarantined
    rw [State.modScu_core, getD_setAt_self]
    rfl

end Sys2Proof.Machine
end

section
/-! What hangs on the links when they change (R484 to R486, R489 to R494): the settling of a change, a port that goes down, and what these
leave alone. The commands on links follow (R482, R492). -/
namespace Sys2Proof.Machine

/-! ### The settling of a change -/

/-- A port without its queue of frames to send. -/
def unsent (m : MpPort) : MpPort := { m with txq := [], txObject := 0 }

/-- F looks at nothing that the settling of a change of links writes: of the ports it may see all but what waits to be sent. -/
structure Unlinked {α : Type} (F : State → α) : Prop where
  deaf : Deaf F
  err : ∀ s e, F { s with err := e } = F s
  time : ∀ s f, F (s.modTime f) = F s
  map : ∀ s f, F (s.modMap f) = F s
  chans : ∀ s f, F (s.modChans f) = F s
  fab : ∀ s f, F (s.modFab f) = F s
  tiers : ∀ s f, F (s.modTiers f) = F s
  count : ∀ s n, F (s.bump (mapCtr 5) n) = F s
  link : ∀ s f, (∀ l : Link, (f l).ports.map unsent = l.ports.map unsent ∧ (f l).waitObj = l.waitObj) → F (s.modLink f) = F s

theorem unlinked_hat : Unlinked (fun s => s.core.hat) :=
  ⟨deaf_hat, fun _ _ => rfl, fun _ _ => rfl, fun _ _ => rfl, fun _ _ => rfl, fun _ _ => rfl, fun _ _ => rfl, fun _ _ => rfl, fun _ _ _ => rfl⟩

/-- A port but for what waits to be sent, and the objects that wait. -/
def portView (s : State) : List MpPort × List (Nat × Nat × List Byte) := (s.core.link.ports.map unsent, s.core.link.waitObj)

theorem unlinked_portView : Unlinked portView :=
  ⟨⟨fun _ _ => rfl, fun _ _ => rfl, fun _ _ _ => rfl, fun _ _ => rfl, fun _ _ _ _ _ => rfl⟩, fun _ _ => rfl, fun _ _ => rfl, fun _ _ => rfl,
    fun _ _ => rfl, fun _ _ => rfl, fun _ _ => rfl, fun _ _ => rfl, fun s _ hf => Prod.ext (hf s.core.link).1 (hf s.core.link).2⟩

theorem unsent_mpAt (s : State) (p : Nat) : unsent (mpAt s p) = (s.core.link.ports.map unsent).getD p (unsent {}) := by
  rw [mpAt, List.getD_eq_getElem?_getD, List.getD_eq_getElem?_getD, List.getElem?_map]
  cases s.core.link.ports[p]? <;> rfl

theorem unsent_mpAt_of_view {s t : State} (h : portView t = portView s) (p : Nat) : unsent (mpAt t p) = unsent (mpAt s p) := by
  have hports : t.core.link.ports.map unsent = s.core.link.ports.map unsent := congrArg Prod.fst h
  rw [unsent_mpAt, unsent_mpAt, hports]

section Unlinked
variable {α : Type} {F : State → α} (hF : Unlinked F)
include hF

theorem Unlinked.err1 (s : State) (i b src sid pg : Nat) : F (s.err1 i b src sid pg) = F s := hF.deaf.err1 hF.err s i b src sid pg

theorem Unlinked.setClockQ (s : State) (q : ClockQ) : F (s.setClockQ q) = F s := by
  unfold State.setClockQ
  extract_lets old s₁ s₂
  refine holds_ite (P := fun t => F t = F s) rfl ?_
  rw [hF.deaf.event]
  exact holds_ite (P := fun t => F t = F s) ((hF.err1 ..).trans (hF.time s _)) (hF.time s _)

theorem Unlinked.modMp (s : State) (p : Nat) {f : MpPort → MpPort} (hf : ∀ m, unsent (f m) = unsent m) : F (s.modMp p f) = F s :=
  hF.link s _ fun l => ⟨map_updAt_same hf l.ports p, rfl⟩

theorem Unlinked.sendObject (s : State) (p type : Nat) (b : List Byte) : F (s.sendObject p type b) = F s :=
  hF.modMp s p fun _ => rfl

theorem Unlinked.sendUp (s : State) (type : Nat) (b : List Byte) : F (s.sendUp type b) = F s := by
  unfold State.sendUp
  split
  · exact hF.sendObject ..
  · rfl

theorem Unlinked.sendDown (s : State) (type : Nat) (b : List Byte) : F (s.sendDown type b) = F s :=
  foldl_unseen (fun s _ => hF.sendObject s ..) _ s

theorem Unlinked.releaseLock (s : State) (j : Nat) : F (s.releaseLock j) = F s := by
  unfold State.releaseLock
  extract_lets t
  have ht : F t = F s := hF.link s _ fun _ => ⟨rfl, rfl⟩
  exact holds_ite (P := fun t => F t = F s) ht ((hF.sendUp ..).trans ht)

theorem Unlinked.stopJob (s : State) (j : Nat) : F (s.stopJob j) = F s := by
  unfold State.stopJob State.dropInst
  exact (foldl_unseen (fun s _ => hF.chans s _) _ _).trans (hF.chans s _)

theorem Unlinked.endJob (s : State) (j : Nat) (f : MapJob → MapJob) : F (s.endJob j f) = F s := by
  have hstop : F ((s.stopJob j).releaseLock j) = F s := (hF.releaseLock _ j).trans (hF.stopJob s j)
  unfold State.endJob
  extract_lets u
  split
  · exact hstop
  · exact holds_ite (P := fun t => F t = F s) ((hF.map _ _).trans hstop) ((hF.map _ _).trans hstop)

theorem Unlinked.loseUploads (s : State) : F s.loseUploads = F s :=
  foldl_unseen (fun s j => (hF.count _ 1).trans (hF.endJob s j _)) _ s

theorem Unlinked.askLocks (s : State) : F s.askLocks = F s := by
  unfold State.askLocks
  extract_lets me mine t
  refine holds_ite (P := fun t => F t = F s) (hF.link s _ fun _ => ⟨rfl, rfl⟩) ?_
  exact (foldl_unseen (fun s r => hF.sendUp s ..) _ _).trans (hF.link s _ fun _ => ⟨rfl, rfl⟩)

theorem Unlinked.loseTimeLink (s : State) (old : LinkView) : F (s.loseTimeLink old) = F s :=
  holds_ite (P := fun t => F t = F s) (hF.setClockQ s _) rfl

theorem Unlinked.dropGone (s : State) : F s.dropGone = F s := by
  unfold State.dropGone
  exact hF.link s _ fun _ => ⟨rfl, rfl⟩

theorem Unlinked.settle (s : State) (old : LinkView) : F (s.settle old) = F s := by
  unfold State.settle
  extract_lets now lostUp s₁ s₂ s₃ s₄ s₅
  have h₁ : F s₁ = F s := (hF.loseTimeLink _ old).trans (holds_ite (P := fun t => F t = F s) (hF.loseUploads s) rfl)
  have h₂ : F s₂ = F s := holds_ite (P := fun t => F t = F s) ((hF.dropGone s₁).trans h₁) h₁
  have h₃ : F s₃ = F s := holds_ite (P := fun t => F t = F s) ((hF.askLocks s₂).trans h₂) h₂
  have h₄ : F s₄ = F s := holds_ite (P := fun t => F t = F s) ((hF.time s₃ _).trans h₃) h₃
  have h₅ : F s₅ = F s := holds_ite (P := fun t => F t = F s) ((hF.map s₄ _).trans h₄) h₄
  exact holds_ite (P := fun t => F t = F s) ((hF.sendUp s₅ ..).trans h₅) h₅

theorem Unlinked.tellDevices (s : State) (anew : Bool) : F (s.tellDevices anew) = F s :=
  foldl_unseen (fun s _ => hF.sendObject s ..) _ s

theorem Unlinked.judgeStrap (s : State) : F s.judgeStrap = F s :=
  holds_ite (P := fun t => F t = F s) (hF.err1 ..) rfl

theorem Unlinked.updateDist (s : State) : F s.updateDist = F s := by
  unfold State.updateDist
  extract_lets old
  have step (d : Nat) (par : Option Nat) : F (if d == 8 && decide (old < 8)
      then (s.modLink (fun l => { l with dist := d, parent := if d == 8 then none else par })).err1 2 6
      else s.modLink (fun l => { l with dist := d, parent := if d == 8 then none else par })) = F s :=
    holds_ite (P := fun t => F t = F s) ((hF.err1 ..).trans (hF.link s _ fun _ => ⟨rfl, rfl⟩)) (hF.link s _ fun _ => ⟨rfl, rfl⟩)
  exact holds_ite (P := fun t => F t = F s) rfl (step _ _)

theorem Unlinked.sideband (s : State) (ids : List Nat) : F (s.sideband ids) = F s :=
  (foldl_unseen (fun s _ => hF.tiers s _) _ _).trans (hF.fab s _)

theorem Unlinked.linkState (s : State) (p : Nat) (up : Bool) : F (s.linkState p up) = F s := hF.deaf.event s _ _

theorem Unlinked.takeMapBack (s : State) : F s.takeMapBack = F s := by
  unfold State.takeMapBack
  refine holds_ite (P := fun t => F t = F s) ?_ rfl
  split
  · exact (hF.sendObject ..).trans (hF.link s _ fun _ => ⟨rfl, rfl⟩)
  · rfl

/-- A port that goes down, apart from its own entry. -/
theorem Unlinked.portDown (s : State) (p : Nat) (st : MpState) : F (s.portDown p st) =
    F (s.modMp p (fun m => { m with state := st, since := dtOf s, hello := none, trained := false, rx := [], txq := [] })) := by
  unfold State.portDown
  extract_lets was s₁ s₂
  have h₂ : F s₂ = F s₁ := hF.link s₁ _ fun _ => ⟨rfl, rfl⟩
  refine holds_ite (P := fun t => F t = F s₁) ?_ h₂
  rw [hF.judgeStrap, hF.updateDist, hF.linkState, hF.sideband, h₂]

theorem Unlinked.linkLost (s : State) (p : Nat) (st : MpState) : F (s.linkLost p st) =
    F (s.modMp p (fun m => { m with state := st, since := dtOf s, hello := none, trained := false, rx := [], txq := [] })) := by
  unfold State.linkLost
  extract_lets old t
  rw [hF.tellDevices, hF.settle, ← hF.portDown]
  exact hF.link _ _ fun _ => ⟨rfl, rfl⟩

end Unlinked

/-! ### One port -/

theorem mpAt_modMp_self {s : State} {p : Nat} (hp : p < s.core.link.ports.length) (f : MpPort → MpPort) : mpAt (s.modMp p f) p = f (mpAt s p) :=
  getD_updAt_self _ _ _ _ hp

theorem mpAt_modMp_other (s : State) {p q : Nat} (f : MpPort → MpPort) (h : q ≠ p) : mpAt (s.modMp p f) q = mpAt s q :=
  getD_updAt_other _ _ _ _ _ h

theorem nMirden_le (s : State) : nMirden s ≤ 4 := by
  unfold nMirden
  split <;> omega

/-- Of a port that is lost all stands as its going down left it but what waits to be sent. -/
theorem linkLost_port {s : State} {p : Nat} (hp : p < s.core.link.ports.length) (st : MpState) :
    unsent (mpAt (s.linkLost p st) p) =
      unsent { mpAt s p with state := st, since := dtOf s, hello := none, trained := false, rx := [], txq := [] } :=
  (unsent_mpAt_of_view (unlinked_portView.linkLost s p st) p).trans (congrArg unsent (mpAt_modMp_self hp _))

theorem port_of_unsent {m m' : MpPort} (h : unsent m = unsent m') :
    m.state = m'.state ∧ m.hello = m'.hello ∧ m.since = m'.since ∧ m.trained = m'.trained ∧ m.rxCtr = m'.rxCtr ∧ m.txCtr = m'.txCtr ∧
      m.dist = m'.dist ∧ m.clockQ = m'.clockQ ∧ m.rx = m'.rx ∧ m.rxStamp = m'.rxStamp := by
  obtain ⟨⟩ := m
  obtain ⟨⟩ := m'
  simp only [unsent, MpPort.mk.injEq] at h
  simp [h]

theorem linkLost_facts {s : State} {p : Nat} (hp : p < s.core.link.ports.length) (st : MpState) :
    (mpAt (s.linkLost p st) p).state = st ∧ (mpAt (s.linkLost p st) p).hello = none ∧ (mpAt (s.linkLost p st) p).since = dtOf s := by
  obtain ⟨hstate, hhello, hsince, -⟩ := port_of_unsent (linkLost_port hp st)
  exact ⟨hstate, hhello, hsince⟩

theorem linkLost_hat (s : State) (p : Nat) (st : MpState) : (s.linkLost p st).core.hat = s.core.hat := unlinked_hat.linkLost s p st

/-! ### DELTA_INTERVAL_SET and LINK_RETRAIN (R482, R492) -/

theorem isKeeper_taken (s : State) (h : Nat) : isKeeper (taken s h) = isKeeper s := taken_unseen isKeeper (fun _ _ _ _ _ _ => rfl) s h

theorem deltaIntervalSetBody_ok {r : Req} {s : State} (hk : isKeeper s = true) (hlow : 10 ≤ r.u16 0) (hhigh : r.u16 0 ≤ 10000) :
    deltaIntervalSetBody r s =
      (s.modLink (fun l => { l with deltaMs := r.u16 0, lastTick := dtOf s / (1000000 * r.u16 0) })).place r.h 0x00 := by
  unfold deltaIntervalSetBody
  dsimp only
  rw [guarded_pass (by simp [hk, hlow, hhigh])]

theorem deltaIntervalSetBody_elsewhere {r : Req} {s : State} (hk : isKeeper s = false) : deltaIntervalSetBody r s = s.place r.h 0x15 := by
  unfold deltaIntervalSetBody
  dsimp only
  rw [hk, guarded_cons_of_fail rfl]

theorem deltaIntervalSetBody_range {r : Req} {s : State} (hk : isKeeper s = true) (hr : r.u16 0 < 10 ∨ 10000 < r.u16 0) :
    deltaIntervalSetBody r s = s.place r.h 0x11 := by
  unfold deltaIntervalSetBody
  dsimp only
  rw [hk, guarded_cons_of_pass rfl, guarded_cons_of_fail]
  rcases hr with hr | hr <;> simp [Nat.not_le.2 hr]

theorem mirdenCheck_present {s : State} {p : Nat} (hp : p < nMirden s) : mirdenCheck s p = none := by
  have hle := nMirden_le s
  rw [mirdenCheck, if_neg (by omega), if_pos hp]

theorem linkRetrainBody_held {r : Req} {s : State} (hp : r.u8 0 < nMirden s) (hh : (mpAt s (r.u8 0)).state = .held) :
    linkRetrainBody r s = s.place r.h 0x15 := by
  unfold linkRetrainBody
  simp [State.guarded, mirdenCheck_present hp, hh, need, firstOf]

/-- A port retrained from a state: it is lost to training, and LINK_STATE tells of it in either case. -/
def retrained (s : State) (p : Nat) (up : Bool) : State := if up then s.linkLost p .training else (s.linkLost p .training).linkState p false

theorem retrained_hat (s : State) (p : Nat) (up : Bool) : (retrained s p up).core.hat = s.core.hat :=
  holds_ite (P := fun t : State => t.core.hat = s.core.hat) (linkLost_hat s p _) ((event_hat _ _ _).trans (linkLost_hat s p _))

theorem retrained_link (s : State) (p : Nat) (up : Bool) : (retrained s p up).core.link = (s.linkLost p .training).core.link :=
  holds_ite (P := fun t : State => t.core.link = (s.linkLost p .training).core.link) rfl
    (congrArg Core.link (quiet_event _ _ _) : (quiet _).link = (quiet (s.linkLost p .training)).link)

theorem retrained_port {s : State} {p : Nat} (hp : p < s.core.link.ports.length) (up : Bool) :
    (mpAt (retrained s p up) p).state = .training ∧ (mpAt (retrained s p up) p).hello = none ∧
      (mpAt (retrained s p up) p).since = dtOf s := by
  rw [mpAt, retrained_link]
  exact linkLost_facts hp .training

theorem linkRetrainBody_ok {r : Req} {s : State} (hp : r.u8 0 < nMirden s) (hh : (mpAt s (r.u8 0)).state ≠ .held) :
    linkRetrainBody r s =
      retrained (s.accept r.h (.linkRetrain (r.u8 0) (dtOf s + 1000000000))) (r.u8 0) ((mpAt s (r.u8 0)).state == .up) := by
  unfold linkRetrainBody retrained
  dsimp only
  rw [guarded_pass (by simp [mirdenCheck_present hp, hh])]

theorem exec_linkRetrainTimeout {s : State} {h n due : Nat} (hr : running s = true) (hj : jobAt s h = some (.linkRetrain n due))
    (hd : due < dtOf s) : exec (.linkRetrainTimeout h) s =
      .next (s.place h (if (mpAt s n).state == .up then 0x00 else 0x20) (leBytes 1 (mpCode (mpAt s n).state))) := by
  change execLinkRetrainTimeout h s = _
  rw [execLinkRetrainTimeout, hj]
  exact congrArg Host.Outcome.next (if_pos (by simp [hr, hd]))

/-- A retrain that is accepted: the hatch holds the job, and the port is lost to training. -/
theorem linkRetrain_accepted {s : State} {h : Nat} {p : List Byte} (ht : takes s h 0x0B03 p = true) (hp : fieldAt p 0 1 < nMirden s)
    (hh : (mpAt s (fieldAt p 0 1)).state ≠ .held) (hlen : s.core.link.ports.length = 4) :
    ∃ t, exec (.linkRetrain h) s = .next t ∧ (mpAt t (fieldAt p 0 1)).state = .training ∧ (mpAt t (fieldAt p 0 1)).hello = none ∧
      (mpAt t (fieldAt p 0 1)).since = dtOf s ∧ Answered s h 0x01 [] t ∧
      jobAt t h = some (.linkRetrain (fieldAt p 0 1) (dtOf s + 1000000000)) := by
  have hport (n : Nat) : mpAt (taken s h) n = mpAt s n := taken_unseen (mpAt · n) (fun _ _ _ _ _ _ => rfl) s h
  have hdt : dtOf (taken s h) = dtOf s := dtOf_of_quiet (quiet_taken s h)
  have hmir : nMirden (taken s h) = nMirden s := taken_unseen nMirden (fun _ _ _ _ _ _ => rfl) s h
  have hlink : (taken s h).core.link = s.core.link := taken_unseen (fun s => s.core.link) (fun _ _ _ _ _ _ => rfl) s h
  have hbody : linkRetrainBody (requestIn s h p) (taken s h) =
      retrained ((taken s h).accept h (.linkRetrain (fieldAt p 0 1) (dtOf s + 1000000000))) (fieldAt p 0 1)
        ((mpAt (taken s h) (fieldAt p 0 1)).state == .up) := by
    rw [← hdt]
    exact linkRetrainBody_ok (r := requestIn s h p) (hmir ▸ hp) ((congrArg MpPort.state (hport _)).trans_ne hh)
  refine ⟨_, next_of_takes ht hbody, ?_⟩
  obtain ⟨ha, hj, -⟩ := (open_taken ht).answered_accept (.linkRetrain (fieldAt p 0 1) (dtOf s + 1000000000))
  have hq := quiet_accept (taken s h) h (.linkRetrain (fieldAt p 0 1) (dtOf s + 1000000000))
  generalize (taken s h).accept h (.linkRetrain (fieldAt p 0 1) (dtOf s + 1000000000)) = u at ha hj hq ⊢
  generalize ((mpAt (taken s h) (fieldAt p 0 1)).state == .up) = up
  have hulink : u.core.link = (taken s h).core.link := (congrArg Core.link hq : (quiet u).link = (quiet (taken s h)).link)
  have hulen : fieldAt p 0 1 < u.core.link.ports.length := by
    rw [hulink, hlink, hlen]
    exact lt_of_lt_of_le hp (nMirden_le s)
  obtain ⟨hstate, hhello, hsince⟩ := retrained_port hulen up
  have hhat := retrained_hat u (fieldAt p 0 1) up
  have hjob : jobAt (retrained u (fieldAt p 0 1) up) h = jobAt u h := by rw [jobAt, jobAt, ctlAt, ctlAt, hhat]
  exact ⟨hstate, hhello, hsince.trans ((dtOf_of_quiet hq).trans hdt), ha.of_hat hhat, hjob.trans hj⟩

/-- Settles O28. -/
theorem linkCommandsTakeEffect : Obligations.LinkCommandsTakeEffect := by
  unfold Obligations.LinkCommandsTakeEffect
  intro s h p
  refine ⟨fun ht hk hlow hhigh => ?set, fun ht hk => ?elsewhere, fun ht hk hr => ?range, fun ht hp hh => ?held,
    fun ht hp hh hlen => ?retrain, fun n due hh hr hj hd => ?timeout⟩
  case set =>
    have hdt : dtOf (taken s h) = dtOf s := dtOf_of_quiet (quiet_taken s h)
    have hbody := deltaIntervalSetBody_ok (r := requestIn s h p) ((isKeeper_taken s h).trans hk) hlow hhigh
    rw [hdt] at hbody
    exact responds_of_takes ht hbody (((laid_of_takes ht).modLink _).place 0x00 [] (by decide))
  case elsewhere =>
    exact responds_of_takes ht (deltaIntervalSetBody_elsewhere (r := requestIn s h p) ((isKeeper_taken s h).trans hk))
      ((laid_of_takes ht).place 0x15 [] (by decide))
  case range =>
    exact responds_of_takes ht (deltaIntervalSetBody_range (r := requestIn s h p) ((isKeeper_taken s h).trans hk) hr)
      ((laid_of_takes ht).place 0x11 [] (by decide))
  case held =>
    have hport : mpAt (taken s h) (fieldAt p 0 1) = mpAt s (fieldAt p 0 1) := taken_unseen (mpAt · _) (fun _ _ _ _ _ _ => rfl) s h
    have hmir : nMirden (taken s h) = nMirden s := taken_unseen nMirden (fun _ _ _ _ _ _ => rfl) s h
    exact responds_of_takes ht (linkRetrainBody_held (r := requestIn s h p) (hmir ▸ hp) ((congrArg MpPort.state hport).trans hh))
      ((laid_of_takes ht).place 0x15 [] (by decide))
  case retrain =>
    obtain ⟨t, hexec, hstate, hhello, hsince, ha, hj⟩ := linkRetrain_accepted ht hp hh hlen
    exact ⟨t, hexec, hstate, hhello, hsince, fun _ => ⟨ha, hj⟩⟩
  case timeout =>
    rw [exec_linkRetrainTimeout hr hj hd]
    have hl := (open_of_job hh hj).laid
    by_cases hup : (mpAt s n).state = .up
    · rw [if_pos hup, if_pos (by simp [hup])]
      exact hl.place 0x00 _ (by decide)
    · rw [if_neg hup, if_neg (by simp [hup])]
      exact hl.place 0x20 _ (by decide)

end Sys2Proof.Machine
end

section
/-! Ports that train, come up and fall (R480, R481, R483, R484). -/
namespace Sys2Proof.Machine

/-! ### Noise on links -/

section QuietLinks
variable {s t : State} (h : quiet t = quiet s)
include h
theorem link_of_quiet : t.core.link = s.core.link := (congrArg Core.link h : (quiet t).link = (quiet s).link)
theorem mpAt_of_quiet (n : Nat) : mpAt t n = mpAt s n := by rw [mpAt, link_of_quiet h, mpAt]
theorem counters_of_quiet : t.core.obs.counters = s.core.obs.counters :=
  (congrArg (fun c : Core => c.obs.counters) h : (quiet t).obs.counters = (quiet s).obs.counters)
end QuietLinks

/-! ### Attempts that begin and fail -/

theorem exec_mpSignalPoll (n : Nat) (signal : Bool) (s : State) : exec (.mpSignalPoll n signal) s = .next
    (if linksRun s && decide (n < nMirden s) && signal && (mpAt s n).state == .absent then s.trainBegin n else s) := rfl

theorem exec_mpRetryTimer (n : Nat) (s : State) : exec (.mpRetryTimer n) s = .next
    (if linksRun s && decide (n < nMirden s) && (mpAt s n).state == .failed && decide ((mpAt s n).since + 1000000000 ≤ dtOf s)
      then s.trainBegin n else s) := rfl

theorem trainBegin_ports {s : State} {n : Nat} (hn : n < s.core.link.ports.length) :
    mpAt (s.trainBegin n) n = { mpAt s n with state := .training, since := dtOf s } ∧ ∀ m, m ≠ n → mpAt (s.trainBegin n) m = mpAt s m :=
  ⟨mpAt_modMp_self hn _, fun _ hm => mpAt_modMp_other s _ hm⟩

/-- A failed attempt: the port and its counter. -/
theorem trainFail_port {s : State} {n : Nat} (hn : n < s.core.link.ports.length) :
    (mpAt (s.trainFail n) n).state = .failed ∧ (mpAt (s.trainFail n) n).since = dtOf s ∧
      NMap.getD (s.trainFail n).core.obs.counters (linkPortCtr n 0) 0 = NMap.getD s.core.obs.counters (linkPortCtr n 0) 0 + 1 := by
  unfold State.trainFail
  extract_lets t
  have hq : quiet ((t.bump (linkPortCtr n 0) 1).err1 2 5 n) = quiet (t.bump (linkPortCtr n 0) 1) := quiet_err1 ..
  have hport : mpAt (t.bump (linkPortCtr n 0) 1) n = mpAt t n := rfl
  rw [mpAt_of_quiet hq, counters_of_quiet hq, hport, mpAt_modMp_self hn]
  exact ⟨rfl, rfl, counted_bump t (linkPortCtr n 0) 1⟩

/-! ### The end of training -/

/-- The time differences of a hello are reported. -/
def noted (s : State) (n : Nat) (hello : Hello) : State :=
  if hello.numerology != s.core.air.mu || hello.epoch != s.core.air.epoch then s.err1 2 3 n else s

/-- The training of an accepted hello is counted. -/
def counted (s : State) (n : Nat) (hello : Hello) : State := (noted s n hello).modLink (fun l => { l with trainings := l.trainings + 1 })

/-- An authentic partner takes its place at the port, with the keys of this training. -/
def partnered (s : State) (n : Nat) (hello : Hello) : State :=
  (counted s n hello).modMp n (fun m =>
    { m with hello := some hello, kIn := (linkKeys (noted s n hello) hello).1, kOut := (linkKeys (noted s n hello) hello).2 })

/-- The partner's DEVID is this device's own. -/
def sameDevid (s : State) (hello : Hello) : Bool := hello.locked && hello.inTime && hello.devid == s.core.sys.devid

theorem exec_mpTrainingEnd {s : State} {n : Nat} (hn : n < nMirden s) (hr : linksRun s = true) (hst : (mpAt s n).state = .training)
    (htr : (mpAt s n).trained = false) (hello : Hello) : exec (.mpTrainingEnd n hello) s = .next
      (if !helloOk s hello || sameDevid s hello then (if sameDevid s hello then s.err1 2 2 n else s).trainFail n
      else if !hello.authentic then ((counted s n hello).err1 2 0 n).trainFail n
      else if (partnered s n hello).core.link.decided then (partnered s n hello).trainedUp n
      else (partnered s n hello).modMp n (fun m => { m with trained := true })) := by
  change execMpTrainingEnd n hello s = _
  exact congrArg Host.Outcome.next (if_pos (by simp [hn, hr, hst, htr]))

section Hello
variable {s : State} {n : Nat} (hello : Hello)

theorem noted_quiet : quiet (noted s n hello) = quiet s := holds_ite (P := fun t => quiet t = quiet s) (quiet_err1 ..) rfl

theorem counted_facts : (counted s n hello).core.link.ports = s.core.link.ports ∧ dtOf (counted s n hello) = dtOf s ∧
    (counted s n hello).core.obs.counters = s.core.obs.counters ∧ (counted s n hello).core.link.decided = s.core.link.decided := by
  have hq := noted_quiet (s := s) (n := n) hello
  have hlink := link_of_quiet hq
  have hdt := dtOf_of_quiet hq
  have hctr := counters_of_quiet hq
  have hports := congrArg Link.ports hlink
  have hdec := congrArg Link.decided hlink
  exact ⟨hports, hdt, hctr, hdec⟩

/-- R481: what fails an attempt, counted once. -/
theorem trainingEnd_fails (hn : n < nMirden s) (hlen : s.core.link.ports.length = 4) (hr : linksRun s = true)
    (hst : (mpAt s n).state = .training) (htr : (mpAt s n).trained = false)
    (hbad : helloOk s hello = false ∨ hello.devid = s.core.sys.devid ∨ hello.authentic = false) :
    ∃ t, exec (.mpTrainingEnd n hello) s = .next t ∧ (mpAt t n).state = .failed ∧ (mpAt t n).since = dtOf s ∧
      NMap.getD t.core.obs.counters (linkPortCtr n 0) 0 = NMap.getD s.core.obs.counters (linkPortCtr n 0) 0 + 1 := by
  have hlt : n < s.core.link.ports.length := hlen ▸ lt_of_lt_of_le hn (nMirden_le s)
  rw [exec_mpTrainingEnd hn hr hst htr]
  refine ⟨_, rfl, ?_⟩
  by_cases hfirst : (!helloOk s hello || sameDevid s hello) = true
  · rw [if_pos hfirst]
    have hq : quiet (if sameDevid s hello then s.err1 2 2 n else s) = quiet s :=
      holds_ite (P := fun t => quiet t = quiet s) (quiet_err1 ..) rfl
    obtain ⟨h1, h2, h3⟩ := trainFail_port (s := if sameDevid s hello then s.err1 2 2 n else s) (n := n) (by rwa [link_of_quiet hq])
    exact ⟨h1, h2.trans (dtOf_of_quiet hq), h3.trans (by rw [counters_of_quiet hq])⟩
  · have hauth : hello.authentic = false := by
      simp only [Bool.or_eq_true, Bool.not_eq_true', not_or, Bool.not_eq_false, sameDevid, helloOk, Bool.and_eq_true, beq_iff_eq,
        not_and] at hfirst hbad
      rcases hbad with hbad | hbad | hbad
      · simp_all
      · exact absurd hbad (hfirst.2 ⟨hfirst.1.1.1.1.1, hfirst.1.1.1.1.2⟩)
      · exact hbad
    rw [if_neg hfirst, if_pos (by simp [hauth])]
    obtain ⟨hports, hdt, hctr, -⟩ := counted_facts (s := s) (n := n) hello
    have hq : quiet ((counted s n hello).err1 2 0 n) = quiet (counted s n hello) := quiet_err1 ..
    obtain ⟨h1, h2, h3⟩ := trainFail_port (s := (counted s n hello).err1 2 0 n) (n := n) (by rw [link_of_quiet hq, hports]; exact hlt)
    exact ⟨h1, h2.trans ((dtOf_of_quiet hq).trans hdt), h3.trans (by rw [counters_of_quiet hq, hctr])⟩

/-- A port that comes UP (R481, R484): its entry but for what waits to be sent. -/
theorem trainedUp_port {u : State} (hlt : n < u.core.link.ports.length) :
    (mpAt (u.trainedUp n) n).state = .up ∧ (mpAt (u.trainedUp n) n).since = dtOf u ∧ (mpAt (u.trainedUp n) n).hello = (mpAt u n).hello := by
  have hview : portView (u.trainedUp n) = portView (u.modMp n (fun m =>
      { m with state := .up, since := dtOf u, trained := false, txCtr := 0, rxCtr := 0, rejects := [], rx := [], txq := [],
               dist := 8, clockQ := 2, txStamp := none, rxStamp := none })) := by
    unfold State.trainedUp
    extract_lets old v w
    refine (foldl_unseen (fun s h => place_unseen portView (fun _ _ _ _ _ _ _ _ => rfl) s h _ _) _ w).trans ?_
    refine (unlinked_portView.tellDevices v false).trans ((unlinked_portView.settle _ old).trans ?_)
    rw [unlinked_portView.judgeStrap, unlinked_portView.updateDist]
    exact (unlinked_portView.linkState _ n true).trans (unlinked_portView.fab _ _)
  have h := unsent_mpAt_of_view hview n
  rw [mpAt_modMp_self hlt] at h
  obtain ⟨hstate, hhello, hsince, -⟩ := port_of_unsent h
  exact ⟨hstate, hsince, hhello⟩

/-- R481, R484: an authentic partner's port comes UP, or waits for the end of ST5. -/
theorem trainingEnd_passes (hn : n < nMirden s) (hlen : s.core.link.ports.length = 4) (hr : linksRun s = true)
    (hst : (mpAt s n).state = .training) (htr : (mpAt s n).trained = false) (hok : helloOk s hello = true)
    (hdev : hello.devid ≠ s.core.sys.devid) (hauth : hello.authentic = true) :
    ∃ t, exec (.mpTrainingEnd n hello) s = .next t ∧ (mpAt t n).hello = some hello ∧
      (s.core.link.decided = false → (mpAt t n).trained = true ∧ (mpAt t n).state = .training) ∧
      (s.core.link.decided = true → (mpAt t n).state = .up ∧ (mpAt t n).since = dtOf s) := by
  have hlt : n < s.core.link.ports.length := hlen ▸ lt_of_lt_of_le hn (nMirden_le s)
  obtain ⟨hports, hdt, -, hdec⟩ := counted_facts (s := s) (n := n) hello
  have hlt' : n < (counted s n hello).core.link.ports.length := by rwa [hports]
  have hlt'' : n < (partnered s n hello).core.link.ports.length := by
    unfold partnered State.modMp
    simpa [length_updAt] using hlt'
  have hpart : (mpAt (partnered s n hello) n).hello = some hello ∧ (mpAt (partnered s n hello) n).state = .training := by
    rw [partnered, mpAt_modMp_self hlt']
    refine ⟨rfl, ?_⟩
    rw [mpAt, hports]
    exact hst
  have hdec' : (partnered s n hello).core.link.decided = s.core.link.decided := hdec
  rw [exec_mpTrainingEnd hn hr hst htr, if_neg (by simp [hok, sameDevid, hdev]), if_neg (by simp [hauth]), hdec']
  refine ⟨_, rfl, ?_⟩
  by_cases hd : s.core.link.decided = true
  · rw [if_pos hd]
    obtain ⟨h1, h2, h3⟩ := trainedUp_port hlt''
    exact ⟨h3.trans hpart.1, fun h => absurd hd (by simp [h]), fun _ => ⟨h1, h2.trans hdt⟩⟩
  · rw [if_neg hd, mpAt_modMp_self hlt'']
    exact ⟨hpart.1, fun _ => ⟨rfl, hpart.2⟩, fun h => absurd h hd⟩

end Hello

/-! ### A signal lost -/

theorem exec_mpSignalLost {s : State} {n : Nat} (hn : n < nMirden s) (hr : running s = true) (hup : (mpAt s n).state = .up) :
    exec (.mpSignalLost n) s = .next (s.linkLost n .absent) := by
  change execMpSignalLost n s = _
  exact congrArg Host.Outcome.next (if_pos (by simp [hn, hr, hup]))

/-- Settles O29: a port's state after each of its changes, and the partner's hello. -/
theorem portsTrainAndFall : Obligations.PortsTrainAndFall := by
  unfold Obligations.PortsTrainAndFall
  intro s n hn hlen
  have hlt : n < s.core.link.ports.length := hlen ▸ lt_of_lt_of_le hn (nMirden_le s)
  refine ⟨fun hr hst => ?begins, ?silent, fun hr hst hdue => ?retries, fun hello hr hst htr => ⟨?fails, ?passes⟩, fun hr hup => ?lost⟩
  case begins =>
    rw [exec_mpSignalPoll, if_pos (by simp [hr, hn, hst])]
    exact ⟨_, rfl, trainBegin_ports hlt⟩
  case silent =>
    rw [exec_mpSignalPoll, if_neg (by simp)]
  case retries =>
    rw [exec_mpRetryTimer, if_pos (by simp [hr, hn, hst, hdue])]
    exact ⟨_, rfl, trainBegin_ports hlt⟩
  case fails => exact trainingEnd_fails hello hn hlen hr hst htr
  case passes => exact trainingEnd_passes hello hn hlen hr hst htr
  case lost =>
    exact ⟨_, exec_mpSignalLost hn hr hup, linkLost_facts hlt .absent⟩

end Sys2Proof.Machine
end

section
/-! What the keeper does for the system (R489, R492, R494): delta batches, grants of locks, catch-ups. -/
namespace Sys2Proof.Machine

/-! ### Grants -/

theorem not_mem_of_disjoint {a b : List Nat} (h : disjoint a b = true) {i : Nat} (ha : i ∈ a) : i ∉ b := by
  simp only [disjoint, List.all_eq_true] at h
  simpa using h i ha

theorem disjoint_of_grantable {s : State} {ls : List TileLock} {r : TileLock} (h : grantable s ls r = true) :
    ∀ k ∈ ls, ∀ i ∈ k.tiles, i ∉ r.tiles := by
  simp only [grantable, Bool.and_eq_true, List.all_eq_true] at h
  exact fun k hk i hi => not_mem_of_disjoint (h.1 k hk) hi

/-- What may be granted now was asked for, and meets no lock held. -/
theorem of_mem_grantsNow {s : State} {r : TileLock} (h : r ∈ grantsNow s) :
    r ∈ s.core.link.requests ∧ ∀ k ∈ s.core.link.locks, ∀ i ∈ k.tiles, i ∉ r.tiles := by
  have walk (l : List TileLock) : ∀ b : List TileLock × List TileLock, b.1 = s.core.link.locks →
      (∀ x ∈ b.2, x ∈ s.core.link.requests ∧ ∀ k ∈ s.core.link.locks, ∀ i ∈ k.tiles, i ∉ x.tiles) → (∀ x ∈ l, x ∈ s.core.link.requests) →
      ∀ x ∈ (l.foldl (fun (b : List TileLock × List TileLock) r =>
        if grantable s (b.1 ++ b.2) r then (b.1, b.2 ++ [r]) else b) b).2,
        x ∈ s.core.link.requests ∧ ∀ k ∈ s.core.link.locks, ∀ i ∈ k.tiles, i ∉ x.tiles := by
    induction l with
    | nil => exact fun b _ hb _ => hb
    | cons y l ih =>
      intro b hlocks hb hl
      have hrest : ∀ x ∈ l, x ∈ s.core.link.requests := fun x hx => hl x (List.mem_cons_of_mem _ hx)
      rw [List.foldl_cons]
      by_cases hg : grantable s (b.1 ++ b.2) y = true
      · rw [if_pos hg]
        refine ih _ hlocks (fun x hx => ?_) hrest
        rcases List.mem_append.1 hx with hx | hx
        · exact hb x hx
        · obtain rfl := List.mem_singleton.1 hx
          exact ⟨hl x List.mem_cons_self, fun k hk => disjoint_of_grantable hg k (List.mem_append_left _ (hlocks ▸ hk))⟩
      · rw [if_neg hg]
        exact ih b hlocks hb hrest
  exact walk _ _ rfl (by simp) (fun _ hx => hx) r h

/-! ### Objects on their way down -/

/-- The map, the time of the last tick and the count of delta batches. -/
def batchView (s : State) : MapSt × Nat × Nat :=
  (s.core.map, s.core.link.lastTick, NMap.getD s.core.obs.counters (linkCtr 0) 0)

theorem batchDown_view (s : State) (ports : List Nat) (b : List Byte) : batchView (s.batchDown ports b) = batchView s := by
  unfold State.batchDown
  refine foldl_unseen (fun s p => ?_) ports s
  split
  · rfl
  · extract_lets held j' t
    refine holds_ite (P := fun t => batchView t = batchView s) rfl ?_
    have hctr : NMap.getD ((t.bump (linkCtr 3) 1).core.obs.counters) (linkCtr 0) 0 = NMap.getD t.core.obs.counters (linkCtr 0) 0 :=
      counted_bump_other t 1 (by decide)
    exact Prod.ext rfl (Prod.ext rfl hctr)

/-! ### The tick (R492) -/

theorem takeMapBack_of_not_owed {s : State} (h : mapOwed s = false) : s.takeMapBack = s := by
  rw [State.takeMapBack, h]
  rfl

/-- The state in which a tick finds what to send. -/
def ticked (s : State) : State := s.modLink (fun l => { l with lastTick := dtOf s / (1000000 * s.core.link.deltaMs) })

/-- A batch of what is dirty and of what was asked for again. -/
def batchObject (u : State) : List Byte :=
  downObject u 0 u.core.map.batchFrom u.core.map.version.toNat ((u.core.map.dirty ++ u.core.link.resend).eraseDups)

/-- The batch is made: nothing is dirty any more, and the log holds it. -/
def batchLogged (u : State) : State :=
  (u.modMap (fun m => { m with dirty := [], batchFrom := m.version.toNat })).modLink (fun l => { l with
    resend := []
    log := trimLog (l.log ++ [(u.core.map.batchFrom, u.core.map.version.toNat, batchObject u)]) })

/-- The batch is counted. -/
def batchCounted (u : State) : State := ((batchLogged u).bump (linkCtr 0) 1).bump (linkCtr 1) (batchObject u).length

/-- What a tick does once its number is taken. -/
def batchSent (u : State) : State :=
  if u.core.map.dirty.isEmpty || !u.core.map.inService || u.core.link.joining.isSome then u
  else (batchCounted u).batchDown (childPorts (batchLogged u)) (batchObject u)

section Tick
variable {s : State} (hr : running s = true) (ho : mapOwed s = false) (hk : isKeeper s = true)
  (ht : s.core.link.lastTick < dtOf s / (1000000 * s.core.link.deltaMs))
include hr ho hk ht

theorem exec_deltaBatchTick : exec .deltaBatchTick s = .next (batchSent (ticked s)) := by
  have howed : mapOwed (ticked s) = false := ho
  have hback : (ticked s).takeMapBack = ticked s := takeMapBack_of_not_owed howed
  change execDeltaBatchTick s = _
  unfold execDeltaBatchTick
  refine congrArg Host.Outcome.next ((if_pos (by simp [hr, hk, ht])).trans ?_)
  rw [← hback]
  rfl

theorem deltaBatchTick_sends (hj : s.core.link.joining = none) (hd : s.core.map.dirty ≠ []) (hs : s.core.map.inService = true) :
    ∃ t, exec .deltaBatchTick s = .next t ∧ t.core.map.dirty = [] ∧ t.core.map.batchFrom = s.core.map.version.toNat ∧
      t.core.link.lastTick = dtOf s / (1000000 * s.core.link.deltaMs) ∧ t.core.map.data = s.core.map.data ∧
      NMap.getD t.core.obs.counters (linkCtr 0) 0 = NMap.getD s.core.obs.counters (linkCtr 0) 0 + 1 := by
  have hview := batchDown_view (batchCounted (ticked s)) (childPorts (batchLogged (ticked s))) (batchObject (ticked s))
  have hsent : batchSent (ticked s) = (batchCounted (ticked s)).batchDown (childPorts (batchLogged (ticked s))) (batchObject (ticked s)) :=
    if_neg (by simp [ticked, hj, hd, hs])
  have hctr : Counted (batchLogged (ticked s)) (linkCtr 0) (1 + 0) (batchCounted (ticked s)) :=
    (counted_bump _ (linkCtr 0) 1).trans (counted_bump_other _ _ (by decide))
  rw [exec_deltaBatchTick hr ho hk ht, hsent]
  refine ⟨_, rfl, ?_⟩
  generalize (batchCounted (ticked s)).batchDown _ _ = t at hview ⊢
  simp only [batchView, Prod.mk.injEq] at hview
  obtain ⟨hmap, htick, hcount⟩ := hview
  rw [hmap, htick]
  exact ⟨rfl, rfl, rfl, rfl, hcount.trans hctr⟩

end Tick

/-! ### Grants and catch-ups -/

theorem exec_mapLockGrant {s : State} (hr : running s = true) (ho : mapOwed s = false) (hk : isKeeper s = true)
    (hs : s.core.map.inService = true) (hj : s.core.link.joining = none) : exec .mapLockGrant s = .next
      (match nextGrant s with
       | some r => if r.devid == s.core.sys.devid then s.grant r else (s.grant r).sendDown 3 (ctlObject .lockGrant [r.devid, r.job] [])
       | none => s) := by
  change execMapLockGrant s = _
  unfold execMapLockGrant
  rw [if_pos hr, takeMapBack_of_not_owed ho]
  refine congrArg Host.Outcome.next ((if_pos (by simp [hr, hk, hs, hj, ho])).trans ?_)
  rfl

/-- An object that is queued moves the ports alone. -/
theorem sendObject_core (s : State) (p type : Nat) (b : List Byte) :
    ∃ ports, (s.sendObject p type b).core = { s.core with link := { s.core.link with ports := ports } } := ⟨_, rfl⟩

theorem sendObject_catchUp (s : State) (p type : Nat) (b : List Byte) : (s.sendObject p type b).core.link.catchUp = s.core.link.catchUp := by
  obtain ⟨ports, h⟩ := sendObject_core s p type b
  rw [h]

theorem sendDown_keeps (s : State) (type : Nat) (b : List Byte) : (s.sendDown type b).core.map = s.core.map ∧
    (s.sendDown type b).core.link.locks = s.core.link.locks := by
  have hone (s : State) (p : Nat) : ((s.sendObject p type b).core.map, (s.sendObject p type b).core.link.locks) =
      (s.core.map, s.core.link.locks) := by
    obtain ⟨ports, h⟩ := sendObject_core s p type b
    rw [h]
  exact Prod.ext_iff.1 (foldl_unseen (F := fun s : State => (s.core.map, s.core.link.locks)) hone _ s)

theorem catchUp_sent (s : State) (p : Nat) (l : List (Nat × Nat × List Byte)) :
    (l.foldl (fun s e => s.sendObject p 1 e.2.2) s).core.link.catchUp = s.core.link.catchUp := by
  have hone (s : State) (e : Nat × Nat × List Byte) : (s.sendObject p 1 e.2.2).core.link.catchUp = s.core.link.catchUp :=
    sendObject_catchUp s p 1 e.2.2
  exact foldl_unseen (F := fun s : State => s.core.link.catchUp) hone l s

theorem exec_catchUp {s : State} {n : Nat} {j : Joiner} (hr : running s = true) (ho : mapOwed s = false)
    (hs : s.core.map.inService = true) (hup : (mpAt s n).state = .up)
    (hj : s.core.link.catchUp.find? (fun k => k.port == n && !k.started) = some j) : exec (.catchUp n) s = .next
      (if j.since.isSome && isKeeper s && logReaches s (j.since.getD 0) then
        (s.core.link.log.dropWhile (fun e => e.1 != j.since.getD 0)).foldl (fun s e => s.sendObject n 1 e.2.2)
          (s.modLink (fun l => { l with catchUp := l.catchUp.erase j }))
       else if ((mpAt s n).hello.map (·.devid)) == some j.dev then
        (s.modLink (fun l => { l with catchUp := l.catchUp.map (fun k => if k == j then { k with started := true } else k) })).sendObject n 1
          (downObject s 1 0 s.core.map.version.toNat (allPages s.core.map.data))
       else if isKeeper s then (s.modLink (fun l => { l with catchUp := l.catchUp.erase j })).sendObject n 3
          (ctlObject .batchRequest [j.dev, j.since.getD 0] [])
       else s.modLink (fun l => { l with catchUp := l.catchUp.erase j })) := by
  change execCatchUp n s = _
  rw [execCatchUp, hj]
  exact congrArg Host.Outcome.next (if_pos (by simp [hr, ho, hs, hup]))

/-- Settles O31. -/
theorem keeperServesTheSystem : Obligations.KeeperServesTheSystem := by
  unfold Obligations.KeeperServesTheSystem
  intro s hr ho
  refine ⟨fun hk ht hj => ⟨fun hd hs => deltaBatchTick_sends hr ho hk ht hj hd hs, fun hd => ?idle⟩,
    fun hk hs hj => ⟨fun r hg => ?grant, fun hg => ?none_⟩, fun n j hs hup hj => ⟨fun v hv hk hl => ?logged, fun hne hdev => ?whole⟩⟩
  case idle =>
    rw [exec_deltaBatchTick hr ho hk ht, batchSent, if_pos (by simp [ticked, hd])]
    rfl
  case grant =>
    rw [exec_mapLockGrant hr ho hk hs hj, hg]
    obtain ⟨hmem, hmeet⟩ := of_mem_grantsNow (List.mem_of_mem_head? hg)
    refine ⟨_, rfl, ?_, hmem, hmeet, ?_⟩
    · exact holds_ite (P := fun t : State => t.core.link.locks = s.core.link.locks ++ [r]) rfl (sendDown_keeps (s.grant r) _ _).2
    · exact holds_ite (P := fun t : State => t.core.map = s.core.map) rfl (sendDown_keeps (s.grant r) _ _).1
  case none_ =>
    rw [exec_mapLockGrant hr ho hk hs hj, hg]
  case logged =>
    rw [exec_catchUp hr ho hs hup hj, if_pos (by simp [hv, hk, hl])]
    exact ⟨_, rfl, catchUp_sent _ n _⟩
  case whole =>
    rw [exec_catchUp hr ho hs hup hj, if_neg ?_, if_pos (by simp [hdev])]
    · refine ⟨_, rfl, List.mem_map.2 ⟨j, List.mem_of_find?_eq_some hj, ?_⟩⟩
      rw [if_pos (by simp)]
    · rcases hne with h | h | h <;> simp [h]

end Sys2Proof.Machine
end

section
/-! Frames on a port that is UP (R472, R478, R479, R485, R499, R500): what goes out, and what a received frame does. -/
namespace Sys2Proof.Machine

/-! ### Sending -/

/-- The frame that leaves: a TIME frame every 1,024th, else the first that waits, else a filler. -/
def frameDue (m : MpPort) : TxFrame :=
  if m.txCtr % 1024 = 0 then { type := 4, first := true, last := true, object := 0, index := 0, payload := timePayload m }
  else m.txq.headD { type := 0, first := false, last := false, object := 0, index := 0, payload := [] }

/-- Its bytes, sealed under the port's key. -/
def frameBytes (s : State) (m : MpPort) : List Byte :=
  leBytes 8 m.txCtr ++ gcmSeal m.kOut (linkNonce m.txCtr s.core.sys.devid ((m.hello.map (·.devid)).getD 0)) (leBytes 8 m.txCtr)
    (linkFrame s (frameDue m))

/-- The port after the frame. -/
def frameLeft (s : State) (timed : Bool) (m : MpPort) : MpPort :=
  { m with
    txCtr := (m.txCtr + 1) % 2 ^ 64
    txq := if timed then m.txq else m.txq.drop 1
    txStamp := if timed then some (dt16 s : Int) else m.txStamp }

theorem exec_mpFrameSend {s : State} {n : Nat} (hn : n < nMirden s) (hr : running s = true) (hup : (mpAt s n).state = .up) :
    exec (.mpFrameSend n) s =
      .next (((s.modMp n (frameLeft s ((mpAt s n).txCtr % 1024 == 0))).emit (.mirden n (frameBytes s (mpAt s n)))).endJoiner n) := by
  have hf : frameDue (mpAt s n) = if (mpAt s n).txCtr % 1024 == 0
      then { type := 4, first := true, last := true, object := 0, index := 0, payload := timePayload (mpAt s n) }
      else (mpAt s n).txq.headD { type := 0, first := false, last := false, object := 0, index := 0, payload := [] } := by
    simp only [frameDue, beq_iff_eq]
  change execMpFrameSend n s = _
  have hc : (running s && decide (n < nMirden s) && (mpAt s n).state == .up) = true := by simp [hn, hr, hup]
  unfold execMpFrameSend frameBytes
  rw [hf]
  exact congrArg Host.Outcome.next (if_pos hc)

/-- What has gone out, and the ports but for what waits to be sent. -/
def sentView (s : State) : List Out × List MpPort := (s.out, s.core.link.ports.map unsent)

theorem endJoiner_view (s : State) (p : Nat) : sentView (s.endJoiner p) = sentView s := by
  have hone (s : State) (b : List Byte) : sentView (s.sendObject p 1 b) = sentView s := by
    have hports : (s.sendObject p 1 b).core.link.ports.map unsent = s.core.link.ports.map unsent :=
      congrArg Prod.fst (unlinked_portView.sendObject s p 1 b)
    exact Prod.ext rfl hports
  unfold State.endJoiner
  split
  · exact holds_ite (P := fun t => sentView t = sentView s) rfl (foldl_unseen hone _ _)
  · rfl

theorem mpFrameSend_sends {s : State} {n : Nat} (hn : n < nMirden s) (hlen : s.core.link.ports.length = 4) (hr : running s = true)
    (hup : (mpAt s n).state = .up) : ∃ t, exec (.mpFrameSend n) s = .next t ∧ (mpAt t n).txCtr = ((mpAt s n).txCtr + 1) % 2 ^ 64 ∧
      t.out = s.out ++ [Out.mirden n (frameBytes s (mpAt s n))] := by
  have hlt : n < s.core.link.ports.length := hlen ▸ lt_of_lt_of_le hn (nMirden_le s)
  have hview := endJoiner_view ((s.modMp n (frameLeft s ((mpAt s n).txCtr % 1024 == 0))).emit (.mirden n (frameBytes s (mpAt s n)))) n
  refine ⟨_, exec_mpFrameSend hn hr hup, ?_⟩
  generalize State.endJoiner _ n = t at hview ⊢
  simp only [sentView, Prod.mk.injEq] at hview
  obtain ⟨hout, hports⟩ := hview
  have hport : unsent (mpAt t n) = unsent (frameLeft s ((mpAt s n).txCtr % 1024 == 0) (mpAt s n)) := by
    rw [unsent_mpAt, hports, ← unsent_mpAt]
    exact congrArg unsent (mpAt_modMp_self hlt _)
  exact ⟨(port_of_unsent hport).2.2.2.2.2.1, hout⟩

/-! ### Receiving -/

/-- The plaintext of a frame that opens under the port's counter and key. -/
def frameOpened (s : State) (m : MpPort) (frame : List Byte) : Option (List Byte) :=
  if frame.length = 2088 ∧ fieldAt frame 0 8 = m.rxCtr then
    gcmOpen m.kIn (linkNonce (fieldAt frame 0 8) ((m.hello.map (·.devid)).getD 0) s.core.sys.devid) (bytesAt frame 0 8) (frame.drop 8)
  else none

/-- The state once the sender's values are noted. -/
def senderNoted (s : State) (n : Nat) (f : List Byte) : State := (s.modMp n (fun m => { m with rxCtr := (m.rxCtr + 1) % 2 ^ 64 })).noteSender n f

/-- What a frame does by its type. -/
def framed (u : State) (n stamp : Nat) (f : List Byte) : State :=
  if fieldAt f 0 1 == 4 then u.timeFrame n stamp (bytesAt f 16 2048) else if fieldAt f 0 1 == 0 then u else u.dataFrame n f

/-- What follows every accepted frame: objects that wait are taken, and a map that is owed is asked for. -/
def followed (u : State) : State := (u.takeWaiting u.core.link.waitObj.length).takeMapBack

theorem exec_mpFrameRx {s : State} {n : Nat} (hn : n < nMirden s) (hr : running s = true) (hup : (mpAt s n).state = .up) (frame : List Byte)
    (stamp : Nat) : exec (.mpFrameRx n frame stamp) s = .next (match frameOpened s (mpAt s n) frame with
      | none => s.rejectFrame n
      | some f => followed (framed (senderNoted s n f) n stamp f)) := by
  have ho : frameOpened s (mpAt s n) frame = if frame.length == 2088 && fieldAt frame 0 8 == (mpAt s n).rxCtr then
      gcmOpen (mpAt s n).kIn (linkNonce (fieldAt frame 0 8) (((mpAt s n).hello.map (·.devid)).getD 0) s.core.sys.devid) (bytesAt frame 0 8)
        (frame.drop 8) else none := by
    simp only [frameOpened, Bool.and_eq_true, beq_iff_eq]
  change execMpFrameRx n frame stamp s = _
  rw [ho]
  exact congrArg Host.Outcome.next (if_pos (by simp [hn, hr, hup]))

theorem unlinked_linkPortCtr (p i : Nat) : Unlinked (fun s => NMap.getD s.core.obs.counters (linkPortCtr p i) 0) := by
  refine ⟨⟨fun _ _ => rfl, fun _ _ => rfl, fun _ _ _ => rfl, fun _ _ => rfl, fun _ _ _ _ _ => rfl⟩, fun _ _ => rfl, fun _ _ => rfl,
    fun _ _ => rfl, fun _ _ => rfl, fun _ _ => rfl, fun _ _ => rfl, fun s n => ?_, fun _ _ _ => rfl⟩
  refine counted_bump_other s n ?_
  unfold linkPortCtr mapCtr
  omega

/-- A rejected frame is counted. -/
theorem rejectFrame_counted (s : State) (p : Nat) : Counted s (linkPortCtr p 1) 1 (s.rejectFrame p) := by
  have hlost (t : State) : NMap.getD (t.linkLost p .training).core.obs.counters (linkPortCtr p 1) 0 =
      NMap.getD t.core.obs.counters (linkPortCtr p 1) 0 := (unlinked_linkPortCtr p 1).linkLost t p .training
  have hctr : ((s.bump (linkPortCtr p 1) 1).err1 2 1 p).core.obs.counters = (s.bump (linkPortCtr p 1) 1).core.obs.counters :=
    counters_of_quiet (quiet_err1 ..)
  have hcount : Counted s (linkPortCtr p 1) 1 ((s.bump (linkPortCtr p 1) 1).err1 2 1 p) := by
    rw [Counted, hctr]
    exact counted_bump s (linkPortCtr p 1) 1
  unfold State.rejectFrame
  extract_lets now u rs
  exact holds_ite (P := Counted s (linkPortCtr p 1) 1) ((hlost u).trans hcount) hcount

/-! ### Frames accepted -/

theorem unlinked_noteSender {α : Type} {F : State → α} (hF : Unlinked F) (s : State) (p : Nat) (f : List Byte) :
    F (s.noteSender p f) = F (s.modMp p (fun m => { m with dist := fieldAt f 2 1, clockQ := fieldAt f 3 1 })) := by
  unfold State.noteSender
  extract_lets old u v
  have hv : F v = F u := (hF.settle _ old).trans (hF.updateDist u)
  exact holds_ite (P := fun t => F t = F u) ((hF.setClockQ v _).trans hv) hv

theorem unlinked_judgeClock {α : Type} {F : State → α} (hF : Unlinked F) (s : State) (off : Int) (up : Bool) :
    F (s.judgeClock off up) = F s := by
  unfold State.judgeClock
  extract_lets near far u t
  have hu : F u = F s := hF.time s _
  have hset (q : ClockQ) : F (u.setClockQ q) = F s := (hF.setClockQ u q).trans hu
  exact holds_ite (P := fun t => F t = F s) (holds_ite (P := fun t => F t = F s) (hset _) hu)
    (holds_ite (P := fun t => F t = F s) (hset _) hu)

theorem unlinked_linkMeasure {α : Type} {F : State → α} (hF : Unlinked F) (s : State) (p : Nat) (payload : List Byte) (t2 t3 : Option Int) :
    F (s.linkMeasure p payload t2 t3) = F s := by
  unfold State.linkMeasure
  split
  · extract_lets t1 t4 path off u
    exact (unlinked_judgeClock hF _ _ _).trans (hF.link s _ fun _ => ⟨rfl, rfl⟩)
  · rfl

/-- A TIME frame leaves all of the port but the stamp of its receipt. -/
theorem timeFrame_port {s : State} {p : Nat} (hp : p < s.core.link.ports.length) (stamp : Nat) (payload : List Byte) :
    unsent (mpAt (s.timeFrame p stamp payload) p) = unsent { mpAt s p with rxStamp := some (stamp : Int) } ∧
      (s.timeFrame p stamp payload).core.link.waitObj = s.core.link.waitObj := by
  unfold State.timeFrame
  extract_lets m u
  have hu : portView u = portView s := holds_ite (P := fun t => portView t = portView s) (unlinked_linkMeasure unlinked_portView ..) rfl
  have hlen : u.core.link.ports.length = s.core.link.ports.length := by simpa [portView] using congrArg (fun v => v.1.length) hu
  refine ⟨?_, congrArg Prod.snd hu⟩
  have hm := unsent_mpAt_of_view hu p
  have hself : mpAt (u.modMp p (fun m => { m with rxStamp := some (stamp : Int) })) p = { mpAt u p with rxStamp := some (stamp : Int) } :=
    mpAt_modMp_self (by rwa [hlen]) _
  rw [hself]
  exact congrArg (fun m : MpPort => { m with rxStamp := some (stamp : Int) }) hm

/-- What has come of a frame's object, with the frame. -/
def joinedPart (f : List Byte) (m : MpPort) : Nat × List Byte :=
  (fieldAt f 0 1, (if (fieldAt f 1 1).testBit 0 then [] else (NMap.getD m.rx (fieldAt f 4 4) (fieldAt f 0 1, [])).2) ++
    bytesAt f 16 (min 2048 (fieldAt f 12 4)))

/-- A data frame before the last of its object, of a type that begins no catch-up, joins what came of it. -/
theorem dataFrame_joins {s : State} {p : Nat} {f : List Byte} (htype : fieldAt f 0 1 = 2 ∨ fieldAt f 0 1 = 3)
    (hlast : (fieldAt f 1 1).testBit 1 = false) : s.dataFrame p f =
      s.modMp p (fun m => { m with rx := NMap.set m.rx (fieldAt f 4 4) (joinedPart f (mpAt s p)) }) := by
  have hne : (fieldAt f 0 1 == 1) = false := by rcases htype with h | h <;> rw [h] <;> rfl
  have hl : bit (fieldAt f 1 1) 1 = false := hlast
  unfold State.dataFrame
  dsimp only
  rw [hl, hne]
  simp only [Bool.and_false, Bool.false_and, Bool.false_eq_true, if_false]
  rfl

/-- The port once the sender's values are noted. -/
theorem senderNoted_port {s : State} {n : Nat} (hn : n < s.core.link.ports.length) (f : List Byte) :
    unsent (mpAt (senderNoted s n f) n) =
      unsent { mpAt s n with rxCtr := ((mpAt s n).rxCtr + 1) % 2 ^ 64, dist := fieldAt f 2 1, clockQ := fieldAt f 3 1 } ∧
    (senderNoted s n f).core.link.waitObj = s.core.link.waitObj ∧
    (senderNoted s n f).core.link.ports.length = s.core.link.ports.length := by
  have hview := unlinked_noteSender unlinked_portView (s.modMp n (fun m => { m with rxCtr := (m.rxCtr + 1) % 2 ^ 64 })) n f
  have hlen : n < (s.modMp n (fun m => { m with rxCtr := (m.rxCtr + 1) % 2 ^ 64 })).core.link.ports.length := by
    simpa [State.modMp, length_updAt] using hn
  refine ⟨(unsent_mpAt_of_view hview n).trans ?_, congrArg Prod.snd hview, ?_⟩
  · rw [mpAt_modMp_self hlen, mpAt_modMp_self hn]
  · simpa [senderNoted, portView, State.modMp, length_updAt] using congrArg (fun v => v.1.length) hview

/-- Nothing waits: what follows an accepted frame leaves the port. -/
theorem followed_port {u : State} (hw : u.core.link.waitObj = []) (n : Nat) : unsent (mpAt (followed u) n) = unsent (mpAt u n) := by
  unfold followed
  rw [hw]
  exact unsent_mpAt_of_view (unlinked_portView.takeMapBack u) n

/-- A filler or a TIME frame, once opened. -/
theorem timed_frame {s : State} {n : Nat} (hlt : n < s.core.link.ports.length) (hw : s.core.link.waitObj = []) (stamp : Nat) {f : List Byte}
    (htype : fieldAt f 0 1 = 0 ∨ fieldAt f 0 1 = 4) :
    (mpAt (followed (framed (senderNoted s n f) n stamp f)) n).rxCtr = ((mpAt s n).rxCtr + 1) % 2 ^ 64 ∧
    (mpAt (followed (framed (senderNoted s n f) n stamp f)) n).dist = fieldAt f 2 1 ∧
    (mpAt (followed (framed (senderNoted s n f) n stamp f)) n).clockQ = fieldAt f 3 1 ∧
    (fieldAt f 0 1 = 4 → (mpAt (followed (framed (senderNoted s n f) n stamp f)) n).rxStamp = some (stamp : Int)) := by
  obtain ⟨hport, hwait, hlen⟩ := senderNoted_port hlt f
  generalize senderNoted s n f = u at hport hwait hlen ⊢
  rcases htype with h0 | h4
  · have hf : framed u n stamp f = u := by simp [framed, h0]
    rw [hf]
    obtain ⟨-, -, -, -, hrx, -, hdist, hclk, -⟩ := port_of_unsent ((followed_port (hwait.trans hw) n).trans hport)
    exact ⟨hrx, hdist, hclk, fun h => absurd (h0.symm.trans h) (by decide)⟩
  · have hf : framed u n stamp f = u.timeFrame n stamp (bytesAt f 16 2048) := by simp [framed, h4]
    obtain ⟨htime, hwait'⟩ := timeFrame_port (s := u) (p := n) (by rwa [hlen]) stamp (bytesAt f 16 2048)
    rw [hf]
    obtain ⟨-, -, -, -, hrx, -, hdist, hclk, -, -⟩ := port_of_unsent hport
    obtain ⟨-, -, -, -, hrx', -, hdist', hclk', -, hstamp⟩ := port_of_unsent ((followed_port (hwait'.trans (hwait.trans hw)) n).trans htime)
    exact ⟨hrx'.trans hrx, hdist'.trans hdist, hclk'.trans hclk, fun _ => hstamp⟩

/-- A data frame before the last of its object, once opened. -/
theorem data_frame {s : State} {n : Nat} (hlt : n < s.core.link.ports.length) (hw : s.core.link.waitObj = []) (stamp : Nat) {f : List Byte}
    (htype : fieldAt f 0 1 = 2 ∨ fieldAt f 0 1 = 3) (hlast : (fieldAt f 1 1).testBit 1 = false) :
    (mpAt (followed (framed (senderNoted s n f) n stamp f)) n).rxCtr = ((mpAt s n).rxCtr + 1) % 2 ^ 64 ∧
    NMap.get? (mpAt (followed (framed (senderNoted s n f) n stamp f)) n).rx (fieldAt f 4 4) = some (joinedPart f (mpAt s n)) := by
  obtain ⟨hport, hwait, hlen⟩ := senderNoted_port hlt f
  generalize senderNoted s n f = u at hport hwait hlen ⊢
  obtain ⟨-, -, -, -, hctr, -, -, -, hrx, -⟩ := port_of_unsent hport
  have hf : framed u n stamp f = u.modMp n (fun m => { m with rx := NMap.set m.rx (fieldAt f 4 4) (joinedPart f (mpAt u n)) }) := by
    rw [← dataFrame_joins htype hlast]
    rcases htype with h | h <;> simp [framed, h]
  have hnone : (framed u n stamp f).core.link.waitObj = [] := by
    rw [hf]
    exact hwait.trans hw
  obtain ⟨-, -, -, -, hctr', -, -, -, hrx', -⟩ := port_of_unsent (followed_port hnone n)
  have hpart : joinedPart f (mpAt u n) = joinedPart f (mpAt s n) := by rw [joinedPart, hrx, joinedPart]
  have hself := mpAt_modMp_self (s := u) (p := n) (by rwa [hlen])
    (fun m => { m with rx := NMap.set m.rx (fieldAt f 4 4) (joinedPart f (mpAt u n)) })
  rw [hctr', hrx', hf, hself]
  exact ⟨hctr, (NMap.get_set _ _ _).trans (congrArg some hpart)⟩

/-- Settles O30: the port's view through the settling of links, which what a frame does leaves alone. -/
theorem framesOnLinks : Obligations.FramesOnLinks := by
  unfold Obligations.FramesOnLinks
  intro s n hn hlen hr hup
  refine ⟨mpFrameSend_sends hn hlen hr hup, fun frame stamp => ?_⟩
  have hlt : n < s.core.link.ports.length := hlen ▸ lt_of_lt_of_le hn (nMirden_le s)
  refine ⟨_, exec_mpFrameRx hn hr hup frame stamp, fun ho => ?reject, fun f ho hw htype => ?time, fun f ho hw htype hlast => ?data⟩
  case reject =>
    rw [show frameOpened s (mpAt s n) frame = none from ho]
    exact rejectFrame_counted s n
  case time =>
    rw [show frameOpened s (mpAt s n) frame = some f from ho]
    exact timed_frame hlt hw stamp htype
  case data =>
    rw [show frameOpened s (mpAt s n) frame = some f from ho]
    exact data_frame hlt hw stamp htype hlast

end Sys2Proof.Machine
end

section
/-! Observation (R519, R526, R528, R539, R540, R542): trace, the counter latch, sticky errors cleared, LOFT_STORE. -/
namespace Sys2Proof.Machine

/-! ### Trace -/

/-- The observation block without its trace records. -/
def untraced (o : Watch) : Watch := { o with buf := [], seq := 0, sent := 0, lost := 0 }

theorem eq_of_untraced {a b : Watch} (h : untraced a = untraced b) : a = { b with buf := a.buf, seq := a.seq, sent := a.sent, lost := a.lost } :=
  congrArg (fun o : Watch => { o with buf := a.buf, seq := a.seq, sent := a.sent, lost := a.lost }) h

/-- A change of the observation block that makes g of it but for its trace records. -/
theorem Laid.modObs {s u : State} {h : Nat} {c : Core} {f g : Watch → Watch}
    (hf : ∀ (o : Watch) b q n l, untraced (f { o with buf := b, seq := q, sent := n, lost := l }) = untraced (g o)) (l : Laid s h c u) :
    Laid s h { c with obs := g c.obs } (u.modObs f) := by
  obtain ⟨k, hm, hd, hl, h64⟩ := l
  refine ⟨⟨k.hw, k.loft, k.err, k.table, k.free, k.queue, ?_, k.others, k.bytes, k.out⟩, hm, hd, hl, h64⟩
  have hobs : u.core.obs = { c.obs with buf := u.core.obs.buf, seq := u.core.obs.seq, sent := u.core.obs.sent, lost := u.core.obs.lost } :=
    congrArg Core.obs k.core
  have hnew := eq_of_untraced ((congrArg (fun o => untraced (f o)) hobs).trans (hf c.obs _ _ _ _))
  simp only [State.modObs_core]
  refine (congrArg (fun d : Core => { d with obs := f u.core.obs }) k.core).trans ?_
  exact congrArg (fun o : Watch => { c with hat := u.core.hat, obs := o }) hnew

theorem Laid.traceRec {s u : State} {h : Nat} {c : Core} (l : Laid s h c u) (type src : Nat) (p : List Byte) (m : Nat) :
    Laid s h c (u.traceRec type src p m) := by
  obtain ⟨b, q, n, k, ht⟩ := traceRec_eq u type src p m
  rw [ht]
  exact l.modObs (g := id) fun _ _ _ _ _ => rfl

section TraceSet
variable {r : Req} {s : State} (hc : s.core.sys.conf = false)
include hc

theorem traceSetBody_off (hoff : r.u8 4 = 0) : traceSetBody r s = s.traceOff.place r.h 0x00 := by
  rw [traceSetBody, hc, Bool.not_false, guarded_true rfl, if_pos (by simp [hoff])]

theorem traceSetBody_mask (hon : r.u8 4 ≠ 0) (ht : s.core.obs.trace = true) :
    traceSetBody r s = (s.modObs (fun o => { o with mask := r.u32 0 })).place r.h 0x00 := by
  rw [traceSetBody, hc, Bool.not_false, guarded_true rfl, if_neg (by simp [hon]), if_pos ht]

theorem traceSetBody_on (hon : r.u8 4 ≠ 0) (ht : s.core.obs.trace = false) : traceSetBody r s =
    (State.traceSync (s.modObs (fun o => { o with trace := true, mask := r.u32 0, buf := [], seq := 0, sent := 0, lost := 0 }))).place
      r.h 0x00 := by
  rw [traceSetBody, hc, Bool.not_false, guarded_true rfl, if_neg (by simp [hon]), if_neg (by simp [ht])]

end TraceSet

theorem traceSetBody_conf {r : Req} {s : State} (hc : s.core.sys.conf = true) : traceSetBody r s = s.place r.h 0x15 := by
  rw [traceSetBody, hc, Bool.not_true, guarded_cons_of_fail rfl]

theorem traceSet_answers {s : State} {h : Nat} {p : List Byte} (ht : takes s h 0x0902 p = true) (hc : s.core.sys.conf = false) :
    (fieldAt p 4 1 = 0 →
      Responds s h 0x00 [] { s.core with obs := { s.core.obs with trace := false, mask := 0 } } (exec (.traceSet h) s)) ∧
    (fieldAt p 4 1 ≠ 0 → s.core.obs.trace = true →
      Responds s h 0x00 [] { s.core with obs := { s.core.obs with mask := fieldAt p 0 4 } } (exec (.traceSet h) s)) ∧
    (fieldAt p 4 1 ≠ 0 → s.core.obs.trace = false →
      Responds s h 0x00 [] { s.core with obs := { s.core.obs with trace := true, mask := fieldAt p 0 4, lastSync := dtOf s } }
        (exec (.traceSet h) s)) := by
  have hconf : (taken s h).core.sys.conf = false := (taken_unseen (fun s => s.core.sys.conf) (fun _ _ _ _ _ _ => rfl) s h).trans hc
  have htrace : (taken s h).core.obs.trace = s.core.obs.trace := taken_unseen (fun s => s.core.obs.trace) (fun _ _ _ _ _ _ => rfl) s h
  have hdt : dtOf (taken s h) = dtOf s := dtOf_of_quiet (quiet_taken s h)
  refine ⟨fun hoff => ?_, fun hon htr => ?_, fun hon htr => ?_⟩
  · refine responds_of_takes ht (traceSetBody_off (r := requestIn s h p) hconf hoff) (Laid.place ?_ 0x00 [] (by decide))
    exact (laid_of_takes ht).modObs (g := fun o => { o with trace := false, mask := 0 }) fun _ _ _ _ _ => rfl
  · refine responds_of_takes ht (traceSetBody_mask (r := requestIn s h p) hconf hon (htrace.trans htr)) (Laid.place ?_ 0x00 [] (by decide))
    exact (laid_of_takes ht).modObs (g := fun o => { o with mask := fieldAt p 0 4 }) fun _ _ _ _ _ => rfl
  · refine responds_of_takes ht (traceSetBody_on (r := requestIn s h p) hconf hon (htrace.trans htr)) (Laid.place ?_ 0x00 [] (by decide))
    refine Laid.traceRec ?_ _ _ _ _
    rw [← hdt]
    exact ((laid_of_takes ht).modObs (g := fun o => { o with trace := true, mask := fieldAt p 0 4 }) fun _ _ _ _ _ => rfl).modObs
      (g := fun o => { o with lastSync := dtOf (taken s h) }) fun _ _ _ _ _ => rfl

/-! ### SYNC -/

theorem putTrace_length (buf : List (List Byte)) (r : List Byte) : (putTrace buf r).length = buf.length + 1 := by
  simp only [putTrace, List.length_append, List.length_take, List.length_cons, List.length_map, List.length_drop]
  omega

/-- A record of a kind that no mask bit silences, while trace is on and the buffer has room. -/
theorem traceRec_kept {s : State} (ht : s.core.obs.trace = true) (hc : s.core.sys.conf = false) (hlen : s.core.obs.buf.length < 4096)
    {type m : Nat} (hb : traceBit type m = none) (src : Nat) (p : List Byte) : ∃ r, s.traceRec type src p m =
      s.modObs (fun o => { o with buf := putTrace o.buf r, seq := (o.seq + 1) % 65536, sent := o.sent + 1 }) := by
  unfold State.traceRec
  simp only [hb, ht, hc, hlen, Bool.not_false, Bool.and_self, if_true]
  exact ⟨_, rfl⟩

theorem foldl_emit (l : List (List Byte)) (s : State) :
    l.foldl (fun s b => s.emit (.trace b)) s = { s with out := s.out ++ l.map Out.trace } := by
  induction l generalizing s with
  | nil => simp
  | cons b l ih =>
    rw [List.foldl_cons, ih]
    simp [State.emit]

/-- The port has sent what waited. -/
def drained (s : State) : State :=
  { s.modObs (fun o => { o with buf := [], lost := 0 }) with out := s.out ++ s.core.obs.buf.map Out.trace }

theorem exec_traceSync {s : State} (hr : running s = true) (ht : s.core.obs.trace = true) (hd : s.core.obs.lastSync + 1000000 ≤ dtOf s) :
    exec .traceSync s = .next (State.traceSync
      (if s.core.obs.lost == 0 then drained s else (drained s).traceRec 0xF1 0 (leBytes 4 s.core.obs.lost))) := by
  have hdrain := foldl_emit s.core.obs.buf (s.modObs (fun o => { o with buf := [], lost := 0 }))
  change execTraceSync s = _
  unfold execTraceSync
  refine congrArg Host.Outcome.next ((if_pos (by simp [hr, ht, hd])).trans ?_)
  rw [hdrain]
  rfl

theorem traceSync_drains {s : State} (hr : running s = true) (ht : s.core.obs.trace = true) (hc : s.core.sys.conf = false)
    (hd : s.core.obs.lastSync + 1000000 ≤ dtOf s) : ∃ t, exec .traceSync s = .next t ∧ t.out = s.out ++ s.core.obs.buf.map Out.trace ∧
      t.core.obs.lastSync = dtOf s ∧ t.core.obs.lost = 0 ∧ t.core.obs.buf.length = if s.core.obs.lost = 0 then 1 else 2 := by
  have sync (u : State) (htr : u.core.obs.trace = true) (hco : u.core.sys.conf = false) (hlen : u.core.obs.buf.length < 4096) :
      u.traceSync.out = u.out ∧ u.traceSync.core.obs.lastSync = dtOf u ∧ u.traceSync.core.obs.lost = u.core.obs.lost ∧
        u.traceSync.core.obs.buf.length = u.core.obs.buf.length + 1 := by
    obtain ⟨r, hrec⟩ := traceRec_kept (s := u.modObs (fun o => { o with lastSync := dtOf u })) htr hco hlen
      (type := 0xF0) (m := 0xA5) rfl 0xA5 (leBytes 4 u.core.obs.sent)
    have hsync : u.traceSync = _ := hrec
    rw [hsync]
    exact ⟨rfl, rfl, rfl, putTrace_length _ _⟩
  rw [exec_traceSync hr ht hd]
  refine ⟨_, rfl, ?_⟩
  by_cases hl : s.core.obs.lost = 0
  · rw [if_pos (by simp [hl]), if_pos hl]
    exact sync (drained s) ht hc (by simp [drained])
  · rw [if_neg (by simp [hl]), if_neg hl]
    obtain ⟨r, hrec⟩ := traceRec_kept (s := drained s) ht hc (by simp [drained]) (type := 0xF1) (m := 0) rfl 0 (leBytes 4 s.core.obs.lost)
    rw [hrec]
    have hone : (putTrace (drained s).core.obs.buf r).length = 1 := putTrace_length [] r
    obtain ⟨h1, h2, h3, h4⟩ := sync ((drained s).modObs (fun o =>
      { o with buf := putTrace o.buf r, seq := (o.seq + 1) % 65536, sent := o.sent + 1 })) ht hc (by simp [hone])
    exact ⟨h1, h2, h3, h4.trans (congrArg (· + 1) hone)⟩

/-! ### The counter latch -/

theorem NMap.get_map {α β : Type} (f : α → β) (m : NMap α) (k : Nat) :
    NMap.get? (m.map (fun p => (p.1, f p.2))) k = (NMap.get? m k).map f := by
  induction m with
  | nil => rfl
  | cons p m ih =>
    obtain ⟨j, v⟩ := p
    simp only [List.map_cons, NMap.get?]
    split
    · rfl
    · split
      · rfl
      · exact ih

theorem exec_counterLatch {s : State} (hr : running s = true) (hc : s.core.sys.conf = true) (hd : s.core.obs.latchDt + 10000000 ≤ dtOf s) :
    exec .counterLatch s = .next s.latchCounters := by
  change execCounterLatch s = _
  exact congrArg Host.Outcome.next (if_pos (by simp [hr, hc, hd]))

theorem latchCounters_latch (s : State) : s.latchCounters.core.obs.latch =
    NMap.set (s.core.obs.counters.map (fun p => (p.1, coarse p.2))) (tierCtr 8) (coarse (freeNear s)) := rfl

theorem latched_free (s : State) : NMap.getD s.latchCounters.core.obs.latch (tierCtr 8) 0 = freeNear s / 4096 * 4096 := by
  rw [latchCounters_latch, NMap.getD, NMap.get_set]
  rfl

theorem latched_other (s : State) {a : Nat} (ha : a ≠ tierCtr 8) :
    NMap.getD s.latchCounters.core.obs.latch a 0 = NMap.getD s.core.obs.counters a 0 / 4096 * 4096 := by
  rw [latchCounters_latch, NMap.getD, NMap.get_set_other _ _ _ _ ha, NMap.get_map, NMap.getD]
  cases NMap.get? s.core.obs.counters a <;> rfl

/-! ### Sticky errors (R526, R528) -/

/-- The bits that a write clears: an owner bit takes its fields with it. -/
def clearMask (i v : Nat) : Nat :=
  let mask := if i == 4 then bits v 2 0 + bits v 15 8 * 256 else if 8 ≤ i then bits v 7 0 else v
  let mask := if 8 ≤ i && bit v 7 then mask ||| 0x7700 else mask
  if i == 4 && bit v 2 then mask ||| 0xFF00 else mask

/-- A register with bits of a mask cleared. -/
def ErrReg.cleared (r : ErrReg) (mask : Nat) : ErrReg :=
  if r.bits &&& ~~~(BitVec.ofNat 32 mask) == 0 then {} else { r with bits := r.bits &&& ~~~(BitVec.ofNat 32 mask) }

theorem clearErr_eq {s : State} {i v : Nat} (hp : errPresent s i = true) : s.clearErr i v =
    { s with err := { s.err with regs := setAt s.err.regs i ((s.err.regs.getD i {}).cleared (clearMask i v)) } } := by
  rw [State.clearErr, hp]
  rfl

theorem ErrReg.cleared_bits (r : ErrReg) (mask : Nat) : (r.cleared mask).bits = r.bits &&& ~~~(BitVec.ofNat 32 mask) := by
  unfold ErrReg.cleared
  split
  · next h => exact (beq_iff_eq.1 h).symm
  · rfl

theorem ErrReg.cleared_first (r : ErrReg) (mask : Nat) :
    ((r.cleared mask).bits = 0 → (r.cleared mask).firstDt = 0 ∧ (r.cleared mask).firstInfo = 0) ∧
      ((r.cleared mask).bits ≠ 0 → (r.cleared mask).firstDt = r.firstDt ∧ (r.cleared mask).firstInfo = r.firstInfo) := by
  unfold ErrReg.cleared
  split
  · exact ⟨fun _ => ⟨rfl, rfl⟩, fun h => absurd rfl h⟩
  · next h => exact ⟨fun h0 => absurd (beq_iff_eq.2 h0) h, fun _ => ⟨rfl, rfl⟩⟩

theorem testBit_bits_low (v : Nat) {hi k : Nat} (hk : k ≤ hi) : (bits v hi 0).testBit k = v.testBit k := by
  rw [bits, Nat.shiftRight_zero, Nat.testBit_mod_two_pow, decide_eq_true (by omega), Bool.true_and]

/-- Below the owned fields the mask is what was written. -/
theorem clearMask_low {i v k : Nat} (hk : k < 8) (h4 : i = 4 → k ≤ 2) : (clearMask i v).testBit k = v.testBit k := by
  have hfield : ∀ m : Nat, (m ||| 0x7700).testBit k = m.testBit k ∧ (m ||| 0xFF00).testBit k = m.testBit k := by
    intro m
    rw [Nat.testBit_or, Nat.testBit_or]
    interval_cases k <;> exact ⟨Bool.or_false _, Bool.or_false _⟩
  have hfirst : (if i == 4 then bits v 2 0 + bits v 15 8 * 256 else if 8 ≤ i then bits v 7 0 else v).testBit k = v.testBit k := by
    by_cases hi : i = 4
    · have hlow : bits v 2 0 < 2 ^ 8 := lt_of_lt_of_le (Nat.mod_lt _ (by decide)) (by decide)
      rw [if_pos (by simp [hi]), Nat.add_comm, Nat.mul_comm, show (256 : Nat) = 2 ^ 8 from rfl, Nat.testBit_two_pow_mul_add _ hlow,
        if_pos hk, testBit_bits_low v (h4 hi)]
    · rw [if_neg (by simp [hi])]
      split
      · exact testBit_bits_low v (by omega)
      · rfl
  unfold clearMask
  extract_lets m₀ m₁
  have h₁ : m₁.testBit k = m₀.testBit k := holds_ite (P := fun m : Nat => m.testBit k = m₀.testBit k) (hfield m₀).1 rfl
  exact holds_ite (P := fun m : Nat => m.testBit k = v.testBit k) ((hfield m₁).2.trans (h₁.trans hfirst)) (h₁.trans hfirst)

/-- Bit 7 of a channel's register takes CAUSE and ENGINE with it. -/
theorem clearMask_fields {i v : Nat} (hi : 8 ≤ i) (hv : v.testBit 7 = true) : BitVec.ofNat 32 (clearMask i v) &&& 0x7700#32 = 0x7700#32 := by
  have hm : clearMask i v = bits v 7 0 ||| 0x7700 := by
    have h4 : (i == 4) = false := beq_false_of_ne (by omega)
    simp [clearMask, h4, hi, show bit v 7 = true from hv]
  rw [hm]
  refine BitVec.eq_of_getLsbD_eq fun k hk => ?_
  rw [BitVec.getLsbD_and, BitVec.getLsbD_ofNat, BitVec.getLsbD_ofNat, Nat.testBit_or]
  cases Nat.testBit 0x7700 k <;> simp [hk]

theorem errClear_clears {s : State} (i v : Nat) (hr : running s = true) (hp : errPresent s i = true) (hlen : s.err.regs.length = 16) :
    ∃ t r, exec (.errClear i v) s = .next t ∧ r = t.err.regs.getD i {} ∧ t.err.history = s.err.history ∧ t.core = s.core ∧
      (∀ j, j ≠ i → t.err.regs.getD j {} = s.err.regs.getD j {}) ∧
      (∀ k, k < 8 → (i = 4 → k ≤ 2) → r.bits.getLsbD k = ((s.err.regs.getD i {}).bits.getLsbD k && !v.testBit k)) ∧
      (8 ≤ i → v.testBit 7 = true → r.bits &&& 0x7700#32 = 0) ∧
      (r.bits = 0 → r.firstDt = 0 ∧ r.firstInfo = 0) ∧
      (r.bits ≠ 0 → r.firstDt = (s.err.regs.getD i {}).firstDt ∧ r.firstInfo = (s.err.regs.getD i {}).firstInfo) := by
  have hi : i < s.err.regs.length := by
    simp only [errPresent, Bool.and_eq_true, decide_eq_true_eq] at hp
    omega
  have hexec : exec (.errClear i v) s = .next (s.clearErr i v) := congrArg Host.Outcome.next (if_pos hr)
  have hself : (setAt s.err.regs i ((s.err.regs.getD i {}).cleared (clearMask i v))).getD i {} =
      (s.err.regs.getD i {}).cleared (clearMask i v) := by
    simp [setAt, List.getD_eq_getElem?_getD, hi]
  obtain ⟨hzero, hfirst⟩ := (s.err.regs.getD i {}).cleared_first (clearMask i v)
  rw [hexec, clearErr_eq hp]
  refine ⟨_, (s.err.regs.getD i {}).cleared (clearMask i v), rfl, hself.symm, rfl, rfl, fun j hj => getD_setAt_other _ _ _ hj,
    fun k hk h4 => ?_, fun h8 hv => ?_, hzero, hfirst⟩
  · rw [ErrReg.cleared_bits, BitVec.getLsbD_and, BitVec.getLsbD_not, BitVec.getLsbD_ofNat, clearMask_low hk h4]
    simp [show k < 32 by omega]
  · rw [ErrReg.cleared_bits]
    have hm := clearMask_fields h8 hv
    refine BitVec.eq_of_getLsbD_eq fun k hk => ?_
    have hbit := congrArg (fun b => b.getLsbD k) hm
    simp only [BitVec.getLsbD_and] at hbit
    simp only [BitVec.getLsbD_and, BitVec.getLsbD_not, hk, decide_true, Bool.true_and]
    cases h7 : (0x7700#32).getLsbD k
    · simp
    · rw [h7, Bool.and_true] at hbit
      simp [hbit]

/-! ### LOFT_STORE (R519) -/

theorem loftPage_congr {s t : State} (h : t.loft = s.loft) (p : Nat) : loftPage t p = loftPage s p := by rw [loftPage, loftPage, h]

/-- The page with its new image. -/
def withPage (s : State) (p : Nat) (img : List Byte) : State := s.modLoft (fun l => { l with pages := Mem.write l.pages (4096 * p) img })

theorem withPage_pages (s : State) (p : Nat) (img : List Byte) : (withPage s p img).loft.pages = Mem.write s.loft.pages (4096 * p) img := rfl

theorem loftPage_withPage_self (s : State) (p : Nat) {img : List Byte} (hlen : img.length = 4096) : loftPage (withPage s p img) p = img := by
  have h := Mem.bytes_write s.loft.pages (4096 * p) 0 4096 img (by omega)
  rw [Nat.add_zero, List.drop_zero, List.take_of_length_le (by omega)] at h
  rw [loftPage, withPage_pages, h]

theorem loftPage_withPage_other (s : State) {p q : Nat} (hq : q ≠ p) {img : List Byte} (hlen : img.length = 4096) :
    loftPage (withPage s p img) q = loftPage s q := by
  rw [loftPage, loftPage, withPage_pages]
  refine List.map_congr_left fun k hk => Mem.read_write_of_outside _ _ _ _ ?_
  have hk := List.mem_range.1 hk
  omega

/-- The state in which the page's image has come and its write is counted. -/
def storing (s : State) (p addr : Nat) : State :=
  (s.emit (.dmaRead addr 4096)).modLoft (fun l => { l with writes := NMap.bump l.writes p 1, lastStore := some (p, loftPage s p, dtOf s) })

theorem loftStoreBody_good {r : Req} {s : State} {data : List Byte} (hp : r.u8 0 < 32) : loftStoreBody (.ok data) true r s =
    (withPage (storing s (r.u8 0) (r.u64 8)) (r.u8 0) (padTo 4096 data)).place r.h 0x00
      (leBytes 4 (NMap.getD (NMap.bump s.loft.writes (r.u8 0) 1) (r.u8 0) 0)) := by
  unfold loftStoreBody
  dsimp only
  rw [guarded_pass (by simp [hp, show r.u8 0 ≤ 63 by omega])]
  rfl

theorem loftStoreBody_bad {r : Req} {s : State} {data : List Byte} (hp : r.u8 0 < 32) :
    loftStoreBody (.ok data) false r s = ((storing s (r.u8 0) (r.u64 8)).err1 0 10).place r.h 0x30 := by
  unfold loftStoreBody
  dsimp only
  rw [guarded_pass (by simp [hp, show r.u8 0 ≤ 63 by omega])]
  rfl

theorem deaf_loft : Deaf (fun s : State => s.loft.pages) :=
  ⟨fun _ _ => rfl, fun _ _ => rfl, fun _ _ _ => rfl, fun _ _ => rfl, fun _ _ _ _ _ => rfl⟩

section Store
variable {s : State} {h : Nat} {p data : List Byte} (ht : takes s h 0x0A03 p = true) (hp : fieldAt p 0 1 < 32)
include ht hp

theorem loftStore_good : ∃ t, exec (.loftStore h data true) s = .next t ∧
    Answered s h 0x00 (leBytes 4 (NMap.getD s.loft.writes (fieldAt p 0 1) 0 + 1)) t ∧
    loftPage t (fieldAt p 0 1) = padTo 4096 data ∧ (∀ q, q ≠ fieldAt p 0 1 → loftPage t q = loftPage s q) ∧
    NMap.getD t.loft.writes (fieldAt p 0 1) 0 = NMap.getD s.loft.writes (fieldAt p 0 1) 0 + 1 := by
  have hloft : (taken s h).loft = s.loft := taken_unseen State.loft (fun _ _ _ _ _ _ => rfl) s h
  have hbody := loftStoreBody_good (r := requestIn s h p) (s := taken s h) (data := data) hp
  have hcount : NMap.getD (NMap.bump (taken s h).loft.writes (fieldAt p 0 1) 1) (fieldAt p 0 1) 0 =
      NMap.getD s.loft.writes (fieldAt p 0 1) 0 + 1 := by rw [NMap.getD_bump_self, hloft]
  refine ⟨_, next_of_takes ht (hbody.trans (congrArg (fun n => State.place _ h 0x00 (leBytes 4 n)) hcount)), ?_⟩
  have hopen := (open_taken ht).step
    (v := withPage (storing (taken s h) (fieldAt p 0 1) (fieldAt p 8 8)) (fieldAt p 0 1) (padTo 4096 data)) rfl rfl
  have hans := hopen.answered_place 0x00 (leBytes 4 (NMap.getD s.loft.writes (fieldAt p 0 1) 0 + 1)) (by decide)
  have hkept := (hopen.kept_place 0x00 (leBytes 4 (NMap.getD s.loft.writes (fieldAt p 0 1) 0 + 1)) (by decide)).loft
  refine ⟨hans, ?_, fun q hq => ?_, (congrArg (fun l : Loft => NMap.getD l.writes (fieldAt p 0 1) 0) hkept).trans hcount⟩
  · exact (loftPage_congr hkept _).trans (loftPage_withPage_self _ _ (padTo_length 4096 data))
  · exact (loftPage_congr hkept q).trans ((loftPage_withPage_other _ hq (padTo_length 4096 data)).trans (loftPage_congr hloft q))

/-- A page that does not read back is left, and the error is set. -/
theorem loftStore_bad (hlen : s.err.regs.length = 16) : ∃ t, exec (.loftStore h data false) s = .next t ∧ Answered s h 0x30 [] t ∧
    t.loft.pages = s.loft.pages ∧ (t.err.regs.getD 0 {}).bits.getLsbD 10 = true := by
  have hloft : (taken s h).loft = s.loft := taken_unseen State.loft (fun _ _ _ _ _ _ => rfl) s h
  have herr : (taken s h).err = s.err := taken_unseen State.err (fun _ _ _ _ _ _ => rfl) s h
  have hbody := loftStoreBody_bad (r := requestIn s h p) (s := taken s h) (data := data) hp
  refine ⟨_, next_of_takes ht hbody, ?_⟩
  have hq : quiet ((storing (taken s h) (fieldAt p 0 1) (fieldAt p 8 8)).err1 0 10) = quiet (taken s h) := quiet_err1 ..
  have hsets := err1_sets (s := storing (taken s h) (fieldAt p 0 1) (fieldAt p 8 8)) (idx := 0) (b := 10) (by simp [errPresent]) (by decide) (by decide)
    (show 0 < (taken s h).err.regs.length by rw [herr, hlen]; decide) 255 0xFFFF 0xFFFFFFFF
  have hpages : ((storing (taken s h) (fieldAt p 0 1) (fieldAt p 8 8)).err1 0 10).loft.pages = s.loft.pages := by
    rw [← hloft]
    exact deaf_loft.err1 (fun _ _ => rfl) _ 0 10 255 0xFFFF 0xFFFFFFFF
  have hopen := (open_taken ht).step (v := (storing (taken s h) (fieldAt p 0 1) (fieldAt p 8 8)).err1 0 10) (err1_hat ..) (time_of_quiet hq)
  have hkept := hopen.kept_place 0x30 [] (by decide)
  exact ⟨hopen.answered_place 0x30 [] (by decide), (congrArg Loft.pages hkept.loft).trans hpages,
    (congrArg (fun e : Err => (e.regs.getD 0 {}).bits.getLsbD 10) hkept.err).trans hsets⟩

end Store

/-- Settles O24. -/
theorem observationTakesEffect : Obligations.ObservationTakesEffect := by
  unfold Obligations.ObservationTakesEffect
  intro s h p
  refine ⟨fun ht hc => traceSet_answers ht hc, fun ht hc => ?conf, fun hr ht hc hd => traceSync_drains hr ht hc hd, fun hr hc hd => ?latch,
    fun i v hr hp hlen => errClear_clears i v hr hp hlen, fun data ht hp => ⟨loftStore_good ht hp, fun hlen => loftStore_bad ht hp hlen⟩⟩
  case conf =>
    have hconf : (taken s h).core.sys.conf = true := (taken_unseen (fun s => s.core.sys.conf) (fun _ _ _ _ _ _ => rfl) s h).trans hc
    exact responds_of_takes ht (traceSetBody_conf (r := requestIn s h p) hconf) ((laid_of_takes ht).place 0x15 [] (by decide))
  case latch =>
    exact ⟨_, exec_counterLatch hr hc hd, rfl, rfl, latched_free s, fun a ha => latched_other s ha⟩

end Sys2Proof.Machine
end

section
/-! The start steps (R506, R509, R511, R513, R520, R521): each ends by its finding, and the next begins. -/
namespace Sys2Proof.Machine

/-! ### Ports of time -/

/-- F looks neither at the noise nor at the air block, the sticky errors, or of time at more than the accumulator. -/
structure Airless {α : Type} (F : State → α) : Prop where
  deaf : Deaf F
  err : ∀ s e, F { s with err := e } = F s
  time : ∀ s f, (∀ t : Time, (f t).acc = t.acc) → F (s.modTime f) = F s
  air : ∀ s f, F (s.modAir f) = F s

section Airless
variable {α : Type} {F : State → α} (hF : Airless F)
include hF

theorem Airless.setClockQ (s : State) (q : ClockQ) : F (s.setClockQ q) = F s := by
  unfold State.setClockQ
  extract_lets old s₁ s₂
  refine holds_ite (P := fun t => F t = F s) rfl ?_
  rw [hF.deaf.event]
  exact holds_ite (P := fun t => F t = F s) ((hF.deaf.err1 hF.err ..).trans (hF.time s _ fun _ => rfl)) (hF.time s _ fun _ => rfl)

theorem Airless.setPtpState (s : State) (p : Nat) (st : PtpState) : F (s.setPtpState p st) = F s := by
  unfold State.setPtpState
  extract_lets old u
  have hu : F u = F s := hF.air s _
  exact holds_ite (P := fun t => F t = F s) ((hF.setClockQ u _).trans hu) hu

theorem Airless.restartPtp (s : State) (p : Nat) : F (s.restartPtp p) = F s := (hF.setPtpState _ p _).trans (hF.air s _)

theorem Airless.setPtpPort (s : State) (p : Nat) (b : List Byte) : F (s.setPtpPort p b) = F s := by
  unfold State.setPtpPort
  extract_lets x role u
  have hu : F u = F s := hF.air s _
  refine holds_ite (P := fun t => F t = F s) ?_ (holds_ite (P := fun t => F t = F s) hu ((hF.restartPtp u p).trans hu))
  exact (hF.setPtpState _ p _).trans ((hF.air _ _).trans (hF.restartPtp s p))

end Airless

/-! ### A step ends, the next begins -/

/-- The system block without the record of the start, and without which step runs since when. -/
def offStart (y : Sys) : Sys := { y with step := 0, stepBegan := 0, record := {}, bootSrc := 0, hostSource := false, hostBegan := 0 }

/-- F looks at no record of the start, and not at which step runs since when. -/
structure Steady {α : Type} (F : State → α) : Prop where
  airless : Airless F
  loft : ∀ s f, F (s.modLoft f) = F s
  link : ∀ s f, F (s.modLink f) = F s
  step : ∀ s f, (∀ y, offStart (f y) = offStart y) → F (s.modSys f) = F s

section Steady
variable {α : Type} {F : State → α} (hF : Steady F)
include hF

theorem Steady.noteStep (s : State) (n o r : Nat) : F (s.noteStep n o r) = F s := by
  unfold State.noteStep State.modRecord State.writeRecord
  exact (hF.loft _ _).trans (hF.step s _ fun _ => rfl)

theorem Steady.enterStep (s : State) (n : Nat) : F (s.enterStep n) = F s := by
  unfold State.enterStep
  extract_lets u held ptp
  have hu : F u = F s := hF.step s _ fun _ => rfl
  have hheld : F held = F u := foldl_unseen (fun s _ => hF.link s _) _ u
  refine holds_ite (P := fun t => F t = F s) ?_ (holds_ite (P := fun t => F t = F s) ?_ (holds_ite (P := fun t => F t = F s) ?_ hu))
  · refine (hF.step u _ fun y => ?_).trans hu
    rfl
  · refine (hF.step held _ fun y => ?_).trans (hheld.trans hu)
    rfl
  · exact (foldl_unseen (fun s i => holds_ite (P := fun t => F t = F s) rfl (hF.airless.setPtpPort s i _)) _ u).trans hu

theorem Steady.stepDone (s : State) (n o r : Nat) : F (s.stepDone n o r) = F s := (hF.enterStep _ _).trans (hF.noteStep s n o r)

end Steady

theorem airless_step : Airless (fun s => s.core.sys.step) :=
  ⟨⟨fun _ _ => rfl, fun _ _ => rfl, fun _ _ _ => rfl, fun _ _ => rfl, fun _ _ _ _ _ => rfl⟩, fun _ _ => rfl, fun _ _ _ => rfl, fun _ _ => rfl⟩

theorem enterStep_step (s : State) (n : Nat) : (s.enterStep n).core.sys.step = n := by
  unfold State.enterStep
  extract_lets u held ptp
  have hheld : held.core.sys = u.core.sys :=
    foldl_unseen (F := fun s : State => s.core.sys) (f := fun s p => s.modMp p (fun m => { m with state := .held })) (fun _ _ => rfl) _ u
  refine holds_ite (P := fun t : State => t.core.sys.step = n) rfl (holds_ite (P := fun t : State => t.core.sys.step = n) ?_
    (holds_ite (P := fun t : State => t.core.sys.step = n) ?_ rfl))
  · exact congrArg Sys.step hheld
  · have hone (s : State) (i : Nat) : (if fieldAt (ptp.getD i []) 1 1 == 0 then s else s.setPtpPort i (ptp.getD i [])).core.sys.step =
        s.core.sys.step := holds_ite (P := fun t : State => t.core.sys.step = s.core.sys.step) rfl (airless_step.setPtpPort s i _)
    exact foldl_unseen (F := fun s : State => s.core.sys.step) hone _ u

theorem stepDone_step (s : State) (n o r : Nat) : (s.stepDone n o r).core.sys.step = n + 1 := enterStep_step _ _

/-- The phase, a recovery reset that waits, and the firmware. -/
def startView (s : State) : Phase × Option Nat × Nat × List Byte :=
  (s.core.sys.phase, s.core.sys.recoveryAt, s.core.sys.fwVersion, s.core.sys.fwMeas)

theorem startView_of_offStart {y z : Sys} (h : offStart y = offStart z) :
    (y.phase, y.recoveryAt, y.fwVersion, y.fwMeas) = (z.phase, z.recoveryAt, z.fwVersion, z.fwMeas) := by
  have hview := congrArg (fun y : Sys => (y.phase, y.recoveryAt, y.fwVersion, y.fwMeas)) h
  exact hview

theorem deaf_startView : Deaf startView := ⟨fun _ _ => rfl, fun _ _ => rfl, fun _ _ _ => rfl, fun _ _ => rfl, fun _ _ _ _ _ => rfl⟩

theorem steady_startView : Steady startView :=
  ⟨⟨deaf_startView, fun _ _ => rfl, fun _ _ _ => rfl, fun _ _ => rfl⟩, fun _ _ => rfl, fun _ _ => rfl,
    fun s _ hf => startView_of_offStart (hf s.core.sys)⟩

theorem err1_startView (s : State) (i b src sid pg : Nat) : startView (s.err1 i b src sid pg) = startView s :=
  deaf_startView.err1 (fun _ _ => rfl) s i b src sid pg

theorem decideLinks_startView (s : State) (mask : Nat) : startView (s.decideLinks mask) = startView s := by
  have hstrap (s : State) : startView s.judgeStrap = startView s :=
    holds_ite (P := fun t => startView t = startView s) (err1_startView ..) rfl
  have hdist (s : State) : startView s.updateDist = startView s := by
    unfold State.updateDist
    extract_lets old
    refine holds_ite (P := fun t => startView t = startView s) rfl (holds_ite (P := fun t => startView t = startView s) ?_ rfl)
    exact err1_startView ..
  have hup (s : State) (p : Nat) : startView (s.portUp p) = startView s := deaf_startView.event _ _ _
  have hfail (s : State) (p : Nat) : startView (s.trainFail p) = startView s := err1_startView ..
  unfold State.decideLinks
  rw [hstrap, hdist]
  refine (foldl_unseen (fun s p => holds_ite (P := fun t => startView t = startView s) (hup s p) rfl) _ _).trans ?_
  exact foldl_unseen (fun s p => holds_ite (P := fun t => startView t = startView s) (hfail s p) rfl) _ s

/-! ### The steps that end by any finding -/

/-- Step n ends, and the next begins: the phase, a recovery reset that waits and the firmware stand. -/
def Ends (s : State) (n : Nat) (t : State) : Prop := ∃ u o r, t = State.stepDone u n o r ∧ startView u = startView s

theorem Ends.step {s t : State} {n : Nat} (h : Ends s n t) : t.core.sys.step = n + 1 := by
  obtain ⟨u, o, r, rfl, -⟩ := h
  exact stepDone_step u n o r

theorem Ends.view {s t : State} {n : Nat} (h : Ends s n t) : startView t = startView s := by
  obtain ⟨u, o, r, rfl, hu⟩ := h
  exact (steady_startView.stepDone u n o r).trans hu

section EndStep
variable {s : State} (f : StepFinding)

theorem addKeys_startView (s : State) (d g : Nat) : startView (s.addKeys d g) = startView s := rfl

theorem endStep_st1 (hn : s.core.sys.step = 1) (hok : f.ok = true) (hm : f.mask = 0) : Ends s 1 (s.endStep f false) := by
  unfold State.endStep
  extract_lets n rem reason ok u
  have hn' : n = 1 := hn
  have hu : startView u = startView s := holds_ite (P := fun t => startView t = startView s) (err1_startView s ..) rfl
  simp only [hn', hm, ok, hok, Bool.not_false, Bool.and_true, beq_self_eq_true, if_true]
  refine ⟨_, _, _, rfl, ?_⟩
  rw [addKeys_startView, addKeys_startView, addKeys_startView]
  exact hu

theorem endStep_st3 (hn : s.core.sys.step = 3) (hok : f.ok = true) : Ends s 3 (s.endStep f false) := by
  unfold State.endStep
  extract_lets n rem reason ok
  have hn' : n = 3 := hn
  simp only [hn', ok, hok, Bool.not_false, Bool.and_true, if_true]
  refine holds_ite (P := Ends s 3) ⟨_, _, _, rfl, ?_⟩ ⟨_, _, _, rfl, rfl⟩
  exact err1_startView ..

theorem endStep_st4 (hn : s.core.sys.step = 4) (timeout : Bool) : Ends s 4 (s.endStep f timeout) := by
  unfold State.endStep
  extract_lets n rem reason ok
  have hn' : n = 4 := hn
  simp only [hn']
  refine holds_ite (P := Ends s 4) ⟨_, _, _, rfl, rfl⟩ (holds_ite (P := Ends s 4) ⟨_, _, _, rfl, rfl⟩ ⟨_, _, _, rfl, ?_⟩)
  exact err1_startView ..

theorem endStep_st5 (hn : s.core.sys.step = 5) (timeout : Bool) : Ends s 5 (s.endStep f timeout) := by
  unfold State.endStep
  extract_lets n rem reason ok
  have hn' : n = 5 := hn
  simp only [hn']
  exact holds_ite (P := Ends s 5) ⟨_, _, _, rfl, decideLinks_startView s 0⟩
    (holds_ite (P := Ends s 5) ⟨_, _, _, rfl, decideLinks_startView s 0⟩ ⟨_, _, _, rfl, decideLinks_startView s f.mask⟩)

theorem endStep_st6 (hn : s.core.sys.step = 6) (timeout : Bool) : Ends s 6 (s.endStep f timeout) := by
  unfold State.endStep
  extract_lets n rem reason ok
  have hn' : n = 6 := hn
  simp only [hn']
  refine ⟨_, _, _, rfl, ?_⟩
  refine (steady_startView.step _ _ fun y => ?_).trans ((steady_startView.loft _ _).trans (steady_startView.airless.air s _))
  rfl

/-- ST8 ends where a measurement is in hand, or where no source of time is enabled (R362, R500). -/
theorem endSt8_ends (hm : (firstOffset s).isSome = true ∨ (∀ x ∈ s.core.air.ports, x.role = 0) ∧ linkTimed s = false) : Ends s 8 s.endSt8 := by
  unfold State.endSt8
  extract_lets enabled
  cases ho : firstOffset s with
  | some o =>
    refine ⟨_, _, _, rfl, ?_⟩
    exact steady_startView.airless.setClockQ _ _
  | none =>
    rcases hm with hm | ⟨hroles, hlink⟩
    · simp [ho] at hm
    · have henabled : enabled = false := List.any_eq_false.2 fun x hx => by simp [hroles x hx]
      simp only [henabled, hlink, Bool.or_self, Bool.false_eq_true, if_false]
      exact ⟨_, _, _, rfl, rfl⟩

theorem endStep_st8 (hn : s.core.sys.step = 8)
    (hm : s.core.time.measSeq ≠ 0 ∨ (∀ x ∈ s.core.air.ports, x.role = 0) ∧ linkTimed s = false) : Ends s 8 (s.endStep f false) := by
  have hfirst : (firstOffset s).isSome = true ∨ (∀ x ∈ s.core.air.ports, x.role = 0) ∧ linkTimed s = false := by
    refine hm.imp (fun h => ?_) id
    rw [firstOffset]
    exact congrArg Option.isSome (if_pos (by simpa using h))
  unfold State.endStep
  extract_lets n rem reason ok
  have hn' : n = 8 := hn
  simp only [hn', Bool.false_and, Bool.false_eq_true, if_false]
  exact endSt8_ends hfirst

theorem endStep_st8_timeout (hn : s.core.sys.step = 8) : Ends s 8 (s.endStep f true) := by
  unfold State.endStep
  extract_lets n rem reason ok
  have hn' : n = 8 := hn
  simp only [hn', Bool.true_and]
  by_cases ho : (firstOffset s).isNone = true
  · rw [if_pos ho]
    exact ⟨_, _, _, rfl, rfl⟩
  · rw [if_neg ho]
    exact endSt8_ends (Or.inl (by simpa [Option.isSome_iff_ne_none] using ho))

end EndStep

/-! ### A required step that fails (R509) -/

theorem requiredFails_first {s : State} (hc : s.core.sys.cause = 0) (n reason : Nat) :
    (s.requiredFails n reason).core.sys.recoveryAt = some (dtOf s + 10000000) ∧ (s.requiredFails n reason).core.sys.record.final = 2 := by
  unfold State.requiredFails
  extract_lets again u
  have hagain : again = false := by simp [again, hc]
  rw [if_neg (by simp [hagain])]
  exact ⟨rfl, rfl⟩

theorem requiredFails_after {s u : State} (hu : quiet u = quiet s) (hc : s.core.sys.cause = 0) (n reason : Nat) :
    (u.requiredFails n reason).core.sys.recoveryAt = some (dtOf s + 10000000) ∧ (u.requiredFails n reason).core.sys.record.final = 2 := by
  have hcause : u.core.sys.cause = s.core.sys.cause := (congrArg (fun c : Core => c.sys.cause) hu : (quiet u).sys.cause = (quiet s).sys.cause)
  rw [← dtOf_of_quiet hu]
  exact requiredFails_first (hcause.trans hc) n reason

theorem endStep_st1_timeout {s : State} (f : StepFinding) (hn : s.core.sys.step = 1) (hc : s.core.sys.cause = 0) :
    (s.endStep f true).core.sys.recoveryAt = some (dtOf s + 10000000) ∧ (s.endStep f true).core.sys.record.final = 2 := by
  unfold State.endStep
  extract_lets n rem reason ok u
  have hn' : n = 1 := hn
  have hdt : dtOf u = dtOf s := holds_ite (P := fun t => dtOf t = dtOf s) (dtOf_of_quiet (quiet_err1 s ..) :) rfl
  have hcause : u.core.sys.cause = s.core.sys.cause := holds_ite (P := fun t : State => t.core.sys.cause = s.core.sys.cause)
    ((congrArg (fun c : Core => c.sys.cause) (quiet_err1 s ..) : (quiet (s.err1 3 6)).sys.cause = (quiet s).sys.cause) :) rfl
  simp only [hn', ok, Bool.not_true, Bool.and_false, Bool.false_and, Bool.false_eq_true, if_false]
  rw [← hdt]
  exact requiredFails_first (hcause.trans hc) 1 _

theorem endStep_st3_timeout {s : State} (f : StepFinding) (hn : s.core.sys.step = 3) (hc : s.core.sys.cause = 0) :
    (s.endStep f true).core.sys.recoveryAt = some (dtOf s + 10000000) ∧ (s.endStep f true).core.sys.record.final = 2 := by
  unfold State.endStep
  extract_lets n rem reason ok
  have hn' : n = 3 := hn
  simp only [hn', ok, Bool.not_true, Bool.and_false, Bool.false_eq_true, if_false]
  exact requiredFails_first hc 3 _

/-! ### ST2 (R511, R513) -/

section Image
variable {s : State} {f : StepFinding} (hb : s.core.sys.bootSrc ≠ 1) (hh : s.core.sys.hostSource = false)
include hb hh

theorem endSt2_accepts (hok : f.ok = true) (hm : f.mask = 0) (hsrc : f.source ≤ 1) (hi : imageOk s f.image = true) :
    s.endSt2 f = (s.acceptImage f.image f.source).stepDone 2 (if s.loft.remedies.flashSwap then 3 else 0) f.reason := by
  unfold State.endSt2
  extract_lets src good bad u reason
  have hgood : good = true := by simp [good, hok, hi, hsrc]
  have hbad (c : Nat) : bad c = false := by simp [bad, hgood, hm, bit]
  have hu : u = s := by simp [u, hbad]
  have hreason : reason = f.reason := by simp [reason, hbad]
  rw [if_neg (by simp [src, hb, hh]), if_pos hgood, hu, hreason]

theorem endSt2_rejects (hi : imageOk s f.image = false) (hz : s.core.sys.bootSrc = 0) :
    ∃ u r, quiet u = quiet s ∧ s.endSt2 f = u.requiredFails 2 r := by
  unfold State.endSt2
  extract_lets src good bad u reason
  have hgood : good = false := by simp [good, hi]
  have hu : quiet u = quiet s := foldl_unseen (F := quiet) (f := fun s c => if bad c then s.err1 3 7 c else s)
    (fun s c => holds_ite (P := fun t => quiet t = quiet s) (quiet_err1 ..) rfl) _ s
  rw [if_neg (by simp [src, hb, hh]), if_neg (by simp [hgood]), if_pos (by simp [src, hz])]
  exact ⟨u, _, hu, rfl⟩

end Image

theorem endStep_st2 {s : State} (f : StepFinding) (hn : s.core.sys.step = 2) : s.endStep f false = s.endSt2 f := by
  unfold State.endStep
  extract_lets n rem reason ok
  have hn' : n = 2 := hn
  simp only [hn', Bool.false_eq_true, if_false]

/-! ### ST7 (R521, R530) -/

theorem chanAt_zipIdx (s : State) (g : Chan × Nat → Chan) (hg : ∀ c, g ({ present := false }, c) = { present := false }) (c : Nat) :
    chanAt (s.modChans (fun l => l.zipIdx.map g)) c = g (chanAt s c, c) := by
  simp only [chanAt, State.modChans_core, List.getD_eq_getElem?_getD, List.getElem?_map, List.getElem?_zipIdx]
  cases s.core.chans[c]? with
  | none => exact (hg c).symm
  | some x => simp

/-- Channels through the end of a step. -/
theorem steady_chans : Steady (fun s => s.core.chans) :=
  ⟨⟨⟨fun _ _ => rfl, fun _ _ => rfl, fun _ _ _ => rfl, fun _ _ => rfl, fun _ _ _ _ _ => rfl⟩, fun _ _ => rfl, fun _ _ _ => rfl, fun _ _ => rfl⟩,
    fun _ _ => rfl, fun _ _ => rfl, fun _ _ _ => rfl⟩

/-- No channel fails and none is excluded: every channel of the part is in service. -/
theorem endSt7_all {s : State} (hskip : s.loft.remedies.chSkip = 0) (hp : ∃ c, c < nChans s ∧ (chanAt s c).present = true) (reason : Nat) :
    (s.endSt7 0 reason).core.sys.step = 8 ∧
      ∀ c, c < nChans s → (chanAt (s.endSt7 0 reason) c).inService = (chanAt s c).present := by
  unfold State.endSt7
  extract_lets skip out chs failed u v w x
  have hout (c : Nat) : out c = false := by simp [out, skip, hskip, bit]
  have hfailed : failed = [] := List.filter_eq_nil_iff.2 fun c _ => by simp [bit]
  have hv : v = u := List.foldl_fixed' (fun c => by simp [hfailed, skip, hskip, bit]) chs
  have hchan (c : Nat) : chanAt x c = { chanAt s c with inService := (chanAt s c).present } := by
    have hx : x.core.chans = u.core.chans := by
      change v.core.chans = u.core.chans
      rw [hv]
    have hu : chanAt u c = { chanAt s c with inService := (chanAt s c).present && !out c } := chanAt_zipIdx s _ (fun _ => rfl) c
    rw [chanAt, hx, ← chanAt, hu, hout]
    simp
  obtain ⟨c, hc, hpres⟩ := hp
  have hmem : c ∈ serviceChans x := by
    have hn : nChans x = nChans s := by
      have hhw : v.hw = u.hw := congrArg State.hw hv
      exact congrArg (fun w : Hw => if w.is968 then 8 else 4) hhw
    rw [serviceChans, List.mem_filter, List.mem_range, hn, hchan]
    exact ⟨hc, by simp [hpres]⟩
  have hsome : (serviceChans x).isEmpty = false := by
    rw [List.isEmpty_eq_false_iff]
    exact List.ne_nil_of_mem hmem
  rw [if_neg (by simp [hsome]), if_pos (by simp [hfailed])]
  refine ⟨stepDone_step x 7 _ 0, fun c _ => ?_⟩
  have hkeep := steady_chans.stepDone x 7 (if (skip == 0) = true then 0 else 3) 0
  rw [chanAt, hkeep, ← chanAt, hchan]

theorem endStep_st7 {s : State} (f : StepFinding) (hn : s.core.sys.step = 7) (hok : f.ok = true) :
    ∃ r, s.endStep f false = s.endSt7 0 r := by
  unfold State.endStep
  extract_lets n rem reason ok
  have hn' : n = 7 := hn
  simp only [hn', ok, hok, Bool.not_false, Bool.and_true, if_true]
  exact ⟨_, rfl⟩

/-! ### ST9 (R520, R521) -/

/-- What ST9 sets of the device. -/
def readyView (s : State) : Phase × Nat × Nat × Nat × Nat × Bool :=
  (s.core.sys.phase, s.core.sys.record.final, s.core.sys.record.dtReady, s.core.air.mu, s.core.link.deltaMs, s.core.map.inService)

theorem deaf_readyView : Deaf readyView := ⟨fun _ _ => rfl, fun _ _ => rfl, fun _ _ _ => rfl, fun _ _ => rfl, fun _ _ _ _ _ => rfl⟩

theorem noteStep_readyView (s : State) (n o r : Nat) : readyView (s.noteStep n o r) = readyView s := rfl

theorem useTable_dt (s : State) (img : List Byte) : dtOf (s.useTable img) = dtOf s := rfl

theorem layAreas_rest (s : State) : s.layAreas.core.time = s.core.time ∧ s.layAreas.core.air = s.core.air ∧ s.layAreas.core.link = s.core.link := by
  simp only [State.layAreas, State.modTiers_core, and_self]

theorem setPps_dt (s : State) (v : Nat) : dtOf (s.setPps v) = dtOf s := rfl

theorem setPps_mu (s : State) (v : Nat) : (s.setPps v).core.air.mu = s.core.air.mu := rfl

/-- The page of the slot table is bad. -/
def tableBad (s : State) : Bool := !(loftPage s 1).all (· == 0) && !slotImageOk s (loftPage s 1)

/-- The slot table is used, or its page reported. -/
def st9Table (s : State) : State :=
  let u := if tableBad s then s.err1 5 0 else s
  if !(loftPage s 1).all (· == 0) && slotImageOk s (loftPage s 1) then u.useTable (loftPage s 1) else u

/-- The settings of map channels, air time and PPS. -/
def st9Settings (set : Settings) (s : State) : State :=
  let maps := mapRoles s set.chMap
  let u := (s.modChans (fun l => l.zipIdx.map (fun p => { p.1 with mapRole := maps.contains p.2 }))).modAir
    (fun a => { a with mu := set.mu, epoch := set.epoch })
  if set.pps == 0x00640000 then u else u.setPps set.pps

/-- The links' interval, the areas and the map. -/
def st9Areas (set : Settings) (s : State) : State :=
  let s := (s.modLink (fun l => { l with deltaMs := set.deltaMs })).layAreas
  let s := s.modFus (fun f => { f with patchSlots := patchSlotsOf s })
  let s := s.modMap (fun m => { m with region := mapRegionOf s, inService := true })
  s.modPow (fun p => { p with pinSample := s.hw.capPins, pinCap := pinCapOf s.hw.part s.hw.capPins, pinNext := pinCapOf s.hw.part s.hw.capPins })

/-- The device is ready. -/
def st9Ready (set : Settings) (bad : Bool) (s : State) : State :=
  s.modSys (fun y =>
    { y with
      phase := .ready
      record := { y.record with
        final := 0
        dtReady := dtOf s
        flags := y.record.flags ||| packBits [(b2n set.defaulted, 1), (b2n bad, 2)] } })

/-- Each step's outcome is told by an event. -/
def outcomesTold (s : State) : State :=
  (List.range 10).foldl (fun s i => s.event 0x0004 [leBytes 1 i ++ leBytes 1 (s.core.sys.record.outcome.getD i 255)]) s

theorem endSt9_eq (s : State) : s.endSt9 =
    outcomesTold ((st9Ready (settingsOf (loftPage s 0)) (tableBad s)
      (st9Areas (settingsOf (loftPage s 0)) (st9Settings (settingsOf (loftPage s 0)) (st9Table s)))).noteStep 9
        (if tableBad s || (settingsOf (loftPage s 0)).changed then 3 else 0) 0) := by
  unfold State.endSt9
  extract_lets set img blank good s1 s2 maps s3 s4 s5 s6 s7 s8 s9 cap s10 bad s11 s12
  have h2 : s2 = st9Table s := rfl
  have h5 : s5 = st9Settings set s2 := rfl
  have h10 : s10 = st9Areas set s5 := rfl
  have h11 : s11 = st9Ready set bad s10 := rfl
  have h12 : s12 = s11.noteStep 9 (if bad || set.changed then 3 else 0) 0 := rfl
  change outcomesTold s12 = _
  have hbad : bad = tableBad s := rfl
  rw [h12, h11, h10, h5, h2, hbad]

theorem st9Table_dt (s : State) : dtOf (st9Table s) = dtOf s := by
  unfold st9Table
  extract_lets u
  have hu : dtOf u = dtOf s := by
    unfold u
    split
    · exact dtOf_of_quiet (quiet_err1 s ..)
    · rfl
  split
  · exact (useTable_dt u _).trans hu
  · exact hu

theorem st9Settings_view (set : Settings) (s : State) : dtOf (st9Settings set s) = dtOf s ∧ (st9Settings set s).core.air.mu = set.mu := by
  unfold st9Settings
  extract_lets maps u
  split
  · exact ⟨rfl, rfl⟩
  · exact ⟨setPps_dt u _, setPps_mu u _⟩

theorem st9Areas_view (set : Settings) (s : State) : dtOf (st9Areas set s) = dtOf s ∧ (st9Areas set s).core.air.mu = s.core.air.mu ∧
    (st9Areas set s).core.link.deltaMs = set.deltaMs ∧ (st9Areas set s).core.map.inService = true := by
  obtain ⟨htime, hair, hlink⟩ := layAreas_rest (s.modLink (fun l => { l with deltaMs := set.deltaMs }))
  unfold st9Areas
  generalize (s.modLink (fun l => { l with deltaMs := set.deltaMs })).layAreas = u at htime hair hlink
  have hdt : dtOf u = dtOf s := by rw [dtOf, htime, dtOf]; rfl
  have hmu : u.core.air.mu = s.core.air.mu := by rw [hair]; rfl
  have hdelta : u.core.link.deltaMs = set.deltaMs := by rw [hlink]; rfl
  exact ⟨hdt, hmu, hdelta, rfl⟩

theorem st9Ready_view (set : Settings) (bad : Bool) (s : State) : readyView (st9Ready set bad s) =
    (.ready, 0, dtOf s, s.core.air.mu, s.core.link.deltaMs, s.core.map.inService) := rfl

theorem outcomesTold_view (s : State) : readyView (outcomesTold s) = readyView s :=
  foldl_unseen (F := readyView) (f := fun s i => s.event 0x0004 [leBytes 1 i ++ leBytes 1 (s.core.sys.record.outcome.getD i 255)])
    (fun s _ => deaf_readyView.event s _ _) (List.range 10) s

theorem endSt9_view (s : State) : readyView s.endSt9 =
    (.ready, 0, dtOf s, (settingsOf (loftPage s 0)).mu, (settingsOf (loftPage s 0)).deltaMs, true) := by
  obtain ⟨hdt, hmu, hdelta, hmap⟩ := st9Areas_view (settingsOf (loftPage s 0)) (st9Settings (settingsOf (loftPage s 0)) (st9Table s))
  obtain ⟨hdt', hmu'⟩ := st9Settings_view (settingsOf (loftPage s 0)) (st9Table s)
  rw [endSt9_eq, outcomesTold_view, noteStep_readyView, st9Ready_view, hdt, hmu, hdelta, hmap, hdt', hmu', st9Table_dt]

theorem endStep_st9 {s : State} (f : StepFinding) (hn : s.core.sys.step = 9) : s.endStep f false = s.endSt9 := by
  unfold State.endStep
  extract_lets n rem reason ok
  have hn' : n = 9 := hn
  simp only [hn', Bool.false_eq_true, if_false]

/-! ### The steps together -/

theorem exec_startStepEnd {s : State} (h : stepping s = true) (f : StepFinding) : exec (.startStepEnd f) s = .next (s.endStep f false) := by
  change execStartStepEnd f s = _
  rw [execStartStepEnd, if_pos h]

theorem exec_startStepTimeout {s : State} (h : stepping s = true) (hh : s.core.sys.hostSource = false)
    (hd : s.core.sys.stepBegan + stepBound s.core.sys.step < dtOf s) (f : StepFinding) :
    exec (.startStepTimeout f) s = .next (s.endStep f true) := by
  change execStartStepTimeout f s = _
  simp only [execStartStepTimeout, h, hh, Bool.and_false, Bool.false_eq_true, if_false, hd, decide_true, Bool.and_self, if_true]

theorem phase_of_stepping {s : State} (h : stepping s = true) : s.core.sys.phase = .starting := by
  simp only [stepping, Bool.and_eq_true, beq_iff_eq] at h
  exact h.1.2

theorem Ends.phase {s t : State} {n : Nat} (h : Ends s n t) (hs : stepping s = true) : t.core.sys.phase = .starting :=
  (congrArg Prod.fst h.view).trans (phase_of_stepping hs)

theorem step_ends {s : State} {f : StepFinding} (hok : f.ok = true) (hm : f.mask = 0) {n : Nat} (hn : s.core.sys.step = n)
    (h : n = 1 ∨ n = 3 ∨ n = 4 ∨ n = 5 ∨ n = 6) : Ends s n (s.endStep f false) := by
  rcases h with rfl | rfl | rfl | rfl | rfl
  · exact endStep_st1 f hn hok hm
  · exact endStep_st3 f hn hok
  · exact endStep_st4 f hn false
  · exact endStep_st5 f hn false
  · exact endStep_st6 f hn false

theorem step_times_out {s : State} (f : StepFinding) {n : Nat} (hn : s.core.sys.step = n) (h : n = 4 ∨ n = 5 ∨ n = 6 ∨ n = 8) :
    Ends s n (s.endStep f true) := by
  rcases h with rfl | rfl | rfl | rfl
  · exact endStep_st4 f hn true
  · exact endStep_st5 f hn true
  · exact endStep_st6 f hn true
  · exact endStep_st8_timeout f hn

/-- ST2: an image that passes R513 is the firmware; one that fails, in a first start from flash, leads to a recovery reset. -/
theorem st2_ends {s : State} (f : StepFinding) (hs : stepping s = true) (hok : f.ok = true) (hm : f.mask = 0) (hn : s.core.sys.step = 2)
    (hb : s.core.sys.bootSrc ≠ 1) (hh : s.core.sys.hostSource = false) (hsrc : f.source ≤ 1) :
    ∃ t, exec (.startStepEnd f) s = .next t ∧
      (imageOk s f.image = true → t.core.sys.step = 3 ∧ t.core.sys.fwMeas = sm3 f.image ∧ t.core.sys.fwVersion = fieldAt f.image 8 4) ∧
      (imageOk s f.image = false → s.core.sys.bootSrc = 0 → s.core.sys.cause = 0 →
        t.core.sys.recoveryAt = some (dtOf s + 10000000)) := by
  refine ⟨_, exec_startStepEnd hs f, fun hi => ?_, fun hi hz hc => ?_⟩
  · rw [endStep_st2 f hn, endSt2_accepts hb hh hok hm hsrc hi]
    have hview := steady_startView.stepDone (s.acceptImage f.image f.source) 2 (if s.loft.remedies.flashSwap then 3 else 0) f.reason
    simp only [startView, Prod.mk.injEq] at hview
    obtain ⟨-, -, hver, hmeas⟩ := hview
    exact ⟨stepDone_step _ 2 _ _, hmeas, hver⟩
  · obtain ⟨u, r, hu, hend⟩ := endSt2_rejects (f := f) hb hh hi hz
    rw [endStep_st2 f hn, hend]
    exact (requiredFails_after hu hc 2 r).1

/-- Settles O35. -/
theorem startStepsAdvance : Obligations.StartStepsAdvance := by
  unfold Obligations.StartStepsAdvance
  intro s f hs
  refine ⟨fun hok hm => ⟨fun n hn h => ?ends, st2_ends f hs hok hm, fun hn hskip hp => ?st7, fun hn hm8 => ?st8, fun hn => ?st9⟩,
    fun n hn hh hd => ⟨fun h hc => ?required, fun h => ?bound⟩⟩
  case ends =>
    have he := step_ends hok hm hn h
    exact ⟨_, exec_startStepEnd hs f, he.step, he.phase hs⟩
  case st7 =>
    obtain ⟨r, he⟩ := endStep_st7 f hn hok
    refine ⟨_, exec_startStepEnd hs f, ?_⟩
    rw [he]
    exact endSt7_all hskip hp r
  case st8 => exact ⟨_, exec_startStepEnd hs f, (endStep_st8 f hn hm8).step⟩
  case st9 =>
    refine ⟨_, exec_startStepEnd hs f, ?_⟩
    rw [endStep_st9 f hn]
    have hview := endSt9_view s
    simp only [readyView, Prod.mk.injEq] at hview
    exact hview
  case required =>
    refine ⟨_, exec_startStepTimeout hs hh (hn ▸ hd) f, ?_⟩
    rcases h with rfl | rfl
    · exact endStep_st1_timeout f hn hc
    · exact endStep_st3_timeout f hn hc
  case bound => exact ⟨_, exec_startStepTimeout hs hh (hn ▸ hd) f, (step_times_out f hn h).step⟩

end Sys2Proof.Machine
end

section
/-! The commands on time (R364, R373, R375 to R379, R383, R387): the air epoch, PTP ports, the event table, pins, launch slots. -/
namespace Sys2Proof.Machine

section QuietAir
variable {s t : State} (h : quiet t = quiet s)
include h
theorem air_of_quiet : t.core.air = s.core.air := (congrArg Core.air h : (quiet t).air = (quiet s).air)
theorem scu_of_quiet : t.core.scu = s.core.scu := (congrArg Core.scu h : (quiet t).scu = (quiet s).scu)
end QuietAir

/-! ### Keys that rise -/

theorem NMap.ne_of_get_none {α : Type} {m : NMap α} (hm : risingKeys m = true) {k : Nat} (hk : NMap.get? m k = none) : ∀ p ∈ m, p.1 ≠ k := by
  rw [risingKeys_iff] at hm
  induction m with
  | nil => exact fun p hp => absurd hp (by simp)
  | cons a m ih =>
    obtain ⟨j, v⟩ := a
    obtain ⟨hhead, htail⟩ := List.pairwise_cons.1 hm
    simp only [NMap.get?] at hk
    intro p hp
    rcases List.mem_cons.1 hp with rfl | hp
    · intro h
      rw [if_pos h] at hk
      exact absurd hk (by simp)
    · split at hk
      · exact absurd hk (by simp)
      · split at hk
        · have := hhead p hp
          omega
        · exact ih htail hk p hp

theorem NMap.erase_of_get_none {α : Type} {m : NMap α} (hm : risingKeys m = true) {k : Nat} (hk : NMap.get? m k = none) : NMap.erase m k = m :=
  List.filter_eq_self.2 fun p hp => by simpa using NMap.ne_of_get_none hm hk p hp

/-! ### The event table loses entries (R375, R378) -/

theorem removeEvent_events (s : State) (k : Nat) {e : EvEntry} (h : NMap.get? s.core.air.events k = some e) :
    (s.removeEvent k).core.air.events = NMap.erase s.core.air.events k := by
  rw [State.removeEvent, h]
  exact holds_ite (P := fun t : State => t.core.air.events = NMap.erase s.core.air.events k) rfl rfl

theorem removeEvent_rising {s : State} (hs : risingKeys s.core.air.events = true) (k : Nat) :
    (s.removeEvent k).core.air.events = NMap.erase s.core.air.events k := by
  cases h : NMap.get? s.core.air.events k with
  | none =>
    rw [NMap.erase_of_get_none hs h, State.removeEvent, h]
  | some e => exact removeEvent_events s k h

/-- Of what the removal of an entry leaves: hatches, time, the sample conditioning unit. -/
def eventless (s : State) : Hatches × Time × Scu := (s.core.hat, s.core.time, s.core.scu)

theorem removeEvent_rest (s : State) (k : Nat) : eventless (s.removeEvent k) = eventless s := by
  unfold State.removeEvent
  split
  · rfl
  · exact holds_ite (P := fun t => eventless t = eventless s) rfl rfl

theorem removeEvents_rest (s : State) (f : EvEntry → Bool) : eventless (s.removeEvents f) = eventless s :=
  foldl_unseen (fun s k => removeEvent_rest s k) _ s

/-- Entries removed one by one: those whose keys are not named stay. -/
theorem removeEvent_foldl (l : List Nat) : ∀ s : State, risingKeys s.core.air.events = true →
    (l.foldl State.removeEvent s).core.air.events = s.core.air.events.filter (fun p => !l.contains p.1) := by
  induction l with
  | nil => exact fun s _ => by simp
  | cons k l ih =>
    intro s hs
    have hone := removeEvent_rising hs k
    rw [List.foldl_cons, ih _ (by rw [hone]; exact risingKeys_erase _ k hs), hone, NMap.erase, List.filter_filter]
    refine List.filter_congr fun p _ => ?_
    rw [List.contains_cons, Bool.not_or, Bool.and_comm]
    rfl

theorem removeEvents_all {s : State} (hs : risingKeys s.core.air.events = true) : (s.removeEvents (fun _ => true)).core.air.events = [] := by
  rw [State.removeEvents, removeEvent_foldl _ s hs]
  refine List.filter_eq_nil_iff.2 fun p hp => ?_
  have hmem : p.1 ∈ (s.core.air.events.filter (fun _ => true)).map (·.1) := List.mem_map.2 ⟨p, by simpa using hp, rfl⟩
  simp only [Bool.not_eq_true', Bool.not_eq_false, List.contains_iff_mem]
  exact hmem

/-! ### AIR_EPOCH_SET (R373, R375) -/

theorem setEpoch_open {s u : State} {h : Nat} (o : Open s h u) (mu : Nat) (e : Int) : Open s h (u.setEpoch mu e) := by
  have hrest := removeEvents_rest u (fun _ => true)
  simp only [eventless, Prod.mk.injEq] at hrest
  exact o.step hrest.1 hrest.2.1

theorem setEpoch_events {s : State} (hs : risingKeys s.core.air.events = true) (mu : Nat) (e : Int) :
    (s.setEpoch mu e).core.air.events = [] := removeEvents_all hs

theorem loseRefs_none (s : State) : ∀ b ∈ (s.loseRefs (fun _ => true)).core.scu.bindings, b.2.ref = none := by
  intro b hb
  obtain ⟨c, -, rfl⟩ := List.mem_map.1 hb
  dsimp only
  cases hc : c.2.ref with
  | none => simp [hc]
  | some r => simp

theorem airEpochSetBody_ok {r : Req} {s : State} (hmu : r.u8 0 ≤ 3) (he : epochOk (intAt r.payload 8 8) = true) :
    airEpochSetBody r s = (s.setEpoch (r.u8 0) (intAt r.payload 8 8)).place r.h 0x00 := by
  unfold airEpochSetBody
  dsimp only
  rw [guarded_pass (by simp [hmu, he])]

theorem airEpochSet_acts {s : State} {h : Nat} {p : List Byte} (ht : takes s h 0x0602 p = true) (hmu : fieldAt p 0 1 ≤ 3)
    (he : epochOk (intAt p 8 8) = true) :
    ∃ t, exec (.airEpochSet h) s = .next t ∧ Answered s h 0x00 [] t ∧ t.core.air.mu = fieldAt p 0 1 ∧ t.core.air.epoch = intAt p 8 8 ∧
      (risingKeys s.core.air.events = true → t.core.air.events = []) ∧ (∀ b ∈ t.core.scu.bindings, b.2.ref = none) := by
  have hair : (taken s h).core.air = s.core.air := taken_unseen (fun s => s.core.air) (fun _ _ _ _ _ _ => rfl) s h
  have hbody := airEpochSetBody_ok (r := requestIn s h p) (s := taken s h) hmu he
  have hopen := setEpoch_open (open_taken ht) (fieldAt p 0 1) (intAt p 8 8)
  have hquiet := quiet_place ((taken s h).setEpoch (fieldAt p 0 1) (intAt p 8 8)) h 0x00 []
  refine ⟨_, next_of_takes ht (t := ((taken s h).setEpoch (fieldAt p 0 1) (intAt p 8 8)).place h 0x00) hbody,
    hopen.answered_place 0x00 [] (by decide), ?_⟩
  rw [air_of_quiet hquiet, scu_of_quiet hquiet]
  exact ⟨rfl, rfl, fun hs => setEpoch_events (by rw [hair]; exact hs) _ _, loseRefs_none _⟩

/-! ### PTP_PORT_SET (R364) -/

theorem setClockQ_air (s : State) (q : ClockQ) : (s.setClockQ q).core.air = s.core.air := by
  unfold State.setClockQ
  extract_lets old u v
  refine holds_ite (P := fun t : State => t.core.air = s.core.air) rfl ?_
  rw [air_of_quiet (quiet_event v _ _)]
  unfold v
  split
  · exact (air_of_quiet (quiet_err1 u ..) : (u.err1 1 5).core.air = u.core.air)
  · rfl

theorem ptpPortAt_modPtp_self {s : State} {p : Nat} (hp : p < s.core.air.ports.length) (f : PtpPort → PtpPort) :
    ptpPortAt (s.modPtp p f) p = f (ptpPortAt s p) := getD_updAt_self _ _ _ _ hp

theorem ptpPortAt_modPtp_other (s : State) {p q : Nat} (f : PtpPort → PtpPort) (h : q ≠ p) : ptpPortAt (s.modPtp p f) q = ptpPortAt s q :=
  getD_updAt_other _ _ _ _ _ h

theorem length_modPtp (s : State) (p : Nat) (f : PtpPort → PtpPort) : (s.modPtp p f).core.air.ports.length = s.core.air.ports.length :=
  length_updAt _ _ _

/-- A port's entry but for its state, its protocol's progress and what it has heard. -/
def ptpSettings (x : PtpPort) : Nat × Nat × Nat × Int := (x.role, x.domain, x.stepMode, x.asym)

/-- A change of state: the port's state is that, its settings and the other ports stand. -/
theorem setPtpState_ports {s : State} {p : Nat} (hp : p < s.core.air.ports.length) (st : PtpState) :
    (ptpPortAt (s.setPtpState p st) p).state = st ∧ ptpSettings (ptpPortAt (s.setPtpState p st) p) = ptpSettings (ptpPortAt s p) ∧
      (∀ q, q ≠ p → ptpPortAt (s.setPtpState p st) q = ptpPortAt s q) ∧
      (s.setPtpState p st).core.air.ports.length = s.core.air.ports.length := by
  unfold State.setPtpState
  extract_lets old u
  have hair (t : State) (ht : t.core.air = u.core.air) : (ptpPortAt t p).state = st ∧ ptpSettings (ptpPortAt t p) = ptpSettings (ptpPortAt s p) ∧
      (∀ q, q ≠ p → ptpPortAt t q = ptpPortAt s q) ∧ t.core.air.ports.length = s.core.air.ports.length := by
    have hport (q : Nat) : ptpPortAt t q = ptpPortAt u q := by rw [ptpPortAt, ht, ptpPortAt]
    have hself := ptpPortAt_modPtp_self hp
      (fun x => { x with state := st, heard := if st == .listening && old != .listening then dtOf s else x.heard })
    rw [hport, ht]
    refine ⟨?_, ?_, fun q hq => (hport q).trans (ptpPortAt_modPtp_other s _ hq), length_modPtp s p _⟩
    · rw [hself]
    · rw [hself]; rfl
  split
  · exact hair _ (setClockQ_air u _)
  · exact hair _ rfl

theorem restartPtp_ports {s : State} {p : Nat} (hp : p < s.core.air.ports.length) :
    ptpSettings (ptpPortAt (s.restartPtp p) p) = ptpSettings (ptpPortAt s p) ∧ (∀ q, q ≠ p → ptpPortAt (s.restartPtp p) q = ptpPortAt s q) ∧
      (s.restartPtp p).core.air.ports.length = s.core.air.ports.length := by
  unfold State.restartPtp
  obtain ⟨-, hset, hother, hlen⟩ := setPtpState_ports (s := s.modPtp p (fun x =>
    { x with egress := [], seq := 0, announce := none, sync := none, delayReq := none, delay := none, lost := false })) (p := p)
    (by rwa [length_modPtp]) .listening
  refine ⟨hset.trans ?_, fun q hq => (hother q hq).trans (ptpPortAt_modPtp_other s _ hq), hlen.trans (length_modPtp s p _)⟩
  rw [ptpPortAt_modPtp_self hp]
  rfl

/-- R364: what a PTP_PORT_SET layout makes of its port; the other port stands. -/
theorem setPtpPort_ports {s : State} {p : Nat} (hp : p < s.core.air.ports.length) (b : List Byte) :
    (ptpPortAt (s.setPtpPort p b) p).role = fieldAt b 1 1 ∧ (∀ q, q ≠ p → ptpPortAt (s.setPtpPort p b) q = ptpPortAt s q) ∧
      (fieldAt b 1 1 = 0 → (ptpPortAt (s.setPtpPort p b) p).state = .disabled) ∧
      (fieldAt b 1 1 ≠ 0 → (ptpPortAt (s.setPtpPort p b) p).domain = fieldAt b 2 1 ∧
        (ptpPortAt (s.setPtpPort p b) p).stepMode = fieldAt b 3 1 ∧ (ptpPortAt (s.setPtpPort p b) p).asym = intAt b 4 4) := by
  unfold State.setPtpPort
  extract_lets x role u
  by_cases hrole : fieldAt b 1 1 = 0
  · rw [if_pos (by simp [role, hrole])]
    obtain ⟨-, hother, hlen⟩ := restartPtp_ports hp
    have hp' : p < (s.restartPtp p).core.air.ports.length := by rwa [hlen]
    obtain ⟨hstate, hset, hother', -⟩ := setPtpState_ports (s := (s.restartPtp p).modPtp p (fun y => { y with role := 0 })) (p := p)
      (by rwa [length_modPtp]) .disabled
    have hzero := congrArg Prod.fst hset
    rw [ptpPortAt_modPtp_self hp'] at hzero
    exact ⟨hzero.trans hrole.symm, fun q hq => (hother' q hq).trans ((ptpPortAt_modPtp_other _ _ hq).trans (hother q hq)),
      fun _ => hstate, fun h => absurd hrole h⟩
  · rw [if_neg (by simp [role, hrole])]
    have hu : ptpPortAt u p = { ptpPortAt s p with role := role, domain := fieldAt b 2 1, stepMode := fieldAt b 3 1, asym := intAt b 4 4 } :=
      ptpPortAt_modPtp_self hp _
    have hother (q : Nat) (hq : q ≠ p) : ptpPortAt u q = ptpPortAt s q := ptpPortAt_modPtp_other s _ hq
    have told (t : State) (ht : ptpSettings (ptpPortAt t p) = ptpSettings (ptpPortAt u p)) (ho : ∀ q, q ≠ p → ptpPortAt t q = ptpPortAt u q) :
        (ptpPortAt t p).role = fieldAt b 1 1 ∧ (∀ q, q ≠ p → ptpPortAt t q = ptpPortAt s q) ∧
          (fieldAt b 1 1 = 0 → (ptpPortAt t p).state = .disabled) ∧
          (fieldAt b 1 1 ≠ 0 → (ptpPortAt t p).domain = fieldAt b 2 1 ∧ (ptpPortAt t p).stepMode = fieldAt b 3 1 ∧
            (ptpPortAt t p).asym = intAt b 4 4) := by
      rw [hu] at ht
      simp only [ptpSettings, Prod.mk.injEq] at ht
      obtain ⟨h1, h2, h3, h4⟩ := ht
      exact ⟨h1, fun q hq => (ho q hq).trans (hother q hq), fun h => absurd h hrole, fun _ => ⟨h2, h3, h4⟩⟩
    split
    · exact told u rfl fun _ _ => rfl
    · obtain ⟨hset, ho, -⟩ := restartPtp_ports (s := u) (p := p) (by rw [length_modPtp]; exact hp)
      exact told _ hset ho

theorem airless_hat : Airless (fun s => s.core.hat) := ⟨deaf_hat, fun _ _ => rfl, fun _ _ _ => rfl, fun _ _ => rfl⟩

theorem dtOf_of_acc {s t : State} (h : t.core.time.acc = s.core.time.acc) : dtOf t = dtOf s := by rw [dtOf, h, dtOf]

theorem airless_dtOf : Airless dtOf := by
  refine ⟨⟨fun _ _ => rfl, fun _ _ => rfl, fun _ _ _ => rfl, fun _ _ => rfl, fun _ _ _ _ _ => rfl⟩, fun _ _ => rfl, fun s f hf => ?_, fun _ _ => rfl⟩
  exact dtOf_of_acc (hf s.core.time)

theorem ptpPortSetBody_ok {r : Req} {s : State} (hp : r.u8 0 ≤ 1) (hf : ptpFieldOk r.payload = true)
    (hr : rolesOk (r.u8 1) (ptpPortAt s (1 - r.u8 0)).role = true) : ptpPortSetBody r s = (s.setPtpPort (r.u8 0) r.payload).place r.h 0x00 := by
  unfold ptpPortSetBody
  dsimp only
  rw [guarded_pass (by simp [hp, hf, hr])]

theorem ptpPortSet_acts {s : State} {h : Nat} {p : List Byte} (ht : takes s h 0x0603 p = true) (hp : fieldAt p 0 1 ≤ 1)
    (hf : ptpFieldOk p = true) (hlen : s.core.air.ports.length = 2)
    (hr : rolesOk (fieldAt p 1 1) (ptpPortAt s (1 - fieldAt p 0 1)).role = true) :
    ∃ t, exec (.ptpPortSet h) s = .next t ∧ Answered s h 0x00 [] t ∧ (ptpPortAt t (fieldAt p 0 1)).role = fieldAt p 1 1 ∧
      ptpPortAt t (1 - fieldAt p 0 1) = ptpPortAt s (1 - fieldAt p 0 1) ∧
      (fieldAt p 1 1 = 0 → (ptpPortAt t (fieldAt p 0 1)).state = .disabled) ∧
      (fieldAt p 1 1 ≠ 0 → (ptpPortAt t (fieldAt p 0 1)).domain = fieldAt p 2 1 ∧
        (ptpPortAt t (fieldAt p 0 1)).stepMode = fieldAt p 3 1 ∧ (ptpPortAt t (fieldAt p 0 1)).asym = intAt p 4 4) := by
  have hair : (taken s h).core.air = s.core.air := taken_unseen (fun s => s.core.air) (fun _ _ _ _ _ _ => rfl) s h
  have hport (n : Nat) : ptpPortAt (taken s h) n = ptpPortAt s n := by rw [ptpPortAt, hair, ptpPortAt]
  have hbody := ptpPortSetBody_ok (r := requestIn s h p) (s := taken s h) hp hf
    ((congrArg (fun x : PtpPort => rolesOk (fieldAt p 1 1) x.role) (hport _)).trans hr)
  have hlt : fieldAt p 0 1 < (taken s h).core.air.ports.length := by rw [hair, hlen]; omega
  obtain ⟨hrole, hother, hzero, hset⟩ := setPtpPort_ports hlt p
  have hopen : Open s h ((taken s h).setPtpPort (fieldAt p 0 1) p) := by
    have o := open_taken ht
    have hhat := airless_hat.setPtpPort (taken s h) (fieldAt p 0 1) p
    exact ⟨by rw [hhat]; exact o.mem, (airless_dtOf.setPtpPort _ _ _).trans o.dt, by rw [hhat]; exact o.lt, o.lt64⟩
  have hquiet := quiet_place ((taken s h).setPtpPort (fieldAt p 0 1) p) h 0x00 []
  refine ⟨_, next_of_takes ht (t := ((taken s h).setPtpPort (fieldAt p 0 1) p).place h 0x00) hbody,
    hopen.answered_place 0x00 [] (by decide), ?_⟩
  have hplaced (n : Nat) : ptpPortAt (((taken s h).setPtpPort (fieldAt p 0 1) p).place h 0x00) n =
      ptpPortAt ((taken s h).setPtpPort (fieldAt p 0 1) p) n := by rw [ptpPortAt, air_of_quiet hquiet, ptpPortAt]
  rw [hplaced, hplaced]
  exact ⟨hrole, (hother _ (by omega)).trans (hport _), hzero, hset⟩

end Sys2Proof.Machine
end

section
/-! EVENT_ADD, EVENT_REMOVE, TEV_SET and LAUNCH_QUEUE (R376 to R379, R383, R385, R387). -/
namespace Sys2Proof.Machine

/-! ### EVENT_ADD -/

/-- The entry that an EVENT_ADD makes. -/
def eventOf (s : State) (b : List Byte) : EvEntry :=
  { next := firstInstant s (fieldAt b 0 2) (fieldAt b 2 1) (fieldAt b 3 1) (fieldAt b 4 1) (fieldAt b 6 2) (fieldAt b 8 4)
    period := fieldAt b 6 2
    sfn := sfnOf s (firstInstant s (fieldAt b 0 2) (fieldAt b 2 1) (fieldAt b 3 1) (fieldAt b 4 1) (fieldAt b 6 2) (fieldAt b 8 4))
    action := fieldAt b 5 1
    arg := fieldAt b 12 4 }

/-- The fields of EVENT_ADD's layout are in range. -/
structure EventFields (s : State) (b : List Byte) : Prop where
  sfn : fieldAt b 0 2 ≤ 1023
  sub : fieldAt b 2 1 ≤ 9
  slot : fieldAt b 3 1 < 2 ^ s.core.air.mu
  sym : fieldAt b 4 1 ≤ 13
  actionLow : 1 ≤ fieldAt b 5 1
  actionHigh : fieldAt b 5 1 ≤ 6
  period : fieldAt b 6 2 = 0 ∨ ∃ k, k ≤ 10 ∧ fieldAt b 6 2 = 2 ^ k
  offset : fieldAt b 8 4 < 40000000
  arg : argOk (fieldAt b 5 1) (fieldAt b 12 4) = true

theorem ringSize_of_pow {k v : Nat} (hk : k ≤ 10) (hv : v = 2 ^ k) : eventAddBody.ringSize' v = true := by
  have hle : (2 : Nat) ^ k ≤ 2 ^ 10 := Nat.pow_le_pow_right (by decide) hk
  subst hv
  simpa [eventAddBody.ringSize', Nat.log2_two_pow] using hle

theorem eventAddBody_ok {r : Req} {s : State} {i : Nat} (hf : EventFields s r.payload)
    (hact : firstOf (actionChecks s (fieldAt r.payload 5 1) (fieldAt r.payload 12 4)) = none)
    (hi : NMap.lowestFree s.core.air.events 65536 = some i)
    (hroom : ∀ x, x < 1024 → occupies (eventOf s r.payload).sfn (fieldAt r.payload 6 2) x = true →
      (s.core.air.events.filter (fun e => occupies e.2.sfn e.2.period x)).length < 1024) :
    eventAddBody r s =
      (s.modAir (fun a => { a with events := NMap.set a.events i (eventOf s r.payload) })).place r.h 0x00 (leBytes 2 i) := by
  have hring : (r.u16 6 == 0 || eventAddBody.ringSize' (r.u16 6)) = true := by
    rcases hf.period with h | ⟨k, hk, h⟩
    · simp [Req.u16, h]
    · simp [ringSize_of_pow hk (show r.u16 6 = 2 ^ k from h)]
  unfold eventAddBody
  extract_lets sfn period off ranges e₀ e crowded idx
  have hcrowded : crowded = false := by
    refine List.any_eq_false.2 fun x hx h => ?_
    simp only [Bool.and_eq_true, decide_eq_true_eq] at h
    exact absurd (hroom x (List.mem_range.1 hx) h.1) (Nat.not_lt.2 h.2)
  have hidx : idx = some i := hi
  have hranges : ranges = true := by
    have h : (decide (sfn ≤ 1023) && decide (r.u8 2 ≤ 9) && decide (r.u8 3 < 2 ^ s.core.air.mu) && decide (r.u8 4 ≤ 13) &&
        decide (1 ≤ r.u8 5) && decide (r.u8 5 ≤ 6)) = true := by
      simp only [Bool.and_eq_true, decide_eq_true_eq]
      exact ⟨⟨⟨⟨⟨hf.sfn, hf.sub⟩, hf.slot⟩, hf.sym⟩, hf.actionLow⟩, hf.actionHigh⟩
    have hoff : decide (off < 40000000) = true := decide_eq_true hf.offset
    unfold ranges
    rw [h, hring, hoff]
    rfl
  have harg : argOk (r.u8 5) (r.u32 12) = true := hf.arg
  have hchecks : ∀ c ∈ actionChecks s (r.u8 5) (r.u32 12), c = none := List.findSome?_eq_none_iff.1 hact
  have hpass : ∀ c ∈ [need (ranges && argOk (r.u8 5) (r.u32 12)) 0x11] ++ actionChecks s (r.u8 5) (r.u32 12) ++
      [need (!crowded) 0x13, need idx.isSome 0x13], c = none := by
    simp only [List.forall_mem_append, List.forall_mem_cons, need_eq_none, hranges, harg, hcrowded, hidx, Bool.and_self, Bool.not_false,
      Option.isSome_some, List.not_mem_nil, false_imp_iff, implies_true, and_true, true_and]
    exact hchecks
  rw [guarded_pass hpass, hidx]
  rfl

section EventAdd
variable {s : State} {h : Nat} {p : List Byte} (ht : takes s h 0x0604 p = true)
include ht

theorem eventAdd_responds {i : Nat} (hf : EventFields s p)
    (hact : firstOf (actionChecks s (fieldAt p 5 1) (fieldAt p 12 4)) = none) (hi : NMap.lowestFree s.core.air.events 65536 = some i)
    (hroom : ∀ x, x < 1024 → occupies (eventOf s p).sfn (fieldAt p 6 2) x = true →
      (s.core.air.events.filter (fun e => occupies e.2.sfn e.2.period x)).length < 1024) :
    Responds s h 0x00 (leBytes 2 i) (s.core.withEvents (NMap.set s.core.air.events i (eventOf s p))) (exec (.eventAdd h) s) := by
  have hair : (taken s h).core.air = s.core.air := taken_unseen (fun s => s.core.air) (fun _ _ _ _ _ _ => rfl) s h
  have hchecks : actionChecks (taken s h) (fieldAt p 5 1) (fieldAt p 12 4) = actionChecks s (fieldAt p 5 1) (fieldAt p 12 4) :=
    taken_unseen (fun s => actionChecks s (fieldAt p 5 1) (fieldAt p 12 4)) (fun _ _ _ _ _ _ => rfl) s h
  have hevent : eventOf (taken s h) p = eventOf s p := taken_unseen (fun s => eventOf s p) (fun _ _ _ _ _ _ => rfl) s h
  have hf' : EventFields (taken s h) p := ⟨hf.sfn, hf.sub, hair ▸ hf.slot, hf.sym, hf.actionLow, hf.actionHigh, hf.period, hf.offset, hf.arg⟩
  have hbody := eventAddBody_ok (r := requestIn s h p) (s := taken s h) (i := i) hf' (hchecks ▸ hact) (hair ▸ hi)
    (by rw [hair]; exact hevent ▸ hroom)
  have hbody' : eventAddBody (requestIn s h p) (taken s h) =
      ((taken s h).modAir (fun a => { a with events := NMap.set a.events i (eventOf s p) })).place h 0x00 (leBytes 2 i) := by
    rw [← hevent]
    exact hbody
  exact responds_of_takes ht hbody' (((laid_of_takes ht).modAir _).place 0x00 _ (by decide))

end EventAdd

/-! ### EVENT_REMOVE (R378, R385) -/

theorem removeEvent_launch {s : State} {k : Nat} {e : EvEntry} (h : NMap.get? s.core.air.events k = some e) :
    (e.action = 5 → NMap.get? (s.removeEvent k).core.air.launch (64 * bits e.arg 8 8 + bits e.arg 5 0) = none) ∧
      (e.action ≠ 5 → (s.removeEvent k).core.air.launch = s.core.air.launch) := by
  rw [State.removeEvent, h]
  dsimp only
  refine ⟨fun h5 => ?_, fun h5 => ?_⟩
  · split
    · exact NMap.get_erase_self _ _
    · next hn =>
      rw [h5] at hn
      simpa [NMap.has] using hn
  · rw [if_neg (by simp [h5])]
    rfl

theorem eventRemoveBody_ok {r : Req} {s : State} {e : EvEntry} (he : NMap.get? s.core.air.events (r.u16 0) = some e) :
    eventRemoveBody r s = (s.removeEvent (r.u16 0)).place r.h 0x00 := by
  unfold eventRemoveBody
  rw [guarded_pass (by simp [NMap.has, he])]

theorem eventRemove_acts {s : State} {h : Nat} {p : List Byte} (ht : takes s h 0x0605 p = true) {e : EvEntry}
    (he : NMap.get? s.core.air.events (fieldAt p 0 2) = some e) :
    ∃ t, exec (.eventRemove h) s = .next t ∧ Answered s h 0x00 [] t ∧
      t.core.air.events = NMap.erase s.core.air.events (fieldAt p 0 2) ∧
      (e.action = 5 → NMap.get? t.core.air.launch (64 * bits e.arg 8 8 + bits e.arg 5 0) = none) ∧
      (e.action ≠ 5 → t.core.air.launch = s.core.air.launch) := by
  have hair : (taken s h).core.air = s.core.air := taken_unseen (fun s => s.core.air) (fun _ _ _ _ _ _ => rfl) s h
  have he' : NMap.get? (taken s h).core.air.events (fieldAt p 0 2) = some e := by rw [hair]; exact he
  have hrest := removeEvent_rest (taken s h) (fieldAt p 0 2)
  simp only [eventless, Prod.mk.injEq] at hrest
  obtain ⟨hhat, htime, -⟩ := hrest
  have hopen := (open_taken ht).step hhat htime
  refine ⟨_, next_of_takes ht (t := ((taken s h).removeEvent (fieldAt p 0 2)).place h 0x00)
    (eventRemoveBody_ok (r := requestIn s h p) he'), hopen.answered_place 0x00 [] (by decide), ?_⟩
  rw [air_of_quiet (quiet_place _ h 0x00 []), removeEvent_events _ _ he', hair]
  obtain ⟨h5, hne⟩ := removeEvent_launch he'
  exact ⟨rfl, h5, fun h => (hne h).trans (congrArg Air.launch hair)⟩

/-! ### TEV_SET (R387) -/

/-- What R387 asks of a change of a pin's mode. -/
structure TevFields (s : State) (pin m : Nat) : Prop where
  pinLe : pin ≤ 3
  modeLe : m ≤ 3
  unnamed : (s.core.air.tev.getD pin {}).mode = 3 → m ≠ 3 → ∀ e ∈ s.core.air.events, e.2.action = 6 → bits e.2.arg 1 0 ≠ pin

theorem tevSetBody_ok {r : Req} {s : State} (hf : TevFields s (r.u8 0) (r.u8 1)) : tevSetBody r s =
    if r.u8 1 = (s.core.air.tev.getD (r.u8 0) {}).mode then s.place r.h 0x00
    else if r.u8 1 = 3 then
      ((s.modAir (fun a => { a with tev := setAt a.tev (r.u8 0) { mode := r.u8 1 } })).emit (.tevEdge (r.u8 0)
        (dtQuarter (s.modAir (fun a => { a with tev := setAt a.tev (r.u8 0) { mode := r.u8 1 } }))) false)).place r.h 0x00
    else (s.modAir (fun a => { a with tev := setAt a.tev (r.u8 0) { mode := r.u8 1 } })).place r.h 0x00 := by
  unfold tevSetBody
  extract_lets pin m old named
  have hnamed : (old == 3 && m != 3 && named) = false := by
    by_contra h
    simp only [Bool.not_eq_false, Bool.and_eq_true, beq_iff_eq, bne_iff_ne] at h
    obtain ⟨e, he, hn⟩ := List.any_eq_true.1 h.2
    simp only [Bool.and_eq_true, beq_iff_eq] at hn
    exact hf.unnamed h.1.1 h.1.2 e he hn.1 hn.2
  rw [guarded_pass (by simp [hnamed, pin, m, hf.pinLe, hf.modeLe])]
  by_cases hsame : m = old
  · rw [if_pos (by simp [hsame]), if_pos hsame]
  · rw [if_neg (by simp [hsame]), if_neg hsame]
    by_cases h3 : m = 3
    · have h3' : r.u8 1 = 3 := h3
      dsimp only
      rw [if_pos (show (m == 3) = true by simp [h3]), if_pos h3']
    · have h3' : ¬ r.u8 1 = 3 := h3
      dsimp only
      rw [if_neg (show ¬ (m == 3) = true by simp [h3]), if_neg h3']

theorem tevFields_taken {s : State} {pin m : Nat} (h : Nat) (hf : TevFields s pin m) : TevFields (taken s h) pin m := by
  have hair : (taken s h).core.air = s.core.air := taken_unseen (fun s => s.core.air) (fun _ _ _ _ _ _ => rfl) s h
  exact ⟨hf.pinLe, hf.modeLe, by rw [hair]; exact hf.unnamed⟩

section TevSet
variable {s : State} {h : Nat} {p : List Byte} (ht : takes s h 0x0606 p = true) (hf : TevFields s (fieldAt p 0 1) (fieldAt p 1 1))
include ht hf

theorem tevSet_same (hm : fieldAt p 1 1 = (s.core.air.tev.getD (fieldAt p 0 1) {}).mode) : Responds s h 0x00 [] s.core (exec (.tevSet h) s) := by
  have hair : (taken s h).core.air = s.core.air := taken_unseen (fun s => s.core.air) (fun _ _ _ _ _ _ => rfl) s h
  have hm' : fieldAt p 1 1 = ((taken s h).core.air.tev.getD (fieldAt p 0 1) {}).mode := by rw [hair]; exact hm
  exact responds_of_takes ht ((tevSetBody_ok (r := requestIn s h p) (tevFields_taken h hf)).trans (if_pos hm'))
    ((laid_of_takes ht).place 0x00 [] (by decide))

theorem tevSet_changes (hm : fieldAt p 1 1 ≠ (s.core.air.tev.getD (fieldAt p 0 1) {}).mode) :
    Responds (if fieldAt p 1 1 = 3 then s.emit (.tevEdge (fieldAt p 0 1) (dtQuarter s) false) else s) h 0x00 []
      { s.core with air := { s.core.air with tev := setAt s.core.air.tev (fieldAt p 0 1) { mode := fieldAt p 1 1 } } }
      (exec (.tevSet h) s) := by
  have hair : (taken s h).core.air = s.core.air := taken_unseen (fun s => s.core.air) (fun _ _ _ _ _ _ => rfl) s h
  have hdt : dtQuarter (taken s h) = dtQuarter s := taken_unseen dtQuarter (fun _ _ _ _ _ _ => rfl) s h
  have hm' : ¬ fieldAt p 1 1 = ((taken s h).core.air.tev.getD (fieldAt p 0 1) {}).mode := by rw [hair]; exact hm
  have hbody := (tevSetBody_ok (r := requestIn s h p) (tevFields_taken h hf)).trans (if_neg hm')
  have hlaid := (laid_of_takes ht).modAir (fun a => { a with tev := setAt a.tev (fieldAt p 0 1) { mode := fieldAt p 1 1 } })
  have hout : ((taken s h).modAir (fun a => { a with tev := setAt a.tev (fieldAt p 0 1) { mode := fieldAt p 1 1 } })).out = s.out := taken_out s h
  by_cases h3 : fieldAt p 1 1 = 3
  · rw [if_pos h3, ← hdt]
    exact responds_of_takes ht (hbody.trans (if_pos h3)) ((hlaid.emit hout _).place 0x00 [] (by decide))
  · rw [if_neg h3]
    exact responds_of_takes ht (hbody.trans (if_neg h3)) (hlaid.place 0x00 [] (by decide))

end TevSet

/-! ### LAUNCH_QUEUE (R383) -/

theorem launchQueueBody_ok {r : Req} {s : State} {data : List Byte} (hp : r.u8 0 ≤ 1) (hslot : r.u8 1 ≤ 63) (hlow : 64 ≤ r.u16 2)
    (hhigh : r.u16 2 ≤ 1518) (hfree : NMap.has s.core.air.launch (64 * r.u8 0 + r.u8 1) = false) : launchQueueBody (.ok data) r s =
      ((s.emit (.dmaRead (r.u64 8) (r.u16 2 - 4))).modAir (fun a =>
        { a with launch := NMap.set a.launch (64 * r.u8 0 + r.u8 1) (padTo (r.u16 2 - 4) data) })).place r.h 0x00 := by
  unfold launchQueueBody
  dsimp only
  rw [guarded_pass (by simp [hp, hslot, hlow, hhigh, hfree])]
  rfl

/-- Settles O20. -/
theorem timeCommandsTakeEffect : Obligations.TimeCommandsTakeEffect := by
  unfold Obligations.TimeCommandsTakeEffect
  intro s h p
  refine ⟨fun ht hmu he => airEpochSet_acts ht hmu he, fun ht hp hf hlen hr => ptpPortSet_acts ht hp hf hlen hr,
    fun i k ht hsfn hsub hslot hsym hlow hhigh hper hoff harg hact hi => ?add, fun e ht he => eventRemove_acts ht he,
    fun ht hpin hm hnamed => ⟨fun hs => tevSet_same ht ⟨hpin, hm, hnamed⟩ hs, fun hs => tevSet_changes ht ⟨hpin, hm, hnamed⟩ hs⟩,
    fun data ht hp hslot hlow hhigh hfree => ?queue⟩
  case add =>
    intro next hroom
    exact eventAdd_responds ht ⟨hsfn, hsub, hslot, hsym, hlow, hhigh, hper.imp_right fun h => ⟨k, h⟩, hoff, harg⟩ hact hi hroom
  case queue =>
    have hair : (taken s h).core.air = s.core.air := taken_unseen (fun s => s.core.air) (fun _ _ _ _ _ _ => rfl) s h
    have hbody := launchQueueBody_ok (r := requestIn s h p) (s := taken s h) (data := data) hp hslot hlow hhigh (by rw [hair]; exact hfree)
    exact responds_of_takes ht hbody ((((laid_of_takes ht).emit (taken_out s h) _).modAir _).place 0x00 [] (by decide))

end Sys2Proof.Machine
end

section
/-! The commands of the radio intake (R331 to R334, R348, R351, R353): chains, sounding bindings, antenna arrays. -/
namespace Sys2Proof.Machine

/-! ### A hatch that waits keeps OWN -/

theorem own_taken {s : State} {h op : Nat} {p : List Byte} (ht : takes s h op p = true) : (ctlAt (taken s h) h).own = true := by
  have hown : (ctlAt s h).own = true := by
    have hc := canTake_of_takes ht
    simp only [canTake, Bool.and_eq_true] at hc
    exact hc.1.1.2
  have hlt := length_le_of_own s h hown
  have hoff : (ctlAt (s.takeOff (reqOf s h)) h).own = true := by
    obtain ⟨b, e, n, l, hto⟩ := takeOff_eq s (reqOf s h)
    rw [hto]
    refine (congrArg HatchCtl.own (getD_updAt_self s.core.hat.ctl h _ {} hlt)).trans ?_
    exact hown
  unfold taken
  split
  · rw [ctlAt_modCtl_self _ _ _ (laid_takeOff s h (canTake_of_takes ht)).lt]
    exact hoff
  · exact hoff

/-! ### Chains (R348) -/

theorem scuCheck_present {s : State} (h : s.hw.is968 = true) : scuCheck s = none := by rw [scuCheck, if_pos h]

section Bodies
variable {r : Req} {s : State} (h968 : s.hw.is968 = true)
include h968

theorem scuChainSetBody_ok (hc : r.u8 0 ≤ 31) (hport : r.u8 1 ≤ 1) (hdc : r.u8 2 ≤ 2) (h4 : r.u8 4 ≤ 15) (h5 : r.u8 5 ≤ 15) (h6 : r.u8 6 ≤ 15)
    (hlow : 1 ≤ r.u8 7) (hhigh : r.u8 7 ≤ 96) (hheld : held s (.chain (r.u8 0)) = false) (hrun : (scuChain s (r.u8 0)).run = false) :
    scuChainSetBody r s = (s.modScuChain (r.u8 0) (fun x =>
      { x with port := r.u8 1, dcFreeze := r.u8 2, shifts := [r.u8 4, r.u8 5, r.u8 6],
               fir := if x.fir.length = r.u8 7 then x.fir else 0x7FFF :: List.replicate (r.u8 7 - 1) 0, dcI := 0, dcQ := 0 })).place r.h 0x00 := by
  unfold scuChainSetBody
  dsimp only
  rw [guarded_pass (by simp [scuCheck_present h968, hc, hport, hdc, h4, h5, h6, hlow, hhigh, hheld, hrun])]
  simp only [beq_iff_eq, resetFir]

theorem scuCoeffLoadBody_ok {data : List Byte} (hc : r.u8 0 ≤ 31)
    (hst : r.u8 1 = 4 ∧ r.u8 2 = (scuChain s (r.u8 0)).fir.length ∨ 1 ≤ r.u8 1 ∧ r.u8 1 ≤ 3 ∧ r.u8 2 ≤ 32)
    (hheld : held s (.chain (r.u8 0)) = false) (hrun : (scuChain s (r.u8 0)).run = false) : scuCoeffLoadBody (.ok data) r s =
      ((if r.u8 2 = 0 then s else s.emit (.dmaRead (r.u64 8) (2 * r.u8 2))).modScuChain (r.u8 0) (fun x =>
        if r.u8 1 = 4 then { x with fir := (List.range (r.u8 2)).map (fun i => intAt (padTo (2 * r.u8 2) data) (2 * i) 2) }
        else { x with dec := setAt x.dec (r.u8 1 - 1) ((List.range (r.u8 2)).map (fun i => intAt (padTo (2 * r.u8 2) data) (2 * i) 2)) })).place
          r.h 0x00 := by
  have hstage : (if r.u8 1 == 4 then r.u8 2 == (scuChain s (r.u8 0)).fir.length
      else decide (1 ≤ r.u8 1) && decide (r.u8 1 ≤ 3) && decide (r.u8 2 ≤ 32)) = true := by
    rcases hst with ⟨h4, hn⟩ | ⟨hlow, hhigh, hn⟩
    · simp [h4, hn]
    · rw [if_neg (by simp; omega)]
      simp [hlow, hhigh, hn]
  unfold scuCoeffLoadBody
  dsimp only
  rw [guarded_pass (by simp only [List.forall_mem_cons, scuCheck_present h968, need_eq_none, hstage, hheld, hrun, hc, decide_true,
    Bool.not_false, List.not_mem_nil, false_imp_iff, implies_true, and_self])]
  by_cases hz : r.u8 2 = 0
  · rw [if_pos (by simp [hz]), if_pos hz, hz]
    simp only [beq_iff_eq, List.range_zero, List.map_nil]
  · rw [if_neg (by simp [hz]), if_neg hz]
    simp only [beq_iff_eq]
    rfl

theorem scuChainRunBody_start (hc : r.u8 0 ≤ 31) (hown : r.u8 2 ≤ 1) (hheld : held s (.chain (r.u8 0)) = false) (hrun : r.u8 1 = 1)
    (hfree : (scuChain s (r.u8 0)).run = false ∨ (scuChain s (r.u8 0)).owner = r.u8 2) : scuChainRunBody r s =
      (s.modScuChain (r.u8 0) (fun x => { x with run := true, owner := r.u8 2 })).place r.h 0x00 := by
  unfold scuChainRunBody
  dsimp only
  rw [guarded_pass (by simpa [scuCheck_present h968, hc, hown, hheld, hrun] using hfree), if_pos (by simp [hrun])]

theorem scuChainRunBody_stop (hc : r.u8 0 ≤ 31) (hown : r.u8 2 ≤ 1) (hheld : held s (.chain (r.u8 0)) = false) (hrun : r.u8 1 = 0)
    (howner : (scuChain s (r.u8 0)).owner = r.u8 2) : scuChainRunBody r s =
      (s.modScuChain (r.u8 0) (fun x => { x with stopping := true })).modCtl r.h (fun k => { k with job := some (.chainStop (r.u8 0)) }) := by
  unfold scuChainRunBody
  dsimp only
  rw [guarded_pass (by simp [scuCheck_present h968, hc, hown, hheld, hrun, howner]), if_neg (by simp [hrun])]

/-! ### Bindings (R331 to R334) -/

theorem soundingBindBody_ok {i : Nat} (hb : bindOk s r = true) (hm : ∀ b ∈ s.core.scu.bindings, bindMeets b.2 (bindingOf r) = false)
    (hi : NMap.lowestFree s.core.scu.bindings 16384 = some i) : soundingBindBody r s =
      (s.modScu (fun u => { u with bindings := NMap.set u.bindings i (bindingOf r) })).place r.h 0x00 (leBytes 2 i) := by
  have hnone : s.core.scu.bindings.any (fun p => bindMeets p.2 (bindingOf r)) = false :=
    List.any_eq_false.2 fun b hb => by simp [hm b hb]
  unfold soundingBindBody
  dsimp only
  rw [guarded_pass (by simp only [List.forall_mem_cons, scuCheck_present h968, need_eq_none, hb, hnone, hi, Option.isSome_some,
    Bool.not_false, Bool.and_self, List.not_mem_nil, false_imp_iff, implies_true, and_self]), hi]
  rfl

theorem soundingUnbindBody_ok (hi : r.u16 0 < 16384) : soundingUnbindBody r s =
    ((s.dropAssembling (· == r.u16 0)).modScu (fun u => { u with bindings := NMap.erase u.bindings (r.u16 0) })).place r.h 0x00 := by
  unfold soundingUnbindBody
  dsimp only
  rw [guarded_pass (by simp [scuCheck_present h968, hi])]

end Bodies

/-! ### Antenna arrays (R351 to R353) -/

/-- An array set in place of another: its quarantine is over, and no binding's reference is of it any more. -/
def arraySet (s : State) (a : Nat) (x : Antenna) : State :=
  let u := s.modScu (fun u => { u with arrays := setAt u.arrays a x, quarEnd := setAt u.quarEnd a none, votes := setAt u.votes a [] })
  (arrayChains s a ++ arrayChains u a).foldl (fun s c => s.modScuChain c (fun x => { x with dcI := 0, dcQ := 0 }))
    (u.dropRefs (fun _ b => match b.ref with | some y => y.array == a | none => false))

/-- Of an array's setting: the bindings' references, the arrays and their quarantines, hatches and time. -/
def arrayView (s : State) : NMap Binding × List Antenna × List (Option Nat) × Hatches × Time :=
  (s.core.scu.bindings, s.core.scu.arrays, s.core.scu.quarEnd, s.core.hat, s.core.time)

theorem arraySet_view (s : State) (a : Nat) (x : Antenna) : ∃ f : Nat × Binding → Nat × Binding,
    arrayView (arraySet s a x) = (s.core.scu.bindings.map f, setAt s.core.scu.arrays a x, setAt s.core.scu.quarEnd a none, s.core.hat,
      s.core.time) ∧ ∀ b y, (f b).2.ref = some y → y.array ≠ a := by
  unfold arraySet
  extract_lets u
  refine ⟨fun p => (p.1, if (match p.2.ref with | some y => y.array == a | none => false) then { p.2 with ref := none } else p.2), ?_,
    fun b y h => ?_⟩
  · exact foldl_unseen (F := arrayView) (f := fun s c => s.modScuChain c (fun x => { x with dcI := 0, dcQ := 0 })) (fun _ _ => rfl) _ _
  · cases hb : b.2.ref with
    | none => simp [hb] at h
    | some z =>
      by_cases hz : z.array = a
      · simp [hb, hz] at h
      · simp only [hb, beq_iff_eq, hz, if_false, Option.some.injEq] at h
        exact h ▸ hz

section Antenna
variable {r : Req} {s : State} (h968 : s.hw.is968 = true) (ha : r.u8 0 ≤ 7) (hlow : 1 ≤ r.u8 1) (hhigh : r.u8 1 ≤ 32)
  (hq : unitQuat ((List.range 4).map (fun i => intAt r.payload (0x14 + 2 * i) 2)) = true) {data : List Byte}
include h968 ha hlow hhigh hq

theorem antennaSetBody_ok (hn : fieldAt (padTo (16 + 32 * r.u8 1) data) 2 1 = r.u8 1)
    (hu : eaxcUnique s (r.u8 0) (antennaOf r (padTo (16 + 32 * r.u8 1) data)) = true) : antennaSetBody (.ok data) r s =
      (arraySet (s.emit (.dmaRead (r.u64 0x20) (16 + 32 * r.u8 1))) (r.u8 0) (antennaOf r (padTo (16 + 32 * r.u8 1) data))).place r.h 0x00 := by
  unfold antennaSetBody
  dsimp only
  rw [guarded_pass (by simp [scuCheck_present h968, ha, hlow, hhigh, hq])]
  refine if_neg ?_
  simp only [Bool.or_eq_true, bne_iff_ne, ne_eq, Bool.not_eq_true', not_or, not_not, Bool.not_eq_false]
  exact ⟨hn, hu⟩

theorem antennaSetBody_bad (hbad : fieldAt (padTo (16 + 32 * r.u8 1) data) 2 1 ≠ r.u8 1 ∨
      eaxcUnique s (r.u8 0) (antennaOf r (padTo (16 + 32 * r.u8 1) data)) = false) :
    antennaSetBody (.ok data) r s = (s.emit (.dmaRead (r.u64 0x20) (16 + 32 * r.u8 1))).place r.h 0x11 := by
  unfold antennaSetBody
  dsimp only
  rw [guarded_pass (by simp [scuCheck_present h968, ha, hlow, hhigh, hq])]
  refine if_pos ?_
  simp only [Bool.or_eq_true, bne_iff_ne, ne_eq, Bool.not_eq_true']
  exact hbad

end Antenna

/-! ### The commands -/

/-- What a command that drops symbols leaves alone, in its statement's words. -/
def unbindView (s : State) : Hatches × Time × NMap Binding × List Chain × List Antenna × Work :=
  (s.core.hat, s.core.time, s.core.scu.bindings, s.core.scu.chains, s.core.scu.arrays, s.core.work)

theorem unbindView_dropAssembling (s : State) (f : Nat → Bool) : unbindView (s.dropAssembling f) = unbindView s :=
  foldl_unseen (fun u k => dropSym_unseen ⟨fun _ _ => rfl, fun _ _ => rfl, fun _ _ _ => rfl, fun _ _ => rfl, fun _ _ _ _ _ => rfl⟩
    (fun _ _ _ _ => rfl) (fun _ _ => rfl) u k 5) _ s

theorem scuChain_taken (s : State) (h c : Nat) : scuChain (taken s h) c = scuChain s c := taken_unseen (scuChain · c) (fun _ _ _ _ _ _ => rfl) s h

section Commands
variable {s : State} {h : Nat} {p : List Byte} (h968 : s.hw.is968 = true)
include h968

theorem is968_taken : (taken s h).hw.is968 = true := (taken_unseen (fun s => s.hw.is968) (fun _ _ _ _ _ _ => rfl) s h).trans h968

theorem scuCoeffLoad_responds (data : List Byte) (ht : takes s h 0x0702 p = true) (hc : fieldAt p 0 1 ≤ 31)
    (hst : fieldAt p 1 1 = 4 ∧ fieldAt p 2 1 = (scuChain s (fieldAt p 0 1)).fir.length ∨
      1 ≤ fieldAt p 1 1 ∧ fieldAt p 1 1 ≤ 3 ∧ fieldAt p 2 1 ≤ 32)
    (hheld : held (taken s h) (.chain (fieldAt p 0 1)) = false) (hrun : (scuChain s (fieldAt p 0 1)).run = false) :
    let taps := (List.range (fieldAt p 2 1)).map (fun i => intAt (padTo (2 * fieldAt p 2 1) data) (2 * i) 2)
    Responds (if fieldAt p 2 1 = 0 then s else s.emit (.dmaRead (fieldAt p 8 8) (2 * fieldAt p 2 1))) h 0x00 []
      (s.core.withChain (fieldAt p 0 1) (fun x =>
          if fieldAt p 1 1 = 4 then { x with fir := taps } else { x with dec := setAt x.dec (fieldAt p 1 1 - 1) taps }))
      (exec (.scuCoeffLoad h data) s) := by
  intro taps
  have hbody := scuCoeffLoadBody_ok (r := requestIn s h p) (is968_taken h968) (data := data) hc
    (by rw [scuChain_taken]; exact hst) hheld (by rw [scuChain_taken]; exact hrun)
  refine responds_of_takes ht hbody ?_
  have hlaid : Laid (if fieldAt p 2 1 = 0 then s else s.emit (.dmaRead (fieldAt p 8 8) (2 * fieldAt p 2 1))) h s.core
      (if fieldAt p 2 1 = 0 then taken s h else (taken s h).emit (.dmaRead (fieldAt p 8 8) (2 * fieldAt p 2 1))) := by
    by_cases hz : fieldAt p 2 1 = 0
    · rw [if_pos hz, if_pos hz]
      exact laid_of_takes ht
    · rw [if_neg hz, if_neg hz]
      exact (laid_of_takes ht).emit (taken_out s h) _
  exact (hlaid.modScu _).place 0x00 [] (by decide)

theorem scuChainRun_stop (ht : takes s h 0x0703 p = true) (hc : fieldAt p 0 1 ≤ 31) (hown : fieldAt p 2 1 ≤ 1)
    (hheld : held (taken s h) (.chain (fieldAt p 0 1)) = false) (hrun : fieldAt p 1 1 = 0)
    (howner : (scuChain s (fieldAt p 0 1)).owner = fieldAt p 2 1) (hlen : s.core.scu.chains.length = 32) :
    ∃ t, exec (.scuChainRun h) s = .next t ∧ (ctlAt t h).own = true ∧ jobAt t h = some (.chainStop (fieldAt p 0 1)) ∧
      scuChain t (fieldAt p 0 1) = { scuChain s (fieldAt p 0 1) with stopping := true } := by
  have hbody := scuChainRunBody_stop (r := requestIn s h p) (is968_taken h968) hc hown hheld hrun (by rw [scuChain_taken]; exact howner)
  have hchains : (taken s h).core.scu.chains = s.core.scu.chains := taken_unseen (fun s => s.core.scu.chains) (fun _ _ _ _ _ _ => rfl) s h
  have hlt : fieldAt p 0 1 < (taken s h).core.scu.chains.length := by rw [hchains, hlen]; omega
  have hctl := ctlAt_modCtl_self ((taken s h).modScuChain (fieldAt p 0 1) (fun x => { x with stopping := true })) h
    (fun k => { k with job := some (.chainStop (fieldAt p 0 1)) }) (open_taken ht).lt
  refine ⟨_, next_of_takes ht hbody, (congrArg HatchCtl.own hctl).trans (own_taken ht), congrArg HatchCtl.job hctl, ?_⟩
  rw [← scuChain_taken s h]
  exact getD_updAt_self (taken s h).core.scu.chains (fieldAt p 0 1) _ {} hlt

theorem soundingUnbind_acts (ht : takes s h 0x0705 p = true) (hi : fieldAt p 0 2 < 16384) :
    ∃ t, exec (.soundingUnbind h) s = .next t ∧ Answered s h 0x00 [] t ∧
      t.core.scu.bindings = NMap.erase s.core.scu.bindings (fieldAt p 0 2) ∧ t.core.scu.chains = s.core.scu.chains ∧
      t.core.scu.arrays = s.core.scu.arrays ∧ t.core.work = s.core.work := by
  have hbody := soundingUnbindBody_ok (r := requestIn s h p) (is968_taken (h := h) h968) hi
  have hdrop := unbindView_dropAssembling (taken s h) (· == fieldAt p 0 2)
  have hscu : (taken s h).core.scu = s.core.scu := taken_unseen (fun s => s.core.scu) (fun _ _ _ _ _ _ => rfl) s h
  have htable : (taken s h).core.work = s.core.work := taken_unseen (fun s => s.core.work) (fun _ _ _ _ _ _ => rfl) s h
  simp only [unbindView, Prod.mk.injEq, hscu, htable] at hdrop
  obtain ⟨hhat, htime, hbind, hchains, harrays, hwork⟩ := hdrop
  have hopen := (open_taken ht).step hhat htime
  have hopen' : Open s h (((taken s h).dropAssembling (· == fieldAt p 0 2)).modScu
      (fun u => { u with bindings := NMap.erase u.bindings (fieldAt p 0 2) })) := hopen.step rfl rfl
  refine ⟨State.place (((taken s h).dropAssembling (· == fieldAt p 0 2)).modScu
    (fun u => { u with bindings := NMap.erase u.bindings (fieldAt p 0 2) })) h 0x00, next_of_takes ht hbody,
    hopen'.answered_place 0x00 [] (by decide), ?_⟩
  rw [scu_of_quiet (quiet_place _ h 0x00 []), work_of_quiet (quiet_place _ h 0x00 [])]
  exact ⟨congrArg (NMap.erase · _) hbind, hchains, harrays, hwork⟩

theorem antennaSet_acts (data : List Byte) (ht : takes s h 0x0706 p = true) (ha : fieldAt p 0 1 ≤ 7) (hlow : 1 ≤ fieldAt p 1 1)
    (hhigh : fieldAt p 1 1 ≤ 32) (hq : unitQuat ((List.range 4).map (fun i => intAt p (0x14 + 2 * i) 2)) = true)
    {x : Antenna} (hx : antennaOf (requestIn s h p) (padTo (16 + 32 * fieldAt p 1 1) data) = x)
    (hn : fieldAt (padTo (16 + 32 * fieldAt p 1 1) data) 2 1 = fieldAt p 1 1) (hu : eaxcUnique s (fieldAt p 0 1) x = true) :
    ∃ t, exec (.antennaSet h data) s = .next t ∧ Answered s h 0x00 [] t ∧
      t.core.scu.arrays = setAt s.core.scu.arrays (fieldAt p 0 1) x ∧
      t.core.scu.quarEnd = setAt s.core.scu.quarEnd (fieldAt p 0 1) none ∧
      ∀ b ∈ t.core.scu.bindings, ∀ y, b.2.ref = some y → y.array ≠ fieldAt p 0 1 := by
  have hu' : eaxcUnique (taken s h) (fieldAt p 0 1) (antennaOf (requestIn s h p) (padTo (16 + 32 * fieldAt p 1 1) data)) = true := by
    rw [hx]
    exact (taken_unseen (eaxcUnique · (fieldAt p 0 1) x) (fun _ _ _ _ _ _ => rfl) s h).trans hu
  have hbody := antennaSetBody_ok (r := requestIn s h p) (is968_taken (h := h) h968) ha hlow hhigh hq hn hu'
  have htaken : (taken s h).core.scu = s.core.scu := taken_unseen (fun s => s.core.scu) (fun _ _ _ _ _ _ => rfl) s h
  obtain ⟨f, hview, href⟩ := arraySet_view ((taken s h).emit (.dmaRead (fieldAt p 0x20 8) (16 + 32 * fieldAt p 1 1))) (fieldAt p 0 1)
    (antennaOf (requestIn s h p) (padTo (16 + 32 * fieldAt p 1 1) data))
  simp only [arrayView, Prod.mk.injEq] at hview
  obtain ⟨hbind, harrays, hquar, hhat, htime⟩ := hview
  have hopen := (open_taken ht).step hhat htime
  refine ⟨State.place (arraySet ((taken s h).emit (.dmaRead (fieldAt p 0x20 8) (16 + 32 * fieldAt p 1 1))) (fieldAt p 0 1)
    (antennaOf (requestIn s h p) (padTo (16 + 32 * fieldAt p 1 1) data))) h 0x00, next_of_takes ht hbody,
    hopen.answered_place 0x00 [] (by decide), ?_⟩
  rw [scu_of_quiet (quiet_place _ h 0x00 [])]
  refine ⟨harrays.trans (by rw [← hx]; exact congrArg (fun u => setAt u.arrays _ _) htaken),
    hquar.trans (congrArg (fun u => setAt u.quarEnd _ _) htaken), fun b hb y hy => ?_⟩
  obtain ⟨b', -, rfl⟩ := List.mem_map.1 (hbind ▸ hb)
  exact href b' y hy

theorem antennaSet_refuses (data : List Byte) (ht : takes s h 0x0706 p = true) (ha : fieldAt p 0 1 ≤ 7) (hlow : 1 ≤ fieldAt p 1 1)
    (hhigh : fieldAt p 1 1 ≤ 32) (hq : unitQuat ((List.range 4).map (fun i => intAt p (0x14 + 2 * i) 2)) = true)
    (hbad : fieldAt (padTo (16 + 32 * fieldAt p 1 1) data) 2 1 ≠ fieldAt p 1 1 ∨
      eaxcUnique s (fieldAt p 0 1) (antennaOf (requestIn s h p) (padTo (16 + 32 * fieldAt p 1 1) data)) = false) :
    Responds (s.emit (.dmaRead (fieldAt p 0x20 8) (16 + 32 * fieldAt p 1 1))) h 0x11 [] s.core (exec (.antennaSet h data) s) := by
  have hbad' := hbad.imp_right fun hu =>
    (taken_unseen (eaxcUnique · (fieldAt p 0 1) (antennaOf (requestIn s h p) (padTo (16 + 32 * fieldAt p 1 1) data)))
      (fun _ _ _ _ _ _ => rfl) s h).trans hu
  have hbody := antennaSetBody_bad (r := requestIn s h p) (is968_taken (h := h) h968) ha hlow hhigh hq hbad'
  exact responds_of_takes ht hbody (((laid_of_takes ht).emit (taken_out s h) _).place 0x11 [] (by decide))

end Commands

/-- Settles O21. -/
theorem radioCommandsTakeEffect : Obligations.RadioCommandsTakeEffect := by
  unfold Obligations.RadioCommandsTakeEffect
  intro s h p h968
  have h968' : (taken s h).hw.is968 = true := is968_taken h968
  refine ⟨fun ht hc hport hdc h4 h5 h6 hlow hhigh hheld hrun => ?set, fun data ht hc hst hheld hrun => scuCoeffLoad_responds h968 data ht hc hst hheld hrun,
    fun ht hc hown hheld => ⟨fun hrun hfree => ?start, fun hrun howner hlen => scuChainRun_stop h968 ht hc hown hheld hrun howner hlen⟩,
    fun c hh hj => ?stopped, fun i ht hb hm hi => ?bind, fun ht hi => soundingUnbind_acts h968 ht hi,
    fun data ht ha hlow hhigh hq => ⟨fun hn hu => antennaSet_acts h968 data ht ha hlow hhigh hq rfl hn hu,
      fun hbad => antennaSet_refuses h968 data ht ha hlow hhigh hq hbad⟩⟩
  case set =>
    have hbody := scuChainSetBody_ok (r := requestIn s h p) h968' hc hport hdc h4 h5 h6 hlow hhigh hheld ((congrArg Chain.run (scuChain_taken s h _)).trans hrun)
    exact responds_of_takes ht hbody (((laid_of_takes ht).modScu _).place 0x00 [] (by decide))
  case start =>
    have hbody := scuChainRunBody_start (r := requestIn s h p) h968' hc hown hheld hrun (by rw [scuChain_taken]; exact hfree)
    exact responds_of_takes ht hbody (((laid_of_takes ht).modScu _).place 0x00 [] (by decide))
  case stopped =>
    change Responds s h 0x00 [] _ (execChainStopDone h s)
    unfold execChainStopDone
    rw [hj]
    exact ((open_of_job hh hj).laid.modScu _).place 0x00 [] (by decide)
  case bind =>
    have hscu : (taken s h).core.scu = s.core.scu := taken_unseen (fun s => s.core.scu) (fun _ _ _ _ _ _ => rfl) s h
    have hbody := soundingBindBody_ok (r := requestIn s h p) (i := i) h968'
      ((taken_unseen (bindOk · (requestIn s h p)) (fun _ _ _ _ _ _ => rfl) s h).trans hb) (by rw [hscu]; exact hm) (by rw [hscu]; exact hi)
    exact responds_of_takes ht hbody (((laid_of_takes ht).modScu _).place 0x00 (leBytes 2 i) (by decide))

end Sys2Proof.Machine
end

section
/-! Pages under crates and graphs, and the commands of crates (R112, R191, R449, R450). -/
namespace Sys2Proof.Machine

/-! ### Taking and giving pages (R396, R399, R400) -/

/-- What neither pages and frames nor counters show. -/
structure Pageless {α : Type} (F : State → α) : Prop where
  tiers : ∀ s f, F (s.modTiers f) = F s
  counters : ∀ s f, F (s.modObs f) = F s

section Pageless
variable {α : Type} {F : State → α} (hF : Pageless F)
include hF

theorem Pageless.modPage (s : State) (p : Nat) (f : Page → Page) : F (s.modPage p f) = F s := by
  unfold State.modPage
  split
  · exact hF.tiers _ _
  · rfl

theorem Pageless.freeFrame (s : State) (near : Bool) (f : Nat) : F (s.freeFrame near f) = F s := by
  unfold State.freeFrame
  exact holds_ite (P := fun t => F t = F s) rfl (holds_ite (P := fun t => F t = F s) (hF.tiers _ _) (hF.tiers _ _))

theorem Pageless.freePage (s : State) (p : Nat) : F (s.freePage p) = F s := by
  unfold State.freePage
  split
  · rfl
  · exact (hF.freeFrame _ _ _).trans (hF.tiers _ _)

theorem Pageless.dropPages (s : State) (ps : List Nat) : F (s.dropPages ps) = F s := foldl_unseen hF.freePage ps s

theorem Pageless.takeFrame {s u : State} {near : Bool} {f : Nat} (h : takeFrame s near = some (f, u)) : F u = F s := by
  have taken {g v} {k : Tiers → Tiers} (h : some (g, s.modTiers k) = some (f, v)) : F v = F s := by
    simp only [Option.some.injEq, Prod.mk.injEq] at h
    rw [← h.2, hF.tiers]
  unfold Machine.takeFrame at h
  dsimp only at h
  split at h <;> split at h
  · exact taken h
  · split at h
    · exact taken h
    · cases h
  · exact taken h
  · split at h
    · exact taken h
    · cases h

/-- A frame of the tier wanted, or of the other one. -/
theorem Pageless.anyFrame {s u : State} {near near' : Bool} {f : Nat}
    (h : (match Machine.takeFrame s near with
      | some (f, s) => some (f, near, s)
      | none => (Machine.takeFrame s (!near)).map (fun (f, s) => (f, !near, s))) = some (f, near', u)) : F u = F s := by
  split at h
  · next hf =>
    simp only [Option.some.injEq, Prod.mk.injEq] at h
    rw [← h.2.2]
    exact hF.takeFrame hf
  · cases hf : Machine.takeFrame s (!near) with
    | none => simp [hf] at h
    | some r =>
      simp only [hf, Option.map_some, Option.some.injEq, Prod.mk.injEq] at h
      rw [← h.2.2]
      exact hF.takeFrame hf

theorem Pageless.allocPage {x : Page} {s u : State} {p : Nat} (h : allocPage s x = some (p, u)) : F u = F s := by
  unfold Machine.allocPage at h
  split at h
  next hint near _ =>
  extract_lets frame at h
  have hframe : ∀ f near' v, frame = some (f, near', v) → F v = F s := fun _ _ _ hf => hF.anyFrame hf
  clear_value frame
  split at h
  · cases h
  · next f near' v =>
    have hv : F v = F s := hframe _ _ _ rfl
    extract_lets v' put p' at h
    have hv' : F v' = F s := holds_ite (P := fun t => F t = F s) ((hF.counters _ _).trans hv) hv
    have hput {q : Nat} {k : Tiers → Tiers} (h : put q (v'.modTiers k) = some (p, u)) : F u = F s := by
      simp only [put, Option.some.injEq, Prod.mk.injEq] at h
      rw [← h.2]
      exact (hF.tiers _ _).trans ((hF.tiers _ _).trans ((hF.tiers _ _).trans hv'))
    split at h
    · exact hput h
    · split at h
      · exact hput h
      · cases h

theorem Pageless.allocPages {n : Nat} {x : Page} {s u : State} {l : List Nat} (h : allocPages n x s = some (l, u)) : F u = F s := by
  induction n generalizing s l with
  | zero =>
    simp only [Machine.allocPages, Option.some.injEq, Prod.mk.injEq] at h
    rw [h.2]
  | succ n ih =>
    unfold Machine.allocPages at h
    split at h
    · cases h
    · next hp =>
      split at h
      · cases h
      · next hl =>
        simp only [Option.some.injEq, Prod.mk.injEq] at h
        exact (ih (h.2 ▸ hl)).trans (hF.allocPage hp)

theorem Pageless.pinCrates (s : State) (before : Nat) : F (s.pinCrates before) = F s := by
  unfold State.pinCrates
  split
  exact (hF.counters _ _).trans (foldl_unseen (fun u p => hF.modPage u p _) _ s)

end Pageless

/-- Hatches, time, the work table and what has gone out. -/
def workView (s : State) : Hatches × Time × Work × List Out := (s.core.hat, s.core.time, s.core.work, s.out)

theorem pageless_workView : Pageless workView := ⟨fun _ _ => rfl, fun _ _ => rfl⟩

/-- Graphs, and what has gone out. -/
def graphView (s : State) : NMap Slot × List Out := (s.core.work.graphs, s.out)

theorem pageless_graphView : Pageless graphView := ⟨fun _ _ => rfl, fun _ _ => rfl⟩

/-! ### CRATE_LOAD (R449, R450, R112) -/

section Body
variable {r : Req} {s : State}

theorem crateLoadBody_ok (hn : r.u8 0 ≤ 31) (hheld : held s (.crate (r.u8 0)) = false) (hst : ∀ c, crateAt s (r.u8 0) = some c → c.state = 2) :
    crateLoadBody r s = s.accept r.h (.crateLoad (r.u8 0) (r.u64 8) (r.u64 16)) := by
  unfold crateLoadBody
  dsimp only
  rw [guarded_pass]
  cases hc : crateAt s (r.u8 0) with
  | none => simp [hn, hheld]
  | some c => simp [hn, hheld, hst c hc]

theorem crateUnloadBody_ok (hn : r.u8 0 ≤ 31) (hheld : held s (.crate (r.u8 0)) = false) (hused : crateUsed s (r.u8 0) = false) :
    crateUnloadBody r s = (((s.dropPages (((crateAt s (r.u8 0)).map (·.pages)).getD [])).modWork
      (fun w => { w with crates := NMap.erase w.crates (r.u8 0) })).pinCrates (pinPlan s).2).place r.h 0x00 := by
  unfold crateUnloadBody
  dsimp only
  rw [guarded_pass (by simp [hn, hheld, hused])]

end Body

theorem crateHeadStatus_ne_accepted {s : State} {hd : List Byte} {len st : Nat} (h : crateHeadStatus s hd len = some st) : st ≠ 0x01 := by
  obtain ⟨c, hc, hs⟩ := List.exists_of_findSome?_eq_some h
  simp only [List.mem_cons, List.not_mem_nil, or_false] at hc
  rcases hc with rfl | rfl | rfl | rfl
  all_goals
    unfold need at hs
    split at hs
    · cases hs
    · cases hs
      decide

/-- The crate of a header, a body and pages, ready for use (R112, R448). -/
def crateOf (hd b : List Byte) (ps : List Nat) : Crate :=
  { header := bytesAt hd 0 0xB8, measurement := crateMeasure hd, body := b, state := 1, pages := ps }

/-- A load that fails: its status, with an error record where the cause is the crate's (R449, R528). -/
theorem crateFails_facts {s : State} {h n st : Nat} (o : Open s h s) (hst : st ≠ 0x01) : Answered s h st [] (s.crateFails h n st) ∧
    (s.crateFails h n st).core.work = s.core.work ∧ s.out <+: (s.crateFails h n st).out := by
  unfold State.crateFails
  generalize hu : (if (st == 0x30) = true then s.err1 3 2 n else s) = u
  have hfacts : u.core.hat = s.core.hat ∧ u.core.time = s.core.time ∧ u.core.work = s.core.work ∧ s.out <+: u.out := by
    subst hu
    split
    · exact ⟨err1_hat _ _ _ _ _ _, time_of_quiet (quiet_err1 _ _ _ _ _ _), work_of_quiet (quiet_err1 _ _ _ _ _ _), out_prefix_err1 _ _ _ _ _ _⟩
    · exact ⟨rfl, rfl, rfl, List.prefix_rfl⟩
  obtain ⟨hhat, htime, hwork, hout⟩ := hfacts
  exact ⟨(o.step hhat htime).answered_place st [] hst, (work_of_quiet (quiet_place _ _ _ _)).trans hwork, hout.trans (out_prefix_place _ _ _ _)⟩

section Load
variable {s : State} {h n addr len : Nat} {data : List Byte} (hj : jobAt s h = some (.crateLoad n addr len))
include hj

theorem crateLoadEnds_head {st : Nat} (hst : crateHeadStatus s (bytesAt (padTo len data) 0 512) len = some st) :
    s.crateLoadEnds h (.ok data) = (s.emit (.dmaRead addr len)).crateFails h n st := by
  have hst' : crateHeadStatus (s.emit (.dmaRead addr len)) (bytesAt (padTo len data) 0 512) len = some st := hst
  unfold State.crateLoadEnds
  rw [hj]
  dsimp only
  rw [hst']

theorem crateLoadEnds_new {b : List Byte} {ps : List Nat} {u : State}
    (hst : crateHeadStatus s (bytesAt (padTo len data) 0 512) len = none) (hc : crateAt s n = none)
    (hb : crateBody (bytesAt (padTo len data) 0 512) ((padTo len data).drop 512) = some b)
    (hps : allocPages ((crateBodyLen (bytesAt (padTo len data) 0 512) + 65535) / 65536)
      { near := true, frame := 0, hint := if crateUsed s n then 1 else 0, use := 1, obj := n } (s.emit (.dmaRead addr len)) = some (ps, u)) :
    s.crateLoadEnds h (.ok data) = ((u.modWork (fun w =>
      { w with crates := NMap.set w.crates n (crateOf (bytesAt (padTo len data) 0 512) b ps) })).pinCrates (pinPlan s).2).place h 0x00
        ((crateMeasure (bytesAt (padTo len data) 0 512)).take 16) := by
  have hst' : crateHeadStatus (s.emit (.dmaRead addr len)) (bytesAt (padTo len data) 0 512) len = none := hst
  have hc' : crateAt (s.emit (.dmaRead addr len)) n = none := hc
  have hused : crateUsed (s.emit (.dmaRead addr len)) n = crateUsed s n := rfl
  have hplan : pinPlan (s.emit (.dmaRead addr len)) = pinPlan s := rfl
  unfold State.crateLoadEnds
  rw [hj]
  dsimp only
  rw [hst', hc', hused, hplan]
  dsimp only [Option.map_none, Option.getD_none, State.dropPages, List.foldl_nil]
  rw [hps, hb]
  rfl

/-- However the load ends, its DMA read has gone out and the graphs stay. -/
theorem crateLoadEnds_keeps (hh : h < 64) : (s.emit (.dmaRead addr len)).out <+: (s.crateLoadEnds h (.ok data)).out ∧
    (s.crateLoadEnds h (.ok data)).core.work.graphs = s.core.work.graphs := by
  have hopen : Open (s.emit (.dmaRead addr len)) h (s.emit (.dmaRead addr len)) := (open_of_job (s := s.emit _) hh hj)
  have hfails {st : Nat} (hst : st ≠ 0x01) : (s.emit (.dmaRead addr len)).out <+: ((s.emit (.dmaRead addr len)).crateFails h n st).out ∧
      ((s.emit (.dmaRead addr len)).crateFails h n st).core.work.graphs = s.core.work.graphs :=
    ⟨(crateFails_facts hopen hst).2.2, congrArg Work.graphs (crateFails_facts hopen hst).2.1⟩
  have hplaced (v : State) (st : Nat) (pl : List Byte) (hv : graphView v = graphView (s.emit (.dmaRead addr len))) :
      (s.emit (.dmaRead addr len)).out <+: (v.place h st pl).out ∧ (v.place h st pl).core.work.graphs = s.core.work.graphs := by
    simp only [graphView, Prod.mk.injEq] at hv
    exact ⟨hv.2 ▸ out_prefix_place _ _ _ _, (congrArg Work.graphs (work_of_quiet (quiet_place _ _ _ _))).trans hv.1⟩
  unfold State.crateLoadEnds
  rw [hj]
  dsimp only
  split
  · next hst => exact hfails (crateHeadStatus_ne_accepted hst)
  · cases crateAt (s.emit (.dmaRead addr len)) n
    all_goals
      dsimp only
      split
      · exact hplaced _ _ _ rfl
      · split
        · exact hplaced _ _ _ rfl
        · next hps =>
          split
          · exact hfails (st := 0x30) (by decide)
          · exact hplaced _ _ _ ((pageless_graphView.pinCrates _ _).trans
              ((pageless_graphView.allocPages hps).trans (pageless_graphView.dropPages _ _)))

end Load

theorem crateLoadDone_acts {s : State} {h n addr len : Nat} {data : List Byte} (hh : h < 64) (hrun : running s = true)
    (hj : jobAt s h = some (.crateLoad n addr len)) {hd : List Byte} (hhd : bytesAt (padTo len data) 0 512 = hd) :
    ∃ t, exec (.crateLoadDone h data) s = .next t ∧ Out.dmaRead addr len ∈ t.out ∧ t.core.work.graphs = s.core.work.graphs ∧
      (∀ st, crateHeadStatus s hd len = some st → Answered s h st [] t ∧ t.core.work = s.core.work) ∧
      (∀ b ps u, crateHeadStatus s hd len = none → crateAt s n = none → crateBody hd ((padTo len data).drop 512) = some b →
        allocPages ((crateBodyLen hd + 65535) / 65536) { near := true, frame := 0, hint := if crateUsed s n then 1 else 0, use := 1, obj := n }
          (s.emit (.dmaRead addr len)) = some (ps, u) →
        Answered s h 0x00 ((crateMeasure hd).take 16) t ∧
        crateAt t n = some { header := bytesAt hd 0 0xB8, measurement := crateMeasure hd, body := b, state := 1, pages := ps }) := by
  subst hhd
  have hopen : Open s h (s.emit (.dmaRead addr len)) := (open_of_job hh hj).step rfl rfl
  have hself : Open (s.emit (.dmaRead addr len)) h (s.emit (.dmaRead addr len)) := open_of_job (s := s.emit _) hh hj
  obtain ⟨hout, hgraphs⟩ := crateLoadEnds_keeps (data := data) hj hh
  refine ⟨s.crateLoadEnds h (.ok data), ?_, mem_out_of_emit s hout, hgraphs, fun st hst => ?_, fun b ps u hst hc hb hps => ?_⟩
  · change execCrateLoadDone h data s = _
    exact congrArg Host.Outcome.next (if_pos hrun)
  · rw [crateLoadEnds_head hj hst]
    obtain ⟨hans, hwork, -⟩ := crateFails_facts (n := n) hself (crateHeadStatus_ne_accepted hst)
    exact ⟨Answered.of_open hopen hans, hwork⟩
  · rw [crateLoadEnds_new hj hst hc hb hps]
    have hpages := pageless_workView.allocPages hps
    have hpins := pageless_workView.pinCrates (u.modWork (fun w =>
      { w with crates := NMap.set w.crates n (crateOf (bytesAt (padTo len data) 0 512) b ps) })) (pinPlan s).2
    simp only [workView, Prod.mk.injEq] at hpages hpins
    obtain ⟨hhat, htime, -⟩ := hpages
    obtain ⟨hhat', htime', hwork', -⟩ := hpins
    refine ⟨(hopen.step (hhat'.trans hhat) (htime'.trans htime)).answered_place 0x00 _ (by decide), ?_⟩
    rw [crateAt, work_of_quiet (quiet_place _ _ _ _), hwork']
    exact NMap.get_set _ _ _

/-! ### CRATE_UNLOAD (R112) -/

theorem crateUnload_acts {s : State} {h : Nat} {p : List Byte} (ht : takes s h 0x0502 p = true) (hn : fieldAt p 0 1 ≤ 31)
    (hheld : held (taken s h) (.crate (fieldAt p 0 1)) = false) (hused : crateUsed s (fieldAt p 0 1) = false) :
    ∃ t, exec (.crateUnload h) s = .next t ∧ Answered s h 0x00 [] t ∧
      t.core.work = { s.core.work with crates := NMap.erase s.core.work.crates (fieldAt p 0 1) } ∧ crateAt t (fieldAt p 0 1) = none := by
  have htaken : (taken s h).core.work = s.core.work := taken_unseen (fun s => s.core.work) (fun _ _ _ _ _ _ => rfl) s h
  have hused' : crateUsed (taken s h) (fieldAt p 0 1) = false :=
    (taken_unseen (crateUsed · (fieldAt p 0 1)) (fun _ _ _ _ _ _ => rfl) s h).trans hused
  have hbody := crateUnloadBody_ok (r := requestIn s h p) hn hheld hused'
  generalize hps : ((crateAt (taken s h) ((requestIn s h p).u8 0)).map (·.pages)).getD [] = ps at hbody
  have hdrop := pageless_workView.dropPages (taken s h) ps
  have hpins := pageless_workView.pinCrates (((taken s h).dropPages ps).modWork
    (fun w => { w with crates := NMap.erase w.crates (fieldAt p 0 1) })) (pinPlan (taken s h)).2
  simp only [workView, Prod.mk.injEq] at hdrop hpins
  obtain ⟨hhat, htime, hwork, -⟩ := hdrop
  obtain ⟨hhat', htime', hwork', -⟩ := hpins
  have hopen := (open_taken ht).step (hhat'.trans hhat) (htime'.trans htime)
  have hend : ((((taken s h).dropPages ps).modWork (fun w => { w with crates := NMap.erase w.crates (fieldAt p 0 1) })).pinCrates
      (pinPlan (taken s h)).2).core.work = { s.core.work with crates := NMap.erase s.core.work.crates (fieldAt p 0 1) } := by
    rw [hwork']
    exact congrArg (fun w : Work => { w with crates := NMap.erase w.crates (fieldAt p 0 1) }) (hwork.trans htaken)
  refine ⟨_, next_of_takes ht hbody, hopen.answered_place 0x00 [] (by decide), (work_of_quiet (quiet_place _ _ _ _)).trans hend, ?_⟩
  rw [crateAt, work_of_quiet (quiet_place _ _ _ _)]
  exact (congrArg (fun w : Work => NMap.get? w.crates (fieldAt p 0 1)) hend).trans (NMap.get_erase_self _ _)

/-- Settles O18. -/
theorem crateCommandsTakeEffect : Obligations.CrateCommandsTakeEffect := by
  unfold Obligations.CrateCommandsTakeEffect
  intro s h p
  refine ⟨fun ht hn hheld hst => ?load, fun n addr len data hh hrun hj => crateLoadDone_acts hh hrun hj rfl,
    fun ht hn hheld hused => crateUnload_acts ht hn hheld hused⟩
  case load =>
    have hwork : (taken s h).core.work = s.core.work := taken_unseen (fun s => s.core.work) (fun _ _ _ _ _ _ => rfl) s h
    have hbody := crateLoadBody_ok (r := requestIn s h p) hn hheld (by rw [crateAt, hwork]; exact hst)
    exact accepts_of_takes ht hbody ((laid_of_takes ht).accept _)

end Sys2Proof.Machine
end

section
/-! The commands of graphs and their ends (R155, R157, R158). -/
namespace Sys2Proof.Machine

/-! ### One slot on several channels -/

theorem mem_bitsSet {m w i : Nat} : i ∈ bitsSet m w ↔ i < w ∧ m.testBit i = true := by simp [bitsSet, bit]

theorem slotKey_inj {c d g : Nat} : slotKey c g = slotKey d g ↔ c = d := by
  unfold slotKey
  omega

theorem foldl_set_get {α : Type} (v : α) (l : List Nat) (k : Nat → Nat) (m : NMap α) {j : Nat} (hj : j ∈ l.map k ∨ NMap.get? m j = some v) :
    NMap.get? (l.foldl (fun m c => NMap.set m (k c) v) m) j = some v := by
  induction l generalizing m with
  | nil => simpa using hj
  | cons c l ih =>
    refine ih _ ?_
    by_cases hc : j = k c
    · exact Or.inr (hc ▸ NMap.get_set m (k c) v)
    · rw [NMap.get_set_other _ _ _ _ hc]
      simpa [hc] using hj

theorem NMap.get_eq_none_of_ne {α : Type} {m : NMap α} {k : Nat} (h : ∀ e ∈ m, e.1 ≠ k) : NMap.get? m k = none := by
  induction m with
  | nil => rfl
  | cons e m ih =>
    obtain ⟨j, v⟩ := e
    have hj : j ≠ k := h _ List.mem_cons_self
    rw [NMap.get?, if_neg hj, ih fun e he => h e (List.mem_cons_of_mem _ he), ite_self]

theorem foldl_erase_get {α : Type} (l : List Nat) (k : Nat → Nat) (m : NMap α) {j : Nat} (hj : j ∈ l.map k ∨ ∀ e ∈ m, e.1 ≠ j) :
    NMap.get? (l.foldl (fun m c => NMap.erase m (k c)) m) j = none := by
  induction l generalizing m with
  | nil => exact NMap.get_eq_none_of_ne (by simpa using hj)
  | cons c l ih =>
    refine ih _ ?_
    by_cases hc : j = k c
    · exact Or.inr fun e he => by simpa [hc] using (List.mem_filter.1 he).2
    · exact hj.imp (fun h => by simpa [hc] using h) fun h e he => h e (List.mem_filter.1 he).1

/-- What a change of all of some entries leaves in one of them: of each value a test that the change brings about. -/
theorem foldl_upd_all {α : Type} {P : α → Prop} {f : α → α} (hf : ∀ x, P (f x)) (l : List Nat) (k : Nat → Nat) (m : NMap α) {j : Nat}
    (hj : j ∈ l.map k ∨ ∀ x, NMap.get? m j = some x → P x) : ∀ x, NMap.get? (l.foldl (fun m c => NMap.upd m (k c) f) m) j = some x → P x := by
  induction l generalizing m with
  | nil => simpa using hj
  | cons c l ih =>
    refine ih _ ?_
    by_cases hc : j = k c
    · refine Or.inr fun x hx => ?_
      rw [hc, NMap.get_upd_self] at hx
      obtain ⟨y, -, rfl⟩ := Option.map_eq_some_iff.1 hx
      exact hf y
    · rw [NMap.get_upd_other _ _ hc]
      simpa [hc] using hj

/-! ### GRAPH_LOAD (R155, R157) -/

section Body
variable {r : Req} {s : State}

theorem graphLoadBody_ok (hn : r.u8 0 ≤ 63) (hmask : r.u8 1 ≠ 0) (hlow : 64 ≤ r.u32 16) (hhigh : r.u32 16 ≤ 16777216)
    (hheld : held s (.graph (r.u8 0)) = false) (hfree : slotTaken s (r.u8 0) (r.u8 1) = false) :
    graphLoadBody r s = s.accept r.h (.graphLoad (r.u8 0) (r.u8 1) (r.u64 8) (r.u32 16)) := by
  unfold graphLoadBody
  dsimp only
  rw [guarded_pass (by simp [hn, hmask, hheld, hfree, between, hlow, hhigh])]

/-- A slot's graph that no longer takes work, on the channels named (R158). -/
def retireGraphs (s : State) (chs : List Nat) (g : Nat) : State :=
  (s.modWork (fun w =>
    { w with graphs := chs.foldl (fun m c => NMap.upd m (slotKey c g) (fun x => { x with resident := false })) w.graphs })).pinCrates (pinPlan s).2

theorem graphUnloadBody_ok (hn : r.u8 0 ≤ 63) (hmask : r.u8 1 ≠ 0) (hheld : held s (.graph (r.u8 0)) = false)
    (hstreams : ∀ e ∈ s.core.work.streams, e.2.graph ≠ r.u8 0) :
    graphUnloadBody r s = (retireGraphs s (unloadChans s (r.u8 0) (r.u8 1)) (r.u8 0)).accept r.h (.graphUnload (r.u8 0) (r.u8 1)) := by
  have hnone : s.core.work.streams.any (fun t => t.2.graph == r.u8 0) = false := List.any_eq_false.2 fun e he => by simp [hstreams e he]
  unfold graphUnloadBody
  dsimp only
  rw [guarded_pass (by simp only [List.forall_mem_cons, need_eq_none, hn, hmask, hheld, hnone, decide_true, bne_iff_ne, ne_eq,
    not_false_eq_true, Bool.not_false, List.not_mem_nil, false_imp_iff, implies_true, and_self, Bool.true_and])]
  rfl

end Body

theorem retireGraphs_view (s : State) (chs : List Nat) (g : Nat) : workView (retireGraphs s chs g) = (s.core.hat, s.core.time,
    { s.core.work with graphs := chs.foldl (fun m c => NMap.upd m (slotKey c g) (fun x => { x with resident := false })) s.core.work.graphs },
    s.out) :=
  pageless_workView.pinCrates _ _

/-- A good graph made resident on some channels. -/
def placeGraph (s : State) (chs : List Nat) (n mask : Nat) (g : Graph) : State :=
  (s.modWork (fun w => { w with graphs := chs.foldl (fun m c => NMap.set m (slotKey c n) { graph := g, mask := mask }) w.graphs })).pinCrates
    (pinPlan s).2

theorem placeGraph_view (s : State) (chs : List Nat) (n mask : Nat) (g : Graph) : workView (placeGraph s chs n mask g) = (s.core.hat, s.core.time,
    { s.core.work with graphs := chs.foldl (fun m c => NMap.set m (slotKey c n) { graph := g, mask := mask }) s.core.work.graphs }, s.out) :=
  pageless_workView.pinCrates _ _

section Load
variable {s : State} {h n mask addr len : Nat} {data : List Byte} (hj : jobAt s h = some (.graphLoad n mask addr len))
include hj

theorem graphLoadEnds_ok (hok : graphOk s (padTo len data) = true) (hroom : ∀ c ∈ bitsSet mask 8, c ∈ serviceChans s ∧
      graphBlocks (graphOf (padTo len data)) ≤ freeBlocks s c) : s.graphLoadEnds h (.ok data) =
    (placeGraph (s.emit (.dmaRead addr len)) (bitsSet mask 8) n mask (graphOf (padTo len data))).place h 0x00 := by
  have hok' : graphOk (s.emit (.dmaRead addr len)) (padTo len data) = true := hok
  have hserv : (bitsSet mask 8).any (fun c => !(serviceChans (s.emit (.dmaRead addr len))).contains c) = false :=
    List.any_eq_false.2 fun c hc => by
      have : c ∈ serviceChans (s.emit (.dmaRead addr len)) := (hroom c hc).1
      simp [this]
  have hfree : (bitsSet mask 8).any (fun c => decide (freeBlocks (s.emit (.dmaRead addr len)) c < graphBlocks (graphOf (padTo len data)))) = false :=
    List.any_eq_false.2 fun c hc => by
      have : graphBlocks (graphOf (padTo len data)) ≤ freeBlocks (s.emit (.dmaRead addr len)) c := (hroom c hc).2
      simp [this]
  unfold State.graphLoadEnds
  rw [hj]
  dsimp only
  rw [hok', hserv, hfree]
  rfl

theorem graphLoadEnds_bad (hbad : graphOk s (padTo len data) = false) :
    s.graphLoadEnds h (.ok data) = (s.emit (.dmaRead addr len)).place h 0x11 := by
  have hbad' : graphOk (s.emit (.dmaRead addr len)) (padTo len data) = false := hbad
  unfold State.graphLoadEnds
  rw [hj]
  dsimp only
  rw [hbad']
  rfl

theorem graphLoadDone_acts (hh : h < 64) (hrun : running s = true) (hok : graphOk s (padTo len data) = true)
    (hroom : ∀ c ∈ bitsSet mask 8, c ∈ serviceChans s ∧ graphBlocks (graphOf (padTo len data)) ≤ freeBlocks s c) :
    ∃ t, exec (.graphLoadDone h data) s = .next t ∧ Answered s h 0x00 [] t ∧
      (∀ c ∈ bitsSet mask 8, graphAt t c n = some { graph := graphOf (padTo len data), mask := mask }) ∧
      t.core.work = { s.core.work with graphs := t.core.work.graphs } := by
  have hview := placeGraph_view (s.emit (.dmaRead addr len)) (bitsSet mask 8) n mask (graphOf (padTo len data))
  simp only [workView, Prod.mk.injEq] at hview
  obtain ⟨hhat, htime, hwork, -⟩ := hview
  have hopen : Open s h (placeGraph (s.emit (.dmaRead addr len)) (bitsSet mask 8) n mask (graphOf (padTo len data))) :=
    (open_of_job hh hj).step hhat htime
  have hend := (work_of_quiet (quiet_place (placeGraph (s.emit (.dmaRead addr len)) (bitsSet mask 8) n mask (graphOf (padTo len data))) h 0x00 [])).trans hwork
  refine ⟨_, (congrArg Host.Outcome.next (if_pos hrun)).trans (congrArg Host.Outcome.next (graphLoadEnds_ok hj hok hroom)),
    hopen.answered_place 0x00 [] (by decide), fun c hc => ?_, ?_⟩
  · rw [graphAt, hend]
    exact foldl_set_get _ _ (slotKey · n) _ (Or.inl (List.mem_map_of_mem hc))
  · rw [hend]
    rfl

theorem graphLoadDone_refuses (hh : h < 64) (hrun : running s = true) (hbad : graphOk s (padTo len data) = false) :
    Responds (s.emit (.dmaRead addr len)) h 0x11 [] s.core (exec (.graphLoadDone h data) s) := by
  have hstep : exec (.graphLoadDone h data) s = .next ((s.emit (.dmaRead addr len)).place h 0x11) :=
    (congrArg Host.Outcome.next (if_pos hrun)).trans (congrArg Host.Outcome.next (graphLoadEnds_bad hj hbad))
  rw [hstep]
  exact ((open_of_job hh hj).laid.emit rfl _).place 0x11 [] (by decide)

end Load

/-! ### GRAPH_UNLOAD (R158) -/

theorem graphUnload_acts {s : State} {h : Nat} {p : List Byte} (ht : takes s h 0x0505 p = true) (hn : fieldAt p 0 1 ≤ 63)
    (hmask : fieldAt p 1 1 ≠ 0) (hheld : held (taken s h) (.graph (fieldAt p 0 1)) = false)
    (hstreams : ∀ e ∈ s.core.work.streams, e.2.graph ≠ fieldAt p 0 1) :
    ∃ t, exec (.graphUnload h) s = .next t ∧ Answered s h 0x01 [] t ∧ jobAt t h = some (.graphUnload (fieldAt p 0 1) (fieldAt p 1 1)) ∧
      ∀ c ∈ unloadChans s (fieldAt p 0 1) (fieldAt p 1 1), residentAt t c (fieldAt p 0 1) = none := by
  have htaken : (taken s h).core.work = s.core.work := taken_unseen (fun s => s.core.work) (fun _ _ _ _ _ _ => rfl) s h
  have hchans : unloadChans (taken s h) (fieldAt p 0 1) (fieldAt p 1 1) = unloadChans s (fieldAt p 0 1) (fieldAt p 1 1) :=
    taken_unseen (unloadChans · (fieldAt p 0 1) (fieldAt p 1 1)) (fun _ _ _ _ _ _ => rfl) s h
  have hbody := graphUnloadBody_ok (r := requestIn s h p) hn hmask hheld (by rw [htaken]; exact hstreams)
  have hview := retireGraphs_view (taken s h) (unloadChans (taken s h) (fieldAt p 0 1) (fieldAt p 1 1)) (fieldAt p 0 1)
  simp only [workView, Prod.mk.injEq] at hview
  obtain ⟨hhat, htime, hwork, -⟩ := hview
  obtain ⟨hans, hjob, -⟩ := ((open_taken ht).step hhat htime).answered_accept (.graphUnload (fieldAt p 0 1) (fieldAt p 1 1))
  refine ⟨_, next_of_takes ht hbody, hans, hjob, fun c hc => ?_⟩
  have hend := (work_of_quiet (quiet_accept (retireGraphs (taken s h) (unloadChans (taken s h) (fieldAt p 0 1) (fieldAt p 1 1)) (fieldAt p 0 1)) h
    (.graphUnload (fieldAt p 0 1) (fieldAt p 1 1)))).trans hwork
  refine Option.filter_eq_none_iff.2 fun x hx => ?_
  have hx' := (congrArg (fun w : Work => NMap.get? w.graphs (slotKey c (fieldAt p 0 1))) hend).symm.trans hx
  have hres := foldl_upd_all (P := fun x : Slot => x.resident = false) (fun _ => rfl) _ (slotKey · (fieldAt p 0 1)) _
    (Or.inl (List.mem_map_of_mem (hchans ▸ hc))) x hx'
  simp [hres]

/-- The channels on which a graph is being unloaded. -/
def retiring (s : State) (g mask : Nat) : List Nat :=
  (List.range 8).filter (fun c => bit mask c && (match graphAt s c g with
    | some x => !x.resident
    | none => false))

theorem mem_retiring {s : State} {g mask c : Nat} :
    c ∈ retiring s g mask ↔ c < 8 ∧ mask.testBit c = true ∧ ∃ x, graphAt s c g = some x ∧ x.resident = false := by
  unfold retiring
  cases hx : graphAt s c g <;> simp [bit, hx]

section UnloadDone
variable {s : State} {h g mask : Nat} (hj : jobAt s h = some (.graphUnload g mask))
  (hidle : ∀ c x, c < 8 → mask.testBit c = true → graphAt s c g = some x → x.resident = false → graphBusy s c g = false)
include hj hidle

theorem exec_graphUnloadDone : exec (.graphUnloadDone h) s = .next ((s.modWork (fun w =>
    { w with graphs := (retiring s g mask).foldl (fun m c => NMap.erase m (slotKey c g)) w.graphs })).place h 0x00) := by
  have hall : ((retiring s g mask).all fun c => !graphBusy s c g) = true := by
    refine List.all_eq_true.2 fun c hc => ?_
    obtain ⟨h8, hm, x, hx, hr⟩ := mem_retiring.1 hc
    rw [hidle c x h8 hm hx hr]
    rfl
  change execGraphUnloadDone h s = _
  unfold execGraphUnloadDone
  rw [hj]
  exact congrArg Host.Outcome.next (if_pos hall)

theorem graphUnloadDone_acts (hh : h < 64) : ∃ t, exec (.graphUnloadDone h) s = .next t ∧ Answered s h 0x00 [] t ∧
    ∀ c x, c < 8 → mask.testBit c = true → graphAt s c g = some x → x.resident = false → graphAt t c g = none := by
  have hopen : Open s h (s.modWork (fun w =>
      { w with graphs := (retiring s g mask).foldl (fun m c => NMap.erase m (slotKey c g)) w.graphs })) := (open_of_job hh hj).step rfl rfl
  refine ⟨_, exec_graphUnloadDone hj hidle, hopen.answered_place 0x00 [] (by decide), fun c x h8 hm hx hr => ?_⟩
  rw [graphAt, work_of_quiet (quiet_place _ _ _ _)]
  exact foldl_erase_get _ (slotKey · g) _ (Or.inl (List.mem_map_of_mem (mem_retiring.2 ⟨h8, hm, x, hx, hr⟩)))

end UnloadDone

/-- Settles O19. -/
theorem graphCommandsTakeEffect : Obligations.GraphCommandsTakeEffect := by
  unfold Obligations.GraphCommandsTakeEffect
  intro s h p
  refine ⟨fun ht hn hmask hlow hhigh hheld hfree => ?load,
    fun n mask addr len data hh hrun hj => ⟨fun hok hroom => graphLoadDone_acts hj hh hrun hok hroom, fun hbad => graphLoadDone_refuses hj hh hrun hbad⟩,
    fun ht hn hmask hheld hstreams => graphUnload_acts ht hn hmask hheld hstreams, fun g mask hh hj hidle => graphUnloadDone_acts hj hidle hh⟩
  case load =>
    have hfree' := (taken_unseen (slotTaken · (fieldAt p 0 1) (fieldAt p 1 1)) (fun _ _ _ _ _ _ => rfl) s h).trans hfree
    exact accepts_of_takes ht (graphLoadBody_ok (r := requestIn s h p) hn hmask hlow hhigh hheld hfree') ((laid_of_takes ht).accept _)

end Sys2Proof.Machine
end

section
/-! Contexts (R454 to R457): why CONTEXT_DESTROY can leave its context with a later record counter. -/
namespace Sys2Proof.Machine

/-! ### A context destroyed while a record of it is owed -/

/-- Context 3 of a device in confidential mode: its session 0 has one item in a queue, whose record is wanted. Hatch 0 asks for the context's
destruction. -/
def owingContext : State :=
  { core := {
      sys := { phase := .ready, step := 10, conf := true }
      chans := [{ inService := true, queue := [{ slot := 0, origin := .item 0 0, ctx := 3, sid := some 0, arrival := 0, deadline := 0 }] }]
      sec := { contexts := [(0, {}), (3, {})] }
      work := {
        sess := [(0, { owner := 3 })]
        batches := [(0, { hatch := 8, ctx := 3, area := 0, flags := 0, cookie := 0, deadline := 0,
                          items := [{ bytes := List.replicate 15 0 ++ [1] ++ List.replicate 16 0 }] })] }
      hat := {
        mem := Mem.write State.reset.core.hat.mem 0 (leBytes 2 0x0804 ++ leBytes 2 7 ++ [0, 0] ++ leBytes 2 1 ++ leBytes 8 0 ++ [3])
        ctl := updAt State.reset.core.hat.ctl 0 (fun c => { c with own := true })
        queueM := [0] } } }

/-- The record counter of a context. -/
def recCtrOf (s : State) (c : Nat) : Nat := (NMap.getD s.core.sec.contexts c {}).recCtr

/-- The same of the state that a command leads to. -/
def recCtrAfter (o : Host.Outcome State Fault Refusal) (c : Nat) : Nat :=
  match o with
  | .next t => recCtrOf t c
  | _ => 0

theorem owingContext_takes : takes owingContext 0 0x0804 [3] = true := by decide +kernel

theorem owingContext_free : held (taken owingContext 0) (.ctx 3) = false := by decide +kernel

/-- The record written as the session begins to close (R49, R57) takes counter 1 (R456). -/
theorem owingContext_destroyed : recCtrAfter (exec (.contextDestroy 0) owingContext) 3 = 2 := by decide +kernel

/-- Refutes O22: the items queued for the context's sessions end as CONTEXT_DESTROY is taken, and a sealed record of one of them raises the
context's record counter, so the context is not its old self with the two flags changed. -/
theorem not_contextCommandsTakeEffect : ¬ Obligations.ContextCommandsTakeEffect := by
  unfold Obligations.ContextCommandsTakeEffect
  intro h
  obtain ⟨-, hdestroy, -⟩ := h owingContext 0 [3]
  have hget : NMap.get? owingContext.core.sec.contexts (fieldAt [3] 0 1) = some {} := rfl
  obtain ⟨t, ht, -, -, hafter⟩ := hdestroy {} owingContext_takes (by decide) hget rfl owingContext_free
  have hctr := owingContext_destroyed
  rw [ht] at hctr
  have hone : recCtrOf t 3 = 1 := by
    have h3 : NMap.get? t.core.sec.contexts 3 = some { dying := true, scrubbed := false } := hafter
    rw [recCtrOf, NMap.getD, h3]
    rfl
  exact absurd (hone.symm.trans hctr) (by decide)

end Sys2Proof.Machine
end

section
/-! Modes switch and keys rotate (R443, R444, R463). -/
namespace Sys2Proof.Machine

/-! ### Hatches and mode through the beginning of a destruction (R457) -/

/-- Hatches and the confidential mode. -/
def modeView (s : State) : Hatches × Bool := (s.core.hat, s.core.sys.conf)

theorem unrecorded_modeView : Unrecorded modeView :=
  ⟨⟨fun _ _ => rfl, fun _ _ => rfl, fun _ _ _ => rfl, fun _ _ => rfl, fun _ _ _ _ _ => rfl⟩, fun _ _ => rfl, fun _ _ => rfl, fun _ _ => rfl,
    fun _ _ _ => rfl, fun _ _ _ _ _ => rfl, fun _ _ => rfl⟩

theorem beginClose_modeView (s : State) (sid : Nat) : modeView (s.beginClose sid) = modeView s :=
  dropQueued_unseen unrecorded_modeView (s.modSess sid _) _ _

theorem beginDestroy_modeView (s : State) (ctx : Nat) : modeView (s.beginDestroy ctx) = modeView s :=
  foldl_unseen beginClose_modeView _ _

theorem modeProceed_modeView (s : State) : modeView s.modeProceed = modeView s := by
  unfold State.modeProceed
  exact holds_ite (P := fun t => modeView t = modeView s) rfl (foldl_unseen beginDestroy_modeView _ s)

/-- A mode switch is taken: its hatch holds the job, and the mode is still the old one. -/
theorem accepted_modeProceed {s : State} {h op : Nat} {p : List Byte} (ht : takes s h op p = true) (j : Job) :
    Answered s h 0x01 [] ((taken s h).accept h j).modeProceed ∧ jobAt ((taken s h).accept h j).modeProceed h = some j ∧
      ((taken s h).accept h j).modeProceed.core.sys.conf = s.core.sys.conf := by
  have hview := modeProceed_modeView ((taken s h).accept h j)
  simp only [modeView, Prod.mk.injEq] at hview
  obtain ⟨hhat, hconf⟩ := hview
  obtain ⟨hans, hjob, hkept⟩ := (open_taken ht).answered_accept j
  have htaken : (taken s h).core.sys = s.core.sys := taken_unseen (fun s => s.core.sys) (fun _ _ _ _ _ _ => rfl) s h
  refine ⟨hans.of_hat hhat, ?_, hconf.trans ?_⟩
  · rw [jobAt, ctlAt, hhat]
    exact hjob
  · exact (congrArg (fun c : Core => c.sys.conf) hkept.core).trans (congrArg Sys.conf htaken)

/-! ### The end of a mode switch (R463) -/

theorem exec_modeSwitchDone {s : State} {h : Nat} {conf : Bool} (hj : jobAt s h = some (if conf then .confEnter else .confExit))
    (hconf : s.core.sys.conf = !conf) (hfor : s.core.sec.scrubFor = some .mode) (hscrub : s.core.sys.scrub = false) :
    exec (.modeSwitchDone h) s = .next ((s.switchMode conf).place h 0x00) := by
  change execModeSwitchDone h s = _
  unfold execModeSwitchDone
  rw [hj]
  cases conf <;> simp [hconf, hfor, hscrub]

theorem switchMode_place (s : State) (conf : Bool) : (s.switchMode conf).core.hat = s.core.hat ∧
    (s.switchMode conf).core.time = s.core.time ∧ (s.switchMode conf).core.sys.conf = conf := by
  cases conf <;> exact ⟨rfl, rfl, rfl⟩

theorem modeSwitchDone_acts {s : State} {h : Nat} {conf : Bool} (hh : h < 64) (hj : jobAt s h = some (if conf then .confEnter else .confExit))
    (hconf : s.core.sys.conf = !conf) (hfor : s.core.sec.scrubFor = some .mode) (hscrub : s.core.sys.scrub = false) :
    ∃ t, exec (.modeSwitchDone h) s = .next t ∧ Answered s h 0x00 [] t ∧ t.core.sys.conf = conf ∧ quiet t = quiet (s.switchMode conf) := by
  obtain ⟨hhat, htime, hmode⟩ := switchMode_place s conf
  have hquiet := quiet_place (s.switchMode conf) h 0x00 []
  refine ⟨_, exec_modeSwitchDone hj hconf hfor hscrub, ((open_of_job hh hj).step hhat htime).answered_place 0x00 [] (by decide), ?_, hquiet⟩
  exact (congrArg (fun c : Core => c.sys.conf) hquiet).trans hmode

/-! ### KEY_ROTATE (R443) -/

/-- A context under its next generation, its sweep at the first page (R443, R444). -/
def rotated (x : Tenant) (now : Nat) : Tenant := { x with gen := x.gen % 255 + 1, prevLive := true, sweep := some 0, lastSweep := now }

theorem keyRotateBody_ok {r : Req} {s : State} {x : Tenant} (hctx : r.ctx = 0 ∨ r.u8 0 = r.ctx)
    (hx : NMap.get? s.core.sec.contexts (r.u8 0) = some x) (hsweep : x.sweep = none) (hheld : held s (.ctx (r.u8 0)) = false) :
    keyRotateBody r s = ((s.accept r.h (.keyRotate (r.u8 0))).modSec (fun c =>
      { c with contexts := NMap.upd c.contexts (r.u8 0) (fun t => rotated t (dtOf s)) })).addKeys (r.u8 0) (x.gen % 255 + 1) := by
  unfold keyRotateBody
  dsimp only
  rw [guarded_pass (by simp [hctx, NMap.has, hx, hheld, NMap.getD, hsweep])]
  rw [NMap.getD, hx]
  rfl

theorem keyRotate_acts {s : State} {h : Nat} {p : List Byte} {x : Tenant} (ht : takes s h 0x0807 p = true)
    (hctx : (reqOf s h).ctx = 0 ∨ fieldAt p 0 1 = (reqOf s h).ctx) (hx : NMap.get? s.core.sec.contexts (fieldAt p 0 1) = some x)
    (hsweep : x.sweep = none) (hheld : held (taken s h) (.ctx (fieldAt p 0 1)) = false) :
    ∃ t, exec (.keyRotate h) s = .next t ∧ Answered s h 0x01 [] t ∧ jobAt t h = some (.keyRotate (fieldAt p 0 1)) ∧
      NMap.get? t.core.sec.contexts (fieldAt p 0 1) = some (rotated x (dtOf s)) ∧
      NMap.get? t.core.sec.keys (256 * fieldAt p 0 1 + (x.gen % 255 + 1)) =
        some (keySet s.core.sec.bootNonce (fieldAt p 0 1) (x.gen % 255 + 1)) := by
  have hsec : (taken s h).core.sec = s.core.sec := taken_unseen (fun s => s.core.sec) (fun _ _ _ _ _ _ => rfl) s h
  have hdt : dtOf (taken s h) = dtOf s := taken_unseen dtOf (fun _ _ _ _ _ _ => rfl) s h
  have hbody := keyRotateBody_ok (r := requestIn s h p) (s := taken s h) hctx (by rw [hsec]; exact hx) hsweep hheld
  obtain ⟨hans, hjob, hkept⟩ := (open_taken ht).answered_accept (.keyRotate (fieldAt p 0 1))
  have hsec' : ((taken s h).accept h (.keyRotate (fieldAt p 0 1))).core.sec = s.core.sec :=
    (congrArg Core.sec hkept.core).trans hsec
  refine ⟨_, next_of_takes ht hbody, hans.of_hat rfl, hjob, ?_, ?_⟩
  · refine (NMap.get_upd_self _ _ _).trans ?_
    rw [hdt]
    exact (congrArg (fun c : Sec => (NMap.get? c.contexts (fieldAt p 0 1)).map fun t => rotated t (dtOf s)) hsec').trans (by rw [hx]; rfl)
  · refine (NMap.get_set _ _ _).trans ?_
    exact (congrArg (fun c : Sec => some (keySet c.bootNonce (fieldAt p 0 1) (x.gen % 255 + 1))) hsec' :)

/-! ### The sweep (R444) -/

/-- Time and what the security unit holds. -/
def secView (s : State) : Time × Sec := (s.core.time, s.core.sec)

theorem pageless_secView : Pageless secView := ⟨fun _ _ => rfl, fun _ _ => rfl⟩

theorem moveFrame_secView (s : State) (p : Nat) (near : Bool) : secView (s.moveFrame p near) = secView s := by
  unfold State.moveFrame
  split
  · rfl
  · split
    · rfl
    · next f u hf =>
      have hu : secView u = secView s := pageless_secView.takeFrame hf
      exact (pageless_secView.freeFrame _ _ _).trans hu

theorem sweepPages_secView (gen : Nat) (ps : List Nat) (s : State) : secView (ps.foldl (State.sweepPage gen) s) = secView s :=
  foldl_unseen (fun u p => (pageless_secView.modPage _ _ _).trans (moveFrame_secView u p _)) ps s

/-- A context after a millisecond of its sweep has moved some pages. -/
def swept (x : Tenant) (ps : List Nat) (now : Nat) : Tenant :=
  if ps.length < 128 then { x with sweep := none, prevLive := false } else { x with sweep := some (ps.getLastD 0 + 1), lastSweep := now }

theorem exec_generationSweep {s : State} {c f : Nat} {x : Tenant} (hrun : running s = true) (hx : NMap.get? s.core.sec.contexts c = some x)
    (hf : x.sweep = some f) (hdue : x.lastSweep + 1000000 ≤ dtOf s) {ps : List Nat} (hps : sweepPages s c x.gen (rangePages s - f) f 128 = ps) :
    exec (.generationSweep c) s = .next (
      let u := ps.foldl (State.sweepPage x.gen) s
      let v := if ps.length < 128 then u.dropKeys (fun d g => d == c && g != x.gen) else u
      v.modSec (fun k => { k with contexts := NMap.upd k.contexts c (fun t => swept t ps (dtOf v)) })) := by
  subst hps
  change execGenerationSweep c s = _
  unfold execGenerationSweep
  rw [hx]
  dsimp only
  rw [hf]
  dsimp only
  rw [if_neg (by simp [hrun, hdue])]
  rfl

theorem generationSweep_acts {s : State} {c f : Nat} {x : Tenant} (hrun : running s = true) (hx : NMap.get? s.core.sec.contexts c = some x)
    (hf : x.sweep = some f) (hdue : x.lastSweep + 1000000 ≤ dtOf s) {ps : List Nat} (hps : sweepPages s c x.gen (rangePages s - f) f 128 = ps) :
    ∃ t, exec (.generationSweep c) s = .next t ∧ NMap.get? t.core.sec.contexts c = some (swept x ps (dtOf s)) ∧
      (ps = [] → t.core.tiers = s.core.tiers) := by
  refine ⟨_, exec_generationSweep hrun hx hf hdue hps, ?_, ?_⟩
  · extract_lets u v
    have hu : secView u = secView s := sweepPages_secView _ _ _
    simp only [secView, Prod.mk.injEq] at hu
    obtain ⟨htime, hsec⟩ := hu
    have hv : v.core.time = u.core.time ∧ v.core.sec.contexts = u.core.sec.contexts :=
      holds_ite (P := fun t : State => t.core.time = u.core.time ∧ t.core.sec.contexts = u.core.sec.contexts) ⟨rfl, rfl⟩ ⟨rfl, rfl⟩
    have hdt : dtOf v = dtOf s := by rw [dtOf, hv.1, htime, dtOf]
    refine (NMap.get_upd_self _ _ _).trans ?_
    rw [hv.2, hsec, hx, hdt]
    rfl
  · rintro rfl
    rfl

/-- Settles O23. -/
theorem modeAndKeyCommandsTakeEffect : Obligations.ModeAndKeyCommandsTakeEffect := by
  unfold Obligations.ModeAndKeyCommandsTakeEffect
  intro s h p
  have hconf : (taken s h).core.sys.conf = s.core.sys.conf := taken_unseen (fun s => s.core.sys.conf) (fun _ _ _ _ _ _ => rfl) s h
  have haccepted {op : Nat} (ht : takes s h op p = true) {body : Req → State → State} {j : Job}
      (hb : body (requestIn s h p) (taken s h) = ((taken s h).accept h j).modeProceed) : ∃ t, (.next (serve op h body s) :
      Host.Outcome State Fault Refusal) = .next t ∧ Answered s h 0x01 [] t ∧ jobAt t h = some j ∧ t.core.sys.conf = s.core.sys.conf :=
    ⟨_, next_of_takes ht hb, accepted_modeProceed ht j⟩
  refine ⟨fun ht hc => ?again, fun ht hc => hc ▸ haccepted ht (if_neg (by simp [hconf, hc])), fun ht hc => ?already,
    fun ht hc => hc ▸ haccepted ht (if_pos (hconf.trans hc)), fun hh hj hc hfor hscrub => ?entered,
    fun hh hj hc hfor hscrub => ?left, fun x ht hctx hx hsweep hheld => keyRotate_acts ht hctx hx hsweep hheld,
    fun c hh hj hsweep => ?rotated, fun c x f hrun hx hf hdue => ?sweep⟩
  case again =>
    exact responds_of_takes ht (if_pos (hconf.trans hc)) ((laid_of_takes ht).place 0x00 [] (by decide))
  case already =>
    exact responds_of_takes ht (if_neg (by simp [hconf, hc])) ((laid_of_takes ht).place 0x00 [] (by decide))
  case entered =>
    obtain ⟨t, ht, hans, hmode, hquiet⟩ := modeSwitchDone_acts (conf := true) hh hj hc hfor hscrub
    exact ⟨t, ht, hans, hmode, congrArg (fun c : Core => c.obs.trace) hquiet, congrArg (fun c : Core => c.sec.holder) hquiet,
      congrArg (fun c : Core => c.sec.turnBegan) hquiet⟩
  case left =>
    obtain ⟨t, ht, hans, hmode, -⟩ := modeSwitchDone_acts (conf := false) hh hj hc hfor hscrub
    exact ⟨t, ht, hans, hmode⟩
  case rotated =>
    change Responds s h 0x00 _ _ (execKeyRotateDone h s)
    unfold execKeyRotateDone
    rw [hj]
    dsimp only
    rw [if_pos (by rw [hsweep]; rfl)]
    exact (open_of_job hh hj).laid.place 0x00 _ (by decide)
  case sweep =>
    intro ps
    obtain ⟨t, ht, hget, htiers⟩ := generationSweep_acts hrun hx hf hdue (ps := ps) rfl
    exact ⟨t, ht, fun hlt => hget.trans (congrArg some (if_pos hlt)), fun hle => hget.trans (congrArg some (if_neg (by omega))), htiers⟩

end Sys2Proof.Machine
end

section
/-! Jobs and commits of the map (R302 to R308, R489 to R491), then what starts and commits a job (R307, R324). -/
namespace Sys2Proof.Machine

/-! ### A job leaves its channel and its lock -/

section EndJob
variable {α : Type} {F : State → α}

theorem sendUp_unseen (hF : ∀ s f, F (s.modLink f) = F s) (s : State) (type : Nat) (b : List Byte) : F (s.sendUp type b) = F s := by
  unfold State.sendUp State.sendObject State.modMp
  split
  · exact hF _ _
  · rfl

theorem stopJob_unseen (hF : ∀ s f, F (s.modChans f) = F s) (s : State) (j : Nat) : F (s.stopJob j) = F s := by
  unfold State.stopJob State.dropInst
  exact (foldl_unseen (fun s _ => hF s _) _ _).trans (hF s _)

theorem releaseLock_unseen (hF : ∀ s f, F (s.modLink f) = F s) (s : State) (j : Nat) : F (s.releaseLock j) = F s := by
  unfold State.releaseLock
  exact holds_ite (P := fun t => F t = F s) (hF _ _) ((sendUp_unseen hF _ _ _).trans (hF _ _))

theorem endJob_unseen (hchans : ∀ s f, F (s.modChans f) = F s) (hlink : ∀ s f, F (s.modLink f) = F s) (hmap : ∀ s f, F (s.modMap f) = F s)
    (s : State) (j : Nat) (f : MapJob → MapJob) : F (s.endJob j f) = F s := by
  have hstop : F ((s.stopJob j).releaseLock j) = F s := (releaseLock_unseen hlink _ j).trans (stopJob_unseen hchans s j)
  unfold State.endJob
  extract_lets u
  split
  · exact hstop
  · exact holds_ite (P := fun t => F t = F s) ((hmap _ _).trans hstop) ((hmap _ _).trans hstop)

end EndJob

/-- The jobs when one has ended (R308): one that a hatch waits for keeps its figures. -/
def endedJobs (m : MapSt) (j : Nat) (f : MapJob → MapJob) : NMap MapJob :=
  match NMap.get? m.jobs j with
  | none => m.jobs
  | some x => if x.hatch.isSome then NMap.upd m.jobs j (fun x => { f x with phase := 4 }) else NMap.erase m.jobs j

theorem endJob_map (s : State) (j : Nat) (f : MapJob → MapJob) :
    (s.endJob j f).core.map = { s.core.map with jobs := endedJobs s.core.map j f } := by
  have hstop : ((s.stopJob j).releaseLock j).core.map = s.core.map :=
    (releaseLock_unseen (F := fun s => s.core.map) (fun _ _ => rfl) _ j).trans (stopJob_unseen (F := fun s => s.core.map) (fun _ _ => rfl) s j)
  unfold State.endJob endedJobs
  rw [← hstop]
  extract_lets u
  change (match NMap.get? u.core.map.jobs j with | none => u | some x => _).core.map = _
  cases hx : NMap.get? u.core.map.jobs j with
  | none => rfl
  | some x =>
    by_cases hh : x.hatch.isSome = true
    · simp only [hh, if_true]
      rfl
    · simp only [hh]
      rfl

/-- Device, and the locks that are held. -/
def lockView (s : State) : Sys × List TileLock := (s.core.sys, s.core.link.locks)

theorem sendUp_lockView (s : State) (type : Nat) (b : List Byte) : lockView (s.sendUp type b) = lockView s := by
  unfold State.sendUp
  split
  · rfl
  · rfl

theorem releaseLock_lockView (s : State) (j : Nat) :
    lockView (s.releaseLock j) = (s.core.sys, s.core.link.locks.filter (fun r => !ownLock s j r)) := by
  unfold State.releaseLock
  exact holds_ite (P := fun t => lockView t = (s.core.sys, s.core.link.locks.filter (fun r => !ownLock s j r))) rfl (sendUp_lockView _ _ _)

/-- A job that has ended holds no lock (R307). -/
theorem endJob_locks (s : State) (j : Nat) (f : MapJob → MapJob) : ∀ l ∈ (s.endJob j f).core.link.locks, ownLock s j l = false := by
  have hstop : lockView (s.stopJob j) = lockView s := stopJob_unseen (fun _ _ => rfl) s j
  have hrel := releaseLock_lockView (s.stopJob j) j
  simp only [lockView, Prod.mk.injEq] at hstop hrel
  have hsame : (s.endJob j f).core.link.locks = ((s.stopJob j).releaseLock j).core.link.locks := by
    unfold State.endJob
    extract_lets u
    split
    · rfl
    · exact holds_ite (P := fun t : State => t.core.link.locks = u.core.link.locks) rfl rfl
  intro l hl
  rw [hsame, hrel.2] at hl
  have hown := (List.mem_filter.1 hl).2
  rw [ownLock, hstop.1] at hown
  simpa [ownLock, imp_iff_not_or] using hown

/-! ### The start of a job (R307, R489) -/

theorem jobOf_modJob {s : State} {j : Nat} {x : MapJob} (hx : jobOf s j = some x) (f : MapJob → MapJob) : jobOf (s.modJob j f) j = some (f x) :=
  NMap.get_upd hx f

section Start
variable {s : State} {j : Nat} {x : MapJob} (hrun : running s = true) (hserv : s.core.map.inService = true) (hx : jobOf s j = some x)
  (hphase : x.phase = 0)
include hrun hserv hx hphase

theorem exec_mapJobStart : exec (.mapJobStart j) s = .next (
    if hasLock s j then s.modJob j (fun x => { x with phase := 1, waited := false })
    else if x.kind == 2 && decide (x.deadline < dtOf s) then s.endJob j (fun x => x.mark 4)
    else match (if isKeeper s then (grantsNow s).find? (ownLock s j) else none) with
      | some r => if s.core.link.joining.isNone && !mapOwed s then (s.grant r).modJob j (fun x => { x with phase := 1, waited := false }) else s
      | none => if x.waited then s else (s.modJob j (fun x => { x with waited := true })).bump (mapCtr 6) 1) := by
  change execMapJobStart j s = _
  unfold execMapJobStart
  rw [hx]
  exact congrArg Host.Outcome.next (if_pos (by simp [hrun, hserv, hphase]))

theorem mapJobStart_locked (hl : hasLock s j = true) : ∃ t, exec (.mapJobStart j) s = .next t ∧
    jobOf t j = some { x with phase := 1, waited := false } ∧ t.core.link = s.core.link :=
  ⟨_, (exec_mapJobStart hrun hserv hx hphase).trans (congrArg Host.Outcome.next (if_pos hl)), jobOf_modJob hx _, rfl⟩

theorem mapJobStart_granted {q : TileLock} (hq : q ∈ grantsNow s) (hl : hasLock s j = false) (hdue : dtOf s ≤ x.deadline)
    (hk : isKeeper s = true) (hjoin : s.core.link.joining = none) (howed : mapOwed s = false) (hown : ownLock s j q = true) :
    ∃ t r, exec (.mapJobStart j) s = .next t ∧ jobOf t j = some { x with phase := 1, waited := false } ∧
      t.core.link.locks = s.core.link.locks ++ [r] ∧ r ∈ s.core.link.requests ∧ ownLock s j r = true ∧
      ∀ k ∈ s.core.link.locks, ∀ n ∈ k.tiles, n ∉ r.tiles := by
  obtain ⟨r, hr⟩ := Option.isSome_iff_exists.1 (List.find?_isSome.2 ⟨q, hq, hown⟩)
  obtain ⟨hreq, hmeet⟩ := of_mem_grantsNow (List.mem_of_find?_eq_some hr)
  refine ⟨(s.grant r).modJob j (fun x => { x with phase := 1, waited := false }), r, ?_, jobOf_modJob hx _, rfl, hreq,
    List.find?_some hr, hmeet⟩
  rw [exec_mapJobStart hrun hserv hx hphase, if_neg (by simp [hl]), if_neg (by simp; omega), if_pos hk, hr]
  dsimp only
  rw [if_pos (by simp [hjoin, howed])]

theorem mapJobStart_waits (hl : hasLock s j = false) (hdue : dtOf s ≤ x.deadline)
    (hno : isKeeper s = false ∨ ∀ r ∈ grantsNow s, ownLock s j r = false) (hw : x.waited = false) :
    ∃ t, exec (.mapJobStart j) s = .next t ∧ jobOf t j = some { x with waited := true } ∧ t.core.link = s.core.link ∧
      NMap.getD t.core.obs.counters (mapCtr 6) 0 = NMap.getD s.core.obs.counters (mapCtr 6) 0 + 1 := by
  have hnone : (if isKeeper s then (grantsNow s).find? (ownLock s j) else none) = none := by
    rcases hno with hk | hno
    · rw [if_neg (by simp [hk])]
    · split
      · exact List.find?_eq_none.2 fun r hr => by simp [hno r hr]
      · rfl
  refine ⟨(s.modJob j (fun x => { x with waited := true })).bump (mapCtr 6) 1, ?_, jobOf_modJob hx _, rfl, counted_bump (s.modJob j _) (mapCtr 6) 1⟩
  rw [exec_mapJobStart hrun hserv hx hphase, if_neg (by simp [hl]), if_neg (by simp; omega), hnone]
  dsimp only
  rw [if_neg (by simp [hw])]

end Start

/-- Settles O15. -/
theorem mapJobsStartUnderTheirLock : Obligations.MapJobsStartUnderTheirLock := by
  unfold Obligations.MapJobsStartUnderTheirLock
  exact fun s j x hrun hserv hx hphase => ⟨fun hl => mapJobStart_locked hrun hserv hx hphase hl,
    fun q hq hl hdue hk hjoin howed hown => mapJobStart_granted hrun hserv hx hphase hq hl hdue hk hjoin howed hown,
    fun hl hdue hno hw => mapJobStart_waits hrun hserv hx hphase hl hdue hno hw⟩

end Sys2Proof.Machine
end

section
/-! Commits of the map (R302 to R306): a root swapped or lost, then a solved job's commit and an insertion batch's (R320, R321, R324, R326). -/
namespace Sys2Proof.Machine

/-! ### The root -/

/-- What neither events, errors, memory nor the map's own state show. -/
structure Unrooted {α : Type} (F : State → α) : Prop where
  deaf : Deaf F
  err : ∀ s e, F { s with err := e } = F s
  tiers : ∀ s f, F (s.modTiers f) = F s
  fab : ∀ s f, F (s.modFab f) = F s

section Unrooted
variable {α : Type} {F : State → α} (hF : Unrooted F)
include hF

theorem Unrooted.restoreRoot (s : State) : F s.restoreRoot = F s := by
  unfold State.restoreRoot
  refine holds_ite (P := fun t => F t = F s) ?_ rfl
  split
  · exact (hF.tiers _ _).trans (hF.deaf.reachTorn hF.err hF.tiers hF.fab _ _ _)
  · rfl

theorem Unrooted.commitMap (hmap : ∀ s f, F (s.modMap f) = F s) (s : State) (pin : Nat) (d : MapData) (ch : List Nat) :
    F (s.commitMap pin d ch) = F s := by
  unfold State.commitMap State.lockRoot State.lockFor State.modStat
  exact (hmap _ _).trans ((hF.fab _ _).trans (hF.restoreRoot s))

theorem Unrooted.swapRoot (hmap : ∀ s f, F (s.modMap f) = F s) (s : State) (d : MapData) (ch : List Nat) (w n : Nat) :
    F (s.swapRoot d ch w n) = F s :=
  (hF.deaf.event _ _ _).trans ((hF.deaf.traceRec _ _ _ _ _).trans ((hmap _ _).trans (hF.commitMap hmap s _ d ch)))

end Unrooted

theorem unrooted_map : Unrooted (fun s => s.core.map) :=
  ⟨⟨fun _ _ => rfl, fun _ _ => rfl, fun _ _ _ => rfl, fun _ _ => rfl, fun _ _ _ _ _ => rfl⟩, fun _ _ => rfl, fun _ _ => rfl, fun _ _ => rfl⟩

theorem commitMap_map (s : State) (pin : Nat) (d : MapData) (ch : List Nat) :
    ∃ rs, (s.commitMap pin d ch).core.map = s.core.map.become rs pin d ch := by
  have hmap : s.restoreRoot.lockRoot.core.map = s.core.map := (unrooted_map.fab _ _).trans (unrooted_map.restoreRoot s)
  refine ⟨mapReaders s.restoreRoot.lockRoot, ?_⟩
  rw [← hmap]
  rfl

/-- The map after a commit of this device's own: one version on (R302). -/
theorem swapRoot_map (s : State) (d : MapData) (ch : List Nat) (w n : Nat) : ∃ rs b l,
    (s.swapRoot d ch w n).core.map = { s.core.map.become rs (s.core.map.pin + 1) d ch with batchFrom := b, dirty := l } := by
  obtain ⟨rs, hrs⟩ := commitMap_map s (s.core.map.pin + 1) d ch
  refine ⟨rs, if (s.core.map.become rs (s.core.map.pin + 1) d ch).dirty.isEmpty then s.core.map.version.toNat
    else (s.core.map.become rs (s.core.map.pin + 1) d ch).batchFrom, ((s.core.map.become rs (s.core.map.pin + 1) d ch).dirty ++ ch).eraseDups, ?_⟩
  unfold State.swapRoot State.swapRootTo State.mapEvent
  rw [unrooted_map.deaf.event, unrooted_map.deaf.traceRec, State.modMap_core]
  dsimp only
  rw [hrs]

theorem version_succ (m : MapSt) : BitVec.ofNat 32 (m.pin + 1) = m.version + 1 := by rw [BitVec.ofNat_add]; rfl

theorem loseCommit_map (s : State) : s.loseCommit.core.map = { s.core.map with rootTorn := true } := by
  unfold State.loseCommit
  split <;> rfl

/-! ### A solved job (R302, R306, R324, R326) -/

/-- The map once a solved job has been committed and its job has ended. -/
structure JobCommitted (s : State) (j : Nat) (x : MapJob) (t : State) : Prop where
  version : t.core.map.version = s.core.map.version + 1
  data : t.core.map.data = applyJob s.core.map.data x
  locks : ∀ l ∈ t.core.link.locks, ownLock s j l = false

theorem ownLock_of_devid {s t : State} (h : t.core.sys.devid = s.core.sys.devid) (j : Nat) (l : TileLock) : ownLock t j l = ownLock s j l := by
  rw [ownLock, ownLock, h]

section Commit
variable {s : State} {j : Nat} {x : MapJob} (hx : jobOf s j = some x) (hk : isKeeper s = true) (hposes : x.poses ≠ [])
  (hroom : shadowUsed s + mutablePages (jobPages s.core.map.data x) ≤ shadowPages s)
include hx hk hposes hroom

theorem commitJob_lost : s.commitJob j true = s.loseCommit.endJob j (fun x => x.mark 9) := by
  unfold State.commitJob
  rw [hx]
  dsimp only
  rw [if_neg (by simpa using hposes), if_neg (by simp [hk]), if_neg (Nat.not_lt.2 hroom), if_pos rfl]

/-- The state in which a committed job ends: the root swapped, the corrections kept, and for MAP_OPTIMISE its tiles' insertions counted anew. -/
def jobSwapped (s : State) (x : MapJob) : State :=
  let moved := jobMoved s.core.map.data x
  let u := (s.swapRoot (applyJob s.core.map.data x) (jobPages s.core.map.data x) (x.word ||| 2 ^ 6 ||| wordKind x.kind) moved.length).modMap
    (fun m => { m with
      corrections := m.corrections ++ corrections (s.core.map.version + 1).toNat moved x
      inserts := if x.kind == 1 then m.inserts.filter (fun p => !x.tiles.contains p.1) else m.inserts })
  if x.kind == 2 then u.bump (mapCtr 11) 1 else u

theorem commitJob_done : s.commitJob j false =
    (jobSwapped s x).endJob j (fun y => { y.mark 6 with moved := (jobMoved s.core.map.data x).length }) := by
  unfold State.commitJob
  rw [hx]
  dsimp only
  rw [if_neg (by simpa using hposes), if_neg (by simp [hk]), if_neg (Nat.not_lt.2 hroom), if_neg (by decide)]
  rfl

omit hx hk hposes hroom in
theorem jobSwapped_facts : (jobSwapped s x).core.map.version = s.core.map.version + 1 ∧
    (jobSwapped s x).core.map.data = applyJob s.core.map.data x ∧ (jobSwapped s x).core.sys.devid = s.core.sys.devid := by
  have hdevid := Unrooted.swapRoot (F := fun s => s.core.sys.devid)
    ⟨⟨fun _ _ => rfl, fun _ _ => rfl, fun _ _ _ => rfl, fun _ _ => rfl, fun _ _ _ _ _ => rfl⟩, fun _ _ => rfl, fun _ _ => rfl, fun _ _ => rfl⟩
    (fun _ _ => rfl) s (applyJob s.core.map.data x) (jobPages s.core.map.data x) (x.word ||| 2 ^ 6 ||| wordKind x.kind)
    (jobMoved s.core.map.data x).length
  obtain ⟨rs, b, l, hmap⟩ := swapRoot_map s (applyJob s.core.map.data x) (jobPages s.core.map.data x) (x.word ||| 2 ^ 6 ||| wordKind x.kind)
    (jobMoved s.core.map.data x).length
  have hversion : (BitVec.ofNat 32 (s.core.map.pin + 1) : W32) = s.core.map.version + 1 := version_succ s.core.map
  unfold jobSwapped
  extract_lets moved u
  have hu : u.core.map.version = s.core.map.version + 1 ∧ u.core.map.data = applyJob s.core.map.data x ∧ u.core.sys.devid = s.core.sys.devid :=
    ⟨(congrArg (fun m : MapSt => (BitVec.ofNat 32 m.pin : W32)) hmap).trans hversion, (congrArg MapSt.data hmap :), hdevid⟩
  exact holds_ite (P := fun t : State => t.core.map.version = s.core.map.version + 1 ∧ t.core.map.data = applyJob s.core.map.data x ∧
    t.core.sys.devid = s.core.sys.devid) hu hu

theorem commitJob_committed : JobCommitted s j x (s.commitJob j false) := by
  obtain ⟨hversion, hdata, hdevid⟩ := jobSwapped_facts (s := s) (x := x)
  rw [commitJob_done hx hk hposes hroom]
  have hmap := endJob_map (jobSwapped s x) j (fun y => { y.mark 6 with moved := (jobMoved s.core.map.data x).length })
  exact ⟨(congrArg MapSt.version hmap).trans hversion, (congrArg MapSt.data hmap).trans hdata,
    fun l hl => (ownLock_of_devid hdevid j l).symm.trans (endJob_locks _ j _ l hl)⟩

theorem commitJob_loses : (s.commitJob j true).core.map.version = s.core.map.version ∧ (s.commitJob j true).core.map.data = s.core.map.data ∧
    (s.commitJob j true).core.map.rootTorn = true ∧ ∀ l ∈ (s.commitJob j true).core.link.locks, ownLock s j l = false := by
  rw [commitJob_lost hx hk hposes hroom]
  have hmap := (endJob_map s.loseCommit j (fun x => x.mark 9)).trans (by rw [loseCommit_map])
  have hdevid : s.loseCommit.core.sys.devid = s.core.sys.devid := by
    unfold State.loseCommit
    split <;> rfl
  exact ⟨(congrArg MapSt.version hmap :), (congrArg MapSt.data hmap :), (congrArg MapSt.rootTorn hmap :),
    fun l hl => (ownLock_of_devid hdevid j l).symm.trans (endJob_locks _ j _ l hl)⟩

end Commit

theorem exec_mapCommit {s : State} {j : Nat} {x : MapJob} (hrun : running s = true) (hx : jobOf s j = some x) (hphase : x.phase = 2)
    (hsw : x.kind = 2 → switchLow s x = false) (f : Bool) : exec (.mapCommit j f) s = .next (s.commitJob j f) := by
  change execMapCommit j f s = _
  unfold execMapCommit
  rw [hx]
  refine congrArg Host.Outcome.next (if_pos ?_)
  simp only [hrun, hphase, beq_self_eq_true, Bool.and_self, Bool.true_and, Bool.not_eq_true', Bool.and_eq_false_imp, beq_iff_eq]
  exact hsw

section Closure
variable {s : State} {j : Nat} {x : MapJob} (hrun : running s = true) (hx : jobOf s j = some x) (hphase : x.phase = 2) (hkind : x.kind = 2)
include hrun hx hphase hkind

theorem exec_loopClosureCommit : exec (.loopClosureCommit j) s =
    .next (if switchLow s x then (s.bump (mapCtr 12) 1).endJob j (fun x => x.mark 7) else s.commitJob j false) := by
  change execLoopClosureCommit j s = _
  unfold execLoopClosureCommit
  rw [hx]
  exact congrArg Host.Outcome.next (if_pos (by simp [hrun, hphase, hkind]))

theorem loopClosureCommit_rejects (hlow : switchLow s x = true) (hhatch : x.hatch = none) :
    ∃ t, exec (.loopClosureCommit j) s = .next t ∧ t.core.map.version = s.core.map.version ∧ t.core.map.data = s.core.map.data ∧
      jobOf t j = none ∧ NMap.getD t.core.obs.counters (mapCtr 12) 0 = NMap.getD s.core.obs.counters (mapCtr 12) 0 + 1 := by
  have hmap := endJob_map (s.bump (mapCtr 12) 1) j (fun x => x.mark 7)
  have hjobs : endedJobs s.core.map j (fun x => x.mark 7) = NMap.erase s.core.map.jobs j := by
    have hget : NMap.get? s.core.map.jobs j = some x := hx
    rw [endedJobs, hget]
    simp [hhatch]
  have hctr := endJob_unseen (F := fun s => s.core.obs) (fun _ _ => rfl) (fun _ _ => rfl) (fun _ _ => rfl) (s.bump (mapCtr 12) 1) j (fun x => x.mark 7)
  refine ⟨_, (exec_loopClosureCommit hrun hx hphase hkind).trans (congrArg Host.Outcome.next (if_pos hlow)), (congrArg MapSt.version hmap :),
    (congrArg MapSt.data hmap :), ?_, ?_⟩
  · have hend : ((s.bump (mapCtr 12) 1).endJob j (fun x => x.mark 7)).core.map.jobs = NMap.erase s.core.map.jobs j :=
      (congrArg MapSt.jobs hmap).trans hjobs
    rw [jobOf, hend, NMap.get_erase_self]
  · exact (congrArg (fun o : Watch => NMap.getD o.counters (mapCtr 12) 0) hctr).trans (counted_bump s (mapCtr 12) 1)

end Closure

/-- Settles O16. -/
theorem solvedJobsCommit : Obligations.SolvedJobsCommit := by
  unfold Obligations.SolvedJobsCommit
  intro s j x hrun hx hphase hk hposes hroom
  have hdone := commitJob_committed hx hk hposes hroom
  refine ⟨fun hsw => ⟨⟨_, exec_mapCommit hrun hx hphase hsw false, hdone.version, hdone.data, hdone.locks⟩,
      _, exec_mapCommit hrun hx hphase hsw true, commitJob_loses hx hk hposes hroom⟩, fun hkind hlow => ?closed,
    fun hkind hlow hhatch => loopClosureCommit_rejects hrun hx hphase hkind hlow hhatch⟩
  case closed =>
    exact ⟨_, (exec_loopClosureCommit hrun hx hphase hkind).trans (congrArg Host.Outcome.next (if_neg (by simp [hlow]))), hdone.version, hdone.data⟩

end Sys2Proof.Machine
end

section
/-! The insertion batch (R302, R306, R320, R321). -/
namespace Sys2Proof.Machine

/-- The pages that a batch's commit writes. -/
def insertPages (s : State) (b : Inserting) : List Nat :=
  (b.ids.map posePage ++ (touchedLms s.core.map.data b.data).map lmPage ++
    b.ids.flatMap (fun i => match NMap.get? b.data.kfs i with
      | some k => payloadPages i k
      | none => [])).eraseDups

/-- The parcels are off the list, and what of them falls outside or finds no room is counted. -/
def parcelsTaken (s : State) (b : Inserting) : State :=
  ((s.modMap (fun m => { m with parcels := [], insertWaits := false, lastInsert := dtOf s })).bump (mapCtr 1) b.outside).bump (mapCtr 2) b.full

/-- The batch committed: what it inserts is to be searched for closures (R322), and counts for its tiles. -/
def batchInserted (s : State) (b : Inserting) : State :=
  let t := (parcelsTaken s b).swapRoot b.data (insertPages s b) (2 ^ 6 ||| wordKind 3) 0
  (t.modMap (fun m => { m with
    lastOf := b.last
    search := m.search ++ b.ids
    inserts := (b.ids.filterMap (fun i => (NMap.get? b.data.kfs i).bind (fun k => tileOf k.pos))).foldl (fun n t => NMap.bump n t 1) m.inserts })).bump
      (mapCtr 0) b.ids.length

section Batch
variable {s : State} {b : Inserting} (hdue : insertDue s = true)
  (hb : b = s.core.map.parcels.foldl (insertParcel s) { data := s.core.map.data, last := s.core.map.lastOf })
include hdue hb

theorem exec_insertionBatch_none (hids : b.ids = []) (f : Bool) : exec (.insertionBatch f) s = .next (parcelsTaken s b) := by
  change execInsertionBatch f s = _
  have hbatch : insertBatch s = b := hb.symm
  unfold execInsertionBatch
  rw [if_pos hdue, hbatch]
  simp only [hids, List.isEmpty_nil, Bool.not_true, Bool.false_and, Bool.false_eq_true, if_false, if_true]
  rfl

variable (hids : b.ids ≠ []) (hroom : shadowUsed s + mutablePages (insertPages s b) ≤ shadowPages s)
include hids hroom

theorem exec_insertionBatch (f : Bool) : exec (.insertionBatch f) s = .next (if f then (parcelsTaken s b).loseCommit else batchInserted s b) := by
  change execInsertionBatch f s = _
  have hbatch : insertBatch s = b := hb.symm
  have hfull : (!b.ids.isEmpty && decide (shadowPages s < shadowUsed s + mutablePages (insertPages s b))) = false := by simp [hroom]
  unfold execInsertionBatch
  rw [if_pos hdue, hbatch]
  refine congrArg Host.Outcome.next ((if_neg (Bool.eq_false_iff.1 hfull)).trans ((if_neg (by simp [hids])).trans ?_))
  cases f <;> rfl

end Batch

/-- The counters of the map block that the batch moves, before the commit. -/
theorem parcelsTaken_facts (s : State) (b : Inserting) :
    (parcelsTaken s b).core.map = { s.core.map with parcels := [], insertWaits := false, lastInsert := dtOf s } ∧
      (parcelsTaken s b).core.tiers = s.core.tiers ∧ ∀ i, i = 0 ∨ i = 5 → Counted s (mapCtr i) 0 (parcelsTaken s b) := by
  refine ⟨rfl, rfl, fun i hi => ?_⟩
  have h1 : mapCtr i ≠ mapCtr 1 := by rcases hi with rfl | rfl <;> decide
  have h2 : mapCtr i ≠ mapCtr 2 := by rcases hi with rfl | rfl <;> decide
  exact (counted_bump_other (s.modMap (fun m => { m with parcels := [], insertWaits := false, lastInsert := dtOf s })) _ h1).trans
    (counted_bump_other _ _ h2)

theorem unrooted_counters : Unrooted (fun s => s.core.obs.counters) :=
  ⟨⟨fun _ _ => rfl, fun _ _ => rfl, fun _ _ _ => rfl, fun _ _ => rfl, fun _ _ _ _ _ => rfl⟩, fun _ _ => rfl, fun _ _ => rfl, fun _ _ => rfl⟩

theorem swapRoot_fields (s : State) (d : MapData) (ch : List Nat) (w n : Nat) : (s.swapRoot d ch w n).core.map.data = d ∧
    (s.swapRoot d ch w n).core.map.version = s.core.map.version + 1 ∧ (s.swapRoot d ch w n).core.map.current = 1 - s.core.map.current ∧
    (s.swapRoot d ch w n).core.map.rootTorn = false ∧ (s.swapRoot d ch w n).core.map.parcels = s.core.map.parcels ∧
    (s.swapRoot d ch w n).core.map.search = s.core.map.search := by
  obtain ⟨rs, from', dirty', hmap⟩ := swapRoot_map s d ch w n
  rw [hmap]
  exact ⟨rfl, version_succ s.core.map, rfl, rfl, rfl, rfl⟩

/-- One commit of all that a batch inserts (R302, R320, R321). -/
theorem batchInserted_facts (s : State) (b : Inserting) : (batchInserted s b).core.map.data = b.data ∧
    (batchInserted s b).core.map.version = s.core.map.version + 1 ∧ (batchInserted s b).core.map.parcels = [] ∧
    (batchInserted s b).core.map.search = s.core.map.search ++ b.ids ∧ (batchInserted s b).core.map.current = 1 - s.core.map.current ∧
    (batchInserted s b).core.map.rootTorn = false ∧ Counted s (mapCtr 0) b.ids.length (batchInserted s b) := by
  obtain ⟨hmap, -, hctr⟩ := parcelsTaken_facts s b
  have hcount : Counted (parcelsTaken s b) (mapCtr 0) 0 ((parcelsTaken s b).swapRoot b.data (insertPages s b) (2 ^ 6 ||| wordKind 3) 0) :=
    congrArg (NMap.getD · (mapCtr 0) 0) (unrooted_counters.swapRoot (fun _ _ => rfl) (parcelsTaken s b) _ _ _ _)
  obtain ⟨hdata, hversion, hcurrent, htorn, hparcels, hsearch⟩ := swapRoot_fields (parcelsTaken s b) b.data (insertPages s b) (2 ^ 6 ||| wordKind 3) 0
  refine ⟨hdata, hversion.trans (by rw [hmap]; rfl), hparcels.trans (by rw [hmap]), ?_, hcurrent.trans (by rw [hmap]), htorn, ?_⟩
  · exact congrArg (· ++ b.ids) (hsearch.trans (by rw [hmap]))
  · have hall := ((hctr 0 (Or.inl rfl)).trans hcount).trans (counted_bump _ (mapCtr 0) b.ids.length)
    simp only [Nat.zero_add] at hall
    exact hall

theorem lost_facts (s : State) : (∀ g, rootGranule s = some g → NMap.has s.loseCommit.core.tiers.torn g = true) ∧ Counted s (mapCtr 5) 1 s.loseCommit := by
  unfold State.loseCommit
  cases hg : rootGranule s with
  | none => exact ⟨fun g h => absurd h (by simp), counted_bump _ (mapCtr 5) 1⟩
  | some g =>
    refine ⟨fun g' h => ?_, counted_bump _ (mapCtr 5) 1⟩
    obtain rfl := Option.some.inj h
    exact congrArg Option.isSome (NMap.get_set s.core.tiers.torn g (49, false))

/-- Settles O14. -/
theorem insertionBatchCommits : Obligations.InsertionBatchCommits := by
  unfold Obligations.InsertionBatchCommits
  intro s b pages hdue hb hpages hroom
  obtain rfl : pages = insertPages s b := hpages
  obtain ⟨hmap, htiers, hctr⟩ := parcelsTaken_facts s b
  refine ⟨fun hids => ⟨_, exec_insertionBatch hdue hb hids hroom false, batchInserted_facts s b⟩, fun hids => ?lost,
    fun hids f => ⟨_, exec_insertionBatch_none hdue hb hids f, rfl, rfl, rfl⟩⟩
  case lost =>
    have hlost := (loseCommit_map (parcelsTaken s b)).trans (by rw [hmap])
    obtain ⟨htorn, hcount⟩ := lost_facts (parcelsTaken s b)
    have hall := (hctr 5 (Or.inr rfl)).trans hcount
    refine ⟨_, exec_insertionBatch hdue hb hids hroom true, (congrArg MapSt.data hlost :), (congrArg MapSt.version hlost :),
      (congrArg MapSt.rootTorn hlost :), (congrArg MapSt.parcels hlost :), fun g hg => htorn g hg, hall⟩

end Sys2Proof.Machine
end

section
/-! Searches of the map channels (R311, R313, R317, R322). -/
namespace Sys2Proof.Machine

/-! ### One channel -/

theorem chanAt_modChan_self {s : State} {ch : Nat} (h : ch < s.core.chans.length) (f : Chan → Chan) :
    chanAt (s.modChan ch f) ch = f (chanAt s ch) :=
  getD_updAt_self _ _ _ _ h

theorem chanAt_modChan_other (s : State) {ch c : Nat} (f : Chan → Chan) (h : c ≠ ch) : chanAt (s.modChan ch f) c = chanAt s c :=
  getD_updAt_other _ _ _ _ _ h

/-- What of the channels a change of one leaves alone. -/
theorem chanAt_modChan_same {α : Type} (g : Chan → α) {f : Chan → Chan} (hf : ∀ c, g (f c) = g c) (s : State) (ch c : Nat) :
    g (chanAt (s.modChan ch f) c) = g (chanAt s c) := by
  by_cases hc : c = ch
  · subst hc
    by_cases hlt : c < s.core.chans.length
    · rw [chanAt_modChan_self hlt, hf]
    · have hout : updAt s.core.chans c f = s.core.chans := by
        rw [updAt, List.modify_eq_self (Nat.le_of_not_lt hlt)]
      rw [chanAt, State.modChan, State.modChans_core]
      dsimp only
      rw [hout]
      rfl
  · rw [chanAt_modChan_other _ _ hc]

theorem length_of_present {s : State} {ch : Nat} (h : (chanAt s ch).present = true) : ch < s.core.chans.length := by
  by_contra hlt
  simp [chanAt, List.getD, List.getElem?_eq_none (Nat.le_of_not_lt hlt)] at h

theorem length_of_inService {s : State} {ch : Nat} (h : (chanAt s ch).inService = true) : ch < s.core.chans.length := by
  by_contra hlt
  simp [chanAt, List.getD, List.getElem?_eq_none (Nat.le_of_not_lt hlt)] at h

theorem length_of_instAt {s : State} {ch i : Nat} {x : Inst} (h : instAt s ch i = some x) : ch < s.core.chans.length := by
  by_contra hlt
  simp [instAt, chanAt, List.getD, List.getElem?_eq_none (Nat.le_of_not_lt hlt), NMap.get?] at h

/-! ### Parameters of the map -/

theorem serviceChans_modChan {f : Chan → Chan} (hf : ∀ c, (f c).present = c.present ∧ (f c).inService = c.inService) (s : State) (ch : Nat) :
    serviceChans (s.modChan ch f) = serviceChans s := by
  have hsame (c : Nat) := chanAt_modChan_same (fun c : Chan => c.present && c.inService) (f := f) (fun c => by rw [(hf c).1, (hf c).2]) s ch c
  unfold serviceChans
  simp only [hsame]
  rfl

theorem mapChans_modChan {f : Chan → Chan} (hf : ∀ c, (f c).present = c.present ∧ (f c).inService = c.inService ∧ (f c).mapRole = c.mapRole)
    (s : State) (ch : Nat) : mapChans (s.modChan ch f) = mapChans s := by
  have hrole (c : Nat) := chanAt_modChan_same (fun c : Chan => c.mapRole) (f := f) (fun c => (hf c).2.2) s ch c
  unfold mapChans
  rw [serviceChans_modChan (fun c => ⟨(hf c).1, (hf c).2.1⟩)]
  simp only [hrole]

theorem mapPar_congr {s t : State} (hchans : mapChans t = mapChans s) (hgraphs : t.core.work.graphs = s.core.work.graphs) (off n : Nat) :
    mapPar t off n = mapPar s off n := by
  unfold mapPar mapParams mapGraphSlot residentAt graphAt
  rw [hchans, hgraphs]

/-! ### Searches of inserted keyframes (R322) -/

theorem loopClosureSearch_acts {s : State} {kf ch g : Nat} {k : Kf} (hrun : running s = true) (hserv : s.core.map.inService = true)
    (hch : (mapChans s).head? = some ch) (hg : mapGraphSlot s = some g) (hk : NMap.get? s.core.map.data.kfs kf = some k)
    (hkeep : isKeeper s = true) (hkf : kf ∈ s.core.map.search) :
    ∃ t r, exec (.loopClosureSearch kf) s = .next t ∧ t.core.map.search = s.core.map.search.filter (· != kf) ∧
      t.core.map.data = s.core.map.data ∧ t.core.map.version = s.core.map.version ∧
      (chanAt t ch).requests = (chanAt s ch).requests ++ [r] ∧ r.kind = .placeSearch ∧ r.closure = some kf ∧ r.place = k.place := by
  have hpresent : (chanAt s ch).present = true := by
    have hmem := List.mem_of_mem_head? hch
    simp only [mapChans, serviceChans, List.mem_filter, Bool.and_eq_true] at hmem
    exact hmem.1.2.1
  refine ⟨(s.modMap (fun m => { m with search := m.search.filter (· != kf) })).nextPart ch
    { kind := .placeSearch, sid := 0, ch := 0, inst := 0, place := k.place, query := [], prior := none, closure := some kf },
    { kind := .placeSearch, sid := 0, ch := 0, inst := 0, place := k.place, query := [], prior := none, closure := some kf }, ?_, ?_⟩
  · change execLoopClosureSearch kf s = _
    unfold execLoopClosureSearch
    dsimp only
    rw [hch, hg, hk]
    exact congrArg Host.Outcome.next (if_pos (by simp [hrun, hkeep, hserv, hkf]))
  · refine ⟨rfl, rfl, rfl, ?_, rfl, rfl, rfl⟩
    exact congrArg Chan.requests (chanAt_modChan_self (s := s.modMap _) (length_of_present hpresent) _)

/-! ### The order of requests (R311) -/

theorem nextRequest_mem {c : Chan} {kind : MapReqKind} {r : MapReq} (h : nextRequest c kind = some r) : r ∈ c.requests ∧ r.kind = kind := by
  have hmem : r ∈ c.requests.filter (fun r => r.kind == kind) := by
    unfold nextRequest at h
    extract_lets l at h
    split at h
    · next hf =>
      cases h
      exact List.mem_of_find?_eq_some hf
    · exact List.mem_of_mem_head? h
  simpa using hmem

/-- A closure is taken only where no relocalisation waits. -/
theorem nextRequest_closure {c : Chan} {kind : MapReqKind} {r : MapReq} (h : nextRequest c kind = some r) (hr : r.closure ≠ none) :
    ∀ q ∈ c.requests, q.kind = kind → q.closure ≠ none := by
  intro q hq hkind hclosure
  obtain ⟨f, hf⟩ := Option.isSome_iff_exists.1 (List.find?_isSome (p := fun r : MapReq => r.closure.isNone)
    (xs := c.requests.filter (fun r => r.kind == kind)) |>.2 ⟨q, by simp [hq, hkind], by simp [hclosure]⟩)
  unfold nextRequest at h
  dsimp only at h
  rw [hf] at h
  cases h
  exact hr (by simpa using List.find?_some hf)

/-! ### A place search for a relocalisation (R313, R317) -/

/-- A channel without a request. -/
def withoutRequest (r : MapReq) (c : Chan) : Chan := { c with requests := c.requests.erase r }

/-- The channel as its request has just been taken, the arrays yielded to it. -/
def requestTaken (s : State) (ch : Nat) (r : MapReq) : State :=
  (s.modChan ch (withoutRequest r)).yieldArrays ch

theorem requestTaken_core (s : State) (ch : Nat) (r : MapReq) : (requestTaken s ch r).core.map = s.core.map ∧
    (requestTaken s ch r).core.work = s.core.work ∧
    (requestTaken s ch r).core.chans = updAt s.core.chans ch (withoutRequest r) ∧ (requestTaken s ch r).hw = s.hw := by
  unfold requestTaken State.yieldArrays
  exact holds_ite (P := fun t : State => t.core.map = s.core.map ∧ t.core.work = s.core.work ∧
    t.core.chans = updAt s.core.chans ch (withoutRequest r) ∧ t.hw = s.hw) ⟨rfl, rfl, rfl, rfl⟩ ⟨rfl, rfl, rfl, rfl⟩

section PlaceSearch
variable {s : State} {ch : Nat} {r : MapReq} {x : Inst} (hrun : running s = true) (hserv : s.core.map.inService = true)
  (hnext : nextRequest (chanAt s ch) .placeSearch = some r) (hclosure : r.closure = none) (hin : (chanAt s ch).inService = true)
  (hrole : (chanAt s ch).mapRole = true) (hsplit : (chanAt s ch).split = none) (hwaits : (chanAt s ch).splitWaits = [])
include hrun hserv hnext hclosure hin hrole hsplit hwaits

theorem exec_mapRequest_reloc : exec (.mapRequest ch .placeSearch) s = .next ((requestTaken s ch r).takeReloc ch r) := by
  change execMapRequest ch .placeSearch s = _
  unfold execMapRequest
  dsimp only
  rw [hnext]
  dsimp only
  rw [hclosure]
  exact congrArg Host.Outcome.next (if_pos (by simp [hrun, hserv, hin, hrole, hsplit, hwaits]))

end PlaceSearch

section Taken
variable {s : State} {ch : Nat} {r : MapReq}

theorem requestTaken_mapPar (off n : Nat) : mapPar (requestTaken s ch r) off n = mapPar s off n := by
  obtain ⟨-, hwork, hchans, hhw⟩ := requestTaken_core s ch r
  have hsame : mapChans (requestTaken s ch r) = mapChans (s.modChan ch (withoutRequest r)) := by
    simp only [mapChans, serviceChans, chanAt, nChans, hchans, hhw]
    rfl
  exact mapPar_congr (hsame.trans (mapChans_modChan (f := withoutRequest r) (fun _ => ⟨rfl, rfl, rfl⟩) s ch)) (by rw [hwork]) off n

theorem requestTaken_chanAt (c : Nat) :
    chanAt (requestTaken s ch r) c = chanAt (s.modChan ch (withoutRequest r)) c := by
  obtain ⟨-, -, hchans, -⟩ := requestTaken_core s ch r
  rw [chanAt, hchans]
  rfl

theorem requestTaken_instAt (c i : Nat) : instAt (requestTaken s ch r) c i = instAt s c i := by
  rw [instAt, requestTaken_chanAt]
  exact chanAt_modChan_same (fun c : Chan => NMap.get? c.insts i) (f := withoutRequest r) (fun _ => rfl) s ch c

theorem requestTaken_requests (hlt : ch < s.core.chans.length) : (chanAt (requestTaken s ch r) ch).requests = (chanAt s ch).requests.erase r := by
  rw [requestTaken_chanAt, chanAt_modChan_self hlt]
  rfl

theorem requestTaken_length : (requestTaken s ch r).core.chans.length = s.core.chans.length := by
  rw [(requestTaken_core s ch r).2.2.1, length_updAt]

/-- The candidates of a relocalisation's place search, as its channel takes it. -/
def relocCands (s : State) (r : MapReq) (x : Inst) : List Nat :=
  (placeCands (mapPar s 0 2) (mapPar s 2 1) r.place (searchSet (mapAt s x.mapVersion) r.prior) []).take (mapPar s 3 1)

theorem takeReloc_search {x : Inst} (hx : instAt s r.ch r.inst = some x) (hkind : r.kind = .placeSearch) :
    (requestTaken s ch r).takeReloc ch r =
      if (relocCands s r x).isEmpty then (requestTaken s ch r).relocEnds r []
      else (requestTaken s ch r).nextPart ch { r with kind := .descriptorMatch, cands := relocCands s r x } := by
  have hat : mapAt (requestTaken s ch r) x.mapVersion = mapAt s x.mapVersion := by
    rw [mapAt, (requestTaken_core s ch r).1]
    rfl
  unfold State.takeReloc
  rw [requestTaken_instAt, hx]
  dsimp only
  rw [hkind, hat, requestTaken_mapPar, requestTaken_mapPar, requestTaken_mapPar]
  rfl

theorem takeReloc_fails {x : Inst} (hx : instAt s r.ch r.inst = some x) (hlt : ch < s.core.chans.length) :
    (chanAt ((requestTaken s ch r).relocEnds r []) ch).requests = (chanAt s ch).requests.erase r ∧
      ∃ y, instAt ((requestTaken s ch r).relocEnds r []) r.ch r.inst = some y ∧ y.relocOut = some [] := by
  have hinst : instAt (requestTaken s ch r) r.ch r.inst = some x := (requestTaken_instAt _ _).trans hx
  have hends : (requestTaken s ch r).relocEnds r [] = (requestTaken s ch r).modInst r.ch r.inst (fun y => { y with relocOut := some [] }) := by
    rw [State.relocEnds, hinst]
  rw [hends]
  refine ⟨?_, { x with relocOut := some [] }, ?_, rfl⟩
  · exact (chanAt_modChan_same Chan.requests (f := fun c => { c with insts := NMap.upd c.insts r.inst (fun y => { y with relocOut := some [] }) })
      (fun _ => rfl) (requestTaken s ch r) r.ch ch).trans (requestTaken_requests hlt)
  · rw [instAt, State.modInst, chanAt_modChan_self (length_of_instAt hinst)]
    exact NMap.get_upd hinst _

end Taken

/-- Settles O17. -/
theorem searchesTakeTheirTurn : Obligations.SearchesTakeTheirTurn := by
  unfold Obligations.SearchesTakeTheirTurn
  intro s hrun hserv
  refine ⟨fun kf ch g k hch hg hk hkeep hkf => loopClosureSearch_acts hrun hserv hch hg hk hkeep hkf,
    fun ch r hnext hr => nextRequest_closure hnext hr, fun ch r x hnext hclosure hin hrole hsplit hwaits hx => ?reloc⟩
  case reloc =>
    intro cs
    have hlt := length_of_inService hin
    refine ⟨_, (exec_mapRequest_reloc hrun hserv hnext hclosure hin hrole hsplit hwaits).trans
      (congrArg Host.Outcome.next (takeReloc_search hx (nextRequest_mem hnext).2)), fun hnone => ?_, fun hsome => ?_⟩
    · have hempty : (relocCands s r x).isEmpty = true := List.isEmpty_iff.2 hnone
      rw [if_pos hempty]
      exact takeReloc_fails hx hlt
    · have hfull : ¬ (relocCands s r x).isEmpty = true := fun h => hsome (List.isEmpty_iff.1 h)
      rw [if_neg hfull, State.nextPart, chanAt_modChan_self (hlt.trans_eq requestTaken_length.symm), requestTaken_requests hlt]
      rfl

end Sys2Proof.Machine
end

section
/-! The ends of MAP_LOAD, MAP_SAVE and MAP_OPTIMISE (R298, R301, R308, R490). -/
namespace Sys2Proof.Machine

/-! ### Jobs of hatches through a response -/

theorem place_ctl (s : State) (h st : Nat) (pl : List Byte) : (s.place h st pl).core.hat.ctl =
    updAt s.core.hat.ctl h (fun c => { c with own := false, pend := false, job := none }) := by
  rw [State.place, placeWith_eq]
  dsimp only
  obtain ⟨b, e, n, l, ht⟩ := traceRec_eq _ 0x40 h _ _
  rw [ht]
  split
  · rw [msi_eq]
    rfl
  · rfl

theorem jobAt_place_self (s : State) (h st : Nat) (pl : List Byte) : jobAt (s.place h st pl) h = none := by
  rw [jobAt, ctlAt, place_ctl]
  by_cases hlt : h < s.core.hat.ctl.length
  · rw [getD_updAt_self _ _ _ _ hlt]
  · rw [List.getD_eq_default _ _ (by rw [length_updAt]; omega)]

theorem jobAt_place_other (s : State) {h g : Nat} (st : Nat) (pl : List Byte) (hg : g ≠ h) : jobAt (s.place h st pl) g = jobAt s g := by
  rw [jobAt, ctlAt, place_ctl, getD_updAt_other _ _ _ _ _ hg]
  rfl

/-! ### The end of MAP_LOAD (R298, R301) -/

/-- The contents that a load brings, in force, before its response is placed. -/
def mapLoaded (s : State) (version : Nat) (d : Option MapData) : State :=
  let u := (((s.commitMap (loadPin s.core.map version) (d.getD {}) (mutableOf (d.getD {}))).forgetMap).modMap (fun m =>
    { m with corrections := [], inserts := [], dirty := [], lastOf := [], batchFrom := version % 2 ^ 32 }))
  let v := u.modLink (fun l => { l with log := [], waitObj := [], catchUp := childJoiners u, ports := l.ports.map MpPort.spend })
  if d.isSome then v.provisionalAll (fun _ _ => true) else v

/-- Whether a hatch waits for a load of the map. -/
def isMapLoad : Job → Bool
  | .mapLoad _ _ _ => true
  | _ => false

theorem endLoad_eq (s : State) (h version : Nat) (d : Option MapData) : s.endLoad h version d =
    (let w := (mapLoaded s version d).place h (if d.isSome then 0x00 else 0x30)
     (w.modMap (fun m => { m with inService := (hatchesWith w isMapLoad).isEmpty })).mapEvent (2 ^ 6 ||| wordKind 4) 0) := by
  unfold State.endLoad
  simp only [Bool.not_not]
  rfl

/-- Hatches and time. -/
def clockView (s : State) : Hatches × Time := (s.core.hat, s.core.time)

theorem unrooted_clockView : Unrooted clockView :=
  ⟨⟨fun _ _ => rfl, fun _ _ => rfl, fun _ _ _ => rfl, fun _ _ => rfl, fun _ _ _ _ _ => rfl⟩, fun _ _ => rfl, fun _ _ => rfl, fun _ _ => rfl⟩

theorem version_of_loadPin (m : MapSt) (v : Nat) : (BitVec.ofNat 32 (loadPin m v) : W32) = BitVec.ofNat 32 v := by
  apply BitVec.eq_of_toNat_eq
  rw [BitVec.toNat_ofNat, BitVec.toNat_ofNat, loadPin]
  omega

theorem mapLoaded_facts (s : State) (version : Nat) (d : Option MapData) : (mapLoaded s version d).core.hat = s.core.hat ∧
    (mapLoaded s version d).core.time = s.core.time ∧ (mapLoaded s version d).core.map.version = BitVec.ofNat 32 version ∧
    (mapLoaded s version d).core.map.data = d.getD {} ∧
    (d.isSome = true → ∀ e ∈ (mapLoaded s version d).core.work.sess, e.2.state ≠ .normal) := by
  have hclock := unrooted_clockView.commitMap (fun _ _ => rfl) s (loadPin s.core.map version) (d.getD {}) (mutableOf (d.getD {}))
  simp only [clockView, Prod.mk.injEq] at hclock
  obtain ⟨rs, hmap⟩ := commitMap_map s (loadPin s.core.map version) (d.getD {}) (mutableOf (d.getD {}))
  have hversion := (congrArg MapSt.version hmap).trans (version_of_loadPin s.core.map version)
  have hdata : _ = d.getD {} := congrArg MapSt.data hmap
  unfold mapLoaded
  extract_lets u v
  cases d with
  | none => exact ⟨hclock.1, hclock.2, hversion, hdata, fun h => absurd h (by decide)⟩
  | some d =>
    refine ⟨hclock.1, hclock.2, hversion, hdata, fun _ e he => ?_⟩
    obtain ⟨e', -, rfl⟩ := List.mem_map.1 he
    exact toProvisional_not_normal _

section LoadDone
variable {s : State} {h : Nat} (hh : h < 64) {addr len v : Nat} {data : List Byte} (hrun : running s = true) (hj : jobAt s h = some (.mapLoad addr len v))
include hh hrun hj

theorem mapLoadDone_acts {m : Option MapData} (hm : (if mapDigestOk (padTo len data) then mapOfImage (padTo len data) else none) = m) :
    ∃ t, exec (.mapLoadDone h data) s = .next t ∧ t.core.map.version = BitVec.ofNat 32 v ∧ t.core.map.data = m.getD {} ∧
      Answered s h (if m.isSome then 0x00 else 0x30) [] t ∧ (m.isSome = true → ∀ e ∈ t.core.work.sess, e.2.state ≠ .normal) ∧
      ((∀ g, g < 64 → g ≠ h → ∀ a b c, jobAt s g ≠ some (.mapLoad a b c)) → t.core.map.inService = true) := by
  obtain ⟨hhat, htime, hversion, hdata, hsess⟩ := mapLoaded_facts (s.emit (.dmaRead addr len)) v m
  have hopen : Open s h (mapLoaded (s.emit (.dmaRead addr len)) v m) := (open_of_job hh hj).step hhat htime
  have hans : Answered s h (if m.isSome then 0x00 else 0x30) []
      ((mapLoaded (s.emit (.dmaRead addr len)) v m).place h (if m.isSome then 0x00 else 0x30)) :=
    hopen.answered_place _ [] (by split <;> decide)
  have hend : exec (.mapLoadDone h data) s = .next ((s.emit (.dmaRead addr len)).endLoad h v m) := by
    refine congrArg Host.Outcome.next ((if_pos hrun).trans ?_)
    unfold State.mapLoadEnds
    rw [hj, ← hm]
  rw [hend, endLoad_eq]
  generalize hw : (mapLoaded (s.emit (.dmaRead addr len)) v m).place h (if m.isSome then 0x00 else 0x30) = w at hans
  have hquiet : quiet w = quiet (mapLoaded (s.emit (.dmaRead addr len)) v m) := by rw [← hw]; exact quiet_place _ _ _ _
  have hevent : ((w.modMap (fun m => { m with inService := (hatchesWith w isMapLoad).isEmpty })).mapEvent (2 ^ 6 ||| wordKind 4) 0).core.map =
      { w.core.map with inService := (hatchesWith w isMapLoad).isEmpty } := unrooted_map.deaf.event _ _ _
  have hwork : ((w.modMap (fun m => { m with inService := (hatchesWith w isMapLoad).isEmpty })).mapEvent (2 ^ 6 ||| wordKind 4) 0).core.work =
      w.core.work := (work_of_quiet (quiet_event (w.modMap _) _ _)).trans rfl
  refine ⟨_, rfl, ?_, ?_, hans.of_hat (event_hat _ _ _), fun hsome => ?_, fun hnone => ?_⟩
  · exact (congrArg MapSt.version hevent).trans ((congrArg MapSt.version (map_of_quiet hquiet)).trans hversion)
  · exact (congrArg MapSt.data hevent).trans ((congrArg MapSt.data (map_of_quiet hquiet)).trans hdata)
  · rw [hwork, work_of_quiet hquiet]
    exact hsess hsome
  · refine (congrArg MapSt.inService hevent).trans (List.isEmpty_iff.2 (hatchesWith_nil fun g j hg hgj => ?_))
    rw [← hw] at hgj
    by_cases hgh : g = h
    · rw [hgh, jobAt_place_self] at hgj
      cases hgj
    · rw [jobAt_place_other _ _ _ hgh, jobAt, ctlAt, hhat] at hgj
      cases j with
      | mapLoad a b c => exact absurd hgj (hnone g hg hgh a b c)
      | _ => rfl

end LoadDone

/-! ### The end of MAP_OPTIMISE (R238, R308, R490) -/

/-- A job that a hatch waits for, once it has ended. -/
theorem endJob_kept {s : State} {j h : Nat} {x : MapJob} (hx : jobOf s j = some x) (hhatch : x.hatch = some h) (f : MapJob → MapJob) :
    jobOf (s.endJob j f) j = some { f x with phase := 4 } := by
  have hget : NMap.get? s.core.map.jobs j = some x := hx
  have hjobs : endedJobs s.core.map j f = NMap.upd s.core.map.jobs j (fun x => { f x with phase := 4 }) := by
    rw [endedJobs, hget]
    simp [hhatch]
  rw [jobOf, endJob_map, hjobs]
  exact NMap.get_upd hget _

theorem answerJob_eq {s : State} {j h : Nat} {x : MapJob} (hx : jobOf s j = some x) (hhatch : x.hatch = some h) :
    s.answerJob j = (s.modMap (fun m => { m with jobs := NMap.erase m.jobs j })).place h x.status (optimiseResponse x) := by
  rw [State.answerJob, hx]
  dsimp only
  rw [hhatch]

section OptimiseDone
variable {s : State} {h j : Nat} {x : MapJob} (hh : h < 64) (hj : jobAt s h = some (.mapOptimise j)) (hx : jobOf s j = some x) (hhatch : x.hatch = some h)
include hh hj hx hhatch

theorem mapOptimiseDone_answers (hphase : x.phase = 4) (hst : x.status ≠ 0x01) :
    Responds s h x.status (optimiseResponse x) { s.core with map := { s.core.map with jobs := NMap.erase s.core.map.jobs j } }
      (exec (.mapOptimiseDone h) s) := by
  have hend : exec (.mapOptimiseDone h) s = .next (s.answerJob j) := by
    change execMapOptimiseDone h s = _
    unfold execMapOptimiseDone
    rw [hj]
    dsimp only
    rw [hx]
    exact congrArg Host.Outcome.next (if_pos (by simp [hphase]))
  rw [hend, answerJob_eq hx hhatch]
  exact ((open_of_job hh hj).laid.modMap _).place _ _ hst

theorem mapOptimiseDone_late (hphase : x.phase = 0) (hdue : x.deadline < dtOf s) (hl : hasLock s j = false) :
    ∃ t, exec (.mapOptimiseDone h) s = .next t ∧ Answered s h 0x20 (optimiseResponse { x.mark 4 with iters := 0 }) t ∧
      jobOf t j = none ∧ t.core.map.data = s.core.map.data ∧ t.core.map.version = s.core.map.version := by
  have hend : exec (.mapOptimiseDone h) s = .next ((s.endJob j (fun x => { x.mark 4 with status := 0x20, iters := 0 })).answerJob j) := by
    change execMapOptimiseDone h s = _
    unfold execMapOptimiseDone
    rw [hj]
    dsimp only
    rw [hx]
    exact congrArg Host.Outcome.next ((if_neg (by simp [hphase])).trans (if_pos (by simp [hphase, hdue, hl])))
  have hclock := endJob_unseen (F := clockView) (fun _ _ => rfl) (fun _ _ => rfl) (fun _ _ => rfl) s j (fun x => { x.mark 4 with status := 0x20, iters := 0 })
  have hmap := endJob_map s j (fun x => { x.mark 4 with status := 0x20, iters := 0 })
  rw [answerJob_eq (endJob_kept hx hhatch _) hhatch] at hend
  generalize s.endJob j (fun x => { x.mark 4 with status := 0x20, iters := 0 }) = u at hend hclock hmap
  simp only [clockView, Prod.mk.injEq] at hclock
  have hopen : Open s h (u.modMap (fun m => { m with jobs := NMap.erase m.jobs j })) := (open_of_job hh hj).step hclock.1 hclock.2
  refine ⟨_, hend, hopen.answered_place 0x20 _ (by decide), ?_, ?_, ?_⟩
  · rw [jobOf, map_of_quiet (quiet_place _ _ _ _)]
    exact NMap.get_erase_self _ _
  · exact (congrArg MapSt.data (map_of_quiet (quiet_place _ _ _ _))).trans (congrArg MapSt.data hmap :)
  · exact (congrArg MapSt.version (map_of_quiet (quiet_place _ _ _ _))).trans (congrArg MapSt.version hmap :)

end OptimiseDone

/-- Settles O13. -/
theorem mapCommandsEnd : Obligations.MapCommandsEnd := by
  unfold Obligations.MapCommandsEnd
  intro s h hh
  refine ⟨fun addr len v data hrun hj => mapLoadDone_acts hh hrun hj rfl, fun addr len v hj => ?saved,
    fun j x hj hx hhatch => ⟨fun hphase hst => mapOptimiseDone_answers hh hj hx hhatch hphase hst,
      fun hphase hdue hl => mapOptimiseDone_late hh hj hx hhatch hphase hdue hl⟩⟩
  case saved =>
    change Responds _ h 0x00 _ _ (execMapSaveDone h s)
    unfold execMapSaveDone
    rw [hj]
    exact ((open_of_job hh hj).laid.emit rfl _).place 0x00 _ (by decide)

end Sys2Proof.Machine
end

section
/-! The commands of the map as they are taken (R291, R298, R326, R488). -/
namespace Sys2Proof.Machine

/-! ### A hatch's header while other hatches are answered -/

/-- The bytes of a request that its response repeats, how many hatches there are, and the time. -/
def headView (h : Nat) (s : State) : List Byte × Nat × Time := (Mem.bytes s.core.hat.mem (256 * h) 5, s.core.hat.ctl.length, s.core.time)

theorem place_mem (s : State) (g st : Nat) (pl : List Byte) : ∃ len dt b, (s.place g st pl).core.hat.mem =
    Mem.write s.core.hat.mem (256 * g) (responseBytes (Mem.bytes s.core.hat.mem (256 * g) 5) st len dt b) := by
  refine ⟨(responseBody s g st pl).length, dtOf s, responseBody s g st pl, ?_⟩
  rw [State.place, placeWith_eq]
  dsimp only
  obtain ⟨b, e, n, l, ht⟩ := traceRec_eq _ 0x40 g _ _
  rw [ht]
  split
  · rw [msi_eq]
    rfl
  · rfl

theorem headBytes_place (s : State) (h g st : Nat) (pl : List Byte) :
    Mem.bytes (s.place g st pl).core.hat.mem (256 * h) 5 = Mem.bytes s.core.hat.mem (256 * h) 5 := by
  obtain ⟨len, dt, b, hmem⟩ := place_mem s g st pl
  have hl5 : (Mem.bytes s.core.hat.mem (256 * g) 5).length = 5 := Mem.length_bytes _ _ _
  have hlen := responseBytes_length (Mem.bytes s.core.hat.mem (256 * g) 5) st len dt b hl5
  rw [hmem]
  by_cases hg : h = g
  · subst hg
    have hwrite := Mem.bytes_write s.core.hat.mem (256 * h) 0 5 (responseBytes (Mem.bytes s.core.hat.mem (256 * h) 5) st len dt b) (by omega)
    rw [Nat.add_zero] at hwrite
    rw [hwrite]
    simp [responseBytes, hl5]
  · refine List.map_congr_left fun i hi => Mem.read_write_of_outside _ _ _ _ ?_
    have := List.mem_range.1 hi
    omega

theorem headView_place (s : State) (h g st : Nat) (pl : List Byte) : headView h (s.place g st pl) = headView h s := by
  simp only [headView, Prod.mk.injEq]
  exact ⟨headBytes_place s h g st pl, by rw [place_ctl, length_updAt], time_of_quiet (quiet_place _ _ _ _)⟩

theorem Answered.of_head {s u t : State} {h st : Nat} {pl : List Byte} (hu : headView h u = headView h s) (a : Answered u h st pl t) :
    Answered s h st pl t := by
  simp only [headView, Prod.mk.injEq] at hu
  obtain ⟨hhead, -, htime⟩ := hu
  exact ⟨a.own, a.pending, a.done, by rw [a.header, hhead], a.status, by rw [a.dt, dtOf, htime, dtOf], a.length, a.payload⟩

/-! ### The map goes out of service (R298) -/

theorem answerJob_headView (s : State) (h j : Nat) : headView h (s.answerJob j) = headView h s := by
  unfold State.answerJob
  split
  · split
    · exact headView_place _ _ _ _ _
    · rfl
  · rfl

theorem loseRequests_unseen {α : Type} {F : State → α} (hchans : ∀ s f, F (s.modChans f) = F s) (hsess : ∀ s sid f, F (s.modSess sid f) = F s)
    (s : State) (f : Nat → Bool) : F (s.loseRequests f) = F s :=
  (foldl_unseen (F := F) (f := State.relocFree) (fun s sid => hsess s sid _) _ _).trans (hchans s _)

theorem loseRequests_chans (s : State) : ∀ c ∈ (s.loseRequests (fun _ => true)).core.chans, c.requests = [] := by
  intro c hc
  unfold State.loseRequests at hc
  extract_lets gone u at hc
  rw [foldl_unseen (F := fun s => s.core.chans) (f := State.relocFree) (fun _ _ => rfl) gone u] at hc
  obtain ⟨p, -, rfl⟩ := List.mem_map.1 hc
  rfl

theorem beginLoad_unseen {α : Type} {F : State → α} (hans : ∀ s j, F (s.answerJob j) = F s) (hchans : ∀ s f, F (s.modChans f) = F s)
    (hlink : ∀ s f, F (s.modLink f) = F s) (hmap : ∀ s f, F (s.modMap f) = F s) (hwork : ∀ s f, F (s.modWork f) = F s) (s : State) :
    F s.beginLoad = F s := by
  have hdown (s : State) (b : List Byte) : F (s.sendDown 3 b) = F s := by
    unfold State.sendDown State.sendObject State.modMp
    exact foldl_unseen (fun s p => hlink s _) _ s
  unfold State.beginLoad
  extract_lets jobs far u v w x
  have hu : F u = F s := holds_ite (P := fun t => F t = F s) (foldl_unseen (fun s l => hdown s _) far s) rfl
  have hv : F v = F u := foldl_unseen (fun s j => holds_ite (P := fun t => F t = F s) ((hans _ j).trans (endJob_unseen hchans hlink hmap s j _)) rfl) jobs u
  have hw : F w = F v := (hwork _ _).trans (hmap _ _)
  have hx : F x = F w := loseRequests_unseen hchans (fun s _ _ => hwork s _) w _
  exact (hlink _ _).trans (hx.trans (hw.trans (hv.trans hu)))

theorem beginLoad_headView (s : State) (h : Nat) : headView h s.beginLoad = headView h s :=
  beginLoad_unseen (fun s j => answerJob_headView s h j) (fun _ _ => rfl) (fun _ _ => rfl) (fun _ _ => rfl) (fun _ _ => rfl) s

theorem beginLoad_map (s : State) : s.beginLoad.core.map.inService = false ∧ s.beginLoad.core.map.parcels = [] ∧ s.beginLoad.core.map.search = [] ∧
    ∀ c ∈ s.beginLoad.core.chans, c.requests = [] := by
  unfold State.beginLoad
  extract_lets jobs far u v w x
  have hx : x.core.map = w.core.map := loseRequests_unseen (F := fun s => s.core.map) (fun _ _ => rfl) (fun _ _ _ => rfl) w _
  exact ⟨congrArg MapSt.inService hx, congrArg MapSt.parcels hx, congrArg MapSt.search hx, loseRequests_chans w⟩

/-! ### MAP_LOAD as it is taken (R298) -/

section Load
variable {r : Req} {s : State} {data : List Byte}

theorem mapLoadBody_ok (hk : isKeeper s = true) (hok : (mapHeaderOk (padTo 256 data) (r.u64 8) && mapFits s (padTo 256 data)) = true) :
    mapLoadBody (.ok data) r s = (s.emit (.dmaRead (r.u64 0) 256)).beginLoad.accept r.h (.mapLoad (r.u64 0) (r.u64 8) (r.u32 16)) := by
  unfold mapLoadBody
  rw [guarded_true hk]
  exact if_pos hok

theorem mapLoadBody_bad (hk : isKeeper s = true) (hbad : (mapHeaderOk (padTo 256 data) (r.u64 8) && mapFits s (padTo 256 data)) = false) :
    mapLoadBody (.ok data) r s = (s.emit (.dmaRead (r.u64 0) 256)).place r.h 0x11 := by
  unfold mapLoadBody
  rw [guarded_true hk]
  exact if_neg (Bool.eq_false_iff.1 hbad)

theorem mapLoadBody_elsewhere (hk : isKeeper s = false) : mapLoadBody (.ok data) r s = s.place r.h 0x15 := by
  unfold mapLoadBody
  rw [hk, guarded_cons_of_fail rfl]

end Load

theorem mapFits_taken (s : State) (h : Nat) (b : List Byte) : mapFits (taken s h) b = mapFits s b :=
  taken_unseen (mapFits · b) (fun _ _ _ _ _ _ => rfl) s h

theorem mapLoad_acts {s : State} {h : Nat} {p data : List Byte} (ht : takes s h 0x0401 p = true) (hk : isKeeper s = true)
    (hhead : mapHeaderOk (padTo 256 data) (fieldAt p 8 8) = true) (hfits : mapFits s (padTo 256 data) = true) :
    ∃ t, exec (.mapLoad h data) s = .next t ∧ Answered s h 0x01 [] t ∧
      jobAt t h = some (.mapLoad (fieldAt p 0 8) (fieldAt p 8 8) (fieldAt p 16 4)) ∧ t.core.map.inService = false ∧
      t.core.map.parcels = [] ∧ t.core.map.search = [] ∧ ∀ c ∈ t.core.chans, c.requests = [] := by
  have hok : (mapHeaderOk (padTo 256 data) (fieldAt p 8 8) && mapFits (taken s h) (padTo 256 data)) = true := by
    rw [hhead, mapFits_taken, hfits]
    rfl
  have hbody : mapLoadBody (.ok data) (requestIn s h p) (taken s h) = ((taken s h).emit (.dmaRead (fieldAt p 0 8) 256)).beginLoad.accept h
      (.mapLoad (fieldAt p 0 8) (fieldAt p 8 8) (fieldAt p 16 4)) :=
    mapLoadBody_ok (r := requestIn s h p) ((isKeeper_taken s h).trans hk) hok
  have hview : headView h ((taken s h).emit (.dmaRead (fieldAt p 0 8) 256)).beginLoad = headView h (taken s h) := beginLoad_headView _ h
  obtain ⟨hserv, hparcels, hsearch, hreq⟩ := beginLoad_map ((taken s h).emit (.dmaRead (fieldAt p 0 8) 256))
  have hopen := open_taken ht
  generalize ((taken s h).emit (.dmaRead (fieldAt p 0 8) 256)).beginLoad = v at hview hserv hparcels hsearch hreq hbody
  have hself : Open v h v := by
    have hlen : v.core.hat.ctl.length = (taken s h).core.hat.ctl.length := congrArg (fun x => x.2.1) hview
    exact ⟨rfl, rfl, hlen ▸ hopen.lt, hopen.lt64⟩
  obtain ⟨hans, hjob, -⟩ := hself.answered_accept (.mapLoad (fieldAt p 0 8) (fieldAt p 8 8) (fieldAt p 16 4))
  have hquiet := quiet_accept v h (.mapLoad (fieldAt p 0 8) (fieldAt p 8 8) (fieldAt p 16 4))
  have hmap := map_of_quiet hquiet
  exact ⟨_, next_of_takes ht hbody, (hans.of_head hview).of_open hopen, hjob, (congrArg MapSt.inService hmap).trans hserv,
    (congrArg MapSt.parcels hmap).trans hparcels, (congrArg MapSt.search hmap).trans hsearch, chans_of_quiet hquiet ▸ hreq⟩

/-! ### MAP_ORIGIN_SET (R291, R488) -/

section Origin
variable {r : Req} {s : State}

theorem mapOriginSetBody_keeper (hsess : s.core.work.sess = []) (hk : isKeeper s = true) : mapOriginSetBody r s =
    if originStatus s (intAt r.payload 0 8) (intAt r.payload 8 8) = 0 then
      (s.setOrigin (intAt r.payload 0 8) (intAt r.payload 8 8) (intAt r.payload 16 4)).place r.h 0x00
    else s.place r.h (originStatus s (intAt r.payload 0 8) (intAt r.payload 8 8)) := by
  unfold mapOriginSetBody
  dsimp only
  rw [guarded_true (by rw [hsess]; rfl), if_pos hk]
  by_cases hst : originStatus s (intAt r.payload 0 8) (intAt r.payload 8 8) = 0
  · rw [if_pos hst, if_pos (by simp [hst]), hst]
  · rw [if_neg hst, if_neg (by simp [hst])]

theorem mapOriginSetBody_elsewhere (hsess : s.core.work.sess = []) (hk : isKeeper s = false) : mapOriginSetBody r s =
    (s.modCtl r.h (fun c => { c with job := some (.mapOrigin (r.payload.take 20)) })).sendUp 3
      (ctlObject .originRequest [s.core.sys.devid, r.h] [] (r.payload.take 20)) := by
  unfold mapOriginSetBody
  dsimp only
  rw [guarded_true (by rw [hsess]; rfl), if_neg (by simp [hk])]

theorem mapOriginSetBody_open (hsess : s.core.work.sess ≠ []) : mapOriginSetBody r s = s.place r.h 0x13 := by
  unfold mapOriginSetBody
  dsimp only
  rw [guarded_cons_of_fail (by simp [hsess])]

end Origin

theorem originStatus_good {s : State} {lat lon : Int} (hok : originOk lat lon = true) (hempty : liveKfs s.core.map.data = []) :
    originStatus s lat lon = 0 := by
  rw [originStatus, if_pos (by rw [hok, hempty]; rfl)]

theorem originStatus_bad {s : State} {lat lon : Int} (hbad : originOk lat lon = false ∨ liveKfs s.core.map.data ≠ []) :
    originStatus s lat lon = 0x11 := by
  rw [originStatus, if_neg]
  rcases hbad with h | h <;> simp [h]

theorem work_taken (s : State) (h : Nat) : (taken s h).core.work = s.core.work := taken_unseen (fun s => s.core.work) (fun _ _ _ _ _ _ => rfl) s h
theorem map_taken (s : State) (h : Nat) : (taken s h).core.map = s.core.map := taken_unseen (fun s => s.core.map) (fun _ _ _ _ _ _ => rfl) s h

/-- Of what a command keeps, the parts that a statement names by the state it leads to. -/
theorem Kept.named {s t : State} {h : Nat} {m : MapSt} {l : Link} (k : Kept s h { s.core with map := m, link := l } t) :
    t.core.map = m ∧ Kept s h { s.core with map := t.core.map, link := t.core.link } t := by
  have hmap : t.core.map = m := (congrArg Core.map k.core :)
  have hlink : t.core.link = l := (congrArg Core.link k.core :)
  exact ⟨hmap, by rw [hmap, hlink]; exact k⟩

section OriginSet
variable {s : State} {h : Nat} {p : List Byte} (ht : takes s h 0x0404 p = true) (hsess : s.core.work.sess = [])
include ht hsess

theorem mapOriginSet_sets (hk : isKeeper s = true) (hok : originOk (intAt p 0 8) (intAt p 8 8) = true)
    (hempty : liveKfs s.core.map.data = []) :
    ∃ t, exec (.mapOriginSet h) s = .next t ∧ Answered s h 0x00 [] t ∧ t.core.map.data.lat = intAt p 0 8 ∧
      t.core.map.data.lon = intAt p 8 8 ∧ t.core.map.data.height = intAt p 16 4 ∧ t.core.map.version = s.core.map.version ∧
      Kept s h { s.core with map := t.core.map, link := t.core.link } t := by
  have hst : originStatus (taken s h) (intAt p 0 8) (intAt p 8 8) = 0 := originStatus_good hok (by rw [map_taken]; exact hempty)
  have hbody := (mapOriginSetBody_keeper (r := requestIn s h p) ((congrArg Work.sess (work_taken s h)).trans hsess)
    ((isKeeper_taken s h).trans hk)).trans (if_pos hst)
  obtain ⟨t, ht', hans, hkept⟩ := responds_of_takes ht hbody ((((laid_of_takes ht).modMap _).modLink _).place 0x00 [] (by decide))
  obtain ⟨hmap, hnamed⟩ := hkept.named
  exact ⟨t, ht', hans, by rw [hmap]; rfl, by rw [hmap]; rfl, by rw [hmap]; rfl, by rw [hmap]; rfl, hnamed⟩

theorem mapOriginSet_refuses (hk : isKeeper s = true) (hbad : originOk (intAt p 0 8) (intAt p 8 8) = false ∨ liveKfs s.core.map.data ≠ []) :
    Responds s h 0x11 [] s.core (exec (.mapOriginSet h) s) := by
  have hst : originStatus (taken s h) (intAt p 0 8) (intAt p 8 8) = 0x11 := originStatus_bad (by rw [map_taken]; exact hbad)
  have hbody := (mapOriginSetBody_keeper (r := requestIn s h p) ((congrArg Work.sess (work_taken s h)).trans hsess)
    ((isKeeper_taken s h).trans hk)).trans (if_neg (by rw [show originStatus (taken s h) (intAt (requestIn s h p).payload 0 8)
      (intAt (requestIn s h p).payload 8 8) = 0x11 from hst]; decide))
  refine responds_of_takes ht (hbody.trans ?_) ((laid_of_takes ht).place 0x11 [] (by decide))
  exact congrArg ((taken s h).place h · []) hst

theorem mapOriginSet_asks (hk : isKeeper s = false) : ∃ t, exec (.mapOriginSet h) s = .next t ∧ jobAt t h = some (.mapOrigin (p.take 20)) ∧
    (ctlAt t h).own = true ∧ t.core.map = s.core.map := by
  have hbody := mapOriginSetBody_elsewhere (r := requestIn s h p) ((congrArg Work.sess (work_taken s h)).trans hsess) ((isKeeper_taken s h).trans hk)
  have hctl := ctlAt_modCtl_self (taken s h) h (fun k => { k with job := some (.mapOrigin (p.take 20)) }) (open_taken ht).lt
  have hsend := sendUp_unseen (F := fun s => (ctlAt s h, s.core.map)) (fun _ _ => rfl)
    ((taken s h).modCtl h (fun k => { k with job := some (.mapOrigin (p.take 20)) })) 3
    (ctlObject .originRequest [(taken s h).core.sys.devid, h] [] (p.take 20))
  simp only [Prod.mk.injEq] at hsend
  obtain ⟨hat, hmap⟩ := hsend
  refine ⟨_, next_of_takes ht hbody, ?_, ?_, hmap.trans (map_taken s h)⟩
  · exact congrArg HatchCtl.job (hat.trans hctl)
  · exact (congrArg HatchCtl.own (hat.trans hctl)).trans (own_taken ht)

end OriginSet

/-! ### MAP_OPTIMISE (R309, R326) -/

/-- The job formed and asked for its lock: of the map the job table is all that moves. -/
theorem formJob_facts (s : State) (g : Nat) (x : MapJob) : (s.formJob g x).1.core.hat = s.core.hat ∧
    (s.formJob g x).1.core.map = { s.core.map with jobs := NMap.set s.core.map.jobs s.core.map.nextJob x, nextJob := s.core.map.nextJob + 1 } := by
  unfold State.formJob
  extract_lets j u v l w
  have hw : (w.core.hat, w.core.map) = (v.core.hat, v.core.map) := holds_ite (P := fun t : State => (t.core.hat, t.core.map) = (v.core.hat, v.core.map))
    rfl (sendUp_unseen (F := fun s : State => (s.core.hat, s.core.map)) (fun _ _ => rfl) v _ _)
  simp only [Prod.mk.injEq] at hw
  exact ⟨hw.1, hw.2⟩

theorem mapOptimiseBody_ok {r : Req} {s : State} {ch : Nat} (hpick : r.u8 0 = ch ∧ channelCheck s ch = none ∨
      r.u8 0 = 255 ∧ minBy (fun n => ((chanAt s n).queue).length) (mapChans s) = some ch) (h255 : ch ≠ 255) (hch : ch ∈ mapChans s)
    (hg : (mapGraphSlot s).isSome = true) (hjobs : jobsOn s ch 1 < 8) (hserv : s.core.map.inService = true) :
    mapOptimiseBody r s = ((s.accept r.h (.mapOptimise s.core.map.nextJob)).formJob ((mapGraphSlot s).getD 0)
      (optimiseJob s r.h ch (r.u16 2) (r.u64 8))).1 := by
  have hpicked : (if r.u8 0 == 255 then minBy (fun n => ((chanAt s n).queue).length) (mapChans s) else some (r.u8 0)).getD 0 = ch := by
    rcases hpick with ⟨hc, -⟩ | ⟨hc, hmin⟩
    · simp [hc, h255]
    · simp [hc, hmin]
  have hcheck : (if r.u8 0 == 255 then none else channelCheck s (r.u8 0)) = none := by
    rcases hpick with ⟨hc, hcheck⟩ | ⟨hc, -⟩
    · simp [hc, hcheck]
    · simp [hc]
  unfold mapOptimiseBody
  dsimp only
  rw [hpicked, guarded_pass (by simpa [hch, hg, hjobs] using hcheck)]
  refine if_pos ?_
  rw [(formJob_facts _ _ _).2, map_of_quiet (quiet_accept s r.h _)]
  exact hserv

theorem mapOptimise_acts {s : State} {h ch : Nat} {p : List Byte} (ht : takes s h 0x0405 p = true) (hpick : fieldAt p 0 1 = ch ∧ channelCheck s ch = none ∨
      fieldAt p 0 1 = 255 ∧ minBy (fun n => ((chanAt s n).queue).length) (mapChans s) = some ch) (h255 : ch ≠ 255) (hch : ch ∈ mapChans s)
    (hg : (mapGraphSlot s).isSome = true) (hjobs : jobsOn s ch 1 < 8) (hserv : s.core.map.inService = true) :
    ∃ t x, exec (.mapOptimise h) s = .next t ∧ Answered s h 0x01 [] t ∧ jobAt t h = some (.mapOptimise s.core.map.nextJob) ∧
      jobOf t s.core.map.nextJob = some x ∧ x.kind = 1 ∧ x.chan = ch ∧ x.phase = 0 ∧ x.cap = fieldAt p 2 2 ∧
      x.deadline = fieldAt p 8 8 ∧ x.hatch = some h ∧ t.core.map.nextJob = s.core.map.nextJob + 1 := by
  have hmap := map_taken s h
  have hcheck : channelCheck (taken s h) ch = channelCheck s ch := taken_unseen (channelCheck · ch) (fun _ _ _ _ _ _ => rfl) s h
  have hmin : minBy (fun n => ((chanAt (taken s h) n).queue).length) (mapChans (taken s h)) =
      minBy (fun n => ((chanAt s n).queue).length) (mapChans s) :=
    taken_unseen (fun s => minBy (fun n => ((chanAt s n).queue).length) (mapChans s)) (fun _ _ _ _ _ _ => rfl) s h
  have hchans : mapChans (taken s h) = mapChans s := taken_unseen mapChans (fun _ _ _ _ _ _ => rfl) s h
  have hslot : mapGraphSlot (taken s h) = mapGraphSlot s := taken_unseen mapGraphSlot (fun _ _ _ _ _ _ => rfl) s h
  have hon : jobsOn (taken s h) ch 1 = jobsOn s ch 1 := taken_unseen (jobsOn · ch 1) (fun _ _ _ _ _ _ => rfl) s h
  have hbody := mapOptimiseBody_ok (r := requestIn s h p) (s := taken s h) (ch := ch) (by rw [hcheck, hmin]; exact hpick) h255 (hchans ▸ hch)
    (hslot ▸ hg) (hon ▸ hjobs) (by rw [hmap]; exact hserv)
  obtain ⟨hans, hjob, hkept⟩ := (open_taken ht).answered_accept (.mapOptimise (taken s h).core.map.nextJob)
  have hacc : ((taken s h).accept h (.mapOptimise (taken s h).core.map.nextJob)).core.map = s.core.map :=
    (congrArg Core.map hkept.core).trans hmap
  obtain ⟨hhat, hform⟩ := formJob_facts ((taken s h).accept h (.mapOptimise (taken s h).core.map.nextJob)) ((mapGraphSlot (taken s h)).getD 0)
    (optimiseJob (taken s h) h ch (fieldAt p 2 2) (fieldAt p 8 8))
  rw [hacc] at hform
  refine ⟨_, optimiseJob (taken s h) h ch (fieldAt p 2 2) (fieldAt p 8 8), next_of_takes ht hbody, hans.of_hat hhat, ?_, ?_, rfl, rfl, rfl, rfl, rfl, rfl,
    (congrArg MapSt.nextJob hform :)⟩
  · rw [← hmap]
    exact (congrArg (fun a : Hatches => (a.ctl.getD h {}).job) hhat).trans hjob
  · exact (congrArg (fun m : MapSt => NMap.get? m.jobs s.core.map.nextJob) hform).trans (NMap.get_set _ _ _)

/-- Settles O12. -/
theorem mapCommandsTakeEffect : Obligations.MapCommandsTakeEffect := by
  unfold Obligations.MapCommandsTakeEffect
  intro s h p
  refine ⟨fun data ht hk => ⟨fun hhead hfits => mapLoad_acts ht hk hhead hfits, fun hbad => ?bad⟩, fun data ht hk => ?elsewhere,
    fun ht hlen => ?save, fun ht hsess hk => ⟨fun hok hempty => mapOriginSet_sets ht hsess hk hok hempty,
      fun hbad => mapOriginSet_refuses ht hsess hk hbad⟩, fun ht hsess hk => mapOriginSet_asks ht hsess hk, fun ht hsess => ?busy,
    fun ch ht hpick h255 hch hg hjobs hserv => mapOptimise_acts ht hpick h255 hch hg hjobs hserv⟩
  case bad =>
    have hbad' : (mapHeaderOk (padTo 256 data) (fieldAt p 8 8) && mapFits (taken s h) (padTo 256 data)) = false := by rw [mapFits_taken]; exact hbad
    exact responds_of_takes ht (mapLoadBody_bad (r := requestIn s h p) ((isKeeper_taken s h).trans hk) hbad')
      (((laid_of_takes ht).emit (taken_out s h) _).place 0x11 [] (by decide))
  case elsewhere =>
    exact responds_of_takes ht (mapLoadBody_elsewhere (r := requestIn s h p) ((isKeeper_taken s h).trans hk)) ((laid_of_takes ht).place 0x15 [] (by decide))
  case save =>
    have hlen' : imageLen (taken s h).core.map.data ≤ fieldAt p 8 8 := by rw [map_taken]; exact hlen
    have hbody : mapSaveBody (requestIn s h p) (taken s h) = (taken s h).accept h (.mapSave (fieldAt p 0 8) (fieldAt p 8 8) s.core.map.pin) :=
      (guarded_of hlen' _).trans (congrArg (fun m : MapSt => (taken s h).accept h (.mapSave (fieldAt p 0 8) (fieldAt p 8 8) m.pin)) (map_taken s h))
    exact accepts_of_takes ht hbody ((laid_of_takes ht).accept _)
  case busy =>
    exact responds_of_takes ht (mapOriginSetBody_open (r := requestIn s h p) (by rw [work_taken]; exact hsess)) ((laid_of_takes ht).place 0x13 [] (by decide))

end Sys2Proof.Machine
end

section
/-! PTP (R363, R366 to R371): what a port sends, what a received message does, and the three timers. -/
namespace Sys2Proof.Machine

/-! ### Lengths of frames -/

theorem length_beBytes (n v : Nat) : (beBytes n v).length = n := by
  rw [beBytes, List.length_reverse, leBytes_length]

theorem length_bytesAt (b : List Byte) (off n : Nat) : (bytesAt b off n).length = n := by
  simp only [bytesAt, List.length_append, List.length_replicate, List.length_take]
  omega

theorem length_stampField (t : Nat) : (stampField t).length = 10 := by simp [stampField, length_beBytes]

theorem length_ptpDest (x : PtpPort) : (ptpDest x).length = 6 := by
  unfold ptpDest
  split
  · exact length_bytesAt _ _ _
  · exact length_beBytes _ _

theorem length_sourceMac (p : Nat) : (sourceMac p).length = 6 := padTo_length 6 _

theorem length_ptpFrame (p : Nat) (x : PtpPort) (type flags seq logInt : Nat) (corr : Int) (body : List Byte) :
    (ptpFrame p x type flags seq logInt corr body).length = 48 + body.length := by
  simp only [ptpFrame, List.length_append, length_beBytes, length_ptpDest, length_sourceMac, List.length_cons, List.length_nil]

theorem length_announceBody (s : State) : (announceBody s).length = 30 := by
  unfold announceBody
  cases (ptpPortAt s s.core.time.srcPort).announce <;>
    simp [length_stampField, length_beBytes, length_bytesAt]

theorem ptpType_ptpFrame (p : Nat) (x : PtpPort) (type flags seq logInt : Nat) (corr : Int) (body : List Byte) (h : type < 16) :
    ptpType (ptpFrame p x type flags seq logInt corr body) = type := by
  have hhead : (ptpDest x ++ sourceMac p ++ beBytes 2 0x88F7).length = 14 := by
    simp [length_ptpDest, length_sourceMac, length_beBytes]
  have hbody : ∃ r, ptpBody (ptpFrame p x type flags seq logInt corr body) = beBytes 1 type ++ r := by
    unfold ptpFrame ptpBody
    simp only [List.append_assoc]
    rw [← List.append_assoc, ← List.append_assoc, List.append_assoc (ptpDest x), ← List.append_assoc (ptpDest x), ← hhead, List.drop_left]
    exact ⟨_, rfl⟩
  obtain ⟨r, hr⟩ := hbody
  rw [ptpType, hr, beAt, bytesAt_append_front _ (length_beBytes 1 type), beBytes, List.reverse_reverse, leNat_leBytes]
  omega

/-! ### Changes of a port and of CLOCK_Q -/

theorem ptpPortAt_of_air {s t : State} (h : t.core.air = s.core.air) (p : Nat) : ptpPortAt t p = ptpPortAt s p := by
  rw [ptpPortAt, h, ptpPortAt]

/-- What looks at neither CLOCK_Q nor the time in holdover does not see a change of CLOCK_Q. -/
theorem setClockQ_unseen {α : Type} {F : Time → α} (hF : ∀ (t : Time) q d b, F { t with clockQ := q, holdSince := d, hold165 := b } = F t)
    (s : State) (q : ClockQ) : F (s.setClockQ q).core.time = F s.core.time := by
  unfold State.setClockQ
  extract_lets old u v
  refine holds_ite (P := fun t : State => F t.core.time = F s.core.time) rfl ?_
  have hv : v.core.time = u.core.time :=
    holds_ite (P := fun t : State => t.core.time = u.core.time) (time_of_quiet (quiet_err1 u ..)) rfl
  rw [time_of_quiet (quiet_event v _ _), hv]
  exact hF _ _ _ _

/-- What of a port is neither its state nor when it last heard stands through a change of any port's state. -/
theorem setPtpState_keeps {α : Type} {g : PtpPort → α} (hg : ∀ (x : PtpPort) st d, g { x with state := st, heard := d } = g x)
    (s : State) (p q : Nat) (st : PtpState) : g (ptpPortAt (s.setPtpState p st) q) = g (ptpPortAt s q) := by
  unfold State.setPtpState
  extract_lets old u
  have hu : g (ptpPortAt u q) = g (ptpPortAt s q) := by
    by_cases hq : q = p
    · subst hq
      by_cases hlt : q < s.core.air.ports.length
      · rw [ptpPortAt_modPtp_self hlt]
        exact hg _ _ _
      · rw [ptpPortAt, List.getD_eq_default _ _ (by rw [length_modPtp]; omega), ptpPortAt, List.getD_eq_default _ _ (by omega)]
    · rw [ptpPortAt_modPtp_other s _ hq]
  exact holds_ite (P := fun t : State => g (ptpPortAt t q) = g (ptpPortAt s q))
    ((congrArg g (ptpPortAt_of_air (setClockQ_air u _) q)).trans hu) hu

/-- What any change of a port's state keeps, the decision of the ports' states keeps. -/
theorem decidePorts_keeps {P : State → Prop} (hP : ∀ s p st, P s → P (s.setPtpState p st)) {s : State} (h : P s) : P s.decidePorts := by
  unfold State.decidePorts
  extract_lets heard
  clear_value heard
  cases heard with
  | nil => exact h
  | cons a l =>
    dsimp -zeta only
    extract_lets best
    refine List.foldlRecOn _ _ h fun u hu p _ => ?_
    dsimp only
    refine holds_ite hu (holds_ite ?_ ?_)
    · split
      · exact hu
      · exact hu
      · exact hP _ _ _ hu
    · split
      · exact hP _ _ _ hu
      · exact holds_ite (hP _ _ _ hu) hu

/-! ### Sending (R363, R369, R384) -/

theorem sendEth_up {s : State} {p : Nat} (h : s.hw.epUp.getD p false = true) (f : List Byte) :
    s.sendEth p f = s.emit (.ethFrame p (leaveQ s p f.length) f) := if_pos h

theorem sendEth_core (s : State) (p : Nat) (f : List Byte) : (s.sendEth p f).core = s.core :=
  holds_ite (P := fun t : State => t.core = s.core) rfl rfl

theorem ptpPortAt_sendEth (s : State) (p q : Nat) (f : List Byte) : ptpPortAt (s.sendEth p f) q = ptpPortAt s q :=
  ptpPortAt_of_air (congrArg Core.air (sendEth_core s p f)) q

theorem sendEth_modPtp_out {s : State} {p n : Nat} (h : s.hw.epUp.getD p false = true) (g : PtpPort → PtpPort) {f : List Byte}
    (hn : f.length = n) : ((s.modPtp p g).sendEth p f).out = s.out ++ [.ethFrame p (leaveQ s p n) f] := by
  subst hn
  rw [sendEth_up (s := s.modPtp p g) h]
  rfl

theorem leave16_modPtp (s : State) (p q n : Nat) (g : PtpPort → PtpPort) : leave16 (s.modPtp p g) q n = leave16 s q n := rfl

theorem pushStamp_room {s : State} {p : Nat} (h : (ptpPortAt s p).egress.length < 64) (kind seq t : Nat) :
    s.pushStamp p kind seq t = s.modPtp p (fun x => { x with egress := x.egress ++ [(kind, seq, t)] }) := if_pos h

theorem length_ports_sendEth (s : State) (p : Nat) (f : List Byte) : (s.sendEth p f).core.air.ports.length = s.core.air.ports.length := by
  rw [sendEth_core]

section Sends
variable {s : State} {p : Nat} (hrun : running s = true) (hp : p < 2) (hlen : s.core.air.ports.length = 2) (hup : s.hw.epUp.getD p false = true)
include hrun hp hlen hup

theorem ptpSync_oneStep (hstate : (ptpPortAt s p).state = .master) (hmode : (ptpPortAt s p).stepMode ≠ 2) :
    ∃ t, exec (.ptpMessageSend p .sync) s = .next t ∧
      ptpPortAt t p = { ptpPortAt s p with seq := ((ptpPortAt s p).seq + 1) % 65536 } ∧
      t.out = s.out ++ [.ethFrame p (leaveQ s p 58)
        (ptpFrame p (ptpPortAt s p) 0 0 (ptpPortAt s p).seq 0xFC (leave16 s p 58 % 65536) (stampField (leave16 s p 58)))] := by
  have htwo : ((ptpPortAt s p).stepMode == 2) = false := by simpa using hmode
  refine ⟨(s.modPtp p (fun y => { y with seq := (y.seq + 1) % 65536 })).sendEth p
    (ptpFrame p (ptpPortAt s p) 0 0 (ptpPortAt s p).seq 0xFC (leave16 s p 58 % 65536) (stampField (leave16 s p 58))), ?_, ?_, ?_⟩
  · change execPtpMessageSend p .sync s = _
    simp [-List.getD_eq_getElem?_getD, execPtpMessageSend, leave16_modPtp, hrun, hp, hup, hstate, htwo]
  · rw [ptpPortAt_sendEth, ptpPortAt_modPtp_self (by omega)]
  · exact sendEth_modPtp_out hup _ (by rw [length_ptpFrame, length_stampField])

theorem ptpSync_twoStep (hstate : (ptpPortAt s p).state = .master) (hmode : (ptpPortAt s p).stepMode = 2)
    (hroom : (ptpPortAt s p).egress.length < 64) :
    ∃ t, exec (.ptpMessageSend p .sync) s = .next t ∧
      ptpPortAt t p = { ptpPortAt s p with
        seq := ((ptpPortAt s p).seq + 1) % 65536, egress := (ptpPortAt s p).egress ++ [(0, (ptpPortAt s p).seq, leave16 s p 58)] } ∧
      t.out = s.out ++ [.ethFrame p (leaveQ s p 58) (ptpFrame p (ptpPortAt s p) 0 0x0200 (ptpPortAt s p).seq 0xFC 0 (stampField 0))] := by
  have hport := ptpPortAt_modPtp_self (s := s) (p := p) (by omega) (fun y => { y with seq := (y.seq + 1) % 65536 })
  generalize hu : (s.modPtp p (fun y => { y with seq := (y.seq + 1) % 65536 })).sendEth p
    (ptpFrame p (ptpPortAt s p) 0 0x0200 (ptpPortAt s p).seq 0xFC 0 (stampField 0)) = u
  have hself : ptpPortAt u p = { ptpPortAt s p with seq := ((ptpPortAt s p).seq + 1) % 65536 } := by
    rw [← hu, ptpPortAt_sendEth, hport]
  refine ⟨u.modPtp p (fun x => { x with egress := x.egress ++ [(0, (ptpPortAt s p).seq, leave16 s p 58)] }), ?_, ?_, ?_⟩
  · have hexec : exec (.ptpMessageSend p .sync) s = .next (u.pushStamp p 0 (ptpPortAt s p).seq (leave16 s p 58)) := by
      change execPtpMessageSend p .sync s = _
      simp [-List.getD_eq_getElem?_getD, execPtpMessageSend, leave16_modPtp, hrun, hp, hup, hstate, hmode, ← hu]
    rw [hexec, pushStamp_room (by rw [hself]; exact hroom)]
  · rw [ptpPortAt_modPtp_self (by rw [← hu, length_ports_sendEth, length_modPtp]; omega), hself]
  · change u.out = _
    rw [← hu]
    exact sendEth_modPtp_out hup _ (by rw [length_ptpFrame, length_stampField])

theorem ptpFollowUp_acts {q d : Nat} (hstate : (ptpPortAt s p).state = .master) (hmode : (ptpPortAt s p).stepMode = 2)
    (hfind : (ptpPortAt s p).egress.find? (fun e => e.1 == 0) = some (0, q, d)) :
    ∃ t, exec (.ptpMessageSend p .followUp) s = .next t ∧
      ptpPortAt t p = { ptpPortAt s p with egress := (ptpPortAt s p).egress.erase (0, q, d) } ∧ t.core.time = s.core.time := by
  refine ⟨(s.modPtp p (fun y => { y with egress := y.egress.erase (0, q, d) })).sendEth p
    (ptpFrame p (ptpPortAt s p) 8 0 q 0xFC (d % 65536) (stampField d)), ?_, ?_, ?_⟩
  · change execPtpMessageSend p .followUp s = _
    simp [-List.getD_eq_getElem?_getD, execPtpMessageSend, hrun, hp, hup, hstate, hmode, hfind]
  · rw [ptpPortAt_sendEth, ptpPortAt_modPtp_self (by omega)]
  · rw [sendEth_core]
    rfl

theorem ptpDelayReq_acts (hstate : (ptpPortAt s p).state = .uncalibrated ∨ (ptpPortAt s p).state = .slave)
    (hroom : (ptpPortAt s p).egress.length < 64) :
    ∃ t, exec (.ptpMessageSend p .delayReq) s = .next t ∧
      ptpPortAt t p = { ptpPortAt s p with
        seq := ((ptpPortAt s p).seq + 1) % 65536, delayReq := some ((ptpPortAt s p).seq, leave16 s p 58), lost := false,
        egress := (ptpPortAt s p).egress ++ [(1, (ptpPortAt s p).seq, leave16 s p 58)] } := by
  have hport := ptpPortAt_modPtp_self (s := s) (p := p) (by omega)
    (fun y => { y with seq := (y.seq + 1) % 65536, delayReq := some ((ptpPortAt s p).seq, leave16 s p 58), lost := false })
  generalize hu : (s.modPtp p (fun y =>
    { y with seq := (y.seq + 1) % 65536, delayReq := some ((ptpPortAt s p).seq, leave16 s p 58), lost := false })).sendEth p
    (ptpFrame p (ptpPortAt s p) 1 0 (ptpPortAt s p).seq 0x7F 0 (stampField 0)) = u
  have hself : ptpPortAt u p = { ptpPortAt s p with
      seq := ((ptpPortAt s p).seq + 1) % 65536, delayReq := some ((ptpPortAt s p).seq, leave16 s p 58), lost := false } := by
    rw [← hu, ptpPortAt_sendEth, hport]
  refine ⟨u.modPtp p (fun x => { x with egress := x.egress ++ [(1, (ptpPortAt s p).seq, leave16 s p 58)] }), ?_, ?_⟩
  · have hexec : exec (.ptpMessageSend p .delayReq) s = .next (u.pushStamp p 1 (ptpPortAt s p).seq (leave16 s p 58)) := by
      change execPtpMessageSend p .delayReq s = _
      simp [-List.getD_eq_getElem?_getD, execPtpMessageSend, hrun, hp, hup, hstate, ← hu]
    rw [hexec, pushStamp_room (by rw [hself]; exact hroom)]
  · rw [ptpPortAt_modPtp_self (by rw [← hu, length_ports_sendEth, length_modPtp]; omega), hself]

theorem ptpAnnounce_acts (hstate : (ptpPortAt s p).state = .master) :
    ∃ t, exec (.ptpMessageSend p .announce) s = .next t ∧
      ptpPortAt t p = { ptpPortAt s p with seq := ((ptpPortAt s p).seq + 1) % 65536 } ∧
      t.out = s.out ++ [.ethFrame p (leaveQ s p 78) (ptpFrame p (ptpPortAt s p) 11 8 (ptpPortAt s p).seq 0xFD 0 (announceBody s))] := by
  refine ⟨(s.modPtp p (fun y => { y with seq := (y.seq + 1) % 65536 })).sendEth p
    (ptpFrame p (ptpPortAt s p) 11 8 (ptpPortAt s p).seq 0xFD 0 (announceBody s)), ?_, ?_, ?_⟩
  · change execPtpMessageSend p .announce s = _
    simp [-List.getD_eq_getElem?_getD, execPtpMessageSend, hrun, hp, hup, hstate]
  · rw [ptpPortAt_sendEth, ptpPortAt_modPtp_self (by omega)]
  · exact sendEth_modPtp_out hup _ (by rw [length_ptpFrame, length_announceBody])

end Sends

/-! ### Receiving (R363, R366, R367) -/

/-- What of time a measurement publishes (R367). -/
def measured (t : Time) : BitVec 32 × BitVec 64 × BitVec 64 × Nat := (t.measSeq, t.measPath, t.measOffset, t.srcPort)

theorem judgeClock_air (s : State) (off : Int) (up : Bool) : (s.judgeClock off up).core.air = s.core.air := by
  unfold State.judgeClock
  extract_lets near far u t
  have hset (q : ClockQ) : (u.setClockQ q).core.air = s.core.air := setClockQ_air u q
  exact holds_ite (P := fun t : State => t.core.air = s.core.air) (holds_ite (P := fun t : State => t.core.air = s.core.air) (hset _) rfl)
    (holds_ite (P := fun t : State => t.core.air = s.core.air) (hset _) rfl)

theorem judgeClock_measured (s : State) (off : Int) (up : Bool) : measured (s.judgeClock off up).core.time = measured s.core.time := by
  unfold State.judgeClock
  extract_lets near far u t
  have hset (q : ClockQ) : measured (u.setClockQ q).core.time = measured s.core.time :=
    setClockQ_unseen (F := measured) (fun _ _ _ _ => rfl) u q
  exact holds_ite (P := fun t : State => measured t.core.time = measured s.core.time)
    (holds_ite (P := fun t : State => measured t.core.time = measured s.core.time) (hset _) rfl)
    (holds_ite (P := fun t : State => measured t.core.time = measured s.core.time) (hset _) rfl)

/-- A measurement: the port is in SLAVE, and the path delay and the offset are published. -/
theorem measure_acts {s : State} {p : Nat} (hlen : p < s.core.air.ports.length) (t1 t2 cs : Int) {t3 t4 cd : Int}
    (hdelay : (ptpPortAt s p).delay = some (t3, t4, cd)) (hstate : (ptpPortAt s p).state = .uncalibrated ∨ (ptpPortAt s p).state = .slave) :
    (ptpPortAt (s.measure p t1 t2 cs) p).state = .slave ∧
      measured (s.measure p t1 t2 cs).core.time =
        (s.core.time.measSeq + 1, BitVec.ofInt 64 (toSigned 64 (((t2 - t1 - cs) + (t4 - t3 - cd) : Int) / (2 : Rat))).1,
          BitVec.ofInt 64 (toSigned 64 (((t2 - t1 - cs - (ptpPortAt s p).asym : Int) : Rat) -
            ((t2 - t1 - cs) + (t4 - t3 - cd) : Int) / (2 : Rat))).1, p) := by
  have hfollows : ((ptpPortAt s p).state != .uncalibrated && (ptpPortAt s p).state != .slave) = false := by
    rcases hstate with h | h <;> rw [h] <;> rfl
  unfold State.measure
  extract_lets x u
  rw [show x.delay = some (t3, t4, cd) from hdelay]
  dsimp -zeta only
  rw [if_neg (by rw [show (x.state != .uncalibrated && x.state != .slave) = false from hfollows]; exact Bool.false_ne_true)]
  extract_lets path off v
  have hseq : u.core.time.measSeq = s.core.time.measSeq := by
    unfold u State.setPtpState
    extract_lets old w
    exact holds_ite (P := fun t : State => t.core.time.measSeq = s.core.time.measSeq)
      (setClockQ_unseen (F := (·.measSeq)) (fun _ _ _ _ => rfl) w _) rfl
  constructor
  · rw [ptpPortAt_of_air (judgeClock_air v off true)]
    exact (setPtpState_ports hlen .slave).1
  · rw [judgeClock_measured, ← hseq]
    rfl

/-- An Announce a port holds, and what it has of delays, stand through the decision of the states. -/
theorem decidePorts_port {α : Type} {g : PtpPort → α} (hg : ∀ (x : PtpPort) st d, g { x with state := st, heard := d } = g x)
    (s : State) (q : Nat) : g (ptpPortAt s.decidePorts q) = g (ptpPortAt s q) :=
  decidePorts_keeps (P := fun t => g (ptpPortAt t q) = g (ptpPortAt s q)) (fun t p st h => (setPtpState_keeps hg t p q st).trans h) rfl

theorem follows_iff {x : PtpPort} (h : x.state = .uncalibrated ∨ x.state = .slave) :
    (¬x.state = .uncalibrated ∧ ¬x.state = .slave) ↔ False := by tauto

section Receives
variable {s : State} {p : Nat} (hrun : running s = true) (hp : p < 2) (hlen : s.core.air.ports.length = 2) (hup : s.hw.epUp.getD p false = true)
  (hrole : (ptpPortAt s p).role ≠ 0) (f : List Byte) (d : Nat)
include hrun hp hup hrole

theorem ptpFrameRx_bad (hgood : ptpGood s p f = false) : exec (.ptpFrameRx p f d) s = .next (s.bump (timeCtr p 0) 1) := by
  change execPtpFrameRx p f d s = _
  simp [-List.getD_eq_getElem?_getD, execPtpFrameRx, hrun, hp, hup, hrole, hgood]

theorem ptpFrameRx_delayReq (hgood : ptpGood s p f = true) (htype : ptpType f = 1) (hstate : (ptpPortAt s p).state = .master) :
    ∃ t m, exec (.ptpFrameRx p f d) s = .next t ∧ t.out = s.out ++ [.ethFrame p (leaveQ s p 68) m] ∧ ptpType m = 9 ∧ t.core = s.core := by
  generalize hm : ptpFrame p (ptpPortAt s p) 9 0 (ptpSeq f) 0xFC (ptpCorr f - d % 65536)
    (stampField d ++ bytesAt (ptpBody f) 20 10) = m
  have hlenm : m.length = 68 := by
    rw [← hm, length_ptpFrame, List.length_append, length_stampField, length_bytesAt]
  refine ⟨s.sendEth p m, m, ?_, ?_, ?_, sendEth_core s p m⟩
  · change execPtpFrameRx p f d s = _
    simp [-List.getD_eq_getElem?_getD, execPtpFrameRx, hrun, hp, hup, hrole, hgood, htype, hstate, hm]
  · rw [sendEth_up hup, hlenm]
    rfl
  · rw [← hm]
    exact ptpType_ptpFrame _ _ _ _ _ _ _ _ (by decide)

include hlen

theorem ptpFrameRx_announce (hgood : ptpGood s p f = true) (htype : ptpType f = 11) :
    ∃ t, exec (.ptpFrameRx p f d) s = .next t ∧ (ptpPortAt t p).announce = some (dtOf s, f) := by
  refine ⟨(s.modPtp p (fun y => { y with announce := some (dtOf s, f), heard := dtOf s })).decidePorts, ?_, ?_⟩
  · change execPtpFrameRx p f d s = _
    simp [-List.getD_eq_getElem?_getD, execPtpFrameRx, hrun, hp, hup, hrole, hgood, htype]
  · rw [decidePorts_port (g := (·.announce)) (fun _ _ _ => rfl), ptpPortAt_modPtp_self (by omega)]

section Follows
variable (hstate : (ptpPortAt s p).state = .uncalibrated ∨ (ptpPortAt s p).state = .slave)
include hstate

theorem ptpFrameRx_twoStep (hgood : ptpGood s p f = true) (htype : ptpType f = 0) (htwo : ptpTwoStep f = true) :
    ∃ t, exec (.ptpFrameRx p f d) s = .next t ∧
      ptpPortAt t p = { ptpPortAt s p with sync := some (ptpSeq f, 0, d, ptpCorr f, false) } := by
  refine ⟨s.modPtp p (fun y => { y with sync := some (ptpSeq f, 0, d, ptpCorr f, false) }), ?_, ptpPortAt_modPtp_self (by omega) _⟩
  change execPtpFrameRx p f d s = _
  simp [-List.getD_eq_getElem?_getD, execPtpFrameRx, hrun, Nat.not_le.2 hp, hup, hrole, hgood, htype, follows_iff hstate, htwo]

theorem ptpFrameRx_oneStep (hgood : ptpGood s p f = true) (htype : ptpType f = 0) (htwo : ptpTwoStep f = false)
    {t3 t4 cd : Int} (hdelay : (ptpPortAt s p).delay = some (t3, t4, cd)) :
    ∃ t, exec (.ptpFrameRx p f d) s = .next t ∧ (ptpPortAt t p).state = .slave ∧
      measured t.core.time = (s.core.time.measSeq + 1,
        BitVec.ofInt 64 (toSigned 64 ((((d : Int) - ptpStamp f 34 - ptpCorr f) + (t4 - t3 - cd) : Int) / (2 : Rat))).1,
        BitVec.ofInt 64 (toSigned 64 (((((d : Int) - ptpStamp f 34 - ptpCorr f) - (ptpPortAt s p).asym : Int) : Rat) -
          (((d : Int) - ptpStamp f 34 - ptpCorr f) + (t4 - t3 - cd) : Int) / (2 : Rat))).1, p) := by
  have hport := ptpPortAt_modPtp_self (s := s) (p := p) (by omega)
    (fun y => { y with sync := some (ptpSeq f, ptpStamp f 34, d, ptpCorr f, true) })
  obtain ⟨hslave, hmeas⟩ := measure_acts (s := s.modPtp p (fun y => { y with sync := some (ptpSeq f, ptpStamp f 34, d, ptpCorr f, true) }))
    (p := p) (by rw [length_modPtp]; omega) (ptpStamp f 34) d (ptpCorr f) (by rw [hport]; exact hdelay) (by rw [hport]; exact hstate)
  rw [hport] at hmeas
  refine ⟨_, ?_, hslave, hmeas⟩
  change execPtpFrameRx p f d s = _
  simp [-List.getD_eq_getElem?_getD, execPtpFrameRx, hrun, Nat.not_le.2 hp, hup, hrole, hgood, htype, follows_iff hstate, htwo]

theorem ptpFrameRx_delayResp {q : Nat} {t3 : Int} (hgood : ptpGood s p f = true) (htype : ptpType f = 9)
    (hreq : (ptpPortAt s p).delayReq = some (q, t3)) (hq : q = ptpSeq f) (hid : beAt (ptpBody f) 44 8 = clockIdentity % 2 ^ 64)
    (hport : beAt (ptpBody f) 52 2 = p + 1) (hlost : (ptpPortAt s p).lost = false) :
    ∃ t, exec (.ptpFrameRx p f d) s = .next t ∧ (ptpPortAt t p).delay = some (t3, ptpStamp f 34, ptpCorr f) ∧
      (ptpPortAt t p).delayReq = none := by
  refine ⟨s.modPtp p (fun y =>
    { y with
      egress := y.egress.filter (fun e => e.1 != 1)
      delayReq := none
      delay := if y.lost then y.delay else some (t3, ptpStamp f 34, ptpCorr f) }), ?_, ?_, ?_⟩
  · change execPtpFrameRx p f d s = _
    simp [-List.getD_eq_getElem?_getD, execPtpFrameRx, hrun, Nat.not_le.2 hp, hup, hrole, hgood, htype, follows_iff hstate, hreq, hq, hid, hport]
  · rw [ptpPortAt_modPtp_self (by omega)]
    simp [hlost]
  · rw [ptpPortAt_modPtp_self (by omega)]

end Follows
end Receives

/-! ### Timers (R363, R370, R371) -/

theorem setPtpState_heard {s : State} {p : Nat} (hlen : p < s.core.air.ports.length) (q : Nat) (st : PtpState)
    (h : (ptpPortAt s p).heard = dtOf s) : (ptpPortAt (s.setPtpState q st) p).heard = dtOf s := by
  unfold State.setPtpState
  extract_lets old u
  have hu : (ptpPortAt u p).heard = dtOf s := by
    by_cases hq : p = q
    · subst hq
      rw [ptpPortAt_modPtp_self hlen]
      exact holds_ite (P := fun n => n = dtOf s) rfl h
    · rw [ptpPortAt_modPtp_other s _ hq]
      exact h
  exact holds_ite (P := fun t : State => (ptpPortAt t p).heard = dtOf s) ((congrArg _ (ptpPortAt_of_air (setClockQ_air u _) p)).trans hu) hu

/-- A port that heard now, at an unchanged time: what a change of a port's state leaves so. -/
def HeardNow (d p : Nat) (s : State) : Prop := p < s.core.air.ports.length ∧ dtOf s = d ∧ (ptpPortAt s p).heard = d

theorem HeardNow.setPtpState {d p : Nat} {s : State} (h : HeardNow d p s) (q : Nat) (st : PtpState) : HeardNow d p (s.setPtpState q st) := by
  obtain ⟨hlen, hdt, hheard⟩ := h
  refine ⟨?_, (airless_dtOf.setPtpState s q st).trans hdt, (setPtpState_heard hlen q st (hheard.trans hdt.symm)).trans hdt⟩
  unfold State.setPtpState
  extract_lets old u
  have hu : p < u.core.air.ports.length := by rw [show u.core.air.ports.length = _ from length_modPtp s q _]; exact hlen
  exact holds_ite (P := fun t : State => p < t.core.air.ports.length) (by rw [setClockQ_air]; exact hu) hu

theorem ptpAnnounceTimeout_acts {s : State} {p : Nat} (hrun : running s = true) (hp : p < 2) (hlen : s.core.air.ports.length = 2)
    (hrole : (ptpPortAt s p).role ≠ 0) (hlate : (ptpPortAt s p).heard + 375000000 < dtOf s)
    (hstate : (ptpPortAt s p).state = .listening ∨ (ptpPortAt s p).state = .uncalibrated ∨ (ptpPortAt s p).state = .slave ∨
      (ptpPortAt s p).state = .passive) :
    ∃ t, exec (.ptpAnnounceTimeout p) s = .next t ∧ (ptpPortAt t p).announce = none ∧ (ptpPortAt t p).delay = none ∧
      (ptpPortAt t p).heard = dtOf s := by
  generalize hu : s.modPtp p (fun y => { y with announce := none, sync := none, delay := none, delayReq := none, heard := dtOf s }) = u
  have hport : ptpPortAt u p =
      { ptpPortAt s p with announce := none, sync := none, delay := none, delayReq := none, heard := dtOf s } := by
    rw [← hu]
    exact ptpPortAt_modPtp_self (by omega) _
  have hnow : HeardNow (dtOf s) p u := by
    refine ⟨by rw [← hu, length_modPtp]; omega, by rw [← hu]; rfl, by rw [hport]⟩
  generalize hst : (if (ptpPortAt s p).role == 2 then PtpState.master else PtpState.listening) = st
  have hkeep {α : Type} {g : PtpPort → α} (hg : ∀ (x : PtpPort) st d, g { x with state := st, heard := d } = g x) :
      g (ptpPortAt (u.setPtpState p st).decidePorts p) = g (ptpPortAt u p) :=
    (decidePorts_port hg _ p).trans (setPtpState_keeps hg u p p st)
  obtain ⟨-, -, hheard⟩ := decidePorts_keeps (P := HeardNow (dtOf s) p) (fun t q st h => h.setPtpState q st) (hnow.setPtpState p st)
  refine ⟨(u.setPtpState p st).decidePorts, ?_, ?_, ?_, hheard⟩
  · change execPtpAnnounceTimeout p s = _
    unfold execPtpAnnounceTimeout
    extract_lets x v
    refine congrArg Host.Outcome.next ((if_pos ?_).trans ?_)
    · simp only [hrun, hp, decide_true, Bool.and_self, Bool.true_and, Bool.and_eq_true, decide_eq_true_eq, bne_iff_ne, ne_eq,
        Bool.or_eq_true, beq_iff_eq]
      exact ⟨⟨hrole, hlate⟩, by rcases hstate with h | h | h | h <;> simp [x, h]⟩
    · rw [← hst, ← hu]
  · rw [hkeep (g := (·.announce)) (fun _ _ _ => rfl), hport]
  · rw [hkeep (g := (·.delay)) (fun _ _ _ => rfl), hport]

theorem setClockQ_holdover {s : State} (h : s.core.time.clockQ = .locked) :
    (s.setClockQ .holdover).core.time.holdSince = some (dtOf s) ∧ (s.setClockQ .holdover).core.time.hold165 = false ∧
      (s.err.regs.length = 16 → ((s.setClockQ .holdover).err.regs.getD 1 {}).bits.getLsbD 5 = true) := by
  generalize hu : s.modTime (fun t => { t with clockQ := .holdover, holdSince := some (dtOf s), hold165 := false }) = u
  have hset : s.setClockQ .holdover = (u.err1 1 5).event 0x0007 [leBytes 1 (clockCode .holdover)] := by
    rw [State.setClockQ, h, ← hu]
    rfl
  have htime : (s.setClockQ .holdover).core.time = u.core.time := by
    rw [hset, time_of_quiet (quiet_event _ _ _), time_of_quiet (quiet_err1 _ _ _ _ _ _)]
  refine ⟨by rw [htime, ← hu]; rfl, by rw [htime, ← hu]; rfl, fun hlen => ?_⟩
  rw [hset, deaf_err.event]
  exact err1_sets (by simp [errPresent]) (by decide) (by decide) (by rw [← hu]; exact (hlen ▸ (by decide) : 1 < s.err.regs.length)) _ _ _

theorem holdoverTimeout_acts {s : State} (hrun : running s = true) (hq : s.core.time.clockQ = .locked)
    (hlate : s.core.time.lastMeas.getD 0 + 1000000000 < dtOf s) :
    ∃ t, exec .holdoverTimeout s = .next t ∧ t.core.time.clockQ = .holdover ∧ t.core.time.holdSince = some (dtOf s) ∧
      t.core.time.hold165 = false ∧ (s.err.regs.length = 16 → (t.err.regs.getD 1 {}).bits.getLsbD 5 = true) := by
  refine ⟨s.setClockQ .holdover, ?_, (setClockQ_time s .holdover).1, setClockQ_holdover hq⟩
  change execHoldoverTimeout s = _
  simp [execHoldoverTimeout, hrun, hq, hlate]

theorem clockClassTimer_acts {s : State} {h : Nat} (hq : s.core.time.clockQ = .holdover) (hsince : s.core.time.holdSince = some h)
    (hlate : h + 1000000000000 ≤ dtOf s) : exec .clockClassTimer s = .next (s.modTime (fun t => { t with hold165 := true })) := by
  change execClockClassTimer s = _
  simp [execClockClassTimer, hq, hsince, hlate]

/-! ### The obligation -/

/-- Settles O51: by message and timer, over the lengths of the frames sent, what a change of a port's state keeps, and the measurement. -/
theorem ptpTakesEffect : Obligations.PtpTakesEffect := by
  unfold Obligations.PtpTakesEffect
  intro s p hrun hp hlen
  dsimp only
  refine ⟨fun hup => ⟨ptpSync_oneStep hrun hp hlen hup, ptpSync_twoStep hrun hp hlen hup, fun q d => ptpFollowUp_acts hrun hp hlen hup,
    ptpDelayReq_acts hrun hp hlen hup, ptpAnnounce_acts hrun hp hlen hup, fun f d hrole => ⟨ptpFrameRx_bad hrun hp hup hrole f d,
    ptpFrameRx_announce hrun hp hlen hup hrole f d, ptpFrameRx_delayReq hrun hp hup hrole f d, fun hstate =>
      ⟨ptpFrameRx_twoStep hrun hp hlen hup hrole f d hstate, fun t3 t4 cd hgood htype htwo hdelay => ?_,
        fun q t3 hgood htype hreq hq hid hport hlost => ptpFrameRx_delayResp hrun hp hlen hup hrole f d hstate hgood htype hreq hq hid hport hlost⟩⟩⟩,
    ptpAnnounceTimeout_acts hrun hp hlen, holdoverTimeout_acts hrun, fun h => clockClassTimer_acts⟩
  obtain ⟨t, ht, hslave, hmeas⟩ := ptpFrameRx_oneStep hrun hp hlen hup hrole f d hstate hgood htype htwo hdelay
  simp only [measured, Prod.mk.injEq] at hmeas
  obtain ⟨hseq, hpath, hoff, hsrc⟩ := hmeas
  exact ⟨t, ht, hslave, hseq, hpath, hoff, hsrc⟩

end Sys2Proof.Machine
end

section
/-! The event table acts (R380 to R382, R384): the firing of an entry by its action; pulses, PPS_OUT and captures (R387 to R389). -/
namespace Sys2Proof.Machine

/-! ### What actions leave -/

theorem enqueue_air (s : State) (ch : Nat) (w : Waiting) : (s.enqueue ch w).core.air = s.core.air := rfl

theorem cycleSession_air (s : State) (slot key dl : Nat) (p : Nat × Session) : (s.cycleSession slot key dl p).core.air = s.core.air := by
  unfold State.cycleSession
  dsimp only
  refine holds_ite (P := fun t : State => t.core.air = s.core.air) rfl (holds_ite (P := fun t : State => t.core.air = s.core.air) rfl ?_)
  exact holds_ite (P := fun t : State => t.core.air = s.core.air) rfl rfl

theorem cycle_air (s : State) (arg q : Nat) : (s.cycle arg q).core.air = s.core.air := by
  unfold State.cycle
  extract_lets key solve track dl u
  have hu : u.core.air = s.core.air := by
    refine holds_ite (P := fun t : State => t.core.air = s.core.air) rfl (holds_ite (P := fun t : State => t.core.air = s.core.air) rfl ?_)
    exact foldl_unseen (F := fun t : State => t.core.air) (fun t p => cycleSession_air t solve key dl p) _ s
  refine holds_ite (P := fun t : State => t.core.air = s.core.air) hu ?_
  cases homeOf u key with
  | none => exact hu
  | some home =>
    refine holds_ite (P := fun t : State => t.core.air = s.core.air) hu (holds_ite (P := fun t : State => t.core.air = s.core.air) hu ?_)
    exact holds_ite (P := fun t : State => t.core.air = s.core.air) hu hu

theorem launch_events (s : State) (p slot q : Nat) : (s.launch p slot q).core.air.events = s.core.air.events := by
  unfold State.launch
  extract_lets key
  cases NMap.get? s.core.air.launch key with
  | none => rfl
  | some f =>
    dsimp only
    refine holds_ite (P := fun t : State => t.core.air.events = s.core.air.events) ?_ ?_
    · rw [air_of_quiet (quiet_err1 _ _ _ _ _ _)]
      rfl
    · exact holds_ite (P := fun t : State => (t.modAir (fun a => { a with launchBusy := _ })).core.air.events = s.core.air.events) rfl rfl

theorem pinAction_events (s : State) (pin level w q : Nat) : (s.pinAction pin level w q).core.air.events = s.core.air.events :=
  holds_ite (P := fun t : State => t.core.air.events = s.core.air.events) rfl rfl

theorem act_events (s : State) (e : EvEntry) : (s.act e).core.air.events = s.core.air.events := by
  unfold State.act
  extract_lets a chains
  refine holds_ite (P := fun t : State => t.core.air.events = s.core.air.events) rfl
    (holds_ite (P := fun t : State => t.core.air.events = s.core.air.events) (congrArg (·.events) (cycle_air s a e.next)) ?_)
  refine holds_ite (P := fun t : State => t.core.air.events = s.core.air.events) rfl
    (holds_ite (P := fun t : State => t.core.air.events = s.core.air.events) rfl ?_)
  exact holds_ite (P := fun t : State => t.core.air.events = s.core.air.events) (launch_events s _ _ _) (pinAction_events s _ _ _ _)

/-! ### Firing (R380) -/

/-- The table after an entry has fired: an entry of a period falls again a period later. -/
def firedEvents (m : NMap EvEntry) (idx : Nat) (e : EvEntry) : NMap EvEntry :=
  if e.period == 0 then NMap.erase m idx else NMap.set m idx { e with next := e.next + frameQ * e.period }

/-- An entry that is due, with none before it, fires: its action, then the table; the trace apart. -/
theorem eventFire_acts {s : State} {idx : Nat} {e : EvEntry} (hrun : running s = true) (he : NMap.get? s.core.air.events idx = some e)
    (hdue : e.next ≤ dtQuarter s) (hfirst : ∀ p ∈ s.core.air.events, before p.1 p.2 idx e = false) :
    ∃ t b q n l, exec (.eventFire idx) s = .next t ∧
      t = (((s.act e).modAir (fun a => { a with events := firedEvents a.events idx e })).modObs
        (fun o => { o with buf := b, seq := q, sent := n, lost := l })) := by
  have hnone : s.core.air.events.any (fun p => before p.1 p.2 idx e) = false := by
    rw [List.any_eq_false]
    exact fun p hp => by rw [hfirst p hp]; exact Bool.false_ne_true
  obtain ⟨b, q, n, l, htrace⟩ := traceRec_eq ((s.act e).modAir (fun a => { a with events := firedEvents a.events idx e })) 0x30 e.action
    (leBytes 2 idx) e.action
  refine ⟨_, b, q, n, l, ?_, rfl⟩
  rw [← htrace]
  change execEventFire idx s = _
  unfold execEventFire
  rw [he]
  exact congrArg Host.Outcome.next (if_pos (by rw [hrun, hnone, decide_eq_true hdue]; rfl))

/-- One chain of those an ARM or CLOSE entry names. -/
theorem getD_zipIdx_map {α : Type} {l : List α} {n : Nat} (d : α) (g : α × Nat → α) (h : n < l.length) :
    ((l.zipIdx).map g).getD n d = g (l.getD n d, n) := by
  simp [List.getD_eq_getElem?_getD, h]

theorem act_of {s : State} {e : EvEntry} :
    (e.action = 1 → s.act e = s.modAir (fun t => { t with closes := NMap.set t.closes (256 * bits e.arg 15 8 + bits e.arg 7 0) e.next })) ∧
    (e.action = 2 → s.act e = s.cycle e.arg e.next) ∧
    (e.action = 3 → s.act e = s.modScu (fun u =>
      { u with chains := (u.chains.zipIdx).map (fun p => if bit e.arg p.2 then p.1.closeWindow e.next else p.1) })) ∧
    (e.action = 4 → s.act e = s.modScu (fun u =>
      { u with chains := (u.chains.zipIdx).map (fun p => if bit e.arg p.2 then p.1.openWindow e.next else p.1) })) ∧
    (e.action = 5 → s.act e = s.launch (bits e.arg 8 8) (bits e.arg 5 0) e.next) ∧
    (e.action = 6 → s.act e = s.pinAction (bits e.arg 1 0) (bits e.arg 5 4) (bits e.arg 31 16) e.next) := by
  refine ⟨fun h => ?_, fun h => ?_, fun h => ?_, fun h => ?_, fun h => ?_, fun h => ?_⟩ <;> rw [State.act, h] <;> rfl

/-! ### Launches and pins -/

theorem launch_sends {s : State} {p slot q : Nat} {f : List Byte} (hf : NMap.get? s.core.air.launch (64 * p + slot) = some f)
    (hup : s.hw.epUp.getD p false = true) (hfree : s.core.air.launchBusy.getD p 0 + wireQ s p 8 ≤ q) :
    (s.launch p slot q).out = s.out ++ [.ethFrame p q (f ++ leBytes 4 (crc32 f).toNat)] := by
  unfold State.launch
  extract_lets key u free late t v
  rw [show NMap.get? s.core.air.launch key = some f from hf]
  dsimp -zeta only
  extract_lets w
  have hlate : late = false := decide_eq_false (Nat.not_lt.2 hfree)
  have hv : v.out = s.out := holds_ite (P := fun t : State => t.out = s.out) rfl rfl
  rw [if_neg (by rw [show u.hw.epUp.getD p false = true from hup]; exact Bool.false_ne_true), State.emit_out,
    show w.out = v.out from rfl, hv, show t = q by rw [show t = if late then free else q from rfl, hlate]; rfl]

theorem launch_empty {s : State} {p slot : Nat} (q : Nat) (hf : NMap.get? s.core.air.launch (64 * p + slot) = none) :
    s.launch p slot q = s.bump (timeCtr p 2) 1 := by
  unfold State.launch
  dsimp only
  rw [hf]

theorem pinAction_level {s : State} {pin : Nat} (hpin : pin < s.core.air.tev.length) (level w q : Nat) :
    ((s.pinAction pin level w q).core.air.tev.getD pin {}).level =
      if level = 3 then true else if level = 0 then false else if level = 1 then true else !(s.core.air.tev.getD pin {}).level := by
  unfold State.pinAction
  extract_lets t t' u
  have hu : (u.core.air.tev.getD pin {}).level = t'.level := by
    have hset : setAt s.core.air.tev pin t' = updAt s.core.air.tev pin (fun _ => t') := by
      exact (List.modify_eq_set_get (fun _ => t') hpin).symm
    rw [show u.core.air.tev = setAt s.core.air.tev pin t' from rfl, hset, getD_updAt_self _ _ _ _ hpin]
  have hlevel : ((if t'.level == t.level then u else u.emit (.tevEdge pin q t'.level)).core.air.tev.getD pin {}).level = t'.level :=
    holds_ite (P := fun v : State => (v.core.air.tev.getD pin {}).level = t'.level) hu hu
  refine hlevel.trans ?_
  unfold t'
  by_cases h : level = 3
  · simp [h]
  · by_cases h0 : level = 0
    · simp [h0]
    · by_cases h1 : level = 1
      · simp [h1]
      · simp [h, h0, h1, t]

/-! ### Cycles (R382) -/

theorem cycle_tracks {s : State} {arg q home : Nat} (hsolve : bits arg 22 16 = 0x7F) (htrack : bits arg 30 24 ≠ 0x7F)
    (hhome : homeOf s (256 * bits arg 15 8 + bits arg 7 0) = some home) (hres : (residentAt s home (bits arg 30 24)).isSome = true)
    (hadmits : slotAdmits s home (bits arg 30 24) (bits arg 15 8) = true)
    (hnone : ∀ w ∈ (chanAt s home).queue, w.origin ≠ .cycleTrack (256 * bits arg 15 8 + bits arg 7 0)) :
    s.cycle arg q = (s.modFus (fun f => { f with home := NMap.set f.home (256 * bits arg 15 8 + bits arg 7 0) home })).enqueue home
      { slot := bits arg 30 24, origin := .cycleTrack (256 * bits arg 15 8 + bits arg 7 0),
        ctx := (256 * bits arg 15 8 + bits arg 7 0) / 256, sid := none, arrival := dtOf s, deadline := q / 4 + 10000000 } := by
  have hctx : (256 * bits arg 15 8 + bits arg 7 0) / 256 = bits arg 15 8 := by
    have : bits arg 7 0 < 256 := Nat.mod_lt _ (by decide)
    omega
  unfold State.cycle
  extract_lets key solve track dl u
  have hu : u = s := if_pos (beq_iff_eq.2 hsolve)
  clear_value u
  subst hu
  rw [if_neg (by rw [beq_iff_eq]; exact htrack), show homeOf u key = some home from hhome]
  dsimp only
  rw [if_neg (by rw [Option.isNone_iff_eq_none]; exact Option.isSome_iff_ne_none.1 hres), hctx, hadmits, if_neg (by simp), if_neg]
  simp only [List.any_eq_true, beq_iff_eq, not_exists, not_and]
  exact hnone

/-! ### Pulses, PPS_OUT and captures (R387 to R389) -/

theorem tevPulseEnd_acts {s : State} {pin q : Nat} (hend : (s.core.air.tev.getD pin {}).pulseEnd = some q) (hdue : q ≤ dtQuarter s) :
    ∃ t, exec (.tevPulseEnd pin) s = .next t ∧ t.out = s.out ++ [.tevEdge pin q false] ∧
      t.core.air.tev.getD pin {} = { s.core.air.tev.getD pin {} with level := false, pulseEnd := none } := by
  have hpin : pin < s.core.air.tev.length := by
    by_contra h
    rw [List.getD_eq_default _ _ (Nat.le_of_not_lt h)] at hend
    exact absurd hend (by simp)
  refine ⟨(s.modAir (fun a => { a with tev := updAt a.tev pin (fun t => { t with level := false, pulseEnd := none }) })).emit
    (.tevEdge pin q false), ?_, rfl, getD_updAt_self _ _ _ _ hpin⟩
  change execTevPulseEnd pin s = _
  unfold execTevPulseEnd
  rw [hend]
  exact congrArg Host.Outcome.next (if_pos (decide_eq_true hdue))

theorem ppsFalls {s : State} {e : Nat} (hhigh : s.core.air.ppsHigh = some e) (hdue : e ≤ dtOf s) :
    exec .ppsOutEdge s = .next ((s.modAir (fun a => { a with ppsHigh := none })).emit (.ppsEdge e false)) := by
  change execPpsOutEdge s = _
  unfold execPpsOutEdge
  rw [hhigh]
  exact congrArg Host.Outcome.next (if_pos (decide_eq_true hdue))

theorem ppsRises {s : State} {mode : Nat} (hrun : running s = true) (hlow : s.core.air.ppsHigh = none)
    (hmode : mode = bits s.core.air.ppsCtl.toNat 1 0) (hon : mode = 1 ∨ mode = 2) (hnew : s.core.air.ppsLast.getD 0 < ppsBoundary s mode) :
    ∃ t w, exec .ppsOutEdge s = .next t ∧ t.out = s.out ++ [.ppsEdge (ppsBoundary s mode) true] ∧
      t.core.air.ppsHigh = some (ppsBoundary s mode + 1000 * w) ∧ 1 ≤ w ∧ w ≤ 5000 := by
  generalize hw : (if bits s.core.air.ppsCtl.toNat 28 16 == 0 then 1 else min (bits s.core.air.ppsCtl.toNat 28 16) 5000) = w
  have hwidth : 1 ≤ w ∧ w ≤ 5000 := by
    rw [← hw]
    split
    · omega
    · next h => rw [beq_iff_eq] at h; omega
  refine ⟨(s.modAir (fun a => { a with ppsHigh := some (ppsBoundary s mode + 1000 * w), ppsLast := some (ppsBoundary s mode) })).emit
    (.ppsEdge (ppsBoundary s mode) true), w, ?_, rfl, rfl, hwidth⟩
  change execPpsOutEdge s = _
  unfold execPpsOutEdge
  rw [hlow]
  dsimp only
  rw [← hmode, hw]
  refine congrArg Host.Outcome.next (if_pos ?_)
  simpa [hrun, hnew] using hon

section Captures
variable {s : State} {src : Nat} {rising : Bool} (hrun : running s = true) (hsrc : src ≤ 4) (hlt : src < s.core.air.caps.length)
  (hcap : captures s src rising = true)

/-- The captures with the instant of the edge as the source's last. -/
def edgeSeen (s : State) (src : Nat) : State :=
  s.modAir (fun a => { a with caps := updAt a.caps src (fun c => { c with last := some (dtQuarter s) }) })

include hlt in
theorem edgeSeen_caps : (edgeSeen s src).core.air.caps.getD src {} = { s.core.air.caps.getD src {} with last := some (dtQuarter s) } :=
  getD_updAt_self _ _ _ _ hlt

include hrun hsrc hcap in
theorem captureEdge_eq : exec (.captureEdge src rising) s = .next (
    if (s.core.air.caps.getD src {}).last.any (fun l => decide (dtQuarter s < l + 40)) then edgeSeen s src
    else if 16 ≤ (s.core.air.caps.getD src {}).q.length then
      ((edgeSeen s src).modAir (fun a => { a with caps := updAt a.caps src (fun c => { c with ovf := true }) })).err1 1 4 src
    else (edgeSeen s src).modAir (fun a => { a with caps := updAt a.caps src (fun c => { c with q := c.q ++ [dtQuarter s] }) })) := by
  change execCaptureEdge src rising s = _
  unfold execCaptureEdge
  refine congrArg Host.Outcome.next (if_neg ?_)
  simp [hrun, hcap]
  omega

include hlt in
theorem edgeSeen_upd (f : Cap → Cap) :
    ((edgeSeen s src).modAir (fun a => { a with caps := updAt a.caps src f })).core.air.caps.getD src {} =
      f { s.core.air.caps.getD src {} with last := some (dtQuarter s) } := by
  rw [← edgeSeen_caps hlt]
  exact getD_updAt_self _ _ _ _ (by rw [edgeSeen, State.modAir_core, length_updAt]; exact hlt)

theorem edgeSeen_other {o : Nat} (ho : o ≠ src) (f : Cap → Cap) :
    ((edgeSeen s src).modAir (fun a => { a with caps := updAt a.caps src f })).core.air.caps.getD o {} = s.core.air.caps.getD o {} :=
  (getD_updAt_other _ _ _ _ _ ho).trans (getD_updAt_other _ _ _ _ _ ho)

include hrun hsrc hlt hcap in
theorem captureEdge_acts :
    let c := s.core.air.caps.getD src {}
    ∃ t, exec (.captureEdge src rising) s = .next t ∧
      (∀ o, o ≠ src → t.core.air.caps.getD o {} = s.core.air.caps.getD o {}) ∧
      ((∀ l, c.last = some l → l + 40 ≤ dtQuarter s) → c.q.length < 16 →
        t.core.air.caps.getD src {} = { c with last := some (dtQuarter s), q := c.q ++ [dtQuarter s] }) ∧
      ((∀ l, c.last = some l → l + 40 ≤ dtQuarter s) → 16 ≤ c.q.length →
        t.core.air.caps.getD src {} = { c with last := some (dtQuarter s), ovf := true }) ∧
      (∀ l, c.last = some l → dtQuarter s < l + 40 → t.core.air.caps.getD src {} = { c with last := some (dtQuarter s) }) := by
  intro c
  have hexec := captureEdge_eq hrun hsrc hcap
  have hspaced : (∀ l, c.last = some l → l + 40 ≤ dtQuarter s) ↔ c.last.any (fun l => decide (dtQuarter s < l + 40)) = false := by
    cases c.last with
    | none => simp
    | some l => simp
  cases hnear : c.last.any (fun l => decide (dtQuarter s < l + 40)) with
  | true =>
    rw [if_pos hnear] at hexec
    have hno (h : ∀ l, c.last = some l → l + 40 ≤ dtQuarter s) : False := by
      rw [hspaced, hnear] at h
      exact absurd h (by decide)
    exact ⟨_, hexec, fun o ho => getD_updAt_other _ _ _ _ _ ho, fun h => (hno h).elim, fun h => (hno h).elim,
      fun _ _ _ => edgeSeen_caps hlt⟩
  | false =>
    rw [if_neg (by rw [show (s.core.air.caps.getD src {}).last.any (fun l => decide (dtQuarter s < l + 40)) = false from hnear];
                   exact Bool.false_ne_true)] at hexec
    have hfar {l : Nat} (hl : c.last = some l) (h : dtQuarter s < l + 40) : False := by
      have := hspaced.2 hnear l hl
      omega
    by_cases hfull : 16 ≤ c.q.length
    · rw [if_pos hfull] at hexec
      refine ⟨_, hexec, fun o ho => ?_, fun _ h => absurd hfull (Nat.not_le.2 h), fun _ _ => ?_, fun l hl h => (hfar hl h).elim⟩
      · rw [air_of_quiet (quiet_err1 _ _ _ _ _ _)]
        exact edgeSeen_other ho _
      · rw [air_of_quiet (quiet_err1 _ _ _ _ _ _)]
        exact edgeSeen_upd hlt _
    · rw [if_neg hfull] at hexec
      exact ⟨_, hexec, fun o ho => edgeSeen_other ho _, fun _ _ => edgeSeen_upd hlt _, fun _ h => absurd h hfull, fun l hl h => (hfar hl h).elim⟩

end Captures

/-! ### The obligation -/

/-- Settles O50: the firing by its entry's action, over what each action leaves of the event table; the pins by their branches. -/
theorem eventTableActs : Obligations.EventTableActs := by
  unfold Obligations.EventTableActs
  refine fun s => ⟨fun idx e hrun he hdue hfirst => ?_, fun pin q => tevPulseEnd_acts, fun e => ppsFalls, fun mode => ppsRises,
    fun src rising => captureEdge_acts⟩
  obtain ⟨t, b, q, n, l, hexec, ht⟩ := eventFire_acts hrun he hdue hfirst
  obtain ⟨h1, h2, h3, h4, h5, h6⟩ := act_of (s := s) (e := e)
  have hair : t.core.air = { (s.act e).core.air with events := firedEvents (s.act e).core.air.events idx e } := by rw [ht]; rfl
  have hscu : t.core.scu = (s.act e).core.scu := by rw [ht]; rfl
  have hout : t.out = (s.act e).out := by rw [ht]; rfl
  have hchan (c : Nat) : chanAt t c = chanAt (s.act e) c := by rw [ht]; rfl
  have hctrs : t.core.obs.counters = (s.act e).core.obs.counters := by rw [ht]; rfl
  refine ⟨t, hexec, ?_, fun h => ?_, fun h n hn => ?_, fun h n hn => ?_, fun h hempty => ⟨?_, ?_⟩, fun f h hf hup hfree => ?_, fun h hpin => ?_,
    fun home h hsolve htrack hhome hlt hres hadmits hnone => ?_⟩
  · rw [hair, act_events, firedEvents]
    simp only [beq_iff_eq, frameQ]
  · rw [hair, h1 h]
    rfl
  · rw [hscu, h3 h]
    exact getD_zipIdx_map _ _ hn
  · rw [hscu, h4 h]
    exact getD_zipIdx_map _ _ hn
  · rw [Counted, hctrs, h5 h, launch_empty _ hempty]
    exact counted_bump s _ 1
  · rw [hout, h5 h, launch_empty _ hempty]
    rfl
  · rw [hout, h5 h]
    exact launch_sends hf hup hfree
  · have hlevel := pinAction_level hpin (bits e.arg 5 4) (bits e.arg 31 16) e.next
    rw [← h6 h] at hlevel
    rw [hair]
    refine ⟨fun hl => ?_, fun hl => ?_, fun hl => ?_⟩
    · exact hlevel.trans (by rw [hl]; rfl)
    · exact hlevel.trans (by rcases hl with hl | hl <;> rw [hl] <;> rfl)
    · exact hlevel.trans (by rw [hl]; rfl)
  · rw [hchan, h2 h, cycle_tracks hsolve htrack hhome hres hadmits hnone]
    exact ⟨_, congrArg Chan.queue (chanAt_modChan_self (s := s.modFus _) hlt _), rfl, rfl, rfl⟩

end Sys2Proof.Machine
end

section
/-! The radio intake takes soundings (R327, R330, R336, R337, R343, R349, R356). -/
namespace Sys2Proof.Machine

/-! ### Frames and sections (R327, R330, R337, R340) -/

theorem epFrameRx_eq {s : State} {p : Nat} (hrun : running s = true) (hp : p < 2) (hup : s.hw.epUp.getD p false = true)
    (h968 : s.hw.is968 = true) (f : List Byte) (e : Bool) :
    exec (.epFrameRx p f e) s = .next (match parseFronthaul s.core.air.mu f with
      | .ptp => s
      | .other => s.bump (scuPortCtr p 1) 1
      | .bad => s.bump (scuPortCtr p 0) 1
      | .msg m => s.intakeMsg p m e) := by
  change execEpFrameRx p f e s = _
  unfold execEpFrameRx
  rw [hrun, hup, h968, decide_eq_false (Nat.not_le.2 hp)]
  rfl

theorem intakeMsg_stale {s : State} {p : Nat} {m : UMsg} {start : Rat} {sfn : Nat} (hstart : airStart s m = (start, sfn))
    (hstale : 2000000 < dtExact s - start)
    (hnone : ∀ q ∈ s.pruneIntake.core.scu.syms, q.2.port = p → q.2.air = (toQuarter start).toNat → q.2.phase ≠ 0)
    (hnew : (p, 65536, (toQuarter start).toNat) ∉ s.pruneIntake.core.scu.unbound) (e : Bool) :
    s.intakeMsg p m e =
      (s.pruneIntake.modScu (fun u => { u with unbound := u.unbound ++ [(p, 65536, (toQuarter start).toNat)] })).bump (scuPortCtr p 2) 1 := by
  have hany : s.pruneIntake.core.scu.syms.any (fun q => q.2.port == p && q.2.air == (toQuarter start).toNat && q.2.phase == 0) = false := by
    rw [List.any_eq_false]
    intro q hq
    have := hnone q hq
    simp only [Bool.and_eq_true, beq_iff_eq]
    tauto
  have hdt : dtExact s.pruneIntake = dtExact s := rfl
  unfold State.intakeMsg
  rw [hstart]
  dsimp only
  rw [if_pos (by rw [hany, hdt, decide_eq_true hstale]; rfl), if_neg (by simpa using hnew)]

/-- The bytes a section brings to a symbol. -/
def sectionBytes (add : List (List (Nat × List Byte))) : Nat := ((add.flatMap id).map (fun q => q.2.length)).foldl (· + ·) 0

/-- A section that finds room and leaves its symbol incomplete is stored. -/
theorem storeSection_stores {s : State} {k : Nat} {y : Sym} {b : Binding} {eaxc : Nat} {x : Section} (hy : NMap.get? s.core.scu.syms k = some y)
    {add : List (List (Nat × List Byte))} (hadd : y.els.map (fun z => if z.def_.eaxc == eaxc then newPrbs b z x else []) = add)
    {y' : Sym} (hy' : { y with els := (y.els.zip add).map (fun q =>
      { q.1 with prbs := q.2.foldl (fun l r => NMap.set l r.1 (x.width, r.2)) q.1.prbs }) } = y')
    (hheld : s.core.scu.held.getD y.port 0 + sectionBytes add ≤ 2097152) (hfifo : fifoHeld s y.port + sectionBytes add ≤ 65536)
    (hpart : y'.complete b = false) (err : Bool) :
    s.storeSection k b eaxc x err = s.modScu (fun u => { u with
      syms := NMap.set u.syms k y', held := updAt u.held y.port (· + sectionBytes add),
      fifo := setAt u.fifo y.port (fifoHeld s y.port + sectionBytes add, dtOf s) }) := by
  subst hadd hy'
  unfold State.storeSection
  rw [hy]
  have hroom : ¬(intakeBytes < s.core.scu.held.getD y.port 0 + sectionBytes (y.els.map (fun z => if z.def_.eaxc == eaxc then newPrbs b z x else [])) ∨
      fifoBytes < fifoHeld s y.port + sectionBytes (y.els.map (fun z => if z.def_.eaxc == eaxc then newPrbs b z x else []))) := by
    rw [intakeBytes, fifoBytes]
    omega
  exact (if_neg hroom).trans (if_neg (by rw [hpart]; exact Bool.false_ne_true))

section OneBinding
variable {s : State} {p bi : Nat} {m : UMsg} {x : Section} {b : Binding} {start : Rat} {sfn : Nat}

/-- A section of a message in time, that one binding alone claims and a symbol of it already assembles, goes to that symbol. -/
theorem intakeSection_one (hbind : s.core.scu.bindings = [(bi, b)]) (hport : b.port = p)
    (hmatch : (matchingElements s b).any (fun z => z.2.2.eaxc == m.eaxc) = true)
    (hocc : b.occasion s.core.air.mu sfn m.subframe m.slot = true) (hmeets : b.meets m x = true)
    (hgone : (bi, (toQuarter start).toNat) ∉ s.core.scu.gone) {k : Nat} {y : Sym}
    (hsym : symOf s bi (toQuarter start).toNat = some (k, y)) (hphase : y.phase = 0) (e : Bool) :
    State.intakeSection p m start sfn e false s x = s.storeSection k b m.eaxc x e := by
  unfold State.intakeSection
  extract_lets air mine known bound hit takes
  have hhit : hit = [(bi, b)] := by
    simp only [hit, known, bound, hbind, List.filter_cons, List.filter_nil, hmatch, hport, beq_self_eq_true, Bool.and_self, if_true, hocc, hmeets]
  have htakes : takes (bi, b) = true := by simp [takes, air, hsym]
  rw [hhit, if_pos (show (!([(bi, b)] : List (Nat × Binding)).isEmpty) = true from rfl), List.filter_cons, if_pos htakes]
  simp only [List.filter_nil, List.foldl_cons, List.foldl_nil]
  unfold State.takeSection
  extract_lets k' u
  rw [if_neg (by simpa [air] using hgone), show symOf s bi air = some (k, y) from hsym]
  dsimp only
  rw [hphase]
  rfl

theorem intakeMsg_intime (hstart : airStart s m = (start, sfn)) (htime : dtExact s - start ≤ 2000000) (hsec : m.sections = [x]) (e : Bool) :
    s.intakeMsg p m e = State.intakeSection p m start sfn e false s.pruneIntake x := by
  have hstale : decide (2000000 < dtExact s.pruneIntake - start) = false := decide_eq_false (not_lt.2 htime)
  unfold State.intakeMsg
  rw [hstart]
  dsimp only
  rw [hstale, hsec]
  rfl

end OneBinding

/-! ### A symbol that stays incomplete (R337) -/

theorem dropSym_acts {s : State} {k : Nat} {y : Sym} (hy : NMap.get? s.core.scu.syms k = some y) {reason : Nat} (hreason : reason ≠ 0) :
    (s.dropSym k reason).core.scu.syms = NMap.erase s.core.scu.syms k ∧
      (s.dropSym k reason).core.scu.gone = s.core.scu.gone ++ [(y.binding, y.air)] ∧ Counted s (scuPortCtr y.port 7) 1 (s.dropSym k reason) ∧
      Counted s (scuPortCtr y.port (7 + reason)) 1 (s.dropSym k reason) := by
  generalize hu : s.modScu (fun u => { u with
      syms := NMap.erase u.syms k
      gone := u.gone ++ [(y.binding, y.air)]
      held := updAt u.held y.port
        (fun n => n - ((y.els.flatMap (fun e => e.prbs)).map (fun p => p.2.2.length)).foldl (· + ·) 0) }) = u
  have hdrop : s.dropSym k reason = ((u.bump (scuPortCtr y.port 7) 1).bump (scuPortCtr y.port (7 + reason)) 1).traceRec 0x20 y.port
      (leBytes 2 y.binding ++ leBytes 1 reason) := by
    rw [State.dropSym, hy, ← hu]
  obtain ⟨_, _, _, _, ht⟩ := traceRec_eq ((u.bump (scuPortCtr y.port 7) 1).bump (scuPortCtr y.port (7 + reason)) 1) 0x20 y.port
    (leBytes 2 y.binding ++ leBytes 1 reason) y.port
  have hne : scuPortCtr y.port (7 + reason) ≠ scuPortCtr y.port 7 := by
    unfold scuPortCtr
    omega
  rw [hdrop, ht]
  refine ⟨?_, ?_, ?_, ?_⟩
  · rw [← hu]; rfl
  · rw [← hu]; rfl
  · have h := (counted_bump u (scuPortCtr y.port 7) 1).trans (counted_bump_other (u.bump (scuPortCtr y.port 7) 1) 1 hne.symm)
    rw [← hu] at h ⊢
    exact h
  · have h := (counted_bump_other u 1 hne).trans (counted_bump (u.bump (scuPortCtr y.port 7) 1) (scuPortCtr y.port (7 + reason)) 1)
    rw [← hu] at h ⊢
    exact h

theorem symbolIncomplete_acts {s : State} {k : Nat} {y : Sym} (hrun : running s = true) (hy : NMap.get? s.core.scu.syms k = some y)
    (hphase : y.phase = 0) (hlate : y.began + 32000 < dtOf s) : exec (.symbolIncomplete k) s = .next (s.dropSym k 2) := by
  change execSymbolIncomplete k s = _
  unfold execSymbolIncomplete
  rw [hy]
  exact congrArg Host.Outcome.next (if_pos (by rw [hrun, hphase, decide_eq_true hlate]; rfl))

/-! ### Rebuilding (R343) -/

/-- What the rebuilding of an element makes of its symbol: one more element built, nothing finished. -/
structure Rebuilt (s t : State) (k : Nat) (y z : Sym) : Prop where
  syms : t.core.scu.syms = NMap.set s.core.scu.syms k z
  gone : t.core.scu.gone = s.core.scu.gone
  built : z.built = y.built + 1
  length : z.els.length = y.els.length
  named : (z.binding, z.air) = (y.binding, y.air)

theorem rebuildNext_stopped {s : State} {k : Nat} {y : Sym} {e : SymEl} (b : Binding) (hstop : (scuChain s e.chain).run = false) :
    ∃ z, Rebuilt s (s.rebuildNext k y b e) k y z ∧ z.delivered = y.delivered ∧ Counted s (scuPortCtr y.port 6) 1 (s.rebuildNext k y b e) := by
  unfold State.rebuildNext
  extract_lets c n next u
  have hc : (!c.run || c.owner != 0) = true := by rw [show c.run = false from hstop]; rfl
  rw [if_pos hc]
  exact ⟨next y, ⟨rfl, rfl, rfl, length_updAt _ _ _, rfl⟩, rfl, counted_bump s _ 1⟩

theorem scu_err (s : State) (c : Prop) [Decidable c] (i b src sid pg : Nat) : (if c then s.err1 i b src sid pg else s).core.scu = s.core.scu :=
  holds_ite (P := fun t : State => t.core.scu = s.core.scu) (scu_of_quiet (quiet_err1 s i b src sid pg)) rfl

theorem rebuildNext_rebuilt (s : State) (k : Nat) (y : Sym) (b : Binding) (e : SymEl) :
    ∃ z, Rebuilt s (s.rebuildNext k y b e) k y z ∧
      ((scuChain s e.chain).run = true → (scuChain s e.chain).owner = 0 → z.delivered = y.delivered + 1) := by
  unfold State.rebuildNext
  extract_lets c n next u
  by_cases hstop : (!c.run || c.owner != 0) = true
  · rw [if_pos hstop]
    refine ⟨next y, ⟨rfl, rfl, rfl, length_updAt _ _ _, rfl⟩, fun hrun howner => ?_⟩
    rw [show c.run = true from hrun, show c.owner = 0 from howner] at hstop
    exact absurd hstop (by decide)
  · rw [if_neg hstop]
    generalize elementTones b e = tones
    obtain ⟨tones, sat1⟩ := tones
    dsimp -zeta only
    generalize rebuild e.def_ tones = sig
    obtain ⟨xi, xq, sat2⟩ := sig
    dsimp -zeta only
    extract_lets o sat3 sat v w rec_ a d
    have hv : v.core.scu = u.core.scu := scu_err u _ 4 0 255 0xFFFF 0xFFFFFFFF
    have hw : w.core.scu = u.core.scu := (scu_err v _ 4 0 e.chain 0xFFFF 0xFFFFFFFF).trans hv
    have ha : a.core.scu = { u.core.scu with chains := a.core.scu.chains } := by
      rw [← hw]
      rfl
    have hd : d.core.scu = a.core.scu := by
      unfold d
      split
      · split
        · split
          · rfl
          · rfl
        · rfl
      · rfl
    refine ⟨{ next y with delivered := y.delivered + 1, saturated := y.saturated || sat },
      ⟨?_, ?_, rfl, length_updAt _ _ _, rfl⟩, fun _ _ => rfl⟩
    · rw [State.modScu_core, hd, ha]
      rfl
    · rw [State.modScu_core, hd, ha]
      rfl

theorem finishSym_gone (s : State) (k : Nat) (y : Sym) (b : Binding) :
    (s.finishSym k y b).core.scu.gone = s.core.scu.gone ++ [(y.binding, y.air)] := by
  unfold State.finishSym
  extract_lets u
  have hu : u.core.scu = s.core.scu := by
    unfold u
    split
    · split
      · split
        · split
          · split
            · rfl
            · rfl
          · rfl
        · rfl
      · rfl
    · rfl
  rw [State.modScu_core, hu]

theorem elementRebuild_eq {s : State} {k : Nat} {y : Sym} {e : SymEl} (hrun : running s = true) (hy : NMap.get? s.core.scu.syms k = some y)
    (hphase : y.phase = 1) (he : y.els[y.built]? = some e) (hfirst : firstComplete s y = true) {z : Sym}
    (hz : Rebuilt s (s.rebuildNext k y y.bound e) k y z) : exec (.elementRebuild k) s = .next (
      if y.els.length ≤ y.built + 1 then (s.rebuildNext k y y.bound e).finishSym k z y.bound else s.rebuildNext k y y.bound e) := by
  have hget : NMap.get? (s.rebuildNext k y y.bound e).core.scu.syms k = some z := by rw [hz.syms, NMap.get_set]
  change execElementRebuild k s = _
  unfold execElementRebuild
  rw [hy]
  dsimp only
  rw [if_neg (by rw [hrun, hphase, hfirst]; decide), he]
  dsimp only
  rw [hget]
  dsimp only
  rw [hz.built, hz.length]

/-! ### Test blocks and references (R349, R356) -/

/-- What a test block leaves, of the chain's answer and its peak (R349). -/
def testBlock (s : State) (c : Nat) (o : ChainOut) (n : Nat) : State :=
  let u := if o.sat then s.err1 4 0 c else s
  let u := u.modScuChain c (fun c => { c with dcI := o.dcI, dcQ := o.dcQ })
  let u := u.modScu (fun x => { x with lastTest := NMap.set x.lastTest c (dtOf u) })
  (u.bump (scuChainCtr c) 1).setCtr (scuChainCtr (32 + c)) (n + 2 ^ 32 * leNat (leInt 2 (o.fineI.getD n 0)))

theorem testInjectionBlock_eq {s : State} {c : Nat} (hrun : running s = true) (h968 : s.hw.is968 = true) (hc : c < 32)
    (hon : (scuChain s c).run = true) (howner : (scuChain s c).owner = 1)
    (hdue : ∀ q, NMap.get? s.core.scu.lastTest c = some q → q / 1000000 < dtOf s / 1000000) :
    ∃ o n, exec (.testInjectionBlock c) s = .next (testBlock s c o n) := by
  refine ⟨_, _, congrArg Host.Outcome.next (if_pos ?_)⟩
  have htrue : (match NMap.get? s.core.scu.lastTest c with
    | some t => decide (t / 1000000 < dtOf s / 1000000)
    | none => true) = true := by
    cases hq : NMap.get? s.core.scu.lastTest c with
    | none => rfl
    | some q => exact decide_eq_true (hdue q hq)
  simp only [Bool.and_eq_true, beq_iff_eq, decide_eq_true_eq]
  exact ⟨⟨⟨⟨⟨hrun, h968⟩, hc⟩, hon⟩, howner⟩, htrue⟩

theorem testBlock_acts (s : State) (c : Nat) (o : ChainOut) (n : Nat) :
    NMap.get? (testBlock s c o n).core.scu.lastTest c = some (dtOf s) ∧ Counted s (scuChainCtr c) 1 (testBlock s c o n) ∧
      ∀ b, b ≠ c → scuChain (testBlock s c o n) b = scuChain s b := by
  unfold testBlock
  extract_lets u v w
  have hu : u.core.scu = s.core.scu := scu_err s _ 4 0 c 0xFFFF 0xFFFFFFFF
  have hcount : u.core.obs.counters = s.core.obs.counters :=
    holds_ite (P := fun t : State => t.core.obs.counters = s.core.obs.counters) (counters_of_quiet (quiet_err1 s 4 0 c 0xFFFF 0xFFFFFFFF)) rfl
  have hdt : dtOf u = dtOf s := holds_ite (P := fun t : State => dtOf t = dtOf s) (dtOf_of_quiet (quiet_err1 s 4 0 c 0xFFFF 0xFFFFFFFF)) rfl
  refine ⟨?_, ?_, fun b hb => ?_⟩
  · exact (NMap.get_set v.core.scu.lastTest c (dtOf v)).trans (congrArg some hdt)
  · have hne : scuChainCtr c ≠ scuChainCtr (32 + c) := by
      unfold scuChainCtr
      omega
    have hbump := counted_bump w (scuChainCtr c) 1
    rw [Counted, show w.core.obs.counters = s.core.obs.counters from hcount] at hbump
    rw [Counted, ← hbump, NMap.getD, NMap.getD]
    exact congrArg (Option.getD · 0) (NMap.get_set_other _ _ _ _ hne)
  · unfold scuChain
    change (updAt u.core.scu.chains c _).getD b {} = _
    rw [getD_updAt_other _ _ _ _ _ hb, hu]

theorem testInjectionBlock_acts {s : State} {c : Nat} (hrun : running s = true) (h968 : s.hw.is968 = true) (hc : c < 32)
    (hon : (scuChain s c).run = true) (howner : (scuChain s c).owner = 1)
    (hdue : ∀ q, NMap.get? s.core.scu.lastTest c = some q → q / 1000000 < dtOf s / 1000000) :
    ∃ t, exec (.testInjectionBlock c) s = .next t ∧ NMap.get? t.core.scu.lastTest c = some (dtOf s) ∧ Counted s (scuChainCtr c) 1 t ∧
      ∀ b, b ≠ c → scuChain t b = scuChain s b := by
  obtain ⟨o, n, hexec⟩ := testInjectionBlock_eq hrun h968 hc hon howner hdue
  exact ⟨_, hexec, testBlock_acts s c o n⟩

theorem NMap.get_map_keyed {α : Type} (f : Nat → α → α) (m : NMap α) (k : Nat) :
    NMap.get? (m.map (fun p => (p.1, f p.1 p.2))) k = (NMap.get? m k).map (f k) := by
  induction m with
  | nil => rfl
  | cons p m ih =>
    obtain ⟨j, v⟩ := p
    simp only [List.map_cons, NMap.get?]
    split
    · next h => rw [h]; rfl
    · split
      · rfl
      · exact ih

theorem dropRefs_binding (s : State) (f : Nat → Binding → Bool) (n : Nat) :
    bindingAt (s.dropRefs f) n = (bindingAt s n).map (fun b => if f n b then { b with ref := none } else b) :=
  NMap.get_map_keyed (fun n b => if f n b then { b with ref := none } else b) _ n

theorem refTimeout_acts {s : State} {n : Nat} {b : Binding} {r : Ref} (hrun : running s = true) (hb : bindingAt s n = some b)
    (hr : b.ref = some r) (hlate : r.lastValid + 1000000000 < dtOf s) :
    ∃ t, exec (.refTimeout n) s = .next t ∧ bindingAt t n = some { b with ref := none } ∧ ∀ m, m ≠ n → bindingAt t m = bindingAt s m := by
  generalize hf : (fun (i : Nat) (b : Binding) => i == n && (match b.ref with
    | some r => decide (r.lastValid + 1000000000 < dtOf s)
    | none => false)) = f
  have hexec : exec (.refTimeout n) s = .next (s.dropRefs f) := by
    subst hf
    exact congrArg Host.Outcome.next (if_pos hrun)
  refine ⟨_, hexec, ?_, fun m hm => ?_⟩
  · have hfn : f n b = true := by
      rw [← hf]
      simp [hr, hlate]
    exact (dropRefs_binding s f n).trans (by rw [hb, Option.map_some, if_pos hfn])
  · have hfm (c : Binding) : f m c = false := by
      rw [← hf]
      simp [hm]
    refine (dropRefs_binding s f m).trans ?_
    simp [hfm]

/-! ### The obligation -/

/-- Settles O52: frames by what they are; a section by its one binding and symbol; the symbols' drops, elements and references one by one. -/
theorem soundingsTakeEffect : Obligations.SoundingsTakeEffect := by
  unfold Obligations.SoundingsTakeEffect
  refine fun s hrun => ⟨fun p f e hp hup h968 => ⟨fun hf => ?_, fun hf => ?_, fun m start sfn hf hstart => ⟨fun hstale hnone hnew => ?_,
    fun x bi b k y htime hsec hbind hport hmatch hocc hmeets hgone hsym hy hphase => ?_⟩⟩, fun k y hy hphase hlate => ?_,
    fun k y e hy hphase he hfirst => ?_, fun c => testInjectionBlock_acts hrun, fun n b r => refTimeout_acts hrun⟩
  · rw [epFrameRx_eq hrun hp hup h968, hf]
  · rw [epFrameRx_eq hrun hp hup h968, hf]
  · have hexec := epFrameRx_eq hrun hp hup h968 f e
    rw [hf] at hexec
    dsimp only at hexec
    rw [intakeMsg_stale hstart hstale hnone hnew e] at hexec
    exact ⟨_, hexec, counted_bump s _ 1, rfl, rfl⟩
  · intro add n y' hheld hfifo hpart
    have hstored := storeSection_stores (s := s.pruneIntake) hy (eaxc := m.eaxc) (x := x) (b := b) (add := add) rfl (y' := y') rfl hheld hfifo hpart e
    have hexec := epFrameRx_eq hrun hp hup h968 f e
    rw [hf] at hexec
    dsimp only at hexec
    rw [intakeMsg_intime hstart htime hsec,
      intakeSection_one (s := s.pruneIntake) hbind hport hmatch hocc hmeets hgone hsym hphase e, hstored] at hexec
    exact ⟨_, hexec, NMap.get_set s.pruneIntake.core.scu.syms k y', rfl, rfl⟩
  · obtain ⟨hsyms, hgone, h7, h9⟩ := dropSym_acts hy (reason := 2) (by decide)
    exact ⟨_, symbolIncomplete_acts hrun hy hphase hlate, hsyms, hgone, h7, h9⟩
  · obtain ⟨z, hz, hdeliver⟩ := rebuildNext_rebuilt s k y y.bound e
    have hexec := elementRebuild_eq hrun hy hphase he hfirst hz
    refine ⟨fun hmore => ?_, fun hlast => ?_⟩
    · rw [if_neg (by omega)] at hexec
      have hget : NMap.get? (s.rebuildNext k y y.bound e).core.scu.syms k = some z := by rw [hz.syms, NMap.get_set]
      refine ⟨_, z, hexec, hget, hz.built, hdeliver, fun hstop => ?_⟩
      obtain ⟨z', hz', hkept, hcount⟩ := rebuildNext_stopped (y := y) (k := k) y.bound hstop
      rw [hz'.syms, NMap.get_set, Option.some.injEq] at hget
      exact ⟨hget ▸ hkept, hcount⟩
    · rw [if_pos (by omega)] at hexec
      exact ⟨_, hexec, by rw [finishSym_gone, hz.gone, hz.named]⟩

end Sys2Proof.Machine
end

section
/-! Accesses and errors on the host bus (R13, R81, R95, R96, R98, R398, R534, R535). -/
namespace Sys2Proof.Machine

/-! ### Registers -/

theorem registerWrite_poisoned (s : State) (off w v : Nat) : exec (.registerWrite off w v true) s = .next (withAer s (0x1000, 0)) := by
  change execRegisterWrite off w v true s = _
  have hcorr : s.pcie.aerCorr ||| (0 : W32) = s.pcie.aerCorr := BitVec.or_zero
  rw [withAer, hcorr]
  rfl

theorem write32_msix (s : State) {a : Nat} (hlow : 0x8000 ≤ a) (hhigh : a < 0x8400) (v : Nat) : s.write32 a v = s.writeMsix (a - 0x8000) v := by
  rw [State.write32]
  simp [show ¬a < 0x4000 by omega, show ¬a < 0x4040 by omega, show a ≠ 0x4040 by omega, show ¬a < 0x4200 by omega,
    show a ≠ 0x4200 by omega, show a ≠ 0x4204 by omega, show a ≠ 0x4208 by omega, hlow, hhigh]

theorem write32_msixData {s : State} {k : Nat} (hk : k < 64) (hpba : s.pcie.pba.getLsbD k = false) (v : Nat) :
    s.write32 (0x8000 + 16 * k + 8) v =
      { s with pcie := { s.pcie with table := updAt s.pcie.table k (fun e => { e with data := BitVec.ofNat 32 v }) } } := by
  rw [write32_msix s (by omega) (by omega), show 0x8000 + 16 * k + 8 - 0x8000 = 16 * k + 8 by omega, State.writeMsix]
  simp [show (16 * k + 8) / 16 = k by omega, show (16 * k + 8) % 16 = 8 by omega, hpba]

theorem readUnified_clean {s : State} {req addr : Nat} {x : Page} (hpage : pageAt s (addr / 65536) = some x) (hpoison : x.poison = false)
    (hlive : genLive s (addr / 65536) x = true) (htorn : NMap.has s.core.tiers.torn (addr / 4096) = false) :
    s.readUnified req addr .clean = (.data, s) := by
  unfold State.readUnified
  dsimp only
  rw [hpage]
  dsimp only
  rw [htorn, hpoison, hlive]
  rfl

section Running
variable {s : State} (hrun : running s = true)
include hrun

theorem registerWrite_word {a : Nat} (ha : a % 4 = 0) (hlow : 0x4000 ≤ a) (v : Nat) :
    exec (.registerWrite a 4 v false) s = .next (s.write32 a (v % 2 ^ 32)) :=
  congrArg Host.Outcome.next (barWrite_low hrun ha hlow v)

theorem registerWrite_devStatus (v : Nat) : exec (.registerWrite 0x4208 4 v false) s = .next (s.modSys (fun y =>
    { y with evtLost := y.evtLost && !(v % 2 ^ 32).testBit 8, hatchProto := y.hatchProto && !(v % 2 ^ 32).testBit 9 })) :=
  registerWrite_word hrun (by decide) (by decide) v

theorem registerWrite_hatchDone (v : Nat) :
    exec (.registerWrite 0x4200 8 v false) s = .next (s.modHat (fun a => { a with done := a.done &&& ~~~(BitVec.ofNat 64 v) })) :=
  congrArg Host.Outcome.next (barWrite_full hrun (by decide) (by decide) (by decide) v)

theorem registerWrite_msixData {k : Nat} (hk : k < 64) (hpba : s.pcie.pba.getLsbD k = false) (v : Nat) :
    exec (.registerWrite (0x8000 + 16 * k + 8) 4 v false) s =
      .next { s with pcie := { s.pcie with table := updAt s.pcie.table k (fun e => { e with data := BitVec.ofNat 32 (v % 2 ^ 32) }) } } := by
  rw [registerWrite_word hrun (by omega) (by omega), write32_msixData hk hpba]

/-- R81: an address without a register takes no write. -/
theorem registerWrite_none {off : Nat} (hlow : 0x4210 ≤ off) (hhigh : off < 0x8000) (v : Nat) : exec (.registerWrite off 4 v false) s = .next s := by
  by_cases halign : off % 4 = 0
  · rw [registerWrite_word hrun halign (by omega), State.write32]
    simp [show ¬off < 0x4000 by omega, show ¬off < 0x4040 by omega, show off ≠ 0x4040 by omega, show ¬off < 0x4200 by omega,
      show off ≠ 0x4200 by omega, show off ≠ 0x4204 by omega, show off ≠ 0x4208 by omega, show ¬0x8000 ≤ off by omega,
      show ¬0x10000 ≤ off by omega, show off ≠ 0x20018 by omega, show off ≠ 0x2001C by omega, show off ≠ 0x20020 by omega,
      show off ≠ 0x20024 by omega, show off ≠ 0x20100 by omega, show ¬0x20400 ≤ off by omega, show ¬0x180000 ≤ off by omega]
  · refine congrArg Host.Outcome.next ?_
    simp [State.barWrite, hrun, show ¬off < 0x4000 by omega, halign]

/-! ### BAR2 (R398) -/

theorem bar2Write_discards (a : Nat) : exec (.bar2Write a) s = .next (s.bump (tierCtr 9) 1) := congrArg Host.Outcome.next (if_pos hrun)

theorem bar2Read_eq (a n : Nat) (f : ReadFinding) : exec (.bar2Read a n f) s = .next (s.bar2 a n f) := congrArg Host.Outcome.next (if_pos hrun)

theorem bar2Read_denied {a n : Nat} (h : s.core.sys.conf = true ∨ pageSealed s (a / 65536) = true ∨ 65536 * rangePages s < a + n)
    (f : ReadFinding) : exec (.bar2Read a n f) s = .next ((s.bump (tierCtr 9) 1).emit (.readData (List.replicate n 0) false)) := by
  rw [bar2Read_eq hrun, State.bar2, if_pos]
  rcases h with h | h | h <;> simp [h]

theorem bar2Read_reads {a n : Nat} {x : Page} (hconf : s.core.sys.conf = false) (hranges : s.core.tiers.ranges ≠ [])
    (hin : a + n ≤ 65536 * rangePages s) (hsealed : pageSealed s (a / 65536) = false) (hpage : pageAt s (a / 65536) = some x)
    (hpoison : x.poison = false) (hlive : genLive s (a / 65536) x = true) (htorn : NMap.has s.core.tiers.torn (a / 4096) = false) :
    exec (.bar2Read a n .clean) s = .next (({ s with free := s.free + 1 } : State).emit (.readData
      (if pageBlank s (a / 65536) = true then List.replicate n 0 else padTo n (Config.freeBytes 2 s.free)) false)) := by
  have hopen : (s.core.sys.conf || s.core.tiers.ranges.isEmpty || decide (65536 * rangePages s < a + n) || pageSealed s (a / 65536)) = false := by
    simp [hconf, hranges, hsealed, hin]
  rw [bar2Read_eq hrun, State.bar2]
  dsimp only
  rw [hopen, readUnified_clean hpage hpoison hlive htorn]
  rfl

end Running

/-! ### Errors of the link layer (R534) -/

section Endpoint
variable {s : State} (hup : endpointUp s = true)
include hup

theorem aer_up (u c : W32) : s.aer u c = withAer s (u, c) := if_pos hup

theorem unsupportedRequest_answers : exec .unsupportedRequest s = .next ((withAer s (0x100000, 0)).emit .unsupported) := by
  change execUnsupportedRequest s = _
  rw [execUnsupportedRequest, if_pos hup, aer_up hup]
  rfl

theorem unexpectedCompletion_logs : exec .unexpectedCompletion s = .next (withAer s (0x10000, 0x2000)) := by
  change execUnexpectedCompletion s = _
  rw [execUnexpectedCompletion, aer_up hup]
  rfl

theorem linkLayerError_logs (e : LinkError) : exec (.linkLayerError e) s = .next (withAer s (linkErrorBits e)) := by
  change execLinkLayerError e s = _
  unfold execLinkLayerError
  cases e <;> exact congrArg Host.Outcome.next (aer_up hup _ _)

end Endpoint

/-! ### Reads that fail (R535) -/

theorem deaf_aerUncorr : Deaf (fun s : State => s.pcie.aerUncorr) :=
  ⟨fun _ _ => rfl, fun _ _ => rfl, fun _ _ _ => rfl, fun _ _ => rfl, fun _ _ _ _ _ => rfl⟩

theorem place_aerUncorr (s : State) (h st : Nat) (pl : List Byte) : (s.place h st pl).pcie.aerUncorr = s.pcie.aerUncorr :=
  place_unseen (fun s => s.pcie.aerUncorr) (fun _ _ _ _ _ _ _ _ => rfl) s h st pl

theorem err1_aerUncorr (s : State) (i b src sid pg : Nat) : (s.err1 i b src sid pg).pcie.aerUncorr = s.pcie.aerUncorr :=
  deaf_aerUncorr.err1 (fun _ _ => rfl) s i b src sid pg

theorem dmaFault_aer (s : State) (p : Bool) (sid : Nat) : (s.dmaFault p sid).pcie.aerUncorr.getLsbD (if p then 12 else 14) = true := by
  unfold State.dmaFault
  dsimp only
  rw [err1_aerUncorr]
  cases p <;> simp

theorem Open.dmaFault {s u : State} {h : Nat} (o : Open s h u) (p : Bool) (sid : Nat) : Open s h (u.dmaFault p sid) :=
  o.step (err1_hat _ _ _ _ _ _) (time_of_quiet (quiet_err1 _ _ _ _ _ _))

theorem quiet_dmaFault (s : State) (p : Bool) (sid : Nat) : quiet (s.dmaFault p sid) = quiet s := quiet_err1 _ _ _ _ _ _

/-- The read of an accepted CRATE_LOAD fails: INTEGRITY, with an error record for the crate. -/
theorem crateLoad_dmaFails {s : State} {h n addr len : Nat} (hh : h < 64) (hrun : running s = true)
    (hj : jobAt s h = some (.crateLoad n addr len)) (q : Bool) :
    ∃ t, exec (.dmaCompletionTimeout (.command h) q) s = .next t ∧ Answered s h 0x30 [] t ∧ t.core.work = s.core.work ∧
      t.pcie.aerUncorr.getLsbD (if q then 12 else 14) = true := by
  generalize hu : (s.emit (.dmaRead addr len)).dmaFault q = u
  have hopen : Open s h (u.err1 3 2 n) := by
    rw [← hu]
    exact (((open_of_job hh hj).step (v := s.emit (.dmaRead addr len)) rfl rfl).dmaFault q _).step (err1_hat _ _ _ _ _ _)
      (time_of_quiet (quiet_err1 _ _ _ _ _ _))
  refine ⟨(u.err1 3 2 n).place h 0x30, ?_, hopen.answered_place 0x30 [] (by decide), ?_, ?_⟩
  · refine congrArg Host.Outcome.next ?_
    change s.dmaCommandFails h q = _
    rw [State.dmaCommandFails, hj]
    dsimp only
    rw [if_pos hrun, State.crateLoadEnds, hj, ← hu]
    rfl
  · rw [work_of_quiet (quiet_place _ _ _ _), work_of_quiet (quiet_err1 u _ _ _ _ _), ← hu, work_of_quiet (quiet_dmaFault _ q _)]
    rfl
  · rw [place_aerUncorr, err1_aerUncorr, ← hu]
    exact dmaFault_aer _ q _

theorem launchQueueBody_failed {r : Req} {s : State} {q : Bool} (hp : r.u8 0 ≤ 1) (hslot : r.u8 1 ≤ 63) (hlow : 64 ≤ r.u16 2)
    (hhigh : r.u16 2 ≤ 1518) (hfree : NMap.has s.core.air.launch (64 * r.u8 0 + r.u8 1) = false) :
    launchQueueBody (.failed q) r s = ((s.emit (.dmaRead (r.u64 8) (r.u16 2 - 4))).dmaFault q).place r.h 0x30 := by
  unfold launchQueueBody
  dsimp only
  rw [guarded_pass (by simp [hp, hslot, hlow, hhigh, hfree])]
  rfl

theorem opOf_takes {s : State} {h op : Nat} {p : List Byte} (ht : takes s h op p = true) : (reqOf s h).op = op := by
  simp only [takes, Bool.and_eq_true, beq_iff_eq] at ht
  obtain ⟨⟨⟨⟨-, hop⟩, -⟩, -⟩, -⟩ := ht
  exact hop

/-- The read of a LAUNCH_QUEUE fails: INTEGRITY, and no slot is filled. -/
theorem launchQueue_dmaFails {s : State} {h : Nat} {p : List Byte} (q : Bool) (ht : takes s h 0x0607 p = true) (hj : jobAt s h = none)
    (hp : fieldAt p 0 1 ≤ 1) (hslot : fieldAt p 1 1 ≤ 63) (hlow : 64 ≤ fieldAt p 2 2) (hhigh : fieldAt p 2 2 ≤ 1518)
    (hfree : NMap.has s.core.air.launch (64 * fieldAt p 0 1 + fieldAt p 1 1) = false) :
    ∃ t, exec (.dmaCompletionTimeout (.command h) q) s = .next t ∧ Answered s h 0x30 [] t ∧ t.core.air.launch = s.core.air.launch ∧
      t.pcie.aerUncorr.getLsbD (if q then 12 else 14) = true := by
  have hair : (taken s h).core.air = s.core.air := taken_unseen (fun s => s.core.air) (fun _ _ _ _ _ _ => rfl) s h
  have hbody := launchQueueBody_failed (r := requestIn s h p) (s := taken s h) (q := q) hp hslot hlow hhigh (by rw [hair]; exact hfree)
  generalize hu : ((taken s h).emit (.dmaRead (fieldAt p 8 8) (fieldAt p 2 2 - 4))).dmaFault q = u
  have hopen : Open s h u := by
    rw [← hu]
    exact ((open_taken ht).step (v := (taken s h).emit (.dmaRead (fieldAt p 8 8) (fieldAt p 2 2 - 4))) rfl rfl).dmaFault q _
  refine ⟨u.place h 0x30, ?_, hopen.answered_place 0x30 [] (by decide), ?_, ?_⟩
  · refine congrArg Host.Outcome.next ?_
    change s.dmaCommandFails h q = _
    rw [State.dmaCommandFails, hj]
    dsimp only
    rw [opOf_takes ht]
    change serve 0x0607 h (launchQueueBody (.failed q)) s = _
    rw [serve_takes _ ht, hbody, ← hu]
    rfl
  · rw [air_of_quiet (quiet_place _ _ _ _), ← hu, air_of_quiet (quiet_dmaFault _ q _), State.emit_core, hair]
  · rw [place_aerUncorr, ← hu]
    exact dmaFault_aer _ q _

/-- Settles O32: register by register; BAR2 by what it may show; the AER bits; the reads that fail through the command's own part. -/
theorem busAccessesTakeEffect : Obligations.BusAccessesTakeEffect := by
  unfold Obligations.BusAccessesTakeEffect
  exact fun s => ⟨registerWrite_poisoned s, fun hrun => ⟨registerWrite_devStatus hrun, registerWrite_hatchDone hrun,
    fun k v hk hpba => registerWrite_msixData hrun hk hpba v, fun off v hlow hhigh => registerWrite_none hrun hlow hhigh v,
    bar2Write_discards hrun, fun a n f h => bar2Read_denied hrun h f, fun a n x => bar2Read_reads hrun⟩,
    fun hup => ⟨unsupportedRequest_answers hup, unexpectedCompletion_logs hup, linkLayerError_logs hup⟩,
    fun h q n addr len hh hrun hj => crateLoad_dmaFails hh hrun hj q, fun h q p => launchQueue_dmaFails q⟩

end Sys2Proof.Machine
end

section
/-! Memory at work (R401 to R404, R406 to R408): heat, migration, the patrol scrub, late accesses. -/
namespace Sys2Proof.Machine

/-! ### Frames taken and given back -/

/-- The lists of free frames of both tiers. -/
def withFree (t : Tiers) (l : List Nat × Nat × List Nat × Nat) : Tiers := { t with freeNear := l.1, nextNear := l.2.1, freeFar := l.2.2.1, nextFar := l.2.2.2 }

theorem takeFrame_free {s u : State} {near : Bool} {f : Nat} (h : takeFrame s near = some (f, u)) :
    ∃ l, u = s.modTiers (fun t => withFree t l) := by
  unfold takeFrame at h
  dsimp only at h
  have given {g : Nat} {v : State} {l : List Nat × Nat × List Nat × Nat} (hv : some (g, v) = some (f, u))
      (hl : v = s.modTiers (fun t => withFree t l)) : ∃ l, u = s.modTiers (fun t => withFree t l) := by
    simp only [Option.some.injEq, Prod.mk.injEq] at hv
    exact ⟨l, hv.2 ▸ hl⟩
  generalize ht : s.core.tiers = t at h
  have hl (a : List Nat) (b : Nat) (c : List Nat) (d : Nat) : s.modTiers (fun t => withFree t (a, b, c, d)) =
      s.modTiers (fun _ => withFree t (a, b, c, d)) := by simp only [State.modTiers, ht]
  split at h <;> split at h
  · next l _ => exact given (l := (l, t.nextNear, t.freeFar, t.nextFar)) h (by rw [hl]; simp only [State.modTiers, ht]; rfl)
  · split at h
    · exact given (l := (t.freeNear, t.nextNear + 1, t.freeFar, t.nextFar)) h (by rw [hl]; simp only [State.modTiers, ht]; rfl)
    · cases h
  · next l _ => exact given (l := (t.freeNear, t.nextNear, l, t.nextFar)) h (by rw [hl]; simp only [State.modTiers, ht]; rfl)
  · split at h
    · exact given (l := (t.freeNear, t.nextNear, t.freeFar, t.nextFar + 1)) h (by rw [hl]; simp only [State.modTiers, ht]; rfl)
    · cases h

theorem freeFrame_free (s : State) (near : Bool) (f : Nat) : ∃ l, s.freeFrame near f = s.modTiers (fun t => withFree t l) := by
  have hsame : s = s.modTiers (fun t => withFree t (s.core.tiers.freeNear, s.core.tiers.nextNear, s.core.tiers.freeFar, s.core.tiers.nextFar)) := rfl
  unfold State.freeFrame
  split
  · exact ⟨_, hsame⟩
  · split
    · exact ⟨(s.core.tiers.freeNear ++ [f], s.core.tiers.nextNear, s.core.tiers.freeFar, s.core.tiers.nextFar), rfl⟩
    · exact ⟨(s.core.tiers.freeNear, s.core.tiers.nextNear, s.core.tiers.freeFar ++ [f], s.core.tiers.nextFar), rfl⟩

theorem moveFrame_rest (s : State) (p : Nat) (near : Bool) :
    (s.moveFrame p near).core.tiers.retired = s.core.tiers.retired ∧ (s.moveFrame p near).core.obs = s.core.obs := by
  unfold State.moveFrame
  split
  · exact ⟨rfl, rfl⟩
  · split
    · exact ⟨rfl, rfl⟩
    · next x _ _ f u hu =>
      obtain ⟨l, rfl⟩ := takeFrame_free hu
      obtain ⟨l', hfree⟩ := freeFrame_free ((s.modTiers (fun t => withFree t l)).setPage p { x with near := near, frame := f }) x.near x.frame
      rw [hfree]
      exact ⟨rfl, rfl⟩

/-! ### Frames retired (R407, R408) -/

theorem quiet_tiers {s t : State} (h : quiet t = quiet s) : t.core.tiers = s.core.tiers := (congrArg Core.tiers h : (quiet t).tiers = (quiet s).tiers)

/-- What retiring a frame leaves: the frame is retired, the pages stand, and of the counters only that of retired frames moves. -/
theorem retireFrame_facts {s : State} {near : Bool} {f : Nat} (h : frameKey near f ∉ s.core.tiers.retired) :
    frameKey near f ∈ (s.retireFrame near f).core.tiers.retired ∧ (s.retireFrame near f).core.tiers.pages = s.core.tiers.pages ∧
      (s.retireFrame near f).core.tiers.ranges = s.core.tiers.ranges ∧
      ∀ i, i ≠ 7 → Counted s (tierCtr i) 0 (s.retireFrame near f) := by
  unfold State.retireFrame
  extract_lets k
  rw [if_neg (by simpa using h)]
  generalize hu : (s.modTiers (fun t =>
    { t with
      retired := t.retired ++ [k]
      freeNear := if near then t.freeNear.filter (· != f) else t.freeNear
      freeFar := if near then t.freeFar else t.freeFar.filter (· != f) })).bump (tierCtr 7) 1 = u
  have htiers := quiet_tiers (quiet_err1 u 0 4 255 0xFFFF 0xFFFFFFFF)
  have hctr := counters_of_quiet (quiet_err1 u 0 4 255 0xFFFF 0xFFFFFFFF)
  rw [htiers]
  refine ⟨?_, ?_, ?_, fun i hi => ?_⟩
  · rw [← hu]
    simp [State.bump, State.modTiers, k]
  · rw [← hu]; rfl
  · rw [← hu]; rfl
  · rw [Counted, hctr, ← hu]
    exact counted_bump_other s 1 (by unfold tierCtr; omega)

theorem pageAt_of_tiers {s t : State} (hpages : t.core.tiers.pages = s.core.tiers.pages) (hranges : t.core.tiers.ranges = s.core.tiers.ranges)
    (p : Nat) : pageAt t p = pageAt s p := by
  unfold pageAt areaOf
  rw [hpages, hranges]

theorem pageOfFrame_of_tiers {s t : State} (hpages : t.core.tiers.pages = s.core.tiers.pages) (hranges : t.core.tiers.ranges = s.core.tiers.ranges)
    (near : Bool) (f : Nat) : pageOfFrame t near f = pageOfFrame s near f := by
  unfold pageOfFrame
  rw [hpages, hranges]

theorem corrected_facts {s : State} {near : Bool} {f : Nat} (h : frameKey near f ∉ s.core.tiers.retired) (n : Nat) :
    Counted s (tierCtr (if near = true then 4 else 5)) n (s.corrected near f n) ∧
      (16 ≤ n → frameKey near f ∈ (s.corrected near f n).core.tiers.retired) := by
  unfold State.corrected
  extract_lets now k u times v w
  have hv : Counted s (tierCtr (if near = true then 4 else 5)) n v := counted_bump s _ n
  have hctr (t : State) (ht : ∀ i, i ≠ 7 → Counted v (tierCtr i) 0 t) : Counted s (tierCtr (if near = true then 4 else 5)) n t :=
    hv.trans (ht _ (by cases near <;> decide))
  obtain ⟨hret, -, -, hcount⟩ := retireFrame_facts (s := v) h
  by_cases hfull : (decide (16 ≤ times.length) && !v.core.tiers.retired.contains k) = true
  · rw [if_pos hfull]
    cases pageOfFrame w near f with
    | none => exact ⟨hctr w hcount, fun _ => hret⟩
    | some p =>
      obtain ⟨hretired, hobs⟩ := moveFrame_rest w p near
      dsimp only
      rw [hretired]
      refine ⟨hctr _ fun i hi => ?_, fun _ => hret⟩
      rw [Counted, hobs]
      exact hcount i hi
  · rw [if_neg hfull]
    refine ⟨hv, fun hn => absurd ?_ hfull⟩
    have hlen : 16 ≤ times.length := by
      unfold times
      rw [List.length_append, List.length_replicate]
      omega
    rw [decide_eq_true hlen]
    simpa [k, show v.core.tiers.retired = s.core.tiers.retired from rfl] using h

/-- A page of no owner is poisoned where it stands. -/
theorem poisonPage_unowned {s : State} {p : Nat} {x : Page} (hx : pageAt s p = some x) (huse : x.use = 0) :
    (s.poisonPage p).core.tiers.retired = s.core.tiers.retired ∧ ∃ y, pageAt (s.poisonPage p) p = some y ∧ y.poison = true := by
  generalize hu : (if x.poison then s else (s.setPage p { x with poison := true }).bump (tierCtr 6) 1) = u
  have howner : s.poisonPage p = u := by
    unfold State.poisonPage
    rw [hx]
    dsimp only
    rw [hu, huse]
    rfl
  rw [howner, ← hu]
  cases hp : x.poison with
  | true => exact ⟨rfl, x, hx, hp⟩
  | false =>
    refine ⟨rfl, { x with poison := true }, ?_, rfl⟩
    unfold pageAt
    rw [show ((if false = true then s else (s.setPage p { x with poison := true }).bump (tierCtr 6) 1)).core.tiers.pages =
      NMap.set s.core.tiers.pages p { x with poison := true } from rfl, NMap.get_set]

theorem uncorrectable_facts {s : State} {near : Bool} {f : Nat} (h : frameKey near f ∉ s.core.tiers.retired)
    (hfree : ∀ p x, pageOfFrame s near f = some p → pageAt s p = some x → x.use = 0) (req : Nat) :
    frameKey near f ∈ (s.uncorrectable near f req).core.tiers.retired ∧
      ∀ p x, pageOfFrame s near f = some p → pageAt s p = some x →
        ∃ y, pageAt (s.uncorrectable near f req) p = some y ∧ y.poison = true := by
  unfold State.uncorrectable
  cases hp : pageOfFrame s near f with
  | none =>
    have htiers := quiet_tiers (quiet_err1 s 0 0 req 0xFFFF 0xFFFFFFFF)
    exact ⟨(retireFrame_facts (by rw [htiers]; exact h)).1, fun p x hq => absurd hq (by simp)⟩
  | some p =>
    have htiers := quiet_tiers (quiet_err1 s 0 0 req 0xFFFF p)
    obtain ⟨hret, hpages, hranges, -⟩ := retireFrame_facts (s := s.err1 0 0 req 0xFFFF p) (by rw [htiers]; exact h)
    have hat : pageAt ((s.err1 0 0 req 0xFFFF p).retireFrame near f) p = pageAt s p :=
      pageAt_of_tiers (by rw [hpages, htiers]) (by rw [hranges, htiers]) p
    dsimp only
    cases hx : pageAt s p with
    | none =>
      rw [State.poisonPage, hat, hx]
      refine ⟨hret, fun q x hq hqx => ?_⟩
      rw [← Option.some.inj hq, hx] at hqx
      exact absurd hqx (by simp)
    | some x =>
      obtain ⟨hkeep, hpoison⟩ := poisonPage_unowned (hat.trans hx) (hfree p x hp hx)
      refine ⟨by rw [hkeep]; exact hret, fun q y hq _ => ?_⟩
      rw [← Option.some.inj hq]
      exact hpoison

/-! ### Migration (R402, R403) -/

theorem takeFrame_near_nil {s : State} (hl : s.core.tiers.freeNear = []) : takeFrame s true =
    if s.core.tiers.nextNear < nearFrames s then
      some (s.core.tiers.nextNear, s.modTiers (fun t => { t with nextNear := t.nextNear + 1 })) else none := by
  unfold takeFrame
  dsimp only
  rw [if_pos rfl, hl]

theorem takeFrame_near_cons {s : State} {g : Nat} {l : List Nat} (hl : s.core.tiers.freeNear = g :: l) :
    takeFrame s true = some (g, s.modTiers (fun t => { t with freeNear := l })) := by
  unfold takeFrame
  dsimp only
  rw [if_pos rfl, hl]

theorem takeFrame_near_lists {s u v : State} {f : Nat} (h : takeFrame s true = some (f, u)) (hlist : v.core.tiers.freeNear = s.core.tiers.freeNear)
    (hnext : v.core.tiers.nextNear = s.core.tiers.nextNear) (hhw : nearFrames v = nearFrames s) : ∃ w, takeFrame v true = some (f, w) := by
  cases hl : s.core.tiers.freeNear with
  | nil =>
    rw [takeFrame_near_nil hl] at h
    rw [takeFrame_near_nil (hlist.trans hl), hnext, hhw]
    by_cases hlt : s.core.tiers.nextNear < nearFrames s
    · rw [if_pos hlt] at h ⊢
      simp only [Option.some.injEq, Prod.mk.injEq] at h
      exact ⟨_, by rw [h.1]⟩
    · rw [if_neg hlt] at h
      exact absurd h (by simp)
  | cons g l =>
    rw [takeFrame_near_cons hl] at h
    rw [takeFrame_near_cons (hlist.trans hl)]
    simp only [Option.some.injEq, Prod.mk.injEq] at h
    exact ⟨_, by rw [h.1]⟩

/-- A page moves into the store room by its hint: its entry and one count; heat is not asked. -/
theorem migrate_up {s u : State} {p f : Nat} {x : Page} (hx : pageAt s p = some x) (hfar : x.near = false) (hf : takeFrame s true = some (f, u)) :
    (s.migrate [] [] false p).core.tiers.pages = NMap.set s.core.tiers.pages p { x with near := true, frame := f } ∧
      (s.migrate [] [] false p).core.tiers.lastEpoch = s.core.tiers.lastEpoch ∧ Counted s (tierCtr 0) 1 (s.migrate [] [] false p) := by
  have hf' : takeFrame s (!x.near) = some (f, u) := by rw [hfar]; exact hf
  unfold State.migrate
  rw [hx]
  dsimp only
  rw [if_neg (by simp), hf']
  dsimp only
  obtain ⟨l, rfl⟩ := takeFrame_free hf
  obtain ⟨l', hfree⟩ := freeFrame_free ((s.modTiers (fun t => withFree t l)).setPage p { x with near := !x.near, frame := f }) x.near x.frame
  rw [if_neg (by decide), hfree, hfar]
  simp only [List.contains_nil, Bool.not_false, Bool.false_eq_true, if_false]
  generalize hw : (((((s.modTiers (fun t => withFree t l)).setPage p { x with near := true, frame := f }).modTiers (fun t => withFree t l')).bump
    (tierCtr 0) 1).bump (tierCtr 2) (b2n false)).lockFor 51 1 = w
  obtain ⟨b, q, n, k, ht⟩ := traceRec_eq w 0x50 (b2n false) (leBytes 4 p) (b2n false)
  have hctr : w.core.obs.counters = ((s.bump (tierCtr 0) 1).bump (tierCtr 2) 0).core.obs.counters := by
    rw [← hw]
    rfl
  rw [ht]
  refine ⟨by rw [← hw]; rfl, by rw [← hw]; rfl, ?_⟩
  have hcount := (counted_bump s (tierCtr 0) 1).trans (counted_bump_other (s.bump (tierCtr 0) 1) (b := tierCtr 2) 0 (by decide))
  rw [Counted, ← hctr] at hcount
  exact hcount

/-- The only page of the table is no page that heat may move. -/
theorem movable_none {s : State} {p : Nat} {y : Page} (hpages : s.core.tiers.pages = [(p, y)]) {f : Page → Bool} (hf : f y = false) : movable s f = [] := by
  simp [movable, hpages, hf]

theorem refillReserve_stays {s : State} (h : coldest s = none) (d e : List Nat) : ∀ n, State.refillReserve d e n s = (n, s)
  | 0 => rfl
  | n + 1 => by
    unfold State.refillReserve
    rw [h]
    exact ite_self _

theorem promote_stays {s : State} (h : hottest s = none) (d e : List Nat) (n : Nat) : State.promote d e n s = s := by
  cases n with
  | zero => rw [State.promote]
  | succ n => rw [State.promote, h]

/-- The state in which an epoch's moves begin. -/
def epochBegun (s : State) : State := s.modTiers (fun t => { t with lastEpoch := dtOf s })

theorem migrationEpoch_eq {s : State} (hrun : running s = true) (hdue : s.core.tiers.lastEpoch + 1000000 ≤ dtOf s) (fd : EpochFinding)
    {t : State} (ht : (if (epochBegun s).core.tiers.cellar == 0 || (statAt (epochBegun s) 51).masked then epochBegun s
      else
        let up := (movable (epochBegun s) (fun x => x.hint == 1 && !x.near)).take s.core.fab.migPages
        let u := up.foldl (State.migrate fd.damaged fd.stalled false) (epochBegun s)
        let down := (movable u (fun x => x.hint == 2 && x.near)).take (s.core.fab.migPages - up.length)
        let v := down.foldl (State.migrate fd.damaged fd.stalled false) u
        let r := State.refillReserve fd.damaged fd.stalled (s.core.fab.migPages - up.length - down.length) v
        State.promote fd.damaged fd.stalled r.1 r.2) = t) : exec (.migrationEpoch fd) s = .next t := by
  subst ht
  change execMigrationEpoch fd s = _
  unfold execMigrationEpoch
  rw [if_neg (by rw [hrun, decide_eq_false (by omega)]; decide)]
  rfl

theorem migrationEpoch_moves {s u : State} {p f : Nat} {x : Page} (hrun : running s = true) (hdue : s.core.tiers.lastEpoch + 1000000 ≤ dtOf s)
    (hcellar : s.core.tiers.cellar ≠ 0) (hmask : (statAt s 51).masked = false) (hbudget : 1 ≤ s.core.fab.migPages)
    (hpages : s.core.tiers.pages = [(p, x)]) (hhint : x.hint = 1) (hfar : x.near = false) (hclean : x.poison = false)
    (hf : takeFrame s true = some (f, u)) :
    ∃ t, exec (.migrationEpoch ⟨[], []⟩) s = .next t ∧ t.core.tiers.lastEpoch = dtOf s ∧ pageAt t p = some { x with near := true, frame := f } ∧
      Counted s (tierCtr 0) 1 t := by
  have hx : pageAt (epochBegun s) p = some x := by
    rw [pageAt, show (epochBegun s).core.tiers.pages = s.core.tiers.pages from rfl, hpages]
    simp [NMap.get?]
  obtain ⟨w, hw⟩ := takeFrame_near_lists (v := epochBegun s) hf rfl rfl rfl
  obtain ⟨hset, hepoch, hcount⟩ := migrate_up hx hfar hw
  have hone : ((epochBegun s).migrate [] [] false p).core.tiers.pages = [(p, { x with near := true, frame := f })] := by
    rw [hset, show (epochBegun s).core.tiers.pages = s.core.tiers.pages from rfl, hpages]
    simp [NMap.set]
  generalize ht : (epochBegun s).migrate [] [] false p = t at *
  have hup : (movable (epochBegun s) (fun x => x.hint == 1 && !x.near)).take s.core.fab.migPages = [p] := by
    rw [movable, show (epochBegun s).core.tiers.pages = s.core.tiers.pages from rfl, hpages]
    simp [hhint, hfar, hclean]
    omega
  have hdown : movable t (fun x => x.hint == 2 && x.near) = [] := movable_none hone (by simp [hhint])
  have hcold : coldest t = none := by
    rw [coldest, movable_none hone (by simp [rested, hhint])]
    rfl
  have hhot : hottest t = none := by
    rw [hottest, movable_none hone (by simp [rested])]
    rfl
  refine ⟨t, migrationEpoch_eq hrun hdue _ ?_, hepoch, ?_, hcount⟩
  · rw [if_neg]
    · dsimp only
      rw [hup]
      simp only [List.foldl_cons, List.foldl_nil, ht, hdown, List.take_nil]
      rw [refillReserve_stays hcold, promote_stays hhot]
    · have hzero : (s.core.tiers.cellar == 0) = false := by simpa using hcellar
      rw [show (epochBegun s).core.tiers.cellar = s.core.tiers.cellar from rfl, hzero, show statAt (epochBegun s) 51 = statAt s 51 from rfl, hmask]
      decide
  · rw [pageAt, hone]
    simp [NMap.get?]

/-! ### Scrub and late accesses (R404, R407) -/

theorem frameKey_decode (near : Bool) (f : Nat) : (frameKey near f % 2 == 0) = near ∧ frameKey near f / 2 = f := by
  unfold frameKey
  cases near
  · simp [b2n]
    omega
  · simp [b2n]

theorem patrolScrubRead_eq {s : State} {near : Bool} {f : Nat} (hrun : running s = true) (hranges : s.core.tiers.ranges ≠ [])
    (hf : f < (if near = true then nearFrames s else farFrames s)) (hret : frameKey near f ∉ s.core.tiers.retired) (fd : ScrubFinding) :
    exec (.patrolScrubRead (frameKey near f) fd) s = .next (match fd with
      | .clean => s
      | .corrected n => s.corrected near f n
      | .uncorrectable => s.uncorrectable near f 51) := by
  obtain ⟨hnear, hframe⟩ := frameKey_decode near f
  change execPatrolScrubRead (frameKey near f) fd s = _
  unfold execPatrolScrubRead
  rw [hnear, hframe]
  exact congrArg Host.Outcome.next (if_neg (by simp [hrun, hranges, hf, hret]))

/-- A requester's statistics with one more late access. -/
def lateCounted (cause : LateCause) (r : ReqStat) : ReqStat :=
  match cause with
  | .tierFault => { r with lateF := r.lateF + 1 }
  | .migration => { r with lateM := r.lateM + 1 }
  | .contention => { r with lateC := r.lateC + 1 }

theorem lateAccess_counts {s : State} (hrun : running s = true) {n : Nat} {store : Bool} (cause : LateCause) (hn : n < 56)
    (hlen : s.core.fab.stats.length = 56) (hstore : store = true ∨ s.core.tiers.cellar ≠ 0) :
    ∃ t, exec (.lateAccess n store cause) s = .next t ∧
      (cause = .tierFault → (statAt t n).lateF = (statAt s n).lateF + 1) ∧ (cause = .migration → (statAt t n).lateM = (statAt s n).lateM + 1) ∧
      (cause = .contention → (statAt t n).lateC = (statAt s n).lateC + 1) ∧ (∀ m, m ≠ n → statAt t m = statAt s m) := by
  have hcond : (!running s || decide (56 ≤ n) || (!store && s.core.tiers.cellar == 0)) = false := by
    rw [hrun, decide_eq_false (by omega)]
    rcases hstore with h | h <;> simp [h]
  change ∃ t, execLateAccess n store cause s = _ ∧ _
  unfold execLateAccess
  rw [hcond, if_neg (by decide)]
  extract_lets u ch e
  have hu (m : Nat) : statAt u m = (updAt s.core.fab.stats n (lateCounted cause)).getD m {} := rfl
  generalize ht : (if (decide (n < 48) && n % 6 == 3 && e.run.isSome && !e.worked && e.stall.isNone) = true then
    (u.modEngine ch 3 fun y => { y with stall := some (dtOf s) }).bump (chanCtr ch 7) 1 else u) = t
  have hstat (m : Nat) : statAt t m = statAt u m := by
    rw [← ht]
    exact holds_ite (P := fun t : State => statAt t m = statAt u m) rfl rfl
  have hself : statAt t n = lateCounted cause (statAt s n) := by
    rw [hstat, hu, getD_updAt_self _ _ _ _ (by omega)]
    rfl
  refine ⟨_, congrArg Host.Outcome.next ht, fun hc => ?_, fun hc => ?_, fun hc => ?_, fun m hm => ?_⟩
  · rw [hself, hc]; rfl
  · rw [hself, hc]; rfl
  · rw [hself, hc]; rfl
  · rw [hstat, hu]
    exact getD_updAt_other _ _ _ _ _ hm

/-- Settles O37: heat and the empty epoch at once; one move by hint; a scrubbed frame by what the read found; late accesses by cause. -/
theorem tiersTakeEffect : Obligations.TiersTakeEffect := by
  unfold Obligations.TiersTakeEffect
  refine fun s hrun => ⟨fun hdue => ⟨fun hcellar d e => ?_, fun p x f u hcellar hmask hbudget hpages hhint hfar hclean hf =>
    migrationEpoch_moves hrun hdue hcellar hmask hbudget hpages hhint hfar hclean hf⟩, fun hdue => ?_, fun f near hranges hf hret => ⟨?_, fun n => ?_,
    fun hfree => ?_⟩, fun n store cause => lateAccess_counts hrun cause⟩
  · refine migrationEpoch_eq hrun hdue _ (if_pos ?_)
    rw [show (epochBegun s).core.tiers.cellar = s.core.tiers.cellar from rfl, hcellar]
    rfl
  · exact congrArg Host.Outcome.next (if_pos (by rw [hrun, decide_eq_true hdue]; rfl))
  · exact patrolScrubRead_eq hrun hranges hf hret _
  · exact ⟨_, patrolScrubRead_eq hrun hranges hf hret _, corrected_facts hret n⟩
  · exact ⟨_, patrolScrubRead_eq hrun hranges hf hret _, uncorrectable_facts hret hfree 51⟩

end Sys2Proof.Machine
end

section
/-! Controllers retrain, arbiters decide, requesters starve (R410, R417, R418, R422, R424, R429). -/
namespace Sys2Proof.Machine

/-! ### What the ends of steps leave outside the channels -/

section Chanless
variable {α : Type} {F : State → α} (hF : ∀ s f, F (s.modChans f) = F s)
include hF

theorem refresh_unseen (s : State) (ch : Nat) : F (s.refresh ch) = F s := hF _ _

theorem skipRest_unseen (s : State) (ch i : Nat) (st : Option Nat) : F (s.skipRest ch i st) = F s := by
  unfold State.skipRest
  split
  · rfl
  · split
    · rfl
    · exact (hF _ _).trans (hF _ _)

theorem breakStep_unseen (s : State) (ch e st : Nat) : F (s.breakStep ch e st) = F s := by
  unfold State.breakStep
  split
  · rfl
  · exact (skipRest_unseen hF _ _ _ _).trans ((hF _ _).trans (hF _ _))

theorem endEarly_unseen (s : State) (ch i st : Nat) : F (s.endEarly ch i st) = F s :=
  (skipRest_unseen hF _ _ _ _).trans ((hF _ _).trans (foldl_unseen (fun s e => breakStep_unseen hF s ch e st) _ s))

end Chanless

/-! ### The cellar stays out of service (R410) -/

/-- The GiB of the cellar in service. -/
def cellarOf (s : State) : Nat := s.core.tiers.cellar

theorem deaf_cellarOf : Deaf cellarOf := ⟨fun _ _ => rfl, fun _ _ => rfl, fun _ _ _ => rfl, fun _ _ => rfl, fun _ _ _ _ _ => rfl⟩

theorem err1_cellarOf (s : State) (i b src sid pg : Nat) : cellarOf (s.err1 i b src sid pg) = cellarOf s :=
  deaf_cellarOf.err1 (fun _ _ => rfl) s i b src sid pg

theorem restoreSession_cellarOf (s : State) (sid : Nat) : cellarOf (s.restoreSession sid) = cellarOf s :=
  foldl_unseen (F := cellarOf) (f := fun s (p : Nat × Nat) => (s.endEarly p.1 p.2 0x22).modInst p.1 p.2 (fun y => { y with work := none, corr := none }))
    (fun s p => endEarly_unseen (F := cellarOf) (fun _ _ => rfl) s p.1 p.2 0x22) _ s

theorem poisonCrate_cellarOf (s : State) (n page : Nat) : cellarOf (s.poisonCrate n page) = cellarOf s :=
  (deaf_cellarOf.event _ _ _).trans
    (foldl_unseen (F := cellarOf) (fun s ch => breakStep_unseen (F := cellarOf) (fun _ _ => rfl) s ch 2 0x22) _ s)

theorem reachTorn_cellarOf (s : State) (g req : Nat) : cellarOf (s.reachTorn g req) = cellarOf s := by
  unfold State.reachTorn
  split
  · rfl
  · exact holds_ite (P := fun t => cellarOf t = cellarOf s) rfl (err1_cellarOf _ _ _ _ _ _)

theorem restoreRoot_cellarOf (s : State) : cellarOf s.restoreRoot = cellarOf s := by
  unfold State.restoreRoot
  refine holds_ite (P := fun t => cellarOf t = cellarOf s) ?_ rfl
  split
  · exact reachTorn_cellarOf s _ 49
  · rfl

theorem swapRoot_cellarOf (s : State) (d : MapData) (ch : List Nat) (w n : Nat) : cellarOf (s.swapRoot d ch w n) = cellarOf s :=
  (deaf_cellarOf.event _ _ _).trans ((deaf_cellarOf.traceRec _ _ _ _ _).trans (restoreRoot_cellarOf s))

theorem loseMapPages_cellarOf (s : State) (ps : List Nat) : cellarOf (s.loseMapPages ps) = cellarOf s := by
  unfold State.loseMapPages
  extract_lets d kfs lms d' u v
  have hu : cellarOf u = cellarOf s :=
    holds_ite (P := fun t => cellarOf t = cellarOf s) rfl (sendUp_unseen (F := cellarOf) (fun _ _ => rfl) _ _ _)
  refine holds_ite (P := fun t => cellarOf t = cellarOf s) hu (holds_ite (P := fun t => cellarOf t = cellarOf s) ?_ hu)
  exact (swapRoot_cellarOf v _ _ _ _).trans hu

theorem loseRadio_cellarOf (s : State) (ps : List Nat) : cellarOf (s.loseRadio ps) = cellarOf s :=
  foldl_unseen (F := cellarOf)
    (f := fun s (e : Nat × Session) => (s.modSess e.1 (fun x => { x with radioQ := [] })).bump (chanCtr e.2.chan 27) e.2.radioQ.length)
    (fun _ _ => rfl) _ s

theorem loseCopies_cellarOf (s : State) (ps : List Nat) : cellarOf (s.loseCopies ps) = cellarOf s :=
  foldl_unseen (F := cellarOf)
    (f := fun s (k : Nat) => ((chanAt s (k / 64)).insts.filter (fun e => e.2.slot == k % 64)).foldl (fun s e => s.endEarly (k / 64) e.1 0x22) s)
    (fun s k => foldl_unseen (F := cellarOf) (f := fun s (e : Nat × Inst) => s.endEarly (k / 64) e.1 0x22)
      (fun s e => endEarly_unseen (F := cellarOf) (fun _ _ => rfl) s (k / 64) e.1 0x22) _ s) _ _

theorem loseScratch_cellarOf (s : State) (ps : List Nat) : cellarOf (s.loseScratch ps) = cellarOf s :=
  foldl_unseen (F := cellarOf) (f := fun s (ch : Nat) => if onPages 10 ch ps then s.breakStep ch 2 0x22 else s)
    (fun s ch => holds_ite (P := fun t => cellarOf t = cellarOf s) (breakStep_unseen (F := cellarOf) (fun _ _ => rfl) s ch 2 0x22) rfl) _ s

theorem place_cellarOf (s : State) (h st : Nat) (pl : List Byte) : cellarOf (s.place h st pl) = cellarOf s :=
  place_unseen cellarOf (fun _ _ _ _ _ _ _ _ => rfl) s h st pl

theorem firmwareFault_cellarOf (s : State) : cellarOf s.firmwareFault = cellarOf s :=
  foldl_unseen (F := cellarOf) (fun s h => place_cellarOf s h 0x3F []) (hatchesWith s (fun _ => true)) s

theorem ownersAct_cellarOf (s : State) (use obj : Nat) (ps : List Nat) : cellarOf (s.ownersAct use obj ps) = cellarOf s := by
  unfold State.ownersAct
  refine holds_ite (P := fun t => cellarOf t = cellarOf s) (poisonCrate_cellarOf s _ _) (holds_ite (P := fun t => cellarOf t = cellarOf s)
    (foldl_unseen (F := cellarOf) restoreSession_cellarOf _ s) ?_)
  refine holds_ite (P := fun t => cellarOf t = cellarOf s) rfl (holds_ite (P := fun t => cellarOf t = cellarOf s) (loseMapPages_cellarOf s ps) ?_)
  refine holds_ite (P := fun t => cellarOf t = cellarOf s) rfl (holds_ite (P := fun t => cellarOf t = cellarOf s) rfl ?_)
  refine holds_ite (P := fun t => cellarOf t = cellarOf s) (loseRadio_cellarOf s ps)
    (holds_ite (P := fun t => cellarOf t = cellarOf s) (loseCopies_cellarOf s ps) ?_)
  exact holds_ite (P := fun t => cellarOf t = cellarOf s) (loseScratch_cellarOf s ps)
    (holds_ite (P := fun t => cellarOf t = cellarOf s) (firmwareFault_cellarOf s) rfl)

theorem cellarFails_facts (s : State) : s.cellarFails.loft.remedies.cellarSkip = true ∧ s.cellarFails.core.tiers.cellar = 0 := by
  unfold State.cellarFails
  extract_lets ps uses fresh a b c d e f
  have hd : cellarOf d = cellarOf c := foldl_unseen (F := cellarOf)
    (f := fun s (u : Nat × Nat) =>
      s.ownersAct u.1 u.2 (ps.filter (fun p => match pageAt s p with | some x => x.use == u.1 && x.obj == u.2 | none => false)))
    (fun s u => ownersAct_cellarOf s u.1 u.2 _) uses c
  exact ⟨rfl, hd⟩

/-! ### Controllers (R410) -/

section Running
variable {s : State} (hrun : running s = true)
include hrun

theorem controllerRetrain_acts {store : Bool} {c : Nat} (hc : c < nControllers s store) (hstore : store = true ∨ s.core.tiers.cellar ≠ 0)
    (hidle : NMap.has s.core.tiers.retrain (controllerKey store c) = false) :
    ∃ t, exec (.controllerRetrain store c) s = .next t ∧
      t.core.tiers = { s.core.tiers with retrain := NMap.set s.core.tiers.retrain (controllerKey store c) (dtOf s) } ∧
      (s.err.regs.length = 16 → (t.err.regs.getD 0 {}).bits.getLsbD (if store = true then 2 else 3) = true) := by
  generalize hu : s.modTiers (fun t => { t with retrain := NMap.set t.retrain (controllerKey store c) (dtOf s) }) = u
  have hexec : exec (.controllerRetrain store c) s = .next (if store then u.err1 0 2 c else u.err1 0 3) := by
    subst hu
    refine congrArg Host.Outcome.next (if_neg ?_)
    rw [hrun, decide_eq_false (Nat.not_le.2 hc), hidle]
    rcases hstore with h | h <;> simp [h]
  have htiers (i b src : Nat) : (u.err1 i b src).core.tiers = { s.core.tiers with
      retrain := NMap.set s.core.tiers.retrain (controllerKey store c) (dtOf s) } := by
    rw [quiet_tiers (quiet_err1 u i b src 0xFFFF 0xFFFFFFFF), ← hu]
    rfl
  have hset {b : Nat} (hb : b < 32) (src : Nat) (hlen : s.err.regs.length = 16) : ((u.err1 0 b src).err.regs.getD 0 {}).bits.getLsbD b = true := by
    exact err1_sets (by simp [errPresent]) (by decide) hb (by rw [← hu]; exact (hlen ▸ (by decide) : 0 < s.err.regs.length)) _ _ _
  cases store with
  | true => exact ⟨_, hexec, htiers 0 2 c, hset (by decide) c⟩
  | false => exact ⟨_, hexec, htiers 0 3 255, hset (by decide) 255⟩

theorem retrainEnd_eq {store : Bool} {c : Nat} (h : NMap.has s.core.tiers.retrain (controllerKey store c) = true) (ok : Bool) {u : State}
    (hu : s.modTiers (fun t => { t with retrain := NMap.erase t.retrain (controllerKey store c) }) = u) :
    exec (.retrainEnd store c ok) s = .next (if ok then u else if store then u.storeFails else u.cellarFails) := by
  subst hu
  exact congrArg Host.Outcome.next (if_neg (by rw [hrun, h]; decide))

end Running

/-- The store room fails: conservative timing for the next start, and a core reset now. -/
theorem storeFails_facts (s : State) : s.storeFails.loft.remedies.storeConservative = true ∧ s.storeFails.core.sys.recoveryAt = some (dtOf s) := by
  generalize hu : s.modLoft (fun l => { l with remedies := { l.remedies with storeConservative := true } }) = u
  have hloft : ((hatchesWith u (fun _ => true)).foldl (fun s h => s.place h 0x3F) u).loft = u.loft :=
    foldl_unseen (F := State.loft) (fun s h => place_unseen State.loft (fun _ _ _ _ _ _ _ _ => rfl) s h 0x3F []) _ u
  have hdt : dtOf ((hatchesWith u (fun _ => true)).foldl (fun s h => s.place h 0x3F) u) = dtOf u :=
    foldl_unseen (F := dtOf) (fun s h => dtOf_of_quiet (quiet_place s h 0x3F [])) _ u
  have hstore : s.storeFails = u.firmwareFault := by rw [← hu]; rfl
  rw [hstore]
  unfold State.firmwareFault
  extract_lets v w
  refine ⟨?_, ?_⟩
  · have hkept : v.loft.remedies = u.loft.remedies := congrArg Loft.remedies hloft
    change v.loft.remedies.storeConservative = true
    rw [hkept, ← hu]
    rfl
  · change some (dtOf v) = some (dtOf s)
    rw [show dtOf v = dtOf u from hdt, ← hu]
    rfl

/-! ### An arbiter's decision (R417, R418, R424) -/

theorem arbAt_modArb_self {s : State} {a : Nat} (h : a < s.core.fab.arbs.length) (f : Arb → Arb) : arbAt (s.modArb a f) a = f (arbAt s a) :=
  getD_updAt_self _ _ _ _ h
theorem arbAt_modArb_other (s : State) {a b : Nat} (f : Arb → Arb) (h : b ≠ a) : arbAt (s.modArb a f) b = arbAt s b :=
  getD_updAt_other _ _ _ _ _ h
theorem length_modArb (s : State) (a : Nat) (f : Arb → Arb) : (s.modArb a f).core.fab.arbs.length = s.core.fab.arbs.length := length_updAt _ _ _
theorem statAt_modStat_self {s : State} {n : Nat} (h : n < s.core.fab.stats.length) (f : ReqStat → ReqStat) :
    statAt (s.modStat n f) n = f (statAt s n) := getD_updAt_self _ _ _ _ h
theorem length_modStat (s : State) (n : Nat) (f : ReqStat → ReqStat) : (s.modStat n f).core.fab.stats.length = s.core.fab.stats.length :=
  length_updAt _ _ _

/-- A decision outside a lock, with no background burst on its way and no new request. -/
theorem arbiterDecision_eq {s : State} {a : Nat} (hrun : running s = true) (hranges : s.core.tiers.ranges ≠ []) (hserves : arbServes s a = true)
    (hlock : (arbAt s a).lock = none) (hburst : (arbAt s a).burst = none) (gone : Nat) :
    exec (.arbiterDecision a gone []) s = .next (s.decide1 a) := by
  change execArbiterDecision a gone [] s = _
  unfold execArbiterDecision
  have hempty : s.core.tiers.ranges.isEmpty = false := by simpa using hranges
  simp only [hrun, hempty, Bool.not_true, Bool.or_self, Bool.false_eq_true, if_false, List.foldl_nil, hserves, hlock, hburst, Option.isSome_none]

/-- The pointer advanced by one slot, and a turn's oldest decision forgotten (R417, R424). -/
def advanced (b : Arb) : Arb := { b with ptr := (b.ptr + 1) % 256, turn := (0 :: b.turn).take 256 }

/-- The state in which a decision's grant is made. -/
def advancedAt (s : State) (a : Nat) : State := s.modArb a advanced

theorem decide1_none {s : State} {a : Nat}
    (h : (if requesterLive s (s.core.fab.owners.getD (arbAt s a).ptr 0xFF) then
      oldestOf (arbAt s a) (s.core.fab.owners.getD (arbAt s a).ptr 0xFF) (fun _ => true) else none) = none) :
    s.decide1 a = (advancedAt s a).background a := by
  unfold State.decide1
  dsimp only
  have hlive (id : Nat) : requesterLive (s.modArb a (fun b => { b with ptr := (b.ptr + 1) % 256, turn := (0 :: b.turn).take 256 })) id =
    requesterLive s id := rfl
  rw [hlive, h]
  rfl

theorem decide1_some {s : State} {a : Nat} {w : ArbWait} (hwait : (arbAt s a).waiting = [w])
    (howner : s.core.fab.owners.getD (arbAt s a).ptr 0xFF = w.req) (hlive : requesterLive s w.req = true) :
    s.decide1 a = (match w.what with
      | .burst _ _ _ _ => (advancedAt s a).grantBurst a w true
      | .lock g total =>
        if turnBeats (arbAt s a) ≤ 256 then (advancedAt s a).beginLock a w g total
        else ((advancedAt s a).modStat w.req (fun r => { r with deferred := r.deferred + 1 })).background a) := by
  have hold : oldestOf (arbAt s a) w.req (fun _ => true) = some w := by simp [oldestOf, hwait]
  unfold State.decide1
  dsimp only
  have hlive' : requesterLive (s.modArb a (fun b => { b with ptr := (b.ptr + 1) % 256, turn := (0 :: b.turn).take 256 })) w.req = true := hlive
  rw [howner, hlive', if_pos rfl, hold]
  rfl

/-- A page's heat, as an access leaves it: the page else stands, and so do the granules and the fabric. -/
theorem warm_facts (s : State) (addr : Nat) {x : Page} (hx : pageAt s (addr / 65536) = some x) :
    (s.warm addr).core.fab = s.core.fab ∧ (s.warm addr).core.tiers.torn = s.core.tiers.torn ∧
      pageAt (s.warm addr) (addr / 65536) = some { x with heat := min 255 (x.heat + 1) } ∧
      (s.warm addr).core.tiers.ranges = s.core.tiers.ranges ∧ (s.warm addr).core.sec = s.core.sec := by
  have hwarm : s.warm addr = s.setPage (addr / 65536) { x with heat := min 255 (x.heat + 1) } := by rw [State.warm, State.modPage, hx]
  rw [hwarm]
  refine ⟨rfl, rfl, ?_, rfl, rfl⟩
  rw [pageAt, show (s.setPage (addr / 65536) { x with heat := min 255 (x.heat + 1) }).core.tiers.pages =
    NMap.set s.core.tiers.pages (addr / 65536) { x with heat := min 255 (x.heat + 1) } from rfl, NMap.get_set]

/-- A clean read of a sound page moves nothing of the fabric. -/
theorem access_fab {u : State} {id addr beats : Nat} {x : Page} (hx : pageAt u (addr / 65536) = some x) (hpoison : x.poison = false)
    (hlive : genLive u (addr / 65536) x = true) (htorn : NMap.has u.core.tiers.torn (addr / 4096) = false) :
    (u.access id addr beats false .clean).core.fab = u.core.fab := by
  have hclean {v : State} {y : Page} (hy : pageAt v (addr / 65536) = some y) (hp : y.poison = false) (hl : genLive v (addr / 65536) y = true)
      (ht : NMap.has v.core.tiers.torn (addr / 4096) = false) :
      ((v.readUnified id addr .clean).2.readEnds id (v.readUnified id addr .clean).1) = v := by
    rw [readUnified_clean hy hp hl ht]
    rfl
  unfold State.access
  extract_lets g v
  rw [if_pos (show (!false) = true from rfl)]
  by_cases h51 : (id == 51) = true
  · have hv : v = u := if_pos h51
    rw [hv, hclean hx hpoison hlive htorn]
  · have hv : v = u.warm addr := if_neg h51
    obtain ⟨hfab, htorn', hpage, hranges, hsec⟩ := warm_facts u addr hx
    rw [hv, hclean hpage hpoison ?_ (by rw [htorn']; exact htorn), hfab]
    rw [← hlive]
    unfold genLive areaOf
    rw [hranges, hsec]

theorem genLive_modFab (s : State) (f : Fabric → Fabric) (p : Nat) (x : Page) : genLive (s.modFab f) p x = genLive s p x := rfl

theorem pageAt_modFab (s : State) (f : Fabric → Fabric) (p : Nat) : pageAt (s.modFab f) p = pageAt s p := rfl

/-- A state that differs in the fabric alone. -/
def FabOnly (s t : State) : Prop := ∃ f, t = s.modFab f

theorem fabOnly_modFab (s : State) (f : Fabric → Fabric) : FabOnly s (s.modFab f) := ⟨f, rfl⟩

theorem FabOnly.trans {s t u : State} (h : FabOnly s t) (h' : FabOnly t u) : FabOnly s u := by
  obtain ⟨f, hf⟩ := h
  obtain ⟨g, hg⟩ := h'
  exact ⟨fun b => g (f b), by rw [hg, hf]; rfl⟩

/-- What a change of the fabric alone leaves of a page that reads well. -/
theorem access_modFab {s : State} {addr : Nat} {x : Page} (hx : pageAt s (addr / 65536) = some x) (hpoison : x.poison = false)
    (hlive : genLive s (addr / 65536) x = true) (htorn : NMap.has s.core.tiers.torn (addr / 4096) = false) (f : Fabric → Fabric)
    (id beats : Nat) : ((s.modFab f).access id addr beats false .clean).core.fab = (s.modFab f).core.fab :=
  access_fab ((pageAt_modFab s f _).trans hx) hpoison ((genLive_modFab s f _ x).trans hlive) htorn

theorem oldestOf_none {b : Arb} {w : ArbWait} {id : Nat} (hwait : b.waiting = [w]) (h : id ≠ w.req) : oldestOf b id (fun _ => true) = none := by
  have hne : (w.req == id) = false := beq_false_of_ne (Ne.symm h)
  simp [oldestOf, hwait, hne]

/-- Heat of the granule's page apart, the fabric does not see an access. -/
theorem warm_fab (s : State) (addr : Nat) : (s.warm addr).core.fab = s.core.fab := by
  unfold State.warm State.modPage
  split
  · rfl
  · rfl

/-- The first beats of a lock (R424). -/
theorem lockBeats_facts {s : State} {a id g n : Nat} (ha : a < s.core.fab.arbs.length) (hid : id < s.core.fab.stats.length)
    (hlock : (arbAt s a).lock = some (id, g, 0, n)) :
    (arbAt (s.lockBeats a) a).waiting = (arbAt s a).waiting ∧ (statAt (s.lockBeats a) id).taken = (statAt s id).taken ∧
      (n ≤ 16 → (arbAt (s.lockBeats a) a).lock = none ∧ (statAt (s.lockBeats a) id).lockHeld = false) ∧
      (16 < n → (arbAt (s.lockBeats a) a).lock = some (id, g, 16, n) ∧ (statAt (s.lockBeats a) id).lockHeld = (statAt s id).lockHeld) := by
  unfold State.lockBeats
  rw [hlock]
  dsimp -zeta only
  extract_lets k k' u v y
  have hk : k' = min 16 n := by
    unfold k' k
    omega
  have hfab : u.core.fab = s.core.fab := holds_ite (P := fun t : State => t.core.fab = s.core.fab) rfl (warm_fab s _)
  have hlen : v.core.fab.arbs.length = s.core.fab.arbs.length := by rw [← hfab]; rfl
  have harb : arbAt y a = { arbAt s a with turn := updAt (arbAt s a).turn 0 (· + k'), lock := some (id, g, 0 + k', n) } := by
    rw [show arbAt s a = arbAt v a by unfold arbAt; rw [show v.core.fab.arbs = u.core.fab.arbs from rfl, hfab]]
    exact arbAt_modArb_self (by rw [hlen]; exact ha) _
  have hstat : statAt y id = { statAt s id with beats := (statAt s id).beats + k' } := by
    rw [show statAt s id = statAt u id by unfold statAt; rw [hfab]]
    exact statAt_modStat_self (by rw [hfab]; exact hid) _
  have hylen : y.core.fab.arbs.length = s.core.fab.arbs.length := by
    rw [show y = v.modArb a _ from rfl, length_modArb, hlen]
  have hyid : y.core.fab.stats.length = s.core.fab.stats.length := by
    rw [show y.core.fab.stats.length = (u.modStat id _).core.fab.stats.length from rfl, length_modStat, hfab]
  rw [if_neg (show ¬k' < k by unfold k' k; omega)]
  by_cases hn : n ≤ 16
  · rw [if_pos (show n ≤ 0 + k by unfold k; omega)]
    have hend : arbAt ((y.modArb a (fun b => { b with lock := none })).modStat id (fun r => { r with lockHeld := false })) a =
        { arbAt y a with lock := none } := arbAt_modArb_self (by rw [hylen]; exact ha) _
    have hfree : statAt ((y.modArb a (fun b => { b with lock := none })).modStat id (fun r => { r with lockHeld := false })) id =
        { statAt y id with lockHeld := false } :=
      statAt_modStat_self (s := y.modArb a (fun b => { b with lock := none })) (hid.trans_eq hyid.symm) _
    rw [hend, hfree, harb, hstat]
    exact ⟨rfl, rfl, fun _ => ⟨rfl, rfl⟩, fun h => absurd hn (Nat.not_le.2 h)⟩
  · rw [if_neg (show ¬n ≤ 0 + k by unfold k; omega), harb, hstat, hk]
    exact ⟨rfl, rfl, fun h => absurd h hn, fun h => ⟨by rw [Nat.min_eq_left (Nat.le_of_lt h)], rfl⟩⟩

section Decision
variable {s : State} {a : Nat} (ha : a < s.core.fab.arbs.length)
include ha

theorem advancedAt_arb : arbAt (advancedAt s a) a = advanced (arbAt s a) := arbAt_modArb_self ha _

theorem decision_idle (hwait : (arbAt s a).waiting = []) (hburst : (arbAt s a).burst = none) :
    arbAt (s.decide1 a) a = { arbAt s a with ptr := ((arbAt s a).ptr + 1) % 256, turn := (0 :: (arbAt s a).turn).take 256 } ∧
      ∀ b, b ≠ a → arbAt (s.decide1 a) b = arbAt s b := by
  have hnone : s.decide1 a = (advancedAt s a).modArb a (fun b => { b with burst := none }) := by
    rw [decide1_none (by simp [oldestOf, hwait])]
    have hpick : backgroundPick (advancedAt s a) a = none := by
      rw [backgroundPick, advancedAt_arb ha, advanced, hwait]
      rfl
    rw [State.background, hpick]
  rw [hnone]
  refine ⟨?_, fun b hb => ?_⟩
  · rw [arbAt_modArb_self (by rw [advancedAt, length_modArb]; exact ha), advancedAt_arb ha, ← hburst]
    rfl
  · rw [arbAt_modArb_other _ _ hb]
    exact arbAt_modArb_other _ _ hb

/-- A granted read: the request waits no longer, its requester's counts rise. -/
theorem grantBurst_facts {w : ArbWait} {x : Page} {addr n : Nat} (hwait : (arbAt s a).waiting = [w]) (hwhat : w.what = .burst addr n false .clean)
    (hstat : w.req < s.core.fab.stats.length) (hx : pageAt s (addr / 65536) = some x) (hpoison : x.poison = false)
    (hlive : genLive s (addr / 65536) x = true) (htorn : NMap.has s.core.tiers.torn (addr / 4096) = false) (slot : Bool) {t : State}
    (ht : (advancedAt s a).grantBurst a w slot = t) :
    (arbAt t a).ptr = ((arbAt s a).ptr + 1) % 256 ∧ (arbAt t a).waiting = [] ∧ (arbAt t a).burst = (if slot then none else some w) ∧
      (statAt t w.req).slotGrants = (statAt s w.req).slotGrants + (if slot then 1 else 0) ∧
      (statAt t w.req).background = (statAt s w.req).background + (if slot then 0 else 1) ∧
      (statAt t w.req).beats = (statAt s w.req).beats + arbBeats w.what := by
  subst ht
  unfold State.grantBurst
  rw [hwhat]
  dsimp only
  generalize hu : (((advancedAt s a).unwait a w).noteGrant w (arbBeats (.burst addr n false .clean)) slot).modArb a
    (fun b => { b with burst := if slot then none else some w }) = u
  have hfab : (u.access w.req addr (arbBeats (.burst addr n false .clean)) false .clean).core.fab = u.core.fab := by
    obtain ⟨f, hf⟩ : FabOnly s u := by
      rw [← hu]
      exact (fabOnly_modFab s _).trans ((fabOnly_modFab _ _).trans ((fabOnly_modFab _ _).trans (fabOnly_modFab _ _)))
    rw [hf]
    exact access_modFab hx hpoison hlive htorn _ _ _
  have harb : arbAt u a = { advanced (arbAt s a) with waiting := [], burst := if slot then none else some w } := by
    rw [← hu, arbAt_modArb_self (by
      change a < (updAt (updAt s.core.fab.arbs a advanced) a _).length
      rw [length_updAt, length_updAt]
      exact ha)]
    change { arbAt ((advancedAt s a).unwait a w) a with burst := if slot then none else some w } = _
    rw [State.unwait, arbAt_modArb_self (by rw [advancedAt, length_modArb]; exact ha), advancedAt_arb ha]
    simp [advanced, hwait]
  have hreq := statAt_modStat_self (s := (advancedAt s a).unwait a w) hstat (fun r =>
    { r with
      beats := r.beats + arbBeats (.burst addr n false .clean)
      slotGrants := if slot then r.slotGrants + 1 else r.slotGrants
      background := if slot then r.background else r.background + 1
      waitMax := max r.waitMax (min (dtOf ((advancedAt s a).unwait a w) - w.since) 0xFFFFFFFF)
      starving := r.starving && olderWaits ((advancedAt s a).unwait a w) w })
  have hstatu : statAt u w.req = statAt (((advancedAt s a).unwait a w).noteGrant w (arbBeats (.burst addr n false .clean)) slot) w.req := by
    rw [← hu]
    rfl
  have hold : statAt ((advancedAt s a).unwait a w) w.req = statAt s w.req := rfl
  unfold arbAt statAt
  rw [hfab]
  change (arbAt u a).ptr = _ ∧ (arbAt u a).waiting = _ ∧ (arbAt u a).burst = _ ∧ (statAt u w.req).slotGrants = (statAt s w.req).slotGrants + _ ∧
    (statAt u w.req).background = (statAt s w.req).background + _ ∧ (statAt u w.req).beats = (statAt s w.req).beats + _
  rw [harb, hstatu, State.noteGrant, hreq, hold]
  cases slot <;> exact ⟨rfl, rfl, rfl, rfl, rfl, rfl⟩

theorem decision_slot {w : ArbWait} {x : Page} {addr n : Nat} (hwait : (arbAt s a).waiting = [w]) (hwhat : w.what = .burst addr n false .clean)
    (howner : s.core.fab.owners.getD (arbAt s a).ptr 0xFF = w.req) (hlive : requesterLive s w.req = true)
    (hstat : w.req < s.core.fab.stats.length) (hx : pageAt s (addr / 65536) = some x) (hpoison : x.poison = false)
    (hgen : genLive s (addr / 65536) x = true) (htorn : NMap.has s.core.tiers.torn (addr / 4096) = false) :
    (arbAt (s.decide1 a) a).ptr = ((arbAt s a).ptr + 1) % 256 ∧ (arbAt (s.decide1 a) a).waiting = [] ∧
      (statAt (s.decide1 a) w.req).slotGrants = (statAt s w.req).slotGrants + 1 ∧
      (statAt (s.decide1 a) w.req).beats = (statAt s w.req).beats + arbBeats w.what := by
  have hgrant : (advancedAt s a).grantBurst a w true = s.decide1 a := by rw [decide1_some hwait howner hlive, hwhat]
  obtain ⟨hptr, hw, -, hslots, -, hbeats⟩ := grantBurst_facts ha hwait hwhat hstat hx hpoison hgen htorn true hgrant
  exact ⟨hptr, hw, hslots, hbeats⟩

theorem decision_background {w : ArbWait} {x : Page} {addr n : Nat} (hwait : (arbAt s a).waiting = [w])
    (hwhat : w.what = .burst addr n false .clean) (howner : s.core.fab.owners.getD (arbAt s a).ptr 0xFF ≠ w.req)
    (hstat : w.req < s.core.fab.stats.length) (hx : pageAt s (addr / 65536) = some x) (hpoison : x.poison = false)
    (hgen : genLive s (addr / 65536) x = true) (htorn : NMap.has s.core.tiers.torn (addr / 4096) = false) :
    (arbAt (s.decide1 a) a).ptr = ((arbAt s a).ptr + 1) % 256 ∧ (arbAt (s.decide1 a) a).waiting = [] ∧
      (arbAt (s.decide1 a) a).burst = some w ∧ (statAt (s.decide1 a) w.req).background = (statAt s w.req).background + 1 := by
  have hpick : backgroundPick (advancedAt s a) a = some w := by
    rw [backgroundPick, advancedAt_arb ha, advanced, hwait]
    simp [hwhat, arbIsLock]
  have hgrant : (advancedAt s a).grantBurst a w false = s.decide1 a := by
    rw [decide1_none (by rw [oldestOf_none hwait howner, ite_self]), State.background, hpick]
  obtain ⟨hptr, hw, hburst, -, hback, -⟩ := grantBurst_facts ha hwait hwhat hstat hx hpoison hgen htorn false hgrant
  exact ⟨hptr, hw, hburst, hback⟩

/-- A lock begins at its owner's slot: its first beats, at most 16, and its end where they are all (R424). -/
theorem decision_lock {w : ArbWait} {g n : Nat} (hwait : (arbAt s a).waiting = [w]) (hwhat : w.what = .lock g n)
    (howner : s.core.fab.owners.getD (arbAt s a).ptr 0xFF = w.req) (hlive : requesterLive s w.req = true)
    (hstat : w.req < s.core.fab.stats.length) (hfew : turnBeats (arbAt s a) ≤ 256) :
    (arbAt (s.decide1 a) a).waiting = [] ∧ (statAt (s.decide1 a) w.req).taken = (statAt s w.req).taken + 1 ∧
      (n ≤ 16 → (arbAt (s.decide1 a) a).lock = none ∧ (statAt (s.decide1 a) w.req).lockHeld = false) ∧
      (16 < n → (arbAt (s.decide1 a) a).lock = some (w.req, g, 16, n) ∧ (statAt (s.decide1 a) w.req).lockHeld = true) := by
  have hbegin : s.decide1 a = (advancedAt s a).beginLock a w g n := by
    rw [decide1_some hwait howner hlive, hwhat]
    exact if_pos hfew
  rw [hbegin]
  unfold State.beginLock
  extract_lets u v
  generalize hy : v.modArb a (fun b => { b with burst := none, lock := some (w.req, g, 0, n) }) = y
  have hlen : y.core.fab.arbs.length = s.core.fab.arbs.length := by
    rw [← hy, length_modArb]
    change (updAt (updAt s.core.fab.arbs a advanced) a _).length = _
    rw [length_updAt, length_updAt]
  have hlens : y.core.fab.stats.length = s.core.fab.stats.length := by
    rw [← hy]
    change (updAt (updAt s.core.fab.stats w.req _) w.req _).length = _
    rw [length_updAt, length_updAt]
  have harb : arbAt y a = { advanced (arbAt s a) with waiting := [], burst := none, lock := some (w.req, g, 0, n) } := by
    rw [← hy, arbAt_modArb_self (by
      change a < (updAt (updAt s.core.fab.arbs a advanced) a _).length
      rw [length_updAt, length_updAt]
      exact ha)]
    change { arbAt ((advancedAt s a).unwait a w) a with burst := none, lock := some (w.req, g, 0, n) } = _
    rw [State.unwait, arbAt_modArb_self (by rw [advancedAt, length_modArb]; exact ha), advancedAt_arb ha]
    simp [advanced, hwait]
  have hstaty : (statAt y w.req).taken = (statAt s w.req).taken + 1 ∧ (statAt y w.req).lockHeld = true := by
    have hv : statAt v w.req = { statAt u w.req with taken := (statAt u w.req).taken + 1, lockHeld := true } :=
      statAt_modStat_self (s := u) (by
        change w.req < (updAt s.core.fab.stats w.req _).length
        rw [length_updAt]
        exact hstat) _
    have hu : (statAt u w.req).taken = (statAt s w.req).taken := by
      unfold u State.noteGrant
      rw [statAt_modStat_self (s := (advancedAt s a).unwait a w) hstat]
      rfl
    have hyv : statAt y w.req = statAt v w.req := by
      rw [← hy]
      rfl
    rw [hyv, hv, hu]
    exact ⟨rfl, rfl⟩
  obtain ⟨htaken, hheld⟩ := hstaty
  have hbeats := lockBeats_facts (s := y) (by rw [hlen]; exact ha) (by rw [hlens]; exact hstat) (g := g) (n := n) (by rw [harb])
  obtain ⟨hwaiting, hkept, hshort, hlong⟩ := hbeats
  exact ⟨hwaiting.trans (by rw [harb]), hkept.trans htaken, hshort, fun hn => ⟨(hlong hn).1, (hlong hn).2.trans hheld⟩⟩

/-- Past 256 locked beats of a turn the lock waits, counted as deferred (R424). -/
theorem decision_deferred {w : ArbWait} {g n : Nat} (hwait : (arbAt s a).waiting = [w]) (hwhat : w.what = .lock g n)
    (howner : s.core.fab.owners.getD (arbAt s a).ptr 0xFF = w.req) (hlive : requesterLive s w.req = true)
    (hlock : (arbAt s a).lock = none) (hstat : w.req < s.core.fab.stats.length) (hmany : 256 < turnBeats (arbAt s a)) :
    (arbAt (s.decide1 a) a).waiting = [w] ∧ (arbAt (s.decide1 a) a).lock = none ∧
      (statAt (s.decide1 a) w.req).deferred = (statAt s w.req).deferred + 1 := by
  generalize hu : (advancedAt s a).modStat w.req (fun r => { r with deferred := r.deferred + 1 }) = u
  have harb : arbAt u a = advanced (arbAt s a) := by
    rw [← hu]
    exact advancedAt_arb ha
  have hpick : backgroundPick u a = none := by
    rw [backgroundPick, harb, advanced, hwait]
    simp [hwhat, arbIsLock]
  have hdefer : s.decide1 a = u.modArb a (fun b => { b with burst := none }) := by
    rw [decide1_some hwait howner hlive, hwhat]
    refine (if_neg (Nat.not_le.2 hmany)).trans ?_
    rw [hu, State.background, hpick]
  have hself : arbAt (u.modArb a (fun b => { b with burst := none })) a = { arbAt u a with burst := none } := by
    refine arbAt_modArb_self ?_ _
    rw [← hu]
    change a < (updAt s.core.fab.arbs a advanced).length
    rw [length_updAt]
    exact ha
  rw [hdefer, hself, harb]
  refine ⟨hwait, hlock, ?_⟩
  change (statAt u w.req).deferred = _
  rw [← hu, statAt_modStat_self (s := advancedAt s a) hstat]
  rfl

end Decision

/-! ### Starvation (R422) -/

theorem starvation_acts {s : State} {a n : Nat} {w : ArbWait} (hrun : running s = true) (hn : n < s.core.fab.stats.length)
    (hold : oldestOf (arbAt s a) n (fun _ => true) = some w) (hlate : w.since + 1000 * s.core.fab.starveUs < dtOf s)
    (hfed : (statAt s n).starving = false) :
    ∃ t, exec (.starvation a n) s = .next t ∧ (statAt t n).starving = true ∧ (statAt t n).starved = true ∧ t.core.fab.arbs = s.core.fab.arbs := by
  generalize hu : s.modStat n (fun r => { r with starving := true, starved := true }) = u
  have hexec : exec (.starvation a n) s = .next (if (statAt s n).starved then u else u.err1 5 1 n) := by
    subst hu
    change execStarvation a n s = _
    unfold execStarvation
    rw [hold]
    simp only [hrun, hfed, decide_eq_true hlate, Bool.not_true, Bool.or_self, Bool.false_eq_true, if_false]
  have hfab : (if (statAt s n).starved then u else u.err1 5 1 n).core.fab = u.core.fab :=
    holds_ite (P := fun t : State => t.core.fab = u.core.fab) rfl (congrArg Core.fab (quiet_err1 u 5 1 n 0xFFFF 0xFFFFFFFF) :)
  have hself : statAt u n = { statAt s n with starving := true, starved := true } := by
    rw [← hu]
    exact statAt_modStat_self hn _
  refine ⟨_, hexec, ?_, ?_, ?_⟩
  · rw [statAt, hfab]
    exact congrArg ReqStat.starving hself
  · rw [statAt, hfab]
    exact congrArg ReqStat.starved hself
  · rw [hfab, ← hu]
    rfl

/-! ### The obligation -/

/-- Settles O38: the controllers' retraining with both its failures; the decision by what waits and whose slot it is; starvation. -/
theorem controllersAndArbitersTakeEffect : Obligations.ControllersAndArbitersTakeEffect := by
  unfold Obligations.ControllersAndArbitersTakeEffect
  refine fun s hrun => ⟨fun store c => controllerRetrain_acts hrun, fun store c h => retrainEnd_eq hrun h true rfl, fun c h => ?store, fun c h => ?cellar,
    fun a gone hranges hserves hlock hburst ha => ?decision, fun a n w => starvation_acts hrun⟩
  case store =>
    obtain ⟨hcons, hrec⟩ := storeFails_facts (s.modTiers (fun t => { t with retrain := NMap.erase t.retrain (controllerKey true c) }))
    exact ⟨_, retrainEnd_eq hrun h false rfl, hcons, hrec⟩
  case cellar => exact ⟨_, retrainEnd_eq hrun h false rfl, cellarFails_facts _⟩
  case decision =>
    have hexec := arbiterDecision_eq hrun hranges hserves hlock hburst gone
    exact ⟨fun hwait => ⟨_, hexec, decision_idle ha hwait hburst⟩,
      fun w x addr n hwait hwhat _ howner hlive hstat hx hpoison hgen htorn =>
        ⟨_, hexec, decision_slot ha hwait hwhat howner hlive hstat hx hpoison hgen htorn⟩,
      fun w x addr n hwait hwhat _ howner hstat hx hpoison hgen htorn =>
        ⟨_, hexec, decision_background ha hwait hwhat howner hstat hx hpoison hgen htorn⟩,
      fun w g n hwait hwhat _ howner hlive hstat => ⟨fun hfew => ⟨_, hexec, decision_lock ha hwait hwhat howner hlive hstat hfew⟩,
        fun hmany => ⟨_, hexec, decision_deferred ha hwait hwhat howner hlive hlock hstat hmany⟩⟩⟩

end Sys2Proof.Machine
end

section
/-! Turns close and reach their drain limit, scrubs begin and end (R457, R465 to R468). -/
namespace Sys2Proof.Machine

/-! ### Instances through the ends of steps (R161, R165) -/

/-- An instance with the readiness of its steps brought up to date. -/
def refreshed (s : State) (ch : Nat) (x : Inst) : Inst :=
  match instSlot s ch x with
  | none => x
  | some g => { x with steps := (g.graph.steps.zip x.steps).zipIdx.map (fun e => refreshStep s ch x (e.1.1, e.2) e.1.2) }

theorem refresh_eq (s : State) (ch : Nat) :
    s.refresh ch = s.modChan ch (fun c => { c with insts := c.insts.map (fun p => (p.1, refreshed s ch p.2)) }) := by
  unfold State.refresh
  congr
  funext c
  congr
  funext p
  unfold refreshed
  dsimp only
  cases instSlot s ch p.2 <;> rfl

theorem refreshed_steps (s : State) (ch : Nat) (x : Inst) : ∃ l, refreshed s ch x = { x with steps := l } := by
  unfold refreshed
  split
  · exact ⟨x.steps, rfl⟩
  · exact ⟨_, rfl⟩

theorem refreshed_slot (s : State) (ch : Nat) (x : Inst) : (refreshed s ch x).slot = x.slot := by
  obtain ⟨l, hl⟩ := refreshed_steps s ch x
  rw [hl]

theorem refreshed_status (s : State) (ch : Nat) (x : Inst) : (refreshed s ch x).status = x.status := by
  obtain ⟨l, hl⟩ := refreshed_steps s ch x
  rw [hl]

theorem instAt_modChan_other (s : State) {ch c : Nat} (f : Chan → Chan) (h : c ≠ ch) (i : Nat) : instAt (s.modChan ch f) c i = instAt s c i := by
  rw [instAt, chanAt_modChan_other s f h, instAt]

theorem instAt_modInst_self {s : State} {ch i : Nat} {x : Inst} (h : instAt s ch i = some x) (f : Inst → Inst) :
    instAt (s.modInst ch i f) ch i = some (f x) := by
  rw [instAt, State.modInst, chanAt_modChan_self (length_of_instAt h)]
  exact NMap.get_upd h f

theorem instAt_modInst_other (s : State) {ch c i j : Nat} (f : Inst → Inst) (h : c ≠ ch ∨ j ≠ i) :
    instAt (s.modInst ch i f) c j = instAt s c j := by
  by_cases hc : c = ch
  · subst hc
    have hj : j ≠ i := h.resolve_left fun hc => hc rfl
    exact chanAt_modChan_same (fun c => NMap.get? c.insts j) (f := fun c => { c with insts := NMap.upd c.insts i f })
      (fun c => NMap.get_upd_other c.insts f hj) s c c
  · exact instAt_modChan_other s _ hc j

theorem instAt_refresh {s : State} {ch i : Nat} {x : Inst} (h : instAt s ch i = some x) :
    instAt (s.refresh ch) ch i = some (refreshed s ch x) := by
  rw [refresh_eq, instAt, chanAt_modChan_self (length_of_instAt h)]
  exact (NMap.get_map_keyed (fun _ y => refreshed s ch y) (chanAt s ch).insts i).trans (congrArg (Option.map (refreshed s ch)) h)

/-- Instances stay, in their slots, and their statuses within Q. -/
def InstsStay (Q : Option Nat → Prop) (s t : State) : Prop :=
  ∀ c j y, instAt s c j = some y → ∃ z, instAt t c j = some z ∧ z.slot = y.slot ∧ (Q y.status → Q z.status)

section InstsStay
variable {Q : Option Nat → Prop}

theorem InstsStay.refl (s : State) : InstsStay Q s s := fun _ _ y hy => ⟨y, hy, rfl, id⟩

theorem InstsStay.of_chans {s t : State} (h : t.core.chans = s.core.chans) : InstsStay Q s t := fun c j y hy =>
  ⟨y, by rw [instAt, chanAt, h]; exact hy, rfl, id⟩

theorem InstsStay.trans {s t u : State} (h : InstsStay Q s t) (h' : InstsStay Q t u) : InstsStay Q s u := fun c j y hy => by
  obtain ⟨z, hz, hslot, hst⟩ := h c j y hy
  obtain ⟨w, hw, hslot', hst'⟩ := h' c j z hz
  exact ⟨w, hw, hslot'.trans hslot, fun hne => hst' (hst hne)⟩

theorem instsStay_modInst (s : State) (ch i : Nat) {f : Inst → Inst}
    (hf : ∀ x, (f x).slot = x.slot ∧ (Q x.status → Q (f x).status)) : InstsStay Q s (s.modInst ch i f) := fun c j y hy => by
  by_cases h : c = ch ∧ j = i
  · obtain ⟨hc, hj⟩ := h
    subst hc hj
    exact ⟨f y, instAt_modInst_self hy f, hf y⟩
  · exact ⟨y, (instAt_modInst_other s f (by omega)).trans hy, rfl, id⟩

theorem instsStay_refresh (s : State) (ch : Nat) : InstsStay Q s (s.refresh ch) := fun c j y hy => by
  by_cases hc : c = ch
  · subst hc
    exact ⟨refreshed s c y, instAt_refresh hy, refreshed_slot s c y, fun h => by rwa [refreshed_status]⟩
  · exact ⟨y, (instAt_modChan_other s _ hc j).trans hy, rfl, id⟩

end InstsStay

/-- What is left of an instance whose remaining steps are skipped, RESULT apart (R165). -/
def skipped (g : Slot) (x : Inst) (status : Option Nat) : Inst :=
  { x with
    steps := (g.graph.steps.zip x.steps).map (fun p =>
      if p.1.engine == 9 then p.2
      else match p.2 with
        | .waiting => .skipped
        | .ready _ => .skipped
        | st => st)
    status := if x.status.isSome then x.status else status }

theorem skipRest_eq {s : State} {ch i : Nat} {x : Inst} {g : Slot} (hx : instAt s ch i = some x) (hg : instSlot s ch x = some g)
    (st : Option Nat) : s.skipRest ch i st =
      (s.modInst ch i (fun y => { y with
        steps := (skipped g x st).steps
        status := if y.status.isSome then y.status else st })).refresh ch := by
  unfold State.skipRest
  rw [hx]
  dsimp only
  rw [hg]
  rfl

theorem instsStay_skipRest {Q : Option Nat → Prop} {st : Option Nat} (hQ : Q none → Q st) (s : State) (ch i : Nat) :
    InstsStay Q s (s.skipRest ch i st) := by
  cases hx : instAt s ch i with
  | none =>
    rw [State.skipRest, hx]
    exact InstsStay.refl s
  | some x =>
    cases hg : instSlot s ch x with
    | none =>
      rw [State.skipRest, hx]
      dsimp only
      rw [hg]
      exact InstsStay.refl s
    | some g =>
      rw [skipRest_eq hx hg]
      refine InstsStay.trans ?_ (instsStay_refresh _ ch)
      refine instsStay_modInst s ch i fun y => ⟨rfl, fun hy => ?_⟩
      cases hst : y.status with
      | none => simpa using hQ (hst ▸ hy)
      | some a => simpa [hst] using hy

/-- The instance whose remaining steps are skipped. -/
theorem skipRest_inst {s : State} {ch i : Nat} {x : Inst} (hx : instAt s ch i = some x) (hg : (instSlot s ch x).isSome = true) (st : Option Nat) :
    ∃ l, instAt (s.skipRest ch i st) ch i = some { x with steps := l, status := if x.status.isSome then x.status else st } := by
  obtain ⟨g, hg⟩ := Option.isSome_iff_exists.1 hg
  rw [skipRest_eq hx hg]
  obtain ⟨l, hl⟩ := refreshed_steps (s.modInst ch i (fun y => { y with
    steps := (skipped g x st).steps
    status := if y.status.isSome then y.status else st })) ch { x with
    steps := (skipped g x st).steps
    status := if x.status.isSome then x.status else st }
  exact ⟨l, (instAt_refresh (instAt_modInst_self hx _)).trans (congrArg some hl)⟩

theorem skipRest_status {s : State} {ch i st : Nat} {x : Inst} (hx : instAt s ch i = some x) (hg : (instSlot s ch x).isSome = true) :
    ∃ y, instAt (s.skipRest ch i (some st)) ch i = some y ∧ y.status ≠ none := by
  obtain ⟨l, hl⟩ := skipRest_inst hx hg (some st)
  refine ⟨_, hl, ?_⟩
  cases h : x.status <;> simp

theorem skipRest_graphs (s : State) (ch i : Nat) (st : Option Nat) : (s.skipRest ch i st).core.work.graphs = s.core.work.graphs :=
  skipRest_unseen (F := fun s : State => s.core.work.graphs) (fun _ _ => rfl) s ch i st

/-! ### The drain limit of a turn (R466) -/

theorem instsStay_skipAll {Q : Option Nat → Prop} {st : Option Nat} (hQ : Q none → Q st) (l : List (Nat × Nat)) : ∀ s : State,
    InstsStay Q s (l.foldl (fun s p => s.skipRest p.1 p.2 st) s) := by
  induction l with
  | nil => exact InstsStay.refl
  | cons p l ih => exact fun s => (instsStay_skipRest hQ s p.1 p.2).trans (ih _)

theorem skipAll_status (st : Nat) (l : List (Nat × Nat)) : ∀ (s : State), ∀ e ∈ l, ∀ x, instAt s e.1 e.2 = some x →
    (instSlot s e.1 x).isSome = true →
    ∃ y, instAt (l.foldl (fun s p => s.skipRest p.1 p.2 (some st)) s) e.1 e.2 = some y ∧ y.status ≠ none := by
  induction l with
  | nil => exact fun s e he => absurd he List.not_mem_nil
  | cons p l ih =>
    intro s e he x hx hg
    rw [List.foldl_cons]
    rcases List.mem_cons.1 he with heq | hl
    · subst heq
      obtain ⟨y, hy, hst⟩ := skipRest_status (st := st) hx hg
      obtain ⟨z, hz, -, hst'⟩ := instsStay_skipAll (Q := (· ≠ none)) (st := some st) (fun h => absurd rfl h) l _ _ _ y hy
      exact ⟨z, hz, hst' hst⟩
    · obtain ⟨y, hy, hslot, -⟩ := instsStay_skipRest (Q := fun _ => True) (st := some st) id s p.1 p.2 e.1 e.2 x hx
      refine ih _ e hl y hy ?_
      rw [instSlot, hslot, graphAt, skipRest_graphs]
      exact hg

theorem exec_turnDrainLimit {s : State} (hrun : running s = true) {c : Nat} (hc : s.core.sec.turnClosed = some c)
    (hscrub : s.core.sys.scrub = false) (hlate : c + 2000000 < dtOf s) : exec .turnDrainLimit s =
      .next ((turnInsts s s.core.sec.holder true).foldl (fun s p => s.skipRest p.1 p.2 (some 0x20)) s) := by
  change execTurnDrainLimit s = _
  rw [execTurnDrainLimit, hc]
  exact congrArg Host.Outcome.next (if_pos (by simp [hrun, hscrub, hlate]))

/-! ### The close of a turn (R466) -/

/-- Who holds the ordinary channels, since when, and when the turn closed. -/
def turnView (s : State) : Option Nat × Nat × Nat := (s.core.sec.turnClosed, s.core.sec.holder, s.core.sec.turnBegan)

theorem deaf_turnView : Deaf turnView := ⟨fun _ _ => rfl, fun _ _ => rfl, fun _ _ _ => rfl, fun _ _ => rfl, fun _ _ _ _ _ => rfl⟩

theorem unrecorded_turnView : Unrecorded turnView where
  deaf := deaf_turnView
  err _ _ := rfl
  free _ _ := rfl
  sec _ _ := rfl
  area _ _ _ := rfl
  batch _ _ _ _ _ := rfl
  paid _ _ := rfl

theorem turnClose_acts {s : State} (hrun : running s = true) (hconf : s.core.sys.conf = true) (hscrub : s.core.sys.scrub = false)
    (hopen : s.core.sec.turnClosed = none) (hothers : ∃ c ∈ waitingContexts s, c ≠ s.core.sec.holder)
    (hsweep : (NMap.getD s.core.sec.contexts s.core.sec.holder {}).sweep = none)
    (hover : s.core.sec.turnBegan + 20000000 ≤ dtOf s ∨ waitsTurn s s.core.sec.holder = false) :
    ∃ t, exec .turnClose s = .next t ∧ turnView t = (some (dtOf s), s.core.sec.holder, s.core.sec.turnBegan) := by
  have hany : (waitingContexts s).any (· != s.core.sec.holder) = true := by
    obtain ⟨c, hc, hne⟩ := hothers
    exact List.any_eq_true.2 ⟨c, hc, by simpa using hne⟩
  have hq : (decide (s.core.sec.turnBegan + 20000000 ≤ dtOf s) || !waitsTurn s s.core.sec.holder) = true := by
    rcases hover with h | h <;> simp [h]
  refine ⟨_, congrArg Host.Outcome.next (if_neg ?_), ?_⟩
  · simp only [hrun, hconf, hscrub, hopen, hany, hq, hsweep]
    decide
  · exact dropQueued_unseen unrecorded_turnView _ _ _

/-! ### A scrub begins (R94, R457, R467) -/

theorem place_queues (s : State) (h st : Nat) (pl : List Byte) :
    (s.place h st pl).core.hat.queueM = s.core.hat.queueM ∧ (s.place h st pl).core.hat.queueG = s.core.hat.queueG := by
  rw [State.place, placeWith_eq]
  dsimp only
  obtain ⟨b, e, n, l, ht⟩ := traceRec_eq _ 0x40 h _ _
  rw [ht]
  split
  · rw [msi_eq]
    exact ⟨rfl, rfl⟩
  · exact ⟨rfl, rfl⟩

theorem takeOff_queues (s : State) (h : Nat) : (s.takeOff (reqOf s h)).core.hat.queueM = s.core.hat.queueM.filter (· != h) ∧
    (s.takeOff (reqOf s h)).core.hat.queueG = s.core.hat.queueG.filter (· != h) := by
  obtain ⟨b, e, n, l, ht⟩ := takeOff_eq s (reqOf s h)
  rw [ht]
  exact ⟨rfl, rfl⟩

theorem quiet_takeOff (s : State) (r : Req) : quiet (s.takeOff r) = quiet s := by
  obtain ⟨b, e, n, l, ht⟩ := takeOff_eq s r
  rw [ht]
  rfl

/-- The hatches of a list are taken and refused. -/
theorem refused_queues (l : List Nat) : ∀ s : State,
    (l.foldl (fun s h => (s.takeOff (reqOf s h)).place h 0x14) s).core.hat.queueM = s.core.hat.queueM.filter (fun h => !l.contains h) ∧
      (l.foldl (fun s h => (s.takeOff (reqOf s h)).place h 0x14) s).core.hat.queueG = s.core.hat.queueG.filter (fun h => !l.contains h) := by
  induction l with
  | nil =>
    intro s
    simp
  | cons a l ih =>
    intro s
    obtain ⟨hm, hg⟩ := ih ((s.takeOff (reqOf s a)).place a 0x14)
    obtain ⟨hpm, hpg⟩ := place_queues (s.takeOff (reqOf s a)) a 0x14 []
    obtain ⟨htm, htg⟩ := takeOff_queues s a
    have hone (q : List Nat) : (q.filter (· != a)).filter (fun h => !l.contains h) = q.filter (fun h => !(a :: l).contains h) := by
      rw [List.filter_filter]
      refine List.filter_congr fun h _ => ?_
      rw [List.contains_cons, Bool.not_or, Bool.and_comm]
      rfl
    rw [List.foldl_cons, hm, hg, hpm, hpg, htm, htg, hone, hone]
    exact ⟨rfl, rfl⟩

theorem refuseWaiting_queues (s : State) : s.refuseWaiting.core.hat.queueM = [] ∧ s.refuseWaiting.core.hat.queueG = [] := by
  obtain ⟨hm, hg⟩ := refused_queues (s.core.hat.queueM ++ s.core.hat.queueG) s
  refine ⟨hm.trans (List.filter_eq_nil_iff.2 fun h hh => ?_), hg.trans (List.filter_eq_nil_iff.2 fun h hh => ?_)⟩
  · simp [hh]
  · simp [hh]

/-- What neither a hatch's response nor the trace or event ring shows. -/
theorem refuseWaiting_quiet (s : State) : quiet s.refuseWaiting = quiet s :=
  foldl_unseen (F := quiet) (fun s h => (quiet_place (s.takeOff (reqOf s h)) h 0x14 []).trans (quiet_takeOff s _)) _ s

theorem freeSessions_facts (l : List Nat) : ∀ s : State,
    dtOf (l.foldl State.freeSession s) = dtOf s ∧
      ∀ e ∈ (l.foldl State.freeSession s).core.work.sess, e ∈ s.core.work.sess ∧ e.1 ∉ l := by
  induction l with
  | nil => exact fun s => ⟨rfl, fun e he => ⟨he, List.not_mem_nil⟩⟩
  | cons a l ih =>
    intro s
    obtain ⟨-, htime, hwork, -⟩ := freeSession_rest s a
    obtain ⟨hdt, hmem⟩ := ih (s.freeSession a)
    refine ⟨hdt.trans (congrArg (fun t : Time => (t.acc >>> 32).toNat) htime), fun e he => ?_⟩
    obtain ⟨hin, hnot⟩ := hmem e he
    rw [hwork] at hin
    obtain ⟨hin, hne⟩ := List.mem_filter.1 hin
    exact ⟨hin, fun h => (List.mem_cons.1 h).elim (fun heq => absurd heq (by simpa using hne)) hnot⟩

/-- The sessions that a scrub ends. -/
def scrubSessions (s : State) : ScrubFor → State
  | .destroy c => ((s.core.work.sess.filter (fun (e : Nat × Session) => e.2.owner == c)).map Prod.fst).foldl State.freeSession s
  | .turn => s
  | .mode => s

theorem scrubSessions_facts (s : State) (f : ScrubFor) : dtOf (scrubSessions s f) = dtOf s ∧
    ∀ c, f = .destroy c → ∀ e ∈ (scrubSessions s f).core.work.sess, e.2.owner ≠ c := by
  cases f with
  | destroy c =>
    obtain ⟨hdt, hmem⟩ := freeSessions_facts ((s.core.work.sess.filter (fun (e : Nat × Session) => e.2.owner == c)).map Prod.fst) s
    refine ⟨hdt, fun c' hc' e he howner => ?_⟩
    cases hc'
    obtain ⟨hin, hnot⟩ := hmem e he
    exact hnot (List.mem_map.2 ⟨e, List.mem_filter.2 ⟨hin, by simp [howner]⟩, rfl⟩)
  | turn => exact ⟨rfl, fun _ h => absurd h ScrubFor.noConfusion⟩
  | mode => exact ⟨rfl, fun _ h => absurd h ScrubFor.noConfusion⟩

/-- A scrub has begun. -/
def scrubBegun (s : State) (f : ScrubFor) : State :=
  State.refuseWaiting <| ((((scrubSessions s f).modSec (fun c => { c with scrubFor := some f, scrubBegan := dtOf (scrubSessions s f) })).modSys
    (fun y => { y with scrub := true })).event 0x0005 [leBytes 1 0]).traceRec 0xF2 0 []

theorem exec_scrubBegin {s : State} {f : ScrubFor} (hrun : running s = true) (hphase : s.core.sys.phase = .ready)
    (hscrub : s.core.sys.scrub = false) (hmode : hatchesWith s isModeJob = []) (hdue : scrubDue s = some f) :
    exec .scrubBegin s = .next (scrubBegun s f) := by
  have hproceed : s.modeProceed = s := by
    unfold State.modeProceed
    rw [hmode]
    rfl
  change execScrubBegin s = _
  rw [execScrubBegin, hproceed]
  refine congrArg Host.Outcome.next ((if_neg (by simp [hrun, hphase, hscrub])).trans ?_)
  rw [hdue]
  cases f <;> rfl

theorem scrubBegun_quiet (s : State) (f : ScrubFor) : quiet (scrubBegun s f) =
    quiet (((scrubSessions s f).modSec (fun c => { c with scrubFor := some f, scrubBegan := dtOf (scrubSessions s f) })).modSys
      (fun y => { y with scrub := true })) := by
  rw [scrubBegun, refuseWaiting_quiet, quiet_traceRec, quiet_event]

theorem scrubBegun_facts (s : State) (f : ScrubFor) : (scrubBegun s f).core.sys.scrub = true ∧ (scrubBegun s f).core.sec.scrubFor = some f ∧
    (scrubBegun s f).core.sec.scrubBegan = dtOf s ∧ (scrubBegun s f).core.work.sess = (scrubSessions s f).core.work.sess := by
  have h := scrubBegun_quiet s f
  have hsec := congrArg (fun c : Core => c.sec) h
  refine ⟨congrArg (fun c : Core => c.sys.scrub) h, congrArg Sec.scrubFor hsec, (congrArg Sec.scrubBegan hsec).trans (scrubSessions_facts s f).1,
    congrArg Work.sess (congrArg Core.work h :)⟩

/-! ### A scrub ends (R457, R467) -/

/-- Whether a scrub runs, and how many have been done. -/
def scrubView (s : State) : Bool × Nat := (s.core.sys.scrub, NMap.getD s.core.obs.counters (secCtr 4) 0)

theorem deaf_scrubView : Deaf scrubView := ⟨fun _ _ => rfl, fun _ _ => rfl, fun _ _ _ => rfl, fun _ _ => rfl, fun _ _ _ _ _ => rfl⟩

theorem removeEvent_scrubView (s : State) (k : Nat) : scrubView (s.removeEvent k) = scrubView s := by
  unfold State.removeEvent
  split
  · rfl
  · next e _ =>
    refine holds_ite (P := fun t : State => scrubView t = scrubView s) (Prod.ext rfl (counted_bump_other _ 1 ?_)) rfl
    have hport : bits e.arg 8 8 < 2 := Nat.mod_lt _ (by decide)
    unfold secCtr timeCtr
    omega

theorem freePage_scrubView (s : State) (p : Nat) : scrubView (s.freePage p) = scrubView s := by
  unfold State.freePage
  split
  · rfl
  · next x _ =>
    obtain ⟨l, hl⟩ := freeFrame_free (s.modTiers (fun t =>
      { t with pages := NMap.erase t.pages p, freePages := t.freePages ++ [p], freed := NMap.set t.freed p x })) x.near x.frame
    rw [hl]
    rfl

theorem removeEvents_scrubView (s : State) (f : EvEntry → Bool) : scrubView (s.removeEvents f) = scrubView s :=
  foldl_unseen (F := scrubView) (fun s k => removeEvent_scrubView s k) _ s

theorem endContext_scrubView (s : State) (c : Nat) : scrubView (s.endContext c) = scrubView s := by
  unfold State.endContext
  dsimp only
  rw [deaf_scrubView.event]
  generalize hv : List.foldl State.freePage s _ = v
  have hpages : scrubView v = scrubView s := hv ▸ foldl_unseen (F := scrubView) freePage_scrubView _ s
  generalize hu : State.removeEvents _ _ = u
  have hevents : scrubView u = scrubView v := hu ▸ removeEvents_scrubView _ _
  exact hevents.trans hpages

/-- The engines are cleared, and the scrub is reported ended. -/
def scrubOver (s : State) : State :=
  ((((s.clearEngines (s.core.sec.scrubFor != some .turn)).modSys (fun y => { y with scrub := false })).bump (secCtr 4) 1).event 0x0005
    [leBytes 1 1]).traceRec 0xF2 1 []

/-- What a scrub for a context's destruction leaves to be done. -/
def destroyScrubbed (u : State) (c : Nat) : State :=
  let u := u.modSec (fun x => { x with scrubFor := none, contexts := NMap.upd x.contexts c (fun t => { t with scrubbed := true }) })
  let u := if held u (.ctx c) then u else u.endContext c
  if u.core.sys.conf && u.core.sec.holder == c then u.nextTurn else u

theorem scrubOver_view (s : State) : scrubView (scrubOver s) = (false, NMap.getD s.core.obs.counters (secCtr 4) 0 + 1) := by
  rw [scrubOver, deaf_scrubView.traceRec, deaf_scrubView.event]
  exact Prod.ext rfl (NMap.getD_bump_self _ _ 1)

theorem scrubOver_rest (s : State) :
    (scrubOver s).core.sec = s.core.sec ∧ (scrubOver s).core.hat = s.core.hat ∧ dtOf (scrubOver s) = dtOf s := by
  generalize hu : (((s.clearEngines (s.core.sec.scrubFor != some .turn)).modSys (fun y => { y with scrub := false })).bump (secCtr 4) 1) = u
  have hq : quiet (scrubOver s) = quiet u := by rw [scrubOver, hu, quiet_traceRec, quiet_event]
  have hsec : (scrubOver s).core.sec = u.core.sec := (congrArg (fun c : Core => c.sec) hq :)
  have hhat : (scrubOver s).core.hat = u.core.hat := by rw [scrubOver, hu, deaf_hat.traceRec, deaf_hat.event]
  rw [hsec, hhat, dtOf_of_quiet hq, ← hu]
  exact ⟨rfl, rfl, rfl⟩

theorem destroyScrubbed_view (u : State) (c : Nat) : scrubView (destroyScrubbed u c) = scrubView u := by
  unfold destroyScrubbed
  dsimp only
  generalize hv : State.modSec u _ = v
  have hview : scrubView v = scrubView u := by rw [← hv]; rfl
  generalize hw : ite (held v (.ctx c) = true) v (v.endContext c) = w
  have hend : scrubView w = scrubView v := by
    rw [← hw]
    exact holds_ite (P := fun t : State => scrubView t = scrubView v) rfl (endContext_scrubView v c)
  exact holds_ite (P := fun t : State => scrubView t = scrubView u) (hend.trans hview) (hend.trans hview)

theorem destroyScrubbed_held {u : State} {c : Nat} {x : Tenant} (hheld : held u (.ctx c) = true) (hx : NMap.get? u.core.sec.contexts c = some x) :
    NMap.get? (destroyScrubbed u c).core.sec.contexts c = some { x with scrubbed := true } := by
  have hupd : NMap.get? (NMap.upd u.core.sec.contexts c (fun t => { t with scrubbed := true })) c = some { x with scrubbed := true } :=
    NMap.get_upd hx _
  unfold destroyScrubbed
  dsimp only
  rw [if_pos (show held (u.modSec _) (.ctx c) = true from hheld)]
  exact holds_ite (P := fun t : State => NMap.get? t.core.sec.contexts c = some { x with scrubbed := true }) hupd hupd

/-- What the end of a scrub leaves to be done, by what the scrub was for. -/
def scrubClosed (u : State) : Option ScrubFor → State
  | some (.destroy c) => destroyScrubbed u c
  | some .turn => u.nextTurn
  | some .mode => u
  | none => u

theorem scrubClosed_view (u : State) (f : Option ScrubFor) : scrubView (scrubClosed u f) = scrubView u := by
  cases f with
  | none => rfl
  | some f =>
    cases f with
    | destroy c => exact destroyScrubbed_view u c
    | turn => rfl
    | mode => rfl

theorem exec_scrubEnd {s : State} (hrun : running s = true) (hscrub : s.core.sys.scrub = true) :
    exec .scrubEnd s = .next (scrubClosed (scrubOver s) s.core.sec.scrubFor) := by
  change execScrubEnd s = _
  exact congrArg Host.Outcome.next ((if_neg (by simp [hrun, hscrub])).trans rfl)

/-- Settles O39. -/
theorem turnsAndScrubsTakeEffect : Obligations.TurnsAndScrubsTakeEffect := by
  unfold Obligations.TurnsAndScrubsTakeEffect
  intro s hrun
  refine ⟨fun hconf hscrub hopen hothers hsweep hover => ?close, fun c hc hscrub hlate => ?drain,
    fun f hphase hscrub hmode hdue => ?begin, fun hscrub => ?finish⟩
  case close =>
    obtain ⟨t, ht, hview⟩ := turnClose_acts hrun hconf hscrub hopen hothers hsweep hover
    simp only [turnView, Prod.mk.injEq] at hview
    exact ⟨t, ht, hview⟩
  case drain => exact ⟨_, exec_turnDrainLimit hrun hc hscrub hlate, fun e he x hx hg => skipAll_status 0x20 _ s e he x hx hg⟩
  case begin =>
    obtain ⟨hs, hfor, hbegan, hsess⟩ := scrubBegun_facts s f
    obtain ⟨hm, hg⟩ : (scrubBegun s f).core.hat.queueM = [] ∧ (scrubBegun s f).core.hat.queueG = [] := refuseWaiting_queues _
    exact ⟨_, exec_scrubBegin hrun hphase hscrub hmode hdue, hs, hfor, hbegan, hm, hg, fun c hc => hsess ▸ (scrubSessions_facts s f).2 c hc⟩
  case finish =>
    obtain ⟨hsec, hhat, hdt⟩ := scrubOver_rest s
    have hview := (scrubClosed_view (scrubOver s) s.core.sec.scrubFor).trans (scrubOver_view s)
    refine ⟨_, exec_scrubEnd hrun hscrub, congrArg Prod.fst hview, congrArg Prod.snd hview, fun hfor => ?_, fun c x hfor hheld hx => ?_⟩
    · rw [hfor]
      exact ⟨rfl, hdt, rfl⟩
    · rw [hfor]
      refine destroyScrubbed_held ?_ (hsec ▸ hx)
      rw [held, hhat]
      exact hheld

end Sys2Proof.Machine
end

section
/-! Waiting work becomes instances, and items end (R62, R64, R159). -/
namespace Sys2Proof.Machine

/-! ### The status of an item (R56, R57) -/

/-- The batches, which a record's delivery leaves alone. -/
def batchesOf (s : State) : NMap Batch := s.core.work.batches

theorem undelivered_batchesOf : Undelivered batchesOf where
  deaf := ⟨fun _ _ => rfl, fun _ _ => rfl, fun _ _ _ => rfl, fun _ _ => rfl, fun _ _ _ _ _ => rfl⟩
  err _ _ := rfl
  free _ _ := rfl
  sec _ _ := rfl
  area _ _ _ := rfl
  paid _ _ := rfl

theorem itemAt_modItem (s : State) (b n c m : Nat) (f : Item → Item) :
    itemAt (s.modBatch b (fun y => { y with items := updAt y.items n f })) c m =
      if c = b ∧ m = n then (itemAt s c m).map f else itemAt s c m := by
  by_cases hc : c = b
  · subst hc
    rw [itemAt, batchAt_modBatch, itemAt]
    cases batchAt s c with
    | none => simp
    | some y =>
      simp only [Option.map_some, Option.bind_some, updAt, true_and]
      rw [List.getElem?_modify]
      by_cases hm : m = n
      · subst hm
        simp
      · rw [if_neg hm]
        simp [Ne.symm hm]
  · rw [if_neg fun h => hc h.1]
    exact congrArg (Option.bind · _) (NMap.get_upd_other s.core.work.batches _ hc)

/-- The status of an item, where there is one. -/
def itemStatus (s : State) (b n : Nat) : Option (Option Nat) := (itemAt s b n).map Item.status

theorem itemStatus_written (s : State) (b n c m : Nat) :
    itemStatus (s.modBatch b (fun y => { y with items := updAt y.items n (fun e => { e with written := true }) })) c m = itemStatus s c m := by
  rw [itemStatus, itemAt_modItem]
  split
  · rw [Option.map_map]
    rfl
  · rfl

theorem itemStatus_of_batches {s t : State} (h : batchesOf t = batchesOf s) (b n : Nat) : itemStatus t b n = itemStatus s b n :=
  (congrArg (fun m : NMap Batch => ((NMap.get? m b).bind (fun x => x.items[n]?)).map Item.status) h :)

theorem flushItems_status (b c m : Nat) : ∀ (l : List (Nat × Item)) (before : List Item) (s : State),
    itemStatus (State.flushItems b l before s) c m = itemStatus s c m
  | [], _, _ => rfl
  | (i, it) :: l, before, s => by
    unfold State.flushItems
    dsimp only
    split
    · split
      · exact flushItems_status b c m l _ s
      · rw [flushItems_status b c m l, itemStatus_written]
        split
        · exact itemStatus_of_batches (undelivered_batchesOf.deliver _ _ _) c m
        · rfl
    · exact flushItems_status b c m l _ s

theorem endItem_status {s : State} {b n : Nat} {it : Item} (hit : itemAt s b n = some it) (hopen : it.status = none) (st hflags : Nat) (sat : Bool)
    (v : Nat) : ∃ y, itemAt (s.endItem b n st hflags sat v) b n = some y ∧ y.status = some st := by
  have hmod : itemStatus (s.modBatch b (fun y => { y with items := updAt y.items n (fun e =>
      if e.status.isSome then e else { e with status := some st, hflags := hflags, saturated := sat, version := v }) })) b n = some (some st) := by
    rw [itemStatus, itemAt_modItem, if_pos ⟨rfl, rfl⟩, hit]
    simp [hopen]
  have hend : itemStatus (s.endItem b n st hflags sat v) b n = some (some st) := by
    unfold State.endItem
    dsimp only
    split
    · exact (flushItems_status b b n _ _ _).trans hmod
    · exact hmod
  simpa [itemStatus, Option.map_eq_some_iff] using hend

theorem endItem_chans (s : State) (b n st hflags : Nat) (sat : Bool) (v : Nat) : (s.endItem b n st hflags sat v).core.chans = s.core.chans :=
  congrArg (fun p : Hatches × Time × List Chan => p.2.2) (unrecorded_placeAndWork.endItem s b n st hflags sat v)

/-! ### A new instance (R159, R161) -/

theorem refresh_chan {α : Type} (g : Chan → α) (hg : ∀ c l, g { c with insts := l } = g c) (s : State) (ch c : Nat) :
    g (chanAt (s.refresh ch) c) = g (chanAt s c) := by
  rw [refresh_eq]
  exact chanAt_modChan_same g (fun _ => hg _ _) s ch c

/-- An instance as its creation leaves it. -/
structure Fresh (s : State) (w : Waiting) (y : Inst) : Prop where
  origin : y.origin = w.origin
  ctx : y.ctx = w.ctx
  sid : y.sid = w.sid
  deadline : y.deadline = w.deadline
  tags : y.tags = []
  mem : y.mem = []
  version : y.mapVersion = s.core.map.pin

theorem Fresh.refreshed {s : State} {w : Waiting} {y : Inst} (h : Fresh s w y) (u : State) (ch : Nat) : Fresh s w (refreshed u ch y) := by
  obtain ⟨l, hl⟩ := refreshed_steps u ch y
  rw [hl]
  exact ⟨h.origin, h.ctx, h.sid, h.deadline, h.tags, h.mem, h.version⟩

theorem createInst_fresh {s : State} {ch i : Nat} {w : Waiting} {g : Slot} (hlt : ch < s.core.chans.length) (hg : graphAt s ch w.slot = some g) :
    (∃ y, instAt (s.createInst ch i w) ch i = some y ∧ Fresh s w y) ∧
      (chanAt (s.createInst ch i w) ch).queue = (chanAt s ch).queue ∧ (s.createInst ch i w).core.work.graphs = s.core.work.graphs := by
  unfold State.createInst
  rw [hg]
  dsimp only
  generalize hy : Inst.mk _ _ _ _ _ _ _ _ _ _ _ _ _ _ _ _ _ _ _ _ _ _ _ _ _ _ _ _ _ _ = y
  have hfresh : Fresh s w y := by
    rw [← hy]
    exact ⟨rfl, rfl, rfl, rfl, rfl, rfl, rfl⟩
  refine ⟨⟨refreshed _ ch y, instAt_refresh ?_, hfresh.refreshed _ ch⟩, ?_, rfl⟩
  · rw [instAt, chanAt_modChan_self hlt]
    exact NMap.get_set _ _ _
  · rw [refresh_chan Chan.queue (fun _ _ => rfl)]
    exact chanAt_modChan_same Chan.queue (f := fun c => { c with insts := NMap.set c.insts i y }) (fun _ => rfl) s ch ch

theorem startInst_fresh {s : State} {ch i : Nat} {w : Waiting} {g : Slot} (hlt : ch < s.core.chans.length) (hg : graphAt s ch w.slot = some g)
    (hlost : g.copyLost = false) (cost : Nat) : (∃ y, instAt (s.startInst ch i w cost) ch i = some y ∧ Fresh s w y) ∧
      (chanAt (s.startInst ch i w cost) ch).queue = (chanAt s ch).queue.erase w := by
  have hqueue : (chanAt (s.unqueue ch w) ch).queue = (chanAt s ch).queue.erase w := by
    rw [State.unqueue, chanAt_modChan_self hlt]
  obtain ⟨⟨y, hy, hfresh⟩, hq, hgraphs⟩ := createInst_fresh (s := s.unqueue ch w) (i := i) (by simpa [State.unqueue, State.modChan, length_updAt] using hlt) hg
  unfold State.startInst
  dsimp only
  generalize State.createInst (s.unqueue ch w) ch i w = u at hy hq hgraphs
  have hinst : instAt (u.modInst ch i (fun x => { x with cost := cost })) ch i = some { y with cost := cost } := instAt_modInst_self hy _
  have hrest : (chanAt (u.modInst ch i (fun x => { x with cost := cost })) ch).queue = (chanAt s ch).queue.erase w :=
    (chanAt_modChan_same Chan.queue (f := fun c => { c with insts := NMap.upd c.insts i (fun x => { x with cost := cost }) }) (fun _ => rfl)
      u ch ch).trans (hq.trans hqueue)
  have hfresh' : Fresh s w { y with cost := cost } :=
    ⟨hfresh.origin, hfresh.ctx, hfresh.sid, hfresh.deadline, hfresh.tags, hfresh.mem, hfresh.version⟩
  generalize hv : u.modInst ch i (fun x => { x with cost := cost }) = v at hinst hrest
  have hgraphs' : v.core.work.graphs = s.core.work.graphs := by
    rw [← hv]
    exact hgraphs
  have hkept (t : State) (hchans : t.core.chans = v.core.chans) (hgr : t.core.work.graphs = v.core.work.graphs) :
      (∃ y, instAt (if ((graphAt t ch w.slot).map (·.copyLost)).getD false then t.endEarly ch i 0x22 else t) ch i = some y ∧ Fresh s w y) ∧
        (chanAt (if ((graphAt t ch w.slot).map (·.copyLost)).getD false then t.endEarly ch i 0x22 else t) ch).queue =
          (chanAt s ch).queue.erase w := by
    have hgraph : graphAt t ch w.slot = some g := by rw [graphAt, hgr, hgraphs', ← graphAt, hg]
    rw [if_neg (by simp [hgraph, hlost]), instAt, chanAt, hchans]
    exact ⟨⟨_, hinst, hfresh'⟩, hrest⟩
  split
  · exact hkept _ rfl rfl
  · exact hkept _ rfl rfl

/-! ### The creation of an instance (R62, R64, R159) -/

section Creates
variable {s : State} {ch slot : Nat} {w : Waiting} {i : Nat} {g : Slot} (hrun : running s = true) (hin : (chanAt s ch).inService = true)
  (hw : (chanAt s ch).queue.find? (fun w => w.slot == slot && eligible s ch w) = some w) (hi : freeInst s ch slot = some i)
  (hg : graphAt s ch slot = some g)
include hrun hin hw hi hg

theorem exec_instanceCreate_other (ho : ∀ b n, w.origin ≠ .item b n) : exec (.instanceCreate ch slot) s = .next (s.startInst ch i w 0) := by
  change execInstanceCreate ch slot s = _
  rw [execInstanceCreate, hw, hi, hg]
  dsimp only
  rw [if_neg (by simp [hrun, hin])]
  split
  · exact absurd ‹_› (ho _ _)
  · rfl

/-- What the creation makes of an item. -/
theorem exec_instanceCreate_item {b n : Nat} {it : Item} {x : Session} (ho : w.origin = .item b n) (hit : itemAt s b n = some it)
    (hx : w.sid.bind (sessAt s) = some x) (hadmits : graphAdmits s g.graph w.ctx = true) : exec (.instanceCreate ch slot) s = .next (
      if (g.graph.kind == 4 || g.graph.kind == 5) = true then s.startInst ch i w 0
      else if admits s ch x (visionCost g.graph g.graph.kind (x.ctx.sensors.getD it.slot {}) it.bytes it.len) = true then
        ((s.modSess it.sid (fun y => { y with lastFrame := some (dtOf s) })).startInst ch i w
          (visionCost g.graph g.graph.kind (x.ctx.sensors.getD it.slot {}) it.bytes it.len)).modInst ch i (fun z =>
            { z with admitted := some (dtOf s, x.lastFrame) })
      else if (g.graph.kind == 6) = true then ((s.countThinned ch it.sid).startInst ch i w 0).onlyRecords ch i
      else ((s.countThinned ch it.sid).unqueue ch w).endItem b n 0x24 0 false (s.countThinned ch it.sid).core.map.version.toNat) := by
  change execInstanceCreate ch slot s = _
  rw [execInstanceCreate, hw, hi, hg]
  dsimp only
  rw [if_neg (by simp [hrun, hin]), ho]
  dsimp only
  rw [hit, hx]
  dsimp only
  rw [if_neg (by simp [hadmits])]

end Creates

theorem graphAt_of_queued {s : State} {ch slot : Nat} {w : Waiting} {g : Slot}
    (hw : (chanAt s ch).queue.find? (fun w => w.slot == slot && eligible s ch w) = some w) (hg : graphAt s ch slot = some g) :
    graphAt s ch w.slot = some g := by
  have h := List.find?_some hw
  rw [Bool.and_eq_true, beq_iff_eq] at h
  rw [h.1, hg]

/-- An admitted item becomes an instance. -/
theorem startInst_admitted {s : State} {ch i : Nat} {w : Waiting} {g : Slot} (hlt : ch < s.core.chans.length)
    (hg : graphAt s ch w.slot = some g) (hlost : g.copyLost = false) (sid cost : Nat) (f : Session → Session) (a : Option (Nat × Option Nat)) :
    (∃ y, instAt (((s.modSess sid f).startInst ch i w cost).modInst ch i (fun z => { z with admitted := a })) ch i = some y ∧ Fresh s w y) ∧
      (chanAt (((s.modSess sid f).startInst ch i w cost).modInst ch i (fun z => { z with admitted := a })) ch).queue =
        (chanAt s ch).queue.erase w := by
  obtain ⟨⟨y, hy, hfresh⟩, hq⟩ := startInst_fresh (s := s.modSess sid f) (i := i) hlt hg hlost cost
  generalize (s.modSess sid f).startInst ch i w cost = u at hy hq
  refine ⟨⟨{ y with admitted := a }, instAt_modInst_self hy _, ?_⟩, ?_⟩
  · exact ⟨hfresh.origin, hfresh.ctx, hfresh.sid, hfresh.deadline, hfresh.tags, hfresh.mem, hfresh.version⟩
  · exact (chanAt_modChan_same Chan.queue (f := fun c => { c with insts := NMap.upd c.insts i (fun z => { z with admitted := a }) })
      (fun _ => rfl) u ch ch).trans hq

theorem countThinned_queue (s : State) (c sid ch : Nat) : (chanAt (s.countThinned c sid) ch).queue = (chanAt s ch).queue := by
  change (((s.core.chans.map _).getD ch { present := false } : Chan)).queue = ((s.core.chans.getD ch { present := false } : Chan)).queue
  rw [List.getD_eq_getElem?_getD, List.getD_eq_getElem?_getD, List.getElem?_map]
  cases s.core.chans[ch]? <;> rfl

/-- Settles O40. -/
theorem instancesAreCreated : Obligations.InstancesAreCreated := by
  unfold Obligations.InstancesAreCreated
  intro s ch slot w i g hrun hin hw hi hg hlost
  have hlt := length_of_inService hin
  have hgw := graphAt_of_queued hw hg
  refine ⟨fun hcase => ?starts, fun b n it x ho hit hopen hx hgraph h4 h5 h6 hno => ?thinned⟩
  case starts =>
    have hstarted (t : State) (ht : exec (.instanceCreate ch slot) s = .next t)
        (hfacts : (∃ y, instAt t ch i = some y ∧ Fresh s w y) ∧ (chanAt t ch).queue = (chanAt s ch).queue.erase w) :
        ∃ t y, exec (.instanceCreate ch slot) s = .next t ∧ instAt t ch i = some y ∧ y.origin = w.origin ∧ y.ctx = w.ctx ∧ y.sid = w.sid ∧
          y.deadline = w.deadline ∧ y.tags = [] ∧ y.mem = [] ∧ y.mapVersion = s.core.map.pin ∧
          (chanAt t ch).queue = (chanAt s ch).queue.erase w := by
      obtain ⟨⟨y, hy, h⟩, hq⟩ := hfacts
      exact ⟨t, y, ht, hy, h.origin, h.ctx, h.sid, h.deadline, h.tags, h.mem, h.version, hq⟩
    rcases hcase with hother | ⟨b, n, it, x, ho, hit, hx, hgraph, hadmit⟩
    · exact hstarted _ (exec_instanceCreate_other hrun hin hw hi hg hother) (startInst_fresh hlt hgw hlost 0)
    · have hexec := exec_instanceCreate_item hrun hin hw hi hg ho hit hx hgraph
      by_cases hkind : (g.graph.kind == 4 || g.graph.kind == 5) = true
      · rw [if_pos hkind] at hexec
        exact hstarted _ hexec (startInst_fresh hlt hgw hlost 0)
      · have hadm : admits s ch x (visionCost g.graph g.graph.kind (x.ctx.sensors.getD it.slot {}) it.bytes it.len) = true := by
          simp only [Bool.or_eq_true, beq_iff_eq, not_or] at hkind
          exact (hadmit.resolve_left hkind.1).resolve_left hkind.2
        rw [if_neg hkind, if_pos hadm] at hexec
        exact hstarted _ hexec (startInst_admitted hlt hgw hlost it.sid _ _ _)
  case thinned =>
    have hexec := exec_instanceCreate_item hrun hin hw hi hg ho hit hx hgraph
    rw [if_neg (by simp [h4, h5]), if_neg (by rw [hno]; decide), if_neg (by simp [h6])] at hexec
    have hit' : itemAt ((s.countThinned ch it.sid).unqueue ch w) b n = some it := hit
    obtain ⟨y, hy, hst⟩ := endItem_status hit' hopen 0x24 0 false (s.countThinned ch it.sid).core.map.version.toNat
    refine ⟨_, y, hexec, hy, hst, ?_⟩
    rw [chanAt, endItem_chans, ← chanAt, State.unqueue, chanAt_modChan_self, countThinned_queue]
    simpa [State.countThinned, State.modCtx] using hlt

end Sys2Proof.Machine
end

section
/-! Steps are dispatched, end, and break off after a stall (R32, R161, R163, R165, R167). -/
namespace Sys2Proof.Machine

/-! ### Engines -/

theorem modInst_chan {α : Type} (g : Chan → α) (hg : ∀ c l, g { c with insts := l } = g c) (s : State) (ch i : Nat) (f : Inst → Inst) (c : Nat) :
    g (chanAt (s.modInst ch i f) c) = g (chanAt s c) :=
  chanAt_modChan_same g (fun _ => hg _ _) s ch c

theorem skipRest_chan {α : Type} (g : Chan → α) (hg : ∀ c l, g { c with insts := l } = g c) (s : State) (ch i : Nat) (st : Option Nat) (c : Nat) :
    g (chanAt (s.skipRest ch i st) c) = g (chanAt s c) := by
  unfold State.skipRest
  split
  · rfl
  · split
    · rfl
    · rw [refresh_chan g hg, modInst_chan g hg]

/-- An engine that is not as an idle one is an engine of a channel. -/
theorem engine_lt_of_ne {s : State} {ch e : Nat} (h : (chanAt s ch).engines.getD e {} ≠ {}) :
    ch < s.core.chans.length ∧ e < (chanAt s ch).engines.length := by
  constructor
  · by_contra hlt
    refine h ?_
    rw [chanAt, List.getD_eq_default _ _ (Nat.le_of_not_lt hlt), List.getD_eq_getElem?_getD, List.getElem?_replicate]
    split <;> rfl
  · by_contra hlt
    exact h (List.getD_eq_default _ _ (Nat.le_of_not_lt hlt))

theorem engine_lt {s : State} {ch e : Nat} {p : Nat × Nat} (h : ((chanAt s ch).engines.getD e {}).run = some p) :
    ch < s.core.chans.length ∧ e < (chanAt s ch).engines.length :=
  engine_lt_of_ne fun heq => by rw [heq] at h; cases h

theorem engine_stalls_lt {s : State} {ch e c : Nat} (h : ((chanAt s ch).engines.getD e {}).stall = some c) :
    ch < s.core.chans.length ∧ e < (chanAt s ch).engines.length :=
  engine_lt_of_ne fun heq => by rw [heq] at h; cases h

theorem engine_modEngine {s : State} {ch e : Nat} (hch : ch < s.core.chans.length) (he : e < (chanAt s ch).engines.length) (f : Engine → Engine) :
    (chanAt (s.modEngine ch e f) ch).engines.getD e {} = f ((chanAt s ch).engines.getD e {}) := by
  rw [State.modEngine, chanAt_modChan_self hch]
  exact getD_updAt_self _ _ _ _ he

theorem instAt_modEngine (s : State) (ch e c i : Nat) (f : Engine → Engine) : instAt (s.modEngine ch e f) c i = instAt s c i :=
  chanAt_modChan_same (fun c => NMap.get? c.insts i) (f := fun c => { c with engines := updAt c.engines e f }) (fun _ => rfl) s ch c

/-- What an engine runs. -/
theorem runningStep_facts {s : State} {ch e i k : Nat} {x : Inst} {g : Slot} {p : GStep} (h : runningStep s ch e = some (i, x, g, k, p)) :
    ((chanAt s ch).engines.getD e {}).run = some (i, k) ∧ instAt s ch i = some x ∧ instSlot s ch x = some g ∧ g.graph.steps[k]? = some p := by
  unfold runningStep at h
  split at h
  · cases h
  · next j m hrun =>
    split at h
    · cases h
    · next y hy =>
      split at h
      · cases h
      · next f hf =>
        obtain ⟨q, hq, heq⟩ := Option.map_eq_some_iff.1 h
        simp only [Prod.mk.injEq] at heq
        obtain ⟨hi, hx, hg, hk, hp⟩ := heq
        subst hi hx hg hk hp
        exact ⟨hrun, hy, hf, hq⟩

/-! ### The end of a step (R161, R167) -/

theorem endStep_tags (x : Inst) (p : GStep) (k : Nat) : ∀ b ∈ p.outs.flatMap rangeBlocks, b ∈ (x.endStep p k).tags := fun _ hb =>
  List.mem_eraseDups.2 (List.mem_append_right _ hb)

/-- The instance whose step has ended. -/
theorem finishStep_inst {s : State} {ch i : Nat} {x : Inst} (hx : instAt s ch i = some x) (k : Nat) (p : GStep) :
    ∃ u : State, u.core.work = s.core.work ∧ instAt (s.finishStep ch i k p) ch i = some (refreshed u ch (x.endStep p k)) := by
  refine ⟨_, ?_, instAt_refresh ((instAt_modEngine _ _ _ _ _ _).trans (instAt_modInst_self hx _))⟩
  rfl

theorem finishStep_engine {s : State} {ch i k : Nat} {p : GStep} (h : ((chanAt s ch).engines.getD (engineOf p.engine) {}).run = some (i, k)) :
    ((chanAt (s.finishStep ch i k p) ch).engines.getD (engineOf p.engine) {}).run = none := by
  obtain ⟨hch, he⟩ := engine_lt h
  have hsame : (chanAt (s.modInst ch i (fun x => x.endStep p k)) ch).engines = (chanAt s ch).engines :=
    modInst_chan Chan.engines (fun _ _ => rfl) s ch i _ ch
  unfold State.finishStep
  dsimp only
  rw [refresh_chan Chan.engines (fun _ _ => rfl), engine_modEngine (by simpa [State.modInst, State.modChan, length_updAt] using hch)
    (by rw [hsame]; exact he), hsame, h]
  simp

theorem refreshed_ended {s : State} {ch : Nat} {x : Inst} {k : Nat} (hk : x.steps[k]? = some .ended)
    (hlen : (refreshed s ch x).steps.length = x.steps.length) : (refreshed s ch x).steps.getD k .skipped = .ended := by
  have hlt : k < x.steps.length := List.getElem?_eq_some_iff.1 hk |>.1
  cases hg : instSlot s ch x with
  | none => simp [refreshed, hg, hk]
  | some g =>
    have hsteps : (refreshed s ch x).steps =
        (g.graph.steps.zip x.steps).zipIdx.map (fun e => refreshStep s ch x (e.1.1, e.2) e.1.2) := by rw [refreshed, hg]
    rw [hsteps, List.length_map, List.length_zipIdx, List.length_zip] at hlen
    have hlt' : k < g.graph.steps.length := by omega
    rw [hsteps, List.getD_eq_getElem?_getD, List.getElem?_map, List.getElem?_zipIdx, (List.getElem?_zip_eq_some (z := (g.graph.steps[k], .ended))).2
      ⟨List.getElem?_eq_getElem hlt', hk⟩]
    rfl

/-! ### The end of a step and the stall limit (R32, R161, R167) -/

theorem stepEnded_acts {s : State} {ch e i k : Nat} {x : Inst} {g : Slot} {p : GStep} (hrun : running s = true)
    (hstep : runningStep s ch e = some (i, x, g, k, p)) (heng : engineOf p.engine = e)
    (hworked : ((chanAt s ch).engines.getD e {}).worked = true) :
    ∃ t y, exec (.stepEnded ch e) s = .next t ∧ ((chanAt t ch).engines.getD e {}).run = none ∧ instAt t ch i = some y ∧
      (k < x.steps.length → y.steps.length = x.steps.length → y.steps.getD k .skipped = .ended) ∧
      ∀ b ∈ p.outs.flatMap rangeBlocks, b ∈ y.tags := by
  obtain ⟨heng', hx, hg, hk⟩ := runningStep_facts hstep
  have hexec : exec (.stepEnded ch e) s = .next ((s.traceStep 0x11 ch p.engine i x (stepItems x p).1).finishStep ch i k p) := by
    change execStepEnded ch e s = _
    rw [execStepEnded, hstep]
    exact congrArg Host.Outcome.next (if_pos (by rw [hrun, hworked]; rfl))
  obtain ⟨b, q, n, l, htrace⟩ := traceRec_eq s 0x11 p.engine (stepTrace x i (stepItems x p).1) ch
  rw [State.traceStep, htrace] at hexec
  generalize hu : s.modObs (fun o => { o with buf := b, seq := q, sent := n, lost := l }) = u at hexec
  have hx' : instAt u ch i = some x := by rw [← hu]; exact hx
  have hrun' : ((chanAt u ch).engines.getD (engineOf p.engine) {}).run = some (i, k) := by rw [← hu, heng]; exact heng'
  obtain ⟨v, -, hy⟩ := finishStep_inst hx' k p
  refine ⟨_, _, hexec, heng ▸ finishStep_engine hrun', hy, fun hlt hlen => ?_, fun b hb => ?_⟩
  · have hset : (x.endStep p k).steps.length = x.steps.length := by simp [Inst.endStep, setAt]
    exact refreshed_ended (by simp [Inst.endStep, setAt, hlt]) (hlen.trans hset.symm)
  · obtain ⟨l, hl⟩ := refreshed_steps v ch (x.endStep p k)
    rw [hl]
    exact endStep_tags x p k b hb

theorem breakStep_acts {s : State} {ch e i k : Nat} {x : Inst} (heng : ((chanAt s ch).engines.getD e {}).run = some (i, k))
    (hx : instAt s ch i = some x) (hg : (instSlot s ch x).isSome = true) (st : Nat) :
    ((chanAt (s.breakStep ch e st) ch).engines.getD e {}).run = none ∧ ∃ y, instAt (s.breakStep ch e st) ch i = some y ∧ y.status ≠ none := by
  obtain ⟨hch, he⟩ := engine_lt heng
  unfold State.breakStep
  rw [heng]
  dsimp only
  have hsame : (chanAt (s.modInst ch i (fun x => { x with steps := setAt x.steps k .skipped })) ch).engines = (chanAt s ch).engines :=
    modInst_chan Chan.engines (fun _ _ => rfl) s ch i _ ch
  have hinst : instAt (s.modInst ch i (fun x => { x with steps := setAt x.steps k .skipped })) ch i =
      some { x with steps := setAt x.steps k .skipped } := instAt_modInst_self hx _
  have hlen : (s.modInst ch i (fun x => { x with steps := setAt x.steps k .skipped })).core.chans.length = s.core.chans.length :=
    length_updAt _ _ _
  have hslot (t : State) (ht : t.core.work = s.core.work) : (instSlot t ch { x with steps := setAt x.steps k .skipped }).isSome = true := by
    rw [instSlot, graphAt, ht]
    exact hg
  generalize hu : s.modInst ch i (fun x => { x with steps := setAt x.steps k .skipped }) = u at hsame hinst hlen
  constructor
  · rw [skipRest_chan Chan.engines (fun _ _ => rfl), engine_modEngine (hch.trans_eq hlen.symm) (by rw [hsame]; exact he)]
  · exact skipRest_status ((instAt_modEngine u ch e ch i _).trans hinst) (hslot _ (by rw [← hu]; rfl))

/-- What a solve that is cut off marks of its session. -/
def cutSolve (s : State) (e : Nat) (x : Inst) : State :=
  match e == 3, x.sid with
  | true, some sid => s.modSess sid (fun y => { y with se := y.se.invalidate })
  | _, _ => s

theorem cutSolve_facts (s : State) (e : Nat) (x : Inst) :
    (cutSolve s e x).core.chans = s.core.chans ∧ (cutSolve s e x).core.work.graphs = s.core.work.graphs := by
  unfold cutSolve
  split
  · exact ⟨rfl, rfl⟩
  · exact ⟨rfl, rfl⟩

theorem tierStallLimit_acts {s : State} {ch e i k c : Nat} {x : Inst} {g : Slot} {p : GStep} (hrun : running s = true)
    (hstep : runningStep s ch e = some (i, x, g, k, p)) (hstall : ((chanAt s ch).engines.getD e {}).stall = some c)
    (hlate : c + 2000000 < dtOf s) : ∃ t y, exec (.tierStallLimit ch e) s = .next t ∧ ((chanAt t ch).engines.getD e {}).run = none ∧
      instAt t ch i = some y ∧ y.status ≠ none := by
  obtain ⟨heng, hx, hg, hk⟩ := runningStep_facts hstep
  have hexec : exec (.tierStallLimit ch e) s = .next (((cutSolve s e x).breakStep ch e 0x20).refresh ch) := by
    change execTierStallLimit ch e s = _
    rw [execTierStallLimit, hstep, hstall]
    exact congrArg Host.Outcome.next (if_pos (by simp [hrun, hlate]))
  obtain ⟨hchans, hgraphs⟩ := cutSolve_facts s e x
  generalize cutSolve s e x = u at hexec hchans hgraphs
  obtain ⟨hnone, y, hy, hst⟩ := breakStep_acts (s := u) (i := i) (k := k) (x := x) (by rw [chanAt, hchans]; exact heng)
    (by rw [instAt, chanAt, hchans]; exact hx) (by rw [instSlot, graphAt, hgraphs]; exact Option.isSome_of_eq_some hg) 0x20
  refine ⟨_, _, hexec, ?_, instAt_refresh hy, by rwa [refreshed_status]⟩
  rw [refresh_chan Chan.engines (fun _ _ => rfl)]
  exact hnone

/-! ### Dispatch (R163) -/

theorem noteClamp_chan {α : Type} (g : Chan → α) (hg : ∀ c l, g { c with insts := l } = g c) (s : State) (ch i : Nat) (x : Inst) (p : GStep)
    (c : Nat) : g (chanAt (s.noteClamp ch i x p) c) = g (chanAt s c) :=
  holds_ite (P := fun t : State => g (chanAt t c) = g (chanAt s c)) (modInst_chan g hg s ch i _ c) rfl

/-- An engine takes a step. -/
theorem dispatch_takes {u : State} {ch e n : Nat} {c : Cand} {x : Inst} (hbest : bestCand (candidates u ch e) = some c)
    (hx : instAt u ch c.inst = some x) (hdue : late? u x = false) (hres : restoringFor u ch x c.step = false)
    (hstep : ((instSlot u ch x).bind (fun g => g.graph.steps[c.step]?)).isSome = true) (he : e < (chanAt u ch).engines.length) :
    (chanAt (State.dispatch ch e (n + 1) u) ch).engines.getD e {} =
      { (chanAt u ch).engines.getD e {} with
        run := some (c.inst, c.step), stall := none, worked := false, lastMove := dtOf u
        ta := { ((chanAt u ch).engines.getD e {}).ta with begun := false } } := by
  obtain ⟨p, hp⟩ := Option.isSome_iff_exists.1 hstep
  unfold State.dispatch
  rw [hbest]
  dsimp only
  rw [hx]
  dsimp only
  rw [if_neg (by simp [hdue]), if_neg (by simp [hres]), hp]
  dsimp only
  generalize hv : State.noteClamp _ ch c.inst x p = v
  have hsame : (chanAt v ch).engines = (chanAt u ch).engines := by
    rw [← hv, noteClamp_chan Chan.engines (fun _ _ => rfl), modInst_chan Chan.engines (fun _ _ => rfl)]
  have hlen : v.core.chans.length = u.core.chans.length := by
    rw [← hv]
    exact holds_ite (P := fun t : State => t.core.chans.length = u.core.chans.length)
      ((length_updAt _ _ _).trans (length_updAt _ _ _)) (length_updAt _ _ _)
  have hdt : dtOf v = dtOf u := by
    rw [← hv]
    exact holds_ite (P := fun t : State => dtOf t = dtOf u) rfl rfl
  generalize hw : v.modEngine ch e _ = w
  have heng : (chanAt w ch).engines.getD e {} = { (chanAt u ch).engines.getD e {} with
      run := some (c.inst, c.step), stall := none, worked := false, lastMove := dtOf u
      ta := { ((chanAt u ch).engines.getD e {}).ta with begun := false } } := by
    rw [← hw, engine_modEngine ((length_of_instAt hx).trans_eq hlen.symm) (by rw [hsame]; exact he), hsame, hdt]
  obtain ⟨b, q, m, l, htrace⟩ := traceRec_eq w 0x10 p.engine (stepTrace x c.inst (stepItems x p).1) ch
  rw [State.traceStep, htrace]
  exact heng

theorem stepDispatch_acts {s : State} {ch e : Nat} {c : Cand} {x : Inst} (hrun : running s = true) (hin : (chanAt s ch).inService = true) (he : e < 5)
    (hlen : (chanAt s ch).engines.length = 6) (hfree : ((chanAt s ch).engines.getD e {}).run = none)
    (hbest : bestCand (candidates (s.refresh ch) ch e) = some c) (hx : instAt (s.refresh ch) ch c.inst = some x) (hdue : x.deadline ≥ dtOf s)
    (hres : restoringFor (s.refresh ch) ch x c.step = false)
    (hstep : ((instSlot (s.refresh ch) ch x).bind (fun g => g.graph.steps[c.step]?)).isSome = true) :
    ∃ t, exec (.stepDispatch ch e .clean) s = .next t ∧ ((chanAt t ch).engines.getD e {}).run = some (c.inst, c.step) ∧
      ((chanAt t ch).engines.getD e {}).worked = false ∧ ((chanAt t ch).engines.getD e {}).lastMove = dtOf s := by
  have hlate : late? (s.refresh ch) x = false := decide_eq_false (Nat.not_lt.2 hdue)
  have hsix : (chanAt (s.refresh ch) ch).engines.length = 6 := by rw [refresh_chan Chan.engines (fun _ _ => rfl), hlen]
  have htakes := dispatch_takes (n := (chanAt (s.refresh ch) ch).insts.length) hbest hx hlate hres hstep (by omega)
  have hexec : exec (.stepDispatch ch e .clean) s =
      .next (State.dispatch ch e ((chanAt (s.refresh ch) ch).insts.length + 1) (s.refresh ch)) := by
    change execStepDispatch ch e .clean s = _
    refine congrArg Host.Outcome.next ((if_pos (by simp [hrun, hin, he, hfree, -List.getD_eq_getElem?_getD])).trans ?_)
    dsimp only
    rw [htakes]
    rfl
  refine ⟨_, hexec, ?_⟩
  rw [htakes]
  exact ⟨rfl, rfl, rfl⟩

/-- Settles O41. -/
theorem stepsRunAndEnd : Obligations.StepsRunAndEnd := by
  unfold Obligations.StepsRunAndEnd
  intro s ch e hrun
  exact ⟨fun c x hin he hlen hfree hbest hx hdue hres hstep => stepDispatch_acts hrun hin he hlen hfree hbest hx hdue hres hstep,
    fun i x g k p hstep heng hworked => stepEnded_acts hrun hstep heng hworked,
    fun i x g k p c hstep hstall hlate => tierStallLimit_acts hrun hstep hstall hlate⟩

end Sys2Proof.Machine
end

section
/-! Relocalisations end a wait in CTX_TAKE (R165, R170, R319). -/
namespace Sys2Proof.Machine

/-- What the end of a step leaves of its instance. -/
theorem finishStep_keeps {s : State} {ch i : Nat} {x : Inst} (hx : instAt s ch i = some x) (k : Nat) (p : GStep) :
    ∃ l, instAt (s.finishStep ch i k p) ch i = some { x.endStep p k with steps := l } := by
  obtain ⟨u, -, hy⟩ := finishStep_inst hx k p
  obtain ⟨l, hl⟩ := refreshed_steps u ch (x.endStep p k)
  exact ⟨l, hl ▸ hy⟩

theorem finishStep_unseen {α : Type} {F : State → α} (hF : ∀ s f, F (s.modChans f) = F s) (s : State) (ch i k : Nat) (p : GStep) :
    F (s.finishStep ch i k p) = F s :=
  (hF _ _).trans ((hF _ _).trans (hF _ _))

theorem instAt_traceStep (s : State) (type ch code i : Nat) (x : Inst) (n c j : Nat) :
    instAt (s.traceStep type ch code i x n) c j = instAt s c j := by
  obtain ⟨b, q, m, l, h⟩ := traceRec_eq s type code (stepTrace x i n) ch
  rw [State.traceStep, h]
  rfl

theorem counters_traceStep (s : State) (type ch code i : Nat) (x : Inst) (n : Nat) :
    (s.traceStep type ch code i x n).core.obs.counters = s.core.obs.counters := by
  obtain ⟨b, q, m, l, h⟩ := traceRec_eq s type code (stepTrace x i n) ch
  rw [State.traceStep, h]
  rfl

/-- A step of the sequencer ends, with its record in the trace. -/
theorem endTake_facts {s : State} {ch i : Nat} {x : Inst} (hx : instAt s ch i = some x) (k code : Nat) (p : GStep) (y : Inst) (n : Nat) :
    (∃ l, instAt ((s.traceStep 0x11 ch code i y n).finishStep ch i k p) ch i = some { x.endStep p k with steps := l }) ∧
      ((s.traceStep 0x11 ch code i y n).finishStep ch i k p).core.obs.counters = s.core.obs.counters :=
  ⟨finishStep_keeps ((instAt_traceStep s _ _ _ _ _ _ _ _).trans hx) k p,
    (finishStep_unseen (F := fun s : State => s.core.obs.counters) (fun _ _ => rfl) _ ch i k p).trans (counters_traceStep s _ _ _ _ _ _)⟩

theorem waitingTake_inst {s : State} {ch i k due : Nat} {x y : Inst} {p : GStep} (h : waitingTake s ch i = some (y, k, p, due))
    (hx : instAt s ch i = some x) : y = x := by
  unfold waitingTake at h
  rw [hx] at h
  dsimp only at h
  split at h
  · split at h
    · obtain ⟨q, -, heq⟩ := Option.map_eq_some_iff.1 h
      exact (congrArg Prod.fst heq).symm
    · cases h
  · cases h

/-! ### The outcome comes (R319) -/

theorem relocOver_facts {s : State} {ch i : Nat} {x : Inst} (hx : instAt s ch i = some x) (y : Inst) :
    instAt (s.relocOver ch i y) ch i = some { x with relocWait := none, relocOut := none } ∧
      (s.relocOver ch i y).core.obs.counters = s.core.obs.counters := by
  have hinst := instAt_modInst_self hx (fun z => { z with relocWait := none, relocOut := none })
  unfold State.relocOver
  dsimp only
  split
  · exact ⟨hinst, rfl⟩
  · exact ⟨hinst, rfl⟩

/-- A session's next record tells of a new map (R318). -/
def owesMap (s : State) : Option Nat → State
  | some sid => s.modSess sid (fun y => { y with oweMap := true })
  | none => s

theorem owesMap_facts (s : State) (sid : Option Nat) : (owesMap s sid).core.chans = s.core.chans ∧ (owesMap s sid).core.obs = s.core.obs := by
  cases sid with
  | none => exact ⟨rfl, rfl⟩
  | some n => exact ⟨rfl, rfl⟩

/-- The outcome of a relocalisation as its CTX_TAKE takes it. -/
def outcomeTaken (s : State) (ch i : Nat) (x : Inst) (p : GStep) (out : List Byte) : State :=
  if out.isEmpty then s.bump (mapCtr 8) 1
  else (owesMap (s.modInst ch i (fun y => y.put (p.outR 0) 0 out)) x.sid).bump (mapCtr 7) 1

theorem outcomeTaken_facts {s : State} {ch i : Nat} {z : Inst} (hz : instAt s ch i = some z) (x : Inst) (p : GStep) (out : List Byte) :
    (∃ m l, instAt (outcomeTaken s ch i x p out) ch i = some { z with mem := m, tags := l }) ∧
      Counted s (mapCtr (if out = [] then 8 else 7)) 1 (outcomeTaken s ch i x p out) := by
  unfold outcomeTaken
  by_cases hout : out = []
  · rw [if_pos (by simp [hout]), if_pos hout]
    exact ⟨⟨z.mem, z.tags, hz⟩, counted_bump s _ 1⟩
  · rw [if_neg (by simp [hout]), if_neg hout]
    obtain ⟨hchans, hobs⟩ := owesMap_facts (s.modInst ch i (fun y => y.put (p.outR 0) 0 out)) x.sid
    generalize owesMap (s.modInst ch i (fun y => y.put (p.outR 0) 0 out)) x.sid = u at hchans hobs
    refine ⟨⟨(z.put (p.outR 0) 0 out).mem, (z.put (p.outR 0) 0 out).tags, ?_⟩, ?_⟩
    · rw [instAt, chanAt, State.bump_core, hchans]
      exact instAt_modInst_self hz _
    · have h : NMap.getD u.core.obs.counters (mapCtr 7) 0 = NMap.getD s.core.obs.counters (mapCtr 7) 0 := by rw [hobs]; rfl
      rw [Counted, ← h]
      exact NMap.getD_bump_self _ _ 1

theorem relocOutcome_acts {s : State} {ch i k due : Nat} {x y : Inst} {p : GStep} {out : List Byte} (hrun : running s = true)
    (hx : instAt s ch i = some x) (hwait : waitingTake s ch i = some (y, k, p, due)) (hout : x.relocOut = some out) :
    ∃ t z, exec (.relocOutcome ch i) s = .next t ∧ instAt t ch i = some z ∧ z.relocWait = none ∧ z.relocOut = none ∧
      Counted s (mapCtr (if out = [] then 8 else 7)) 1 t ∧ ∀ a ∈ p.outs.flatMap rangeBlocks, a ∈ z.tags := by
  have hexec : exec (.relocOutcome ch i) s = .next (((outcomeTaken (s.relocOver ch i x) ch i x p out).traceStep 0x11 ch 8 i x
      (stepItems x p).1).finishStep ch i k p) := by
    change execRelocOutcome ch i s = _
    rw [execRelocOutcome, hx]
    dsimp only
    rw [hout]
    dsimp only
    rw [hwait]
    exact congrArg Host.Outcome.next (if_neg (by simp [hrun]))
  obtain ⟨hover, hctr⟩ := relocOver_facts hx x
  obtain ⟨⟨m, l, htaken⟩, hcount⟩ := outcomeTaken_facts hover x p out
  obtain ⟨⟨l', hz⟩, hctr'⟩ := endTake_facts htaken k 8 p x (stepItems x p).1
  refine ⟨_, _, hexec, hz, rfl, rfl, ?_, fun a ha => ?_⟩
  · rw [Counted, hctr', hcount, hctr]
  · exact endStep_tags _ p k a ha

/-! ### The wait ends without an outcome (R165, R170, R319) -/

theorem relocWaitTimeout_acts {s : State} {ch i k due : Nat} {x y : Inst} {p : GStep} (hrun : running s = true)
    (hx : instAt s ch i = some x) (hwait : waitingTake s ch i = some (y, k, p, due)) (hdue : due < dtOf s) (hout : x.relocOut = none) :
    ∃ t z, exec (.relocWaitTimeout ch i) s = .next t ∧ instAt t ch i = some z ∧ z.relocWait = none ∧ Counted s (mapCtr 9) 1 t := by
  have hyx := waitingTake_inst hwait hx
  subst hyx
  have hexec : exec (.relocWaitTimeout ch i) s = .next ((((s.modInst ch i (fun y => { y with relocWait := none })).bump (mapCtr 9) 1).traceStep
      0x11 ch 8 i y (stepItems y p).1).finishStep ch i k p) := by
    change execRelocWaitTimeout ch i s = _
    rw [execRelocWaitTimeout, hwait]
    exact congrArg Host.Outcome.next (if_pos (by simp [hrun, hdue, hout]))
  have hinst : instAt ((s.modInst ch i (fun y => { y with relocWait := none })).bump (mapCtr 9) 1) ch i = some { y with relocWait := none } :=
    instAt_modInst_self hx _
  obtain ⟨⟨l, hz⟩, hctr⟩ := endTake_facts hinst k 8 p y (stepItems y p).1
  refine ⟨_, _, hexec, hz, rfl, ?_⟩
  rw [Counted, hctr]
  exact NMap.getD_bump_self _ _ 1

theorem ctxTakeDeadline_acts {s : State} {ch i k : Nat} {x : Inst} {g : Slot} (hrun : running s = true) (hx : instAt s ch i = some x)
    (hg : instSlot s ch x = some g) (hk : stepIdx g.graph 8 = some k) (hholds : x.holds = false) (hover : stepOver x k = false)
    (hlate : x.deadline < dtOf s) :
    ∃ t z, exec (.ctxTakeDeadline ch i) s = .next t ∧ instAt t ch i = some z ∧ z.status ≠ none := by
  have hexec : exec (.ctxTakeDeadline ch i) s = .next (s.skipRest ch i (some 0x20)) := by
    change execCtxTakeDeadline ch i s = _
    rw [execCtxTakeDeadline, hx]
    refine congrArg Host.Outcome.next (if_pos ?_)
    rw [hg]
    simp only [Option.bind_some, hk, hrun, hholds, hover, late?, hlate, decide_true]
    rfl
  obtain ⟨z, hz, hst⟩ := skipRest_status (st := 0x20) hx (Option.isSome_of_eq_some hg)
  exact ⟨_, z, hexec, hz, hst⟩

/-- Settles O43. -/
theorem relocalisationsEnd : Obligations.RelocalisationsEnd := by
  unfold Obligations.RelocalisationsEnd
  intro s ch i x hrun hx
  exact ⟨fun y k p due out hwait hout => relocOutcome_acts hrun hx hwait hout,
    fun y k p due hwait hdue hout => relocWaitTimeout_acts hrun hx hwait hdue hout,
    fun g k hg hk hholds hover hlate => ctxTakeDeadline_acts hrun hx hg hk hholds hover hlate⟩

end Sys2Proof.Machine
end

section
/-! The sequencer's own steps: DMA_IN, CTX_TAKE, CTX_PEEK and RESULT (R51, R110, R117, R154, R165, R169). -/
namespace Sys2Proof.Machine

/-! ### The step at hand -/

theorem seqStep_facts {s : State} {ch i code k : Nat} {x : Inst} {g : Slot} {p : GStep} (h : seqStep s ch i code = some (x, g, k, p)) :
    instAt s ch i = some x ∧ instSlot s ch x = some g := by
  unfold seqStep at h
  split at h
  · cases h
  · next y hy =>
    split at h
    · cases h
    · next f hf =>
      split at h
      · simp only [Option.some.injEq, Prod.mk.injEq] at h
        obtain ⟨hx, hg, -, -⟩ := h
        subst hx hg
        exact ⟨hy, hf⟩
      · cases h

/-! ### What the samples of an item leave (R65 to R70) -/

/-- Instances stay, and nothing goes out. -/
structure Sampled (s t : State) : Prop where
  stay : InstsStay (fun _ => True) s t
  out : t.out = s.out

theorem Sampled.refl (s : State) : Sampled s s := ⟨InstsStay.refl s, rfl⟩

theorem Sampled.trans {s t u : State} (h : Sampled s t) (h' : Sampled t u) : Sampled s u := ⟨h.stay.trans h'.stay, h'.out.trans h.out⟩

theorem sampled_modSess (s : State) (sid : Nat) (f : Session → Session) : Sampled s (s.modSess sid f) := ⟨InstsStay.of_chans rfl, rfl⟩

theorem sampled_modInst (s : State) (ch i : Nat) {f : Inst → Inst} (hf : ∀ x, (f x).slot = x.slot) : Sampled s (s.modInst ch i f) :=
  ⟨instsStay_modInst s ch i fun x => ⟨hf x, id⟩, rfl⟩

/-- A change of a session's context reaches the working copies of its instances (R169). -/
def ctxMoved (sid : Nat) (f : SessCtx → SessCtx) (y : Inst) : Inst :=
  if y.sid == some sid then { y with work := y.work.map f } else y

theorem instAt_modCtx (s : State) (sid : Nat) (f : SessCtx → SessCtx) (c j : Nat) :
    instAt (s.modCtx sid f) c j = (instAt s c j).map (ctxMoved sid f) := by
  have hinsts (m : NMap Inst) : m.map (fun p => if p.2.sid == some sid then (p.1, { p.2 with work := p.2.work.map f }) else p) =
      m.map (fun p => (p.1, ctxMoved sid f p.2)) := by
    refine List.map_congr_left fun p _ => ?_
    unfold ctxMoved
    split <;> rfl
  rw [instAt, chanAt]
  change NMap.get? ((s.core.chans.map _).getD c { present := false } : Chan).insts j = _
  rw [instAt, chanAt, List.getD_eq_getElem?_getD, List.getD_eq_getElem?_getD, List.getElem?_map]
  cases s.core.chans[c]? with
  | none => rfl
  | some d =>
    simp only [Option.map_some, Option.getD_some, hinsts]
    exact NMap.get_map_keyed (fun _ y => ctxMoved sid f y) d.insts j

theorem sampled_modCtx (s : State) (sid : Nat) (f : SessCtx → SessCtx) : Sampled s (s.modCtx sid f) := by
  refine ⟨fun c j y hy => ⟨ctxMoved sid f y, by rw [instAt_modCtx, hy]; rfl, ?_, id⟩, rfl⟩
  unfold ctxMoved
  split <;> rfl

theorem sampled_firstClock (s : State) (sid arrival : Nat) (stamps samples : List Nat) : Sampled s (s.firstClock sid arrival stamps samples) := by
  unfold State.firstClock
  split
  · exact Sampled.refl s
  · exact holds_ite (P := fun t => Sampled s t) (Sampled.refl s) (sampled_modCtx s _ _)

theorem sampled_classify (s : State) (sid tc : Nat) (body : List Byte) : Sampled s (s.classify sid tc body) := by
  unfold State.classify
  split
  · exact Sampled.refl s
  · refine holds_ite (P := fun t => Sampled s t) (sampled_modSess s _ _) (holds_ite (P := fun t => Sampled s t) ?_ (sampled_modCtx s _ _))
    exact (sampled_modCtx s _ _).trans ((sampled_modSess _ _ _).trans (sampled_modSess _ _ _))

theorem sampled_foldl {β : Type} (f : State → β → State) (hf : ∀ s b, Sampled s (f s b)) (l : List β) : ∀ s, Sampled s (l.foldl f s) := by
  induction l with
  | nil => exact Sampled.refl
  | cons b l ih => exact fun s => (hf s b).trans (ih _)

theorem sampled_takeSamples (s : State) (ch i : Nat) (x : Inst) (kind : Nat) (frame stamp : Option Nat) (recs : List (List Byte)) :
    Sampled s (s.takeSamples ch i x kind frame stamp recs) := by
  unfold State.takeSamples
  split
  · exact Sampled.refl s
  · next sid _ =>
    extract_lets times stamps old term u v w k z new
    have hu : Sampled s u := sampled_firstClock s _ _ _ _
    have hv : Sampled u v := holds_ite (P := fun t => Sampled u t) (Sampled.refl u) (sampled_modSess u _ _)
    have hw : Sampled v w := by
      cases frame with
      | none => exact Sampled.refl v
      | some t => exact (sampled_classify v _ _ _).trans (sampled_modInst _ _ _ fun _ => rfl)
    have hz : Sampled w z := sampled_foldl _ (fun s r => sampled_classify s _ _ _) recs w
    exact (((hu.trans hv).trans hw).trans hz).trans (sampled_modInst z _ _ fun _ => rfl)

theorem fillOuts_slot : ∀ (l : List Range) (b : List Byte) (x : Inst), (fillOuts l b x).slot = x.slot
  | [], _, _ => rfl
  | _ :: l, _, _ => fillOuts_slot l _ _

/-! ### DMA_IN (R51, R110, R117) -/

/-- The payload has been asked of the host. -/
def fetchBegun (s : State) (ch i : Nat) (x : Inst) (p : GStep) (it : Item) : State :=
  (s.traceStep 0x10 ch 1 i x (stepItems x p).1).emit (.dmaRead it.addr it.len)

theorem fetchBegun_facts (s : State) (ch i : Nat) (x : Inst) (p : GStep) (it : Item) :
    (fetchBegun s ch i x p it).core.chans = s.core.chans ∧ (fetchBegun s ch i x p it).core.work = s.core.work ∧
      (fetchBegun s ch i x p it).core.sys = s.core.sys ∧ Out.dmaRead it.addr it.len ∈ (fetchBegun s ch i x p it).out := by
  obtain ⟨b, q, m, l, h⟩ := traceRec_eq s 0x10 1 (stepTrace x i (stepItems x p).1) ch
  unfold fetchBegun State.traceStep
  rw [h]
  exact ⟨rfl, rfl, rfl, List.mem_append_right _ (List.mem_singleton_self _)⟩

/-- The sensors that an item's payload is read by. -/
def itemSensors (s : State) (x : Inst) (it : Item) : List Sensor :=
  match sessAt s it.sid with
  | some z => z.ctx.sensors
  | none => x.calib

theorem bulkSealed_traceStep (s : State) (type ch code i : Nat) (x : Inst) (n c : Nat) :
    bulkSealed (s.traceStep type ch code i x n) c = bulkSealed s c := by
  obtain ⟨b, q, m, l, h⟩ := traceRec_eq s type code (stepTrace x i n) ch
  rw [State.traceStep, h]
  rfl

/-- The payload as the item's blocks and its session take it. -/
def payloadTaken (s : State) (ch i : Nat) (x : Inst) (g : Slot) (p : GStep) (it : Item) (sensors : List Sensor) (bytes : List Byte)
    (y : Payload) : State :=
  let s := s.modInst ch i (fun z => fillOuts p.outs bytes { z with calib := sensors })
  let frame := if y.frames.isEmpty || x.status == some 0x24 then none else some it.clientTime
  let s := s.takeSamples ch i x g.graph.kind frame (if y.frames.isEmpty then none else some it.clientTime) y.recs
  if g.graph.kind == 2 && !(((sessAt s it.sid).map (·.se.stereo)).getD []).contains it.slot then
    (s.modSess it.sid (fun y => { y with se := { y.se with stereo := it.slot :: y.se.stereo } })).modInst ch i (fun z =>
      { z with took := { z.took with stereo := some it.slot } })
  else s

theorem payloadTaken_sampled (s : State) (ch i : Nat) (x : Inst) (g : Slot) (p : GStep) (it : Item) (sensors : List Sensor) (bytes : List Byte)
    (y : Payload) : Sampled s (payloadTaken s ch i x g p it sensors bytes y) := by
  unfold payloadTaken
  extract_lets u frame v
  have hu : Sampled s u := sampled_modInst s ch i fun z => fillOuts_slot p.outs bytes _
  have hv : Sampled u v := sampled_takeSamples u ch i x _ frame _ _
  refine holds_ite (P := fun t => Sampled s t) ((hu.trans hv).trans ?_) (hu.trans hv)
  exact (sampled_modSess v _ _).trans (sampled_modInst _ ch i fun _ => rfl)

section DmaIn
variable {s : State} {ch i k b n : Nat} {x : Inst} {g : Slot} {p : GStep} {it : Item} (hstep : seqStep s ch i 1 = some (x, g, k, p))
  (hit : itemOf s x = some (b, n, it)) (hdue : late? s x = false) (hplain : bulkSealed s x.ctx = false)
include hstep hit hdue hplain

theorem dmaInEnds_failed (q : Bool) :
    s.dmaInEnds ch i (.failed q) = ((fetchBegun s ch i x p it).dmaFault q it.sid).skipRest ch i (some 0x30) := by
  unfold State.dmaInEnds
  rw [hstep]
  dsimp only
  rw [hit]
  dsimp only
  rw [if_neg (by simp [hdue]), bulkSealed_traceStep, hplain]
  rfl

/-- What becomes of a payload that has come. -/
theorem dmaInEnds_ok (data : List Byte) : s.dmaInEnds ch i (.ok data) =
    match checkedPayload g.graph.kind it.slot (itemSensors s x it) (padTo it.len data) with
    | none => ((fetchBegun s ch i x p it).unadmit x).skipRest ch i (some 0x11)
    | some y =>
      if (p.outs.map (fun r => 4096 * r.count)).foldl (· + ·) 0 < (padTo it.len data).length then
        ((fetchBegun s ch i x p it).unadmit x).skipRest ch i (some 0x11)
      else ((payloadTaken (fetchBegun s ch i x p it) ch i x g p it (itemSensors s x it) (padTo it.len data) y).traceStep 0x11 ch 1 i x
        (stepItems x p).1).finishStep ch i k p := by
  have hdata (v : State) (hv : bulkSealed v x.ctx = false) (c h : Nat) : bulkData v x.ctx c h n it.len data = some (padTo it.len data) :=
    if_neg (by simp [hv])
  unfold State.dmaInEnds
  rw [hstep]
  dsimp only
  rw [hit]
  dsimp only
  rw [if_neg (by simp [hdue]), bulkSealed_traceStep, hplain,
    show (s.traceStep 0x10 ch 1 i x (stepItems x p).1).emit (.dmaRead it.addr (hostLen false it.len)) = fetchBegun s ch i x p it from rfl]
  obtain ⟨-, hwork, hsys, -⟩ := fetchBegun_facts s ch i x p it
  generalize fetchBegun s ch i x p it = v at hwork hsys
  have hsess : sessAt v it.sid = sessAt s it.sid := by rw [sessAt, hwork, sessAt]
  rw [hdata v (by rw [bulkSealed, hsys]; exact hplain)]
  dsimp only
  rw [hsess]
  rfl

end DmaIn

theorem unadmit_facts (s : State) (x : Inst) : (s.unadmit x).core.chans = s.core.chans ∧ (s.unadmit x).core.work.graphs = s.core.work.graphs := by
  unfold State.unadmit
  split
  · exact ⟨rfl, rfl⟩
  · exact ⟨rfl, rfl⟩

/-- An instance of unchanged channels and graphs ends early with a status. -/
theorem skipRest_gives {s u : State} {ch i st : Nat} {x : Inst} {g : Slot} (hx : instAt s ch i = some x) (hg : instSlot s ch x = some g)
    (hchans : u.core.chans = s.core.chans) (hgraphs : u.core.work.graphs = s.core.work.graphs) (hopen : x.status = none) :
    ∃ z, instAt (u.skipRest ch i (some st)) ch i = some z ∧ z.status = some st := by
  have hx' : instAt u ch i = some x := by rw [instAt, chanAt, hchans]; exact hx
  have hg' : instSlot u ch x = some g := by rw [instSlot, graphAt, hgraphs]; exact hg
  obtain ⟨l, hl⟩ := skipRest_inst hx' (Option.isSome_of_eq_some hg') (some st)
  exact ⟨_, hl, by rw [hopen]; rfl⟩

theorem traceStep_work (s : State) (type ch code i : Nat) (x : Inst) (n : Nat) : (s.traceStep type ch code i x n).core.work = s.core.work := by
  obtain ⟨b, q, m, l, h⟩ := traceRec_eq s type code (stepTrace x i n) ch
  rw [State.traceStep, h]
  rfl

theorem traceStep_out (s : State) (type ch code i : Nat) (x : Inst) (n : Nat) : (s.traceStep type ch code i x n).out = s.out := by
  obtain ⟨b, q, m, l, h⟩ := traceRec_eq s type code (stepTrace x i n) ch
  rw [State.traceStep, h]
  rfl

section DmaIn
variable {s : State} {ch i k b n : Nat} {x : Inst} {g : Slot} {p : GStep} {it : Item} (hstep : seqStep s ch i 1 = some (x, g, k, p))
  (hit : itemOf s x = some (b, n, it)) (hdue : late? s x = false) (hplain : bulkSealed s x.ctx = false)
include hstep hit hdue hplain

theorem dmaInEnds_takes {data : List Byte} {y : Payload}
    (hy : checkedPayload g.graph.kind it.slot (itemSensors s x it) (padTo it.len data) = some y)
    (hroom : it.len ≤ (p.outs.map (fun r => 4096 * r.count)).foldl (· + ·) 0) :
    Out.dmaRead it.addr it.len ∈ (s.dmaInEnds ch i (.ok data)).out ∧ ∃ z, instAt (s.dmaInEnds ch i (.ok data)) ch i = some z ∧
      ∀ a ∈ p.outs.flatMap rangeBlocks, a ∈ z.tags := by
  rw [dmaInEnds_ok hstep hit hdue hplain, hy]
  dsimp only
  rw [if_neg (by rw [padTo_length]; omega)]
  obtain ⟨hchans, -, -, hout⟩ := fetchBegun_facts s ch i x p it
  obtain ⟨hstay, hout'⟩ := payloadTaken_sampled (fetchBegun s ch i x p it) ch i x g p it (itemSensors s x it) (padTo it.len data) y
  obtain ⟨z, hz, -, -⟩ := hstay ch i x (by rw [instAt, chanAt, hchans]; exact (seqStep_facts hstep).1)
  generalize payloadTaken (fetchBegun s ch i x p it) ch i x g p it (itemSensors s x it) (padTo it.len data) y = u at hz hout'
  obtain ⟨⟨l, hl⟩, -⟩ := endTake_facts hz k 1 p x (stepItems x p).1
  refine ⟨?_, _, hl, fun a ha => endStep_tags z p k a ha⟩
  rw [finishStep_unseen (F := State.out) (fun _ _ => rfl), traceStep_out, hout']
  exact hout

theorem dmaInEnds_refuses {data : List Byte} (hbad : checkedPayload g.graph.kind it.slot (itemSensors s x it) (padTo it.len data) = none)
    (hopen : x.status = none) : ∃ z, instAt (s.dmaInEnds ch i (.ok data)) ch i = some z ∧ z.status = some 0x11 := by
  rw [dmaInEnds_ok hstep hit hdue hplain, hbad]
  dsimp only
  obtain ⟨hx, hg⟩ := seqStep_facts hstep
  obtain ⟨hchans, hwork, -, -⟩ := fetchBegun_facts s ch i x p it
  obtain ⟨hchans', hgraphs'⟩ := unadmit_facts (fetchBegun s ch i x p it) x
  exact skipRest_gives hx hg (hchans'.trans hchans) (hgraphs'.trans (congrArg Work.graphs hwork)) hopen

theorem dmaInEnds_faults (q : Bool) (hopen : x.status = none) :
    ∃ z, instAt (s.dmaInEnds ch i (.failed q)) ch i = some z ∧ z.status = some 0x30 := by
  rw [dmaInEnds_failed hstep hit hdue hplain]
  obtain ⟨hx, hg⟩ := seqStep_facts hstep
  obtain ⟨hchans, hwork, -, -⟩ := fetchBegun_facts s ch i x p it
  have hquiet := quiet_dmaFault (fetchBegun s ch i x p it) q it.sid
  exact skipRest_gives hx hg ((chans_of_quiet hquiet).trans hchans) (congrArg Work.graphs ((work_of_quiet hquiet).trans hwork)) hopen

end DmaIn

/-! ### An instance ends early (R165) -/

/-- Statuses that the end of an instance with `st` leaves: none yet, or that one. -/
def openOr (st : Nat) (o : Option Nat) : Prop := o = none ∨ o = some st

theorem instsStay_modEngine (Q : Option Nat → Prop) (s : State) (ch e : Nat) (f : Engine → Engine) : InstsStay Q s (s.modEngine ch e f) :=
  fun c j y hy => ⟨y, (instAt_modEngine s ch e c j f).trans hy, rfl, id⟩

theorem instsStay_breakStep (s : State) (ch e st : Nat) : InstsStay (openOr st) s (s.breakStep ch e st) := by
  unfold State.breakStep
  split
  · exact InstsStay.refl s
  · next i k _ =>
    have hinst : InstsStay (openOr st) s (s.modInst ch i (fun x => { x with steps := setAt x.steps k .skipped })) :=
      instsStay_modInst s ch i fun _ => ⟨rfl, id⟩
    exact (hinst.trans (instsStay_modEngine _ _ ch e _)).trans (instsStay_skipRest (fun _ => Or.inr rfl) _ ch i)

theorem instsStay_breakTake (Q : Option Nat → Prop) (s : State) (ch i : Nat) : InstsStay Q s (s.breakTake ch i) :=
  instsStay_modInst s ch i fun x => by split <;> exact ⟨rfl, id⟩

theorem instsStay_breakSteps (ch st : Nat) (es : List Nat) : ∀ s : State,
    InstsStay (openOr st) s (es.foldl (fun s e => s.breakStep ch e st) s) := by
  induction es with
  | nil => exact InstsStay.refl
  | cons e es ih => exact fun s => (instsStay_breakStep s ch e st).trans (ih _)

theorem endEarly_gives {s : State} {ch i st : Nat} {x : Inst} {g : Slot} (hx : instAt s ch i = some x) (hg : instSlot s ch x = some g)
    (hopen : x.status = none) : ∃ z, instAt (s.endEarly ch i st) ch i = some z ∧ z.status = some st := by
  unfold State.endEarly
  extract_lets es
  have hgraphs : ((es.foldl (fun s e => s.breakStep ch e st) s).breakTake ch i).core.work.graphs = s.core.work.graphs :=
    foldl_unseen (F := fun s : State => s.core.work.graphs) (fun s e => breakStep_unseen (F := fun s : State => s.core.work.graphs) (fun _ _ => rfl) s ch e st) es s
  obtain ⟨y, hy, hslot, hst⟩ := ((instsStay_breakSteps ch st es s).trans (instsStay_breakTake _ _ ch i)) ch i x hx
  have hg' : (instSlot ((es.foldl (fun s e => s.breakStep ch e st) s).breakTake ch i) ch y).isSome = true := by
    rw [instSlot, hslot, graphAt, hgraphs]
    exact Option.isSome_of_eq_some hg
  obtain ⟨l, hl⟩ := skipRest_inst hy hg' (some st)
  refine ⟨_, hl, ?_⟩
  rcases hst (Or.inl hopen) with h | h <;> simp [h]

/-! ### CTX_TAKE (R165, R168 to R170) -/

theorem noteClamp_inst {s : State} {ch i : Nat} {y : Inst} (hy : instAt s ch i = some y) (x : Inst) (p : GStep) :
    ∃ b, instAt (s.noteClamp ch i x p) ch i = some { y with clamped := b } := by
  unfold State.noteClamp
  split
  · exact ⟨true, instAt_modInst_self hy _⟩
  · exact ⟨y.clamped, hy⟩

theorem touchShelf_some {s u : State} {sid : Nat} (h : touchShelf s sid = some u) : ∃ l, u = s.modWork (fun w => { w with shelf := l ++ [sid] }) := by
  unfold touchShelf at h
  dsimp only at h
  split at h
  · exact ⟨_, (Option.some.inj h).symm⟩
  · split at h
    · exact ⟨_, (Option.some.inj h).symm⟩
    · cases h

theorem correctSession_facts (s : State) (sid version : Nat) : (s.correctSession sid version).2.core.chans = s.core.chans ∧
    (s.correctSession sid version).2.core.work.shelf = s.core.work.shelf := by
  unfold State.correctSession
  split
  · exact ⟨rfl, rfl⟩
  · split
    · exact ⟨rfl, rfl⟩
    · exact ⟨rfl, rfl⟩

theorem relocFor_plain (s : State) (ch i : Nat) (x : Inst) (g : Slot) {p : GStep} (h : fieldAt p.param 0 1 ≠ 1) : relocFor s ch i x g p = none := by
  unfold relocFor
  split
  · exact if_neg (by simp [h])
  · rfl

theorem intime_refresh {s : State} {ch : Nat} {x : Inst} (h : dtOf s ≤ x.deadline) : late? (s.refresh ch) x = false :=
  decide_eq_false (Nat.not_lt.2 h)

/-- The context as an instance of a session takes it (R169, R325). -/
def ctxTaken (w : State) (ch i sid : Nat) (x : Inst) (p : GStep) : State :=
  let c := w.correctSession sid x.mapVersion
  let live := match sessAt c.2 sid with
    | some y => y.ctx
    | none => {}
  ((c.2.modInst ch i (fun y => { y with
    holds := true, corr := c.1, work := some (match c.1 with | some c => correctedCtx c live | none => live) })).noteClamp ch i x p).traceStep 0x10 ch 8 i x
      (stepItems x p).1

theorem ctxTaken_facts {w : State} {ch i sid : Nat} {x : Inst} (hx : instAt w ch i = some x) (p : GStep) :
    (∃ y, instAt (ctxTaken w ch i sid x p) ch i = some y ∧ y.holds = true ∧ y.work.isSome = true) ∧
      (ctxTaken w ch i sid x p).core.work.shelf = w.core.work.shelf := by
  obtain ⟨hchans, hshelf⟩ := correctSession_facts w sid x.mapVersion
  unfold ctxTaken
  extract_lets c live
  have hx' : instAt c.2 ch i = some x := by rw [instAt, chanAt, hchans]; exact hx
  have hinst := instAt_modInst_self hx' (fun y => { y with
    holds := true, corr := c.1, work := some (match c.1 with | some c => correctedCtx c live | none => live) })
  obtain ⟨b, hb⟩ := noteClamp_inst hinst x p
  refine ⟨⟨_, (instAt_traceStep _ _ _ _ _ _ _ _ _).trans hb, rfl, rfl⟩, ?_⟩
  obtain ⟨b, q, m, l, h⟩ := traceRec_eq (State.noteClamp _ ch i x p) 0x10 8 (stepTrace x i (stepItems x p).1) ch
  rw [State.traceStep, h]
  exact holds_ite (P := fun t : State => t.core.work.shelf = w.core.work.shelf) hshelf hshelf

section CtxTake
variable {s : State} {ch i k sid : Nat} {x : Inst} {g : Slot} {p : GStep} (hstep : seqStep (s.refresh ch) ch i 8 = some (x, g, k, p))
  (hsid : x.sid = some sid)
include hstep hsid

theorem exec_ctxTake_late (hlate : x.deadline < dtOf s) : exec (.ctxTake ch i .clean) s = .next ((s.refresh ch).skipRest ch i (some 0x20)) := by
  change execCtxTake ch i .clean s = _
  unfold execCtxTake
  dsimp only
  rw [hstep]
  dsimp only
  rw [hsid]
  exact congrArg Host.Outcome.next (if_pos (decide_eq_true hlate))

variable (hdue : dtOf s ≤ x.deadline) (hres : restoringFor (s.refresh ch) ch x k = false) (hfree : heldElsewhere (s.refresh ch) ch i sid = false)
include hdue hres hfree

theorem exec_ctxTake_torn {q : Nat} (htorn : tornRead (s.refresh ch) sid = some q) : exec (.ctxTake ch i .clean) s =
    .next (((s.refresh ch).reachTorn q (6 * ch + 5)).endEarly ch i 0x21) := by
  have hlate : ¬ late? (s.refresh ch) x = true := by simp [intime_refresh hdue]
  change execCtxTake ch i .clean s = _
  unfold execCtxTake
  dsimp only
  rw [hstep]
  dsimp only
  rw [hsid]
  dsimp only
  rw [if_neg hlate, if_neg (by simp [hres]), if_neg (by simp [hfree]), htorn]

theorem exec_ctxTake_takes {w : State} (htorn : tornRead (s.refresh ch) sid = none) (hw : touchShelf (s.refresh ch) sid = some w)
    (hplain : fieldAt p.param 0 1 ≠ 1) : exec (.ctxTake ch i .clean) s =
      .next (((ctxTaken w ch i sid x p).traceStep 0x11 ch 8 i x (stepItems x p).1).finishStep ch i k p) := by
  have hlate : ¬ late? (s.refresh ch) x = true := by simp [intime_refresh hdue]
  change execCtxTake ch i .clean s = _
  unfold execCtxTake
  dsimp only
  rw [hstep]
  dsimp only
  rw [hsid]
  dsimp only
  rw [if_neg hlate, if_neg (by simp [hres]), if_neg (by simp [hfree]), htorn]
  dsimp only
  rw [if_neg (by simp [State.shelfRead]), show (State.shelfRead (s.refresh ch) ch i .clean).2 = s.refresh ch from rfl, hw]
  dsimp only
  rw [relocFor_plain _ _ _ _ _ hplain]
  rfl

end CtxTake

/-! ### CTX_PEEK (R154, R169) -/

/-- The snapshot of a context as an instance takes it. -/
def ctxPeeked (s : State) (ch i : Nat) (x : Inst) (p : GStep) : State :=
  let s := match x.sid with
    | some sid => (touchShelf s sid).getD s
    | none => s
  let c := match x.sid.bind (sessAt s) with
    | some y => y.ctx
    | none => {}
  ((s.noteClamp ch i x p).modInst ch i (fun y => { y.put (p.outR 0) 0 (ctxImage c) with peek := some c })).traceStep 0x10 ch 10 i x (stepItems x p).1

theorem ctxPeeked_inst {s : State} {ch i : Nat} {x : Inst} (hx : instAt s ch i = some x) (p : GStep) :
    ∃ y, instAt (ctxPeeked s ch i x p) ch i = some y ∧ y.holds = x.holds := by
  unfold ctxPeeked
  extract_lets u c
  have hu : instAt u ch i = some x := by
    change instAt (match x.sid with | some sid => (touchShelf s sid).getD s | none => s) ch i = some x
    split
    · obtain ⟨l, hl⟩ := touchShelf_getD_eq s _
      rw [hl]
      exact hx
    · exact hx
  obtain ⟨b, hb⟩ := noteClamp_inst hu x p
  exact ⟨_, (instAt_traceStep _ _ _ _ _ _ _ _ _).trans (instAt_modInst_self hb _), rfl⟩

section CtxPeek
variable {s : State} {ch i k : Nat} {x : Inst} {g : Slot} {p : GStep} (hstep : seqStep (s.refresh ch) ch i 10 = some (x, g, k, p))
include hstep

theorem exec_ctxPeek_late (hlate : x.deadline < dtOf s) : exec (.ctxPeek ch i) s = .next ((s.refresh ch).skipRest ch i (some 0x20)) := by
  change execCtxPeek ch i s = _
  unfold execCtxPeek
  dsimp only
  rw [hstep]
  exact congrArg Host.Outcome.next (if_pos (decide_eq_true hlate))

theorem exec_ctxPeek_copies (hdue : dtOf s ≤ x.deadline) (hres : restoringFor (s.refresh ch) ch x k = false)
    (htorn : x.sid.bind (tornRead (s.refresh ch)) = none) : exec (.ctxPeek ch i) s =
      .next (((ctxPeeked (s.refresh ch) ch i x p).traceStep 0x11 ch 10 i x (stepItems x p).1).finishStep ch i k p) := by
  change execCtxPeek ch i s = _
  unfold execCtxPeek
  dsimp only
  rw [hstep]
  dsimp only
  rw [if_neg (by simp [intime_refresh hdue]), if_neg (by simp [hres]), htorn]
  rfl

end CtxPeek

/-! ### RESULT (R56 to R58, R110, R165) -/

/-- No channel has an instance under a number that it had not. -/
def KeysDown (s t : State) : Prop := ∀ c, (chanAt t c).insts.map Prod.fst ⊆ (chanAt s c).insts.map Prod.fst

theorem KeysDown.of_chans {s t : State} (h : t.core.chans = s.core.chans) : KeysDown s t := fun c => by
  rw [chanAt, h]
  exact List.Subset.refl _

theorem KeysDown.trans {s t u : State} (h : KeysDown s t) (h' : KeysDown t u) : KeysDown s u := fun c => List.Subset.trans (h' c) (h c)

theorem keysDown_foldl {β : Type} (f : State → β → State) (hf : ∀ s b, KeysDown s (f s b)) (l : List β) : ∀ s, KeysDown s (l.foldl f s) := by
  induction l with
  | nil => exact fun s => KeysDown.of_chans rfl
  | cons b l ih => exact fun s => (hf s b).trans (ih _)

theorem keysDown_refresh (s : State) (ch : Nat) : KeysDown s (s.refresh ch) := fun c => by
  have h := chanAt_modChan_same (fun c => c.insts.map Prod.fst)
    (f := fun c => { c with insts := c.insts.map (fun p => (p.1, refreshed s ch p.2)) }) (fun c => by simp [Function.comp_def]) s ch c
  rw [refresh_eq]
  exact h ▸ List.Subset.refl _

/-- An instance gone from a channel, and the engine that ran it free. -/
def dropped (i : Nat) (c : Chan) : Chan :=
  { c with
    insts := NMap.erase c.insts i
    engines := c.engines.map (fun e => match e.run with
      | some (j, _) => if j == i then { e with run := none, stall := none } else e
      | none => e) }

theorem dropInst_chan (s : State) (ch i c : Nat) : chanAt (s.dropInst ch i) c = if c == ch then dropped i (chanAt s c) else chanAt s c :=
  chanAt_zipIdx s (fun p => if p.2 == ch then dropped i p.1 else p.1) (fun c => by
    dsimp only
    split <;> rfl) c

theorem keysDown_dropInst (s : State) (ch i : Nat) : KeysDown s (s.dropInst ch i) := fun c => by
  rw [dropInst_chan]
  split
  · exact List.Sublist.subset (List.Sublist.map _ List.filter_sublist)
  · exact List.Subset.refl _

theorem dropInst_gone (s : State) (ch i : Nat) : i ∉ (chanAt (s.dropInst ch i) ch).insts.map Prod.fst := by
  rw [dropInst_chan, if_pos (by simp), dropped]
  simp [NMap.erase]

theorem instAt_of_gone {s : State} {ch i : Nat} (h : i ∉ (chanAt s ch).insts.map Prod.fst) : instAt s ch i = none :=
  NMap.get_eq_none_of_ne fun e he heq => h (List.mem_map.2 ⟨e, he, heq⟩)

theorem keysDown_stopJob (s : State) (j : Nat) : KeysDown s (s.stopJob j) := by
  unfold State.stopJob
  refine KeysDown.trans (t := s.modChans (fun l => l.map (fun c => { c with queue := c.queue.filter (fun w => w.origin != .mapJob j) })))
    (fun c => ?_) (keysDown_foldl _ (fun s p => keysDown_dropInst s _ _) _ _)
  have h : (chanAt (s.modChans (fun l => l.map (fun c => { c with queue := c.queue.filter (fun w => w.origin != .mapJob j) }))) c).insts =
      (chanAt s c).insts := by
    simp only [chanAt, State.modChans_core, List.getD_eq_getElem?_getD, List.getElem?_map]
    cases s.core.chans[c]? <;> rfl
  rw [h]
  exact List.Subset.refl _

theorem keysDown_jobSolved (s : State) (j : Nat) : KeysDown s (s.jobSolved j) := by
  unfold State.jobSolved
  split
  · exact KeysDown.of_chans rfl
  · refine holds_ite (P := fun t => KeysDown s t) (KeysDown.of_chans rfl) (holds_ite (P := fun t => KeysDown s t) ?_ (KeysDown.of_chans rfl))
    have hlock : ((s.stopJob j).releaseLock j).core.chans = (s.stopJob j).core.chans :=
      releaseLock_unseen (F := fun s : State => s.core.chans) (fun _ _ => rfl) _ j
    have hstop := (keysDown_stopJob s j).trans (KeysDown.of_chans hlock)
    unfold State.endJob
    extract_lets u
    split
    · exact hstop
    · exact holds_ite (P := fun t => KeysDown s t) (hstop.trans (KeysDown.of_chans rfl)) (hstop.trans (KeysDown.of_chans rfl))

/-- The channels, which a record's delivery leaves alone. -/
def chansOf (s : State) : List Chan := s.core.chans

theorem undelivered_chansOf : Undelivered chansOf where
  deaf := ⟨fun _ _ => rfl, fun _ _ => rfl, fun _ _ _ => rfl, fun _ _ => rfl, fun _ _ _ _ _ => rfl⟩
  err _ _ := rfl
  free _ _ := rfl
  sec _ _ := rfl
  area _ _ _ := rfl
  paid _ _ := rfl

theorem deliverFree_chans (s : State) (area : Nat) (r : RecIn) : chansOf (s.deliverFree area r) = chansOf s := by
  unfold State.deliverFree
  refine holds_ite (P := fun t => chansOf t = chansOf s) rfl ?_
  dsimp only
  rw [undelivered_chansOf.paid, undelivered_chansOf.putRecord]
  exact undelivered_chansOf.record s r area _

/-- What RESULT makes of its instance's origin. -/
def originEnds (s : State) (x : Inst) (g : Slot) (st : Nat) : State :=
  match x.origin with
  | .item b n => s.endItem b n st x.hflags x.saturated x.mapVersion
  | .cycleSolve _ =>
    (match x.sid.bind (fun n => (sessAt s n).map (fun y => (n, y))) with
     | some (sid, y) =>
       if (stepOf g.graph 8).isSome then
         s.deliverFree y.ctx.cfg.area { kind := 3, status := st, sid := sid, hflags := x.hflags, saturated := x.saturated, version := x.mapVersion }
       else s
     | none => s)
  | .symbol _ => s
  | .cycleTrack _ => s
  | .mapJob j => s.jobSolved j

theorem keysDown_originEnds (s : State) (x : Inst) (g : Slot) (st : Nat) : KeysDown s (originEnds s x g st) := by
  unfold originEnds
  split
  · exact KeysDown.of_chans (endItem_chans s _ _ _ _ _ _)
  · split
    · exact holds_ite (P := fun t => KeysDown s t) (KeysDown.of_chans (deliverFree_chans s _ _)) (KeysDown.of_chans rfl)
    · exact KeysDown.of_chans rfl
  · exact KeysDown.of_chans rfl
  · exact KeysDown.of_chans rfl
  · exact keysDown_jobSolved s _

/-- RESULT before its origin's end: the context goes back, a parcel goes in, the instance goes. -/
def resultDone (s : State) (ch i : Nat) (x : Inst) (g : Slot) (p : GStep) (st : Nat) : State :=
  let s := ((s.noteClamp ch i x p).traceStep 0x10 ch 9 i x (stepItems x p).1).returnContext x
  let s := if st == 0x00 || st == 0x20 then s.insertParcelOf x g else s
  (s.traceStep 0x11 ch 9 i x (stepItems x p).1).dropInst ch i

/-- The status with which RESULT ends. -/
def resultStatus (s : State) (ch k : Nat) (x : Inst) : Nat :=
  x.status.getD (if restoringFor (s.refresh ch) ch x k = true then 0x22 else if x.deadline < dtOf s then 0x20 else 0x00)

theorem exec_result {s : State} {ch i k : Nat} {x : Inst} {g : Slot} {p : GStep} (hstep : seqStep (s.refresh ch) ch i 9 = some (x, g, k, p)) :
    exec (.result ch i) s = .next ((List.range 8).foldl State.refresh
      (originEnds (resultDone (s.refresh ch) ch i x g p (resultStatus s ch k x)) x g (resultStatus s ch k x))) := by
  have hst : x.status.getD (if restoringFor (s.refresh ch) ch x k then 0x22 else if late? (s.refresh ch) x then 0x20 else 0x00) =
      resultStatus s ch k x := by
    unfold resultStatus late?
    simp only [decide_eq_true_eq]
    rfl
  change execResult ch i s = _
  unfold execResult
  dsimp only
  rw [hstep]
  dsimp only
  rw [hst]
  rfl

theorem returnContext_batches (s : State) (x : Inst) : batchesOf (s.returnContext x) = batchesOf s := by
  unfold State.returnContext
  split
  · rfl
  · next sid _ =>
    extract_lets u
    have hu : batchesOf u = batchesOf s := holds_ite (P := fun t => batchesOf t = batchesOf s) rfl rfl
    split
    · exact hu
    · exact holds_ite (P := fun t => batchesOf t = batchesOf s) hu hu

theorem insertParcelOf_batches (s : State) (x : Inst) (g : Slot) : batchesOf (s.insertParcelOf x g) = batchesOf s := by
  unfold State.insertParcelOf
  split
  · rfl
  · refine holds_ite (P := fun t => batchesOf t = batchesOf s) (holds_ite (P := fun t => batchesOf t = batchesOf s) rfl rfl) ?_
    exact holds_ite (P := fun t => batchesOf t = batchesOf s) rfl (sendUp_unseen (F := batchesOf) (fun _ _ => rfl) _ _ _)

theorem traceStep_batches (s : State) (type ch code i : Nat) (x : Inst) (n : Nat) :
    batchesOf (s.traceStep type ch code i x n) = batchesOf s := undelivered_batchesOf.deaf.traceRec s _ _ _ _

theorem resultDone_batches (s : State) (ch i : Nat) (x : Inst) (g : Slot) (p : GStep) (st : Nat) :
    batchesOf (resultDone s ch i x g p st) = batchesOf s := by
  unfold resultDone
  extract_lets u v
  have hclamp : batchesOf (s.noteClamp ch i x p) = batchesOf s := holds_ite (P := fun t => batchesOf t = batchesOf s) rfl rfl
  have hu : batchesOf u = batchesOf s := (returnContext_batches _ x).trans ((traceStep_batches _ _ _ _ _ _ _).trans hclamp)
  have hv : batchesOf v = batchesOf u := holds_ite (P := fun t => batchesOf t = batchesOf u) (insertParcelOf_batches u x g) rfl
  exact (traceStep_batches v 0x11 ch 9 i x _).trans (hv.trans hu)

theorem result_gone (s : State) (ch i : Nat) (x : Inst) (g : Slot) (p : GStep) (st : Nat) :
    instAt ((List.range 8).foldl State.refresh (originEnds (resultDone s ch i x g p st) x g st)) ch i = none := by
  have hgone : i ∉ (chanAt (resultDone s ch i x g p st) ch).insts.map Prod.fst := dropInst_gone _ ch i
  have hdown := (keysDown_originEnds (resultDone s ch i x g p st) x g st).trans (keysDown_foldl State.refresh keysDown_refresh (List.range 8) _)
  exact instAt_of_gone fun h => hgone (hdown ch h)

theorem result_item {s : State} {ch i b n : Nat} {x : Inst} {it : Item} (horigin : x.origin = .item b n) (hit : itemAt s b n = some it)
    (hopen : it.status = none) (g : Slot) (p : GStep) (st : Nat) :
    ∃ y, itemAt ((List.range 8).foldl State.refresh (originEnds (resultDone s ch i x g p st) x g st)) b n = some y ∧ y.status = some st := by
  have hit' : itemAt (resultDone s ch i x g p st) b n = some it :=
    (congrArg (fun m : NMap Batch => (NMap.get? m b).bind (fun x => x.items[n]?)) (resultDone_batches s ch i x g p st)).trans hit
  obtain ⟨y, hy, hst⟩ := endItem_status hit' hopen st x.hflags x.saturated x.mapVersion
  have hend : originEnds (resultDone s ch i x g p st) x g st = (resultDone s ch i x g p st).endItem b n st x.hflags x.saturated x.mapVersion := by
    rw [originEnds, horigin]
  have hitems (u : State) : itemAt ((List.range 8).foldl State.refresh u) b n = itemAt u b n :=
    foldl_unseen (F := fun s => itemAt s b n) (f := State.refresh)
      (fun s c => refresh_unseen (F := fun s => itemAt s b n) (fun _ _ => rfl) s c) _ u
  exact ⟨y, by rw [hitems, hend, hy], hst⟩

/-- Settles O42. -/
theorem sequencerStepsTakeEffect : Obligations.SequencerStepsTakeEffect := by
  unfold Obligations.SequencerStepsTakeEffect
  intro s ch i hrun
  refine ⟨fun x g k p b n it data hstep hit hdue hplain => ?dmaIn, fun x g k p sid u hstep hsid hfree hu => ?ctxTake,
    fun x g k p hstep => ?ctxPeek, fun x g k p hstep => ?result⟩
  case dmaIn =>
    have hdue' : late? (s.refresh ch) x = false := intime_refresh hdue
    have hplain' : bulkSealed (s.refresh ch) x.ctx = false := hplain
    have hit' : itemOf (s.refresh ch) x = some (b, n, it) := hit
    refine ⟨fun y hy hroom => ?_, fun hbad hopen => ?_, fun q hopen => ?_⟩
    · obtain ⟨hout, z, hz, htags⟩ := dmaInEnds_takes hstep hit' hdue' hplain' (data := data) hy hroom
      exact ⟨_, z, rfl, hout, hz, htags⟩
    · obtain ⟨z, hz, hst⟩ := dmaInEnds_refuses hstep hit' hdue' hplain' (data := data) hbad hopen
      exact ⟨_, z, rfl, hz, hst⟩
    · obtain ⟨z, hz, hst⟩ := dmaInEnds_faults hstep hit' hdue' hplain' q hopen
      exact ⟨_, z, rfl, hz, hst⟩
  case ctxTake =>
    obtain ⟨hx, hg⟩ := seqStep_facts hstep
    refine ⟨fun hlate => ?_, fun q hdue hres htorn hopen => ?_, fun hdue hres htorn hplain => ?_⟩
    · obtain ⟨y, hy, hst⟩ := skipRest_status (st := 0x20) hx (Option.isSome_of_eq_some hg)
      exact ⟨_, y, exec_ctxTake_late hstep hsid hlate, hy, hst⟩
    · have hreach : ((s.refresh ch).reachTorn q (6 * ch + 5)).core.chans = (s.refresh ch).core.chans :=
        undelivered_chansOf.deaf.reachTorn (fun _ _ => rfl) (fun _ _ => rfl) (fun _ _ => rfl) _ _ _
      have hwork : ((s.refresh ch).reachTorn q (6 * ch + 5)).core.work = (s.refresh ch).core.work :=
        congrArg (fun p : Hatches × Time × Work => p.2.2) (reachTorn_rest (s.refresh ch) q (6 * ch + 5))
      obtain ⟨y, hy, hst⟩ := endEarly_gives (s := (s.refresh ch).reachTorn q (6 * ch + 5)) (i := i) (st := 0x21) (x := x) (g := g)
        (by rw [instAt, chanAt, hreach]; exact hx) (by rw [instSlot, graphAt, hwork]; exact hg) hopen
      exact ⟨_, y, exec_ctxTake_torn hstep hsid hdue hres hfree htorn, hy, hst⟩
    · obtain ⟨l, hl⟩ := touchShelf_some hu
      have hxu : instAt u ch i = some x := by rw [hl]; exact hx
      obtain ⟨⟨y, hy, hholds, hwork⟩, hshelf⟩ := ctxTaken_facts (sid := sid) hxu p
      have hexec := exec_ctxTake_takes hstep hsid hdue hres hfree htorn hu hplain
      generalize ctxTaken u ch i sid x p = v at hy hshelf hexec
      obtain ⟨⟨m, hm⟩, -⟩ := endTake_facts hy k 8 p x (stepItems x p).1
      refine ⟨_, _, hexec, hm, hholds, hwork, ?_, fun a ha => endStep_tags y p k a ha⟩
      have hend : ((v.traceStep 0x11 ch 8 i x (stepItems x p).1).finishStep ch i k p).core.work.shelf = u.core.work.shelf :=
        (finishStep_unseen (F := fun s : State => s.core.work.shelf) (fun _ _ => rfl) _ ch i k p).trans
          (((congrArg Work.shelf (traceStep_work v 0x11 ch 8 i x _))).trans hshelf)
      rw [hend, hl]
      exact List.mem_append_right _ (List.mem_singleton_self _)
  case ctxPeek =>
    obtain ⟨hx, hg⟩ := seqStep_facts hstep
    refine ⟨fun hdue hres htorn => ?_, fun hlate => ?_⟩
    · obtain ⟨y, hy, hholds⟩ := ctxPeeked_inst hx p
      obtain ⟨⟨m, hm⟩, -⟩ := endTake_facts hy k 10 p x (stepItems x p).1
      exact ⟨_, _, exec_ctxPeek_copies hstep hdue hres htorn, hm, hholds, fun a ha => endStep_tags y p k a ha⟩
    · obtain ⟨y, hy, hst⟩ := skipRest_status (st := 0x20) hx (Option.isSome_of_eq_some hg)
      exact ⟨_, y, exec_ctxPeek_late hstep hlate, hy, hst⟩
  case result =>
    exact ⟨_, exec_result hstep, result_gone _ ch i x g p _, fun b n it horigin hit hopen =>
      result_item (s := s.refresh ch) horigin hit hopen g p (resultStatus s ch k x)⟩

end Sys2Proof.Machine
end

section
/-! Channels leave service and shared blocks come back (R107, R172, R522 to R524). -/
namespace Sys2Proof.Machine

/-! ### What stays gone and what stays set -/

/-- A bit of an error register stands. -/
def bitOn (s : State) (r b : Nat) : Prop := (s.err.regs.getD r {}).bits.getLsbD b = true

/-- No instance comes, no channel returns to service, no error bit goes. -/
structure Falls (s t : State) : Prop where
  keys : KeysDown s t
  out : ∀ c, (chanAt s c).inService = false → (chanAt t c).inService = false
  err : ∀ r b, bitOn s r b → bitOn t r b

/-- The channels and the error registers. -/
def failView (s : State) : List Chan × Err := (s.core.chans, s.err)

theorem falls_of_view {s t : State} (h : failView t = failView s) : Falls s t := by
  have hchans : t.core.chans = s.core.chans := congrArg Prod.fst h
  have herr : t.err = s.err := congrArg Prod.snd h
  refine ⟨KeysDown.of_chans hchans, fun c hc => ?_, fun r b hb => ?_⟩
  · rw [chanAt, hchans]
    exact hc
  · rw [bitOn, herr]
    exact hb

theorem Falls.refl (s : State) : Falls s s := falls_of_view rfl

theorem Falls.trans {s t u : State} (h : Falls s t) (h' : Falls t u) : Falls s u :=
  ⟨h.keys.trans h'.keys, fun c hc => h'.out c (h.out c hc), fun r b hb => h'.err r b (h.err r b hb)⟩

theorem falls_ite {s t u : State} {b : Prop} [Decidable b] (ht : Falls s t) (hu : Falls s u) : Falls s (if b then t else u) :=
  holds_ite (P := fun v => Falls s v) ht hu

theorem falls_foldl {β : Type} {f : State → β → State} (hf : ∀ s b, Falls s (f s b)) (l : List β) : ∀ s, Falls s (l.foldl f s) := by
  induction l with
  | nil => exact Falls.refl
  | cons b l ih => exact fun s => (hf s b).trans (ih _)

/-- Every channel changes by itself. -/
theorem falls_chans {s t : State} (herr : t.err = s.err)
    (h : ∀ c, (chanAt t c).insts.map Prod.fst ⊆ (chanAt s c).insts.map Prod.fst ∧ ((chanAt s c).inService = false → (chanAt t c).inService = false)) :
    Falls s t :=
  ⟨fun c => (h c).1, fun c => (h c).2, fun r b hb => by rw [bitOn, herr]; exact hb⟩

theorem falls_modChan (s : State) (ch : Nat) {f : Chan → Chan}
    (hf : ∀ c, (f c).insts.map Prod.fst ⊆ c.insts.map Prod.fst ∧ (c.inService = false → (f c).inService = false)) : Falls s (s.modChan ch f) := by
  refine falls_chans rfl fun c => ?_
  by_cases hc : c = ch
  · subst hc
    by_cases hlt : c < s.core.chans.length
    · rw [chanAt_modChan_self hlt]
      exact hf _
    · have hout : chanAt (s.modChan c f) c = chanAt s c := by
        change (updAt s.core.chans c f).getD c _ = s.core.chans.getD c _
        rw [List.getD_eq_default _ _ (by rw [length_updAt]; exact Nat.le_of_not_lt hlt), List.getD_eq_default _ _ (Nat.le_of_not_lt hlt)]
      rw [hout]
      exact ⟨List.Subset.refl _, id⟩
  · rw [chanAt_modChan_other s f hc]
    exact ⟨List.Subset.refl _, id⟩

/-- The flags that an occurrence sets: CAUSE and ENGINE of a channel's register stay with the first setting of bit 7 (R530). -/
def errFlags (s : State) (idx flags : Nat) : W32 :=
  BitVec.ofNat 32 (if decide (8 ≤ idx) && (s.err.regs.getD idx {}).bits.getLsbD 7 then flags % 256 else flags)

/-- An occurrence adds its flags to its register, where any of them is new. -/
theorem setErr_regs (s : State) (idx bitNo flags source sid page : Nat) :
    ((s.setErr idx bitNo flags source sid page).err.regs = s.err.regs ∧
      (errPresent s idx = true → errFlags s idx flags &&& ~~~(s.err.regs.getD idx {}).bits = 0)) ∨
      ∃ r : ErrReg, r.bits = (s.err.regs.getD idx {}).bits ||| errFlags s idx flags ∧
        (s.setErr idx bitNo flags source sid page).err.regs = setAt s.err.regs idx r := by
  unfold State.setErr errFlags
  dsimp only
  generalize BitVec.ofNat 32 _ = f
  by_cases hp : (!errPresent s idx) = true
  · rw [if_pos hp]
    refine Or.inl ⟨rfl, fun h => ?_⟩
    rw [h] at hp
    exact absurd hp (by decide)
  · rw [if_neg hp]
    by_cases hnew : (f &&& ~~~(s.err.regs.getD idx {}).bits == 0 && !alwaysReported idx bitNo) = true
    · rw [if_pos hnew]
      rw [Bool.and_eq_true, beq_iff_eq] at hnew
      exact Or.inl ⟨rfl, fun _ => hnew.1⟩
    · rw [if_neg hnew, traceRec_err, deaf_err.event]
      exact Or.inr ⟨_, rfl, rfl⟩

theorem falls_setErr (s : State) (idx bitNo flags source sid page : Nat) : Falls s (s.setErr idx bitNo flags source sid page) := by
  have hchans : (s.setErr idx bitNo flags source sid page).core.chans = s.core.chans :=
    Deaf.setErr undelivered_chansOf.deaf (fun _ _ => rfl) s idx bitNo flags source sid page
  refine ⟨KeysDown.of_chans hchans, fun c hc => by rw [chanAt, hchans]; exact hc, fun r b hb => ?_⟩
  rcases setErr_regs s idx bitNo flags source sid page with ⟨h, -⟩ | ⟨r', hbits, h⟩
  · rw [bitOn, h]
    exact hb
  · rw [bitOn, h]
    by_cases hr : r = idx
    · subst hr
      by_cases hlt : r < s.err.regs.length
      · rw [setAt, List.getD_eq_getElem?_getD, List.getElem?_set_self hlt, Option.getD_some, hbits, BitVec.getLsbD_or, (hb :)]
        rfl
      · rw [setAt, List.set_eq_of_length_le (Nat.le_of_not_lt hlt)]
        exact hb
    · rw [getD_setAt_other _ _ _ hr]
      exact hb

/-- Bit 7 of a channel's register stands once a failure has been reported (R530). -/
theorem setErr_failed {s : State} {ch : Nat} (hch : ch < nChans s) (hlen : s.err.regs.length = 16) (bitNo : Nat) {flags : Nat}
    (hflags : flags.testBit 7 = true) (source sid page : Nat) : bitOn (s.setErr (8 + ch) bitNo flags source sid page) (8 + ch) 7 := by
  have hpres : errPresent s (8 + ch) = true := by
    unfold nChans at hch
    cases h968 : s.hw.is968 <;> simp [h968] at hch <;> simp [errPresent, h968] <;> omega
  have hlt : 8 + ch < s.err.regs.length := by
    unfold nChans at hch
    split at hch <;> omega
  have hor : ((s.err.regs.getD (8 + ch) {}).bits ||| errFlags s (8 + ch) flags).getLsbD 7 = true := by
    rw [BitVec.getLsbD_or]
    cases hbit : (s.err.regs.getD (8 + ch) {}).bits.getLsbD 7 with
    | true => rfl
    | false =>
      rw [errFlags, hbit, Bool.and_false, if_neg Bool.false_ne_true, BitVec.getLsbD_ofNat, hflags]
      rfl
  rcases setErr_regs s (8 + ch) bitNo flags source sid page with ⟨h, hold⟩ | ⟨r, hbits, h⟩
  · have hnone : (errFlags s (8 + ch) flags &&& ~~~(s.err.regs.getD (8 + ch) {}).bits).getLsbD 7 = false := by
      rw [hold hpres]
      rfl
    rw [BitVec.getLsbD_and, BitVec.getLsbD_not] at hnone
    rw [BitVec.getLsbD_or] at hor
    rw [bitOn, h]
    cases hbit : (s.err.regs.getD (8 + ch) {}).bits.getLsbD 7 with
    | true => rfl
    | false =>
      rw [hbit, Bool.false_or] at hor
      rw [hbit, hor] at hnone
      exact absurd hnone (by decide)
  · rw [bitOn, h, setAt, List.getD_eq_getElem?_getD, List.getElem?_set_self hlt, Option.getD_some, hbits]
    exact hor

theorem causeFlags_failed (cause engine : Nat) : (causeFlags cause engine).testBit 7 = true := by
  have hall : ∀ a < 2, ∀ c < 8, ∀ e < 8, (packBits [(a, 6), (1, 7), (c, 8), (e, 12)]).testBit 7 = true := by decide
  refine hall _ ?_ _ (Nat.mod_lt _ (by decide)) _ ?_
  · unfold b2n
    split <;> decide
  · split
    · exact Nat.mod_lt _ (by decide)
    · decide

/-! ### Parts of a failure, one by one -/

theorem deaf_failView : Deaf failView := ⟨fun _ _ => rfl, fun _ _ => rfl, fun _ _ _ => rfl, fun _ _ => rfl, fun _ _ _ _ _ => rfl⟩

theorem pageless_failView : Pageless failView := ⟨fun _ _ => rfl, fun _ _ => rfl⟩

theorem falls_err1 (s : State) (i b src sid pg : Nat) : Falls s (s.err1 i b src sid pg) := falls_setErr s i b _ src sid pg

theorem falls_record (s : State) (i : RecIn) : Falls s (s.record i).2 := by
  have drawn : Falls s s.draw.2 := falls_of_view rfl
  unfold State.record
  by_cases h : poseKept i.status = true
  · simp only [h, if_true]
    exact falls_ite (falls_err1 s _ _ _ _ _) (Falls.refl s)
  · simp only [h]
    exact falls_ite (drawn.trans (falls_err1 _ _ _ _ _ _)) drawn

theorem putRecord_failView (s : State) (n : Nat) (b : List Byte) : failView (s.putRecord n b) = failView s := by
  have hirq (u : State) : failView (u.areaIrq n) = failView u := by
    unfold State.areaIrq
    dsimp only
    split
    · rw [deaf_failView.msi]
      rfl
    · rfl
  unfold State.putRecord
  dsimp only
  rw [hirq]
  rfl

theorem falls_deliver (s : State) (n : Nat) (i : RecIn) : Falls s (s.deliver n i) := by
  unfold State.deliver
  dsimp only
  refine (falls_record s i).trans (falls_of_view ?_)
  generalize State.record s i = q
  have hseal : failView (q.2.sealRecord n i.sid q.1).2 = failView q.2 := sealRecord_unseen (F := failView) (fun _ _ => rfl) _ _ _ _
  exact (putRecord_failView _ n _).trans hseal

theorem falls_modBatch (s : State) (b : Nat) (f : Batch → Batch) : Falls s (s.modBatch b f) := falls_of_view rfl

theorem falls_flushItems (b : Nat) : ∀ (l : List (Nat × Item)) (before : List Item) (s : State), Falls s (State.flushItems b l before s)
  | [], _, s => Falls.refl s
  | (i, it) :: l, before, s => by
    unfold State.flushItems
    dsimp only
    split
    · split
      · exact falls_flushItems b l _ s
      · refine Falls.trans (Falls.trans ?_ (falls_modBatch _ b _)) (falls_flushItems b l _ _)
        exact falls_ite (falls_deliver s _ _) (Falls.refl s)
    · exact falls_flushItems b l _ s

theorem falls_endOrigin (s : State) (o : Origin) (st : Nat) : Falls s (s.endOrigin o st) := by
  cases o with
  | item b n =>
    change Falls s (s.endItem b n st)
    unfold State.endItem
    dsimp only
    split
    · exact (falls_modBatch s b _).trans (falls_flushItems b _ _ _)
    · exact falls_modBatch s b _
  | symbol _ => exact Falls.refl s
  | cycleSolve _ => exact Falls.refl s
  | cycleTrack _ => exact Falls.refl s
  | mapJob _ => exact Falls.refl s

theorem falls_dropInst (s : State) (ch i : Nat) : Falls s (s.dropInst ch i) :=
  falls_chans rfl fun c => ⟨keysDown_dropInst s ch i c, fun hc => by
    rw [dropInst_chan]
    split <;> exact hc⟩

theorem falls_mapChans (s : State) {f : Chan → Chan} (hf : ∀ c, (f c).insts.map Prod.fst ⊆ c.insts.map Prod.fst ∧
    (c.inService = false → (f c).inService = false)) : Falls s (s.modChans (fun l => l.map f)) := by
  refine falls_chans rfl fun c => ?_
  simp only [chanAt, State.modChans_core, List.getD_eq_getElem?_getD, List.getElem?_map]
  cases s.core.chans[c]? with
  | none => exact ⟨List.Subset.refl _, id⟩
  | some x => exact hf x

theorem falls_stopJob (s : State) (j : Nat) : Falls s (s.stopJob j) := by
  unfold State.stopJob
  refine Falls.trans ?_ (falls_foldl (fun s (p : Nat × Nat) => falls_dropInst s p.1 p.2) _ _)
  exact falls_mapChans s fun _ => ⟨List.Subset.refl _, id⟩

theorem falls_modMap (s : State) (f : MapSt → MapSt) : Falls s (s.modMap f) := falls_of_view rfl

theorem falls_abandonJob (s : State) (j : Nat) : Falls s (s.abandonJob j) := by
  have hlock : failView ((s.stopJob j).releaseLock j) = failView (s.stopJob j) := releaseLock_unseen (F := failView) (fun _ _ => rfl) _ j
  have hstop := (falls_stopJob s j).trans (falls_of_view hlock)
  unfold State.abandonJob State.endJob
  extract_lets u
  split
  · exact hstop
  · exact falls_ite (hstop.trans (falls_modMap u _)) (hstop.trans (falls_modMap u _))

theorem falls_loseMapWork (s : State) (ch : Nat) : Falls s (s.loseMapWork ch) :=
  (falls_foldl falls_abandonJob _ s).trans (falls_modChan _ ch fun _ => ⟨List.Subset.refl _, id⟩)

theorem loseGraphs_failView (s : State) (ch : Nat) : failView (s.loseGraphs ch) = failView s := by
  unfold State.loseGraphs
  extract_lets hs u before
  have hu : failView u = failView s :=
    foldl_unseen (F := failView) (fun s h => place_unseen failView (fun _ _ _ _ _ _ _ _ => rfl) s h 0x3F []) hs s
  exact (pageless_failView.pinCrates _ before).trans hu

theorem falls_loseInstances (s : State) (ch : Nat) : Falls s (s.loseInstances ch) :=
  falls_foldl (f := fun s (p : Nat × Inst) => (s.dropInst ch p.1).endOrigin p.2.origin 0x3F)
    (fun s p => (falls_dropInst s ch p.1).trans (falls_endOrigin (s.dropInst ch p.1) p.2.origin 0x3F)) (chanAt s ch).insts s

theorem loseInstances_empty (s : State) (ch : Nat) : (chanAt (s.loseInstances ch) ch).insts = [] := by
  have hgone : ∀ (l : List (Nat × Inst)) (u : State), ∀ p ∈ l,
      p.1 ∉ (chanAt (l.foldl (fun s p => (s.dropInst ch p.1).endOrigin p.2.origin 0x3F) u) ch).insts.map Prod.fst := by
    intro l
    induction l with
    | nil => exact fun u p hp => absurd hp List.not_mem_nil
    | cons q l ih =>
      intro u p hp
      rw [List.foldl_cons]
      rcases List.mem_cons.1 hp with heq | hl
      · subst heq
        have hdown := ((falls_endOrigin (u.dropInst ch p.1) p.2.origin 0x3F).trans
          (falls_foldl (f := fun s (p : Nat × Inst) => (s.dropInst ch p.1).endOrigin p.2.origin 0x3F)
            (fun s p => (falls_dropInst s ch p.1).trans (falls_endOrigin (s.dropInst ch p.1) p.2.origin 0x3F)) l _)).keys ch
        exact fun h => dropInst_gone u ch p.1 (hdown h)
      · exact ih _ p hl
  refine List.eq_nil_iff_forall_not_mem.2 fun p hp => ?_
  have hkey : p.1 ∈ (chanAt s ch).insts.map Prod.fst := (falls_loseInstances s ch).keys ch (List.mem_map.2 ⟨p, hp, rfl⟩)
  obtain ⟨q, hq, hkq⟩ := List.mem_map.1 hkey
  exact hgone _ s q hq (hkq ▸ List.mem_map.2 ⟨p, hp, rfl⟩)

theorem falls_loseRequests (s : State) (f : Nat → Bool) : Falls s (s.loseRequests f) := by
  unfold State.loseRequests
  extract_lets gone u
  have hu : Falls s u := by
    refine falls_chans rfl fun c => ?_
    have h : chanAt u c = if f c then { chanAt s c with requests := [] } else chanAt s c :=
      chanAt_zipIdx s (fun p => if f p.2 then { p.1 with requests := [] } else p.1) (fun c => by
        dsimp only
        split <;> rfl) c
    rw [h]
    split
    · exact ⟨List.Subset.refl _, id⟩
    · exact ⟨List.Subset.refl _, id⟩
  exact hu.trans (falls_of_view (foldl_unseen (F := failView) (f := State.relocFree) (fun _ _ => rfl) gone u))

theorem giveAll_failView (s : State) (failure : Bool) (l : List Nat) : failView (s.giveAll failure l) = failView s := by
  refine foldl_unseen (F := failView) (fun s sid => ?_) l s
  unfold State.giveAway
  split <;> rfl

theorem falls_ensureOrdinary (s : State) : Falls s s.ensureOrdinary := by
  unfold State.ensureOrdinary
  refine falls_ite ?_ (Falls.refl s)
  split
  · exact (falls_loseMapWork s _).trans (falls_modChan _ _ fun _ => ⟨List.Subset.refl _, id⟩)
  · exact Falls.refl s

theorem falls_ensureMap (s : State) : Falls s s.ensureMap := by
  unfold State.ensureMap
  extract_lets ord c u sids again v
  have hu : Falls s u := falls_modChan s c fun _ => ⟨List.Subset.refl _, id⟩
  refine falls_ite (hu.trans (falls_of_view ?_)) (Falls.refl s)
  rw [giveAll_failView]
  exact (foldl_unseen (F := failView) (f := fun t n => t.modSess n Session.toMoving) (fun _ _ => rfl) sids v).trans (giveAll_failView u true again)

theorem sideband_failView (s : State) (ids : List Nat) : failView (s.sideband ids) = failView s := by
  unfold State.sideband
  exact foldl_unseen (F := failView) (f := fun (s : State) (p : Nat × Nat) => s.tear p.1 p.2) (fun _ _ => rfl) _ _

theorem falls_updateDist (s : State) : Falls s s.updateDist := by
  unfold State.updateDist
  extract_lets old
  have step (d : Nat) (par : Option Nat) : Falls s (if d == 8 && decide (old < 8)
      then (s.modLink (fun l => { l with dist := d, parent := if d == 8 then none else par })).err1 2 6
      else s.modLink (fun l => { l with dist := d, parent := if d == 8 then none else par })) := by
    have hlink : Falls s (s.modLink (fun l => { l with dist := d, parent := if d == 8 then none else par })) := falls_of_view rfl
    exact falls_ite (hlink.trans (falls_err1 _ _ _ _ _ _)) hlink
  exact falls_ite (Falls.refl s) (step _ _)

theorem falls_portDown (s : State) (p : Nat) (st : MpState) : Falls s (s.portDown p st) := by
  unfold State.portDown
  extract_lets was u v
  have hv : Falls s v := falls_of_view rfl
  refine falls_ite ?_ hv
  have hside : failView ((v.sideband [52 + p]).linkState p false) = failView v := by
    unfold State.linkState
    rw [deaf_failView.event]
    exact sideband_failView v _
  refine ((hv.trans (falls_of_view hside)).trans (falls_updateDist _)).trans ?_
  exact falls_ite (falls_err1 _ _ _ _ _ _) (Falls.refl _)

theorem falls_enterSafe (s : State) (step : Nat) : Falls s (s.enterSafe step) := by
  unfold State.enterSafe
  extract_lets rom u v
  have hu : Falls s u := falls_foldl (fun s p => falls_portDown s p .absent) _ s
  have hv : Falls u v := falls_mapChans u fun _ => ⟨List.nil_subset _, fun _ => rfl⟩
  exact (hu.trans hv).trans (falls_of_view rfl)

theorem falls_modFus (s : State) (f : Fus → Fus) : Falls s (s.modFus f) := falls_of_view rfl

theorem falls_modRecord (s : State) (f : StartRec → StartRec) : Falls s (s.modRecord f) := falls_of_view rfl

/-! ### A channel leaves service (R22, R523, R524) -/

/-- A failure as it is reported: the channel's error bit stands, its requesters are masked, the start record names it. -/
def failureMarked (s : State) (ch bitNo flags : Nat) : State :=
  ((s.setErr (8 + ch) bitNo flags).sideband (chanIds ch)).modRecord (fun r => { r with chFailed := r.chFailed ||| 2 ^ ch })

theorem failureMarked_failView (s : State) (ch bitNo flags : Nat) : failView (failureMarked s ch bitNo flags) =
    failView (s.setErr (8 + ch) bitNo flags) := by
  unfold failureMarked
  generalize s.setErr (8 + ch) bitNo flags = u
  exact sideband_failView u (chanIds ch)

/-- The channel is out of service. -/
def failureNoted (s : State) (ch bitNo flags : Nat) : State :=
  (failureMarked s ch bitNo flags).modChan ch (fun c =>
    { c with inService := false, mapRole := false, testMode := 0, split := none, splitWaits := [], exch := {} })

theorem falls_failureNoted (s : State) (ch bitNo flags : Nat) : Falls (failureMarked s ch bitNo flags) (failureNoted s ch bitNo flags) :=
  falls_modChan _ ch fun _ => ⟨List.Subset.refl _, fun _ => rfl⟩

theorem failureNoted_facts {s : State} {ch : Nat} (hch : ch ∈ serviceChans s) (bitNo : Nat) {flags : Nat} (hflags : flags.testBit 7 = true) :
    (chanAt (failureNoted s ch bitNo flags) ch).inService = false ∧
      (s.err.regs.length = 16 → bitOn (failureNoted s ch bitNo flags) (8 + ch) 7) := by
  obtain ⟨hrange, hserv⟩ := List.mem_filter.1 hch
  rw [Bool.and_eq_true] at hserv
  have hview := failureMarked_failView s ch bitNo flags
  have hchans : (s.setErr (8 + ch) bitNo flags).core.chans = s.core.chans :=
    Deaf.setErr undelivered_chansOf.deaf (fun _ _ => rfl) s _ _ _ _ _ _
  have hlt : ch < (failureMarked s ch bitNo flags).core.chans.length :=
    (length_of_inService hserv.2).trans_eq (congrArg List.length ((congrArg Prod.fst hview).trans hchans)).symm
  have hnoted := falls_failureNoted s ch bitNo flags
  constructor
  · rw [failureNoted, chanAt_modChan_self hlt]
  · intro hlen
    have hbit := setErr_failed (List.mem_range.1 hrange) hlen bitNo hflags 255 0xFFFF 0xFFFFFFFF
    exact hnoted.err _ _ ((falls_of_view hview).err _ _ hbit)

/-- The work of a failed channel is lost, and its sessions move. -/
def failureCleared (s : State) (ch : Nat) (sids : List Nat) : State :=
  (sids.foldl (fun t n => t.modSess n (fun x => { x.toMoving with moveTo := some (ch, true) })) ((s.loseMapWork ch).loseGraphs ch)).loseInstances ch

theorem falls_failureCleared (s : State) (ch : Nat) (sids : List Nat) : Falls s (failureCleared s ch sids) := by
  refine Falls.trans ?_ (falls_loseInstances _ ch)
  refine ((falls_loseMapWork s ch).trans (falls_of_view (loseGraphs_failView _ ch))).trans (falls_of_view ?_)
  exact foldl_unseen (F := failView) (f := fun t n => t.modSess n (fun x => { x.toMoving with moveTo := some (ch, true) })) (fun _ _ => rfl) _ _

/-- What follows: the symbols and queues of the channel, the roles that others take, where the sessions go, and the event. -/
def failureSettled (s : State) (ch : Nat) (sids : List Nat) (wasMap : Bool) : State :=
  let s := s.dropAssembling (fun b => match NMap.get? s.core.scu.bindings b with
    | some y => sids.contains y.sid
    | none => false)
  let s := s.modChan ch (fun c => { c with engines := List.replicate 6 {}, queue := c.queue.filter (fun w => w.sid.isSome) })
  let s := (s.modFus (fun f => { f with home := f.home.filter (fun p => p.2 != ch) })).loseRequests (· == ch)
  let s := (s.ensureOrdinary.giveAll true sids).event 0x0001 (failedParts ch sids)
  if (serviceChans s).isEmpty then (s.modRecord (fun r => { r with outcome := setAt r.outcome 7 1 })).enterSafe 7
  else if wasMap then s.ensureMap else s

theorem falls_failureSettled (s : State) (ch : Nat) (sids : List Nat) (wasMap : Bool) : Falls s (failureSettled s ch sids wasMap) := by
  unfold failureSettled
  extract_lets u v w x
  have hu : Falls s u := falls_of_view (foldl_unseen (F := failView)
    (fun s k => dropSym_unseen deaf_failView (fun _ _ _ _ => rfl) (fun _ _ => rfl) s k 5) _ s)
  have hv : Falls u v := falls_modChan u ch fun _ => ⟨List.Subset.refl _, id⟩
  have hw : Falls v w := (falls_modFus v _).trans (falls_loseRequests _ _)
  have hx : Falls w x := (falls_ensureOrdinary w).trans (falls_of_view ((deaf_failView.event _ _ _).trans (giveAll_failView _ true sids)))
  have hall := ((hu.trans hv).trans hw).trans hx
  exact falls_ite (hall.trans ((falls_modRecord x _).trans (falls_enterSafe _ 7)))
    (falls_ite (hall.trans (falls_ensureMap x)) hall)

theorem channelFails_eq {s : State} {ch : Nat} (hrun : running s = true) (hch : ch ∈ serviceChans s) (bitNo flags : Nat) :
    s.channelFails ch bitNo flags =
      failureSettled (failureCleared (failureNoted s ch bitNo flags) ch (movers s ch)) ch (movers s ch) (chanAt s ch).mapRole := by
  unfold State.channelFails
  rw [if_neg (by simp [hrun, hch])]
  rfl

theorem failChannel_facts {s : State} {ch : Nat} (hrun : running s = true) (hch : ch ∈ serviceChans s) (cause engine : Nat) :
    (chanAt (s.failChannel ch cause engine) ch).inService = false ∧ (chanAt (s.failChannel ch cause engine) ch).insts = [] ∧
      (s.err.regs.length = 16 → ((s.failChannel ch cause engine).err.regs.getD (8 + ch) {}).bits.getLsbD 7 = true) := by
  unfold State.failChannel
  rw [channelFails_eq hrun hch]
  obtain ⟨hout, hbit⟩ := failureNoted_facts hch (if cause == 1 then 6 else 7) (causeFlags_failed cause engine)
  generalize failureNoted s ch _ _ = u at hout hbit
  have hcleared := falls_failureCleared u ch (movers s ch)
  have hempty : (chanAt (failureCleared u ch (movers s ch)) ch).insts = [] := loseInstances_empty _ ch
  generalize failureCleared u ch (movers s ch) = v at hcleared hempty
  have hsettled := falls_failureSettled v ch (movers s ch) (chanAt s ch).mapRole
  refine ⟨hsettled.out ch (hcleared.out ch hout), ?_, fun hlen => hsettled.err _ _ (hcleared.err _ _ (hbit hlen))⟩
  have hkeys := hsettled.keys ch
  rw [hempty, List.map_nil, List.subset_nil, List.map_eq_nil_iff] at hkeys
  exact hkeys

/-! ### The self-test and the hang of an engine (R107, R522) -/

section SelfTest
variable {s : State} {ch : Nat}

theorem exec_selfTestSlice_idle (h : (running s && (chanAt s ch).testMode == 1 && decide ((chanAt s ch).lastSlice + 100000000 ≤ dtOf s) &&
    (chanAt s ch).engines.all (fun e => e.run.isNone)) = false) (pass : Bool) : exec (.selfTestSlice ch pass) s = .next s :=
  congrArg Host.Outcome.next (if_neg (by rw [h]; decide))

variable (hrun : running s = true) (hmode : (chanAt s ch).testMode = 1) (hdue : (chanAt s ch).lastSlice + 100000000 ≤ dtOf s)
  (hfree : ∀ e ∈ (chanAt s ch).engines, e.run = none)
include hrun hmode hdue hfree

theorem exec_selfTestSlice (pass : Bool) : exec (.selfTestSlice ch pass) s = .next (
    if pass then s.modChan ch (fun c => { c with lastSlice := dtOf s })
    else (s.modChan ch (fun c => { c with lastSlice := dtOf s })).failChannel ch 4 0) := by
  have hall : (chanAt s ch).engines.all (fun e => e.run.isNone) = true :=
    List.all_eq_true.2 fun e he => by rw [hfree e he]; rfl
  exact congrArg Host.Outcome.next (if_pos (by simp [hrun, hmode, hdue, hall]))

theorem selfTestSlice_fails (hch : ch ∈ serviceChans s) :
    ∃ t, exec (.selfTestSlice ch false) s = .next t ∧ (chanAt t ch).inService = false := by
  have hserv : serviceChans (s.modChan ch (fun c => { c with lastSlice := dtOf s })) = serviceChans s :=
    serviceChans_modChan (f := fun c => { c with lastSlice := dtOf s }) (fun _ => ⟨rfl, rfl⟩) s ch
  exact ⟨_, exec_selfTestSlice hrun hmode hdue hfree false,
    (failChannel_facts (s := s.modChan ch (fun c => { c with lastSlice := dtOf s })) hrun (hserv ▸ hch) 4 0).1⟩

end SelfTest

/-- Settles O44. -/
theorem channelsFail : Obligations.ChannelsFail := by
  unfold Obligations.ChannelsFail
  intro s ch hrun
  refine ⟨fun hch => ⟨fun cause engine => ⟨_, rfl, failChannel_facts hrun hch cause engine⟩, fun e c hidle hlate => ?hang,
    fun hmode hdue hfree => ⟨selfTestSlice_fails hrun hmode hdue hfree hch, exec_selfTestSlice hrun hmode hdue hfree true⟩⟩,
    fun e c hidle hearly => ?waits, fun hcase pass => exec_selfTestSlice_idle ?idle pass, fun slot g hg hlost => ?restored⟩
  case hang =>
    refine ⟨s.failChannel ch 3 e, ?_, (failChannel_facts hrun hch 3 e).1⟩
    change execEngineHang ch e s = _
    rw [execEngineHang, hidle]
    exact congrArg Host.Outcome.next (if_pos (decide_eq_true hlate))
  case waits =>
    change execEngineHang ch e s = _
    rw [execEngineHang, hidle]
    exact congrArg Host.Outcome.next (if_neg (by simp [Nat.le_of_lt hearly]))
  case idle =>
    rcases hcase with hmode | hearly | ⟨e, he, hrun'⟩
    · simp [hmode]
    · simp [hearly]
    · have hbusy : (chanAt s ch).engines.all (fun e => e.run.isNone) = false :=
        List.all_eq_false.2 ⟨e, he, by simpa [Option.isNone_iff_eq_none] using hrun'⟩
      simp [hbusy]
  case restored =>
    refine ⟨_, congrArg Host.Outcome.next (if_pos hrun), ?_⟩
    exact (NMap.get_upd hg _).trans (by simp [hlost])

end Sys2Proof.Machine
end

section
/-! The vision engine's and the gather unit's steps run (R132, R134, R138, R143). -/
namespace Sys2Proof.Machine

/-! ### The work of a step, done (R161) -/

theorem atWork_facts {s : State} {ch e code i k : Nat} {x : Inst} {g : Slot} {p : GStep} (h : atWork s ch e code = some (i, x, g, k, p)) :
    running s = true ∧ ((chanAt s ch).engines.getD e {}).worked = false ∧ runningStep s ch e = some (i, x, g, k, p) := by
  unfold atWork at h
  split at h
  · cases h
  · next hw =>
    rw [Bool.or_eq_true, not_or, Bool.not_eq_true, Bool.not_eq_true, Bool.not_eq_false'] at hw
    exact ⟨hw.1, hw.2, (Option.filter_eq_some_iff.1 h).1⟩

/-- What the work of a step leaves alone, apart from the channels. -/
def besideChans (s : State) : NMap Slot × MapSt × Hw × Loft × List Instr := (s.core.work.graphs, s.core.map, s.hw, s.loft, s.pending)

/-- The channels with what stands beside them. -/
def engineView (s : State) : List Chan × NMap Slot × MapSt × Hw × Loft × List Instr := (s.core.chans, besideChans s)

theorem deaf_engineView : Deaf engineView := ⟨fun _ _ => rfl, fun _ _ => rfl, fun _ _ _ => rfl, fun _ _ => rfl, fun _ _ _ _ _ => rfl⟩

theorem err1_engineView (s : State) (i b src sid pg : Nat) : engineView (s.err1 i b src sid pg) = engineView s :=
  deaf_engineView.err1 (fun _ _ => rfl) s i b src sid pg

theorem engine_modEngine_other {s : State} {ch e f : Nat} (g : Engine → Engine) (h : f ≠ e) :
    (chanAt (s.modEngine ch e g) ch).engines.getD f {} = (chanAt s ch).engines.getD f {} :=
  chanAt_modChan_same (fun c => c.engines.getD f {}) (f := fun c => { c with engines := updAt c.engines e g })
    (fun _ => getD_updAt_other _ _ _ _ _ h) s ch ch

/-- A channel's instance i is y; of the other instances, the engines, the queues and the other channels nothing moved. -/
structure Written (s : State) (ch i : Nat) (y : Inst) (u : State) : Prop where
  inst : instAt u ch i = some y
  insts : ∀ j, j ≠ i → instAt u ch j = instAt s ch j
  engines : (chanAt u ch).engines = (chanAt s ch).engines
  waiting : (chanAt u ch).queue = (chanAt s ch).queue
  chans : ∀ c, c ≠ ch → chanAt u c = chanAt s c
  beside : besideChans u = besideChans s

theorem written_refl {s : State} {ch i : Nat} {x : Inst} (hx : instAt s ch i = some x) : Written s ch i x s :=
  ⟨hx, fun _ _ => rfl, rfl, rfl, fun _ _ => rfl, rfl⟩

theorem written_of_view {s u : State} {ch i : Nat} {x : Inst} (hx : instAt s ch i = some x) {f : Inst → Inst}
    (hu : engineView u = engineView (s.modInst ch i f)) : Written s ch i (f x) u := by
  have hchans : u.core.chans = (s.modInst ch i f).core.chans := congrArg Prod.fst hu
  have hchan (c : Nat) : chanAt u c = chanAt (s.modInst ch i f) c := by rw [chanAt, hchans, chanAt]
  have hinst (j : Nat) : instAt u ch j = instAt (s.modInst ch i f) ch j := by rw [instAt, hchan, instAt]
  exact {
    inst := (hinst i).trans (instAt_modInst_self hx f)
    insts := fun j hj => (hinst j).trans (instAt_modInst_other s f (Or.inr hj))
    engines := by rw [hchan]; exact modInst_chan Chan.engines (fun _ _ => rfl) s ch i f ch
    waiting := by rw [hchan]; exact modInst_chan Chan.queue (fun _ _ => rfl) s ch i f ch
    chans := fun c hc => (hchan c).trans (chanAt_modChan_other s _ hc)
    beside := congrArg Prod.snd hu }

/-- An engine at work writes into its instance, changes itself, and has done its work. -/
theorem workDone_of_written {s u : State} {ch e i : Nat} {y : Inst} {p : Nat × Nat} (hrun : ((chanAt s ch).engines.getD e {}).run = some p)
    (hu : Written s ch i y u) {h : Engine → Engine} (hh : ∀ g, (h g).run = g.run ∧ (h g).worked = true) :
    WorkDone s ch e i y (u.modEngine ch e h) ∧ (chanAt (u.modEngine ch e h) ch).engines.getD e {} = h ((chanAt s ch).engines.getD e {}) := by
  obtain ⟨hinst, hinsts, hengines, hwait, hchans, hbeside⟩ := hu
  obtain ⟨-, he⟩ := engine_lt hrun
  simp only [besideChans, Prod.mk.injEq] at hbeside
  obtain ⟨hgraphs, hmap, hhw, hloft, hqueue⟩ := hbeside
  have heng : (chanAt (u.modEngine ch e h) ch).engines.getD e {} = h ((chanAt s ch).engines.getD e {}) := by
    rw [engine_modEngine (length_of_instAt hinst) (by rw [hengines]; exact he), hengines]
  refine ⟨{ worked := by rw [heng]; exact (hh _).2
            run := by rw [heng]; exact (hh _).1
            inst := (instAt_modEngine u ch e ch i h).trans hinst
            insts := fun j hj => (instAt_modEngine u ch e ch j h).trans (hinsts j hj)
            engines := fun d hd => by rw [engine_modEngine_other h hd, hengines]
            waiting := (chanAt_modChan_same Chan.queue (f := fun c => { c with engines := updAt c.engines e h }) (fun _ => rfl) u ch ch).trans hwait
            chans := fun c hc => (chanAt_modChan_other u _ hc).trans (hchans c hc)
            graphs := hgraphs, map := hmap, hw := hhw, loft := hloft, queue := hqueue }, heng⟩

/-- The engine's step has its work done, the instance written. -/
theorem workDone_worked {s u : State} {ch e code i k : Nat} {x y : Inst} {g : Slot} {p : GStep} (h : atWork s ch e code = some (i, x, g, k, p))
    (hu : Written s ch i y u) : WorkDone s ch e i y (u.worked ch e) := by
  obtain ⟨hrun, -, -, -⟩ := runningStep_facts (atWork_facts h).2.2
  exact (workDone_of_written hrun hu (h := fun g => { g with worked := true }) (fun _ => ⟨rfl, rfl⟩)).1

/-- The instance of the step at hand. -/
theorem inst_of_atWork {s : State} {ch e code i k : Nat} {x : Inst} {g : Slot} {p : GStep} (h : atWork s ch e code = some (i, x, g, k, p)) :
    instAt s ch i = some x :=
  (runningStep_facts (atWork_facts h).2.2).2.1

theorem workDone_put {s : State} {ch e code i k : Nat} {x : Inst} {g : Slot} {p : GStep} (h : atWork s ch e code = some (i, x, g, k, p))
    (r : Range) (b : List Byte) : WorkDone s ch e i (x.put r 0 b) ((s.modInst ch i (fun z => z.put r 0 b)).worked ch e) :=
  workDone_worked h (written_of_view (inst_of_atWork h) (f := fun z => z.put r 0 b) rfl)

/-! ### Imaging (R132, R134) -/

theorem exec_imagingStep {s : State} {ch i k : Nat} {x : Inst} {g : Slot} {t : GStep} (h : atWork s ch 0 2 = some (i, x, g, k, t)) :
    exec (.imagingStep ch .clean) s = .next (s.runImaging ch i x g t) := by
  change execImagingStep ch .clean s = _
  rw [execImagingStep, h]
  rfl

theorem instsStay_modCtx (Q : Option Nat → Prop) (s : State) (sid : Nat) (f : SessCtx → SessCtx) : InstsStay Q s (s.modCtx sid f) :=
  fun c j y hy => by
    have hmoved : (ctxMoved sid f y).slot = y.slot ∧ (ctxMoved sid f y).status = y.status := by
      unfold ctxMoved
      split <;> exact ⟨rfl, rfl⟩
    exact ⟨ctxMoved sid f y, by rw [instAt_modCtx, hy]; rfl, hmoved.1, fun h => hmoved.2 ▸ h⟩

theorem untake_facts (s : State) (sid : Nat) (x : Inst) (Q : Option Nat → Prop) :
    InstsStay Q s (s.untake sid x) ∧ (s.untake sid x).core.work.graphs = s.core.work.graphs := by
  unfold State.untake
  extract_lets k u
  have hu : InstsStay Q s u ∧ u.core.work.graphs = s.core.work.graphs :=
    holds_ite (P := fun v : State => InstsStay Q s v ∧ v.core.work.graphs = s.core.work.graphs) ⟨instsStay_modCtx Q s sid _, rfl⟩ ⟨InstsStay.refl s, rfl⟩
  exact ⟨hu.1.trans (InstsStay.of_chans (unadmit_facts (u.modSess sid _) x).1), (unadmit_facts (u.modSess sid _) x).2.trans hu.2⟩

/-- The frames of an item as the imaging step reads them. -/
def itemFrames (x : Inst) (g : Slot) (it : Item) : Payload :=
  (parsePayload g.graph.kind (x.calib.getD it.slot {}).width (x.calib.getD it.slot {}).height (itemPayload g x it)).getD {}

/-- What the imaging step makes of them. -/
def itemImaging (s : State) (ch : Nat) (x : Inst) (g : Slot) (t : GStep) (it : Item) (y : Session) : ImagingOut :=
  imaging t.param g.graph.kind (x.calib.getD it.slot {}) (x.calib.getD (it.slot + 1) {}) (itemFrames x g it) (predictionBlock g x t)
    y.ctx.keypoints y.lastImage y.ctx.nextKp ((chanAt s ch).engines.getD 0 {}).lastMove (dtOf s)

section Imaging
variable {s : State} {ch i k b n : Nat} {x : Inst} {g : Slot} {t : GStep} {it : Item} {y : Session}
  (h : atWork s ch 0 2 = some (i, x, g, k, t)) (hit : itemOf s x = some (b, n, it)) (hy : x.sid.bind (sessAt s) = some y)
include h hit hy

theorem imagingStep_none (hnone : (stepItems x t).1 = 0) : ∃ u, exec (.imagingStep ch .clean) s = .next u ∧
    WorkDone s ch 0 i (x.put (t.outR 0) 0 (imagingHeader 0 false false 0 0 0 0 [] ((chanAt s ch).engines.getD 0 {}).lastMove (dtOf s) [0, 0, 0])) u := by
  refine ⟨_, exec_imagingStep h, ?_⟩
  unfold State.runImaging
  rw [hit, hy]
  dsimp only
  rw [if_pos hnone]
  exact workDone_put h _ _

theorem imagingStep_corrupt (hsome : (stepItems x t).1 ≠ 0)
    (hbad : ((itemFrames x g it).jpeg && (itemFrames x g it).frames.any jpegCorrupt) = true) (hopen : x.status = none) :
    ∃ u z, exec (.imagingStep ch .clean) s = .next u ∧ instAt u ch i = some z ∧ z.status = some 0x11 := by
  obtain ⟨-, hx, hg, -⟩ := runningStep_facts (atWork_facts h).2.2
  obtain ⟨hstay, hgraphs⟩ := untake_facts s it.sid x (· = none)
  obtain ⟨z, hz, hslot, hst⟩ := hstay ch i x hx
  have hrun : s.runImaging ch i x g t = (s.untake it.sid x).endEarly ch i 0x11 := by
    unfold State.runImaging
    rw [hit, hy]
    dsimp only
    rw [if_neg hsome]
    exact if_pos hbad
  obtain ⟨w, hw, hend⟩ := endEarly_gives (st := 0x11) (g := g) hz (by rw [instSlot, hslot, graphAt, hgraphs]; exact hg) (hst hopen)
  exact ⟨_, w, exec_imagingStep h, by rw [hrun]; exact hw, hend⟩

theorem imagingStep_done (hsome : (stepItems x t).1 ≠ 0)
    (hgood : ((itemFrames x g it).jpeg && (itemFrames x g it).frames.any jpegCorrupt) = false) :
    ∃ u, exec (.imagingStep ch .clean) s = .next u ∧ WorkDone s ch 0 i (x.putImaging t (itemImaging s ch x g t it y)) u := by
  have hrun : ∃ v, engineView v = engineView (s.modInst ch i (fun z => z.putImaging t (itemImaging s ch x g t it y))) ∧
      s.runImaging ch i x g t = v.worked ch 0 := by
    unfold State.runImaging
    rw [hit, hy]
    dsimp only
    rw [if_neg hsome]
    refine ⟨_, ?_, (if_neg (show ¬ ((itemFrames x g it).jpeg && (itemFrames x g it).frames.any jpegCorrupt) = true by rw [hgood]; decide))⟩
    refine (show engineView (State.carryKeypoints _ _ _ _ _) = engineView _ from rfl).trans ?_
    exact holds_ite (P := fun v => engineView v = engineView (s.modInst ch i (fun z => z.putImaging t (itemImaging s ch x g t it y))))
      (err1_engineView _ _ _ _ _ _) rfl
  obtain ⟨v, hv, hrun⟩ := hrun
  exact ⟨_, exec_imagingStep h, hrun ▸ workDone_worked h (written_of_view (inst_of_atWork h) hv)⟩

end Imaging

/-! ### Hypothesise and verify, gather (R138, R143) -/

theorem hypothesiseAndVerify_done {s : State} {ch i k : Nat} {x : Inst} {g : Slot} {t : GStep} (h : atWork s ch 0 3 = some (i, x, g, k, t)) :
    let p := hvSeed s ch x (hvParamOf (hvCam s g x t.param) t.param)
    let n := (stepItems x t).1
    let recs := (List.range n).map (fun j => bytesAt (rangeBytes g x (t.inR 0)) (32 + hvRecord p.mode * j) (hvRecord p.mode))
    ∃ u, exec (.hypothesiseAndVerify ch) s = .next u ∧ WorkDone s ch 0 i (x.put (t.outR 0) 0 (hvBytes n (hvRun p recs))) u := by
  intro p n recs
  have hexec : exec (.hypothesiseAndVerify ch) s = .next ((s.modInst ch i (fun y => y.put (t.outR 0) 0 (hvBytes n (hvRun p recs)))).worked ch 0) := by
    change execHypothesiseAndVerify ch s = _
    rw [execHypothesiseAndVerify, h]
  exact ⟨_, hexec, workDone_put h _ _⟩

/-- The keypoints of a range, at most 8,192. -/
def gatherList (g : Slot) (x : Inst) (r : Range) : List (List Byte) :=
  (List.range (min 8192 (fieldAt (rangeBytes g x r) 8 4))).map (fun k => bytesAt (rangeBytes g x r) (64 + 16 * k) 16)

/-- The candidate sets of a gather step. -/
def gatherSets (g : Slot) (x : Inst) (t : GStep) : List (List Gathered × Nat) :=
  let m := (rangeBytes g x (t.inR 2)).take 36
  let refs := gatherList g x (t.inR 1)
  ((gatherList g x (t.inR 0)).take (stepItems x t).1).map (fun q =>
    if (f32sAt m 0 9).all f32IsFinite && !refs.isEmpty then gatherQuery (fieldAt t.param 0 1) (fieldAt t.param 1 1) (fieldAt t.param 2 2) m refs q
    else ([], 1))

theorem length_gatherSets (g : Slot) (x : Inst) (t : GStep) :
    (gatherSets g x t).length = min (stepItems x t).1 (min 8192 (fieldAt (rangeBytes g x (t.inR 0)) 8 4)) := by
  simp [gatherSets, gatherList]

theorem gatherSets_empty {g : Slot} {x : Inst} {t : GStep} (hnone : fieldAt (rangeBytes g x (t.inR 1)) 8 4 = 0) :
    ∀ e ∈ gatherSets g x t, e = ([], 1) := by
  have hrefs : gatherList g x (t.inR 1) = [] := by rw [gatherList, hnone]; rfl
  intro e he
  obtain ⟨q, -, hq⟩ := List.mem_map.1 he
  rw [hrefs, if_neg (by simp)] at hq
  exact hq.symm

theorem epipolarGather_done {s : State} {ch i k : Nat} {x : Inst} {g : Slot} {t : GStep} (h : atWork s ch 1 4 = some (i, x, g, k, t)) :
    ∃ u, exec (.epipolarGather ch) s = .next u ∧ WorkDone s ch 1 i (x.put (t.outR 0) 0 (gatherBytes (gatherSets g x t))) u := by
  have hexec : exec (.epipolarGather ch) s = .next ((s.modInst ch i (fun y => y.put (t.outR 0) 0 (gatherBytes (gatherSets g x t)))).worked ch 1) := by
    change execEpipolarGather ch s = _
    rw [execEpipolarGather, h]
    rfl
  exact ⟨_, hexec, workDone_put h _ _⟩

/-- Settles O45. -/
theorem visionStepsRun : Obligations.VisionStepsRun := by
  unfold Obligations.VisionStepsRun
  intro s ch i k x g t
  refine ⟨fun b n it y h hit hy => ?imaging, fun h => hypothesiseAndVerify_done h, fun h => ?gather⟩
  case imaging =>
    exact ⟨fun hsome hgood => imagingStep_done h hit hy hsome hgood, fun hnone => imagingStep_none h hit hy hnone,
      fun hsome hbad hopen => imagingStep_corrupt h hit hy hsome hbad hopen⟩
  case gather =>
    obtain ⟨u, hexec, hdone⟩ := epipolarGather_done h
    exact ⟨u, _, hexec, hdone, length_gatherSets g x t, fun hnone => gatherSets_empty hnone⟩

end Sys2Proof.Machine
end

section
/-! Tensor steps and split-precision requests run (R175, R190 to R193, R195, R198, R199). -/
namespace Sys2Proof.Machine

/-! ### The tensor step (R190 to R193) -/

theorem modEngine_modEngine (s : State) (ch e : Nat) (f h : Engine → Engine) :
    (s.modEngine ch e f).modEngine ch e h = s.modEngine ch e (fun g => h (f g)) := by
  have hchans : updAt (updAt s.core.chans ch (fun c => { c with engines := updAt c.engines e f })) ch
      (fun c => { c with engines := updAt c.engines e h }) = updAt s.core.chans ch (fun c => { c with engines := updAt c.engines e (fun g => h (f g)) }) := by
    rw [updAt, updAt, List.modify_modify_eq, updAt]
    congr 1
    funext c
    change { c with engines := updAt (updAt c.engines e f) e h } = _
    rw [updAt, updAt, List.modify_modify_eq, updAt]
    rfl
  exact congrArg (fun l => ({ s with core := { s.core with chans := l } } : State)) hchans

theorem engineView_bump (s : State) (a n : Nat) : engineView (s.bump a n) = engineView s := rfl

theorem taFlags_engineView (s : State) (ch nans : Nat) (sat : Bool) (sid : Nat) : engineView (s.taFlags ch nans sat sid) = engineView s := by
  unfold State.taFlags
  exact holds_ite (P := fun t => engineView t = engineView s) rfl (deaf_engineView.setErr (fun _ _ => rfl) _ _ _ _ _ _ _)

/-- The values of the counters. -/
def countersOf (s : State) : NMap Nat := s.core.obs.counters

theorem deaf_countersOf : Deaf countersOf := ⟨fun _ _ => rfl, fun _ _ => rfl, fun _ _ _ => rfl, fun _ _ => rfl, fun _ _ _ _ _ => rfl⟩

theorem taFlags_counted (s : State) (ch nans : Nat) (sat : Bool) (sid : Nat) {a : Nat} (ha : a ≠ chanCtr ch 6) :
    Counted s a 0 (s.taFlags ch nans sat sid) := by
  have hbump : Counted s a 0 (s.bump (chanCtr ch 6) nans) := counted_bump_other s nans ha
  have herr (t : State) (ht : countersOf t = countersOf (s.bump (chanCtr ch 6) nans)) : Counted s a 0 t := by
    rw [Counted, show t.core.obs.counters = (s.bump (chanCtr ch 6) nans).core.obs.counters from ht]
    exact hbump
  unfold State.taFlags
  exact holds_ite (P := fun t => Counted s a 0 t) hbump (herr _ (deaf_countersOf.setErr (fun _ _ => rfl) _ _ _ _ _ _ _))

/-- A program's results stand in the instance's blocks and in the counters. -/
def programRan (s : State) (ch i : Nat) (x : Inst) (t : GStep) (p : List Byte) (b : TaBuf) : State :=
  (((s.modInst ch i (fun y => { y.putProgram t p b.act with saturated := y.saturated || b.act.sat })).taFlags ch b.act.nans b.act.sat
    (x.sid.getD 0xFFFF)).bump (chanCtr ch 5) b.act.sparse).bump (chanCtr ch 10) b.act.rows

theorem programRan_engineView (s : State) (ch i : Nat) (x : Inst) (t : GStep) (p : List Byte) (b : TaBuf) : engineView (programRan s ch i x t p b) =
    engineView (s.modInst ch i (fun y => { y.putProgram t p b.act with saturated := y.saturated || b.act.sat })) := by
  unfold programRan
  rw [engineView_bump, engineView_bump, taFlags_engineView]

section TensorStep
variable {s : State} {ch i k : Nat} {x : Inst} {g : Slot} {t : GStep} (h : atWork s ch 2 5 = some (i, x, g, k, t))
  (hstall : ((chanAt s ch).engines.getD 2 {}).stall = none)
include h hstall

theorem exec_tensorStep (late : Bool) : exec (.tensorStep ch late .clean) s = .next (s.runTensor ch i x g t late) := by
  change execTensorStep ch late .clean s = _
  rw [execTensorStep, h]
  exact congrArg Host.Outcome.next (if_neg (by rw [hstall]; decide))

theorem tensorStep_none (hnone : (stepItems x t).1 = 0) (late : Bool) :
    ∃ u, exec (.tensorStep ch late .clean) s = .next u ∧ WorkDone s ch 2 i x u := by
  refine ⟨_, exec_tensorStep h hstall late, ?_⟩
  rw [State.runTensor, if_pos hnone]
  exact workDone_worked h (written_refl (inst_of_atWork h))

variable {c : Crate} (hsome : (stepItems x t).1 ≠ 0) (hc : crateAt s t.crate = some c) (hclean : needsPoisoned s ch c t = false)
include hsome hc hclean

/-- Every tile of the step has come in time: its program has run. -/
theorem tensorStep_runs : ∃ u y, exec (.tensorStep ch false .clean) s = .next u ∧ WorkDone s ch 2 i y u ∧
    y.mem = (x.putProgram t (c.body.drop t.progOff) ((stepBuf s ch x g t (c.body.drop t.progOff)).finish (c.body.drop t.progOff)).act).mem ∧
    ((chanAt u ch).engines.getD 2 {}).ta = (stepBuf s ch x g t (c.body.drop t.progOff)).finish (c.body.drop t.progOff) := by
  obtain ⟨hrun, hx, -, -⟩ := runningStep_facts (atWork_facts h).2.2
  generalize hp : c.body.drop t.progOff = p
  generalize hb : (stepBuf s ch x g t p).finish p = b
  have hexec : s.runTensor ch i x g t false =
      ((programRan s ch i x t p b).modEngine ch 2 (fun e => { e with lastCrate := some t.crate, ta := b })).worked ch 2 := by
    unfold State.runTensor
    rw [if_neg hsome, hc]
    dsimp only
    rw [if_neg (by rw [hclean]; decide), hp, hb]
    rfl
  rw [State.worked, modEngine_modEngine] at hexec
  obtain ⟨hdone, heng⟩ := workDone_of_written hrun (written_of_view hx (programRan_engineView s ch i x t p b))
    (h := fun e => { e with lastCrate := some t.crate, ta := b, worked := true }) (fun _ => ⟨rfl, rfl⟩)
  exact ⟨_, _, (exec_tensorStep h hstall false).trans (congrArg Host.Outcome.next hexec), hdone, rfl, congrArg Engine.ta heng⟩

/-- The next tile is late: the step stalls. -/
theorem tensorStep_waits (htodo : (stepBuf s ch x g t (c.body.drop t.progOff)).todo ≠ []) :
    ∃ u, exec (.tensorStep ch true .clean) s = .next u ∧ ((chanAt u ch).engines.getD 2 {}).stall = some (dtOf s) ∧
      ((chanAt u ch).engines.getD 2 {}).worked = false ∧
      ((chanAt u ch).engines.getD 2 {}).ta = (stepBuf s ch x g t (c.body.drop t.progOff)).wait (c.body.drop t.progOff) ∧
      instAt u ch i = some x ∧ Counted s (chanCtr ch 7) 1 u := by
  obtain ⟨-, hworked, hstep⟩ := atWork_facts h
  obtain ⟨hrun, hx, -, -⟩ := runningStep_facts hstep
  obtain ⟨hch, he⟩ := engine_lt hrun
  generalize hp : c.body.drop t.progOff = p at htodo ⊢
  have hexec : s.runTensor ch i x g t true = (s.modEngine ch 2 (fun e => { e with
      stall := some (dtOf s), lastCrate := some t.crate, ta := (stepBuf s ch x g t p).wait p })).bump (chanCtr ch 7) 1 := by
    unfold State.runTensor
    rw [if_neg hsome, hc]
    dsimp only
    rw [if_neg (by rw [hclean]; decide), hp]
    exact if_pos (by simpa using htodo)
  have heng := engine_modEngine hch he (fun e => { e with
    stall := some (dtOf s), lastCrate := some t.crate, ta := (stepBuf s ch x g t p).wait p })
  refine ⟨_, (exec_tensorStep h hstall true).trans (congrArg Host.Outcome.next hexec), congrArg Engine.stall heng,
    (congrArg Engine.worked heng).trans hworked, congrArg Engine.ta heng, (instAt_modEngine s ch 2 ch i _).trans hx, ?_⟩
  exact counted_bump (s.modEngine ch 2 _) (chanCtr ch 7) 1

end TensorStep

theorem weightTileArrival_acts {s : State} {ch c : Nat} (hrun : running s = true) (hstall : ((chanAt s ch).engines.getD 2 {}).stall = some c)
    (hin : dtOf s ≤ c + 2000000) : ∃ u, exec (.weightTileArrival ch) s = .next u ∧ (chanAt u ch).engines.getD 2 {} =
      { (chanAt s ch).engines.getD 2 {} with stall := none, lastMove := dtOf s, ta := ((chanAt s ch).engines.getD 2 {}).ta.arrive } ∧
      (chanAt u ch).insts = (chanAt s ch).insts := by
  have hexec : exec (.weightTileArrival ch) s = .next (s.modEngine ch 2 (fun e => { e with stall := none, lastMove := dtOf s, ta := e.ta.arrive })) := by
    change execWeightTileArrival ch s = _
    rw [execWeightTileArrival, hstall]
    exact congrArg Host.Outcome.next ((if_neg (by simp [hrun])).trans (if_pos hin))
  obtain ⟨hch, he⟩ := engine_stalls_lt hstall
  refine ⟨_, hexec, engine_modEngine hch he _, ?_⟩
  exact chanAt_modChan_same Chan.insts (f := fun c => { c with engines := updAt c.engines 2 (fun e =>
    { e with stall := none, lastMove := dtOf s, ta := e.ta.arrive }) }) (fun _ => rfl) s ch ch

/-! ### Split-precision requests (R195, R198, R199) -/

theorem yieldArrays_chans (s : State) (ch : Nat) : (s.yieldArrays ch).core.chans = s.core.chans :=
  holds_ite (P := fun t : State => t.core.chans = s.core.chans) rfl rfl

/-- The counter of the arrays' yields rises where a tensor step runs. -/
theorem yieldArrays_counted (s : State) (ch : Nat) :
    Counted s (chanCtr ch 8) (b2n ((chanAt s ch).engines.getD 2 {}).run.isSome) (s.yieldArrays ch) := by
  unfold State.yieldArrays
  cases h : ((chanAt s ch).engines.getD 2 {}).run.isSome with
  | true => exact counted_bump s _ 1
  | false => rfl

theorem yieldArrays_counted_other (s : State) (ch : Nat) {a : Nat} (ha : a ≠ chanCtr ch 8) : Counted s a 0 (s.yieldArrays ch) :=
  holds_ite (P := fun t => Counted s a 0 t) (counted_bump_other s 1 ha) rfl

/-- The channel as its arrays take a request. -/
def splitTaken (c : Chan) (m n k : Nat) : Chan :=
  let r : Split := { m := m, n := n, k := k, yielded := (c.engines.getD 2 {}).run.isSome }
  { c with split := some r, exch := { c.exch with desc := some r, resultReady := false } }

theorem takeSplit_chan {s : State} {ch : Nat} (hch : ch < s.core.chans.length) (m n k : Nat) :
    chanAt (s.takeSplit ch m n k) ch = splitTaken (chanAt s ch) m n k := by
  unfold State.takeSplit
  dsimp only
  rw [chanAt, yieldArrays_chans]
  exact chanAt_modChan_self hch _

theorem takeSplit_counted {s : State} {ch : Nat} (hch : ch < s.core.chans.length) (m n k : Nat) :
    Counted s (chanCtr ch 8) (b2n ((chanAt s ch).engines.getD 2 {}).run.isSome) (s.takeSplit ch m n k) := by
  unfold State.takeSplit
  dsimp only
  generalize hu : s.modChan ch _ = u
  have heng : (chanAt u ch).engines = (chanAt s ch).engines := by rw [← hu, chanAt_modChan_self hch]
  have hctr : u.core.obs.counters = s.core.obs.counters := by rw [← hu]; rfl
  have h := yieldArrays_counted u ch
  rw [Counted, heng, hctr] at h
  exact h

theorem takeSplit_counted_other (s : State) (ch m n k : Nat) {a : Nat} (ha : a ≠ chanCtr ch 8) : Counted s a 0 (s.takeSplit ch m n k) :=
  yieldArrays_counted_other (s.modChan ch _) ch ha

section SplitRequest
variable {s : State} {ch m n k : Nat} (hrun : running s = true) (hin : (chanAt s ch).inService = true)
  (hse : ((chanAt s ch).engines.getD 3 {}).run.isSome = true) (hok : splitShapeOk m n k = true)
include hrun hin hse hok

theorem splitRequest_takes (hfree : (chanAt s ch).split = none) : ∃ u, exec (.splitRequest ch m n k) s = .next u ∧
    (chanAt u ch).engines = (chanAt s ch).engines ∧
    (chanAt u ch).split = some { m := m, n := n, k := k, yielded := ((chanAt s ch).engines.getD 2 {}).run.isSome } ∧
    (chanAt u ch).exch = { (chanAt s ch).exch with desc := (chanAt u ch).split, resultReady := false } ∧
    Counted s (chanCtr ch 8) (b2n ((chanAt s ch).engines.getD 2 {}).run.isSome) u := by
  have hlt := length_of_inService hin
  have hexec : exec (.splitRequest ch m n k) s = .next (s.takeSplit ch m n k) :=
    congrArg Host.Outcome.next ((if_pos (by simp only [hrun, hin, hse, hok, Bool.and_self])).trans (if_pos (by rw [hfree]; rfl)))
  refine ⟨_, hexec, ?_, ?_, ?_, takeSplit_counted hlt m n k⟩
  · rw [takeSplit_chan hlt]
    rfl
  · rw [takeSplit_chan hlt]
    rfl
  · rw [takeSplit_chan hlt]
    rfl

theorem splitRequest_waits (hbusy : (chanAt s ch).split ≠ none) : ∃ u, exec (.splitRequest ch m n k) s = .next u ∧
    chanAt u ch = { chanAt s ch with splitWaits := (chanAt s ch).splitWaits ++ [{ m := m, n := n, k := k, yielded := false }] } := by
  have hnot : ¬ (chanAt s ch).split.isNone = true := by simpa [Option.isNone_iff_eq_none] using hbusy
  exact ⟨_, congrArg Host.Outcome.next ((if_pos (by simp only [hrun, hin, hse, hok, Bool.and_self])).trans (if_neg hnot)),
    chanAt_modChan_self (length_of_inService hin) _⟩

end SplitRequest

/-- The elements of a product. -/
def splitElements (r : Split) (a b : List W32) : List (W32 × Bool × Bool) :=
  (rowsOf r.k a).flatMap (fun v => (rowsOf r.k b).map (splitElement v))

theorem splitElements_values (r : Split) (a b : List W32) :
    (splitElements r a b).map (·.1) = (rowsOf r.k a).flatMap (fun v => (rowsOf r.k b).map (fun w => (splitElement v w).1)) := by
  rw [splitElements, List.map_flatMap]
  refine List.flatMap_congr fun v _ => ?_
  rw [List.map_map]
  rfl

/-- The product stands in the result area, and the late chunks are counted. -/
def splitEnded (s : State) (ch : Nat) (r : Split) (a b : List W32) (late : Nat) : State :=
  ((s.modChan ch (fun c => { c with split := none, exch := c.exch.ended r a b ((splitElements r a b).map (·.1)) })).bump (chanCtr ch 9) late).taFlags ch
    ((splitElements r a b).filter (fun e => e.2.1)).length ((splitElements r a b).any (fun e => e.2.2)) 0xFFFF

theorem splitEnded_facts {s : State} {ch : Nat} (hch : ch < s.core.chans.length) (r : Split) (a b : List W32) (late : Nat) :
    chanAt (splitEnded s ch r a b late) ch =
        { chanAt s ch with split := none, exch := (chanAt s ch).exch.ended r a b ((splitElements r a b).map (·.1)) } ∧
      (splitEnded s ch r a b late).core.chans.length = s.core.chans.length ∧ Counted s (chanCtr ch 9) late (splitEnded s ch r a b late) := by
  unfold splitEnded
  generalize hu : s.modChan ch _ = u
  generalize ((splitElements r a b).filter (fun e => e.2.1)).length = nans
  generalize (splitElements r a b).any (fun e => e.2.2) = sat
  have hview := taFlags_engineView (u.bump (chanCtr ch 9) late) ch nans sat 0xFFFF
  have hchans : ((u.bump (chanCtr ch 9) late).taFlags ch nans sat 0xFFFF).core.chans = u.core.chans := congrArg Prod.fst hview
  have hcount : Counted u (chanCtr ch 9) (late + 0) ((u.bump (chanCtr ch 9) late).taFlags ch nans sat 0xFFFF) :=
    (counted_bump u (chanCtr ch 9) late).trans (taFlags_counted _ ch nans sat 0xFFFF (by unfold chanCtr; omega))
  refine ⟨?_, ?_, ?_⟩
  · rw [chanAt, hchans, ← hu]
    exact chanAt_modChan_self hch _
  · rw [hchans, ← hu]
    exact length_updAt _ _ _
  · have hctr : u.core.obs.counters = s.core.obs.counters := by rw [← hu]; rfl
    rw [Counted, hctr] at hcount
    exact hcount

/-- The request that waits next is taken, where there is one. -/
def nextSplit (s : State) (ch : Nat) : List Split → State
  | [] => s
  | w :: rest => (s.modChan ch (fun c => { c with splitWaits := rest })).takeSplit ch w.m w.n w.k

theorem exec_splitResult {s : State} {ch : Nat} {r : Split} {a b : List W32} (hrun : running s = true) (hr : (chanAt s ch).split = some r)
    (ha : a.length = r.m * r.k) (hb : b.length = r.n * r.k) (late : Nat) : exec (.splitResult ch a b late) s =
      .next (nextSplit (splitEnded s ch r a b late) ch (chanAt (splitEnded s ch r a b late) ch).splitWaits) := by
  change execSplitResult ch a b late s = _
  unfold execSplitResult
  rw [hr]
  dsimp only
  rw [if_neg (by simp [hrun, ha, hb])]
  refine congrArg Host.Outcome.next ?_
  change (match (chanAt (splitEnded s ch r a b late) ch).splitWaits with
    | [] => splitEnded s ch r a b late
    | w :: rest => ((splitEnded s ch r a b late).modChan ch (fun c => { c with splitWaits := rest })).takeSplit ch w.m w.n w.k) = _
  generalize splitEnded s ch r a b late = u
  cases (chanAt u ch).splitWaits <;> rfl

theorem length_of_split {s : State} {ch : Nat} {r : Split} (h : (chanAt s ch).split = some r) : ch < s.core.chans.length := by
  by_contra hlt
  rw [chanAt, List.getD_eq_default _ _ (Nat.le_of_not_lt hlt)] at h
  cases h

theorem splitResult_acts {s : State} {ch : Nat} {r : Split} {a b : List W32} (hrun : running s = true) (hr : (chanAt s ch).split = some r)
    (ha : a.length = r.m * r.k) (hb : b.length = r.n * r.k) (late : Nat) : ∃ u, exec (.splitResult ch a b late) s = .next u ∧
      (chanAt u ch).exch.result = (rowsOf r.k a).flatMap (fun v => (rowsOf r.k b).map (fun w => (splitElement v w).1)) ∧
      ((chanAt s ch).splitWaits = [] → (chanAt u ch).split = none ∧ (chanAt u ch).exch.resultReady = true) ∧
      (∀ w l, (chanAt s ch).splitWaits = w :: l → (chanAt u ch).splitWaits = l ∧
        (chanAt u ch).split = some { m := w.m, n := w.n, k := w.k, yielded := ((chanAt s ch).engines.getD 2 {}).run.isSome }) ∧
      Counted s (chanCtr ch 9) late u := by
  obtain ⟨hchan, hlen, hcount⟩ := splitEnded_facts (length_of_split hr) r a b late
  have hlt := (length_of_split hr).trans_eq hlen.symm
  have hexec := exec_splitResult hrun hr ha hb late
  generalize splitEnded s ch r a b late = u at hchan hlen hcount hlt hexec
  have hwaits : (chanAt u ch).splitWaits = (chanAt s ch).splitWaits := (congrArg Chan.splitWaits hchan :)
  rw [hwaits] at hexec
  refine ⟨_, hexec, ?_⟩
  rw [← splitElements_values]
  cases hq : (chanAt s ch).splitWaits with
  | nil =>
    rw [nextSplit, hchan]
    exact ⟨rfl, fun _ => ⟨rfl, rfl⟩, fun _ _ h => absurd h.symm (List.cons_ne_nil _ _), hcount⟩
  | cons w l =>
    have hlt' : ch < (u.modChan ch (fun c => { c with splitWaits := l })).core.chans.length := hlt.trans_eq (length_updAt _ _ _).symm
    have hnext : chanAt (nextSplit u ch (w :: l)) ch = splitTaken { chanAt u ch with splitWaits := l } w.m w.n w.k := by
      rw [nextSplit, takeSplit_chan hlt', chanAt_modChan_self hlt]
    have hctr : Counted u (chanCtr ch 9) 0 (nextSplit u ch (w :: l)) :=
      takeSplit_counted_other (u.modChan ch (fun c => { c with splitWaits := l })) ch w.m w.n w.k (by unfold chanCtr; omega)
    rw [hnext, hchan]
    refine ⟨rfl, fun h => absurd h (List.cons_ne_nil _ _), fun w' l' h => ?_, hcount.trans hctr⟩
    cases h
    exact ⟨rfl, rfl⟩

/-- Settles O46. -/
theorem tensorStepsRun : Obligations.TensorStepsRun := by
  unfold Obligations.TensorStepsRun
  intro s ch
  refine ⟨fun i x g k t h hstall => ⟨fun hnone late => tensorStep_none h hstall hnone late, fun c hsome hc hclean => ?step⟩,
    fun c hrun hstall hin => weightTileArrival_acts hrun hstall hin,
    fun m n k hrun hin hse hok => ⟨splitRequest_takes hrun hin hse hok, splitRequest_waits hrun hin hse hok⟩,
    fun r a b late hrun hr ha hb => splitResult_acts hrun hr ha hb late⟩
  case step =>
    exact ⟨tensorStep_runs h hstall hsome hc hclean, tensorStep_waits h hstall hsome hc hclean⟩

end Sys2Proof.Machine
end

section
/-! Solver steps run (R212, R236, R243, R247). -/
namespace Sys2Proof.Machine

/-! ### What a solve leaves alone -/

/-- The engines and the queue of every channel. -/
def solverView (s : State) : List (List Engine × List Waiting) := s.core.chans.map (fun c => (c.engines, c.queue))

theorem deaf_solverView : Deaf solverView := ⟨fun _ _ => rfl, fun _ _ => rfl, fun _ _ _ => rfl, fun _ _ => rfl, fun _ _ _ _ _ => rfl⟩

theorem chanAt_of_solverView {s t : State} (h : solverView t = solverView s) (c : Nat) :
    (chanAt t c).engines = (chanAt s c).engines ∧ (chanAt t c).queue = (chanAt s c).queue := by
  have hat (u : State) : (solverView u).getD c (({ present := false } : Chan).engines, ({ present := false } : Chan).queue) = ((chanAt u c).engines, (chanAt u c).queue) :=
    List.getD_map u.core.chans _ (fun c : Chan => (c.engines, c.queue))
  have := (hat t).symm.trans ((congrArg (List.getD · c _) h).trans (hat s))
  exact Prod.mk.injEq .. ▸ this

theorem length_of_solverView {s t : State} (h : solverView t = solverView s) : t.core.chans.length = s.core.chans.length := by
  simpa [solverView] using congrArg List.length h

theorem worked_of_solverView {s u : State} {ch e : Nat} (hch : ch < s.core.chans.length) (he : e < (chanAt s ch).engines.length)
    (hu : solverView u = solverView s) : ((chanAt (u.worked ch e) ch).engines.getD e {}).worked = true := by
  rw [State.worked, engine_modEngine (hch.trans_eq (length_of_solverView hu).symm)]
  rw [(chanAt_of_solverView hu ch).1]
  exact he

theorem solverView_bump (s : State) (a n : Nat) : solverView (s.bump a n) = solverView s := rfl

theorem solverView_modSess (s : State) (sid : Nat) (f : Session → Session) : solverView (s.modSess sid f) = solverView s := rfl

theorem solverView_modJob (s : State) (j : Nat) (f : MapJob → MapJob) : solverView (s.modJob j f) = solverView s := rfl

theorem solverView_err1 (s : State) (i b src sid pg : Nat) : solverView (s.err1 i b src sid pg) = solverView s :=
  deaf_solverView.err1 (fun _ _ => rfl) s i b src sid pg

theorem solverView_modInst (s : State) (ch i : Nat) (f : Inst → Inst) : solverView (s.modInst ch i f) = solverView s := by
  change (updAt s.core.chans ch _).map _ = s.core.chans.map _
  refine List.ext_getElem? fun n => ?_
  rw [List.getElem?_map, List.getElem?_map, updAt, List.getElem?_modify]
  cases s.core.chans[n]? with
  | none => rfl
  | some c => by_cases h : ch = n <;> simp [h]

theorem solverView_putSe (s : State) (sid : Nat) (se : SeStruct) : solverView (s.putSe sid se) = solverView s := rfl

theorem solverView_onWork (s : State) (ch i sid : Nat) (f : SessCtx → SessCtx) : solverView (s.onWork ch i sid f) = solverView s := by
  unfold State.onWork
  split
  · exact solverView_modInst s ch i _
  · rfl

theorem solverView_fuFaults (s : State) (ch i sid bad : Nat) (sat : Bool) : solverView (s.fuFaults ch i sid bad sat) = solverView s :=
  holds_ite (P := fun t => solverView t = solverView s) ((solverView_err1 _ _ _ _ _ _).trans (solverView_modInst (s.bump (chanCtr ch 34) bad) ch i _)) rfl

theorem solverView_voteAgainst (s : State) (sid a : Nat) : solverView (s.voteAgainst sid a) = solverView s :=
  holds_ite (P := fun t => solverView t = solverView s) rfl (deaf_solverView.setErr (fun _ _ => rfl) _ _ _ _ _ _ _)

theorem solverView_takeWindow (s : State) (ch i sid : Nat) (w : Window) : solverView (s.takeWindow ch i sid w) = solverView s := by
  unfold State.takeWindow
  dsimp only
  rw [foldl_unseen (F := solverView) (f := fun t a => t.voteAgainst sid a) (fun t a => solverView_voteAgainst t sid a)]
  simp only [solverView_fuFaults, solverView_bump, solverView_modSess, solverView_onWork]

theorem solverView_countLoop (s : State) (ch sid : Nat) (r : LoopRun) : solverView (s.countLoop ch sid r) = solverView s := by
  unfold State.countLoop
  have hite (t : State) (b : Bool) (i n : Nat) : solverView (if b then t.err1 i n 255 sid else t) = solverView t :=
    holds_ite (P := fun u => solverView u = solverView t) (solverView_err1 _ _ _ _ _ _) rfl
  simp only [hite, solverView_bump]

theorem solverView_refuse (s : State) (ch i sid : Nat) (t : GStep) (y : Session) (w : Window) (cycles factors : Nat) :
    solverView (s.refuse ch i sid t y w cycles factors) = solverView s := by
  unfold State.refuse
  dsimp only
  rw [solverView_modInst, solverView_putSe]
  split
  · rw [solverView_modSess, solverView_bump, solverView_bump]
  · rw [solverView_bump]

theorem solverView_solve (s : State) (ch i sid : Nat) (x : Inst) (t : GStep) (y : Session) (e : JobIn) (w : Window) (bad : Nat) (j : SolveJob)
    (cycles loadAt : Nat) (deadline : Int) (timing : List IterTiming) :
    solverView (s.solve ch i sid x t y e w bad j cycles loadAt deadline timing) = solverView s := by
  unfold State.solve
  dsimp only
  split
  · simp only [solverView_putSe, solverView_modInst, solverView_bump, solverView_countLoop]
  · simp only [solverView_modSess, solverView_onWork, solverView_putSe, solverView_modInst, solverView_bump, solverView_countLoop]

theorem solverView_bumpIf (s : State) (c : Prop) [Decidable c] (a n : Nat) : solverView (if c then s.bump a n else s) = solverView s :=
  holds_ite (P := fun t => solverView t = solverView s) rfl rfl

theorem solverView_runSession (s : State) (ch i : Nat) (x : Inst) (g : Slot) (t : GStep) (loadAt : Nat) (timing : List IterTiming) (sid : Nat)
    (y : Session) : solverView (s.runSession ch i x g t loadAt timing sid y) = solverView s := by
  unfold State.runSession
  extract_lets c dispatched w s₁ knotMs s₂ s₃ held delta se grown tk e₀ j e cycles deadline
  have hs : solverView s₃ = solverView s :=
    (solverView_bumpIf s₂ _ _ 1).trans ((solverView_bumpIf s₁ _ _ 1).trans (solverView_takeWindow s ch i sid w))
  clear_value s₃ cycles deadline e j tk grown w
  split
  · exact (solverView_refuse s₃ ch i sid t _ w cycles _).trans hs
  · exact (solverView_solve s₃ ch i sid x t y e w tk.bad j cycles loadAt deadline timing).trans hs

theorem solverView_runMapJob (s : State) (ch i j : Nat) (x : Inst) (t : GStep) (loadAt : Nat) (timing : List IterTiming) :
    solverView (s.runMapJob ch i j x t loadAt timing) = solverView s := by
  unfold State.runMapJob
  split
  · rfl
  · dsimp only
    split
    · rw [solverView_modInst, solverView_modJob, solverView_bump, solverView_bumpIf]
    · rw [solverView_modInst, solverView_modJob, solverView_countLoop, solverView_bumpIf]

theorem solverView_runSolver (s : State) (ch i : Nat) (x : Inst) (g : Slot) (t : GStep) (loadAt : Nat) (timing : List IterTiming) :
    solverView (s.runSolver ch i x g t loadAt timing) = solverView s := by
  unfold State.runSolver
  split
  · exact solverView_runMapJob s ch i _ x t loadAt timing
  · exact solverView_runSession s ch i x g t loadAt timing _ _
  · exact solverView_modInst s ch i _

/-! ### A map job takes its result (R212, R236, R243) -/

/-- Where the first pose of a job stands. -/
def jobAnchor (d : MapData) (y : MapJob) : V3 :=
  anchorAt ((((jobVars d y).find? (fun v => v.2.1 == 1)).map (fun v => v3At64 v.2.2 0)).getD {})

/-- The factors of a job. -/
def jobFacs (s : State) (d : MapData) (y : MapJob) : List Fac :=
  (jobTerms d (fieldAt ((mapParams s).getD defaultMapParams) 0x17 1) y).map (JobTerm.fac (jobAnchor d y))

/-- What the solver is given of a job. -/
def jobTask (s : State) (d : MapData) (t : GStep) (y : MapJob) : SolveJob :=
  solveJobOf t (jobFacs s d y) (jobAnchor d y) ((jobVars d y).map (·.1))

/-- A job's structure, loaded. -/
def jobLoad (s : State) (d : MapData) (t : GStep) (y : MapJob) : SeStruct := loadStructure (jobTask s d t y) { vars := jobVars d y }

/-- Whether a job's worst case is longer than what is left of its deadline. -/
def jobExceeds (s : State) (ch : Nat) (d : MapData) (t : GStep) (y : MapJob) (loadAt : Nat) : Bool :=
  exceeds (fullCycles s ch (dimOf (valsOf (jobAnchor d y) (jobVars d y))) (jobTask s d t y).store (jobLoad s d t y).cliques (jobFacs s d y))
    ((y.deadline : Int) - loadAt)

/-- The loop of a job, run. -/
def jobRun (s : State) (d : MapData) (t : GStep) (y : MapJob) (loadAt : Nat) (timing : List IterTiming) (cap : Nat × Bool) : LoopRun :=
  LoopRun.loop (loopParOf t.param y.deadline cap.2) (jobTask s d t y) cap.1 timing loadAt
    (firstRun t.param (jobTask s d t y) (jobVars d y) (jobLoad s d t y).lin (jobLoad s d t y).cliques [])

theorem mapParams_modEngine (s : State) (c e : Nat) (f : Engine → Engine) : mapParams (s.modEngine c e f) = mapParams s := by
  have hchans : mapChans (s.modEngine c e f) = mapChans s :=
    mapChans_modChan (f := fun c => { c with engines := updAt c.engines e f }) (fun _ => ⟨rfl, rfl, rfl⟩) s c
  have hgraphs : (s.modEngine c e f).core.work.graphs = s.core.work.graphs := rfl
  unfold mapParams mapGraphSlot residentAt graphAt
  rw [hchans, hgraphs]

section ModEngine
variable (s : State) (c e : Nat) (f : Engine → Engine) (d : MapData) (t : GStep) (y : MapJob) (loadAt : Nat)

theorem jobFacs_modEngine : jobFacs (s.modEngine c e f) d y = jobFacs s d y := by rw [jobFacs, mapParams_modEngine, jobFacs]

theorem jobTask_modEngine : jobTask (s.modEngine c e f) d t y = jobTask s d t y := by rw [jobTask, jobFacs_modEngine, jobTask]

theorem jobLoad_modEngine : jobLoad (s.modEngine c e f) d t y = jobLoad s d t y := by rw [jobLoad, jobTask_modEngine, jobLoad]

theorem jobExceeds_modEngine (ch : Nat) : jobExceeds (s.modEngine c e f) ch d t y loadAt = jobExceeds s ch d t y loadAt := by
  have hcycles : fullCycles (s.modEngine c e f) = fullCycles s := rfl
  rw [jobExceeds, jobLoad_modEngine, jobTask_modEngine, jobFacs_modEngine, hcycles, jobExceeds]

theorem jobRun_modEngine (timing : List IterTiming) (cap : Nat × Bool) :
    jobRun (s.modEngine c e f) d t y loadAt timing cap = jobRun s d t y loadAt timing cap := by
  rw [jobRun, jobLoad_modEngine, jobTask_modEngine, jobRun]

end ModEngine

/-- The map with its jobs. -/
def mapOf (s : State) : MapSt := s.core.map

theorem deaf_mapOf : Deaf mapOf := ⟨fun _ _ => rfl, fun _ _ => rfl, fun _ _ _ => rfl, fun _ _ => rfl, fun _ _ _ _ _ => rfl⟩

theorem countLoop_mapOf (s : State) (ch sid : Nat) (r : LoopRun) : mapOf (s.countLoop ch sid r) = mapOf s := by
  have hbump (u : State) (a n : Nat) : mapOf (u.bump a n) = mapOf u := rfl
  have hite (u : State) (b : Bool) (i n : Nat) : mapOf (if b then u.err1 i n 255 sid else u) = mapOf u :=
    holds_ite (P := fun v => mapOf v = mapOf u) (deaf_mapOf.err1 (fun _ _ => rfl) _ _ _ _ _ _) rfl
  unfold State.countLoop
  simp only [hite, hbump]

theorem jobOf_modJob_other (s : State) {j n : Nat} (h : n ≠ j) (f : MapJob → MapJob) : jobOf (s.modJob j f) n = jobOf s n :=
  NMap.get_upd_other _ _ h

theorem runMapJob_takes {s : State} {j : Nat} {y : MapJob} (hy : jobOf s j = some y) (ch i : Nat) (x : Inst) (t : GStep) (loadAt : Nat)
    (timing : List IterTiming) (hin : jobExceeds s ch (mapAt s x.mapVersion) t y loadAt = false) :
    jobOf (s.runMapJob ch i j x t loadAt timing) j = some (y.solvedBy (iterCap t.param (chanAt s ch).mapRole y.cap).1
        (jobRun s (mapAt s x.mapVersion) t y loadAt timing (iterCap t.param (chanAt s ch).mapRole y.cap))) ∧
      ∀ n, n ≠ j → jobOf (s.runMapJob ch i j x t loadAt timing) n = jobOf s n := by
  unfold State.runMapJob
  rw [hy]
  dsimp only
  rw [if_neg (by exact (Bool.not_eq_true _).mpr hin)]
  generalize hu : (if fieldAt t.param 1 1 == 1 && !(chanAt s ch).mapRole then s.bump (chanCtr ch 14) 1 else s) = u
  have hchans : u.core.chans = s.core.chans := by rw [← hu]; exact holds_ite (P := fun v : State => v.core.chans = s.core.chans) rfl rfl
  have hmap : mapOf u = mapOf s := by rw [← hu]; exact holds_ite (P := fun v : State => mapOf v = mapOf s) rfl rfl
  have hrole : (chanAt u ch).mapRole = (chanAt s ch).mapRole := by rw [chanAt, hchans, chanAt]
  rw [hrole]
  have hjobs (v : State) (hv : mapOf v = mapOf u) (n : Nat) : jobOf v n = jobOf s n := congrArg (fun m : MapSt => NMap.get? m.jobs n) (hv.trans hmap)
  refine ⟨jobOf_modJob ((hjobs _ (countLoop_mapOf u ch 0xFFFF _) j).trans hy) _, fun n hn => ?_⟩
  exact (jobOf_modJob_other _ hn _).trans (hjobs _ (countLoop_mapOf u ch 0xFFFF _) n)

/-! ### The step -/

section Step
variable {s : State} {ch i k : Nat} {x : Inst} {g : Slot} {t : GStep} (h : atWork s ch 3 6 = some (i, x, g, k, t))
include h

theorem exec_solverStep (hin : ∀ c, ((chanAt s ch).engines.getD 3 {}).stall = some c → dtOf s ≤ c + 2000000) (loadAt : Nat)
    (timing : List IterTiming) : exec (.solverStep ch loadAt timing .clean) s =
      .next (((s.modEngine ch 3 (fun e => { e with stall := none })).runSolver ch i x g t loadAt timing).worked ch 3) := by
  change execSolverStep ch loadAt timing .clean s = _
  rw [execSolverStep, h]
  refine congrArg Host.Outcome.next (if_neg ?_)
  cases hc : ((chanAt s ch).engines.getD 3 {}).stall with
  | none => exact Bool.false_ne_true
  | some c => exact fun hlate => absurd (hin c hc) (Nat.not_le.2 (of_decide_eq_true hlate))

theorem worked_solver {u : State}
    (hu : solverView u = solverView (s.modEngine ch 3 (fun e => { e with stall := none }))) :
    ((chanAt (u.worked ch 3) ch).engines.getD 3 {}).worked = true ∧ ∀ c, c ≠ ch → (chanAt (u.worked ch 3) c).queue = (chanAt s c).queue := by
  obtain ⟨hrun, -, -, -⟩ := runningStep_facts (atWork_facts h).2.2
  obtain ⟨hch, he⟩ := engine_lt hrun
  constructor
  · refine worked_of_solverView (hch.trans_eq (length_updAt _ _ _).symm) ?_ hu
    rw [State.modEngine, chanAt_modChan_self hch]
    exact he.trans_eq (length_updAt _ _ _).symm
  · intro c hc
    rw [State.worked, State.modEngine, chanAt_modChan_other _ _ hc, (chanAt_of_solverView hu c).2, State.modEngine, chanAt_modChan_other _ _ hc]

theorem solverStep_completes (hin : ∀ c, ((chanAt s ch).engines.getD 3 {}).stall = some c → dtOf s ≤ c + 2000000) (loadAt : Nat)
    (timing : List IterTiming) : ∃ u, exec (.solverStep ch loadAt timing .clean) s = .next u ∧ ((chanAt u ch).engines.getD 3 {}).worked = true ∧
      ∀ c, c ≠ ch → (chanAt u c).queue = (chanAt s c).queue := by
  have hexec := exec_solverStep h hin loadAt timing
  have hu := solverView_runSolver (s.modEngine ch 3 (fun e => { e with stall := none })) ch i x g t loadAt timing
  generalize (s.modEngine ch 3 (fun e => { e with stall := none })).runSolver ch i x g t loadAt timing = u at hexec hu
  exact ⟨_, hexec, worked_solver h hu⟩

theorem solverStep_late {c : Nat} (hstall : ((chanAt s ch).engines.getD 3 {}).stall = some c) (hlate : c + 2000000 < dtOf s) (loadAt : Nat)
    (timing : List IterTiming) : ∃ u y, exec (.solverStep ch loadAt timing .clean) s = .next u ∧
      ((chanAt u ch).engines.getD 3 {}).run = none ∧ instAt u ch i = some y ∧ y.status ≠ none := by
  obtain ⟨heng, hx, hg, -⟩ := runningStep_facts (atWork_facts h).2.2
  have hexec : exec (.solverStep ch loadAt timing .clean) s = .next (((cutSolve s 3 x).breakStep ch 3 0x20).refresh ch) := by
    change execSolverStep ch loadAt timing .clean s = _
    rw [execSolverStep, h, hstall]
    refine congrArg Host.Outcome.next ((if_pos (decide_eq_true hlate)).trans ?_)
    unfold cutSolve
    cases x.sid <;> rfl
  obtain ⟨hchans, hgraphs⟩ := cutSolve_facts s 3 x
  generalize cutSolve s 3 x = u at hexec hchans hgraphs
  obtain ⟨hnone, y, hy, hst⟩ := breakStep_acts (s := u) (i := i) (k := k) (x := x) (by rw [chanAt, hchans]; exact heng)
    (by rw [instAt, chanAt, hchans]; exact hx) (by rw [instSlot, graphAt, hgraphs]; exact Option.isSome_of_eq_some hg) 0x20
  refine ⟨_, _, hexec, ?_, instAt_refresh hy, by rwa [refreshed_status]⟩
  rw [refresh_chan Chan.engines (fun _ _ => rfl)]
  exact hnone

theorem solverStep_takesJob (hin : ∀ c, ((chanAt s ch).engines.getD 3 {}).stall = some c → dtOf s ≤ c + 2000000) {j : Nat} {y : MapJob}
    (horigin : x.origin = .mapJob j) (hy : jobOf s j = some y) (loadAt : Nat) (timing : List IterTiming)
    (hcap : jobExceeds s ch (mapAt s x.mapVersion) t y loadAt = false) :
    ∃ u, exec (.solverStep ch loadAt timing .clean) s = .next u ∧ jobOf u j = some (y.solvedBy (iterCap t.param (chanAt s ch).mapRole y.cap).1
        (jobRun s (mapAt s x.mapVersion) t y loadAt timing (iterCap t.param (chanAt s ch).mapRole y.cap))) ∧
      ∀ n, n ≠ j → jobOf u n = jobOf s n := by
  have hrole : (chanAt (s.modEngine ch 3 (fun e => { e with stall := none })) ch).mapRole = (chanAt s ch).mapRole :=
    chanAt_modChan_same Chan.mapRole (f := fun c => { c with engines := updAt c.engines 3 (fun e => { e with stall := none }) }) (fun _ => rfl) s ch ch
  have hexec := exec_solverStep h hin loadAt timing
  have hfree := jobExceeds_modEngine s ch 3 (fun e => { e with stall := none }) (mapAt s x.mapVersion) t y loadAt ch
  have hrun := jobRun_modEngine s ch 3 (fun e => { e with stall := none }) (mapAt s x.mapVersion) t y loadAt timing
  have hjobs (n : Nat) : jobOf (s.modEngine ch 3 (fun e => { e with stall := none })) n = jobOf s n := rfl
  have hmap : mapAt (s.modEngine ch 3 (fun e => { e with stall := none })) x.mapVersion = mapAt s x.mapVersion := rfl
  generalize s.modEngine ch 3 (fun e => { e with stall := none }) = u at hexec hrole hfree hrun hjobs hmap
  obtain ⟨hjob, hothers⟩ := runMapJob_takes ((hjobs j).trans hy) ch i x t loadAt timing (by rw [hmap]; exact hfree.trans hcap)
  rw [hrole, hmap, hrun] at hjob
  have hsolver : u.runSolver ch i x g t loadAt timing = u.runMapJob ch i j x t loadAt timing := by rw [State.runSolver, horigin]
  rw [hsolver] at hexec
  exact ⟨_, hexec, hjob, fun n hn => (hothers n hn).trans (hjobs n)⟩

end Step

/-- Settles O47: the solver's work keeps engines and queues, a job in time takes its loop's result, and a clique late for more than 2 ms breaks
the step off. -/
theorem solverStepsRun : Obligations.SolverStepsRun := by
  intro s ch i k loadAt x g t timing h
  refine ⟨fun hin => ⟨solverStep_completes h hin loadAt timing, ?_⟩, fun c hstall hlate => solverStep_late h hstall hlate loadAt timing⟩
  intro j y horigin hy d vars anchor fs job se cap hcap
  exact solverStep_takesJob h hin horigin hy loadAt timing hcap

end Sys2Proof.Machine
end

section
/-! Fusion steps run (R253 to R261, R272 to R285). -/
namespace Sys2Proof.Machine

/-! ### What the fusion unit leaves alone -/

theorem atWork_of_fuStep {s : State} {ch op i k : Nat} {x : Inst} {g : Slot} {t : GStep} (h : fuStep s ch op = some (i, x, g, k, t)) :
    atWork s ch 4 7 = some (i, x, g, k, t) :=
  (Option.filter_eq_some_iff.1 h).1

/-- Engines and queues with fusion's tables and the map. -/
def fusionView (s : State) : List (List Engine × List Waiting) × Fus × MapSt := (solverView s, s.core.fus, s.core.map)

theorem deaf_fusionView : Deaf fusionView := ⟨fun _ _ => rfl, fun _ _ => rfl, fun _ _ _ => rfl, fun _ _ => rfl, fun _ _ _ _ _ => rfl⟩

theorem fusionView_bump (s : State) (a n : Nat) : fusionView (s.bump a n) = fusionView s := rfl

theorem fusionView_modSess (s : State) (sid : Nat) (f : Session → Session) : fusionView (s.modSess sid f) = fusionView s := rfl

theorem fusionView_modInst (s : State) (ch i : Nat) (f : Inst → Inst) : fusionView (s.modInst ch i f) = fusionView s :=
  congrArg (fun v => (v, s.core.fus, s.core.map)) (solverView_modInst s ch i f)

theorem fusionView_modCtx (s : State) (sid : Nat) (f : SessCtx → SessCtx) : fusionView (s.modCtx sid f) = fusionView s := by
  refine congrArg (fun v => (v, s.core.fus, s.core.map)) (?_ : solverView (s.modCtx sid f) = solverView s)
  exact List.map_map

theorem fusionView_fuFaults (s : State) (ch i sid bad : Nat) (sat : Bool) : fusionView (s.fuFaults ch i sid bad sat) = fusionView s :=
  holds_ite (P := fun t => fusionView t = fusionView s)
    ((deaf_fusionView.err1 (fun _ _ => rfl) _ _ _ _ _ _).trans (fusionView_modInst (s.bump (chanCtr ch 34) bad) ch i _)) rfl

theorem worked_of_fusionView {s u : State} {ch i k : Nat} {x : Inst} {g : Slot} {t : GStep} (h : atWork s ch 4 7 = some (i, x, g, k, t))
    (hu : solverView u = solverView s) : ((chanAt (u.worked ch 4) ch).engines.getD 4 {}).worked = true := by
  obtain ⟨hrun, -, -, -⟩ := runningStep_facts (atWork_facts h).2.2
  obtain ⟨hch, he⟩ := engine_lt hrun
  exact worked_of_solverView hch he hu

/-- Faulty values are counted in a counter of their own. -/
theorem fuFaults_counted (s : State) (ch i sid bad : Nat) (sat : Bool) {a : Nat} (ha : a ≠ chanCtr ch 34) :
    Counted s a 0 (s.fuFaults ch i sid bad sat) := by
  have hbump : Counted s a 0 (s.bump (chanCtr ch 34) bad) := counted_bump_other s bad ha
  have herr (t : State) (ht : countersOf t = countersOf (s.bump (chanCtr ch 34) bad)) : Counted s a 0 t := by
    rw [Counted, show t.core.obs.counters = (s.bump (chanCtr ch 34) bad).core.obs.counters from ht]
    exact hbump
  unfold State.fuFaults
  exact holds_ite (P := fun t => Counted s a 0 t) (herr _ (deaf_countersOf.err1 (fun _ _ => rfl) _ _ _ _ _ _)) hbump

/-! ### PREDICT (R254 to R256) -/

theorem Written.of_view {s u v : State} {ch i : Nat} {y : Inst} (hu : Written s ch i y u) {f : Inst → Inst}
    (hv : engineView v = engineView (u.modInst ch i f)) : Written s ch i (f y) v := by
  obtain ⟨hinst, hinsts, hengines, hwait, hchans, hbeside⟩ := hu
  obtain ⟨hinst', hinsts', hengines', hwait', hchans', hbeside'⟩ := written_of_view hinst hv
  exact {
    inst := hinst', insts := fun j hj => (hinsts' j hj).trans (hinsts j hj), engines := hengines'.trans hengines
    waiting := hwait'.trans hwait, chans := fun c hc => (hchans' c hc).trans (hchans c hc), beside := hbeside'.trans hbeside }

theorem fuFaults_written {s u : State} {ch i : Nat} {y : Inst} (hu : Written s ch i y u) (sid bad : Nat) (sat : Bool) :
    ∃ z, Written s ch i z (u.fuFaults ch i sid bad sat) ∧ z.mem = y.mem := by
  cases sat with
  | true =>
    exact ⟨_, hu.of_view (f := fun x => { x with saturated := true }) (err1_engineView ((u.bump (chanCtr ch 34) bad).modInst ch i _) _ _ _ _ _), rfl⟩
  | false => exact ⟨y, ⟨hu.inst, hu.insts, hu.engines, hu.waiting, hu.chans, hu.beside⟩, rfl⟩

theorem flatMap_fst_map {α β γ : Type} (l : List α) (f : α → List β × γ) : (l.map f).flatMap (·.1) = (l.map (fun e => (f e).1)).flatten := by
  rw [List.flatMap_def, List.map_map]
  rfl

/-- What PREDICT puts into its three output ranges, and whether a value saturated. -/
def predictOuts (s : State) (x : Inst) (t : GStep) (v : View) (it : Item) (y : Session) : (List Byte × List Byte × List Byte) × Bool :=
  let c := x.peek.getD (workCtx s x)
  let at_ := toDt c.clock it.clientTime
  let pose := predictedPose c (if fieldAt t.param 1 1 == 1 then imusSince c y.se at_ else []) (bodyRate c (lastInertial y)) at_
  let before := c.solved.map (fun u => quatAt32 u.header 0x30)
  let feet := footprints pose v.bytes (NMap.getD s.core.fus.tracks (groupKey y) [])
  let tie (id : Nat) : Tie :=
    let e := NMap.getD y.ctx.ties id {}
    if s.core.map.inService then e else { e with point := none }
  let items := (stepItems x t).1
  let record (e : Nat × List Byte) : List Byte × Bool := predictionRecord v pose before feet.1 v.level e.2 (tiePoint y (tie e.1))
  let recs := (y.ctx.keypoints.take items).map record
  let table := (y.ctx.reference.take items).map (fun e => referenceEntry (tie e.1) (bit (fieldAt (record e).1 0xA 1) 2))
  ((recs.flatMap (·.1), table.flatten, if items = 0 then [] else feet.1), feet.2 || recs.any (·.2))

/-- An instance whose three output ranges are written. -/
def putThree (t : GStep) (o : List Byte × List Byte × List Byte) (x : Inst) : Inst :=
  ((x.put (t.outR 0) 0 o.1).put (t.outR 1) 0 o.2.1).put (t.outR 2) 0 o.2.2

theorem runPredict_eq {s : State} {x : Inst} {g : Slot} {v : View} {b n : Nat} {it : Item} {y : Session} (hv : viewOf s g x = some v)
    (hit : itemOf s x = some (b, n, it)) (hy : x.sid.bind (sessAt s) = some y) (ch i : Nat) (t : GStep) : s.runPredict ch i x g t =
      (s.modInst ch i (putThree t (predictOuts s x t v it y).1)).fuFaults ch i (x.sid.getD 0xFFFF) 0 (predictOuts s x t v it y).2 := by
  unfold State.runPredict
  rw [hv, hit, hy]
  rfl

theorem predict_works {s : State} {ch i k : Nat} {x : Inst} {g : Slot} {t : GStep} {v : View} {b n : Nat} {it : Item} {y : Session}
    (h : fuStep s ch 1 = some (i, x, g, k, t)) (hv : viewOf s g x = some v) (hit : itemOf s x = some (b, n, it))
    (hy : x.sid.bind (sessAt s) = some y) :
    ∃ u z, exec (.predict ch) s = .next u ∧ WorkDone s ch 4 i z u ∧ z.mem = (putThree t (predictOuts s x t v it y).1 x).mem := by
  have hw := atWork_of_fuStep h
  have hexec : exec (.predict ch) s = .next ((s.runPredict ch i x g t).worked ch 4) := by
    change execPredict ch s = _
    rw [execPredict, h]
  rw [runPredict_eq hv hit hy] at hexec
  generalize predictOuts s x t v it y = o at hexec ⊢
  obtain ⟨z, hz, hmem⟩ := fuFaults_written (written_of_view (inst_of_atWork hw) (f := putThree t o.1) rfl) (x.sid.getD 0xFFFF) 0 o.2
  exact ⟨_, z, hexec, workDone_worked hw hz, hmem⟩

/-! ### GRID (R272 to R277) -/

theorem follow_sid (p : Patch) (pos : List F64) : (p.follow pos).sid = p.sid := by
  unfold Patch.follow
  dsimp only
  split <;> rfl

theorem sweep_sid (p : Patch) (window : Nat) : (p.sweep window).sid = p.sid := by
  unfold Patch.sweep
  split <;> rfl

theorem take_sid (p : Patch) (window : Nat) (ls : List Lift) : (p.take window ls).1.sid = p.sid := by
  unfold Patch.take
  dsimp only
  exact List.foldlRecOn (motive := fun acc : Patch × List (Int × Int) × Bool => acc.1.sid = p.sid) _ _ rfl fun acc hacc _ _ => hacc

section Grid
variable {s : State} {ch i k sid : Nat} {x : Inst} {g : Slot} {t : GStep} {v : View} {y : Session} {sv : Solved}
  (hv : viewOf s g x = some v) (hsid : x.sid = some sid) (hy : sessAt s sid = some y) (hsv : (workCtx s x).solved = some sv)
include hv hsid hy hsv

theorem runGrid_full (hslot : gridSlot s sid = none) :
    ∃ bad, s.runGrid ch i x g t = (s.bump (chanCtr ch 28) 1).fuFaults ch i sid bad false := by
  unfold State.runGrid
  extract_lets c window planes map
  rw [hv, hsid, Option.bind_some, hy, show c.solved = some sv from hsv, Option.map_some]
  dsimp -zeta only
  extract_lets pos lw lh lifts bad fresh
  rw [hslot]
  exact ⟨bad, rfl⟩

theorem runGrid_takes {n : Nat} (hslot : gridSlot s sid = some n) : ∃ pt q, pt.sid = sid ∧ pt.touched = dtOf s ∧
    fusionView (s.runGrid ch i x g t) = (solverView s, { s.core.fus with patches := NMap.set s.core.fus.patches n pt, obsQ := q }, s.core.map) := by
  unfold State.runGrid
  extract_lets c window planes map fus
  rw [hv, hsid, Option.bind_some, hy, show c.solved = some sv from hsv, Option.map_some]
  dsimp -zeta only
  extract_lets pos lw lh lifts bad fresh
  rw [hslot]
  dsimp -zeta only
  extract_lets old r taken pt o b u₁ u₂
  have hold : old.sid = sid := by
    change (match NMap.get? s.core.fus.patches n with
      | some p => if p.sid == sid then p.follow pos else fresh
      | none => fresh).sid = sid
    split
    · next p _ =>
      split
      · next hp => exact (follow_sid p pos).trans (eq_of_beq hp)
      · rfl
    · rfl
  have hr : r = (old.sweep window).take window (lifts.flatMap (fun l => l.getD [])) := rfl
  have hpt : pt.sid = r.1.sid := rfl
  have htouched : pt.touched = dtOf s := rfl
  have hu₁ : fusionView u₁ = (solverView s, { s.core.fus with patches := NMap.set s.core.fus.patches n pt, obsQ := u₁.core.fus.obsQ }, s.core.map) := rfl
  have hu₂ : fusionView u₂ = fusionView u₁ := holds_ite (P := fun w => fusionView w = fusionView u₁) (fusionView_modInst u₁ ch i _) rfl
  clear_value u₂ u₁ o b pt taken r old lifts window
  refine ⟨pt, u₁.core.fus.obsQ, ?_, htouched, ?_⟩
  · rw [hpt, hr, take_sid, sweep_sid, hold]
  · rw [fusionView_fuFaults, fusionView_bump, hu₂, hu₁]

variable (h : fuStep s ch 2 = some (i, x, g, k, t))
include h

theorem grid_full (hslot : gridSlot s sid = none) : ∃ u, exec (.grid ch) s = .next u ∧ ((chanAt u ch).engines.getD 4 {}).worked = true ∧
    u.core.fus = s.core.fus ∧ Counted s (chanCtr ch 28) 1 u := by
  have hexec : exec (.grid ch) s = .next ((s.runGrid ch i x g t).worked ch 4) := by
    change execGrid ch s = _
    rw [execGrid, h]
  obtain ⟨bad, hgrid⟩ := runGrid_full (ch := ch) (i := i) (t := t) hv hsid hy hsv hslot
  rw [hgrid] at hexec
  have hview := fusionView_fuFaults (s.bump (chanCtr ch 28) 1) ch i sid bad false
  have hcount : Counted s (chanCtr ch 28) (1 + 0) ((s.bump (chanCtr ch 28) 1).fuFaults ch i sid bad false) :=
    (counted_bump s (chanCtr ch 28) 1).trans (fuFaults_counted _ ch i sid bad false (by unfold chanCtr; omega))
  generalize (s.bump (chanCtr ch 28) 1).fuFaults ch i sid bad false = u at hexec hview hcount
  exact ⟨_, hexec, worked_of_fusionView (atWork_of_fuStep h) (congrArg Prod.fst hview), congrArg (fun w => w.2.1) hview, hcount⟩

theorem grid_takes {n : Nat} (hslot : gridSlot s sid = some n) : ∃ u pt, exec (.grid ch) s = .next u ∧
    ((chanAt u ch).engines.getD 4 {}).worked = true ∧ NMap.get? u.core.fus.patches n = some pt ∧ pt.sid = sid ∧ pt.touched = dtOf s ∧
    (∀ m, m ≠ n → NMap.get? u.core.fus.patches m = NMap.get? s.core.fus.patches m) ∧ u.core.fus.tracks = s.core.fus.tracks := by
  have hexec : exec (.grid ch) s = .next ((s.runGrid ch i x g t).worked ch 4) := by
    change execGrid ch s = _
    rw [execGrid, h]
  obtain ⟨pt, q, hpt, htouched, hview⟩ := runGrid_takes (ch := ch) (i := i) (t := t) hv hsid hy hsv hslot
  generalize s.runGrid ch i x g t = u at hexec hview
  have hpatches : u.core.fus.patches = NMap.set s.core.fus.patches n pt := congrArg (fun w => w.2.1.patches) hview
  refine ⟨_, pt, hexec, worked_of_fusionView (atWork_of_fuStep h) (congrArg Prod.fst hview), ?_, hpt, htouched, fun m hm => ?_, ?_⟩
  · exact (congrArg (NMap.get? · n) hpatches).trans (NMap.get_set _ n pt)
  · exact (congrArg (NMap.get? · m) hpatches).trans (NMap.get_set_other _ n m pt hm)
  · exact congrArg (fun w => w.2.1.tracks) hview

end Grid

/-! ### RADIO (R257 to R261) -/

theorem fusionView_queueEstimate (s : State) (ch : Nat) (m : Sounding) (e : List Byte) : fusionView (s.queueEstimate ch m e) = fusionView s := by
  unfold State.queueEstimate
  split
  · rfl
  · extract_lets fresh late u₁ p r u₂
    split
    · exact fusionView_modCtx s m.sid _
    · have hu₁ : fusionView u₁ = fusionView s := holds_ite (P := fun w => fusionView w = fusionView s) (fusionView_modCtx s m.sid _) rfl
      split
      · exact hu₁
      · exact (holds_ite (P := fun w => fusionView w = fusionView u₁) rfl rfl : fusionView u₂ = fusionView u₁).trans hu₁

theorem fusionView_runRadio (s : State) (ch i : Nat) (x : Inst) (g : Slot) (t : GStep) : fusionView (s.runRadio ch i x g t) = fusionView s := by
  unfold State.runRadio
  extract_lets block m src all es sv old bound r new ref u₁ u₂ good u₃ u₄
  have hu₁ : fusionView u₁ = fusionView s := holds_ite (P := fun w => fusionView w = fusionView s) rfl rfl
  have hu₂ : fusionView u₂ = fusionView u₁ :=
    (fusionView_bump _ _ r.steps).trans ((fusionView_bump _ _ r.lost).trans (fusionView_bump u₁ _ (b2n new.isSome)))
  have hu₃ : fusionView u₃ = fusionView u₂ := fusionView_bump u₂ _ _
  have hu₄ : fusionView u₄ = fusionView u₃ :=
    foldl_unseen (F := fusionView) (f := fun w e => w.queueEstimate ch m e) (fun w e => fusionView_queueEstimate w ch m e) good u₃
  rw [fusionView_fuFaults, hu₄, hu₃, hu₂, hu₁]

theorem scuBumps_counted (s : State) (ch a b c : Nat) :
    Counted s (chanCtr ch 11) 0 (((s.bump (scuCtr 0) a).bump (scuCtr 1) b).bump (scuCtr 2) c) := by
  have hscu (w : State) (k n : Nat) (hk : k < 3) : Counted w (chanCtr ch 11) 0 (w.bump (scuCtr k) n) :=
    counted_bump_other w n (by unfold chanCtr scuCtr; omega)
  exact ((hscu s 0 a (by decide)).trans (hscu _ 1 b (by decide))).trans (hscu _ 2 c (by decide))

/-- Where no estimate stands, none is counted or queued. -/
theorem runRadio_none {s : State} {x : Inst} {t : GStep} (hnone : (stepItems x t).1 = 0) (ch i : Nat) (g : Slot) :
    Counted s (chanCtr ch 11) 0 (s.runRadio ch i x g t) ∧ (s.runRadio ch i x g t).core.work = s.core.work := by
  unfold State.runRadio
  extract_lets block m src all es sv old bound r new ref u₁ u₂ good u₃ u₄
  have hall : all = [] := by simp only [all, hnone, List.range_zero, List.map_nil]
  have hes : es = [] := by simp only [es, hall, List.filter_nil]
  have hgood : good = [] := by simp only [good, r, hes, List.foldl_nil, List.filter_nil]
  have hu₄ : u₄ = u₂.bump (chanCtr ch 11) 0 := by simp only [u₄, u₃, hgood, hall, List.foldl_nil, List.length_nil, Nat.sub_zero]
  have hu₁ : Counted s (chanCtr ch 11) 0 u₁ ∧ u₁.core.work = s.core.work :=
    holds_ite (P := fun w : State => Counted s (chanCtr ch 11) 0 w ∧ w.core.work = s.core.work) ⟨rfl, rfl⟩ ⟨rfl, rfl⟩
  have hu₂ : u₂ = ((u₁.bump (scuCtr 0) (b2n new.isSome)).bump (scuCtr 1) r.lost).bump (scuCtr 2) r.steps := rfl
  clear_value u₄ u₃ u₂ u₁ ref new good r all es
  subst hu₄ hgood hall hes
  replace hu₂ : Counted s (chanCtr ch 11) 0 u₂ ∧ u₂.core.work = s.core.work :=
    hu₂ ▸ ⟨hu₁.1.trans (scuBumps_counted u₁ ch (b2n new.isSome) r.lost r.steps), hu₁.2⟩
  exact ⟨(hu₂.1.trans (counted_bump u₂ (chanCtr ch 11) 0)).trans (fuFaults_counted _ ch i m.sid 0 false (by unfold chanCtr; omega)), hu₂.2⟩

theorem radio_works {s : State} {ch i k : Nat} {x : Inst} {g : Slot} {t : GStep} (h : fuStep s ch 3 = some (i, x, g, k, t)) :
    ∃ u, exec (.radio ch) s = .next u ∧ ((chanAt u ch).engines.getD 4 {}).worked = true ∧ u.core.fus = s.core.fus ∧ u.core.map = s.core.map ∧
      ((stepItems x t).1 = 0 → Counted s (chanCtr ch 11) 0 u ∧ u.core.work = s.core.work) := by
  have hexec : exec (.radio ch) s = .next ((s.runRadio ch i x g t).worked ch 4) := by
    change execRadio ch s = _
    rw [execRadio, h]
  have hview := fusionView_runRadio s ch i x g t
  have hnone := fun hz => runRadio_none (s := s) (x := x) (t := t) hz ch i g
  generalize s.runRadio ch i x g t = u at hexec hview hnone
  exact ⟨_, hexec, worked_of_fusionView (atWork_of_fuStep h) (congrArg Prod.fst hview), congrArg (fun w => w.2.1) hview,
    congrArg (fun w => w.2.2) hview, hnone⟩

/-! ### TRACKS (R278 to R285) -/

/-- A cycle's run over the first 64 batches of its group. -/
def cycleRun (s : State) (t : GStep) (key : Nat) : TrackRun :=
  ((NMap.getD s.core.fus.obsQ key []).take 64).foldl (trackBatch t.param (dtOf s)) (refreshTracks s key t.param (NMap.getD s.core.fus.tracks key []))

/-- The table and the queue that a cycle leaves, with its counts. -/
def cycleDone (s : State) (ch key : Nat) (q : List ObsBatch) (r : TrackRun) : State :=
  (((s.modFus (fun f => { f with
    tracks := NMap.set f.tracks key r.table
    obsQ := if q.length ≤ 64 then NMap.erase f.obsQ key else NMap.set f.obsQ key (q.drop 64) })).bump (chanCtr ch 31) (q.length - 64)).bump
      (chanCtr ch 32) r.seen).bump (chanCtr ch 33) r.full

theorem cycleDone_counted (s : State) (ch key : Nat) (q : List ObsBatch) (r : TrackRun) :
    Counted s (chanCtr ch 31) (q.length - 64) (cycleDone s ch key q r) ∧ Counted s (chanCtr ch 32) r.seen (cycleDone s ch key q r) ∧
      Counted s (chanCtr ch 33) r.full (cycleDone s ch key q r) := by
  unfold cycleDone
  generalize hu : s.modFus _ = u
  have hctr : u.core.obs.counters = s.core.obs.counters := by rw [← hu]; rfl
  have hother (w : State) (j k n : Nat) (hjk : j ≠ k) : Counted w (chanCtr ch j) 0 (w.bump (chanCtr ch k) n) :=
    counted_bump_other w n (by unfold chanCtr; omega)
  have h31 := ((counted_bump u (chanCtr ch 31) (q.length - 64)).trans (hother _ 31 32 r.seen (by decide))).trans (hother _ 31 33 r.full (by decide))
  have h32 := ((hother u 32 31 (q.length - 64) (by decide)).trans (counted_bump _ (chanCtr ch 32) r.seen)).trans (hother _ 32 33 r.full (by decide))
  have h33 := ((hother u 33 31 (q.length - 64) (by decide)).trans (hother _ 33 32 r.seen (by decide))).trans (counted_bump _ (chanCtr ch 33) r.full)
  simp only [Nat.add_zero, Nat.zero_add, Counted, hctr] at h31 h32 h33
  exact ⟨h31, h32, h33⟩

theorem tracks_works {s : State} {ch i k key : Nat} {x : Inst} {g : Slot} {t : GStep} (h : fuStep s ch 4 = some (i, x, g, k, t))
    (horigin : x.origin = .cycleTrack key) : ∃ u, exec (.tracks ch) s = .next u ∧ ((chanAt u ch).engines.getD 4 {}).worked = true ∧
      NMap.get? u.core.fus.tracks key = some (cycleRun s t key).table ∧
      (∀ m, m ≠ key → NMap.get? u.core.fus.tracks m = NMap.get? s.core.fus.tracks m) ∧ u.core.fus.patches = s.core.fus.patches ∧
      Counted s (chanCtr ch 31) ((NMap.getD s.core.fus.obsQ key []).length - 64) u ∧ Counted s (chanCtr ch 32) (cycleRun s t key).seen u ∧
      Counted s (chanCtr ch 33) (cycleRun s t key).full u := by
  generalize hr : cycleRun s t key = r
  generalize hq : NMap.getD s.core.fus.obsQ key [] = q
  have hexec : exec (.tracks ch) s = .next (((cycleDone s ch key q r).fuFaults ch i 0xFFFF r.bad r.sat).worked ch 4) := by
    change execTracks ch s = _
    rw [execTracks, h, ← hr, ← hq]
    refine congrArg (fun u : State => Host.Outcome.next (u.worked ch 4)) ?_
    rw [State.runTracks, horigin]
    rfl
  obtain ⟨h31, h32, h33⟩ := cycleDone_counted s ch key q r
  have htracks : (cycleDone s ch key q r).core.fus.tracks = NMap.set s.core.fus.tracks key r.table := rfl
  have hpatches : (cycleDone s ch key q r).core.fus.patches = s.core.fus.patches := rfl
  have hsolver : solverView (cycleDone s ch key q r) = solverView s := by
    rw [cycleDone, solverView_bump, solverView_bump, solverView_bump]
    rfl
  generalize cycleDone s ch key q r = u at hexec h31 h32 h33 htracks hpatches hsolver
  have hview := fusionView_fuFaults u ch i 0xFFFF r.bad r.sat
  have hfaults (j : Nat) (hj : j ≠ 34) := fuFaults_counted u ch i 0xFFFF r.bad r.sat (a := chanCtr ch j) (by unfold chanCtr; omega)
  have hc31 := h31.trans (hfaults 31 (by decide))
  have hc32 := h32.trans (hfaults 32 (by decide))
  have hc33 := h33.trans (hfaults 33 (by decide))
  generalize u.fuFaults ch i 0xFFFF r.bad r.sat = w at hexec hview hc31 hc32 hc33
  have htracks' : w.core.fus.tracks = NMap.set s.core.fus.tracks key r.table := (congrArg (fun w => w.2.1.tracks) hview :).trans htracks
  refine ⟨_, hexec, worked_of_fusionView (atWork_of_fuStep h) ((congrArg Prod.fst hview).trans hsolver), ?_, fun m hm => ?_, ?_, hc31, hc32, hc33⟩
  · exact (congrArg (NMap.get? · key) htracks').trans (NMap.get_set _ key r.table)
  · exact (congrArg (NMap.get? · m) htracks').trans (NMap.get_set_other _ key m r.table hm)
  · exact (congrArg (fun w => w.2.1.patches) hview :).trans hpatches

/-- Settles O48: the fusion unit's four operations leave their results in the instance, the patches, the tracks and the counters. -/
theorem fusionStepsRun : Obligations.FusionStepsRun := by
  intro s ch i k x g t
  refine ⟨?_, ?_, fun h => radio_works h, fun key h horigin => tracks_works h horigin⟩
  · intro v b n it y h hv hit hy c at_ pose before feet items tie record recs table
    obtain ⟨u, z, hexec, hdone, hmem⟩ := predict_works h hv hit hy
    have hrecs : (predictOuts s x t v it y).1.1 = recs.flatten := flatMap_fst_map _ _
    refine ⟨u, z, hexec, hdone, hmem.trans ?_⟩
    rw [putThree, hrecs]
    rfl
  · intro v sid y sv h hv hsid hy hsv
    exact ⟨grid_full hv hsid hy hsv h, fun n => grid_takes hv hsid hy hsv h⟩

end Sys2Proof.Machine
end
